-- ==== Sys2Proof/Word.lean ====
section
/-! DEFINITION. Machine words of the LM-9 and their plainest arithmetic (00 R4, R5, R9, R10). -/

namespace Sys2Proof

/-- A 64-bit register or message word. -/
abbrev Word := BitVec 64
abbrev Byte := BitVec 8
abbrev Half := BitVec 16
abbrev Word32 := BitVec 32
/-- An e register (07 R162). -/
abbrev ERow := BitVec 1024
/-- A p register: one bit for each byte lane of an e register (07 R162). -/
abbrev PRow := BitVec 128

/-- The low `n` bits of `v` sign-extended to 64 bits (00 R10, `sext`). -/
def sext (n : Nat) (v : Nat) : Word := (BitVec.ofNat n v).signExtend 64

/-- Bits `[lo + n - 1 : lo]` of a number. -/
def bits (v lo n : Nat) : Nat := (v >>> lo) % 2 ^ n

end Sys2Proof
end

