-- ==== Sys2Proof/Syntax.lean ====
section
/-! DEFINITION. The syntax of the machine: messages and flits (02 R35, 19 R426, R427) and the one
inductive of instructions and events, a constructor for each row of the opcode table. The fields of an
encoded form are its encoding fields (07 R171), at their own widths; an event carries the data that the
outside world, or the choice of what happens next, supplies. -/

namespace Sys2Proof

/-- The identity of a launch point, which travels outside a message's 64 bytes (02 R63, 12 R330). -/
structure LaunchId where
  num : Word32
  x : Half
  y : Half
  z : Half
  gx : Half
  gy : Half
  gz : Half
  extM : Word
  extN : Word
  extK : Word
  deriving DecidableEq, Repr, Inhabited

/-- Bytes granted with a message, with a poison mark for each 32-byte sector (02 R46, 04 R92). -/
structure Grant where
  bytes : List Byte
  poison : List Nat
  deriving DecidableEq, Repr, Inhabited

/-- A message of 64 bytes (02 R35): its eight words, a poison bit for each (18 R408), and what travels with it. -/
structure Msg where
  w0 : Word := 0
  w1 : Word := 0
  w2 : Word := 0
  w3 : Word := 0
  w4 : Word := 0
  w5 : Word := 0
  w6 : Word := 0
  w7 : Word := 0
  poison : BitVec 8 := 0
  launch : Option LaunchId := none
  grant : Option Grant := none
  /-- the phase epoch the message carries (13 R348) -/
  epoch : Word32 := 0
  deriving DecidableEq, Repr, Inhabited

/-- A sector of 32 bytes, or a part of one, that a write transaction carries (19 R427). -/
structure WSector where
  bytes : List Byte
  /-- a 256-bit mask of the bits written -/
  mask : BitVec 256
  poison : Bool
  deriving DecidableEq, Repr, Inhabited

/-- The transactions of data flits (19 R427). A source core is its location's package and core together (01 R16). -/
inductive Transaction where
  | write (addr : Nat) (key : Byte) (sectors : List WSector) (src seq : Nat)
  | readRequest (addr : Nat) (key : Byte) (len src seq : Nat)
  | readResponse (src seq : Nat) (bytes : List Byte) (poison : Bool)
  | atomic (addr : Nat) (key : Byte) (op : BitVec 3) (narrow : Bool) (operand compare : Word) (order : BitVec 2) (scope src seq : Nat)
  | atomicResponse (src seq : Nat) (old : Word)
  | ack (writes : List (Nat × Nat))
  | messages (ms : List Msg)
  | counterInc (name : Word) (counter : BitVec 6) (amount : Word32)
  | launchDone (name : Word) (counter : BitVec 6)
  | heartbeat (pkg : Nat) (time : Nat)
  /-- the answer, of the kind that answers the request, that no key is bound there (18 R420) -/
  | denied (kind src seq : Nat)
  /-- kinds 0 and 10 to 15, which are never sent -/
  | never
  deriving DecidableEq, Repr, Inhabited

/-- What a flit's plaintext holds. -/
inductive Plain where
  | zero
  | marker (slot : Bool)
  /-- for a package (19 R433), which the transaction's header names -/
  | data (src dst : Nat) (t : Transaction)
  deriving DecidableEq, Repr, Inhabited

/-- A flit (19 R426): the header's fields, the plaintext, and whether its tag verifies at the receiver. -/
structure Flit where
  seq : Half
  ack : Half
  nak : Half
  nakv : Bool
  slot : Bool
  type : BitVec 3
  plain : Plain
  authentic : Bool
  deriving DecidableEq, Repr, Inhabited

/-- How the bytes of an expert fetch came in (13 R354). -/
inductive FetchEnd where
  | complete | poisoned | unanswered
  deriving DecidableEq, Repr, Inhabited

/-- The cause of a class 12 error (18 R417). -/
inductive FatalCause where
  | rootLost | controllerFault | directoryLost (die : Nat)
  deriving DecidableEq, Repr, Inhabited

/-- A table that Calico's software writes (13 R346, R347). -/
inductive TableTarget where
  | entry (n : Nat) | model (n : Nat) | range (job : Half)
  deriving DecidableEq, Repr, Inhabited

/-- A register that has no row of its own in the opcode table (00 R7), written from outside the cores. -/
inductive HostReg where
  | rxqTail (part : Nat) | rxqPort (part : Nat) | rxqOverflow (part : Nat)
  | bootStatus (port : Nat)
  | linkCtl (link : Nat) | linkReadOnly (link offset : Nat)
  deriving DecidableEq, Repr, Inhabited

/-- Instructions and events, one constructor for each row of spec/opcode_table.json. -/
inductive Instr where
  /-- ADD (R194). -/
  | add (w : BitVec 1) (b : BitVec 5) (a : BitVec 5) (d : BitVec 5)
  /-- SUB (R194). -/
  | sub (w : BitVec 1) (b : BitVec 5) (a : BitVec 5) (d : BitVec 5)
  /-- AND (R194). -/
  | and (w : BitVec 1) (b : BitVec 5) (a : BitVec 5) (d : BitVec 5)
  /-- OR (R194). -/
  | or (w : BitVec 1) (b : BitVec 5) (a : BitVec 5) (d : BitVec 5)
  /-- XOR (R194). -/
  | xor (w : BitVec 1) (b : BitVec 5) (a : BitVec 5) (d : BitVec 5)
  /-- SHL (R161). -/
  | shl (w : BitVec 1) (b : BitVec 5) (a : BitVec 5) (d : BitVec 5)
  /-- SHR (R161). -/
  | shr (w : BitVec 1) (b : BitVec 5) (a : BitVec 5) (d : BitVec 5)
  /-- SRA (R161). -/
  | sra (w : BitVec 1) (b : BitVec 5) (a : BitVec 5) (d : BitVec 5)
  /-- MUL (R194). -/
  | mul (w : BitVec 1) (b : BitVec 5) (a : BitVec 5) (d : BitVec 5)
  /-- MULH (R194). -/
  | mulh (w : BitVec 1) (b : BitVec 5) (a : BitVec 5) (d : BitVec 5)
  /-- MULHN (R194). -/
  | mulhn (w : BitVec 1) (b : BitVec 5) (a : BitVec 5) (d : BitVec 5)
  /-- DIV (R160). -/
  | div (w : BitVec 1) (b : BitVec 5) (a : BitVec 5) (d : BitVec 5)
  /-- DIVN (R160). -/
  | divn (w : BitVec 1) (b : BitVec 5) (a : BitVec 5) (d : BitVec 5)
  /-- REM (R160). -/
  | rem (w : BitVec 1) (b : BitVec 5) (a : BitVec 5) (d : BitVec 5)
  /-- REMN (R160). -/
  | remn (w : BitVec 1) (b : BitVec 5) (a : BitVec 5) (d : BitVec 5)
  /-- MIN (R194). -/
  | min (w : BitVec 1) (b : BitVec 5) (a : BitVec 5) (d : BitVec 5)
  /-- MAX (R194). -/
  | max (w : BitVec 1) (b : BitVec 5) (a : BitVec 5) (d : BitVec 5)
  /-- MINN (R194). -/
  | minn (w : BitVec 1) (b : BitVec 5) (a : BitVec 5) (d : BitVec 5)
  /-- MAXN (R194). -/
  | maxn (w : BitVec 1) (b : BitVec 5) (a : BitVec 5) (d : BitVec 5)
  /-- SLT (R194). -/
  | slt (w : BitVec 1) (b : BitVec 5) (a : BitVec 5) (d : BitVec 5)
  /-- SLTN (R194). -/
  | sltn (w : BitVec 1) (b : BitVec 5) (a : BitVec 5) (d : BitVec 5)
  /-- SEQ (R194). -/
  | seq (w : BitVec 1) (b : BitVec 5) (a : BitVec 5) (d : BitVec 5)
  /-- CLZ (R194). -/
  | clz (w : BitVec 1) (a : BitVec 5) (d : BitVec 5)
  /-- CTZ (R194). -/
  | ctz (w : BitVec 1) (a : BitVec 5) (d : BitVec 5)
  /-- POPC (R194). -/
  | popc (w : BitVec 1) (a : BitVec 5) (d : BitVec 5)
  /-- ANDN (R194). -/
  | andn (w : BitVec 1) (b : BitVec 5) (a : BitVec 5) (d : BitVec 5)
  /-- BEXT (R195). -/
  | bext (w : BitVec 1) (b : BitVec 5) (a : BitVec 5) (d : BitVec 5)
  /-- BINS (R195). -/
  | bins (w : BitVec 1) (b : BitVec 5) (a : BitVec 5) (d : BitVec 5)
  /-- ADDI (R196). -/
  | addi (i : BitVec 12) (a : BitVec 5) (d : BitVec 5)
  /-- ANDI (R196). -/
  | andi (i : BitVec 12) (a : BitVec 5) (d : BitVec 5)
  /-- ORI (R196). -/
  | ori (i : BitVec 12) (a : BitVec 5) (d : BitVec 5)
  /-- XORI (R196). -/
  | xori (i : BitVec 12) (a : BitVec 5) (d : BitVec 5)
  /-- SHLI (R196). -/
  | shli (s : BitVec 6) (a : BitVec 5) (d : BitVec 5)
  /-- SHRI (R196). -/
  | shri (s : BitVec 6) (a : BitVec 5) (d : BitVec 5)
  /-- SRAI (R196). -/
  | srai (s : BitVec 6) (a : BitVec 5) (d : BitVec 5)
  /-- SLTI (R196). -/
  | slti (i : BitVec 12) (a : BitVec 5) (d : BitVec 5)
  /-- LIH (R197). -/
  | lih (i : BitVec 20) (d : BitVec 5)
  /-- ADDPC (R197). -/
  | addpc (i : BitVec 20) (d : BitVec 5)
  /-- LDB (R198). -/
  | ldb (i : BitVec 12) (a : BitVec 5) (d : BitVec 5)
  /-- LDH (R198). -/
  | ldh (i : BitVec 12) (a : BitVec 5) (d : BitVec 5)
  /-- LDW (R198). -/
  | ldw (i : BitVec 12) (a : BitVec 5) (d : BitVec 5)
  /-- LDD (R198). -/
  | ldd (i : BitVec 12) (a : BitVec 5) (d : BitVec 5)
  /-- LDBN (R198). -/
  | ldbn (i : BitVec 12) (a : BitVec 5) (d : BitVec 5)
  /-- LDHN (R198). -/
  | ldhn (i : BitVec 12) (a : BitVec 5) (d : BitVec 5)
  /-- LDWN (R198). -/
  | ldwn (i : BitVec 12) (a : BitVec 5) (d : BitVec 5)
  /-- STB (R198). -/
  | stb (i : BitVec 12) (a : BitVec 5) (d : BitVec 5)
  /-- STH (R198). -/
  | sth (i : BitVec 12) (a : BitVec 5) (d : BitVec 5)
  /-- STW (R198). -/
  | stw (i : BitVec 12) (a : BitVec 5) (d : BitVec 5)
  /-- STD (R198). -/
  | std (i : BitVec 12) (a : BitVec 5) (d : BitVec 5)
  /-- BEQ (R201). -/
  | beq (o : BitVec 12) (b : BitVec 5) (a : BitVec 5)
  /-- BNE (R201). -/
  | bne (o : BitVec 12) (b : BitVec 5) (a : BitVec 5)
  /-- BLT (R201). -/
  | blt (o : BitVec 12) (b : BitVec 5) (a : BitVec 5)
  /-- BGE (R201). -/
  | bge (o : BitVec 12) (b : BitVec 5) (a : BitVec 5)
  /-- BLTN (R201). -/
  | bltn (o : BitVec 12) (b : BitVec 5) (a : BitVec 5)
  /-- BGEN (R201). -/
  | bgen (o : BitVec 12) (b : BitVec 5) (a : BitVec 5)
  /-- BQT (R201). -/
  | bqt (o : BitVec 12)
  /-- BQF (R201). -/
  | bqf (o : BitVec 12)
  /-- JAL (R202). -/
  | jal (o : BitVec 20) (d : BitVec 5)
  /-- JALR (R202). -/
  | jalr (i : BitVec 12) (a : BitVec 5) (d : BitVec 5)
  /-- AMO_SWAP (R204). -/
  | amoSwap (w : BitVec 1) (s : BitVec 4) (o : BitVec 2) (b : BitVec 5) (a : BitVec 5) (d : BitVec 5)
  /-- AMO_ADD (R204). -/
  | amoAdd (w : BitVec 1) (s : BitVec 4) (o : BitVec 2) (b : BitVec 5) (a : BitVec 5) (d : BitVec 5)
  /-- AMO_AND (R204). -/
  | amoAnd (w : BitVec 1) (s : BitVec 4) (o : BitVec 2) (b : BitVec 5) (a : BitVec 5) (d : BitVec 5)
  /-- AMO_OR (R204). -/
  | amoOr (w : BitVec 1) (s : BitVec 4) (o : BitVec 2) (b : BitVec 5) (a : BitVec 5) (d : BitVec 5)
  /-- AMO_XOR (R204). -/
  | amoXor (w : BitVec 1) (s : BitVec 4) (o : BitVec 2) (b : BitVec 5) (a : BitVec 5) (d : BitVec 5)
  /-- AMO_MAX (R204). -/
  | amoMax (w : BitVec 1) (s : BitVec 4) (o : BitVec 2) (b : BitVec 5) (a : BitVec 5) (d : BitVec 5)
  /-- AMO_MIN (R204). -/
  | amoMin (w : BitVec 1) (s : BitVec 4) (o : BitVec 2) (b : BitVec 5) (a : BitVec 5) (d : BitVec 5)
  /-- AMO_CAS (R204). -/
  | amoCas (w : BitVec 1) (s : BitVec 4) (o : BitVec 2) (b : BitVec 5) (a : BitVec 5) (d : BitVec 5)
  /-- FENCE_REL (R129). -/
  | fenceRel (m : BitVec 16) (r : BitVec 1) (s : BitVec 4)
  /-- FENCE_ACQ (R130). -/
  | fenceAcq (m : BitVec 16) (r : BitVec 1) (s : BitVec 4)
  /-- FENCE_FULL (R131). -/
  | fenceFull (m : BitVec 16) (r : BitVec 1) (s : BitVec 4)
  /-- QFENCE (R125). -/
  | qfence (q : BitVec 7)
  /-- RDEF (R209). -/
  | rdef (b : BitVec 5) (a : BitVec 5) (d : BitVec 4)
  /-- HDEF (R210). -/
  | hdef (a : BitVec 5) (d : BitVec 4)
  /-- RCLR (R210). -/
  | rclr (d : BitVec 4)
  /-- LDAQ (R212). -/
  | ldaq (w : BitVec 1) (s : BitVec 4) (b : BitVec 5) (a : BitVec 5) (d : BitVec 5)
  /-- STRL (R212). -/
  | strl (w : BitVec 1) (s : BitVec 4) (b : BitVec 5) (a : BitVec 5) (d : BitVec 5)
  /-- RSTAT (R213). -/
  | rstat (a : BitVec 5) (d : BitVec 5)
  /-- QPUT (R225). -/
  | qput (a : BitVec 5) (q : BitVec 2)
  /-- QGET (R225). -/
  | qget (q : BitVec 1) (d : BitVec 5)
  /-- SCFG (R227). -/
  | scfg (s : BitVec 2)
  /-- SBIND (R229). -/
  | sbind (s : BitVec 2)
  /-- SUNB (R229). -/
  | sunb (s : BitVec 2)
  /-- SWAIT (R233). -/
  | swait (s : BitVec 2)
  /-- MFS (R214). -/
  | mfs (n : BitVec 12) (d : BitVec 5)
  /-- MTS (R214). -/
  | mts (n : BitVec 12) (a : BitVec 5)
  /-- LOX (R214). -/
  | lox (o : BitVec 3) (d : BitVec 5)
  /-- MOX (R214). -/
  | mox (o : BitVec 3) (a : BitVec 5)
  /-- SPAWN (R313). -/
  | spawn (t : BitVec 1) (a : BitVec 5) (d : BitVec 5)
  /-- KILL (R314). -/
  | kill (b : BitVec 5) (a : BitVec 5)
  /-- EXIT (R315). -/
  | exit (a : BitVec 5)
  /-- LINK (R316). -/
  | link (a : BitVec 5)
  /-- UNLINK (R316). -/
  | unlink (a : BitVec 5)
  /-- MON (R316). -/
  | mon (a : BitVec 5) (d : BitVec 5)
  /-- DEMON (R316). -/
  | demon (a : BitVec 5)
  /-- TRAPX (R316). -/
  | trapx (a : BitVec 5)
  /-- SUPV (R317). -/
  | supv (a : BitVec 5)
  /-- TIMER (R318). -/
  | timer (a : BitVec 5) (d : BitVec 5)
  /-- TCAN (R318). -/
  | tcan (a : BitVec 5) (d : BitVec 5)
  /-- COMMIT (R47). -/
  | commit
  /-- DONE (R52). -/
  | done
  /-- CANCEL (R62). -/
  | cancel (b : BitVec 5) (a : BitVec 5)
  /-- LVL (R321). -/
  | lvl (b : BitVec 5) (a : BitVec 5) (d : BitVec 5)
  /-- NAMEREG (R322). -/
  | namereg (a : BitVec 5) (d : BitVec 5)
  /-- WHERE (R323). -/
  | whereIs (a : BitVec 5) (d : BitVec 5)
  /-- PART (R324). -/
  | part (b : BitVec 5) (a : BitVec 5) (d : BitVec 5)
  /-- RNEW (R325). -/
  | rnew (n : BitVec 3)
  /-- SEND (R327). -/
  | send (s : BitVec 4) (a : BitVec 5)
  /-- SENDN (R330). -/
  | sendn (s : BitVec 4) (b : BitVec 5) (a : BitVec 5) (d : BitVec 5)
  /-- REPLY (R328). -/
  | reply (s : BitVec 4) (a : BitVec 5)
  /-- GIVE (R329). -/
  | give (s : BitVec 4) (m : BitVec 3) (a : BitVec 5) (n : BitVec 3)
  /-- SENDD (R334). -/
  | sendd (s : BitVec 4) (b : BitVec 5) (a : BitVec 5)
  /-- DEPSET (R335). -/
  | depset (b : BitVec 5) (a : BitVec 5)
  /-- DEPDEC (R335). -/
  | depdec (s : BitVec 4) (b : BitVec 5) (a : BitVec 5)
  /-- TLOAD (R294). -/
  | tload (q : BitVec 2) (b : BitVec 5) (a : BitVec 5) (d : BitVec 4)
  /-- TSTORE (R295). -/
  | tstore (q : BitVec 2) (b : BitVec 5) (a : BitVec 5) (d : BitVec 4)
  /-- PUSH (R298). -/
  | push (q : BitVec 3) (b : BitVec 5) (a : BitVec 5) (d : BitVec 4)
  /-- PUSHR (R299). -/
  | pushr (q : BitVec 3) (b : BitVec 5) (a : BitVec 5)
  /-- GATHER (R300). -/
  | gather (b : BitVec 5) (a : BitVec 5) (d : BitVec 4)
  /-- SCATTER (R300). -/
  | scatter (b : BitVec 5) (a : BitVec 5) (d : BitVec 4)
  /-- ARM (R297). -/
  | arm (a : BitVec 5) (d : BitVec 4)
  /-- DISARM (R297). -/
  | disarm (d : BitVec 4)
  /-- CSET (R306). -/
  | cset (h : BitVec 1) (a : BitVec 5) (c : BitVec 5)
  /-- CINC (R307). -/
  | cinc (h : BitVec 1) (s : BitVec 4) (b : BitVec 5) (a : BitVec 5) (c : BitVec 5)
  /-- CRD (R306). -/
  | crd (h : BitVec 1) (d : BitVec 5) (c : BitVec 5)
  /-- WAITC (R308). -/
  | waitc (h : BitVec 1) (s : BitVec 4) (b : BitVec 5) (a : BitVec 5) (c : BitVec 5)
  /-- WAITCT (R309). -/
  | waitct (h : BitVec 1) (s : BitVec 4) (d : BitVec 5) (a : BitVec 5) (c : BitVec 5)
  /-- CADDL (R306). -/
  | caddl (h : BitVec 1) (a : BitVec 5) (c : BitVec 5)
  /-- ROUTE (R340). -/
  | route (s : BitVec 4) (a : BitVec 5) (d : BitVec 5)
  /-- ERQ (R341). -/
  | erq (a : BitVec 5) (d : BitVec 5)
  /-- EPIN (R342). -/
  | epin (a : BitVec 5)
  /-- EUNPIN (R342). -/
  | eunpin (a : BitVec 5)
  /-- WSET (R356). -/
  | wset (a : BitVec 5)
  /-- ELOADC (R344). -/
  | eloadc (t : BitVec 1) (a : BitVec 5) (d : BitVec 5)
  /-- VADD (R245). -/
  | vadd (p : BitVec 1) (t : BitVec 4) (b : BitVec 5) (a : BitVec 5) (d : BitVec 5)
  /-- VSUB (R245). -/
  | vsub (p : BitVec 1) (t : BitVec 4) (b : BitVec 5) (a : BitVec 5) (d : BitVec 5)
  /-- VMUL (R245). -/
  | vmul (p : BitVec 1) (t : BitVec 4) (b : BitVec 5) (a : BitVec 5) (d : BitVec 5)
  /-- VFMA (R245). -/
  | vfma (p : BitVec 1) (t : BitVec 4) (b : BitVec 5) (a : BitVec 5) (d : BitVec 5)
  /-- VFMS (R245). -/
  | vfms (p : BitVec 1) (t : BitVec 4) (b : BitVec 5) (a : BitVec 5) (d : BitVec 5)
  /-- VMIN (R246). -/
  | vmin (p : BitVec 1) (t : BitVec 4) (b : BitVec 5) (a : BitVec 5) (d : BitVec 5)
  /-- VMAX (R246). -/
  | vmax (p : BitVec 1) (t : BitVec 4) (b : BitVec 5) (a : BitVec 5) (d : BitVec 5)
  /-- VABS (R245). -/
  | vabs (p : BitVec 1) (t : BitVec 4) (a : BitVec 5) (d : BitVec 5)
  /-- VNEG (R245). -/
  | vneg (p : BitVec 1) (t : BitVec 4) (a : BitVec 5) (d : BitVec 5)
  /-- VCMPEQ (R247). -/
  | vcmpeq (p : BitVec 1) (t : BitVec 4) (b : BitVec 5) (a : BitVec 5) (d : BitVec 3)
  /-- VCMPLT (R247). -/
  | vcmplt (p : BitVec 1) (t : BitVec 4) (b : BitVec 5) (a : BitVec 5) (d : BitVec 3)
  /-- VCMPLE (R247). -/
  | vcmple (p : BitVec 1) (t : BitVec 4) (b : BitVec 5) (a : BitVec 5) (d : BitVec 3)
  /-- VSEL (R248). -/
  | vsel (b : BitVec 5) (a : BitVec 5) (d : BitVec 5)
  /-- VSCALB (R245). -/
  | vscalb (p : BitVec 1) (t : BitVec 4) (b : BitVec 5) (a : BitVec 5) (d : BitVec 5)
  /-- VMAXM (R246). -/
  | vmaxm (p : BitVec 1) (t : BitVec 4) (b : BitVec 5) (a : BitVec 5) (d : BitVec 5)
  /-- VCLASS (R249). -/
  | vclass (p : BitVec 1) (t : BitVec 4) (a : BitVec 5) (d : BitVec 5)
  /-- VBCAST (R245). -/
  | vbcast (p : BitVec 1) (n : BitVec 5) (a : BitVec 5) (d : BitVec 5)
  /-- VMOV (R245). -/
  | vmov (p : BitVec 1) (a : BitVec 5) (d : BitVec 5)
  /-- VIADD (R250). -/
  | viadd (p : BitVec 1) (t : BitVec 4) (b : BitVec 5) (a : BitVec 5) (d : BitVec 5)
  /-- VISUB (R250). -/
  | visub (p : BitVec 1) (t : BitVec 4) (b : BitVec 5) (a : BitVec 5) (d : BitVec 5)
  /-- VIMUL (R250). -/
  | vimul (p : BitVec 1) (t : BitVec 4) (b : BitVec 5) (a : BitVec 5) (d : BitVec 5)
  /-- VIMULH (R250). -/
  | vimulh (p : BitVec 1) (t : BitVec 4) (b : BitVec 5) (a : BitVec 5) (d : BitVec 5)
  /-- VAND (R250). -/
  | vand (p : BitVec 1) (t : BitVec 4) (b : BitVec 5) (a : BitVec 5) (d : BitVec 5)
  /-- VOR (R250). -/
  | vor (p : BitVec 1) (t : BitVec 4) (b : BitVec 5) (a : BitVec 5) (d : BitVec 5)
  /-- VXOR (R250). -/
  | vxor (p : BitVec 1) (t : BitVec 4) (b : BitVec 5) (a : BitVec 5) (d : BitVec 5)
  /-- VSHL (R250). -/
  | vshl (p : BitVec 1) (t : BitVec 4) (b : BitVec 5) (a : BitVec 5) (d : BitVec 5)
  /-- VSHR (R250). -/
  | vshr (p : BitVec 1) (t : BitVec 4) (b : BitVec 5) (a : BitVec 5) (d : BitVec 5)
  /-- VSRA (R250). -/
  | vsra (p : BitVec 1) (t : BitVec 4) (b : BitVec 5) (a : BitVec 5) (d : BitVec 5)
  /-- VIMIN (R250). -/
  | vimin (p : BitVec 1) (t : BitVec 4) (b : BitVec 5) (a : BitVec 5) (d : BitVec 5)
  /-- VIMAX (R250). -/
  | vimax (p : BitVec 1) (t : BitVec 4) (b : BitVec 5) (a : BitVec 5) (d : BitVec 5)
  /-- VIMINN (R250). -/
  | viminn (p : BitVec 1) (t : BitVec 4) (b : BitVec 5) (a : BitVec 5) (d : BitVec 5)
  /-- VIMAXN (R250). -/
  | vimaxn (p : BitVec 1) (t : BitVec 4) (b : BitVec 5) (a : BitVec 5) (d : BitVec 5)
  /-- VICMPEQ (R250). -/
  | vicmpeq (p : BitVec 1) (t : BitVec 4) (b : BitVec 5) (a : BitVec 5) (d : BitVec 3)
  /-- VICMPLT (R250). -/
  | vicmplt (p : BitVec 1) (t : BitVec 4) (b : BitVec 5) (a : BitVec 5) (d : BitVec 3)
  /-- VPOPC (R250). -/
  | vpopc (p : BitVec 1) (t : BitVec 4) (a : BitVec 5) (d : BitVec 5)
  /-- VCLZ (R250). -/
  | vclz (p : BitVec 1) (t : BitVec 4) (a : BitVec 5) (d : BitVec 5)
  /-- VIADDS (R250). -/
  | viadds (p : BitVec 1) (t : BitVec 4) (b : BitVec 5) (a : BitVec 5) (d : BitVec 5)
  /-- VISUBS (R250). -/
  | visubs (p : BitVec 1) (t : BitVec 4) (b : BitVec 5) (a : BitVec 5) (d : BitVec 5)
  /-- VCVT (R251). -/
  | vcvt (p : BitVec 1) (t : BitVec 4) (r : BitVec 3) (a : BitVec 5) (d : BitVec 5)
  /-- VCVT_WIDE (R251). -/
  | vcvtWide (p : BitVec 1) (t : BitVec 4) (r : BitVec 3) (a : BitVec 5) (d : BitVec 5)
  /-- VCVTS (R252). -/
  | vcvts (p : BitVec 1) (t : BitVec 4) (b : BitVec 5) (a : BitVec 5) (d : BitVec 5)
  /-- VMXQ (R253). -/
  | vmxq (t : BitVec 4) (b : BitVec 5) (a : BitVec 5) (d : BitVec 5)
  /-- VMXD (R254). -/
  | vmxd (t : BitVec 4) (b : BitVec 5) (a : BitVec 5) (d : BitVec 5)
  /-- VPACK (R255). -/
  | vpack (p : BitVec 1) (t : BitVec 4) (a : BitVec 5) (d : BitVec 5)
  /-- VUNPK (R255). -/
  | vunpk (p : BitVec 1) (t : BitVec 4) (a : BitVec 5) (d : BitVec 5)
  /-- VEXP2 (R256). -/
  | vexp2 (p : BitVec 1) (t : BitVec 4) (a : BitVec 5) (d : BitVec 5)
  /-- VLOG2 (R256). -/
  | vlog2 (p : BitVec 1) (t : BitVec 4) (a : BitVec 5) (d : BitVec 5)
  /-- VRCP (R256). -/
  | vrcp (p : BitVec 1) (t : BitVec 4) (a : BitVec 5) (d : BitVec 5)
  /-- VRSQ (R256). -/
  | vrsq (p : BitVec 1) (t : BitVec 4) (a : BitVec 5) (d : BitVec 5)
  /-- VTANH (R256). -/
  | vtanh (p : BitVec 1) (t : BitVec 4) (a : BitVec 5) (d : BitVec 5)
  /-- VRSUM (R258). -/
  | vrsum (p : BitVec 1) (t : BitVec 4) (a : BitVec 5) (d : BitVec 5)
  /-- VRMAX (R258). -/
  | vrmax (p : BitVec 1) (t : BitVec 4) (a : BitVec 5) (d : BitVec 5)
  /-- VRMIN (R258). -/
  | vrmin (p : BitVec 1) (t : BitVec 4) (a : BitVec 5) (d : BitVec 5)
  /-- VPERM (R259). -/
  | vperm (p : BitVec 1) (t : BitVec 4) (b : BitVec 5) (a : BitVec 5) (d : BitVec 5)
  /-- VSHUF (R259). -/
  | vshuf (p : BitVec 1) (t : BitVec 4) (b : BitVec 5) (a : BitVec 5) (d : BitVec 5)
  /-- VSLIDE (R260). -/
  | vslide (p : BitVec 1) (s : BitVec 5) (a : BitVec 5) (d : BitVec 5)
  /-- VTOQ (R261). -/
  | vtoq (w : BitVec 4) (a : BitVec 5) (q : BitVec 1)
  /-- VFROMQ (R261). -/
  | vfromq (q : BitVec 2) (d : BitVec 5)
  /-- VFROMQ_WORD (R261). -/
  | vfromqWord (w : BitVec 4) (q : BitVec 2) (d : BitVec 5)
  /-- PAND (R262). -/
  | pand (b : BitVec 3) (a : BitVec 3) (d : BitVec 3)
  /-- POR (R262). -/
  | por (b : BitVec 3) (a : BitVec 3) (d : BitVec 3)
  /-- PNOT (R262). -/
  | pnot (a : BitVec 3) (d : BitVec 3)
  /-- PMOV (R262). -/
  | pmov (a : BitVec 3) (d : BitVec 3)
  /-- PTOBQ (R262). -/
  | ptobq (l : BitVec 1) (a : BitVec 3)
  /-- ELOOP (R237). -/
  | eloop (n : BitVec 11) (m : BitVec 5)
  /-- ELOOPQ (R237). -/
  | eloopq (q : BitVec 2) (m : BitVec 5)
  /-- EFLAGS (R239). -/
  | eflags (k : BitVec 5) (q : BitVec 1)
  /-- ERM (R239). -/
  | erm (e : BitVec 1) (r : BitVec 3)
  /-- MLDW (R270). -/
  | mldw (f : BitVec 5) (a : BitVec 5) (w : BitVec 1)
  /-- MMA (R271). -/
  | mma (f : BitVec 5) (w : BitVec 1) (a : BitVec 5) (d : BitVec 4)
  /-- MMAC (R272). -/
  | mmac (f : BitVec 5) (w : BitVec 1) (a : BitVec 5) (d : BitVec 4)
  /-- MZERO (R278). -/
  | mzero (d : BitVec 4)
  /-- MSTORE (R281). -/
  | mstore (f : BitVec 5) (a : BitVec 5) (d : BitVec 4)
  /-- MMAS (R276). -/
  | mmas (f : BitVec 5) (a : BitVec 5) (d : BitVec 4)
  /-- MTOPK (R283). -/
  | mtopk (b : BitVec 4) (a : BitVec 5) (d : BitVec 4)
  /-- MTKR (R284). -/
  | mtkr (a : BitVec 5) (d : BitVec 4)
  /-- MSCL (R279). -/
  | mscl (r : BitVec 1) (a : BitVec 5) (d : BitVec 4)
  /-- MSTAT (R285). -/
  | mstat (c : BitVec 1) (b : BitVec 4) (d : BitVec 5)
  /-- MCHK (R286). -/
  | mchk (d : BitVec 4)
  /-- MCORR (R287). -/
  | mcorr (d : BitVec 4)
  /-- MACC (R278). -/
  | macc (b : BitVec 4) (d : BitVec 4)
  /-- MLDA (R280). -/
  | mlda (f : BitVec 1) (a : BitVec 5) (d : BitVec 4)
  /-- FADD (R220). -/
  | fadd (r : BitVec 3) (b : BitVec 5) (a : BitVec 5) (d : BitVec 5)
  /-- FSUB (R220). -/
  | fsub (r : BitVec 3) (b : BitVec 5) (a : BitVec 5) (d : BitVec 5)
  /-- FMUL (R220). -/
  | fmul (r : BitVec 3) (b : BitVec 5) (a : BitVec 5) (d : BitVec 5)
  /-- FDIV (R220). -/
  | fdiv (r : BitVec 3) (b : BitVec 5) (a : BitVec 5) (d : BitVec 5)
  /-- FSQRT (R220). -/
  | fsqrt (r : BitVec 3) (a : BitVec 5) (d : BitVec 5)
  /-- FMIN (R221). -/
  | fmin (b : BitVec 5) (a : BitVec 5) (d : BitVec 5)
  /-- FMAX (R221). -/
  | fmax (b : BitVec 5) (a : BitVec 5) (d : BitVec 5)
  /-- FCMPLT (R221). -/
  | fcmplt (b : BitVec 5) (a : BitVec 5) (d : BitVec 5)
  /-- FCMPEQ (R221). -/
  | fcmpeq (b : BitVec 5) (a : BitVec 5) (d : BitVec 5)
  /-- FCVTI (R222). -/
  | fcvti (w : BitVec 1) (u : BitVec 1) (r : BitVec 3) (a : BitVec 5) (d : BitVec 5)
  /-- FCVTF (R222). -/
  | fcvtf (w : BitVec 1) (u : BitVec 1) (r : BitVec 3) (a : BitVec 5) (d : BitVec 5)
  /-- FFMA (R220). -/
  | ffma (r : BitVec 3) (b : BitVec 5) (a : BitVec 5) (d : BitVec 5)
  /-- TRAP (R223). -/
  | trap (b : BitVec 5) (a : BitVec 5)
  /-- UDF (R224). -/
  | udf (i : BitVec 5) (j : BitVec 15)
  /-- SINV (R376). -/
  | sinv (l : BitVec 1) (b : BitVec 5) (a : BitVec 5)
  /-- FRPLY (R377). -/
  | frply (b : BitVec 5) (a : BitVec 5)
  /-- INJ (R379). -/
  | inj (b : BitVec 5) (a : BitVec 5)
  /-- MFLIP (R380). -/
  | mflip (a : BitVec 5) (d : BitVec 5)
  /-- KEYREQ (R365). -/
  | keyreq (a : BitVec 5) (d : BitVec 5)
  /-- ATTEST (R367). -/
  | attest (a : BitVec 5) (d : BitVec 5)
  /-- PREEMPT_STOP (R373). -/
  | preemptStop (a : BitVec 5) (d : BitVec 5)
  /-- PREEMPT_RESUME (R373). -/
  | preemptResume (a : BitVec 5) (d : BitVec 5)
  /-- PREEMPT_CLEAR (R373). -/
  | preemptClear (a : BitVec 5) (d : BitVec 5)
  /-- HALT (R381). -/
  | halt (a : BitVec 5)
  /-- DLOGH (R378). -/
  | dlogh (a : BitVec 5)
  /-- C_MV (R175). -/
  | cMv (d : BitVec 5) (a : BitVec 5)
  /-- C_ADDI (R175). -/
  | cAddi (d : BitVec 5) (i : BitVec 6)
  /-- C_LDD (R175). -/
  | cLdd (d : BitVec 3) (a : BitVec 3) (o : BitVec 5)
  /-- C_STD (R175). -/
  | cStd (b : BitVec 3) (a : BitVec 3) (o : BitVec 5)
  /-- C_LDW (R175). -/
  | cLdw (d : BitVec 3) (a : BitVec 3) (o : BitVec 5)
  /-- C_STW (R175). -/
  | cStw (b : BitVec 3) (a : BitVec 3) (o : BitVec 5)
  /-- C_ADD (R175). -/
  | cAdd (d : BitVec 5) (a : BitVec 5)
  /-- C_SUB (R175). -/
  | cSub (d : BitVec 5) (a : BitVec 5)
  /-- C_J (R175). -/
  | cJ (o : BitVec 11)
  /-- C_BEQZ (R175). -/
  | cBeqz (a : BitVec 3) (o : BitVec 8)
  /-- C_BNEZ (R175). -/
  | cBnez (a : BitVec 3) (o : BitVec 8)
  /-- C_LI (R175). -/
  | cLi (d : BitVec 5) (i : BitVec 6)
  /-- C_SHLI (R175). -/
  | cShli (d : BitVec 5) (s : BitVec 6)
  /-- C_ANDI (R175). -/
  | cAndi (d : BitVec 5) (i : BitVec 6)
  /-- C_QPUT (R175). -/
  | cQput (q : BitVec 2) (a : BitVec 5)
  /-- C_QGET (R175). -/
  | cQget (d : BitVec 5) (q : BitVec 1)
  /-- C_SEND (R175). -/
  | cSend (a : BitVec 5) (s : BitVec 4)
  /-- C_DONE (R175). -/
  | cDone
  /-- C_COMMIT (R175). -/
  | cCommit
  /-- C_WAITC (R175). -/
  | cWaitc (c : BitVec 5) (a : BitVec 3) (s : BitVec 3)
  /-- C_CINC (R175). -/
  | cCinc (c : BitVec 5) (a : BitVec 3) (s : BitVec 3)
  /-- C_VFMA (R175). -/
  | cVfma (d : BitVec 4) (a : BitVec 4) (b : BitVec 3)
  /-- C_VMOV (R175). -/
  | cVmov (d : BitVec 5) (a : BitVec 5)
  /-- C_NOP (R175). -/
  | cNop
  /-- MESSAGE_ARRIVAL (R41), an event. -/
  | messageArrival (flight : Nat)
  /-- MAILBOX_REFILL (R43), an event. -/
  | mailboxRefill (core : Nat)
  /-- DISPATCH (R55), an event. -/
  | dispatch (core : Nat)
  /-- WATCHDOG_EXPIRY (R51), an event. -/
  | watchdogExpiry (aid : Nat)
  /-- POST_ACTIVATION_WAIT_EXPIRY (R451), an event. -/
  | postActivationWaitExpiry (op : Nat)
  /-- ACTOR_EXIT (R66), an event. -/
  | actorExit (name : Word)
  /-- EXIT_SIGNAL_ARRIVAL (R73), an event. -/
  | exitSignalArrival (flight : Nat)
  /-- RESTART_NOTICE (R80), an event. -/
  | restartNotice (flight : Nat)
  /-- RESTART_PLACEMENT (R84), an event. -/
  | restartPlacement (sup : Word) (child : Nat)
  /-- MIRROR_DIGEST_COMPARE (R86), an event. -/
  | mirrorDigestCompare (name : Word)
  /-- TIMEOUT (R318), an event. -/
  | timeout (name : Word) (ref : Word32)
  /-- WAITCT_LIMIT_EXPIRY (R309), an event. -/
  | waitctLimitExpiry (aid : Nat)
  /-- WAITC_MET (R308), an event. -/
  | waitcMet (aid : Nat)
  /-- ENGINE_ENTRY_PERFORM (R124), an event. -/
  | engineEntryPerform (core queue : Nat)
  /-- ENGINE_SECTOR_COMPLETE (R109), an event. -/
  | engineSectorComplete (core queue sector : Nat)
  /-- MMAC_GATE_MET (R272), an event. -/
  | mmacGateMet (core : Nat)
  /-- MMAS_RENDEZVOUS (R276), an event. -/
  | mmasRendezvous (die span tag : Nat)
  /-- PUSH_SECTOR_ARRIVAL (R298), an event. -/
  | pushSectorArrival (flight : Nat)
  /-- PUSHR_SECTOR_LANDING (R299), an event. -/
  | pushrSectorLanding (flight : Nat)
  /-- GLOBAL_CINC_ARRIVAL (R307), an event. -/
  | globalCincArrival (flight : Nat)
  /-- LAUNCH_COMPLETION (R332), an event. -/
  | launchCompletion (flight : Nat)
  /-- SFU_REQUEST_SERVICE (R257), an event. -/
  | sfuRequestService (cluster : Nat)
  /-- FAULTREPLY (R396), an event. -/
  | faultreply (flight : Nat)
  /-- DIRTY_LOG_MERGE (R399), an event. -/
  | dirtyLogMerge (core : Nat)
  /-- EXPERT_MESSAGE_ARRIVAL (R349), an event. -/
  | expertMessageArrival (flight : Nat)
  /-- REPLICA_COPY_COMPLETE (R355), an event. -/
  | replicaCopyComplete (entry set die : Nat)
  /-- EXPERT_FETCH_START (R354), an event. -/
  | expertFetchStart (die entry set : Nat)
  /-- EVICTION_COMPLETE (R349), an event. -/
  | evictionComplete (entry set : Nat)
  /-- EXPERT_FETCH_COMPLETE (R349), an event. -/
  | expertFetchComplete (entry set : Nat) (outcome : FetchEnd)
  /-- PARTITION_STOP_COMPLETE (R373), an event. -/
  | partitionStopComplete (part : Nat)
  /-- INSTALL_LINK_KEY (R429), an event. -/
  | installLinkKey
  /-- BIND_MEMORY_KEY (R420), an event. -/
  | bindMemoryKey
  /-- RETIRE_MEMORY_KEY (R420), an event. -/
  | retireMemoryKey
  /-- VERIFY_WEIGHT_SET_SIGNATURE (R357), an event. -/
  | verifyWeightSetSignature
  /-- SEAL_ATTESTATION_RECORD (R423), an event. -/
  | sealAttestationRecord
  /-- READ_IDENTITY (R365), an event. -/
  | readIdentity
  /-- APPEND_MEASUREMENT (R367), an event. -/
  | appendMeasurement
  /-- FLIP_REQUEST (R360), an event. -/
  | flipRequest (core : Nat)
  /-- PATROL_SCRUB_READ (R406), an event. -/
  | patrolScrubRead (die stack : Nat)
  /-- BRIDGE_HEARTBEAT_LOSS (R76), an event. -/
  | bridgeHeartbeatLoss (die : Nat)
  /-- PACKAGE_HEARTBEAT_LOSS (R434), an event. -/
  | packageHeartbeatLoss (pkg : Nat)
  /-- HEARTBEAT_SEND (R434), an event. -/
  | heartbeatSend (pkg : Nat)
  /-- REMOTE_REQUEST_TIMEOUT (R425), an event. -/
  | remoteRequestTimeout (req : Nat)
  /-- FLIT_TRANSMIT (R430), an event. -/
  | flitTransmit (link : Nat)
  /-- IDLE_FLIT_TIMER (R426), an event. -/
  | idleFlitTimer (link : Nat)
  /-- DATA_FLIT (R432), an event. -/
  | dataFlit (link : Nat) (f : Flit)
  /-- MARKER (R429), an event. -/
  | marker (link : Nat) (f : Flit)
  /-- CONTROL_FLIT (R432), an event. -/
  | controlFlit (link : Nat) (f : Flit)
  /-- IDLE_FLIT (R426), an event. -/
  | idleFlit (link : Nat) (f : Flit)
  /-- LINK_VERIFY_TIMEOUT (R433), an event. -/
  | linkVerifyTimeout (link : Nat)
  /-- LINK_THR_WRITE (R424), an event. -/
  | linkThrWrite (link : Nat) (v : Word)
  /-- LINK_RTO_WRITE (R425), an event. -/
  | linkRtoWrite (v : Word)
  /-- ERROR_LOG_HEAD_WRITE (R416), an event. -/
  | errorLogHeadWrite (die : Nat) (v : Word)
  /-- GATEWAY_SLOT_WRITE (R439), an event. -/
  | gatewaySlotWrite (page offset : Nat) (data : List Byte)
  /-- RXQ_BASE_WRITE (R440), an event. -/
  | rxqBaseWrite (part : Nat) (v : Word)
  /-- RXQ_SIZE_WRITE (R440), an event. -/
  | rxqSizeWrite (part : Nat) (v : Word)
  /-- RXQ_HEAD_WRITE (R440), an event. -/
  | rxqHeadWrite (part : Nat) (v : Word)
  /-- HOST_MESSAGE_DELIVERY (R440), an event. -/
  | hostMessageDelivery (flight : Nat)
  /-- CXL_MEM_ACCESS (R438), an event. -/
  | cxlMemAccess (port offset : Nat) (write : Option (List Byte))
  /-- UNSUPPORTED_REQUEST (R13), an event. -/
  | unsupportedRequest (port : Nat)
  /-- CONFIGURATION_REQUEST (R442), an event. -/
  | configurationRequest (port offset : Nat)
  /-- JOB_CTL_WRITE (R372), an event. -/
  | jobCtlWrite (v : Word)
  /-- P_WDOG_WRITE (R371), an event. -/
  | pWdogWrite (v : Word)
  /-- REGISTER_WRITE (R7), an event. -/
  | registerWrite (reg : HostReg) (v : Word)
  /-- BOOT_RETRY (R446), an event. -/
  | bootRetry (port : Nat) (v : Word32)
  /-- PWR_LIMIT_WRITE (R446), an event. -/
  | pwrLimitWrite (port : Nat) (v : Word32)
  /-- POWER_ON (R447), an event. -/
  | powerOn
  /-- PERST (R447), an event. -/
  | perst
  /-- FUNCTION_LEVEL_RESET (R447), an event. -/
  | functionLevelReset (port : Nat)
  /-- BOOT_PHASE_COMPLETE (R442), an event. -/
  | bootPhaseComplete (failed : Option Nat)
  /-- ROOT_READY (R442), an event. -/
  | rootReady
  /-- ROOT_READY_TIMEOUT (R442), an event. -/
  | rootReadyTimeout
  /-- OPERATING_POINT_CHANGE (R449), an event. -/
  | operatingPointChange (point : BitVec 2)
  /-- THERMAL_TRIP (R450), an event. -/
  | thermalTrip
  /-- THERMAL_RECOVERY (R450), an event. -/
  | thermalRecovery
  /-- FATAL_ERROR (R448), an event. -/
  | fatalError (cause : FatalCause)
  /-- LINK_TRAINING_COMPLETE (R433), an event. -/
  | linkTrainingComplete (link pkg : Nat) (txsalt rxsalt : Word32)
  /-- POWER_LOSS (R443), an event. -/
  | powerLoss
  /-- WRITE_PERFORMED (R117), an event. -/
  | writePerformed (write die : Nat)
  /-- EXPERT_TABLE_WRITE (R346), an event. -/
  | expertTableWrite (target : TableTarget) (data : List Word)
  /-- POOL_CREATION (R58), an event. -/
  | poolCreation (job : Half) (image : Word) (dies : BitVec 4)
  /-- ACTOR_RESTORE (R375), an event. -/
  | actorRestore (name : Word)
  /-- ROOT_ACTOR_PLACEMENT (R372), an event. -/
  | rootActorPlacement (job : Half) (image : Word)
  /-- ATTESTATION_RECORD_READ (R422), an event. -/
  | attestationRecordRead (job : Half)
  deriving DecidableEq, Repr

end Sys2Proof
end

