-- ==== Sys2Proof/WellFormed.lean ====
section
/-! DEFINITION. Which terms of the syntax are instructions: the checks of 07 R176 on field values, beside the
must-be-zero fields, which the decoder checks; and for events the numbers the package has (01 R14). -/

namespace Sys2Proof

/-- A scope code of 0 to 10 (05 R110, R111). -/
def scopeOk (s : BitVec 4) : Bool := s.toNat ≤ 10

/-- A rounding-mode field: 5 and 6 are no modes (06 R147). -/
def modeOk (r : BitVec 3) : Bool := r != 5 && r != 6

/-- Special registers an MFS or MTS may name: 08 R215, and 16 R370 for those of 0x800 and above. -/
def specialRegs : List Nat :=
  [0x000, 0x001, 0x002, 0x004, 0x005, 0x006, 0x007, 0x008, 0x009, 0x00A, 0x00B, 0x00C, 0x010, 0x011, 0x012, 0x013,
   0x014, 0x015, 0x018, 0x019, 0x01A, 0x01B, 0x01C, 0x01D, 0x01E, 0x01F] ++
  [0x800, 0x810, 0x811, 0x812, 0x813, 0x814, 0x815, 0x816, 0x817, 0x818, 0x819, 0x81A, 0x81B, 0x81C, 0x820, 0x821,
   0x822, 0x823, 0x830]

/-- The element width of a vector type (07 R174, 09 Conversion instructions); types 12 and 13 lie in bytes. -/
def typeWidth (t : Nat) : Nat :=
  match t with
  | 0 | 5 | 8 => 32
  | 1 | 2 | 6 | 9 => 16
  | 11 | 14 => 4
  | _ => 8

/-- A register group of the wide side of type `t` that starts at `e` stays within e31 (09 R240). -/
def groupOk (t : BitVec 4) (e : BitVec 5) : Bool := e.toNat + 32 / typeWidth t.toNat ≤ 32

/-- The types of VMXQ and VMXD (09 R253). -/
def mxTypeOk (t : BitVec 4) : Bool := [3, 4, 7, 11, 12, 13].contains t.toNat

/-- A core number of the package (01 R14, R15). -/
def coreOk (c : Nat) : Bool := c < 2048 && c / 8 % 64 < 48 && c % 8 < 5

/-- The field values of the term are ones the spec allows. -/
def WellFormed : Instr → Bool
  | .amoSwap _ s _ _ _ _ | .amoAdd _ s _ _ _ _ | .amoAnd _ s _ _ _ _ | .amoOr _ s _ _ _ _ | .amoXor _ s _ _ _ _
  | .amoMax _ s _ _ _ _ | .amoMin _ s _ _ _ _ | .amoCas _ s _ _ _ _ => scopeOk s
  | .fenceRel _ _ s | .fenceAcq _ _ s | .fenceFull _ _ s => scopeOk s
  | .ldaq _ s _ _ _ | .strl _ s _ _ _ => scopeOk s
  | .rstat a _ => a.toNat ≤ 16
  | .mfs n _ | .mts n _ => specialRegs.contains n.toNat
  | .send s _ | .reply s _ | .cSend _ s => scopeOk s
  | .sendn s _ _ _ => scopeOk s
  | .give s _ _ _ => scopeOk s
  | .sendd s _ _ | .depdec s _ _ => scopeOk s
  | .push q _ _ _ => q.toNat ≤ 3 || q == 6
  | .pushr q _ _ => q.toNat ≤ 3 || q == 6
  | .cinc _ s _ _ _ | .waitc _ s _ _ _ | .waitct _ s _ _ _ => scopeOk s
  | .route s _ _ => scopeOk s
  | .vadd _ t _ _ _ | .vsub _ t _ _ _ | .vmul _ t _ _ _ | .vfma _ t _ _ _ | .vfms _ t _ _ _ | .vmin _ t _ _ _
  | .vmax _ t _ _ _ | .vscalb _ t _ _ _ | .vmaxm _ t _ _ _ => t.toNat ≤ 4
  | .vabs _ t _ _ | .vneg _ t _ _ | .vclass _ t _ _ => t.toNat ≤ 4
  | .vcmpeq _ t _ _ _ | .vcmplt _ t _ _ _ | .vcmple _ t _ _ _ => t.toNat ≤ 4
  | .viadd _ t _ _ _ | .visub _ t _ _ _ | .vimul _ t _ _ _ | .vimulh _ t _ _ _ | .vand _ t _ _ _ | .vor _ t _ _ _
  | .vxor _ t _ _ _ | .vshl _ t _ _ _ | .vshr _ t _ _ _ | .vsra _ t _ _ _ | .vimin _ t _ _ _ | .vimax _ t _ _ _
  | .viminn _ t _ _ _ | .vimaxn _ t _ _ _ | .viadds _ t _ _ _ | .visubs _ t _ _ _ | .vperm _ t _ _ _
  | .vshuf _ t _ _ _ => 5 ≤ t.toNat && t.toNat ≤ 10
  | .vicmpeq _ t _ _ _ | .vicmplt _ t _ _ _ => 5 ≤ t.toNat && t.toNat ≤ 10
  | .vpopc _ t _ _ | .vclz _ t _ _ => 5 ≤ t.toNat && t.toNat ≤ 10
  | .vcvt _ t r a _ => t != 0 && t != 15 && modeOk r && groupOk t a
  | .vcvtWide _ t r _ d => t != 0 && t != 15 && modeOk r && groupOk t d
  | .vcvts _ t _ a _ => t != 0 && t != 15 && groupOk t a
  | .vmxq t b a d => mxTypeOk t && groupOk t a && d != b
  | .vmxd t _ _ d => mxTypeOk t && groupOk t d
  | .vpack _ t a _ => [6, 7, 9, 10, 14].contains t.toNat && groupOk t a
  | .vunpk _ t _ d => [6, 7, 9, 10, 14].contains t.toNat && groupOk t d
  | .vexp2 _ t _ _ | .vlog2 _ t _ _ | .vrcp _ t _ _ | .vrsq _ t _ _ | .vtanh _ t _ _ => t.toNat ≤ 2
  | .vrsum _ t _ _ | .vrmax _ t _ _ | .vrmin _ t _ _ => t.toNat ≤ 2 || (5 ≤ t.toNat && t.toNat ≤ 10)
  | .eloop _ m => 1 ≤ m.toNat && m.toNat ≤ 15
  | .eloopq _ m => 1 ≤ m.toNat && m.toNat ≤ 15
  | .erm e r => r.toNat ≤ 4 || (r == 7 && e == 0)
  | .mstore f _ _ => f.toNat ≤ 9
  | .fadd r _ _ _ | .fsub r _ _ _ | .fmul r _ _ _ | .fdiv r _ _ _ | .ffma r _ _ _ => modeOk r
  | .fsqrt r _ _ => modeOk r
  | .fcvti _ _ r _ _ | .fcvtf _ _ r _ _ => modeOk r
  | .sinv l b a => l == 0 || (b == 0 && a == 0)
  | .cMv d _ => d != 0
  | .cAddi d _ | .cLi d _ | .cShli d _ | .cAndi d _ => d != 0
  | .mailboxRefill c | .dispatch c | .dirtyLogMerge c | .mmacGateMet c | .flipRequest c => coreOk c
  | .engineEntryPerform c q => coreOk c && q < 7
  | .engineSectorComplete c q _ => coreOk c && q < 7
  | .mmasRendezvous die sp tag => die < 4 && sp < 12 && tag < 256
  | .sfuRequestService cl => cl < 256 && cl % 64 < 48
  | .replicaCopyComplete e set die => e < 65536 && set < 2 && die < 4
  | .expertFetchStart die e set => die < 4 && e < 65536 && set < 2
  | .evictionComplete e set => e < 65536 && set < 2
  | .expertFetchComplete e set _ => e < 65536 && set < 2
  | .partitionStopComplete p => p < 48
  | .patrolScrubRead d st => d < 4 && st < 3
  | .bridgeHeartbeatLoss d => d < 4
  | .packageHeartbeatLoss p | .heartbeatSend p => p < 4096
  | .flitTransmit l | .idleFlitTimer l | .linkVerifyTimeout l => l < 20
  | .dataFlit l _ | .marker l _ | .controlFlit l _ | .idleFlit l _ => l < 20
  | .linkThrWrite l _ => l < 20
  | .linkTrainingComplete l _ _ _ => l < 20
  | .errorLogHeadWrite d _ => d < 4
  | .rxqBaseWrite p _ | .rxqSizeWrite p _ | .rxqHeadWrite p _ => p < 48
  | .cxlMemAccess p _ _ | .configurationRequest p _ => p < 2
  | .unsupportedRequest p | .functionLevelReset p => p < 2
  | .bootRetry p _ | .pwrLimitWrite p _ => p < 2
  | .writePerformed _ d => d < 4
  | _ => true

end Sys2Proof
end

