-- ==== Sys2Proof/Decode.lean ====
section
/-! DEFINITION. The decoder and the encoder (07 R164 to R177). Bytes are taken little-endian, a halfword at a time; a
form is found by its major and minor, then its must-be-zero fields are checked, then its field values. Where a
definition says noncomputable, it is only that compiled code cannot build a constructor of an inductive this large; the
kernel evaluates it. -/

namespace Sys2Proof

/-- Why bytes are no instruction (07 R176); in the order of the checks of R177. `short` is what is left when the bytes
run out. -/
inductive Reject where
  | short | compressed | major | minor | field | value
  deriving DecidableEq, Repr

/-- The field of `len` bits of a word from bit `lo` up. -/
def fld {n : Nat} (w : BitVec n) (lo len : Nat) : BitVec len := w.extractLsb' lo len

/-- Two fields side by side, the first above the second, in a word of `k` bits. -/
def cat {m n : Nat} (k : Nat) (x : BitVec m) (y : BitVec n) : BitVec k := (x ++ y).setWidth k

/-- Major 0 (07 R173), R shape. -/
def parseMajor0 (w : BitVec 32) : Except Reject Instr :=
  match (fld w 22 5).toNat with
  | 0 => if fld w 28 4 = 0#4 then .ok (.add (fld w 27 1) (fld w 17 5) (fld w 12 5) (fld w 7 5))
    else .error .field
  | 1 => if fld w 28 4 = 0#4 then .ok (.sub (fld w 27 1) (fld w 17 5) (fld w 12 5) (fld w 7 5))
    else .error .field
  | 2 => if fld w 28 4 = 0#4 then .ok (.and (fld w 27 1) (fld w 17 5) (fld w 12 5) (fld w 7 5))
    else .error .field
  | 3 => if fld w 28 4 = 0#4 then .ok (.or (fld w 27 1) (fld w 17 5) (fld w 12 5) (fld w 7 5))
    else .error .field
  | 4 => if fld w 28 4 = 0#4 then .ok (.xor (fld w 27 1) (fld w 17 5) (fld w 12 5) (fld w 7 5))
    else .error .field
  | 5 => if fld w 28 4 = 0#4 then .ok (.shl (fld w 27 1) (fld w 17 5) (fld w 12 5) (fld w 7 5))
    else .error .field
  | 6 => if fld w 28 4 = 0#4 then .ok (.shr (fld w 27 1) (fld w 17 5) (fld w 12 5) (fld w 7 5))
    else .error .field
  | 7 => if fld w 28 4 = 0#4 then .ok (.sra (fld w 27 1) (fld w 17 5) (fld w 12 5) (fld w 7 5))
    else .error .field
  | 8 => if fld w 28 4 = 0#4 then .ok (.mul (fld w 27 1) (fld w 17 5) (fld w 12 5) (fld w 7 5))
    else .error .field
  | 9 => if fld w 28 4 = 0#4 then .ok (.mulh (fld w 27 1) (fld w 17 5) (fld w 12 5) (fld w 7 5))
    else .error .field
  | 10 => if fld w 28 4 = 0#4 then .ok (.mulhn (fld w 27 1) (fld w 17 5) (fld w 12 5) (fld w 7 5))
    else .error .field
  | 11 => if fld w 28 4 = 0#4 then .ok (.div (fld w 27 1) (fld w 17 5) (fld w 12 5) (fld w 7 5))
    else .error .field
  | 12 => if fld w 28 4 = 0#4 then .ok (.divn (fld w 27 1) (fld w 17 5) (fld w 12 5) (fld w 7 5))
    else .error .field
  | 13 => if fld w 28 4 = 0#4 then .ok (.rem (fld w 27 1) (fld w 17 5) (fld w 12 5) (fld w 7 5))
    else .error .field
  | 14 => if fld w 28 4 = 0#4 then .ok (.remn (fld w 27 1) (fld w 17 5) (fld w 12 5) (fld w 7 5))
    else .error .field
  | 15 => if fld w 28 4 = 0#4 then .ok (.min (fld w 27 1) (fld w 17 5) (fld w 12 5) (fld w 7 5))
    else .error .field
  | 16 => if fld w 28 4 = 0#4 then .ok (.max (fld w 27 1) (fld w 17 5) (fld w 12 5) (fld w 7 5))
    else .error .field
  | 17 => if fld w 28 4 = 0#4 then .ok (.minn (fld w 27 1) (fld w 17 5) (fld w 12 5) (fld w 7 5))
    else .error .field
  | 18 => if fld w 28 4 = 0#4 then .ok (.maxn (fld w 27 1) (fld w 17 5) (fld w 12 5) (fld w 7 5))
    else .error .field
  | 19 => if fld w 28 4 = 0#4 then .ok (.slt (fld w 27 1) (fld w 17 5) (fld w 12 5) (fld w 7 5))
    else .error .field
  | 20 => if fld w 28 4 = 0#4 then .ok (.sltn (fld w 27 1) (fld w 17 5) (fld w 12 5) (fld w 7 5))
    else .error .field
  | 21 => if fld w 28 4 = 0#4 then .ok (.seq (fld w 27 1) (fld w 17 5) (fld w 12 5) (fld w 7 5))
    else .error .field
  | 22 => if fld w 28 4 = 0#4 ∧ fld w 17 5 = 0#5 then .ok (.clz (fld w 27 1) (fld w 12 5) (fld w 7 5))
    else .error .field
  | 23 => if fld w 28 4 = 0#4 ∧ fld w 17 5 = 0#5 then .ok (.ctz (fld w 27 1) (fld w 12 5) (fld w 7 5))
    else .error .field
  | 24 => if fld w 28 4 = 0#4 ∧ fld w 17 5 = 0#5 then .ok (.popc (fld w 27 1) (fld w 12 5) (fld w 7 5))
    else .error .field
  | 25 => if fld w 28 4 = 0#4 then .ok (.andn (fld w 27 1) (fld w 17 5) (fld w 12 5) (fld w 7 5))
    else .error .field
  | 26 => if fld w 28 4 = 0#4 then .ok (.bext (fld w 27 1) (fld w 17 5) (fld w 12 5) (fld w 7 5))
    else .error .field
  | 27 => if fld w 28 4 = 0#4 then .ok (.bins (fld w 27 1) (fld w 17 5) (fld w 12 5) (fld w 7 5))
    else .error .field
  | _ => .error .minor

/-- Major 1 (07 R173), I shape. -/
def parseMajor1 (w : BitVec 32) : Except Reject Instr :=
  match (fld w 17 3).toNat with
  | 0 => .ok (.addi (fld w 20 12) (fld w 12 5) (fld w 7 5))
  | 1 => .ok (.andi (fld w 20 12) (fld w 12 5) (fld w 7 5))
  | 2 => .ok (.ori (fld w 20 12) (fld w 12 5) (fld w 7 5))
  | 3 => .ok (.xori (fld w 20 12) (fld w 12 5) (fld w 7 5))
  | 4 => if fld w 26 6 = 0#6 then .ok (.shli (fld w 20 6) (fld w 12 5) (fld w 7 5))
    else .error .field
  | 5 => if fld w 26 6 = 0#6 then .ok (.shri (fld w 20 6) (fld w 12 5) (fld w 7 5))
    else .error .field
  | 6 => if fld w 26 6 = 0#6 then .ok (.srai (fld w 20 6) (fld w 12 5) (fld w 7 5))
    else .error .field
  | _ => .ok (.slti (fld w 20 12) (fld w 12 5) (fld w 7 5))

/-- Major 2 (07 R173), U shape. -/
def parseMajor2 (w : BitVec 32) : Except Reject Instr :=
  .ok (.lih (fld w 12 20) (fld w 7 5))

/-- Major 3 (07 R173), U shape. -/
def parseMajor3 (w : BitVec 32) : Except Reject Instr :=
  .ok (.addpc (fld w 12 20) (fld w 7 5))

/-- Major 4 (07 R173), I shape. -/
def parseMajor4 (w : BitVec 32) : Except Reject Instr :=
  match (fld w 17 3).toNat with
  | 0 => .ok (.ldb (fld w 20 12) (fld w 12 5) (fld w 7 5))
  | 1 => .ok (.ldh (fld w 20 12) (fld w 12 5) (fld w 7 5))
  | 2 => .ok (.ldw (fld w 20 12) (fld w 12 5) (fld w 7 5))
  | 3 => .ok (.ldd (fld w 20 12) (fld w 12 5) (fld w 7 5))
  | 4 => .ok (.ldbn (fld w 20 12) (fld w 12 5) (fld w 7 5))
  | 5 => .ok (.ldhn (fld w 20 12) (fld w 12 5) (fld w 7 5))
  | 6 => .ok (.ldwn (fld w 20 12) (fld w 12 5) (fld w 7 5))
  | _ => .error .minor

/-- Major 5 (07 R173), I shape. -/
def parseMajor5 (w : BitVec 32) : Except Reject Instr :=
  match (fld w 17 3).toNat with
  | 0 => .ok (.stb (fld w 20 12) (fld w 12 5) (fld w 7 5))
  | 1 => .ok (.sth (fld w 20 12) (fld w 12 5) (fld w 7 5))
  | 2 => .ok (.stw (fld w 20 12) (fld w 12 5) (fld w 7 5))
  | 3 => .ok (.std (fld w 20 12) (fld w 12 5) (fld w 7 5))
  | _ => .error .minor

/-- Major 6 (07 R173), B shape. -/
def parseMajor6 (w : BitVec 32) : Except Reject Instr :=
  match (fld w 17 3).toNat with
  | 0 => .ok (.beq (fld w 20 12) (fld w 12 5) (fld w 7 5))
  | 1 => .ok (.bne (fld w 20 12) (fld w 12 5) (fld w 7 5))
  | 2 => .ok (.blt (fld w 20 12) (fld w 12 5) (fld w 7 5))
  | 3 => .ok (.bge (fld w 20 12) (fld w 12 5) (fld w 7 5))
  | 4 => .ok (.bltn (fld w 20 12) (fld w 12 5) (fld w 7 5))
  | 5 => .ok (.bgen (fld w 20 12) (fld w 12 5) (fld w 7 5))
  | 6 => if fld w 7 10 = 0#10 then .ok (.bqt (fld w 20 12))
    else .error .field
  | _ => if fld w 7 10 = 0#10 then .ok (.bqf (fld w 20 12))
    else .error .field

/-- Major 7 (07 R173), U shape. -/
def parseMajor7 (w : BitVec 32) : Except Reject Instr :=
  .ok (.jal (fld w 12 20) (fld w 7 5))

/-- Major 8 (07 R173), I shape. -/
def parseMajor8 (w : BitVec 32) : Except Reject Instr :=
  match (fld w 17 3).toNat with
  | 0 => .ok (.jalr (fld w 20 12) (fld w 12 5) (fld w 7 5))
  | _ => .error .minor

/-- Major 9 (07 R173), A shape. -/
def parseMajor9 (w : BitVec 32) : Except Reject Instr :=
  match (fld w 22 3).toNat with
  | 0 => .ok (.amoSwap (fld w 31 1) (fld w 27 4) (fld w 25 2) (fld w 17 5) (fld w 12 5) (fld w 7 5))
  | 1 => .ok (.amoAdd (fld w 31 1) (fld w 27 4) (fld w 25 2) (fld w 17 5) (fld w 12 5) (fld w 7 5))
  | 2 => .ok (.amoAnd (fld w 31 1) (fld w 27 4) (fld w 25 2) (fld w 17 5) (fld w 12 5) (fld w 7 5))
  | 3 => .ok (.amoOr (fld w 31 1) (fld w 27 4) (fld w 25 2) (fld w 17 5) (fld w 12 5) (fld w 7 5))
  | 4 => .ok (.amoXor (fld w 31 1) (fld w 27 4) (fld w 25 2) (fld w 17 5) (fld w 12 5) (fld w 7 5))
  | 5 => .ok (.amoMax (fld w 31 1) (fld w 27 4) (fld w 25 2) (fld w 17 5) (fld w 12 5) (fld w 7 5))
  | 6 => .ok (.amoMin (fld w 31 1) (fld w 27 4) (fld w 25 2) (fld w 17 5) (fld w 12 5) (fld w 7 5))
  | _ => .ok (.amoCas (fld w 31 1) (fld w 27 4) (fld w 25 2) (fld w 17 5) (fld w 12 5) (fld w 7 5))

/-- Major 10 (07 R173), F shape. -/
def parseMajor10 (w : BitVec 32) : Except Reject Instr :=
  match (fld w 11 2).toNat with
  | 0 => if fld w 30 2 = 0#2 then .ok (.fenceRel (fld w 14 16) (fld w 13 1) (fld w 7 4))
    else .error .field
  | 1 => if fld w 30 2 = 0#2 then .ok (.fenceAcq (fld w 14 16) (fld w 13 1) (fld w 7 4))
    else .error .field
  | 2 => if fld w 30 2 = 0#2 then .ok (.fenceFull (fld w 14 16) (fld w 13 1) (fld w 7 4))
    else .error .field
  | _ => if fld w 21 11 = 0#11 ∧ fld w 13 1 = 0#1 ∧ fld w 7 4 = 0#4 then .ok (.qfence (fld w 14 7))
    else .error .field

/-- Major 11 (07 R173), R shape. -/
def parseMajor11 (w : BitVec 32) : Except Reject Instr :=
  match (fld w 22 5).toNat with
  | 0 => if fld w 27 5 = 0#5 ∧ fld w 11 1 = 0#1 then .ok (.rdef (fld w 17 5) (fld w 12 5) (fld w 7 4))
    else .error .field
  | 1 => if fld w 27 5 = 0#5 ∧ fld w 17 5 = 0#5 ∧ fld w 11 1 = 0#1 then .ok (.hdef (fld w 12 5) (fld w 7 4))
    else .error .field
  | 2 => if fld w 27 5 = 0#5 ∧ fld w 11 11 = 0#11 then .ok (.rclr (fld w 7 4))
    else .error .field
  | 3 => .ok (.ldaq (fld w 31 1) (fld w 27 4) (fld w 17 5) (fld w 12 5) (fld w 7 5))
  | 4 => .ok (.strl (fld w 31 1) (fld w 27 4) (fld w 17 5) (fld w 12 5) (fld w 7 5))
  | 5 => if fld w 27 5 = 0#5 ∧ fld w 17 5 = 0#5 then .ok (.rstat (fld w 12 5) (fld w 7 5))
    else .error .field
  | _ => .error .minor

/-- Major 12 (07 R173), R shape. -/
def parseMajor12 (w : BitVec 32) : Except Reject Instr :=
  match (fld w 22 5).toNat with
  | 0 => if fld w 27 5 = 0#5 ∧ fld w 17 5 = 0#5 ∧ fld w 9 3 = 0#3 then .ok (.qput (fld w 12 5) (fld w 7 2))
    else .error .field
  | 1 => if fld w 27 5 = 0#5 ∧ fld w 13 9 = 2#9 then .ok (.qget (fld w 12 1) (fld w 7 5))
    else .error .field
  | 2 => if fld w 27 5 = 0#5 ∧ fld w 9 13 = 0#13 then .ok (.scfg (fld w 7 2))
    else .error .field
  | 3 => if fld w 27 5 = 0#5 ∧ fld w 9 13 = 0#13 then .ok (.sbind (fld w 7 2))
    else .error .field
  | 4 => if fld w 27 5 = 0#5 ∧ fld w 9 13 = 0#13 then .ok (.sunb (fld w 7 2))
    else .error .field
  | 5 => if fld w 27 5 = 0#5 ∧ fld w 9 13 = 0#13 then .ok (.swait (fld w 7 2))
    else .error .field
  | _ => .error .minor

/-- Major 13 (07 R173), I shape. -/
def parseMajor13 (w : BitVec 32) : Except Reject Instr :=
  match (fld w 17 3).toNat with
  | 0 => if fld w 12 5 = 0#5 then .ok (.mfs (fld w 20 12) (fld w 7 5))
    else .error .field
  | 1 => if fld w 7 5 = 0#5 then .ok (.mts (fld w 20 12) (fld w 12 5))
    else .error .field
  | 2 => if fld w 23 9 = 0#9 ∧ fld w 12 5 = 0#5 then .ok (.lox (fld w 20 3) (fld w 7 5))
    else .error .field
  | 3 => if fld w 23 9 = 0#9 ∧ fld w 7 5 = 0#5 then .ok (.mox (fld w 20 3) (fld w 12 5))
    else .error .field
  | _ => .error .minor

/-- Major 14 (07 R173), R shape. -/
def parseMajor14 (w : BitVec 32) : Except Reject Instr :=
  match (fld w 22 5).toNat with
  | 0 => if fld w 28 4 = 0#4 ∧ fld w 17 5 = 0#5 then .ok (.spawn (fld w 27 1) (fld w 12 5) (fld w 7 5))
    else .error .field
  | 1 => if fld w 27 5 = 0#5 ∧ fld w 7 5 = 0#5 then .ok (.kill (fld w 17 5) (fld w 12 5))
    else .error .field
  | 2 => if fld w 27 5 = 0#5 ∧ fld w 17 5 = 0#5 ∧ fld w 7 5 = 0#5 then .ok (.exit (fld w 12 5))
    else .error .field
  | 3 => if fld w 27 5 = 0#5 ∧ fld w 17 5 = 0#5 ∧ fld w 7 5 = 0#5 then .ok (.link (fld w 12 5))
    else .error .field
  | 4 => if fld w 27 5 = 0#5 ∧ fld w 17 5 = 0#5 ∧ fld w 7 5 = 0#5 then .ok (.unlink (fld w 12 5))
    else .error .field
  | 5 => if fld w 27 5 = 0#5 ∧ fld w 17 5 = 0#5 then .ok (.mon (fld w 12 5) (fld w 7 5))
    else .error .field
  | 6 => if fld w 27 5 = 0#5 ∧ fld w 17 5 = 0#5 ∧ fld w 7 5 = 0#5 then .ok (.demon (fld w 12 5))
    else .error .field
  | 7 => if fld w 27 5 = 0#5 ∧ fld w 17 5 = 0#5 ∧ fld w 7 5 = 0#5 then .ok (.trapx (fld w 12 5))
    else .error .field
  | 8 => if fld w 27 5 = 0#5 ∧ fld w 17 5 = 0#5 ∧ fld w 7 5 = 0#5 then .ok (.supv (fld w 12 5))
    else .error .field
  | 9 => if fld w 27 5 = 0#5 ∧ fld w 17 5 = 0#5 then .ok (.timer (fld w 12 5) (fld w 7 5))
    else .error .field
  | 10 => if fld w 27 5 = 0#5 ∧ fld w 17 5 = 0#5 then .ok (.tcan (fld w 12 5) (fld w 7 5))
    else .error .field
  | 11 => if fld w 27 5 = 0#5 ∧ fld w 7 15 = 0#15 then .ok (.commit)
    else .error .field
  | 12 => if fld w 27 5 = 0#5 ∧ fld w 7 15 = 0#15 then .ok (.done)
    else .error .field
  | 13 => if fld w 27 5 = 0#5 ∧ fld w 7 5 = 0#5 then .ok (.cancel (fld w 17 5) (fld w 12 5))
    else .error .field
  | 14 => if fld w 27 5 = 0#5 then .ok (.lvl (fld w 17 5) (fld w 12 5) (fld w 7 5))
    else .error .field
  | 15 => if fld w 27 5 = 0#5 ∧ fld w 17 5 = 0#5 then .ok (.namereg (fld w 12 5) (fld w 7 5))
    else .error .field
  | 16 => if fld w 27 5 = 0#5 ∧ fld w 17 5 = 0#5 then .ok (.whereIs (fld w 12 5) (fld w 7 5))
    else .error .field
  | 17 => if fld w 27 5 = 0#5 then .ok (.part (fld w 17 5) (fld w 12 5) (fld w 7 5))
    else .error .field
  | 18 => if fld w 27 5 = 0#5 ∧ fld w 10 12 = 0#12 then .ok (.rnew (fld w 7 3))
    else .error .field
  | _ => .error .minor

/-- Major 15 (07 R173), R shape. -/
def parseMajor15 (w : BitVec 32) : Except Reject Instr :=
  match (fld w 22 5).toNat with
  | 0 => if fld w 31 1 = 0#1 ∧ fld w 17 5 = 0#5 ∧ fld w 7 5 = 0#5 then .ok (.send (fld w 27 4) (fld w 12 5))
    else .error .field
  | 1 => if fld w 31 1 = 0#1 then .ok (.sendn (fld w 27 4) (fld w 17 5) (fld w 12 5) (fld w 7 5))
    else .error .field
  | 2 => if fld w 31 1 = 0#1 ∧ fld w 17 5 = 0#5 ∧ fld w 7 5 = 0#5 then .ok (.reply (fld w 27 4) (fld w 12 5))
    else .error .field
  | 3 => if fld w 31 1 = 0#1 ∧ fld w 20 2 = 0#2 ∧ fld w 10 2 = 0#2 then .ok (.give (fld w 27 4) (fld w 17 3) (fld w 12 5) (fld w 7 3))
    else .error .field
  | 4 => if fld w 31 1 = 0#1 ∧ fld w 7 5 = 0#5 then .ok (.sendd (fld w 27 4) (fld w 17 5) (fld w 12 5))
    else .error .field
  | 5 => if fld w 27 5 = 0#5 ∧ fld w 7 5 = 0#5 then .ok (.depset (fld w 17 5) (fld w 12 5))
    else .error .field
  | 6 => if fld w 31 1 = 0#1 ∧ fld w 7 5 = 0#5 then .ok (.depdec (fld w 27 4) (fld w 17 5) (fld w 12 5))
    else .error .field
  | _ => .error .minor

/-- Major 16 (07 R173), R shape. -/
def parseMajor16 (w : BitVec 32) : Except Reject Instr :=
  match (fld w 22 5).toNat with
  | 0 => if fld w 29 3 = 0#3 ∧ fld w 11 1 = 0#1 then .ok (.tload (fld w 27 2) (fld w 17 5) (fld w 12 5) (fld w 7 4))
    else .error .field
  | 1 => if fld w 29 3 = 0#3 ∧ fld w 11 1 = 0#1 then .ok (.tstore (fld w 27 2) (fld w 17 5) (fld w 12 5) (fld w 7 4))
    else .error .field
  | 2 => if fld w 30 2 = 0#2 ∧ fld w 11 1 = 0#1 then .ok (.push (fld w 27 3) (fld w 17 5) (fld w 12 5) (fld w 7 4))
    else .error .field
  | 3 => if fld w 30 2 = 0#2 ∧ fld w 7 5 = 0#5 then .ok (.pushr (fld w 27 3) (fld w 17 5) (fld w 12 5))
    else .error .field
  | 4 => if fld w 27 5 = 0#5 ∧ fld w 11 1 = 0#1 then .ok (.gather (fld w 17 5) (fld w 12 5) (fld w 7 4))
    else .error .field
  | 5 => if fld w 27 5 = 0#5 ∧ fld w 11 1 = 0#1 then .ok (.scatter (fld w 17 5) (fld w 12 5) (fld w 7 4))
    else .error .field
  | 6 => if fld w 27 5 = 0#5 ∧ fld w 17 5 = 0#5 ∧ fld w 11 1 = 0#1 then .ok (.arm (fld w 12 5) (fld w 7 4))
    else .error .field
  | 7 => if fld w 27 5 = 0#5 ∧ fld w 11 11 = 0#11 then .ok (.disarm (fld w 7 4))
    else .error .field
  | _ => .error .minor

/-- Major 17 (07 R173), R shape. -/
def parseMajor17 (w : BitVec 32) : Except Reject Instr :=
  match (fld w 22 5).toNat with
  | 0 => if fld w 27 4 = 0#4 ∧ fld w 17 5 = 0#5 then .ok (.cset (fld w 31 1) (fld w 12 5) (fld w 7 5))
    else .error .field
  | 1 => .ok (.cinc (fld w 31 1) (fld w 27 4) (fld w 17 5) (fld w 12 5) (fld w 7 5))
  | 2 => if fld w 27 4 = 0#4 ∧ fld w 12 5 = 0#5 then .ok (.crd (fld w 31 1) (fld w 17 5) (fld w 7 5))
    else .error .field
  | 3 => .ok (.waitc (fld w 31 1) (fld w 27 4) (fld w 17 5) (fld w 12 5) (fld w 7 5))
  | 4 => .ok (.waitct (fld w 31 1) (fld w 27 4) (fld w 17 5) (fld w 12 5) (fld w 7 5))
  | 5 => if fld w 27 4 = 0#4 ∧ fld w 17 5 = 0#5 then .ok (.caddl (fld w 31 1) (fld w 12 5) (fld w 7 5))
    else .error .field
  | _ => .error .minor

/-- Major 18 (07 R173), R shape. -/
def parseMajor18 (w : BitVec 32) : Except Reject Instr :=
  match (fld w 22 5).toNat with
  | 0 => if fld w 31 1 = 0#1 ∧ fld w 17 5 = 0#5 then .ok (.route (fld w 27 4) (fld w 12 5) (fld w 7 5))
    else .error .field
  | 1 => if fld w 27 5 = 0#5 ∧ fld w 17 5 = 0#5 then .ok (.erq (fld w 12 5) (fld w 7 5))
    else .error .field
  | 2 => if fld w 27 5 = 0#5 ∧ fld w 17 5 = 0#5 ∧ fld w 7 5 = 0#5 then .ok (.epin (fld w 12 5))
    else .error .field
  | 3 => if fld w 27 5 = 0#5 ∧ fld w 17 5 = 0#5 ∧ fld w 7 5 = 0#5 then .ok (.eunpin (fld w 12 5))
    else .error .field
  | 4 => if fld w 27 5 = 0#5 ∧ fld w 17 5 = 0#5 ∧ fld w 7 5 = 0#5 then .ok (.wset (fld w 12 5))
    else .error .field
  | 5 => if fld w 28 4 = 0#4 ∧ fld w 17 5 = 0#5 then .ok (.eloadc (fld w 27 1) (fld w 12 5) (fld w 7 5))
    else .error .field
  | _ => .error .minor

/-- Major 19 (07 R173), R shape. -/
def parseMajor19 (w : BitVec 32) : Except Reject Instr :=
  match (fld w 22 5).toNat with
  | 0 => .ok (.vadd (fld w 31 1) (fld w 27 4) (fld w 17 5) (fld w 12 5) (fld w 7 5))
  | 1 => .ok (.vsub (fld w 31 1) (fld w 27 4) (fld w 17 5) (fld w 12 5) (fld w 7 5))
  | 2 => .ok (.vmul (fld w 31 1) (fld w 27 4) (fld w 17 5) (fld w 12 5) (fld w 7 5))
  | 3 => .ok (.vfma (fld w 31 1) (fld w 27 4) (fld w 17 5) (fld w 12 5) (fld w 7 5))
  | 4 => .ok (.vfms (fld w 31 1) (fld w 27 4) (fld w 17 5) (fld w 12 5) (fld w 7 5))
  | 5 => .ok (.vmin (fld w 31 1) (fld w 27 4) (fld w 17 5) (fld w 12 5) (fld w 7 5))
  | 6 => .ok (.vmax (fld w 31 1) (fld w 27 4) (fld w 17 5) (fld w 12 5) (fld w 7 5))
  | 7 => if fld w 17 5 = 0#5 then .ok (.vabs (fld w 31 1) (fld w 27 4) (fld w 12 5) (fld w 7 5))
    else .error .field
  | 8 => if fld w 17 5 = 0#5 then .ok (.vneg (fld w 31 1) (fld w 27 4) (fld w 12 5) (fld w 7 5))
    else .error .field
  | 9 => if fld w 10 2 = 0#2 then .ok (.vcmpeq (fld w 31 1) (fld w 27 4) (fld w 17 5) (fld w 12 5) (fld w 7 3))
    else .error .field
  | 10 => if fld w 10 2 = 0#2 then .ok (.vcmplt (fld w 31 1) (fld w 27 4) (fld w 17 5) (fld w 12 5) (fld w 7 3))
    else .error .field
  | 11 => if fld w 10 2 = 0#2 then .ok (.vcmple (fld w 31 1) (fld w 27 4) (fld w 17 5) (fld w 12 5) (fld w 7 3))
    else .error .field
  | 12 => if fld w 27 5 = 0#5 then .ok (.vsel (fld w 17 5) (fld w 12 5) (fld w 7 5))
    else .error .field
  | 13 => .ok (.vscalb (fld w 31 1) (fld w 27 4) (fld w 17 5) (fld w 12 5) (fld w 7 5))
  | 14 => .ok (.vmaxm (fld w 31 1) (fld w 27 4) (fld w 17 5) (fld w 12 5) (fld w 7 5))
  | 15 => if fld w 17 5 = 0#5 then .ok (.vclass (fld w 31 1) (fld w 27 4) (fld w 12 5) (fld w 7 5))
    else .error .field
  | 16 => if fld w 27 4 = 0#4 then .ok (.vbcast (fld w 31 1) (fld w 17 5) (fld w 12 5) (fld w 7 5))
    else .error .field
  | 17 => if fld w 27 4 = 0#4 ∧ fld w 17 5 = 0#5 then .ok (.vmov (fld w 31 1) (fld w 12 5) (fld w 7 5))
    else .error .field
  | _ => .error .minor

/-- Major 20 (07 R173), R shape. -/
def parseMajor20 (w : BitVec 32) : Except Reject Instr :=
  match (fld w 22 5).toNat with
  | 0 => .ok (.viadd (fld w 31 1) (fld w 27 4) (fld w 17 5) (fld w 12 5) (fld w 7 5))
  | 1 => .ok (.visub (fld w 31 1) (fld w 27 4) (fld w 17 5) (fld w 12 5) (fld w 7 5))
  | 2 => .ok (.vimul (fld w 31 1) (fld w 27 4) (fld w 17 5) (fld w 12 5) (fld w 7 5))
  | 3 => .ok (.vimulh (fld w 31 1) (fld w 27 4) (fld w 17 5) (fld w 12 5) (fld w 7 5))
  | 4 => .ok (.vand (fld w 31 1) (fld w 27 4) (fld w 17 5) (fld w 12 5) (fld w 7 5))
  | 5 => .ok (.vor (fld w 31 1) (fld w 27 4) (fld w 17 5) (fld w 12 5) (fld w 7 5))
  | 6 => .ok (.vxor (fld w 31 1) (fld w 27 4) (fld w 17 5) (fld w 12 5) (fld w 7 5))
  | 7 => .ok (.vshl (fld w 31 1) (fld w 27 4) (fld w 17 5) (fld w 12 5) (fld w 7 5))
  | 8 => .ok (.vshr (fld w 31 1) (fld w 27 4) (fld w 17 5) (fld w 12 5) (fld w 7 5))
  | 9 => .ok (.vsra (fld w 31 1) (fld w 27 4) (fld w 17 5) (fld w 12 5) (fld w 7 5))
  | 10 => .ok (.vimin (fld w 31 1) (fld w 27 4) (fld w 17 5) (fld w 12 5) (fld w 7 5))
  | 11 => .ok (.vimax (fld w 31 1) (fld w 27 4) (fld w 17 5) (fld w 12 5) (fld w 7 5))
  | 12 => .ok (.viminn (fld w 31 1) (fld w 27 4) (fld w 17 5) (fld w 12 5) (fld w 7 5))
  | 13 => .ok (.vimaxn (fld w 31 1) (fld w 27 4) (fld w 17 5) (fld w 12 5) (fld w 7 5))
  | 14 => if fld w 10 2 = 0#2 then .ok (.vicmpeq (fld w 31 1) (fld w 27 4) (fld w 17 5) (fld w 12 5) (fld w 7 3))
    else .error .field
  | 15 => if fld w 10 2 = 0#2 then .ok (.vicmplt (fld w 31 1) (fld w 27 4) (fld w 17 5) (fld w 12 5) (fld w 7 3))
    else .error .field
  | 16 => if fld w 17 5 = 0#5 then .ok (.vpopc (fld w 31 1) (fld w 27 4) (fld w 12 5) (fld w 7 5))
    else .error .field
  | 17 => if fld w 17 5 = 0#5 then .ok (.vclz (fld w 31 1) (fld w 27 4) (fld w 12 5) (fld w 7 5))
    else .error .field
  | 18 => .ok (.viadds (fld w 31 1) (fld w 27 4) (fld w 17 5) (fld w 12 5) (fld w 7 5))
  | 19 => .ok (.visubs (fld w 31 1) (fld w 27 4) (fld w 17 5) (fld w 12 5) (fld w 7 5))
  | _ => .error .minor

/-- Major 21 (07 R173), R shape. -/
def parseMajor21 (w : BitVec 32) : Except Reject Instr :=
  match (fld w 22 5).toNat with
  | 0 => if fld w 20 2 = 0#2 then .ok (.vcvt (fld w 31 1) (fld w 27 4) (fld w 17 3) (fld w 12 5) (fld w 7 5))
    else if fld w 20 2 = 2#2 then .ok (.vcvtWide (fld w 31 1) (fld w 27 4) (fld w 17 3) (fld w 12 5) (fld w 7 5))
    else .error .field
  | 1 => .ok (.vcvts (fld w 31 1) (fld w 27 4) (fld w 17 5) (fld w 12 5) (fld w 7 5))
  | 2 => if fld w 31 1 = 0#1 then .ok (.vmxq (fld w 27 4) (fld w 17 5) (fld w 12 5) (fld w 7 5))
    else .error .field
  | 3 => if fld w 31 1 = 0#1 then .ok (.vmxd (fld w 27 4) (fld w 17 5) (fld w 12 5) (fld w 7 5))
    else .error .field
  | 4 => if fld w 17 5 = 0#5 then .ok (.vpack (fld w 31 1) (fld w 27 4) (fld w 12 5) (fld w 7 5))
    else .error .field
  | 5 => if fld w 17 5 = 0#5 then .ok (.vunpk (fld w 31 1) (fld w 27 4) (fld w 12 5) (fld w 7 5))
    else .error .field
  | _ => .error .minor

/-- Major 22 (07 R173), R shape. -/
def parseMajor22 (w : BitVec 32) : Except Reject Instr :=
  match (fld w 22 5).toNat with
  | 0 => if fld w 17 5 = 0#5 then .ok (.vexp2 (fld w 31 1) (fld w 27 4) (fld w 12 5) (fld w 7 5))
    else .error .field
  | 1 => if fld w 17 5 = 0#5 then .ok (.vlog2 (fld w 31 1) (fld w 27 4) (fld w 12 5) (fld w 7 5))
    else .error .field
  | 2 => if fld w 17 5 = 0#5 then .ok (.vrcp (fld w 31 1) (fld w 27 4) (fld w 12 5) (fld w 7 5))
    else .error .field
  | 3 => if fld w 17 5 = 0#5 then .ok (.vrsq (fld w 31 1) (fld w 27 4) (fld w 12 5) (fld w 7 5))
    else .error .field
  | 4 => if fld w 17 5 = 0#5 then .ok (.vtanh (fld w 31 1) (fld w 27 4) (fld w 12 5) (fld w 7 5))
    else .error .field
  | 5 => if fld w 17 5 = 0#5 then .ok (.vrsum (fld w 31 1) (fld w 27 4) (fld w 12 5) (fld w 7 5))
    else .error .field
  | 6 => if fld w 17 5 = 0#5 then .ok (.vrmax (fld w 31 1) (fld w 27 4) (fld w 12 5) (fld w 7 5))
    else .error .field
  | 7 => if fld w 17 5 = 0#5 then .ok (.vrmin (fld w 31 1) (fld w 27 4) (fld w 12 5) (fld w 7 5))
    else .error .field
  | 8 => .ok (.vperm (fld w 31 1) (fld w 27 4) (fld w 17 5) (fld w 12 5) (fld w 7 5))
  | 9 => .ok (.vshuf (fld w 31 1) (fld w 27 4) (fld w 17 5) (fld w 12 5) (fld w 7 5))
  | 10 => if fld w 27 4 = 0#4 then .ok (.vslide (fld w 31 1) (fld w 17 5) (fld w 12 5) (fld w 7 5))
    else .error .field
  | 11 => if fld w 27 5 = 0#5 ∧ fld w 21 1 = 0#1 ∧ fld w 8 4 = 2#4 then .ok (.vtoq (fld w 17 4) (fld w 12 5) (fld w 7 1))
    else .error .field
  | 12 => if fld w 27 5 = 0#5 ∧ fld w 14 8 = 128#8 then .ok (.vfromq (fld w 12 2) (fld w 7 5))
    else if fld w 27 5 = 0#5 ∧ fld w 21 1 = 0#1 ∧ fld w 14 3 = 0#3 then .ok (.vfromqWord (fld w 17 4) (fld w 12 2) (fld w 7 5))
    else .error .field
  | 13 => if fld w 27 5 = 0#5 ∧ fld w 20 2 = 0#2 ∧ fld w 15 2 = 0#2 ∧ fld w 10 2 = 0#2 then .ok (.pand (fld w 17 3) (fld w 12 3) (fld w 7 3))
    else .error .field
  | 14 => if fld w 27 5 = 0#5 ∧ fld w 20 2 = 0#2 ∧ fld w 15 2 = 0#2 ∧ fld w 10 2 = 0#2 then .ok (.por (fld w 17 3) (fld w 12 3) (fld w 7 3))
    else .error .field
  | 15 => if fld w 27 5 = 0#5 ∧ fld w 15 7 = 0#7 ∧ fld w 10 2 = 0#2 then .ok (.pnot (fld w 12 3) (fld w 7 3))
    else .error .field
  | 16 => if fld w 27 5 = 0#5 ∧ fld w 15 7 = 0#7 ∧ fld w 10 2 = 0#2 then .ok (.pmov (fld w 12 3) (fld w 7 3))
    else .error .field
  | 17 => if fld w 27 5 = 0#5 ∧ fld w 18 4 = 0#4 ∧ fld w 15 2 = 0#2 ∧ fld w 7 5 = 0#5 then .ok (.ptobq (fld w 17 1) (fld w 12 3))
    else .error .field
  | _ => .error .minor

/-- Major 23 (07 R173), I shape. -/
def parseMajor23 (w : BitVec 32) : Except Reject Instr :=
  match (fld w 17 3).toNat with
  | 0 => if fld w 31 1 = 0#1 ∧ fld w 12 5 = 0#5 then .ok (.eloop (fld w 20 11) (fld w 7 5))
    else .error .field
  | 1 => if fld w 20 12 = 0#12 ∧ fld w 14 3 = 0#3 then .ok (.eloopq (fld w 12 2) (fld w 7 5))
    else .error .field
  | 2 => if fld w 25 7 = 0#7 ∧ fld w 8 9 = 2#9 then .ok (.eflags (fld w 20 5) (fld w 7 1))
    else .error .field
  | 3 => if fld w 24 8 = 0#8 ∧ fld w 7 10 = 0#10 then .ok (.erm (fld w 23 1) (fld w 20 3))
    else .error .field
  | _ => .error .minor

/-- Major 24 (07 R173), R shape. -/
def parseMajor24 (w : BitVec 32) : Except Reject Instr :=
  match (fld w 22 5).toNat with
  | 0 => if fld w 17 5 = 0#5 ∧ fld w 8 4 = 0#4 then .ok (.mldw (fld w 27 5) (fld w 12 5) (fld w 7 1))
    else .error .field
  | 1 => if fld w 18 4 = 0#4 ∧ fld w 11 1 = 0#1 then .ok (.mma (fld w 27 5) (fld w 17 1) (fld w 12 5) (fld w 7 4))
    else .error .field
  | 2 => if fld w 18 4 = 0#4 ∧ fld w 11 1 = 0#1 then .ok (.mmac (fld w 27 5) (fld w 17 1) (fld w 12 5) (fld w 7 4))
    else .error .field
  | 3 => if fld w 27 5 = 0#5 ∧ fld w 11 11 = 0#11 then .ok (.mzero (fld w 7 4))
    else .error .field
  | 4 => if fld w 17 5 = 0#5 ∧ fld w 11 1 = 0#1 then .ok (.mstore (fld w 27 5) (fld w 12 5) (fld w 7 4))
    else .error .field
  | 5 => if fld w 17 5 = 0#5 ∧ fld w 11 1 = 0#1 then .ok (.mmas (fld w 27 5) (fld w 12 5) (fld w 7 4))
    else .error .field
  | 6 => if fld w 27 5 = 0#5 ∧ fld w 21 1 = 0#1 ∧ fld w 11 1 = 0#1 then .ok (.mtopk (fld w 17 4) (fld w 12 5) (fld w 7 4))
    else .error .field
  | 7 => if fld w 27 5 = 0#5 ∧ fld w 17 5 = 0#5 ∧ fld w 11 1 = 0#1 then .ok (.mtkr (fld w 12 5) (fld w 7 4))
    else .error .field
  | 8 => if fld w 28 4 = 0#4 ∧ fld w 17 5 = 0#5 ∧ fld w 11 1 = 0#1 then .ok (.mscl (fld w 27 1) (fld w 12 5) (fld w 7 4))
    else .error .field
  | 9 => if fld w 28 4 = 0#4 ∧ fld w 21 1 = 0#1 ∧ fld w 12 5 = 0#5 then .ok (.mstat (fld w 27 1) (fld w 17 4) (fld w 7 5))
    else .error .field
  | 10 => if fld w 27 5 = 0#5 ∧ fld w 11 11 = 0#11 then .ok (.mchk (fld w 7 4))
    else .error .field
  | 11 => if fld w 27 5 = 0#5 ∧ fld w 11 11 = 0#11 then .ok (.mcorr (fld w 7 4))
    else .error .field
  | 12 => if fld w 27 5 = 0#5 ∧ fld w 21 1 = 0#1 ∧ fld w 11 6 = 0#6 then .ok (.macc (fld w 17 4) (fld w 7 4))
    else .error .field
  | 13 => if fld w 28 4 = 0#4 ∧ fld w 17 5 = 0#5 ∧ fld w 11 1 = 0#1 then .ok (.mlda (fld w 27 1) (fld w 12 5) (fld w 7 4))
    else .error .field
  | _ => .error .minor

/-- Major 25 (07 R173), R shape. -/
def parseMajor25 (w : BitVec 32) : Except Reject Instr :=
  match (fld w 22 5).toNat with
  | 0 => if fld w 30 2 = 0#2 then .ok (.fadd (fld w 27 3) (fld w 17 5) (fld w 12 5) (fld w 7 5))
    else .error .field
  | 1 => if fld w 30 2 = 0#2 then .ok (.fsub (fld w 27 3) (fld w 17 5) (fld w 12 5) (fld w 7 5))
    else .error .field
  | 2 => if fld w 30 2 = 0#2 then .ok (.fmul (fld w 27 3) (fld w 17 5) (fld w 12 5) (fld w 7 5))
    else .error .field
  | 3 => if fld w 30 2 = 0#2 then .ok (.fdiv (fld w 27 3) (fld w 17 5) (fld w 12 5) (fld w 7 5))
    else .error .field
  | 4 => if fld w 30 2 = 0#2 ∧ fld w 17 5 = 0#5 then .ok (.fsqrt (fld w 27 3) (fld w 12 5) (fld w 7 5))
    else .error .field
  | 5 => if fld w 27 5 = 0#5 then .ok (.fmin (fld w 17 5) (fld w 12 5) (fld w 7 5))
    else .error .field
  | 6 => if fld w 27 5 = 0#5 then .ok (.fmax (fld w 17 5) (fld w 12 5) (fld w 7 5))
    else .error .field
  | 7 => if fld w 27 5 = 0#5 then .ok (.fcmplt (fld w 17 5) (fld w 12 5) (fld w 7 5))
    else .error .field
  | 8 => if fld w 27 5 = 0#5 then .ok (.fcmpeq (fld w 17 5) (fld w 12 5) (fld w 7 5))
    else .error .field
  | 9 => if fld w 17 5 = 0#5 then .ok (.fcvti (fld w 31 1) (fld w 30 1) (fld w 27 3) (fld w 12 5) (fld w 7 5))
    else .error .field
  | 10 => if fld w 17 5 = 0#5 then .ok (.fcvtf (fld w 31 1) (fld w 30 1) (fld w 27 3) (fld w 12 5) (fld w 7 5))
    else .error .field
  | 11 => if fld w 30 2 = 0#2 then .ok (.ffma (fld w 27 3) (fld w 17 5) (fld w 12 5) (fld w 7 5))
    else .error .field
  | _ => .error .minor

/-- Major 26 (07 R173), R shape. -/
def parseMajor26 (w : BitVec 32) : Except Reject Instr :=
  match (fld w 22 5).toNat with
  | 0 => if fld w 27 5 = 0#5 ∧ fld w 7 5 = 0#5 then .ok (.trap (fld w 17 5) (fld w 12 5))
    else .error .field
  | 1 => .ok (.udf (fld w 27 5) (fld w 7 15))
  | 2 => if fld w 28 4 = 0#4 ∧ fld w 7 5 = 0#5 then .ok (.sinv (fld w 27 1) (fld w 17 5) (fld w 12 5))
    else .error .field
  | 3 => if fld w 27 5 = 0#5 ∧ fld w 7 5 = 0#5 then .ok (.frply (fld w 17 5) (fld w 12 5))
    else .error .field
  | 4 => if fld w 27 5 = 0#5 ∧ fld w 7 5 = 0#5 then .ok (.inj (fld w 17 5) (fld w 12 5))
    else .error .field
  | 5 => if fld w 27 5 = 0#5 ∧ fld w 17 5 = 0#5 then .ok (.mflip (fld w 12 5) (fld w 7 5))
    else .error .field
  | 6 => if fld w 27 5 = 0#5 ∧ fld w 17 5 = 0#5 then .ok (.keyreq (fld w 12 5) (fld w 7 5))
    else .error .field
  | 7 => if fld w 27 5 = 0#5 ∧ fld w 17 5 = 0#5 then .ok (.attest (fld w 12 5) (fld w 7 5))
    else .error .field
  | 8 => if fld w 27 5 = 0#5 ∧ fld w 17 5 = 0#5 then .ok (.preemptStop (fld w 12 5) (fld w 7 5))
    else if fld w 27 5 = 1#5 ∧ fld w 17 5 = 0#5 then .ok (.preemptResume (fld w 12 5) (fld w 7 5))
    else if fld w 27 5 = 2#5 ∧ fld w 17 5 = 0#5 then .ok (.preemptClear (fld w 12 5) (fld w 7 5))
    else .error .field
  | 9 => if fld w 27 5 = 0#5 ∧ fld w 17 5 = 0#5 ∧ fld w 7 5 = 0#5 then .ok (.halt (fld w 12 5))
    else .error .field
  | 10 => if fld w 27 5 = 0#5 ∧ fld w 17 5 = 0#5 ∧ fld w 7 5 = 0#5 then .ok (.dlogh (fld w 12 5))
    else .error .field
  | _ => .error .minor

/-- A 32-bit form (07 R164, R173): major, then minor, then the must-be-zero fields (07 R177). -/
def parse32 (w : BitVec 32) : Except Reject Instr :=
  match (fld w 2 5).toNat with
  | 0 => parseMajor0 w
  | 1 => parseMajor1 w
  | 2 => parseMajor2 w
  | 3 => parseMajor3 w
  | 4 => parseMajor4 w
  | 5 => parseMajor5 w
  | 6 => parseMajor6 w
  | 7 => parseMajor7 w
  | 8 => parseMajor8 w
  | 9 => parseMajor9 w
  | 10 => parseMajor10 w
  | 11 => parseMajor11 w
  | 12 => parseMajor12 w
  | 13 => parseMajor13 w
  | 14 => parseMajor14 w
  | 15 => parseMajor15 w
  | 16 => parseMajor16 w
  | 17 => parseMajor17 w
  | 18 => parseMajor18 w
  | 19 => parseMajor19 w
  | 20 => parseMajor20 w
  | 21 => parseMajor21 w
  | 22 => parseMajor22 w
  | 23 => parseMajor23 w
  | 24 => parseMajor24 w
  | 25 => parseMajor25 w
  | 26 => parseMajor26 w
  | _ => .error .major

/-- A compressed form (07 R175): quadrant and bits [15:13] name it. -/
noncomputable def parse16 (w : BitVec 16) : Except Reject Instr :=
  match (fld w 0 2).toNat, (fld w 13 3).toNat with
  | 0, 0 => if fld w 2 1 = 0#1 then .ok (.cMv (fld w 8 5) (fld w 3 5)) else .error .compressed
  | 0, 1 => .ok (.cAddi (fld w 8 5) (fld w 2 6))
  | 0, 2 => .ok (.cLdd (fld w 10 3) (fld w 7 3) (fld w 2 5))
  | 0, 3 => .ok (.cStd (fld w 10 3) (fld w 7 3) (fld w 2 5))
  | 0, 4 => .ok (.cLdw (fld w 10 3) (fld w 7 3) (fld w 2 5))
  | 0, 5 => .ok (.cStw (fld w 10 3) (fld w 7 3) (fld w 2 5))
  | 0, 6 => if fld w 2 1 = 0#1 then .ok (.cAdd (fld w 8 5) (fld w 3 5)) else .error .compressed
  | 0, 7 => if fld w 2 1 = 0#1 then .ok (.cSub (fld w 8 5) (fld w 3 5)) else .error .compressed
  | 1, 0 => .ok (.cJ (fld w 2 11))
  | 1, 1 => .ok (.cBeqz (fld w 10 3) (fld w 2 8))
  | 1, 2 => .ok (.cBnez (fld w 10 3) (fld w 2 8))
  | 1, 3 => .ok (.cLi (fld w 8 5) (fld w 2 6))
  | 1, 4 => .ok (.cShli (fld w 8 5) (fld w 2 6))
  | 1, 5 => .ok (.cAndi (fld w 8 5) (fld w 2 6))
  | 1, 6 => if fld w 2 4 = 0#4 then .ok (.cQput (fld w 11 2) (fld w 6 5)) else .error .compressed
  | 1, 7 => if fld w 2 5 = 0#5 then .ok (.cQget (fld w 8 5) (fld w 7 1)) else .error .compressed
  | 2, 0 => if fld w 2 2 = 0#2 then .ok (.cSend (fld w 8 5) (fld w 4 4)) else .error .compressed
  | 2, 1 => if fld w 2 11 = 0#11 then .ok (.cDone) else .error .compressed
  | 2, 2 => if fld w 2 11 = 0#11 then .ok (.cCommit) else .error .compressed
  | 2, 3 => .ok (.cWaitc (fld w 8 5) (fld w 5 3) (fld w 2 3))
  | 2, 4 => .ok (.cCinc (fld w 8 5) (fld w 5 3) (fld w 2 3))
  | 2, 5 => .ok (.cVfma (fld w 9 4) (fld w 5 4) (fld w 2 3))
  | 2, 6 => if fld w 2 1 = 0#1 then .ok (.cVmov (fld w 8 5) (fld w 3 5)) else .error .compressed
  | 2, 7 => if fld w 2 11 = 0#11 then .ok (.cNop) else .error .compressed
  | _, _ => .error .compressed

/-- The word of a 32-bit form, from its encoding (07 R171 to R173); none for the others. -/
def encode32 : Instr → Option (BitVec 32)
  | .add w b a d => some (cat 32 (cat 25 (cat 20 (cat 15 (cat 10 (cat 5 0#4 w) 0#5) b) a) d) 3#7)
  | .sub w b a d => some (cat 32 (cat 25 (cat 20 (cat 15 (cat 10 (cat 5 0#4 w) 1#5) b) a) d) 3#7)
  | .and w b a d => some (cat 32 (cat 25 (cat 20 (cat 15 (cat 10 (cat 5 0#4 w) 2#5) b) a) d) 3#7)
  | .or w b a d => some (cat 32 (cat 25 (cat 20 (cat 15 (cat 10 (cat 5 0#4 w) 3#5) b) a) d) 3#7)
  | .xor w b a d => some (cat 32 (cat 25 (cat 20 (cat 15 (cat 10 (cat 5 0#4 w) 4#5) b) a) d) 3#7)
  | .shl w b a d => some (cat 32 (cat 25 (cat 20 (cat 15 (cat 10 (cat 5 0#4 w) 5#5) b) a) d) 3#7)
  | .shr w b a d => some (cat 32 (cat 25 (cat 20 (cat 15 (cat 10 (cat 5 0#4 w) 6#5) b) a) d) 3#7)
  | .sra w b a d => some (cat 32 (cat 25 (cat 20 (cat 15 (cat 10 (cat 5 0#4 w) 7#5) b) a) d) 3#7)
  | .mul w b a d => some (cat 32 (cat 25 (cat 20 (cat 15 (cat 10 (cat 5 0#4 w) 8#5) b) a) d) 3#7)
  | .mulh w b a d => some (cat 32 (cat 25 (cat 20 (cat 15 (cat 10 (cat 5 0#4 w) 9#5) b) a) d) 3#7)
  | .mulhn w b a d => some (cat 32 (cat 25 (cat 20 (cat 15 (cat 10 (cat 5 0#4 w) 10#5) b) a) d) 3#7)
  | .div w b a d => some (cat 32 (cat 25 (cat 20 (cat 15 (cat 10 (cat 5 0#4 w) 11#5) b) a) d) 3#7)
  | .divn w b a d => some (cat 32 (cat 25 (cat 20 (cat 15 (cat 10 (cat 5 0#4 w) 12#5) b) a) d) 3#7)
  | .rem w b a d => some (cat 32 (cat 25 (cat 20 (cat 15 (cat 10 (cat 5 0#4 w) 13#5) b) a) d) 3#7)
  | .remn w b a d => some (cat 32 (cat 25 (cat 20 (cat 15 (cat 10 (cat 5 0#4 w) 14#5) b) a) d) 3#7)
  | .min w b a d => some (cat 32 (cat 25 (cat 20 (cat 15 (cat 10 (cat 5 0#4 w) 15#5) b) a) d) 3#7)
  | .max w b a d => some (cat 32 (cat 25 (cat 20 (cat 15 (cat 10 (cat 5 0#4 w) 16#5) b) a) d) 3#7)
  | .minn w b a d => some (cat 32 (cat 25 (cat 20 (cat 15 (cat 10 (cat 5 0#4 w) 17#5) b) a) d) 3#7)
  | .maxn w b a d => some (cat 32 (cat 25 (cat 20 (cat 15 (cat 10 (cat 5 0#4 w) 18#5) b) a) d) 3#7)
  | .slt w b a d => some (cat 32 (cat 25 (cat 20 (cat 15 (cat 10 (cat 5 0#4 w) 19#5) b) a) d) 3#7)
  | .sltn w b a d => some (cat 32 (cat 25 (cat 20 (cat 15 (cat 10 (cat 5 0#4 w) 20#5) b) a) d) 3#7)
  | .seq w b a d => some (cat 32 (cat 25 (cat 20 (cat 15 (cat 10 (cat 5 0#4 w) 21#5) b) a) d) 3#7)
  | .clz w a d => some (cat 32 (cat 25 (cat 20 (cat 15 (cat 5 0#4 w) 704#10) a) d) 3#7)
  | .ctz w a d => some (cat 32 (cat 25 (cat 20 (cat 15 (cat 5 0#4 w) 736#10) a) d) 3#7)
  | .popc w a d => some (cat 32 (cat 25 (cat 20 (cat 15 (cat 5 0#4 w) 768#10) a) d) 3#7)
  | .andn w b a d => some (cat 32 (cat 25 (cat 20 (cat 15 (cat 10 (cat 5 0#4 w) 25#5) b) a) d) 3#7)
  | .bext w b a d => some (cat 32 (cat 25 (cat 20 (cat 15 (cat 10 (cat 5 0#4 w) 26#5) b) a) d) 3#7)
  | .bins w b a d => some (cat 32 (cat 25 (cat 20 (cat 15 (cat 10 (cat 5 0#4 w) 27#5) b) a) d) 3#7)
  | .addi i a d => some (cat 32 (cat 25 (cat 20 (cat 15 i 0#3) a) d) 7#7)
  | .andi i a d => some (cat 32 (cat 25 (cat 20 (cat 15 i 1#3) a) d) 7#7)
  | .ori i a d => some (cat 32 (cat 25 (cat 20 (cat 15 i 2#3) a) d) 7#7)
  | .xori i a d => some (cat 32 (cat 25 (cat 20 (cat 15 i 3#3) a) d) 7#7)
  | .shli s a d => some (cat 32 (cat 25 (cat 20 (cat 15 (cat 12 0#6 s) 4#3) a) d) 7#7)
  | .shri s a d => some (cat 32 (cat 25 (cat 20 (cat 15 (cat 12 0#6 s) 5#3) a) d) 7#7)
  | .srai s a d => some (cat 32 (cat 25 (cat 20 (cat 15 (cat 12 0#6 s) 6#3) a) d) 7#7)
  | .slti i a d => some (cat 32 (cat 25 (cat 20 (cat 15 i 7#3) a) d) 7#7)
  | .lih i d => some (cat 32 (cat 25 i d) 11#7)
  | .addpc i d => some (cat 32 (cat 25 i d) 15#7)
  | .ldb i a d => some (cat 32 (cat 25 (cat 20 (cat 15 i 0#3) a) d) 19#7)
  | .ldh i a d => some (cat 32 (cat 25 (cat 20 (cat 15 i 1#3) a) d) 19#7)
  | .ldw i a d => some (cat 32 (cat 25 (cat 20 (cat 15 i 2#3) a) d) 19#7)
  | .ldd i a d => some (cat 32 (cat 25 (cat 20 (cat 15 i 3#3) a) d) 19#7)
  | .ldbn i a d => some (cat 32 (cat 25 (cat 20 (cat 15 i 4#3) a) d) 19#7)
  | .ldhn i a d => some (cat 32 (cat 25 (cat 20 (cat 15 i 5#3) a) d) 19#7)
  | .ldwn i a d => some (cat 32 (cat 25 (cat 20 (cat 15 i 6#3) a) d) 19#7)
  | .stb i a d => some (cat 32 (cat 25 (cat 20 (cat 15 i 0#3) a) d) 23#7)
  | .sth i a d => some (cat 32 (cat 25 (cat 20 (cat 15 i 1#3) a) d) 23#7)
  | .stw i a d => some (cat 32 (cat 25 (cat 20 (cat 15 i 2#3) a) d) 23#7)
  | .std i a d => some (cat 32 (cat 25 (cat 20 (cat 15 i 3#3) a) d) 23#7)
  | .beq o b a => some (cat 32 (cat 25 (cat 20 (cat 15 o 0#3) b) a) 27#7)
  | .bne o b a => some (cat 32 (cat 25 (cat 20 (cat 15 o 1#3) b) a) 27#7)
  | .blt o b a => some (cat 32 (cat 25 (cat 20 (cat 15 o 2#3) b) a) 27#7)
  | .bge o b a => some (cat 32 (cat 25 (cat 20 (cat 15 o 3#3) b) a) 27#7)
  | .bltn o b a => some (cat 32 (cat 25 (cat 20 (cat 15 o 4#3) b) a) 27#7)
  | .bgen o b a => some (cat 32 (cat 25 (cat 20 (cat 15 o 5#3) b) a) 27#7)
  | .bqt o => some (cat 32 o 786459#20)
  | .bqf o => some (cat 32 o 917531#20)
  | .jal o d => some (cat 32 (cat 25 o d) 31#7)
  | .jalr i a d => some (cat 32 (cat 25 (cat 20 (cat 15 i 0#3) a) d) 35#7)
  | .amoSwap w s o b a d => some (cat 32 (cat 25 (cat 20 (cat 15 (cat 10 (cat 7 (cat 5 w s) o) 0#3) b) a) d) 39#7)
  | .amoAdd w s o b a d => some (cat 32 (cat 25 (cat 20 (cat 15 (cat 10 (cat 7 (cat 5 w s) o) 1#3) b) a) d) 39#7)
  | .amoAnd w s o b a d => some (cat 32 (cat 25 (cat 20 (cat 15 (cat 10 (cat 7 (cat 5 w s) o) 2#3) b) a) d) 39#7)
  | .amoOr w s o b a d => some (cat 32 (cat 25 (cat 20 (cat 15 (cat 10 (cat 7 (cat 5 w s) o) 3#3) b) a) d) 39#7)
  | .amoXor w s o b a d => some (cat 32 (cat 25 (cat 20 (cat 15 (cat 10 (cat 7 (cat 5 w s) o) 4#3) b) a) d) 39#7)
  | .amoMax w s o b a d => some (cat 32 (cat 25 (cat 20 (cat 15 (cat 10 (cat 7 (cat 5 w s) o) 5#3) b) a) d) 39#7)
  | .amoMin w s o b a d => some (cat 32 (cat 25 (cat 20 (cat 15 (cat 10 (cat 7 (cat 5 w s) o) 6#3) b) a) d) 39#7)
  | .amoCas w s o b a d => some (cat 32 (cat 25 (cat 20 (cat 15 (cat 10 (cat 7 (cat 5 w s) o) 7#3) b) a) d) 39#7)
  | .fenceRel m r s => some (cat 32 (cat 25 (cat 21 (cat 19 (cat 18 0#2 m) r) 0#2) s) 43#7)
  | .fenceAcq m r s => some (cat 32 (cat 25 (cat 21 (cat 19 (cat 18 0#2 m) r) 1#2) s) 43#7)
  | .fenceFull m r s => some (cat 32 (cat 25 (cat 21 (cat 19 (cat 18 0#2 m) r) 2#2) s) 43#7)
  | .qfence q => some (cat 32 (cat 18 0#11 q) 6187#14)
  | .rdef b a d => some (cat 32 (cat 25 (cat 21 (cat 20 (cat 15 0#10 b) a) 0#1) d) 47#7)
  | .hdef a d => some (cat 32 (cat 25 (cat 21 (cat 20 32#15 a) 0#1) d) 47#7)
  | .rclr d => some (cat 32 (cat 25 4096#21 d) 47#7)
  | .ldaq w s b a d => some (cat 32 (cat 25 (cat 20 (cat 15 (cat 10 (cat 5 w s) 3#5) b) a) d) 47#7)
  | .strl w s b a d => some (cat 32 (cat 25 (cat 20 (cat 15 (cat 10 (cat 5 w s) 4#5) b) a) d) 47#7)
  | .rstat a d => some (cat 32 (cat 25 (cat 20 160#15 a) d) 47#7)
  | .qput a q => some (cat 32 (cat 25 (cat 23 (cat 20 0#15 a) 0#3) q) 51#7)
  | .qget q d => some (cat 32 (cat 25 (cat 20 514#19 q) d) 51#7)
  | .scfg s => some (cat 32 (cat 25 16384#23 s) 51#7)
  | .sbind s => some (cat 32 (cat 25 24576#23 s) 51#7)
  | .sunb s => some (cat 32 (cat 25 32768#23 s) 51#7)
  | .swait s => some (cat 32 (cat 25 40960#23 s) 51#7)
  | .mfs n d => some (cat 32 (cat 25 (cat 20 n 0#8) d) 55#7)
  | .mts n a => some (cat 32 (cat 20 (cat 15 n 1#3) a) 55#12)
  | .lox o d => some (cat 32 (cat 25 (cat 20 (cat 12 0#9 o) 64#8) d) 55#7)
  | .mox o a => some (cat 32 (cat 20 (cat 15 (cat 12 0#9 o) 3#3) a) 55#12)
  | .spawn t a d => some (cat 32 (cat 25 (cat 20 (cat 15 (cat 5 0#4 t) 0#10) a) d) 59#7)
  | .kill b a => some (cat 32 (cat 20 (cat 15 1#10 b) a) 59#12)
  | .exit a => some (cat 32 (cat 20 64#15 a) 59#12)
  | .link a => some (cat 32 (cat 20 96#15 a) 59#12)
  | .unlink a => some (cat 32 (cat 20 128#15 a) 59#12)
  | .mon a d => some (cat 32 (cat 25 (cat 20 160#15 a) d) 59#7)
  | .demon a => some (cat 32 (cat 20 192#15 a) 59#12)
  | .trapx a => some (cat 32 (cat 20 224#15 a) 59#12)
  | .supv a => some (cat 32 (cat 20 256#15 a) 59#12)
  | .timer a d => some (cat 32 (cat 25 (cat 20 288#15 a) d) 59#7)
  | .tcan a d => some (cat 32 (cat 25 (cat 20 320#15 a) d) 59#7)
  | .commit => some (46137403#32)
  | .done => some (50331707#32)
  | .cancel b a => some (cat 32 (cat 20 (cat 15 13#10 b) a) 59#12)
  | .lvl b a d => some (cat 32 (cat 25 (cat 20 (cat 15 14#10 b) a) d) 59#7)
  | .namereg a d => some (cat 32 (cat 25 (cat 20 480#15 a) d) 59#7)
  | .whereIs a d => some (cat 32 (cat 25 (cat 20 512#15 a) d) 59#7)
  | .part b a d => some (cat 32 (cat 25 (cat 20 (cat 15 17#10 b) a) d) 59#7)
  | .rnew n => some (cat 32 (cat 25 73728#22 n) 59#7)
  | .send s a => some (cat 32 (cat 20 (cat 15 (cat 5 0#1 s) 0#10) a) 63#12)
  | .sendn s b a d => some (cat 32 (cat 25 (cat 20 (cat 15 (cat 10 (cat 5 0#1 s) 1#5) b) a) d) 63#7)
  | .reply s a => some (cat 32 (cat 20 (cat 15 (cat 5 0#1 s) 64#10) a) 63#12)
  | .give s m a n => some (cat 32 (cat 25 (cat 22 (cat 20 (cat 15 (cat 12 (cat 5 0#1 s) 12#7) m) a) 0#2) n) 63#7)
  | .sendd s b a => some (cat 32 (cat 20 (cat 15 (cat 10 (cat 5 0#1 s) 4#5) b) a) 63#12)
  | .depset b a => some (cat 32 (cat 20 (cat 15 5#10 b) a) 63#12)
  | .depdec s b a => some (cat 32 (cat 20 (cat 15 (cat 10 (cat 5 0#1 s) 6#5) b) a) 63#12)
  | .tload q b a d => some (cat 32 (cat 25 (cat 21 (cat 20 (cat 15 (cat 10 (cat 5 0#3 q) 0#5) b) a) 0#1) d) 67#7)
  | .tstore q b a d => some (cat 32 (cat 25 (cat 21 (cat 20 (cat 15 (cat 10 (cat 5 0#3 q) 1#5) b) a) 0#1) d) 67#7)
  | .push q b a d => some (cat 32 (cat 25 (cat 21 (cat 20 (cat 15 (cat 10 (cat 5 0#2 q) 2#5) b) a) 0#1) d) 67#7)
  | .pushr q b a => some (cat 32 (cat 20 (cat 15 (cat 10 (cat 5 0#2 q) 3#5) b) a) 67#12)
  | .gather b a d => some (cat 32 (cat 25 (cat 21 (cat 20 (cat 15 4#10 b) a) 0#1) d) 67#7)
  | .scatter b a d => some (cat 32 (cat 25 (cat 21 (cat 20 (cat 15 5#10 b) a) 0#1) d) 67#7)
  | .arm a d => some (cat 32 (cat 25 (cat 21 (cat 20 192#15 a) 0#1) d) 67#7)
  | .disarm d => some (cat 32 (cat 25 14336#21 d) 67#7)
  | .cset h a c => some (cat 32 (cat 25 (cat 20 (cat 15 h 0#14) a) c) 71#7)
  | .cinc h s b a c => some (cat 32 (cat 25 (cat 20 (cat 15 (cat 10 (cat 5 h s) 1#5) b) a) c) 71#7)
  | .crd h d c => some (cat 32 (cat 25 (cat 20 (cat 15 (cat 10 h 2#9) d) 0#5) c) 71#7)
  | .waitc h s b a c => some (cat 32 (cat 25 (cat 20 (cat 15 (cat 10 (cat 5 h s) 3#5) b) a) c) 71#7)
  | .waitct h s d a c => some (cat 32 (cat 25 (cat 20 (cat 15 (cat 10 (cat 5 h s) 4#5) d) a) c) 71#7)
  | .caddl h a c => some (cat 32 (cat 25 (cat 20 (cat 15 h 160#14) a) c) 71#7)
  | .route s a d => some (cat 32 (cat 25 (cat 20 (cat 15 (cat 5 0#1 s) 0#10) a) d) 75#7)
  | .erq a d => some (cat 32 (cat 25 (cat 20 32#15 a) d) 75#7)
  | .epin a => some (cat 32 (cat 20 64#15 a) 75#12)
  | .eunpin a => some (cat 32 (cat 20 96#15 a) 75#12)
  | .wset a => some (cat 32 (cat 20 128#15 a) 75#12)
  | .eloadc t a d => some (cat 32 (cat 25 (cat 20 (cat 15 (cat 5 0#4 t) 160#10) a) d) 75#7)
  | .vadd p t b a d => some (cat 32 (cat 25 (cat 20 (cat 15 (cat 10 (cat 5 p t) 0#5) b) a) d) 79#7)
  | .vsub p t b a d => some (cat 32 (cat 25 (cat 20 (cat 15 (cat 10 (cat 5 p t) 1#5) b) a) d) 79#7)
  | .vmul p t b a d => some (cat 32 (cat 25 (cat 20 (cat 15 (cat 10 (cat 5 p t) 2#5) b) a) d) 79#7)
  | .vfma p t b a d => some (cat 32 (cat 25 (cat 20 (cat 15 (cat 10 (cat 5 p t) 3#5) b) a) d) 79#7)
  | .vfms p t b a d => some (cat 32 (cat 25 (cat 20 (cat 15 (cat 10 (cat 5 p t) 4#5) b) a) d) 79#7)
  | .vmin p t b a d => some (cat 32 (cat 25 (cat 20 (cat 15 (cat 10 (cat 5 p t) 5#5) b) a) d) 79#7)
  | .vmax p t b a d => some (cat 32 (cat 25 (cat 20 (cat 15 (cat 10 (cat 5 p t) 6#5) b) a) d) 79#7)
  | .vabs p t a d => some (cat 32 (cat 25 (cat 20 (cat 15 (cat 5 p t) 224#10) a) d) 79#7)
  | .vneg p t a d => some (cat 32 (cat 25 (cat 20 (cat 15 (cat 5 p t) 256#10) a) d) 79#7)
  | .vcmpeq p t b a d => some (cat 32 (cat 25 (cat 22 (cat 20 (cat 15 (cat 10 (cat 5 p t) 9#5) b) a) 0#2) d) 79#7)
  | .vcmplt p t b a d => some (cat 32 (cat 25 (cat 22 (cat 20 (cat 15 (cat 10 (cat 5 p t) 10#5) b) a) 0#2) d) 79#7)
  | .vcmple p t b a d => some (cat 32 (cat 25 (cat 22 (cat 20 (cat 15 (cat 10 (cat 5 p t) 11#5) b) a) 0#2) d) 79#7)
  | .vsel b a d => some (cat 32 (cat 25 (cat 20 (cat 15 12#10 b) a) d) 79#7)
  | .vscalb p t b a d => some (cat 32 (cat 25 (cat 20 (cat 15 (cat 10 (cat 5 p t) 13#5) b) a) d) 79#7)
  | .vmaxm p t b a d => some (cat 32 (cat 25 (cat 20 (cat 15 (cat 10 (cat 5 p t) 14#5) b) a) d) 79#7)
  | .vclass p t a d => some (cat 32 (cat 25 (cat 20 (cat 15 (cat 5 p t) 480#10) a) d) 79#7)
  | .vbcast p n a d => some (cat 32 (cat 25 (cat 20 (cat 15 (cat 10 p 16#9) n) a) d) 79#7)
  | .vmov p a d => some (cat 32 (cat 25 (cat 20 (cat 15 p 544#14) a) d) 79#7)
  | .viadd p t b a d => some (cat 32 (cat 25 (cat 20 (cat 15 (cat 10 (cat 5 p t) 0#5) b) a) d) 83#7)
  | .visub p t b a d => some (cat 32 (cat 25 (cat 20 (cat 15 (cat 10 (cat 5 p t) 1#5) b) a) d) 83#7)
  | .vimul p t b a d => some (cat 32 (cat 25 (cat 20 (cat 15 (cat 10 (cat 5 p t) 2#5) b) a) d) 83#7)
  | .vimulh p t b a d => some (cat 32 (cat 25 (cat 20 (cat 15 (cat 10 (cat 5 p t) 3#5) b) a) d) 83#7)
  | .vand p t b a d => some (cat 32 (cat 25 (cat 20 (cat 15 (cat 10 (cat 5 p t) 4#5) b) a) d) 83#7)
  | .vor p t b a d => some (cat 32 (cat 25 (cat 20 (cat 15 (cat 10 (cat 5 p t) 5#5) b) a) d) 83#7)
  | .vxor p t b a d => some (cat 32 (cat 25 (cat 20 (cat 15 (cat 10 (cat 5 p t) 6#5) b) a) d) 83#7)
  | .vshl p t b a d => some (cat 32 (cat 25 (cat 20 (cat 15 (cat 10 (cat 5 p t) 7#5) b) a) d) 83#7)
  | .vshr p t b a d => some (cat 32 (cat 25 (cat 20 (cat 15 (cat 10 (cat 5 p t) 8#5) b) a) d) 83#7)
  | .vsra p t b a d => some (cat 32 (cat 25 (cat 20 (cat 15 (cat 10 (cat 5 p t) 9#5) b) a) d) 83#7)
  | .vimin p t b a d => some (cat 32 (cat 25 (cat 20 (cat 15 (cat 10 (cat 5 p t) 10#5) b) a) d) 83#7)
  | .vimax p t b a d => some (cat 32 (cat 25 (cat 20 (cat 15 (cat 10 (cat 5 p t) 11#5) b) a) d) 83#7)
  | .viminn p t b a d => some (cat 32 (cat 25 (cat 20 (cat 15 (cat 10 (cat 5 p t) 12#5) b) a) d) 83#7)
  | .vimaxn p t b a d => some (cat 32 (cat 25 (cat 20 (cat 15 (cat 10 (cat 5 p t) 13#5) b) a) d) 83#7)
  | .vicmpeq p t b a d => some (cat 32 (cat 25 (cat 22 (cat 20 (cat 15 (cat 10 (cat 5 p t) 14#5) b) a) 0#2) d) 83#7)
  | .vicmplt p t b a d => some (cat 32 (cat 25 (cat 22 (cat 20 (cat 15 (cat 10 (cat 5 p t) 15#5) b) a) 0#2) d) 83#7)
  | .vpopc p t a d => some (cat 32 (cat 25 (cat 20 (cat 15 (cat 5 p t) 512#10) a) d) 83#7)
  | .vclz p t a d => some (cat 32 (cat 25 (cat 20 (cat 15 (cat 5 p t) 544#10) a) d) 83#7)
  | .viadds p t b a d => some (cat 32 (cat 25 (cat 20 (cat 15 (cat 10 (cat 5 p t) 18#5) b) a) d) 83#7)
  | .visubs p t b a d => some (cat 32 (cat 25 (cat 20 (cat 15 (cat 10 (cat 5 p t) 19#5) b) a) d) 83#7)
  | .vcvt p t r a d => some (cat 32 (cat 25 (cat 20 (cat 15 (cat 12 (cat 5 p t) 0#7) r) a) d) 87#7)
  | .vcvtWide p t r a d => some (cat 32 (cat 25 (cat 20 (cat 15 (cat 12 (cat 5 p t) 2#7) r) a) d) 87#7)
  | .vcvts p t b a d => some (cat 32 (cat 25 (cat 20 (cat 15 (cat 10 (cat 5 p t) 1#5) b) a) d) 87#7)
  | .vmxq t b a d => some (cat 32 (cat 25 (cat 20 (cat 15 (cat 10 (cat 5 0#1 t) 2#5) b) a) d) 87#7)
  | .vmxd t b a d => some (cat 32 (cat 25 (cat 20 (cat 15 (cat 10 (cat 5 0#1 t) 3#5) b) a) d) 87#7)
  | .vpack p t a d => some (cat 32 (cat 25 (cat 20 (cat 15 (cat 5 p t) 128#10) a) d) 87#7)
  | .vunpk p t a d => some (cat 32 (cat 25 (cat 20 (cat 15 (cat 5 p t) 160#10) a) d) 87#7)
  | .vexp2 p t a d => some (cat 32 (cat 25 (cat 20 (cat 15 (cat 5 p t) 0#10) a) d) 91#7)
  | .vlog2 p t a d => some (cat 32 (cat 25 (cat 20 (cat 15 (cat 5 p t) 32#10) a) d) 91#7)
  | .vrcp p t a d => some (cat 32 (cat 25 (cat 20 (cat 15 (cat 5 p t) 64#10) a) d) 91#7)
  | .vrsq p t a d => some (cat 32 (cat 25 (cat 20 (cat 15 (cat 5 p t) 96#10) a) d) 91#7)
  | .vtanh p t a d => some (cat 32 (cat 25 (cat 20 (cat 15 (cat 5 p t) 128#10) a) d) 91#7)
  | .vrsum p t a d => some (cat 32 (cat 25 (cat 20 (cat 15 (cat 5 p t) 160#10) a) d) 91#7)
  | .vrmax p t a d => some (cat 32 (cat 25 (cat 20 (cat 15 (cat 5 p t) 192#10) a) d) 91#7)
  | .vrmin p t a d => some (cat 32 (cat 25 (cat 20 (cat 15 (cat 5 p t) 224#10) a) d) 91#7)
  | .vperm p t b a d => some (cat 32 (cat 25 (cat 20 (cat 15 (cat 10 (cat 5 p t) 8#5) b) a) d) 91#7)
  | .vshuf p t b a d => some (cat 32 (cat 25 (cat 20 (cat 15 (cat 10 (cat 5 p t) 9#5) b) a) d) 91#7)
  | .vslide p s a d => some (cat 32 (cat 25 (cat 20 (cat 15 (cat 10 p 10#9) s) a) d) 91#7)
  | .vtoq w a q => some (cat 32 (cat 25 (cat 24 (cat 20 (cat 15 22#11 w) a) 2#4) q) 91#7)
  | .vfromq q d => some (cat 32 (cat 25 (cat 20 3200#18 q) d) 91#7)
  | .vfromqWord w q d => some (cat 32 (cat 25 (cat 20 (cat 18 (cat 15 24#11 w) 0#3) q) d) 91#7)
  | .pand b a d => some (cat 32 (cat 25 (cat 22 (cat 20 (cat 17 (cat 15 52#12 b) 0#2) a) 0#2) d) 91#7)
  | .por b a d => some (cat 32 (cat 25 (cat 22 (cat 20 (cat 17 (cat 15 56#12 b) 0#2) a) 0#2) d) 91#7)
  | .pnot a d => some (cat 32 (cat 25 (cat 22 (cat 20 1920#17 a) 0#2) d) 91#7)
  | .pmov a d => some (cat 32 (cat 25 (cat 22 (cat 20 2048#17 a) 0#2) d) 91#7)
  | .ptobq l a => some (cat 32 (cat 20 (cat 17 (cat 15 272#14 l) 0#2) a) 91#12)
  | .eloop n m => some (cat 32 (cat 25 (cat 20 (cat 12 0#1 n) 0#8) m) 95#7)
  | .eloopq q m => some (cat 32 (cat 25 (cat 20 8#18 q) m) 95#7)
  | .eflags k q => some (cat 32 (cat 25 (cat 24 (cat 12 0#7 k) 1026#12) q) 95#7)
  | .erm e r => some (cat 32 (cat 12 (cat 9 0#8 e) r) 393311#20)
  | .mldw f a w => some (cat 32 (cat 25 (cat 24 (cat 20 (cat 15 f 0#10) a) 0#4) w) 99#7)
  | .mma f w a d => some (cat 32 (cat 25 (cat 21 (cat 20 (cat 15 (cat 14 f 16#9) w) a) 0#1) d) 99#7)
  | .mmac f w a d => some (cat 32 (cat 25 (cat 21 (cat 20 (cat 15 (cat 14 f 32#9) w) a) 0#1) d) 99#7)
  | .mzero d => some (cat 32 (cat 25 6144#21 d) 99#7)
  | .mstore f a d => some (cat 32 (cat 25 (cat 21 (cat 20 (cat 15 f 128#10) a) 0#1) d) 99#7)
  | .mmas f a d => some (cat 32 (cat 25 (cat 21 (cat 20 (cat 15 f 160#10) a) 0#1) d) 99#7)
  | .mtopk b a d => some (cat 32 (cat 25 (cat 21 (cat 20 (cat 15 12#11 b) a) 0#1) d) 99#7)
  | .mtkr a d => some (cat 32 (cat 25 (cat 21 (cat 20 224#15 a) 0#1) d) 99#7)
  | .mscl r a d => some (cat 32 (cat 25 (cat 21 (cat 20 (cat 15 (cat 5 0#4 r) 256#10) a) 0#1) d) 99#7)
  | .mstat c b d => some (cat 32 (cat 25 (cat 20 (cat 15 (cat 11 (cat 5 0#4 c) 18#6) b) 0#5) d) 99#7)
  | .mchk d => some (cat 32 (cat 25 20480#21 d) 99#7)
  | .mcorr d => some (cat 32 (cat 25 22528#21 d) 99#7)
  | .macc b d => some (cat 32 (cat 25 (cat 21 (cat 15 24#11 b) 0#6) d) 99#7)
  | .mlda f a d => some (cat 32 (cat 25 (cat 21 (cat 20 (cat 15 (cat 5 0#4 f) 416#10) a) 0#1) d) 99#7)
  | .fadd r b a d => some (cat 32 (cat 25 (cat 20 (cat 15 (cat 10 (cat 5 0#2 r) 0#5) b) a) d) 103#7)
  | .fsub r b a d => some (cat 32 (cat 25 (cat 20 (cat 15 (cat 10 (cat 5 0#2 r) 1#5) b) a) d) 103#7)
  | .fmul r b a d => some (cat 32 (cat 25 (cat 20 (cat 15 (cat 10 (cat 5 0#2 r) 2#5) b) a) d) 103#7)
  | .fdiv r b a d => some (cat 32 (cat 25 (cat 20 (cat 15 (cat 10 (cat 5 0#2 r) 3#5) b) a) d) 103#7)
  | .fsqrt r a d => some (cat 32 (cat 25 (cat 20 (cat 15 (cat 5 0#2 r) 128#10) a) d) 103#7)
  | .fmin b a d => some (cat 32 (cat 25 (cat 20 (cat 15 5#10 b) a) d) 103#7)
  | .fmax b a d => some (cat 32 (cat 25 (cat 20 (cat 15 6#10 b) a) d) 103#7)
  | .fcmplt b a d => some (cat 32 (cat 25 (cat 20 (cat 15 7#10 b) a) d) 103#7)
  | .fcmpeq b a d => some (cat 32 (cat 25 (cat 20 (cat 15 8#10 b) a) d) 103#7)
  | .fcvti w u r a d => some (cat 32 (cat 25 (cat 20 (cat 15 (cat 5 (cat 2 w u) r) 288#10) a) d) 103#7)
  | .fcvtf w u r a d => some (cat 32 (cat 25 (cat 20 (cat 15 (cat 5 (cat 2 w u) r) 320#10) a) d) 103#7)
  | .ffma r b a d => some (cat 32 (cat 25 (cat 20 (cat 15 (cat 10 (cat 5 0#2 r) 11#5) b) a) d) 103#7)
  | .trap b a => some (cat 32 (cat 20 (cat 15 0#10 b) a) 107#12)
  | .udf i j => some (cat 32 (cat 25 (cat 10 i 1#5) j) 107#7)
  | .sinv l b a => some (cat 32 (cat 20 (cat 15 (cat 10 (cat 5 0#4 l) 2#5) b) a) 107#12)
  | .frply b a => some (cat 32 (cat 20 (cat 15 3#10 b) a) 107#12)
  | .inj b a => some (cat 32 (cat 20 (cat 15 4#10 b) a) 107#12)
  | .mflip a d => some (cat 32 (cat 25 (cat 20 160#15 a) d) 107#7)
  | .keyreq a d => some (cat 32 (cat 25 (cat 20 192#15 a) d) 107#7)
  | .attest a d => some (cat 32 (cat 25 (cat 20 224#15 a) d) 107#7)
  | .preemptStop a d => some (cat 32 (cat 25 (cat 20 256#15 a) d) 107#7)
  | .preemptResume a d => some (cat 32 (cat 25 (cat 20 1280#15 a) d) 107#7)
  | .preemptClear a d => some (cat 32 (cat 25 (cat 20 2304#15 a) d) 107#7)
  | .halt a => some (cat 32 (cat 20 288#15 a) 107#12)
  | .dlogh a => some (cat 32 (cat 20 320#15 a) 107#12)
  | _ => none

/-- The halfword of a compressed form (07 R175); none for the others. -/
def encode16 : Instr → Option (BitVec 16)
  | .cMv d a => some (cat 16 (cat 13 (cat 8 0#3 d) a) 0#3)
  | .cAddi d i => some (cat 16 (cat 14 (cat 8 1#3 d) i) 0#2)
  | .cLdd d a o => some (cat 16 (cat 14 (cat 9 (cat 6 2#3 d) a) o) 0#2)
  | .cStd b a o => some (cat 16 (cat 14 (cat 9 (cat 6 3#3 b) a) o) 0#2)
  | .cLdw d a o => some (cat 16 (cat 14 (cat 9 (cat 6 4#3 d) a) o) 0#2)
  | .cStw b a o => some (cat 16 (cat 14 (cat 9 (cat 6 5#3 b) a) o) 0#2)
  | .cAdd d a => some (cat 16 (cat 13 (cat 8 6#3 d) a) 0#3)
  | .cSub d a => some (cat 16 (cat 13 (cat 8 7#3 d) a) 0#3)
  | .cJ o => some (cat 16 (cat 14 0#3 o) 1#2)
  | .cBeqz a o => some (cat 16 (cat 14 (cat 6 1#3 a) o) 1#2)
  | .cBnez a o => some (cat 16 (cat 14 (cat 6 2#3 a) o) 1#2)
  | .cLi d i => some (cat 16 (cat 14 (cat 8 3#3 d) i) 1#2)
  | .cShli d s => some (cat 16 (cat 14 (cat 8 4#3 d) s) 1#2)
  | .cAndi d i => some (cat 16 (cat 14 (cat 8 5#3 d) i) 1#2)
  | .cQput q a => some (cat 16 (cat 10 (cat 5 6#3 q) a) 1#6)
  | .cQget d q => some (cat 16 (cat 9 (cat 8 7#3 d) q) 1#7)
  | .cSend a s => some (cat 16 (cat 12 (cat 8 0#3 a) s) 2#4)
  | .cDone => some (8194#16)
  | .cCommit => some (16386#16)
  | .cWaitc c a s => some (cat 16 (cat 14 (cat 11 (cat 8 3#3 c) a) s) 2#2)
  | .cCinc c a s => some (cat 16 (cat 14 (cat 11 (cat 8 4#3 c) a) s) 2#2)
  | .cVfma d a b => some (cat 16 (cat 14 (cat 11 (cat 7 5#3 d) a) b) 2#2)
  | .cVmov d a => some (cat 16 (cat 13 (cat 8 6#3 d) a) 2#3)
  | .cNop => some (57346#16)
  | _ => none

/-- Keeps a parsed term only when its field values are allowed. -/
def checked (r : Except Reject Instr) : Except Reject Instr :=
  match r with
  | .ok i => if WellFormed i then .ok i else .error .value
  | .error e => .error e

/-- A halfword from its two bytes, the lower address first (00 R5). -/
def halfOf (b0 b1 : Byte) : Half := b1 ++ b0

/-- The instruction at the head of the bytes, with the bytes left (07 R164). -/
noncomputable def decode : List Byte → Except Reject (Instr × List Byte)
  | b0 :: b1 :: rest =>
    if (halfOf b0 b1).extractLsb' 0 2 = 3#2 then
      match rest with
      | b2 :: b3 :: rest' => (checked (parse32 (halfOf b2 b3 ++ halfOf b0 b1))).map fun i => (i, rest')
      | _ => .error .short
    else (checked (parse16 (halfOf b0 b1))).map fun i => (i, rest)
  | _ => .error .short

/-- A privileged form, whatever its other fields hold: SYS minors 2 to 10, and MFS or MTS of a number of 0x800 or
above (07 R176). Only asked of the words of an instruction whose major and minor are in the map (R177). -/
def privilegedWord (w : BitVec 32) : Bool :=
  (w.extractLsb' 0 7 == 0x6B#7 && 2 ≤ (w.extractLsb' 22 5).toNat && (w.extractLsb' 22 5).toNat ≤ 10) ||
  (w.extractLsb' 0 7 == 0x37#7 && (w.extractLsb' 17 3).toNat ≤ 1 && w.extractLsb' 31 1 == 1#1)

/-- The bytes of an encoded form, the lowest address first (07 R164). -/
def encode (i : Instr) : Option (List Byte) :=
  match encode32 i, encode16 i with
  | some w, _ => some [w.extractLsb' 0 8, w.extractLsb' 8 8, w.extractLsb' 16 8, w.extractLsb' 24 8]
  | none, some h => some [h.extractLsb' 0 8, h.extractLsb' 8 8]
  | none, none => none

/-- An encoded form's length in bytes; 0 for an event. -/
def length (i : Instr) : Nat :=
  match encode32 i, encode16 i with
  | some _, _ => 4
  | none, some _ => 2
  | none, none => 0

/-- The bytes of the instruction whose bits are `w` numbered as the opcode table numbers them, `nbits` of them given and
zeros above. -/
def tableBytes (nbits w : Nat) : List Byte :=
  let v := w % 2 ^ nbits
  [BitVec.ofNat 8 v, BitVec.ofNat 8 (v >>> 8), BitVec.ofNat 8 (v >>> 16), BitVec.ofNat 8 (v >>> 24)]

/-- The instruction the decoder reads from the table's word. -/
noncomputable def decodeTableWord (nbits w : Nat) : Option Instr :=
  match decode (tableBytes nbits w) with
  | .ok (i, _) => some i
  | .error _ => none

end Sys2Proof
end

