-- ==== Sys2Proof/Config.lean ====
section
/-! DEFINITION. What an implementation fixes and what the spec leaves open. An opaque constant has no body: nothing can
be proved of its value, so a claim about the machine holds whatever it is. -/

namespace Sys2Proof.Config

/-- How long the step of this number takes, in ns (00 R12: no latency is bounded). Assumption 6. -/
opaque elapsed : Nat → Nat

/-- Where the search for an unused reference, launch number or digest begins (02 R63, 03 R70, 12 R318). Assumption 15. -/
opaque seed : Nat → Nat

/-- The package's number in the pod (01 R16) and its place in the load-store domain (19 R437). Assumption 16. -/
opaque packageNumber : BitVec 12
opaque place : BitVec 6
/-- Places of the load-store domain that hold a package, and the package there (19 R437). Assumption 16. -/
opaque domain : Nat → Option Nat
/-- A package that a link without a direct partner reaches through switches (19 R433). Assumption 16. -/
opaque reaches : Nat → Nat → Bool
/-- The packages of a job, in ascending number (19 R435). Assumption 16. -/
opaque jobPackages : BitVec 16 → List Nat
/-- The pass period that Keystone sets for the patrol scrubbers, in hours (18 R406). -/
opaque scrubHours : Nat
/-- The incarnation of an index that is live on another package, as its directory answers; 0 when it is not (assumption 34). -/
opaque incElsewhere : Nat → BitVec 64 → BitVec 16
/-- The core of its package that it is on: die, cluster and core mixed into one number (assumption 34). -/
opaque coreElsewhere : Nat → BitVec 64 → Nat

/-- What an I/O page number names (17 R386): page 0 to 2 of a die's error log (18 R416), or a link page (19 R424). -/
inductive IoBlock where
  | errorLog (die page : Nat)
  | linkPage (link : Nat)
  deriving DecidableEq, Repr

/-- The blocks behind the I/O page numbers (17 R386). Assumption 18. -/
opaque ioBlock : Nat → Option IoBlock

/-- The memory keys Keystone generates, by generation: the bytes of two AES-256 keys (18 R418, R420). Assumption 12. -/
opaque memoryKey : Nat → List Byte
/-- The link keys: of a link's transmit direction, by its training's salt and its generation (19 R429). Assumption 51. -/
opaque linkKey : Nat → BitVec 32 → BitVec 32 → List Byte
/-- The low 60 bits of a transaction header, and the bytes after it, as the sending die lays a transaction's fields out (19
R427). Assumption 51. -/
opaque txHeader : List Nat → Nat
opaque txBytes : List Nat → List Byte

/-- Keystone's measurement and the identity digest (18 R422). Assumption 14. -/
opaque keystoneDigest : List Byte
opaque identityDigest : List Byte
/-- A signature made with the device identity key (18 R422), and whether one verifies (20 R441): message digest and
signature bytes. Assumption 14. -/
opaque sign : List Byte → List Byte
opaque verifies : List Byte → List Byte → Bool
/-- The digest that the manifest of a given SHA-256 lists for an expert of its set (13 R357). Assumption 14. -/
opaque manifestEntry : List Byte → BitVec 16 → List Byte
/-- The die whose directory shard holds the entry of an index (01 R28): named without its incarnation. Assumption 79. -/
opaque shard : BitVec 64 → BitVec 2
/-- What the package's storage was delivered with: Calico's main image and its recovery image, held apart (20 R444), each with
its signature. Assumption 14. -/
opaque mainImage : List Byte × List Byte
opaque recoveryImage : List Byte × List Byte
/-- What an image's bytes hold: the pages Keystone measures as part of Calico, by address-space id and page (16 R361), and the
root's image (20 R442): entry address, index, quota, partition byte, and its regions' sizes, classes, rights and first bytes.
Assumption 14. -/
opaque calicoPage : List Byte → Nat → Nat → Bool
opaque rootEntry : List Byte → BitVec 64
opaque rootIndex : List Byte → Nat
opaque rootQuota : List Byte → Nat
opaque rootPart : List Byte → BitVec 8
opaque rootRegions : List Byte → List (Nat × BitVec 2 × Bool × Bool × List Byte)
/-- The partition word that Calico fixes for a core (04 R87): of a partition's core, by address-space id and logical core
number, and of a service core before any partition holds it. Assumption 3. -/
opaque partitionWord : Nat → Nat → BitVec 8
opaque serviceWord : Nat → BitVec 8
/-- The HBM behind each port's CXL.mem window (19 R438), first byte and size: set by Calico, by a means the spec does not
give. Assumption 22. -/
opaque cxlWindow : Nat → Nat × Nat
/-- The HBM behind each port's BAR2 window (19 R438), first byte and size, set by Calico likewise. Assumption 22. -/
opaque bar2Window : Nat → Nat × Nat
/-- Wysia's vendor id, the revision of its capability, and where the next capability begins (20 R446). Assumption 53. -/
opaque vendorId : BitVec 16
opaque dvsecRevision : BitVec 4
opaque nextCapability : Nat → BitVec 12
/-- The rest of a port's configuration space, by its offset from the capability's start, as the standards fill it (19 R438).
Assumption 53. -/
opaque configWord : Nat → Nat → BitVec 32

end Sys2Proof.Config
end

