-- ==== Sys2Proof/Machine/State.lean ====
section
/-! DEFINITION. The state of the package: everything the spec gives the machine, as plain data, and the state right
after reset. Core numbers are `die * 512 + cluster * 8 + core`, which is the location word's bits [19:9] (01 R16). -/

namespace Sys2Proof.Machine

/-- Why a step ends in a fault. -/
inductive Fault where
  /-- The part has stopped: HALT without a reset (16 R381), a thermal trip (20 R450) or loss of power (20 R443).
  Raised by `step` and by every event but a reset. Safe: nothing runs. -/
  | partStopped
  /-- A word at the pc could not be read as an instruction because no activation runs. Raised by `exec` of an
  instruction form when no activation is running: no such step exists on the machine. Safe. -/
  | noActivation
  deriving DecidableEq, Repr, Inhabited

/-- Why a step is refused. -/
inductive Refusal where
  /-- The instruction has no meaning yet. Raised by `exec` only. Safe. -/
  | notModelled (mnemonic : String)
  /-- An access to an I/O page whose block the spec does not describe (17 R386, type 6). Raised by loads and stores
  at service level. Safe. -/
  | unknownIoPage
  deriving DecidableEq, Repr, Inhabited

/-! ## An activation slot (01 R22, 02 R45) -/

/-- A queue entry with its poison bit (07 R168, 18 R408). -/
abbrev QEntry := Word × Bool

/-- A stream's configuration, binding and beat position (09 R226 to R229). -/
structure Stream where
  configured : Bool := false
  bound : Bool := false
  base : Word := 0
  stride1 : Int := 0
  stride2 : Int := 0
  len : Nat := 0
  n1 : Nat := 0
  n2 : Nat := 0
  again : Bool := false
  write : Bool := false
  beat : Nat := 0
  deriving DecidableEq, Repr, Inhabited

/-- A tensor descriptor (04 R104), as HDEF checked it. -/
structure Tensor where
  base : Nat
  fill : Word32
  rank : Nat
  format : Nat
  extents : List Nat
  strides : List Nat
  scale : Nat
  deriving DecidableEq, Repr, Inhabited

/-- A guard slot (05 R126, 08 R209, R210). -/
inductive Guard where
  | empty
  | range (base len : Nat)
  | handle (t : Tensor)
  deriving DecidableEq, Repr, Inhabited

/-- The tags of a counted operation: for each range, whether it is a write, and the slots of the activation (bit 16 is
rest) that it counts in (05 R127). -/
structure Tags where
  aid : Nat := 0
  ranges : List (Bool × BitVec 17) := []
  /-- the number of the release or atomic that the operation performs, 0 where it has none: what waits for that waits for
  the operation -/
  op : Nat := 0
  /-- how many effects were staged before it, for an operation issued unstaged before COMMIT (05 R135) -/
  pos : Nat := 0
  deriving DecidableEq, Repr, Inhabited

/-- An acquire event that an operation of the activation brings about later (05 R130): the operation's number, the reads
that follow it, by guard mask, and whether it is an atomic, which later stores and messages follow too. -/
structure Acquire where
  op : Nat
  mask : BitVec 17
  atomic : Bool
  /-- how many effects were staged before it, as in `Tags` -/
  pos : Nat := 0
  deriving DecidableEq, Repr, Inhabited

/-- What an engine entry does, with everything it read at issue (10, 11). -/
inductive EOp where
  | join (id : Nat)
  | tload (t : Tensor) (pad : Nat) (origin : List Int) (shape : List Nat)
  | tstore (t : Tensor) (pad : Nat) (origin : List Int) (shape : List Nat) (conv : Option (Nat × Nat)) (e5inf : Bool)
  | push (port pad len off : Nat) (cores : BitVec 5) (conv : Option (Nat × Nat × Nat)) (e5inf : Bool)
  | pushr (va pad len : Nat) (conv : Option (Nat × Nat × Nat)) (e5inf : Bool)
  | gather (t : Tensor) (pad list n t0 : Nat) (org : Int)
  | scatter (t : Tensor) (pad list n t0 : Nat) (org : Int) (conv : Option (Nat × Nat)) (e5inf : Bool)
  | mldw (buf fmt k n base pitch spitch : Nat)
  | mma (tile buf fmt k m base pitch spitch : Nat) (gate : Option (Nat × Word32))
  | mzero (tile : Nat)
  | mstore (tile fmt m n base pitch : Nat) (bias : Option Nat) (scale : Option Word32) (func rm : Nat) (e5inf : Bool)
      (draw : Word)
  | mmas (tile fmt wfmt tag ks rows cols aBase aPitch aSpitch bBase bPitch bSpitch : Nat)
  | mtopk (tile src m n base : Nat)
  | mtkr (tile m k base pitch : Nat)
  | mscl (tile : Nat) (factor : Word32 ⊕ Nat)
  | mchk (tile : Nat) (tol : Word32)
  | mcorr (tile : Nat)
  | macc (tile src : Nat)
  | mlda (tile fmt m n base pitch : Nat)
  | mflip (spec : Word) (target : Word) (asker : Nat)
  deriving DecidableEq, Repr, Inhabited

/-- A line of a matrix operand as its owner read it: element codes, scale codes and poison. -/
structure RawLine where
  codes : List Nat
  scales : List Nat
  poison : Bool
  deriving DecidableEq, Repr, Inhabited

/-- A block of an MMAS operand as its owner read it, once for every core it is sent to (10 R276). -/
structure RawBlock where
  fmt : Nat
  tensorScale : Nat
  poison : Bool
  lines : List RawLine
  deriving DecidableEq, Repr, Inhabited

/-- An engine entry in a queue (05 R124, 11 R292). -/
structure Entry where
  id : Nat
  aid : Nat
  actor : Word
  job : Half
  op : EOp
  /-- the counter it posts to on its own core, when it posts (11 R301) -/
  post : Option Nat := none
  /-- issued unstaged before COMMIT, so R50 records its postings -/
  early : Bool := false
  tags : Tags := {}
  /-- operations that must be performed before its first read (05 R132), as in `Deferred` -/
  after : List Nat := []
  scope : Nat := 0
  started : Bool := false
  /-- destination sectors already performed -/
  done : List Nat := []
  /-- whole sectors for another package that wait for the rest of their flit: piece, virtual address, address there and bytes
  (19 R428) -/
  packed : List (Nat × Nat × Nat × List Byte) := []
  /-- index list read at the start (11 R300) -/
  index : List Int := []
  ticket : Option Nat := none
  gateMet : Bool := false
  /-- when the present wait began, if it waits (02 R451) -/
  waitSince : Option Nat := none
  /-- an MMAS's own blocks A and B, once they are read (10 R276) -/
  blockA : Option RawBlock := none
  blockB : Option RawBlock := none
  /-- a residue mismatch has struck it (10 R288) -/
  struck : Bool := false
  /-- the effective deadline of its activation's message (17 R391) -/
  deadline : Word32 := 0
  /-- acquire events still to happen that cover what it reads (05 R130) -/
  acquires : List Acquire := []
  deriving DecidableEq, Repr, Inhabited

/-- An effect as it was built at issue: staged before COMMIT, performed in program order at release (02 R47, 08 R190).
`mask` is the guard mask it carries, `scope` its scope. -/
inductive Eff where
  | store (va n : Nat) (v : Word) (poison : Bool)
  | strl (va n : Nat) (v : Word) (poison : Bool) (mask : BitVec 17) (scope : Nat)
  | amo (va : Nat) (op : BitVec 3) (narrow : Bool) (b c : Word) (poison : Bool) (order : BitVec 2) (mask : BitVec 17)
      (scope : Nat)
  /-- `give` is the region captured for its grant, if any (12 R329) -/
  | send (m : Msg) (give : Option Nat) (mask : BitVec 17) (scope : Nat)
  | sendd (m : Msg) (slot : Nat) (mask : BitVec 17) (scope : Nat)
  | sendn (m : Msg) (grid : Word) (rec : Option (Word × Word × Word × Word)) (mask : BitVec 17) (scope : Nat)
  | cinc (name : Option Word) (counter : Nat) (amount : Word32) (mask : BitVec 17) (scope : Nat)
  /-- `p6` is the poison of payload word 6 -/
  | route (o0 o1 o2 o3 o4 o5 o6 o7 : Word) (p6 : Bool) (mask : BitVec 17) (scope : Nat)
  | engine (queue : Nat) (op : EOp) (post : Option Nat) (mask : BitVec 17) (scope : Nat)
      (ranges : List (Bool × Nat × Nat))
  | fence (mask : BitVec 17) (scope : Nat)
  /-- a decrement that waits for its masked operations (12 R335) -/
  | depdec (slot : Nat) (mask : BitVec 17) (scope : Nat)
  /-- a list of a ROUTE whose count has been added, with its message (12 R340) -/
  | routeSend (va : Nat) (bytes : List Byte) (m : Msg) (mask : BitVec 17) (scope : Nat)
  deriving DecidableEq, Repr, Inhabited

/-- What an activation's stream waits on. -/
inductive Wait where
  | none
  /-- the queues, a claim, an order of memory: tried again at each turn -/
  | retry
  | counter (n : Nat) (target : Word32)
  | counterLimit (n : Nat) (target : Word32) (limit : Nat) (exit : Bool)
  | ticket (n : Nat)
  | remote (req : Nat)
  | keystone (req : Nat)
  | flip (entry : Nat)
  | sfu (req : Nat)
  | stop (part : Nat)
  | digest
  deriving DecidableEq, Repr, Inhabited

/-- An answer that has come for the instruction at the pc. -/
inductive Memo where
  | none
  | value (v : Word) (poison : Bool)
  | met
  | expired
  /-- the runs of a mirrored child agree: what the run holds is released (03 R86) -/
  | agreed
  deriving DecidableEq, Repr, Inhabited

/-- The E-sequencer (09 R236 to R238) and the E-stream instructions that decode has delivered and the E-stream has not
executed (07 R167). -/
structure ESeq where
  pending : List Instr := []
  /-- instructions of the latest body still to be delivered; whether its loop has begun -/
  need : Nat := 0
  begun : Bool := false
  /-- the body of the loop that runs, the place reached in it, and the iterations left -/
  body : List Instr := []
  index : Nat := 0
  left : Nat := 0
  deriving DecidableEq, Repr, Inhabited

/-- A write that a die has applied: its bytes, the writing core, the writing die with its vector clock (05 R117), and whether
it is to a replicated page. -/
structure Seen where
  addr : Nat
  len : Nat
  core : Nat
  die : Nat
  stamp : List Word32
  replicated : Bool := false
  deriving DecidableEq, Repr, Inhabited

/-- A load performed before the loads that precede it (01 R30): its address and size, the place read, what it read, or the
request that reads it at another package; the writes its die has applied since; and whether an acquire event that
does not cover it has come since. -/
structure EarlyRead where
  va : Nat
  len : Nat
  place : Nat
  bytes : List Byte := []
  poison : Bool := false
  req : Option Nat := none
  since : List Seen := []
  passed : Bool := false
  deriving DecidableEq, Repr, Inhabited

inductive RState where
  | empty | owned | given
  deriving DecidableEq, Repr, Inhabited

/-- A region slot (04 R90, R93). `renewed` marks an RNEW since a staged GIVE. -/
structure Region where
  state : RState := .empty
  cls : BitVec 2 := 0
  w : Bool := false
  r : Bool := false
  size : Nat := 0
  offset : Nat := 0
  renewed : Bool := false
  deriving DecidableEq, Repr, Inhabited

/-- A place for an actor: a core that has room, with a resident number and the regions placed (03 R84). -/
structure Room where
  core : Nat
  resident : Nat
  regions : Vector Region 8
  deriving DecidableEq, Repr, Inhabited

/-- An activation in its slot. `live` is false when the slot is empty. -/
structure Act where
  live : Bool := false
  aid : Nat := 0
  core : Nat := 0
  slot : Nat := 0
  /-- own name with its incarnation; for a pool activation the pool's name (02 R45) -/
  name : Word := 0
  /-- which run of a mirrored child this is: 0 primary, 1 shadow, 2 third (03 R85, R86) -/
  run : Nat := 0
  x : Vector Word 32 := Vector.replicate 32 0
  xp : BitVec 32 := 0
  p : Vector PRow 8 := Vector.replicate 8 0
  pp : Vector PRow 8 := Vector.replicate 8 0
  e : Vector ERow 32 := Vector.replicate 32 0
  ep : Vector (BitVec 32) 32 := Vector.replicate 32 0
  o : Vector Word 8 := Vector.replicate 8 0
  op : BitVec 8 := 0
  q : Vector (List QEntry) 6 := Vector.replicate 6 []
  bq : List (Bool × Bool) := []
  pc : Word := 0
  streams : Vector Stream 4 := Vector.replicate 4 {}
  guards : Vector Guard 16 := Vector.replicate 16 .empty
  staged : List Eff := []
  committed : Bool := false
  commitAt : Nat := 0
  posts : List (Nat × Word32) := []
  armed : List Nat := []
  /-- release fences whose operations are still awaited (05 R129) -/
  fences : List (List Nat × Nat) := []
  /-- how many staged effects and recorded fences have been released (05 R132, R135) -/
  outs : Nat := 0
  /-- acquire events still to come, loads performed ahead (01 R30, 05 R130), and halfwords of code read ahead (07 R166) -/
  acquires : List Acquire := []
  early : List EarlyRead := []
  ahead : List (Nat × List Byte) := []
  /-- the bytes of the instruction at the pc, once it has been fetched and while it waits to complete -/
  issued : Option (List Byte) := none
  fflags : BitVec 5 := 0
  frm : BitVec 4 := 0
  tol : Word32 := 0
  srctr : Word := 0
  mflags : BitVec 5 := 0
  mdraw : Word := 0
  replays : BitVec 8 := 0
  eflags : BitVec 5 := 0
  /-- the rounding override: mode and e5inf (09 R239) -/
  erm : Option (BitVec 3 × Bool) := none
  eseq : ESeq := {}
  msg : Msg := {}
  seq : Nat := 0
  arrived : Nat := 0
  deadline : Word32 := 0
  /-- the expert entry and set the message captured (13 R348, R352) -/
  capture : Option (Nat × Nat) := none
  psel : BitVec 6 := 0
  jsel : BitVec 16 := 0
  wait : Wait := .none
  ewait : Wait := .none
  memo : Memo := .none
  /-- how many of a mirrored child's shared answers the run has taken (03 R85) -/
  nth : Nat := 0
  /-- the place that a SPAWN has chosen, while it copies the initialisers (03 R84, 12 R313) -/
  room : Option Room := none
  ememo : List (ERow) := []
  /-- the stream of the destination register, as an SFU request found it (09 R234) -/
  edst : Stream := {}
  deriving DecidableEq, Repr, Inhabited

/-! ## A core -/

/-- A port (11 R297). -/
structure Port where
  num : Nat
  actor : Word
  /-- which run of a mirrored child armed it -/
  run : Nat := 0
  region : Nat
  counter : Nat
  expected : Word32
  aid : Nat
  deriving DecidableEq, Repr, Inhabited

/-- A top-k state's pairs of one row, in rank order (10 R283). -/
abbrev TopRow := List (Half × Word32)

/-- An accumulator tile (10 R265, R271, R283, R285, R286). `owner` is the activation that claims it. -/
structure Tile where
  num : Nat
  owner : Nat
  /-- elements that are not +0, by `row * 128 + col`, in rising order -/
  elems : List (Nat × Word32) := []
  poison : List Nat := []
  pr : List (Nat × Word32) := []
  pc : List (Nat × Word32) := []
  sumPoison : List Nat := []
  topk : List (Nat × TopRow) := []
  abandoned : Bool := false
  corrected : Bool := false
  uncorrectable : Bool := false
  suspect : Bool := false
  nrows : Nat := 0
  ncols : Nat := 0
  row : Nat := 0
  col : Nat := 0
  nan : Bool := false
  deriving DecidableEq, Repr, Inhabited

/-- A weight buffer (10 R266, R270): its lines as stored codes, with the scales latched, and the checksum column. -/
structure WBuf where
  num : Nat
  owner : Nat
  /-- format, K and N of the latest MLDW issued into it, against which later instructions are checked -/
  issued : Nat × Nat × Nat := (0, 0, 0)
  fmt : Nat := 0
  k : Nat := 0
  n : Nat := 0
  /-- element codes of column `j`, `k` of them -/
  cols : List (List Nat) := []
  scales : List (List Nat) := []
  tensorScale : Word32 := 0x3F800000
  bs : List Word32 := []
  poison : List Nat := []
  loaded : Bool := false
  deriving DecidableEq, Repr, Inhabited

/-- What the cores hold outside their slots. A core that is not listed is `{}`. -/
structure Core where
  counters : List (Nat × Word32) := []
  ports : List Port := []
  queues : Vector (List Entry) 7 := Vector.replicate 7 []
  /-- the partition word: [7:5] register units, [4:0] accumulator tiles (04 R87) -/
  word : BitVec 8 := 0
  /-- the partition the core belongs to -/
  part : Option Nat := none
  lcore : Half := 0
  tiles : List Tile := []
  bufs : List WBuf := []
  /-- its counters have been restored since its partition was resumed (16 R375) -/
  restored : Bool := false
  /-- the dirty log (17 R398): address-space id and VA[54:16] -/
  dirty : List (Nat × Nat) := []
  /-- residue mismatches to strike (10 R288) -/
  residue : Nat := 0
  deriving DecidableEq, Repr, Inhabited

/-! ## Memory -/

/-- A write of the package not yet applied at every die (05 R116 to R122), or a push of a stream (09 R233). -/
structure PendWrite where
  id : Nat
  aid : Nat
  core : Nat
  /-- the writer's name -/
  actor : Word := 0
  /-- address-space id and virtual address as issued -/
  asid : Nat
  va : Nat
  addr : Nat
  bytes : List Byte
  poison : Bool
  key : Byte
  die : Nat
  home : Nat
  /-- dies that hold a replica, for a replicated page (05 R122) -/
  replicas : Option (BitVec 4)
  /-- the writer's vector clock (05 R117) -/
  stamp : List Word32
  applied : List Nat
  tags : Tags
  /-- its place in the home's order, once the home has applied it; and what the home has put over its bytes since: address,
  length, and the writing die and its count, none for a write performed for every observer at once (05 R117) -/
  place : Option Nat := none
  under : List (Nat × Nat × Option (Nat × Word32)) := []
  /-- for a push of a stream (09 R233): the stream, and which bytes are written -/
  stream : Option Nat := none
  mask : List Bool := []
  deriving DecidableEq, Repr, Inhabited

/-- An error pattern on a stored line: symbols of R401 and what is XORed into each. -/
abbrev LineErr := List (Nat × Byte)

structure Mem where
  /-- every byte as its home holds it; physical keys by `Machine/Ops.lean`; unlisted bytes read 0 -/
  cells : List Host.Cell := []
  /-- for each die, the bytes it sees otherwise (05 R117), and the poison of lines and sectors it sees otherwise -/
  views : List (Nat × List Host.Cell) := []
  viewPoison : List (Nat × List (Nat × Bool)) := []
  pending : List PendWrite := []
  /-- each die's vector clock of four 32-bit counters (05 R117) -/
  clocks : Vector (Vector Word32 4) 4 := Vector.replicate 4 (Vector.replicate 4 0)
  /-- poisoned HBM lines and sectors of pools, by line or sector number (18 R408) -/
  poisonLines : List Nat := []
  poisonSectors : List Nat := []
  /-- halves of poisoned lines that an engine entry has written whole with clean data since the line was last poisoned: line,
  half and the entry's number (18 R405) -/
  halves : List (Nat × Nat × Nat) := []
  lineErrs : List (Nat × LineErr) := []
  /-- the key generation each HBM line was last written under (18 R418 to R421) -/
  lineKeys : List (Nat × Nat) := []
  /-- the generation bound to each key id (18 R419); an unlisted id is not bound -/
  keySlots : List (Nat × Nat) := []
  /-- next line the patrol scrubber of each stack reads (18 R406) -/
  scrub : List (Nat × Nat) := []
  /-- the period of a pass, and when each stack's present pass began -/
  scrubHours : Nat := 24
  scrubStart : List (Nat × Nat) := []
  deriving DecidableEq, Repr, Inhabited

/-! ## Actors, messages and the directory -/

/-- A region initialiser of an image (03 R83). -/
structure RegInit where
  size : Nat
  cls : BitVec 2
  w : Bool
  r : Bool
  source : Nat
  deriving DecidableEq, Repr, Inhabited

/-- An image descriptor (03 R83), as copied at its check. -/
structure Image where
  va : Nat := 0
  entry : Word := 0
  quota : Nat := 1024
  part : BitVec 8 := 0
  trapx : Bool := false
  die : Nat := 4
  service : Bool := false
  index : Nat := 0
  regions : List RegInit := []
  deriving DecidableEq, Repr, Inhabited

inductive LinkType where
  | link | monitor | monitored
  deriving DecidableEq, Repr, Inhabited

/-- An entry of a link and monitor table (03 R68). -/
structure LinkEntry where
  num : Nat
  partner : Word
  ref : Word32
  type : LinkType
  deriving DecidableEq, Repr, Inhabited

/-- A child of a supervision record (03 R78). -/
structure Child where
  image : Image
  mirror : Bool
  cond : BitVec 2
  /-- what is owed: a placement, with the reason of the exit that called for it -/
  owed : Option Nat := none
  placed : Bool := false
  /-- the pieces of its initialisers that its placement has copied so far (17 R396) -/
  copied : List (List Byte × Bool) := []
  /-- the places that its placement has chosen and keeps (03 R84) -/
  rooms : List Room := []
  deriving DecidableEq, Repr, Inhabited

/-- A restart engine's copy of a supervision record (03 R78, R82). -/
structure SupRec where
  bytes : List Byte
  intensity : Nat
  window : Nat
  group : Bool
  children : List Child
  restarts : List Nat := []
  /-- the graph level it names has been cancelled, and so has completed (02 R62) -/
  cut : Bool := false
  deriving DecidableEq, Repr, Inhabited

structure Timer where
  ref : Word32
  /-- the time base, in ns, at or after which it fires -/
  due : Nat
  deriving DecidableEq, Repr, Inhabited

/-- A message in a mailbox or pool queue, with its arrival sequence, arrival time and effective deadline (02 R44, R54). -/
structure QMsg where
  msg : Msg
  seq : Nat
  arrived : Nat
  deadline : Word32
  landed : Bool := false
  capture : Option (Nat × Nat) := none
  /-- the sender's die, none when the sender is not in the package (13 R351) -/
  src : Option Nat := none
  deriving DecidableEq, Repr, Inhabited

inductive Life where
  | live
  | exiting (reason : Nat)
  | restarting (reason : Nat)
  /-- cleared with its partition, until Calico restores it (16 R374) -/
  | saved
  deriving DecidableEq, Repr, Inhabited

/-- A mirrored child's second and third runs (03 R85, R86). -/
structure Mirror where
  run : Nat
  core : Nat
  resident : Nat
  regions : Vector Region 8
  digest : Option (List Byte)
  deriving DecidableEq, Repr, Inhabited

/-- What Calico keeps of an actor, or of a pool, whose partition was cleared (16 R374, R375). Runs of a mirrored child, and
members of a pool, are numbered by their place. -/
structure Saved where
  /-- the logical core number of each place, and its region slots -/
  places : List (Half × Nat × Vector Region 8) := []
  /-- bytes and poison of the regions, by place and region -/
  bytes : List (Nat × Nat × List (Byte × Bool)) := []
  counters : List (Half × List (Nat × Word32)) := []
  ports : List (Half × Port) := []
  deriving DecidableEq, Repr, Inhabited

/-- A directory entry with the actor it names (02 R31, R66). Actors of kinds 0b00 and 0b10. -/
structure Actor where
  job : Half
  service : Bool
  index : Nat
  inc : Nat
  life : Life := .live
  image : Image := {}
  core : Nat := 0
  resident : Nat := 0
  regions : Vector Region 8 := Vector.replicate 8 {}
  links : List LinkEntry := []
  trapx : Bool := false
  supervisor : Option (Word × Nat) := none
  record : Option SupRec := none
  timers : List Timer := []
  onCore : List QMsg := []
  spill : List QMsg := []
  nextSeq : Nat := 0
  held : List QMsg := []
  heldDropped : Nat := 0
  mirror : List Mirror := []
  digest : Option (List Byte) := none
  /-- a mirrored child's persist and inbox bytes as they stood at the activation's entry, by region (03 R86) -/
  entryBytes : List (Nat × List (Byte × Bool)) := []
  /-- runs of a mirrored child that were pre-empted, with the message each handles again (03 R86); and the answers that the
  runs of the activation share: what an instruction does outside the runs it does once (03 R85) -/
  rerun : List (Nat × QMsg) := []
  shared : List (Word × Bool) := []
  /-- set by a group restart: this exit gives the supervisor no notice (03 R81) -/
  quiet : Bool := false
  /-- its runs' digests have all differed: its job's monitor hears of its exit (03 R86) -/
  diverged : Bool := false
  root : Bool := false
  saved : Saved := {}
  deriving DecidableEq, Repr, Inhabited

/-- A pool queue of one die (02 R40, R58). -/
structure PoolQueue where
  die : Nat
  num : Nat
  msgs : List QMsg := []
  nextSeq : Nat := 0
  deriving DecidableEq, Repr, Inhabited

/-- A pool's regions on one core (02 R58). -/
structure Member where
  core : Nat
  resident : Nat
  regions : Vector Region 8
  deriving DecidableEq, Repr, Inhabited

structure Pool where
  job : Half
  index : Nat
  inc : Nat
  life : Life := .live
  image : Image := {}
  dies : BitVec 4 := 0
  queues : List PoolQueue := []
  members : List Member := []
  links : List LinkEntry := []
  trapx : Bool := false
  record : Option SupRec := none
  timers : List Timer := []
  /-- messages held while its partition is cleared (16 R374), and what Calico keeps of it then -/
  held : List QMsg := []
  saved : Saved := {}
  deriving DecidableEq, Repr, Inhabited

/-- A live launch (02 R63, 12 R332). Its outstanding messages are those that carry its number. -/
structure Launch where
  num : Word32
  job : Half
  notify : Option (Word × Nat)
  /-- operations the completion's addition waits for -/
  after : List Nat
  scope : Nat
  /-- points at other packages that are not yet handled -/
  abroad : Nat := 0
  /-- the core of the activation that released it -/
  core : Nat := 0
  deriving DecidableEq, Repr, Inhabited

/-- An open phase (02 R60, R61, 13 R348): its epoch, and for each model of the job the set it captured. -/
structure Phase where
  job : Half
  id : Half
  epoch : Word32
  sets : List (Nat × Nat)
  closed : Bool
  deriving DecidableEq, Repr, Inhabited

/-- A message placed on a dependence slot (12 R334): its sender and the sender's die, and what its release waits for. -/
structure Placed where
  msg : Msg
  src : Word
  die : Nat
  after : List Nat
  scope : Nat
  deriving DecidableEq, Repr, Inhabited

/-- A dependence slot (12 R333 to R336), with the partition that owns it (01 R28). -/
structure DepSlot where
  die : Nat
  num : Nat
  owner : Option Nat := none
  count : Nat := 0
  held : Option Placed := none
  deriving DecidableEq, Repr, Inhabited

/-- What a shard here has learnt of a name whose actor is on another package (19 R435, R436): its package, and, until the old
location `from_` has confirmed, the later messages that are held, oldest first. -/
structure Located where
  job : Half
  index : Nat
  pkg : Nat
  from_ : Option Nat := none
  held : List Msg := []
  deriving DecidableEq, Repr, Inhabited

structure Dir where
  actors : List Actor := []
  pools : List Pool := []
  aliases : List (Half × Nat × Nat) := []
  /-- last incarnation given to each index (02 R33) -/
  lastInc : List (Half × Bool × Nat × Nat) := []
  /-- the die that the last incarnation of each index ran on (03 R84) -/
  lastDie : List (Half × Bool × Nat × Nat) := []
  remote : List Located := []
  launches : List Launch := []
  phases : List Phase := []
  slots : List DepSlot := []
  deriving DecidableEq, Repr, Inhabited

/-- What is in flight to a name or a core. -/
inductive Item where
  | msg (m : Msg)
  /-- the points of a launch that are still to arrive, from point `next` (02 R63) -/
  | launch (m : Msg) (grid : Word) (rec : Word × Word × Word × Word) (num : Word32) (next : Nat)
  | exitSignal (reason : Nat) (dropped : Word)
  | down (reason : Nat) (dropped : Word) (ref : Word32)
  | supNotice (child : Nat) (reason : Nat) (dropped : Word)
  | kill (reason : Nat)
  | cinc (counter : Nat) (amount : Word32)
  | launchDone (num : Word32) (counter : Nat) (core : Nat)
  | faultReply (ticket : Nat) (outcome : Word)
  /-- a sector of a PUSH: port, byte offset, delivered size of the whole, who had armed the port when it left, bytes, poison
  (11 R298, 04 R99) -/
  | pushSector (entry : Nat) (core port off size : Nat) (actor : Word) (data : List Byte) (poison : Bool)
  /-- a sector of a PUSHR: core and offset, the address that led there, bytes, poison, counter (11 R299) -/
  | pushrSector (entry : Nat) (core off va : Nat) (data : List Byte) (poison : Bool) (post : Option Nat)
  deriving DecidableEq, Repr, Inhabited

structure Flight where
  id : Nat
  src : Word
  dst : Word
  die : Nat
  item : Item
  after : List Nat := []
  scope : Nat := 0
  aid : Nat := 0
  /-- the phase epoch that a signal was released in (13 R348) -/
  epoch : Word32 := 0
  deriving DecidableEq, Repr, Inhabited

/-- Who makes an access: activation, core, which run of a mirrored child, actor, address-space id and partition. -/
structure Who where
  aid : Nat
  core : Nat
  run : Nat
  name : Word
  asid : Nat
  part : Nat
  deriving DecidableEq, Repr, Inhabited

/-- A release whose own effect waits for the operations its mask covers (05 R132). An operation waited for is `2 * id`
when it must be performed at `scope`, and `2 * id + 1` when it must be applied at its home die (05 R120). -/
structure Deferred where
  id : Nat
  who : Who
  eff : Eff
  after : List Nat
  scope : Nat
  tags : Tags
  /-- the ticket of its miss, and when the wait began or its activation ended, whichever is later (02 R451) -/
  ticket : Option Nat := none
  since : Nat := 0
  /-- the effective deadline of its activation's message (17 R391) -/
  deadline : Word32 := 0
  deriving DecidableEq, Repr, Inhabited

/-- Staged effects released at DONE that wait behind a miss (08 R191). -/
structure Tail where
  aid : Nat
  act : Act
  ticket : Option Nat
  since : Nat
  deriving DecidableEq, Repr, Inhabited

structure Wire where
  flights : List Flight := []
  deferred : List Deferred := []
  tails : List Tail := []
  deriving DecidableEq, Repr, Inhabited

/-! ## Translation (17) -/

/-- An entry that a slice caches (17 R389): at level 4 the leaf of one 64 KiB page, at levels 0 to 2 a valid root entry
or table pointer; `tag` is the page, or the part of the address that led to the pointer. -/
structure Cached where
  die : Nat
  slice : Nat
  asid : Nat
  level : Nat := 4
  tag : Nat
  entry : Word
  deriving DecidableEq, Repr, Inhabited

/-- An outstanding ticket (17 R391, R392). -/
structure Ticket where
  num : Nat
  asid : Nat
  page : Nat
  /-- the record's four words and the effective deadline it was sent with -/
  va : Word
  actor : Word
  where_ : Word
  what : Word
  deadline : Word32
  part : Nat
  /-- accesses that joined: activations, and entries as core and queue, and the named one first -/
  acts : List Nat := []
  entries : List (Nat × Nat) := []
  restarts : List (Word × Nat) := []
  deriving DecidableEq, Repr, Inhabited

structure Xlat where
  cached : List Cached := []
  tickets : List Ticket := []
  nextSeq : Vector Nat 4 := Vector.replicate 4 0
  deriving DecidableEq, Repr, Inhabited

/-! ## Experts (13) -/

/-- One weight set of an entry (13 R346). -/
structure WSet where
  state : BitVec 2 := 0
  waiting : List QMsg := []
  pages : Nat := 0
  window : Nat := 0
  kind : BitVec 2 := 0
  address : Nat := 0
  /-- the copy on each die: epoch, present, page -/
  epoch : Vector Word32 4 := Vector.replicate 4 0
  present : BitVec 4 := 0
  page : Vector Nat 4 := Vector.replicate 4 0
  owed : Bool := false
  deriving DecidableEq, Repr, Inhabited

/-- An entry of the expert residency table (13 R346). -/
structure ExpEntry where
  num : Nat
  valid : Bool := false
  pool : Nat := 0
  expert : Half := 0
  job : Half := 0
  model : Half := 0
  pins : Nat := 0
  home : BitVec 2 := 0
  load : Word32 := 0
  last : Word32 := 0
  sets : Vector WSet 2 := Vector.replicate 2 {}
  deriving DecidableEq, Repr, Inhabited

/-- A model record (13 R347). -/
structure ModelRec where
  num : Nat
  valid : Bool := false
  job : Half := 0
  model : Half := 0
  pset : Bool := false
  pending : Bool := false
  force : Bool := false
  ingress : BitVec 2 := 0
  ver : BitVec 2 := 0
  switch : Word32 := 0
  openA : Nat := 0
  openB : Nat := 0
  /-- the SHA-256 of the manifest that verified each set (13 R357) -/
  manifest : Vector (List Byte) 2 := Vector.replicate 2 []
  deriving DecidableEq, Repr, Inhabited

/-- A fetch, or a copy, of a set: entry, set, whether it has started, when its present reads were sent, and the retry of
R354. -/
structure Fetch where
  entry : Nat
  set : Nat
  started : Bool := false
  since : Nat := 0
  retried : Bool := false
  deriving DecidableEq, Repr, Inhabited

/-- Room kept on a die for its oldest waiting fetch that lacks room (13 R354): the pages, and the fetch. -/
structure Reserve where
  die : Nat
  first : Nat
  pages : Nat
  entry : Nat
  set : Nat
  deriving DecidableEq, Repr, Inhabited

structure Exp where
  entries : List ExpEntry := []
  models : List ModelRec := []
  /-- expert range of each job: base and count (13 R345) -/
  ranges : List (Half × Nat × Nat) := []
  fetches : List Fetch := []
  /-- replica copies in progress: entry, set, target die, first page -/
  copies : List (Nat × Nat × Nat × Nat) := []
  reserved : List Reserve := []
  /-- what Calico's last request to write a table returned: done, or an error (13 R346) -/
  answer : Option Bool := none
  deriving DecidableEq, Repr, Inhabited

/-! ## Partitions and jobs (16) -/

/-- A partition's registers (16 R368, R370). -/
structure Part where
  state : BitVec 3 := 0
  spans : BitVec 48 := 0
  asid : Half := 0
  keys : Half := 0
  dep : Word32 := 0
  spill : Word := 0
  wt : Word := 0
  slack : Word32 := 10000
  margin : Word32 := 2000
  wdog : Word32 := 200000
  repl : Word32 := 4096
  replays : Word32 := 0
  mchk : BitVec 2 := 0
  /-- messages for host names that wait in spill (19 R440), and the gateway's error count (19 R439) -/
  hostSpill : List Msg := []
  gatewayErrors : Nat := 0
  /-- counts of the error classes (18 R417) and of kills by reason (18 R422) -/
  classes : List (Nat × Nat) := []
  kills : List (Nat × Nat) := []
  /-- activations that wait for this partition's stop, as activation ids -/
  stoppers : List Nat := []
  deriving DecidableEq, Repr, Inhabited

structure Job where
  id : Half
  valid : Bool := false
  diag : Bool := false
  part : Nat := 0
  seed : Word := 0
  monitor : Word := 0
  epoch : Word32 := 0
  /-- the largest phase id released, when one has been (02 R60) -/
  lastPhase : Option Half := none
  started : Bool := false
  deriving DecidableEq, Repr, Inhabited

structure Parts where
  parts : Vector Part 48 := Vector.replicate 48 {}
  jobs : List Job := []
  deriving DecidableEq, Repr, Inhabited

/-! ## Links (19) -/

/-- A flit as it left: with the counter, the salt and the key generation that its IV and its key have (19 R426). -/
structure SentFlit where
  flit : Flit
  counter : Word
  salt : Word32
  generation : Word32
  deriving DecidableEq, Repr, Inhabited

structure Link where
  state : BitVec 2 := 0
  err : Bool := false
  keywait : Bool := false
  thr : BitVec 41 := 0x1000000000
  txctr : Word := 0
  txgen : Word32 := 0
  rxgen : Word32 := 0
  tx : Vector (BitVec 2) 2 := Vector.replicate 2 0
  rx : Vector (BitVec 2) 2 := Vector.replicate 2 0
  txnext : Half := 0
  txold : Half := 0
  rxnext : Half := 0
  replay : List Flit := []
  failTotal : Word32 := 0
  failRun : BitVec 4 := 0
  rxsalt : Word32 := 0
  txsalt : Word32 := 0
  held : List Flit := []
  /-- transactions that wait to leave, each with the package it is for -/
  out : List (Nat × Transaction) := []
  /-- the flit that left last -/
  last : Option SentFlit := none
  /-- the package at the other end, once trained; and the last times anything was sent and verified -/
  peer : Option Nat := none
  lastSent : Nat := 0
  lastVerified : Nat := 0
  deriving DecidableEq, Repr, Inhabited

/-- An outstanding request to another package (19 R425, R427). -/
structure RemoteReq where
  id : Nat
  aid : Nat
  core : Nat
  actor : Word
  place : Nat
  /-- the time of its first transmission, and until it is `sent` of its issue (19 R425) -/
  sentAt : Nat
  sent : Bool := false
  store : Bool
  tags : Tags
  va : Nat
  len : Nat := 0
  /-- the count of its die's writes when it was issued (05 R120) -/
  count : Word32 := 0
  /-- a posted CAS: poison on the value it compared kills when its answer says so (18 R409) -/
  cas : Bool := false
  /-- an atomic's page for the dirty log, when it writes: at once, or for a CAS when its old value has these bits (17 R398) -/
  logs : Option (Nat × Nat) := none
  compare : Option Nat := none
  /-- the entry, by its id, and the piece of it that the request serves -/
  entry : Option (Nat × Nat) := none
  answer : Option (List Byte × Bool) := none
  deriving DecidableEq, Repr, Inhabited

structure Links where
  links : Vector Link 20 := Vector.replicate 20 {}
  rto : Word32 := 50
  remote : List RemoteReq := []
  /-- transactions for packages that no link that is up reaches (19 R433) -/
  waiting : List (Nat × Transaction) := []
  /-- peers: package, time of its last heartbeat, lost or fenced -/
  peers : List (Nat × Nat × Bool) := []
  lastBeat : List (Nat × Nat) := []
  /-- dies declared lost (03 R76) -/
  lostDies : BitVec 4 := 0
  /-- dies whose Trestle heartbeats have ceased, with the time of the last one, or for which a fatal error is reported (03
  R76) -/
  dieDown : List (Nat × Option Nat) := []
  deriving DecidableEq, Repr, Inhabited

/-! ## Host (19), Keystone (16, 18), logs (18) and bring-up (20) -/

/-- Receive-queue registers of a partition (19 R440). -/
structure Rxq where
  base : Word := 0
  size : Word := 0
  head : Word := 0
  tail : Word := 0
  port : Bool := false
  overflow : Word := 0
  deriving DecidableEq, Repr, Inhabited

/-- An NVM Read command in a queue pair of the pager (19 R438): for an entry's set, the first 4 KiB block, and the pages of HBM
that its PRP list names, one for each block. -/
structure NvmeRead where
  entry : Nat
  set : Nat
  queue : Nat
  block : Nat
  prps : List Nat
  deriving DecidableEq, Repr, Inhabited

/-- An unordered I/O read of the pager (19 R438): for an entry's set, the first byte in fabric memory, and the bytes. -/
structure UioRead where
  entry : Nat
  set : Nat
  address : Nat
  len : Nat
  deriving DecidableEq, Repr, Inhabited

/-- A vector's entry of an MSI-X table. -/
structure MsixEntry where
  address : Word := 0
  data : Word32 := 0
  masked : Bool := true
  deriving DecidableEq, Repr, Inhabited

/-- A port's base addresses and MSI-X table (19 R438, 20 R447). -/
structure PortConfig where
  bar0 : Word := 0
  bar2 : Word := 0
  msix : List (Nat × MsixEntry) := []
  deriving DecidableEq, Repr, Inhabited

structure HostSide where
  rxq : Vector Rxq 48 := Vector.replicate 48 {}
  ports : Vector PortConfig 2 := Vector.replicate 2 {}
  /-- MSI-X vectors raised, as port and vector, oldest first (19 R438) -/
  msix : List (Nat × Nat) := []
  /-- the last response given to the host: 0 success, 1 Unsupported Request, 2 Retry Status, 3 success
  with poisoned data; and the data -/
  response : Nat × List Byte := (0, [])
  /-- read commands in the queues of the BAR2 window whose doorbell has been rung and that are not completed -/
  nvme : List NvmeRead := []
  /-- what was last written to the doorbell of each queue pair, its tail (assumption 107); and the pager's reads of fabric memory
  that are not completed -/
  doorbells : List (Nat × Nat) := []
  uio : List UioRead := []
  deriving DecidableEq, Repr, Inhabited

/-- A request in Keystone's mailbox (16 R365, R367): the asking activation, its record's pool key and its bytes. -/
structure KReq where
  id : Nat
  aid : Nat
  who : Who
  core : Nat
  record : Nat
  bytes : List Byte
  attest : Bool
  deriving DecidableEq, Repr, Inhabited

/-- An attestation record (18 R422). -/
structure Attest where
  job : Half
  part : Nat
  asid : Half
  keys : Half
  start : Nat
  end_ : Nat := 0
  halted : Bool := false
  sealed : Bool := false
  entries : List (Nat × List Byte) := []
  errors : List Nat := []
  signature : List Byte := []
  deriving DecidableEq, Repr, Inhabited

structure Keystone where
  mailbox : List KReq := []
  records : List Attest := []
  /-- digests Keystone verified under code 4 (16 R367), by job -/
  verified : List (Half × List Byte) := []
  generation : Nat := 0
  calicoRoot : Option Word := none
  rootRetried : Bool := false
  deriving DecidableEq, Repr, Inhabited

/-- An entry of an error log (18 R416). `latest` is when the last repeat merged into it came. -/
structure LogEntry where
  time : Nat
  cls : Nat
  unit : Nat
  injected : Bool
  part : Option Nat
  location : Word32
  asid : Half
  address : BitVec 48
  detail : Word32
  reason : Half
  count : Half
  latest : Nat
  /-- the level that a malformed translation entry is logged with (17 R387), for which R416 lays out no bits -/
  level : Option Nat := none
  deriving DecidableEq, Repr, Inhabited

structure DieLog where
  /-- the ring: the entry of count k at place k mod 4,096 -/
  ring : List (Nat × LogEntry) := []
  head : Word32 := 0
  tail : Word32 := 0
  overflow : Word32 := 0
  /-- armed injections: unit, index, location, count (16 R379) -/
  armed : List (Nat × Nat × Word32 × Word32) := []
  /-- times of the timing replays of the last millisecond (18 R413) -/
  replays : List Nat := []
  deriving DecidableEq, Repr, Inhabited

structure Boot where
  /-- steps of this start that are done: 0 to 6 phases of R442; 7 with the root placed; 8 when it is ready -/
  steps : Nat := 0
  phase : BitVec 4 := 0
  mode : BitVec 2 := 0
  reset : BitVec 2 := 0
  starts : BitVec 4 := 0
  reason : Byte := 0
  detail : Byte := 0
  point : BitVec 2 := 0
  limit : BitVec 12 := 2800
  /-- phase 1 chose minimal mode (20 R443) -/
  minimal : Bool := false
  halted : Bool := false
  tripped : Bool := false
  powered : Bool := true
  rootSince : Nat := 0
  /-- stack 0 of die 0 trained in a minimal start (20 R444) -/
  hbm : Bool := true
  /-- host port 1 failed to train (20 R442) -/
  port1Down : Bool := false
  /-- a main image and its signature that the recovery image has written into non-volatile storage (20 R444) -/
  newMain : Option (List Byte × List Byte) := none
  deriving DecidableEq, Repr, Inhabited

/-! ## What the model adds to order its steps -/

/-- A hardware error that strikes (18 R401, R407, R413; 10 R288). -/
inductive Strike where
  | line (line : Nat) (err : LineErr)
  | sector (key : Nat)
  | xreg (aid r : Nat)
  | oreg (aid r : Nat)
  | ereg (aid r lane : Nat)
  | queue (aid q place : Nat)
  /-- an accumulator tile's sector, by an element of it -/
  | tile (core num elem : Nat)
  /-- a message word of a mailbox or pool queue, on the core or in spill: receiver, place, word -/
  | word (name : Word) (place w : Nat)
  /-- a message word in flight, on a dependence slot, on an expert's wait queue, or held for a receiver -/
  | flight (id w : Nat)
  | slotWord (slot w : Nat)
  | parkedWord (entry set place w : Nat)
  | heldWord (name : Word) (place w : Nat)
  /-- a single-bit error of a unit of a die, corrected in place -/
  | corrected (die unit core : Nat)
  | depSlot (slot : Nat)
  | directory (name : Word) (both : Bool)
  | control (name : Word)
  | timing (core : Nat) (inArray : Bool) (aid : Nat)
  | residue (core times : Nat)
  /-- a die's Trestle heartbeats cease, or its security controller or a surviving die reports a fatal error for it (03 R76) -/
  | dieSilent (die : Nat)
  | dieFatal (die : Nat)
  deriving DecidableEq, Repr, Inhabited

/-- One choice of what happens next. -/
inductive Turn where
  | event (i : Instr)
  /-- the A-stream, or the E-stream, of the running activation takes a step -/
  | aStream
  | eStream
  /-- another slot's activation becomes the running one -/
  | switch (aid : Nat)
  /-- a release whose masked operations are performed takes effect -/
  | release (id : Nat)
  /-- effects released at DONE go on -/
  | tail (aid : Nat)
  /-- a slice caches an entry that a walk for a page finds, or drops one, of its own accord (17 R389): of level 0 to 2 a
  pointer, of level 4 the leaf -/
  | sliceFill (die asid page level : Nat)
  | sliceDrop (die asid page level : Nat)
  /-- a load of the running activation is performed ahead of those before it (01 R30); a halfword of its code is read ahead
  (07 R166) -/
  | early (va n : Nat)
  | ahead (va : Nat)
  /-- a halfword as it was read ahead before is fetched again (07 R166) -/
  | reuse (va k : Nat)
  | strike (e : Strike)
  /-- the host reads a register of a partition's receive queue (19 R440) -/
  | hostRead (page off : Nat)
  /-- another package's security controller has verified a set of a model record's job at ingress (13 R357) -/
  | ingress (num set : Nat) (manifest : List Byte)
  /-- Calico raises a vector of its own (19 R438) -/
  | calicoVector (port vector : Nat)
  /-- a transfer through a port's BAR2 window: the line of HBM at an offset read, or written (19 R438) -/
  | peer (port off : Nat) (write : Option (List Byte))
  /-- the host writes a base address, or an entry of the MSI-X table -/
  | barWrite (port bar : Nat) (v : Word)
  | msixWrite (port vector : Nat) (e : MsixEntry)
  /-- the recovery image writes a replacement main image into storage (20 R444) -/
  | storeImage (image signature : List Byte)
  /-- this package's shard learns where another package's name now is; the old location confirms that it has forwarded what it
  had (19 R436) -/
  | learn (name : Word) (pkg : Nat)
  | confirm (name : Word)
  /-- points of a launch handled at other packages (12 R332) -/
  | pointsDone (job : Half) (num : Word32) (n : Nat)
  deriving DecidableEq, Repr, Inhabited

/-- The time base (00 R6) and the model's own fields: the agenda, and counters that identify and that index free
values. -/
structure Env where
  time : Nat := 0
  agenda : List Turn := []
  nextId : Nat := 1
  free : Nat := 0
  deriving DecidableEq, Repr, Inhabited

/-- The state of the package. `act` is the activation that runs; `acts` are those in other slots. -/
structure State where
  env : Env := {}
  act : Act := {}
  acts : List Act := []
  cores : List (Nat × Core) := []
  /-- SFU request queues, by cluster: activation and request (09 R257) -/
  sfu : List (Nat × List (Nat × Nat × Instr)) := []
  mem : Mem := {}
  dir : Dir := {}
  wire : Wire := {}
  xlat : Xlat := {}
  exp : Exp := {}
  parts : Parts := {}
  links : Links := {}
  host : HostSide := {}
  key : Keystone := {}
  logs : Vector DieLog 4 := Vector.replicate 4 {}
  boot : Boot := {}
  deriving DecidableEq, Repr, Inhabited

/-- The machine right after a cold reset: every field at the value the spec gives for reset, and where it gives none at
the value the assumption log names. -/
def State.reset : State := {}

end Sys2Proof.Machine
end

