-- ==== Sys2Proof/Machine/Store.lean ====
section
/-! DEFINITION. Sparse tables in one canonical form: keys strictly rising, and no entry equal to what an unlisted key
reads as. Memory's bytes, and everything else held by number, are such tables. -/

namespace Sys2Proof.Machine

/-- What a table holds at a key, `d` where the key is not listed. -/
def look {α : Type} (d : α) : List (Nat × α) → Nat → α
  | [], _ => d
  | (k, v) :: t, n => if n = k then v else look d t n

/-- Unlists a key. -/
def del? {α : Type} (n : Nat) (t : List (Nat × α)) : List (Nat × α) := t.filter fun c => c.1 != n

/-- Lists a key that is not listed, before the first that is above it. -/
def insertKey {α : Type} (n : Nat) (v : α) : List (Nat × α) → List (Nat × α)
  | [] => [(n, v)]
  | (k, u) :: t => if n < k then (n, v) :: (k, u) :: t else (k, u) :: insertKey n v t

/-- Lists a key's value. -/
def put? {α : Type} (n : Nat) (v : α) (t : List (Nat × α)) : List (Nat × α) := insertKey n v (del? n t)

/-- A table with one key's value changed; writing the default removes the entry. -/
def put {α : Type} [DecidableEq α] (d : α) (n : Nat) (v : α) (t : List (Nat × α)) : List (Nat × α) :=
  if v = d then del? n t else put? n v t

/-- The canonical form, from a lower bound on. -/
def wfFrom {α : Type} [DecidableEq α] (d : α) : Nat → List (Nat × α) → Bool
  | _, [] => true
  | lo, (k, v) :: t => decide (lo ≤ k) && decide (v ≠ d) && wfFrom d (k + 1) t

/-- The canonical form. -/
def wf {α : Type} [DecidableEq α] (d : α) (t : List (Nat × α)) : Bool := wfFrom d 0 t

/-- Keys strictly rise from a lower bound on. -/
def rising {α : Type} : Nat → List (Nat × α) → Bool
  | _, [] => true
  | lo, (k, _) :: t => decide (lo ≤ k) && rising (k + 1) t

/-- The value listed at a key, if any: for tables whose every listed value counts. -/
def look? {α : Type} : List (Nat × α) → Nat → Option α
  | [], _ => none
  | (k, v) :: t, n => if n = k then some v else look? t n

/-- Consecutive bytes from `a` up, as a table's cells hold them. -/
def lookN (t : List Host.Cell) (a : Nat) : Nat → List Byte
  | 0 => []
  | n + 1 => look 0 t a :: lookN t (a + 1) n

/-- Consecutive bytes written from `a` up. -/
def putN (a : Nat) : List Byte → List Host.Cell → List Host.Cell
  | [], t => t
  | b :: bs, t => putN (a + 1) bs (put 0 a b t)

/-- The value of bytes, the lowest address least significant (00 R5). -/
def leNat : List Byte → Nat
  | [] => 0
  | b :: bs => b.toNat + 256 * leNat bs

/-- The `n` bytes of a value, least significant first (00 R5). -/
def leBytes : Nat → Nat → List Byte
  | 0, _ => []
  | n + 1, v => BitVec.ofNat 8 v :: leBytes n (v / 256)

/-- A number inserted in a rising list without repeats. -/
def insertNat (n : Nat) : List Nat → List Nat
  | [] => [n]
  | k :: t => if n < k then n :: k :: t else if n = k then k :: t else k :: insertNat n t

/-- An element put before the first that is not below it. -/
def insertBy {α : Type} (le : α → α → Bool) (a : α) : List α → List α
  | [] => [a]
  | b :: t => if le a b then a :: b :: t else b :: insertBy le a t

/-- A list put in order; equals keep theirs. -/
def sortBy {α : Type} (le : α → α → Bool) (l : List α) : List α := l.foldr (insertBy le) []

/-- A list with the elements that pass a test changed. -/
def mapIf {α : Type} (p : α → Bool) (f : α → α) (l : List α) : List α := l.map fun a => if p a then f a else a

/-- Two ranges share a byte. -/
def overlaps (a n b m : Nat) : Bool := n != 0 && m != 0 && decide (a < b + m) && decide (b < a + n)

end Sys2Proof.Machine
end

