-- ==== Sys2Proof/Machine/Aes.lean ====
section
/-! DEFINITION. AES-256 (FIPS 197) and the two modes the part uses: XTS on HBM lines (IEEE 1619; 18 R418) and GCM on flits (NIST
SP 800-38D; 19 R426), in their standards' own form (00 R13). A block is its 16 bytes, in order. -/

namespace Sys2Proof.Machine

/-! ## The cipher -/

/-- The substitution tables, 64 entries to a number, entry 0 in its low byte. -/
def aesBox : List Nat := [
  0x75b227ebe28012079a059618c323c7041531d871f1e5a534ccf73f362693fdb7c072a49cafa2d4adf04759fa7dc982ca76abd7fe2b670130c56f6bf27b777c63,
  0xd2f3ff1021dab6bcf5389d928f40a351a89f3c507f02f94585334d43fbaaefd0cf584c4a39becb6a5bb1fc20ed00d153842fe329b3d63b52a05a6e1b1a2c8309,
  0x08ae7a65eaf4566ca94ed58d6d37c8e779e4959162acd3c25c2406490a3a32e0db0b5ede14b8ee4688902a22dc4f816073195d643d7ea7c41744975fec130ccd,
  0x16bb54b00f2d99416842e6bf0d89a18cdf2855cee9871e9b948ed9691198f8e19e1dc186b95735610ef6034866b53e708a8bbd4b1f74dde8c6b4a61c2e2578ba]
def aesUnbox : List Nat := [
  0x25d18b6d49a25b76b224d92866a12e084ec3fa420b954cee3d23c2a632947b54cbe9dec444438e3487ff2f9b8239e37cfbd7f3819ea340bf38a53630d56a0952,
  0x6b8a130103bdafc1020f3fca8f1e2cd00645b3b80558e4f70ad3bc8c00abd890849d8da75746155edab9edfd5048706c92b6655dcc5ca4d41698688664f6f872,
  0xf45acd78fec0db9a2079d2c64b3e56fc1bbe18aa0e62b76f89c5291d711af1476edf751ce837f9e28535ade72274ac9673e6b4f0cecff297eadc674f4111913a,
  0x7d0c2155631469e126d677ba7e042b17619953833cbbebc8b0f52aae4d3be0a0ef9cc9939f7ae52d0d4ab519a97f51605fec8027591012b131c7078833a8dd1f]

/-- An entry of a table. -/
def tableByte (t : List Nat) (b : Nat) : Nat := (t.getD (b / 64) 0) >>> (8 * (b % 64)) % 256
def subBytes (t : List Nat) (b : List Nat) : List Nat := b.map (tableByte t)
def xorBytes (a b : List Nat) : List Nat := List.zipWith (· ^^^ ·) a b

/-- Multiplication by x in the cipher's field. -/
def xtime (a : Nat) : Nat := if a < 128 then 2 * a else (2 * a) ^^^ 0x11B
/-- A byte times a constant below 16. -/
def timesConst (c a : Nat) : Nat :=
  let b := xtime a
  let d := xtime b
  let e := xtime d
  (if c.testBit 0 then a else 0) ^^^ (if c.testBit 1 then b else 0) ^^^ (if c.testBit 2 then d else 0) ^^^ (if c.testBit 3 then e else 0)

/-- Bytes of a block moved: row r of column c is byte r + 4c. -/
def shiftRows (b : List Nat) : List Nat := (List.range 16).map fun i => b.getD (5 * i % 16) 0
def unshiftRows (b : List Nat) : List Nat := (List.range 16).map fun i => b.getD (13 * i % 16) 0
/-- Each column times the circulant matrix of four constants. -/
def mixWith (m : List Nat) (b : List Nat) : List Nat :=
  (List.range 16).map fun i =>
    (List.range 4).foldl (fun acc j => acc ^^^ timesConst (m.getD ((j + 4 - i % 4) % 4) 0) (b.getD (i / 4 * 4 + j) 0)) 0

/-- A round key after the two before it: at even places with the round constant. -/
def nextKey (i rcon : Nat) (a b : List Nat) : List Nat :=
  let last := b.drop 12
  let t := if i % 2 = 0 then xorBytes (subBytes aesBox (last.drop 1 ++ last.take 1)) [rcon, 0, 0, 0] else subBytes aesBox last
  let w0 := xorBytes (a.take 4) t
  let w1 := xorBytes ((a.drop 4).take 4) w0
  let w2 := xorBytes ((a.drop 8).take 4) w1
  let w3 := xorBytes ((a.drop 12).take 4) w2
  w0 ++ w1 ++ w2 ++ w3
def moreKeys : Nat → Nat → Nat → List Nat → List Nat → List (List Nat)
  | 0, _, _, _, _ => []
  | n + 1, i, rcon, a, b =>
    let k := nextKey i rcon a b
    k :: moreKeys n (i + 1) (if i % 2 = 0 then 2 * rcon else rcon) b k
/-- The fifteen round keys of a key of 32 bytes. -/
def roundKeys (key : List Nat) : List (List Nat) :=
  let a := key.take 16
  let b := key.drop 16
  a :: b :: moreKeys 13 2 1 a b

def encryptRounds : List (List Nat) → List Nat → List Nat
  | [], b => b
  | [k], b => xorBytes (shiftRows (subBytes aesBox b)) k
  | k :: ks, b => encryptRounds ks (xorBytes (mixWith [2, 3, 1, 1] (shiftRows (subBytes aesBox b))) k)
/-- A block encrypted under round keys. -/
def encryptBlock (keys : List (List Nat)) (b : List Nat) : List Nat :=
  match keys with
  | k :: ks => encryptRounds ks (xorBytes b k)
  | [] => b

def decryptRounds : List (List Nat) → List Nat → List Nat
  | [], b => b
  | [k], b => xorBytes b k
  | k :: ks, b => decryptRounds ks (subBytes aesUnbox (unshiftRows (mixWith [14, 11, 13, 9] (xorBytes b k))))
/-- A block decrypted under the same round keys. -/
def decryptBlock (keys : List (List Nat)) (b : List Nat) : List Nat :=
  match keys.reverse with
  | k :: ks => decryptRounds ks (subBytes aesUnbox (unshiftRows (xorBytes b k)))
  | [] => b

/-! ## XTS: a line of four blocks, without ciphertext stealing (18 R418) -/

/-- A block as a number, and back: byte 0 least significant. -/
def natOfBlock (b : List Nat) : Nat := b.foldr (fun x n => x + 256 * n) 0
def blockOfNat (n : Nat) : List Nat := (List.range 16).map fun i => n >>> (8 * i) % 256
/-- A number times α in XTS's field. -/
def timesAlpha (n : Nat) : Nat := if n < 2 ^ 127 then 2 * n else (2 * n % 2 ^ 128) ^^^ 0x87
def timesAlphas : Nat → Nat → Nat
  | 0, n => n
  | j + 1, n => timesAlphas j (timesAlpha n)

/-- The mask of block `j` of the line at a physical address, under the second key. -/
def xtsMask (key : List Nat) (line j : Nat) : List Nat :=
  blockOfNat (timesAlphas j (natOfBlock (encryptBlock (roundKeys (key.drop 32)) (blockOfNat line))))
/-- Block `j` of a line encrypted, or decrypted, under a key of two AES-256 keys. -/
def xtsEncrypt (key : List Nat) (line j : Nat) (b : List Nat) : List Nat :=
  let m := xtsMask key line j
  xorBytes (encryptBlock (roundKeys (key.take 32)) (xorBytes b m)) m
def xtsDecrypt (key : List Nat) (line j : Nat) (b : List Nat) : List Nat :=
  let m := xtsMask key line j
  xorBytes (decryptBlock (roundKeys (key.take 32)) (xorBytes b m)) m

/-! ## GCM with a 96-bit IV and a 128-bit tag (19 R426) -/

/-- A block as a number with byte 0 most significant, and back. -/
def bigOfBlock (b : List Nat) : Nat := b.foldl (fun n x => 256 * n + x) 0
def blockOfBig (n : Nat) : List Nat := (blockOfNat n).reverse
/-- The product in GHASH's field, whose bit 0 is the most significant. -/
def ghashMul : Nat → Nat → Nat → Nat → Nat
  | 0, _, _, z => z
  | n + 1, x, v, z =>
    ghashMul n x (if v % 2 = 1 then (v / 2) ^^^ (0xE1 * 2 ^ 120) else v / 2) (if x.testBit n then z ^^^ v else z)
/-- Whole blocks of a string, the last padded with zeros. -/
def padBlocks (b : List Nat) : List (List Nat) :=
  (List.range ((b.length + 15) / 16)).map fun i =>
    let t := (b.drop (16 * i)).take 16
    t ++ List.replicate (16 - t.length) 0
def ghash (h : Nat) (bs : List (List Nat)) : Nat := bs.foldl (fun y b => ghashMul 128 (y ^^^ bigOfBlock b) h 0) 0

/-- The counter block of an IV of 12 bytes. -/
def counterBlock (iv : List Nat) (n : Nat) : List Nat := iv ++ (blockOfBig n).drop 12
/-- Text under the key stream. -/
def gcmStream (keys : List (List Nat)) (iv : List Nat) (text : List Nat) : List Nat :=
  let l := (padBlocks text).zipIdx.flatMap fun t => xorBytes t.1 (encryptBlock keys (counterBlock iv (t.2 + 2)))
  l.take text.length
def gcmTag (keys : List (List Nat)) (iv aad cipher : List Nat) : List Nat :=
  let h := bigOfBlock (encryptBlock keys (List.replicate 16 0))
  let lens := (blockOfBig (8 * aad.length)).drop 8 ++ (blockOfBig (8 * cipher.length)).drop 8
  xorBytes (blockOfBig (ghash h (padBlocks aad ++ padBlocks cipher ++ [lens]))) (encryptBlock keys (counterBlock iv 1))
/-- Text encrypted with its tag: key of 32 bytes, IV, additional data and text. -/
def gcmSeal (key iv aad text : List Nat) : List Nat :=
  let keys := roundKeys key
  let c := gcmStream keys iv text
  c ++ gcmTag keys iv aad c
/-- What a sealed text holds, if its tag is right. -/
def gcmOpen (key iv aad sealed : List Nat) : Option (List Nat) :=
  let keys := roundKeys key
  let n := sealed.length - 16
  let c := sealed.take n
  if gcmTag keys iv aad c = sealed.drop n then some (gcmStream keys iv c) else none

end Sys2Proof.Machine
end

