-- ==== Sys2Proof/Machine/Sha.lean ====
section
/-! DEFINITION. SHA-256 (00 R13: FIPS 180-4), for measurements, weight-set manifests and mirrored execution. -/

namespace Sys2Proof.Machine

/-- The first eight words of the hash, and the words of the sixty-four rounds. -/
def shaInit : List Word32 :=
  [0x6A09E667, 0xBB67AE85, 0x3C6EF372, 0xA54FF53A, 0x510E527F, 0x9B05688C, 0x1F83D9AB, 0x5BE0CD19]
def shaWords : List Word32 :=
  [0x428A2F98, 0x71374491, 0xB5C0FBCF, 0xE9B5DBA5, 0x3956C25B, 0x59F111F1, 0x923F82A4, 0xAB1C5ED5,
   0xD807AA98, 0x12835B01, 0x243185BE, 0x550C7DC3, 0x72BE5D74, 0x80DEB1FE, 0x9BDC06A7, 0xC19BF174] ++
  [0xE49B69C1, 0xEFBE4786, 0x0FC19DC6, 0x240CA1CC, 0x2DE92C6F, 0x4A7484AA, 0x5CB0A9DC, 0x76F988DA,
   0x983E5152, 0xA831C66D, 0xB00327C8, 0xBF597FC7, 0xC6E00BF3, 0xD5A79147, 0x06CA6351, 0x14292967] ++
  [0x27B70A85, 0x2E1B2138, 0x4D2C6DFC, 0x53380D13, 0x650A7354, 0x766A0ABB, 0x81C2C92E, 0x92722C85,
   0xA2BFE8A1, 0xA81A664B, 0xC24B8B70, 0xC76C51A3, 0xD192E819, 0xD6990624, 0xF40E3585, 0x106AA070] ++
  [0x19A4C116, 0x1E376C08, 0x2748774C, 0x34B0BCB5, 0x391C0CB3, 0x4ED8AA4A, 0x5B9CCA4F, 0x682E6FF3,
   0x748F82EE, 0x78A5636F, 0x84C87814, 0x8CC70208, 0x90BEFFFA, 0xA4506CEB, 0xBEF9A3F7, 0xC67178F2]

def rotr (v : Word32) (n : Nat) : Word32 := (v >>> n) ||| (v <<< (32 - n))
def shaS0 (v : Word32) : Word32 := rotr v 2 ^^^ rotr v 13 ^^^ rotr v 22
def shaS1 (v : Word32) : Word32 := rotr v 6 ^^^ rotr v 11 ^^^ rotr v 25
def shaT0 (v : Word32) : Word32 := rotr v 7 ^^^ rotr v 18 ^^^ (v >>> 3)
def shaT1 (v : Word32) : Word32 := rotr v 17 ^^^ rotr v 19 ^^^ (v >>> 10)

/-- The message schedule of a block, latest word first. -/
def shaSchedule : Nat → List Word32 → List Word32
  | 0, w => w
  | n + 1, w => shaSchedule n ((shaT1 (w.getD 1 0) + w.getD 6 0 + shaT0 (w.getD 14 0) + w.getD 15 0) :: w)

/-- The eight words after a round. -/
def shaRound (h : List Word32) (k : Word32 × Word32) : List Word32 :=
  match h with
  | [a, b, c, d, e, f, g, v] =>
    let t1 := v + shaS1 e + ((e &&& f) ^^^ (~~~e &&& g)) + k.1 + k.2
    [t1 + (shaS0 a + ((a &&& b) ^^^ (a &&& c) ^^^ (b &&& c))), a, b, c, d + t1, e, f, g]
  | _ => h

/-- A block's sixteen words, most significant byte first. -/
def shaBlock (h : List Word32) (bs : List Byte) : List Word32 :=
  let word (i : Nat) : Word32 := BitVec.ofNat 32 (leNat ((bs.drop (4 * i)).take 4).reverse)
  let w := (shaSchedule 48 ((List.range 16).map word).reverse).reverse
  List.zipWith (· + ·) h ((shaWords.zip w).foldl shaRound h)

/-- The message padded to whole blocks. -/
def shaPad (bs : List Byte) : List Byte :=
  bs ++ [0x80] ++ List.replicate ((119 - bs.length % 64) % 64) 0 ++ (leBytes 8 (8 * bs.length)).reverse

def shaBlocks : Nat → List Word32 → List Byte → List Word32
  | 0, h, _ => h
  | n + 1, h, bs => shaBlocks n (shaBlock h (bs.take 64)) (bs.drop 64)

/-- The digest of a message: 32 bytes. -/
def sha256 (bs : List Byte) : List Byte :=
  let m := shaPad bs
  (shaBlocks (m.length / 64) shaInit m).flatMap fun w => (leBytes 4 w.toNat).reverse

end Sys2Proof.Machine
end

