-- ==== Sys2Proof/Machine/Ops.lean ====
section
/-! DEFINITION. The named operations: registers, cores, actors and names, the error log, and the one shared way a kill
is taken (02 R49, R66, R74; 03 R75). An instruction's meaning is a computation that gives the next state or says why it
does not complete; `run` turns either into an outcome. -/

namespace Sys2Proof.Machine

/-- A log entry that goes with a kill (18 R417). -/
structure Note where
  die : Nat
  cls : Nat
  unit : Nat
  location : Word32
  asid : Half := 0
  address : BitVec 48 := 0
  detail : Word32 := 0
  reason : Half := 0
  part : Option Nat := none
  /-- the table level of a malformed entry (17 R387) -/
  level : Option Nat := none
  deriving DecidableEq, Repr

/-- A translation miss (17 R387, R391): address-space id, address, access code, queue code and level. -/
structure Miss where
  asid : Nat
  va : Nat
  access : Nat
  queue : Nat
  level : Nat
  mask : Nat := 0
  deriving DecidableEq, Repr

/-- Why an instruction does not complete now. -/
inductive Stop where
  /-- the actor is killed with the reason -/
  | kill (reason : Nat) (note : Option Note := none)
  /-- the stream waits and tries again -/
  | stall (w : Wait)
  /-- the access misses (17 R391) -/
  | miss (m : Miss)
  /-- the access reads a stored line with an error: its base die acts on the line, a step of its own (18 R404), and the access
  is made again -/
  | line (n : Nat)
  | fault (f : Fault)
  | refuse (r : Refusal)
  deriving DecidableEq, Repr

abbrev Chk (α : Type) := Except Stop α

def kill {α : Type} (reason : Nat) : Chk α := .error (.kill reason)
def stall {α : Type} : Chk α := .error (.stall .retry)
/-- A check that kills when it fails. -/
def need (c : Bool) (reason : Nat) : Chk Unit := if c then .ok () else kill reason
/-- A check that stalls when it fails. -/
def await (c : Bool) : Chk Unit := if c then .ok () else stall

/-- A list cut or padded with zeros to a length. -/
def sized (n : Nat) (bs : List Byte) : List Byte := bs.take n ++ List.replicate (n - bs.length) 0

/-! ## The image that a start runs (20 R441 to R445) -/

/-- The image a start runs, with its signature: in minimal mode the recovery image, else the main one in storage. -/
def Boot.image (b : Boot) : List Byte × List Byte :=
  if b.minimal then Config.recoveryImage else b.newMain.getD Config.mainImage
/-- Whether Keystone verifies it: a signature of 16,224 bytes over its SHA-256 digest. -/
def Boot.imageOk (b : Boot) : Bool := b.image.2.length == 16224 && Config.verifies (sha256 b.image.1) b.image.2

/-! ## Registers -/

def vget {α : Type} {n : Nat} [Inhabited α] (v : Vector α n) (i : Nat) : α := if h : i < n then v[i] else default
def vset {α : Type} {n : Nat} (v : Vector α n) (i : Nat) (a : α) : Vector α n := if h : i < n then v.set i a else v

/-- An x register: x0 reads 0 (07 R162). -/
def Act.getX (a : Act) (r : BitVec 5) : Word := if r = 0 then 0 else a.x[r.toNat]
/-- An x register's poison bit (18 R408). -/
def Act.xPoison (a : Act) (r : BitVec 5) : Bool := if r = 0 then false else a.xp[r.toNat]
/-- Writes an x register with its poison bit; a write to x0 is ignored (07 R162, 08 R189). -/
def Act.setX (a : Act) (r : BitVec 5) (v : Word) (poison : Bool := false) : Act :=
  if r = 0 then a
  else { a with x := a.x.set r.toNat v
                xp := if poison then a.xp ||| (1#32 <<< r.toNat) else a.xp &&& ~~~(1#32 <<< r.toNat) }
def Act.getO (a : Act) (i : Nat) : Word := vget a.o i
def Act.oPoison (a : Act) (i : Nat) : Bool := a.op.getLsbD i

/-- The running activation, changed. -/
def State.modAct (s : State) (f : Act → Act) : State := { s with act := f s.act }
/-- The pc moved past an instruction of `len` bytes, and the answer it may have waited for is used up. -/
def State.advance (s : State) (len : Nat) : State :=
  { s with act := { s.act with pc := s.act.pc + BitVec.ofNat 64 len, wait := .none, memo := .none, issued := none } }
/-- Writes xd and moves on. -/
def State.result (s : State) (len : Nat) (d : BitVec 5) (v : Word) (poison : Bool := false) : State :=
  { s with act := s.act.setX d v poison }.advance len

/-- A control operand (18 R409): its value, or a kill with reason 10. -/
def Act.ctlX (a : Act) (r : BitVec 5) : Chk Word := if a.xPoison r then kill 10 else .ok (a.getX r)
def Act.ctlO (a : Act) (i : Nat) : Chk Word := if a.oPoison i then kill 10 else .ok (a.getO i)

/-! ## Cores and locations (01 R14 to R18) -/

def dieOf (core : Nat) : Nat := core / 512 % 4
def clusterOf (core : Nat) : Nat := core / 8 % 64
def coreNo (core : Nat) : Nat := core % 8
def isService (core : Nat) : Bool := core % 8 == 4
/-- The span of a cluster on its die (01 R15). -/
def spanOf (cluster : Nat) : Nat := cluster / 8 / 2 * 4 + cluster % 8 / 2
/-- The location word (01 R16). -/
def location (core : Nat) : Word32 := (Config.packageNumber.zeroExtend 32 <<< 20) ||| BitVec.ofNat 32 (core * 512)
/-- All core numbers of the package, by (die, span, cluster, core) as R18 numbers them. -/
def coresOfSpan (die span : Nat) : List Nat :=
  ((List.range 48).filter fun c => spanOf c == span).flatMap fun c =>
    (List.range 5).map fun k => die * 512 + c * 8 + k

def State.core (s : State) (c : Nat) : Core := look {} s.cores c
def State.setCore (s : State) (c : Nat) (v : Core) : State := { s with cores := put {} c v s.cores }
def State.modCore (s : State) (c : Nat) (f : Core → Core) : State := s.setCore c (f (s.core c))

/-- Accumulator tiles and register units of a core's partition word (04 R87), and its scratchpad units. -/
def Core.acc (c : Core) : Nat := (c.word &&& 31).toNat
def Core.reg (c : Core) : Nat := (c.word >>> 5).toNat
def scratchUnits (core : Nat) (c : Core) : Nat := (if isService core then 16 else 32) - c.acc - c.reg
/-- Bytes of scratchpad that the windows address (04 R89). -/
def State.scratchBytes (s : State) (core : Nat) : Nat := scratchUnits core (s.core core) * 65536
/-- Activation slots in use (01 R23, R25). -/
def slotsOf (core : Nat) (c : Core) : Nat := if isService core then 2 * c.reg else c.reg

def Core.counter (c : Core) (n : Nat) : Word32 := look 0 c.counters n
def Core.setCounter (c : Core) (n : Nat) (v : Word32) : Core := { c with counters := put 0 n v c.counters }
/-- The modular comparison of WAITC, gates and ports (11 R308). -/
def reached (v target : Word32) : Bool := !(v - target).msb
/-- A waiting activation examines every value its counter holds (11 R305, R308, R309). -/
def Act.observe (core n : Nat) (v : Word32) (time : Nat) (a : Act) : Act :=
  let met := match a.wait with
    | .counter m target => a.core == core && m == n && reached v target
    | .counterLimit m target limit _ => a.core == core && m == n && reached v target && decide (time ≤ limit)
    | _ => false
  if met then { a with memo := .met } else a
/-- A gate at the head of queue 4 whose target its counter meets (10 R272). -/
def Core.observeGate (c : Core) (n : Nat) (v : Word32) : Core :=
  match vget c.queues 4 with
  | e :: rest =>
    (match e.op with
     | .mma _ _ _ _ _ _ _ _ (some (m, target)) =>
       if m == n && reached v target then { c with queues := vset c.queues 4 ({ e with gateMet := true } :: rest) } else c
     | _ => c)
  | [] => c
/-- A counter takes a value: one indivisible modification (11 R305). -/
def State.setCounter (s : State) (core n : Nat) (v : Word32) : State :=
  let s := s.modCore core fun c => (c.setCounter n v).observeGate n v
  { s with act := s.act.observe core n v s.env.time, acts := s.acts.map (Act.observe core n v s.env.time) }
def State.addCounter (s : State) (core n : Nat) (v : Word32) : State :=
  s.setCounter core n ((s.core core).counter n + v)

/-! ## Names (02 R32 to R34) -/

def nameJob (n : Word) : Half := n.extractLsb' 48 16
def nameKind (n : Word) : BitVec 2 := n.extractLsb' 46 2
def nameIndex (n : Word) : Nat := (n.extractLsb' 16 30).toNat
def nameInc (n : Word) : Nat := (n.extractLsb' 0 16).toNat
def mkName (job : Half) (kind : BitVec 2) (index inc : Nat) : Word :=
  job ++ kind ++ BitVec.ofNat 30 index ++ BitVec.ofNat 16 inc
def Actor.name (a : Actor) : Word := mkName a.job (if a.service then 2 else 0) a.index a.inc
def Pool.name (p : Pool) : Word := mkName p.job 1 p.index p.inc

/-- The index an alias of the job stands for (12 R322). -/
def State.alias? (s : State) (job : Half) (al : Nat) : Option Nat :=
  (s.dir.aliases.find? fun t => t.1 == job && t.2.1 == al).map (·.2.2)

/-- The directory entry of an actor's name, whatever the incarnation named: aliases of the job are followed. -/
def State.entryOf (s : State) (n : Word) : Option Actor :=
  let job := nameJob n
  if nameKind n == 2 && job != 0 then
    match s.alias? job (nameIndex n) with
    | some i => s.dir.actors.find? fun a => a.job == job && !a.service && a.index == i
    | none => none
  else if nameKind n == 1 || nameKind n == 3 then none
  else s.dir.actors.find? fun a => a.job == job && a.service == (nameKind n == 2) && a.index == nameIndex n

/-- A destination incarnation resolves (02 R33). -/
def incOk (n : Word) (inc : Nat) : Bool := nameInc n == 0 || nameInc n == inc

/-- The live actor that a name resolves to (02 R33, R34). -/
def State.resolve (s : State) (n : Word) : Option Actor :=
  match s.entryOf n with
  | some a => if a.life == .live && incOk n a.inc then some a else none
  | none => none

/-- A pool by its name or by an alias of the job bound to it: an alias stands for a pool's index as `2 ^ 30 + index`. -/
def State.poolOf (s : State) (n : Word) : Option Pool :=
  let index := if nameKind n == 1 then some (nameIndex n)
    else if nameKind n == 2 && nameJob n != 0 then (s.alias? (nameJob n) (nameIndex n)).bind fun i => if i < 2 ^ 30 then none else some (i - 2 ^ 30)
    else none
  index.bind fun i => s.dir.pools.find? fun p => p.job == nameJob n && p.index == i

/-- Whether a sender of the job may name the destination (02 R34): its own job, or a Calico service. -/
def reachable (job : Half) (n : Word) : Bool := nameJob n == job || (nameKind n == 2 && nameJob n == 0)

def State.modActor (s : State) (n : Word) (f : Actor → Actor) : State :=
  { s with dir := { s.dir with actors := mapIf (fun a => a.name == n) f s.dir.actors } }
def State.modPool (s : State) (n : Word) (f : Pool → Pool) : State :=
  { s with dir := { s.dir with pools := mapIf (fun p => p.name == n) f s.dir.pools } }

/-! ## Runs of a mirrored child (03 R85, R86) -/

/-- The mirrored child that an activation is a run of. -/
def State.mirrorOf (s : State) (name : Word) : Option Actor := s.dir.actors.find? fun t => t.name == name && !t.mirror.isEmpty

/-- An answer kept for the other runs. -/
def State.share (s : State) (d : BitVec 5) : State :=
  let r := (s.act.getX d, s.act.xPoison d)
  let add (t : Actor) : Actor := if t.name == s.act.name then { t with shared := t.shared ++ [r] } else t
  { s with act := { s.act with nth := s.act.nth + 1 }, dir := { s.dir with actors := s.dir.actors.map add } }

/-- A run's digest, set or withdrawn (03 R86). -/
def State.setDigest (s : State) (name : Word) (run : Nat) (d : Option (List Byte)) : State :=
  s.modActor name fun t =>
    if run = 0 then { t with digest := d } else { t with mirror := t.mirror.map fun m => if m.run == run then { m with digest := d } else m }

/-- What an instruction of `len` bytes does outside the runs of a mirrored child it does once: the primary does it, and a run
that has the answer still to take takes the primary's (assumption 99). -/
def State.once (s : State) (len : Nat) (d : BitVec 5) (f : State → Chk State) : Chk State :=
  match s.mirrorOf s.act.name with
  | none => f s
  | some t =>
    match t.shared[s.act.nth]? with
    | some (v, p) => .ok (({ s with act := { s.act with nth := s.act.nth + 1 } } : State).result len d v p)
    | none =>
      if s.act.run ≠ 0 then stall
      else do
        let u ← f s
        .ok (if u.act.live && u.act.pc != s.act.pc then u.share d else u)

/-! ## Jobs and partitions -/

def State.job? (s : State) (j : Half) : Option Job := s.parts.jobs.find? fun t => t.id == j
def State.modJob (s : State) (j : Half) (f : Job → Job) : State :=
  let l := if s.parts.jobs.any (·.id == j) then mapIf (·.id == j) f s.parts.jobs else s.parts.jobs ++ [f { id := j }]
  { s with parts := { s.parts with jobs := l } }
def State.part (s : State) (p : Nat) : Part := if h : p < 48 then s.parts.parts[p] else {}
def State.modPart (s : State) (p : Nat) (f : Part → Part) : State :=
  if h : p < 48 then { s with parts := { s.parts with parts := s.parts.parts.set p (f s.parts.parts[p]) } } else s
/-- Whether a number lies in a partition's dependence range (16 R370). -/
def Part.depends (t : Part) (n : Nat) : Bool :=
  decide (bits t.dep.toNat 0 16 ≤ n) && decide (n < bits t.dep.toNat 0 16 + bits t.dep.toNat 16 16)

/-- The partition of a job's actor on a core: the job's, or for Calico the core's (16 R361, R368). -/
def State.partOf (s : State) (job : Half) (core : Nat) : Nat :=
  if job == 0 then (s.core core).part.getD 0 else ((s.job? job).map (·.part)).getD 0
/-- The partition an actor's errors affect: none for a Calico actor on a core of no partition (18 R416, R417). -/
def State.partOf? (s : State) (job : Half) (core : Nat) : Option Nat :=
  if job == 0 then (s.core core).part else (s.job? job).map (·.part)
/-- The partition of an actor: none for Calico's. -/
def State.partOfJob (s : State) (job : Half) : Option Nat := if job == 0 then none else (s.job? job).map (·.part)
/-- The address-space id: Calico's is 0, a partition's is p.asid (16 R370). -/
def State.asidOf (s : State) (job : Half) (core : Nat) : Nat :=
  if job == 0 then 0 else (s.part (s.partOf job core)).asid.toNat
def Act.job (a : Act) : Half := nameJob a.name
/-- Service level: an actor of job 0 (16 R361). -/
def Act.service (a : Act) : Bool := nameJob a.name == 0
def State.myPart (s : State) : Nat := s.partOf s.act.job s.act.core
def State.myAsid (s : State) : Nat := s.asidOf s.act.job s.act.core
/-- The pager of a partition (16 R363). -/
def pagerName (p : Nat) : Word := mkName 0 2 (16 + p) 0

/-! ## Identities and free values -/

/-- A fresh number for an operation. -/
def State.fresh (s : State) : Nat × State := (s.env.nextId, { s with env := { s.env with nextId := s.env.nextId + 1 } })

/-- The first number from `n` up that is not used, among `fuel` of them. -/
def firstUnused (used : List Nat) : Nat → Nat → Nat
  | 0, n => n
  | fuel + 1, n => if used.contains n then firstUnused used fuel (n + 1) else n

/-- A nonzero 32-bit number unused among `used`, otherwise free (02 R63, 03 R70, 12 R318). -/
def State.freshRef (s : State) (used : List Nat) : Word32 × State :=
  let n := Config.seed s.env.free % 2 ^ 31 + 1
  (BitVec.ofNat 32 (firstUnused used used.length n), { s with env := { s.env with free := s.env.free + 1 } })

/-! ## Time (02 R38) -/

def unitsOf (t : Nat) : Word32 := BitVec.ofNat 32 (t / 256)
/-- Deadline `a` precedes `b` (02 R38). -/
def precedes (a b : Word32) : Bool := (a - b).msb

/-! ## The error log (18 R416, R417) -/

/-- Adds an entry, merging a repeat of class 0 or 3, and overwriting at the head of a full ring. -/
def DieLog.add (l : DieLog) (e : LogEntry) : DieLog :=
  let lastSlot := (l.tail - 1).toNat % 4096
  let repeated := match look? l.ring lastSlot with
    | some p => l.tail != l.head && (e.cls == 0 || e.cls == 3) && p.cls == e.cls && p.unit == e.unit &&
        p.location == e.location && p.address == e.address && e.time ≤ p.latest + 1000000
    | none => false
  if repeated then
    let bump (p : LogEntry) : LogEntry :=
      { p with count := if p.count == 0xFFFF then 0xFFFF else p.count + 1, latest := e.time }
    { l with ring := l.ring.map fun t => if t.1 == lastSlot then (t.1, bump t.2) else t }
  else
    let full := (l.tail - l.head).toNat == 4096
    { l with ring := put? (l.tail.toNat % 4096) e l.ring
             tail := l.tail + 1
             head := if full then l.head + 1 else l.head
             overflow := if full && l.overflow != 0xFFFFFFFF then l.overflow + 1 else l.overflow }

/-- Logs an error, counting it in its partition (18 R417). -/
def State.note (s : State) (n : Note) (injected : Bool := false) : State :=
  let e : LogEntry :=
    { time := s.env.time, cls := n.cls, unit := n.unit, injected := injected, part := n.part
      location := n.location, asid := n.asid, address := n.address, detail := n.detail, reason := n.reason
      count := 0, latest := s.env.time, level := n.level }
  let s := { s with logs := vset s.logs n.die ((vget s.logs n.die).add e) }
  match n.part with
  | some p =>
    let count (t : Part) : Part := { t with classes := put 0 n.cls (look 0 t.classes n.cls + 1) t.classes }
    if injected then s else s.modPart p count
  | none => s

/-- A location word names a unit's place: the core of detectors 3 to 5, the cluster of a slice, the die of the others, whose
stack, link or bridge the index names (16 R379). -/
def injectsAt (unit core : Nat) (loc : Word32) : Bool :=
  if 3 ≤ unit ∧ unit ≤ 5 then bits loc.toNat 9 11 == core else if unit = 2 then bits loc.toNat 12 8 == core / 8 else true

/-- An armed injection at a unit's check, at a core or its cluster or die, is reported and used up (16 R379, 18 R415). Of the
die's counters, a failed authentication has one: its link's. -/
def State.inject (s : State) (core unit index : Nat) : State :=
  let die := dieOf core
  let l := vget s.logs die
  match l.armed.find? fun t => t.1 == unit && t.2.1 == index && t.2.2.2 != 0 && injectsAt unit core t.2.2.1 with
  | some (u, i, loc, n) =>
    let left := l.armed.map fun t => if t == (u, i, loc, n) then (u, i, loc, n - 1) else t
    let l := { l with armed := left.filter fun t => t.2.2.2 != 0 }
    let cls := match unit with | 0 | 2 | 3 => 0 | 1 => 1 | 4 => 3 | 5 => 4 | 6 => 10 | _ => 9
    let failed (k : Link) : Link := { k with failTotal := if k.failTotal = 0xFFFFFFFF then k.failTotal else k.failTotal + 1 }
    let place := 5 * die + index
    let links := if unit = 7 then vset s.links.links place (failed (vget s.links.links place)) else s.links.links
    { s with logs := vset s.logs die l, links := { s.links with links := links } }.note
      { die := die, cls := cls, unit := unit, location := loc } true
  | none => s

/-- A core's scratchpad is read or written: armed checks of its ECC report (16 R379, 18 R415). -/
def State.checkPool (s : State) (core : Nat) : State := s.inject core 3 0

/-! ## Taking a kill -/

def Region.covers (r : Region) (off n : Nat) : Bool := r.offset ≤ off && off + n ≤ r.offset + r.size

/-- Zeroes pool bytes and their poison: a scrub writes clean zeros (18 R412). Pushes of streams to them are gone; stores
from another die are still to land (04 R99). -/
def poolKey (core off : Nat) : Nat := 2 ^ 45 + core * 2 ^ 24 + off
def State.zeroPool (s : State) (core off n : Nat) : State :=
  let lo := poolKey core off
  let cells := s.mem.cells.filter fun c => decide (c.1 < lo) || decide (lo + n ≤ c.1)
  let sectors := s.mem.poisonSectors.filter fun k => decide (k * 32 < lo) || decide (lo + n ≤ k * 32)
  let pending := s.mem.pending.filter fun w => w.stream.isNone || decide (w.addr < lo) || decide (lo + n ≤ w.addr)
  { s with mem := { s.mem with cells := cells, poisonSectors := sectors, pending := pending } }

/-- Whether an entry at the head of its queue waits of itself: for its gate or its rendezvous (10 R272, R276). -/
def Entry.gated (e : Entry) : Bool := !e.started && (match e.op with
  | .mma _ _ _ _ _ _ _ _ g => g.isSome
  | .mmas _ _ _ _ _ _ _ _ _ _ _ _ _ => true
  | _ => false)
/-- The gate of an MMAC is met by the value that its counter holds. -/
def Core.meetsGate (c : Core) (e : Entry) : Bool := match e.op with
  | .mma _ _ _ _ _ _ _ _ (some (n, target)) => reached (c.counter n) target
  | _ => false
/-- An entry comes to the head of its queue: a wait may begin (02 R451), and a gate may be met already (10 R272). -/
def Core.headed (c : Core) (e : Entry) (time : Nat) : Entry :=
  if e.gated then { e with waitSince := some time, gateMet := e.gateMet || c.meetsGate e } else e
def Core.headedQueue (c : Core) (time : Nat) : List Entry → List Entry
  | e :: rest => (if e.waitSince.isNone then c.headed e time else e) :: rest
  | [] => []
def Core.settleHeads (c : Core) (time : Nat) : Core := { c with queues := c.queues.map (c.headedQueue time) }

/-- Removes the entries that pass a test from every queue. -/
def State.dropEntries (s : State) (p : Entry → Bool) : State :=
  { s with cores := s.cores.map fun c => (c.1, ({ c.2 with queues := c.2.queues.map fun q => q.filter fun e => !p e } : Core).settleHeads s.env.time) }

/-- Releases the tiles and weight buffers of activations, zeroed (10 R265, R289). -/
def State.freeTiles (s : State) (p : Nat → Bool) : State :=
  let free (c : Core) : Core :=
    { c with tiles := (c.tiles.filter fun t => !p t.owner), bufs := (c.bufs.filter fun b => !p b.owner) }
  { s with cores := s.cores.map fun c => (c.1, free c.2) }

def State.allActs (s : State) : List Act := (if s.act.live then [s.act] else []) ++ s.acts

/-- Tiles and buffers of activations that have ended and left no entry (10 R265). -/
def State.sweepTiles (s : State) : State :=
  let used := s.allActs.map (·.aid) ++ s.cores.flatMap fun c => c.2.queues.toList.flatten.map (·.aid)
  s.freeTiles fun a => !used.contains a

def State.dropPorts (s : State) (p : Port → Bool) : State :=
  { s with cores := s.cores.map fun c => (c.1, { c.2 with ports := c.2.ports.filter fun t => !p t }) }

/-- An MMAS whose rendezvous has formed and that loses a participant is abandoned by the others: their entries complete
with the steps they have done (10 R277). -/
def State.abandon (s : State) (gone : Entry → Bool) : State :=
  let tags := s.cores.flatMap fun c => (vget c.2.queues 4).filterMap fun e =>
    match e.op with
    | .mmas _ _ _ tag _ _ _ _ _ _ _ _ _ =>
      if gone e && e.started then some (dieOf c.1, spanOf (clusterOf c.1), tag, e.job) else none
    | _ => none
  let hit (c : Nat) (e : Entry) : Option Nat := match e.op with
    | .mmas tile _ _ tag _ _ _ _ _ _ _ _ _ =>
      if e.started && !gone e && tags.contains (dieOf c, spanOf (clusterOf c), tag, e.job) then some tile else none
    | _ => none
  let strike (c : Nat) (v : Core) : Core :=
    let struck := (vget v.queues 4).filterMap (hit c)
    let mark (t : Tile) : Tile :=
      if struck.any fun d => decide (d ≤ t.num) && decide (t.num < d + 4) then { t with abandoned := true } else t
    { v with queues := vset v.queues 4 ((vget v.queues 4).filter fun e => (hit c e).isNone), tiles := v.tiles.map mark }
  ({ s with cores := s.cores.map fun c => (c.1, (strike c.1 c.2).settleHeads s.env.time) } : State).sweepTiles

/-- Accesses of activations no longer wait on tickets; a ticket nothing waits on is no longer outstanding (17 R393). -/
def State.leaveTickets (s : State) (gone : Nat → Bool) : State :=
  let live (num c q : Nat) : Bool := (vget (s.core c).queues q).any fun e => e.ticket == some num
  let leave (t : Ticket) : Ticket :=
    { t with acts := (t.acts.filter fun a => !gone a), entries := (t.entries.filter fun e => live t.num e.1 e.2) }
  let left := (s.xlat.tickets.map leave).filter fun t => !(t.acts.isEmpty && t.entries.isEmpty && t.restarts.isEmpty)
  { s with xlat := { s.xlat with tickets := left } }

/-- Activations of a name are discarded with their slots (02 R49). -/
def State.dropActs (s : State) (gone : Act → Bool) : State :=
  let a : Act := if s.act.live && gone s.act then {} else s.act
  { s with act := a, acts := s.acts.filter fun a => !gone a }

/-- An actor or pool begins exiting with the reason; its activations and staged effects are discarded, its
uncompleted engine entries removed, its tiles and ports released (02 R49, R52, R66, R74; 10 R289; 11 R297), and what it
released that waits on a miss is dropped with its ticket (08 R191; 17 R393). The ACTOR_EXIT event does the rest. -/
def State.takeDown (s : State) (name : Word) (reason : Nat) : State :=
  let s := s.modActor name fun a => { a with life := .exiting reason }
  let s := s.modPool name fun p => { p with life := .exiting reason }
  let aids := ((s.allActs ++ s.wire.tails.map (·.act)).filter fun a => a.name == name).map (·.aid) ++
    (s.wire.deferred.filter fun d => d.who.name == name).map (·.who.aid)
  let s := s.abandon fun e => e.actor == name
  let s := s.dropEntries fun e => e.actor == name
  let s := s.dropPorts fun p => p.actor == name
  let s := s.dropActs fun a => a.name == name
  let tails := s.wire.tails.filter fun t => t.act.name != name
  let deferred := s.wire.deferred.filter fun d => d.who.name != name || d.ticket.isNone
  let s := { s with wire := { s.wire with tails := tails, deferred := deferred } }
  s.sweepTiles.leaveTickets fun a => aids.contains a

/-- Whether a name can still exit. -/
def State.killable (s : State) (name : Word) : Bool :=
  match s.poolOf name with
  | some p => (p.life == .live || p.life == .saved) && p.inc == nameInc name
  | none => s.dir.actors.any fun a => a.name == name && (a.life == .live || a.life == .saved)

/-- A kill (03 R73, R75): counted by its reason in its partition (18 R422). A name that is not live is left as it is. -/
def State.killActor (s : State) (name : Word) (reason : Nat) : State :=
  if !s.killable name then s
  else
    let count (p : Part) : Part := { p with kills := put 0 reason (look 0 p.kills reason + 1) p.kills }
    let s := match s.partOf? (nameJob name) (((s.entryOf name).map (·.core)).getD 0) with
      | some p => s.modPart p count
      | none => s
    s.takeDown name reason

/-- A kill for what an actor left behind: it is taken even when the actor has ended with reason 0 (02 R451, 11 R302). -/
def State.killAnyway (s : State) (name : Word) (reason : Nat) : State :=
  let back (l : Life) : Life := if l == .exiting 0 then .live else l
  let s := s.modActor name fun a => { a with life := back a.life }
  (s.modPool name fun p => { p with life := back p.life }).killActor name reason

/-- What is logged with a kill of a job's actor on a core: the note the kill brings, or for reason 10 that poison was consumed
(18 R417); it names the actor's address-space id and partition, unless the note knows its own (18 R416). -/
def State.noteKill (s : State) (job : Half) (core reason : Nat) (note : Option Note) : State :=
  let here : Note := { die := dieOf core, cls := 2, unit := 3, location := location core, reason := 10 }
  let named (n : Note) : Note :=
    { n with part := n.part.or (s.partOf? job core), asid := if n.asid = 0 then BitVec.ofNat 16 (s.asidOf job core) else n.asid }
  match note with
  | some n => s.note (named n)
  | none => if reason == 10 then s.note (named here) else s

/-- The exception of the running activation: its actor is killed with the reason, and what goes with the kill is
logged. -/
def State.raise (s : State) (reason : Nat) (note : Option Note) : State :=
  (s.noteKill s.act.job s.act.core reason note).killActor s.act.name reason

end Sys2Proof.Machine
end

