-- ==== Sys2Proof/Machine/LineCode.lean ====
section
/-! DEFINITION. The HBM line code (18 R401 to R405). A stored line is a valid codeword, or the poison codeword of its
data, with an error pattern over its 80 symbols; a read decides the pattern and acts on the stored line. -/

namespace Sys2Proof.Machine

/-- Product in GF(2^8) with field polynomial 0x11D (18 R402). -/
def gfMul (a b : Byte) : Byte :=
  (List.range 8).foldl (fun acc i =>
    let dbl : Byte := if acc.msb then (acc <<< 1) ^^^ 0x1D else acc <<< 1
    if b.getLsbD (7 - i) then dbl ^^^ a else dbl) 0

/-- A power of α = 0x02. -/
def gfAlpha : Nat → Byte
  | 0 => 1
  | n + 1 => gfMul 2 (gfAlpha n)

def gfPow (a : Byte) : Nat → Byte
  | 0 => 1
  | n + 1 => gfMul a (gfPow a n)

/-- The inverse of a nonzero element: its 254th power. -/
def gfInv (a : Byte) : Byte := gfPow a 254

/-- Syndromes 0 to 15 of an error pattern. -/
def syndromes (e : LineErr) : List Byte :=
  (List.range 16).map fun i => e.foldl (fun acc t => acc ^^^ gfMul t.2 (gfAlpha (i * t.1 % 255))) 0

/-- The pattern that turns a codeword into the poison codeword of its line (18 R402). -/
def poisonPattern : LineErr := (List.range 16).map fun s => (s, 0xFF)

def xorList (a b : List Byte) : List Byte := (a.zip b).map fun t => t.1 ^^^ t.2

/-- The coefficients of the product of (x - α^s) over the symbols, constant term first. -/
def locatorPoly (symbols : List Nat) : List Byte :=
  symbols.foldl (fun p s => xorList (0 :: p) ((p.map fun c => gfMul c (gfAlpha s)) ++ [0])) [1]

/-- An error confined to group `q` has the syndromes: they obey the recurrence of the group's locators (18 R403). -/
def explains (q : Nat) (syn : List Byte) : Bool :=
  let p := locatorPoly ((List.range 8).map fun i => 8 * q + i)
  (List.range 8).all fun i => ((p.zip (syn.drop i)).foldl (fun acc t => acc ^^^ gfMul t.1 t.2) 0) == 0

/-- The error of group `q` that has the syndromes. -/
def groupError (q : Nat) (syn : List Byte) : LineErr :=
  ((List.range 8).map fun i =>
    let p := locatorPoly (((List.range 8).filter (· != i)).map fun j => 8 * q + j)
    let num := (p.zip syn).foldl (fun acc t => acc ^^^ gfMul t.1 t.2) 0
    let x := gfAlpha (8 * q + i)
    let den := (p.zip (List.range 8)).foldl (fun acc t => acc ^^^ gfMul t.1 (gfPow x t.2)) 0
    (8 * q + i, gfMul num (gfInv den))).filter fun t => t.2 != 0

def xorErr (a b : LineErr) : LineErr :=
  ((List.range 80).map fun s => (s, look 0 a s ^^^ look 0 b s)).filter fun t => t.2 != 0

/-- What a read of a line decides (18 R403), with the errors left in its data and the pin groups it names. -/
inductive LineOutcome where
  | clean (left : LineErr)
  | corrected (group : Nat) (left : LineErr)
  | poisoned (left : LineErr)
  | poisonCorrected (group : Nat) (left : LineErr)
  | uncorrectable (left : LineErr)
  deriving DecidableEq, Repr

def decideLine (wasPoisoned : Bool) (e : LineErr) : LineOutcome :=
  let e := if wasPoisoned then xorErr e poisonPattern else e
  let syn := syndromes e
  let psyn := syndromes poisonPattern
  let rel := xorList syn psyn
  let by_ := (List.range 10).filter fun q => explains q syn
  let pby := (List.range 10).filter fun q => explains q rel
  if syn.all (· == 0) then .clean e
  else if syn == psyn then .poisoned (xorErr e poisonPattern)
  else match by_, pby with
    | [q], _ => .corrected q (xorErr e (groupError q syn))
    | _, [q] => .poisonCorrected q (xorErr (xorErr e poisonPattern) (groupError q rel))
    | _, _ => .uncorrectable (if wasPoisoned then xorErr e poisonPattern else e)

/-! ## Encryption (18 R418 to R421): stored bytes are kept as they decrypt under the key of their line's generation -/

/-- The two AES-256 keys of a generation. -/
def memoryKey (gen : Nat) : List Nat := (sized 64 (Config.memoryKey gen)).map (·.toNat)
/-- A block of 16 bytes at a physical address, encrypted under one generation's key, with an error on its ciphertext, and
decrypted under another's. -/
def recode (gen gen' a : Nat) (bs err : List Byte) : List Byte :=
  let line := a / 64 * 64
  let j := a % 64 / 16
  let cipher := xorBytes (xtsEncrypt (memoryKey gen) line j (bs.map (·.toNat))) (err.map (·.toNat))
  (xtsDecrypt (memoryKey gen') line j cipher).map (BitVec.ofNat 8)
/-- The errors on the ciphertext of block `b` of a line: symbol 16 + n is byte n. -/
def blockErr (left : LineErr) (b : Nat) : List Byte := (List.range 16).map fun i => look 0 left (16 + 16 * b + i)

/-- Errors left in a line's data symbols strike ciphertext, so the 16-byte blocks they lie in decrypt to other bytes
(18 R418, R421). -/
def garbleLine (gen line : Nat) (left : LineErr) (cells : List Host.Cell) : List Host.Cell :=
  let blocks := ((left.filter fun t => decide (16 ≤ t.1)).map fun t => (t.1 - 16) / 16).eraseDups
  blocks.foldl (fun c b =>
    let a := line * 64 + b * 16
    putN a (recode gen gen a ((List.range 16).map fun i => look 0 cells (a + i)) (blockErr left b)) c) cells

/-- What a die sees of blocks that have been poisoned for every observer is poisoned (18 R408). -/
def Mem.spoil (m : Mem) (bs : List Nat) : Mem :=
  let all (v : List (Nat × Bool)) : List (Nat × Bool) := bs.foldl (fun v b => if (look? v b).isSome then put? b true v else v) v
  (List.range 4).foldl (fun m d => { m with viewPoison := put [] d (all (look [] m.viewPoison d)) m.viewPoison }) m

def setMember (l : List Nat) (n : Nat) (b : Bool) : List Nat := if b then insertNat n l else l.filter (· != n)

/-- A read of a line by any requester: decided by R403, acted on by R404. The data are those the outcome returns, and the
stored line is again a codeword of them: one that was corrected in a group is rewritten and logged, poisoned or not (R416
names its group and that it was poisoned). -/
def State.settleLine (s : State) (line : Nat) : State :=
  match look? s.mem.lineErrs line with
  | none => s
  | some e =>
    let was := s.mem.poisonLines.contains line
    let out := decideLine was e
    let left := match out with
      | .clean l | .corrected _ l | .poisoned l | .poisonCorrected _ l | .uncorrectable l => l
    let poison := match out with
      | .clean _ | .corrected _ _ => false
      | _ => true
    let groups : BitVec 32 := match out with
      | .corrected q _ | .poisonCorrected q _ => 1#32 <<< q
      | .uncorrectable l => (l.foldl (fun acc t => acc ||| (1#32 <<< (t.1 / 8))) 0)
      | _ => 0
    let cls := match out with
      | .corrected _ _ | .poisonCorrected _ _ => some 0
      | .uncorrectable _ => some 1
      | _ => none
    let before := match out with
      | .poisonCorrected _ _ => true
      | .uncorrectable _ => was
      | _ => false
    let die := line / 2 ^ 32 % 4
    let halves := if cls = some 1 then s.mem.halves.filter fun h => h.1 != line else s.mem.halves
    let m := { s.mem with cells := garbleLine (look 0 s.mem.lineKeys line) line left s.mem.cells
                          lineErrs := del? line s.mem.lineErrs, halves := halves
                          poisonLines := setMember s.mem.poisonLines line poison }
    let s := { s with mem := if poison && !was then m.spoil [line] else m }
    match cls with
    | some c => s.note { die := die, cls := c, unit := c, location := location (die * 512), address := BitVec.ofNat 48 (line * 64)
                         detail := groups ||| (if before then 1#32 <<< 10 else 0) }
    | none => s

end Sys2Proof.Machine
end

