-- ==== Sys2Proof/Machine/Memory.lean ====
section
/-! DEFINITION. Physical memory: HBM behind keys and the line code, the pools, host memory, the tier; each die's view of
writes not yet applied everywhere (05 R116 to R122). Keys of bytes: HBM as the tweak of 18 R418 lays it out (byte in the
stack in bits 0 to 35, stack in 36 and 37, die in 38 and 39), the others in ranges of their own above it. -/

namespace Sys2Proof.Machine

def hbmKey (page24 off : Nat) : Nat := page24 * 65536 + off
def hostKey (port hpa : Nat) : Nat := 2 ^ 70 + port * 2 ^ 64 + hpa
/-- The expert tier: CXL fabric memory by host physical address (17 R386), and flash by queue pair and byte (13 R346). -/
def tierKey (port hpa : Nat) : Nat := 2 ^ 54 + port * 2 ^ 50 + hpa
def flashKey (qp byte : Nat) : Nat := 2 ^ 80 + qp * 2 ^ 62 + byte
def isHbm (k : Nat) : Bool := k < 2 ^ 40
def isHost (k : Nat) : Bool := 2 ^ 70 ≤ k && k < 2 ^ 70 + 2 ^ 65
def isPool (k : Nat) : Bool := 2 ^ 45 ≤ k && k < 2 ^ 46
/-- The die whose memory, port or core holds a byte. -/
def homeDie (k : Nat) : Nat :=
  if isHbm k then k / 2 ^ 38 % 4 else if isHost k then (k - 2 ^ 70) / 2 ^ 64 * 2 else if isPool k then dieOf ((k - 2 ^ 45) / 2 ^ 24)
  else 0

def spanNats (a n : Nat) : List Nat := (List.range n).map (a + ·)
/-- The numbers of the blocks of `unit` bytes that `n` bytes from `a` touch. -/
def blocks (unit a n : Nat) : List Nat := if n = 0 then [] else spanNats (a / unit) ((a + n - 1) / unit - a / unit + 1)

/-! ## Views (05 R117) -/

/-- Memory's canonical form: of what its homes hold, and of each die's view, whose every entry counts. -/
def Memory.wf (m : Mem) : Bool :=
  Machine.wf 0 m.cells && (Machine.wf [] m.views && m.views.all fun v => rising 0 v.2) &&
  (Machine.wf [] m.viewPoison && m.viewPoison.all fun v => rising 0 v.2)

def Mem.view (m : Mem) (die : Nat) : List Host.Cell := look [] m.views die
/-- A byte as a die sees it. -/
def Mem.byteAt (m : Mem) (die k : Nat) : Byte := (look? (m.view die) k).getD (look 0 m.cells k)
def Mem.setView (m : Mem) (die : Nat) (v : List Host.Cell) : Mem := { m with views := put [] die v m.views }

/-- The blocks that poison follows (18 R408): HBM lines, and sectors of everything else. No line has a sector's number. -/
def unitOf (k : Nat) : Nat := if isHbm k then 64 else 32
def poisonBlocks (a n : Nat) : List Nat := blocks (unitOf a) a n
def Mem.homePoison (m : Mem) (b : Nat) : Bool := if b < 2 ^ 34 then m.poisonLines.contains b else m.poisonSectors.contains b
def Mem.marks (m : Mem) (die : Nat) : List (Nat × Bool) := look [] m.viewPoison die
/-- A block's poison as a die sees it. -/
def Mem.poisonAt (m : Mem) (die b : Nat) : Bool := (look? (m.marks die) b).getD (m.homePoison b)
def Mem.setMarks (m : Mem) (die : Nat) (v : List (Nat × Bool)) : Mem := { m with viewPoison := put [] die v m.viewPoison }

/-- Bytes put in a die's view at the addresses given, each with its poison on its block. -/
def Mem.overlay (m : Mem) (die : Nat) (l : List (Nat × Byte)) (marks : List (Nat × Bool)) : Mem :=
  (m.setView die (l.foldl (fun v t => put? t.1 t.2 v) (m.view die))).setMarks die (marks.foldl (fun v t => put? t.1 t.2 v) (m.marks die))
/-- Bytes taken out of a die's view; a block none of whose bytes is left in it has its home's poison. -/
def Mem.unview (m : Mem) (die : Nat) (ks : List Nat) : Mem :=
  let v := ks.foldl (fun v k => del? k v) (m.view die)
  let gone (b : Nat) : Bool := !v.any fun c => c.1 / unitOf c.1 == b
  let marks := (ks.map fun k => k / unitOf k).foldl (fun l b => if gone b then del? b l else l) (m.marks die)
  (m.setView die v).setMarks die marks
/-- Before its home changes bytes, a die that is not to see the change yet keeps them as they are (05 R117). -/
def Mem.keep (m : Mem) (a n die : Nat) : Mem :=
  let held := m.view die
  let ks := (spanNats a n).filter fun k => (look? held k).isNone
  let bs := (poisonBlocks a n).filter fun b => (look? (m.marks die) b).isNone
  m.overlay die (ks.map fun k => (k, look 0 m.cells k)) (bs.map fun b => (b, m.homePoison b))

/-! ## Reading -/

/-- The generation bound to a key id; an access under an unbound id is killed with 20 and logged as class 8 (18 R420). -/
def State.keyGen (s : State) (die : Nat) (key : Byte) : Chk Nat :=
  match look? s.mem.keySlots key.toNat with
  | some g => .ok g
  | none => .error (.kill 20 (some { die := die, cls := 8, unit := 10, location := location (die * 512), reason := 20 }))

/-- A byte decrypted under a generation (18 R418, R420): under another than its line's, what its block's ciphertext decrypts
to. A line never written since power-on has no generation. -/
def Mem.plain (m : Mem) (die gen k : Nat) : Byte :=
  let g := look 0 m.lineKeys (k / 64)
  if g = 0 ∨ g = gen then m.byteAt die k
  else (recode g gen (k / 16 * 16) ((spanNats (k / 16 * 16) 16).map (m.byteAt die)) (List.replicate 16 0)).getD (k % 16) 0

/-- A line is read: the line code decides (18 R403, R404). Where it meets no real error, armed checks report (16 R379, 18
R415). -/
def State.checkLine (s : State) (l : Nat) : State :=
  if (look? s.mem.lineErrs l).isSome then s.settleLine l
  else (s.inject (l / 2 ^ 32 % 4 * 512) 0 (l / 2 ^ 30 % 4)).inject (l / 2 ^ 32 % 4 * 512) 1 (l / 2 ^ 30 % 4)

/-- Lines are read. -/
def State.settle (s : State) (a n : Nat) : State := (blocks 64 a n).foldl State.checkLine s

/-- An access to lines whose stored form has an error waits until the base die has acted on the first of them (18 R404). -/
def State.awaitLines (s : State) (a n : Nat) : Chk Unit :=
  match (blocks 64 a n).find? fun l => (look? s.mem.lineErrs l).isSome with
  | some l => .error (.line l)
  | none => .ok ()

/-- `n` bytes of HBM as a die reads them under a key id. -/
def State.readHbm (s : State) (die : Nat) (key : Byte) (a n : Nat) : Chk (List Byte × Bool × State) := do
  let gen ← s.keyGen (homeDie a) key
  s.awaitLines a n
  let s := s.settle a n
  .ok ((spanNats a n).map (s.mem.plain die gen), (blocks 64 a n).any (s.mem.poisonAt die), s)

/-- Lines with an error acted on by their base dies, for an access that is one step (18 R404). -/
def State.repair (s : State) (a n : Nat) : State := (blocks 64 a n).foldl State.settleLine s

/-- `n` bytes of a pool, host memory or the tier as a die reads them. -/
def State.readPlain (s : State) (die a n : Nat) : List Byte × Bool :=
  ((spanNats a n).map (s.mem.byteAt die), (blocks 32 a n).any (s.mem.poisonAt die))

/-! ## Writing at the home -/

/-- The bytes of one line written as the home die performs it (18 R405, R412, R421). -/
def Mem.writeLine (m : Mem) (gen line a : Nat) (bs : List Byte) (poison : Bool) : Mem :=
  let g := look 0 m.lineKeys line
  let whole := bs.length == 64
  let block (j : Nat) : List Byte :=
    recode g gen (line * 64 + 16 * j) ((spanNats (line * 64 + 16 * j) 16).map (look 0 m.cells)) (List.replicate 16 0)
  let old := if whole || g == 0 || g == gen then m.cells else putN (line * 64) ((List.range 4).flatMap block) m.cells
  { m with cells := putN a bs old
           lineKeys := put 0 line gen m.lineKeys
           lineErrs := if whole then del? line m.lineErrs else m.lineErrs
           halves := if whole || poison then m.halves.filter fun h => h.1 != line else m.halves
           poisonLines := setMember m.poisonLines line (poison || (!whole && m.poisonLines.contains line)) }

/-- A sector of a line that an entry has written whole with clean data: with its other half the entry has written all 64
bytes, and the line is clean (18 R405, R412). -/
def Mem.wholeHalf (m : Mem) (a entry : Nat) : Mem :=
  let line := a / 64
  let half := a % 64 / 32
  if m.halves.contains (line, 1 - half, entry) then
    { m with halves := m.halves.filter fun h => h.1 != line, poisonLines := setMember m.poisonLines line false }
  else if m.poisonLines.contains line then { m with halves := (line, half, entry) :: m.halves.filter fun h => h != (line, half, entry) }
  else m

/-- The part of a write that lies in one block of `unit` bytes. -/
def slice (unit b a : Nat) (bs : List Byte) : Nat × List Byte :=
  let lo := max a (b * unit)
  (lo, (bs.drop (lo - a)).take (b * unit + unit - lo))

def State.writeHbm (s : State) (gen a : Nat) (bs : List Byte) (poison : Bool) : State :=
  let s := if bs.length % 64 == 0 && a % 64 == 0 then s else s.settle a bs.length
  { s with mem := (blocks 64 a bs.length).foldl (fun m l => let t := slice 64 l a bs; m.writeLine gen l t.1 t.2 poison) s.mem }

/-- A write of pool or host bytes: poison follows 32-byte sectors (18 R408, R412). -/
def Mem.writePlain (m : Mem) (a : Nat) (bs : List Byte) (poison : Bool) : Mem :=
  let mark (l : List Nat) (b : Nat) : List Nat :=
    setMember l b (poison || ((slice 32 b a bs).2.length != 32 && l.contains b))
  { m with cells := putN a bs m.cells, poisonSectors := (blocks 32 a bs.length).foldl mark m.poisonSectors }

/-- A pending write has been put over at its home by a later one: by one of a die, or by one performed for every
observer at once (05 R117). -/
def PendWrite.cover (a n : Nat) (by_ : Option (Nat × Word32)) (w : PendWrite) : PendWrite :=
  if w.place.isSome && w.replicas.isNone && overlaps w.addr w.bytes.length a n then { w with under := w.under ++ [(a, n, by_)] } else w

/-- A write performed for every observer at once: an engine's sector, a pool store (05 R115, R137). A die keeps what it sees
of a write that the home has still to put after this one. -/
def State.writeNow (s : State) (gen a : Nat) (bs : List Byte) (poison : Bool) : State :=
  let s := if isHbm a then s.writeHbm gen a bs poison else { s with mem := s.mem.writePlain a bs poison }
  let later (d k : Nat) : Bool := s.mem.pending.any fun w =>
    w.place.isNone && w.applied.contains d && decide (w.addr ≤ k) && decide (k < w.addr + w.bytes.length)
  let ks := spanNats a bs.length
  let m := { s.mem with pending := s.mem.pending.map (PendWrite.cover a bs.length none) }
  let m := if poison then m.spoil (poisonBlocks a bs.length) else m
  { s with mem := (List.range 4).foldl (fun m d => if (m.view d).isEmpty then m else m.unview d (ks.filter fun k => !later d k)) m }

/-! ## Ordinary writes of the package -/

/-- The nearest die of a replica mask, ties to the lower (05 R122; assumption 9). -/
def nearest (die home : Nat) (mask : BitVec 4) : Nat :=
  let holds (d : Nat) : Bool := mask.getLsbD d || d == home
  if holds die then die
  else if holds (die ^^^ 1) && (die ^^^ 1 < die ^^^ 2 || !holds (die ^^^ 2)) then die ^^^ 1
  else if holds (die ^^^ 2) then die ^^^ 2
  else die ^^^ 3

/-- The dies whose loads of a replicated page read the replica on a die (05 R122). -/
def served (home : Nat) (mask : BitVec 4) (die : Nat) : List Nat := (List.range 4).filter fun d => nearest d home mask == die

def Mem.clock (m : Mem) (die : Nat) : List Word32 := if h : die < 4 then m.clocks[die].toList else []
/-- A die's clock entry for a die's writes, moved to a stamp's. -/
def Mem.tick (m : Mem) (die src : Nat) (v : Word32) : Mem :=
  { m with clocks := vset m.clocks die (vset (vget m.clocks die) src v) }

/-- A die has applied at least what a stamp counts of a die's writes; counters are compared modulo 2^32. -/
def clockGe (c v : Word32) : Bool := !(c - v).msb

/-- The bytes of a write as its home performs it. -/
def State.applyHome (s : State) (w : PendWrite) : State :=
  let gen := (look? s.mem.keySlots w.key.toNat).getD 0
  if isHbm w.addr then s.writeHbm gen w.addr w.bytes w.poison
  else { s with mem := s.mem.writePlain w.addr w.bytes w.poison }

/-- A write takes its place in its home's order (assumption 93): dies that have not applied it keep what they see, and the writes before it
lie under it. -/
def State.applyPlace (s : State) (w : PendWrite) : State :=
  let n := w.bytes.length
  let waiting := if isPool w.addr then [] else (List.range 4).filter fun d => d != w.home && !w.applied.contains d
  let s := { s with mem := waiting.foldl (fun m d => m.keep w.addr n d) s.mem }
  let s := s.applyHome w
  let (place, s) := s.fresh
  let mark (p : PendWrite) : PendWrite :=
    if p.id == w.id then { p with place := some place } else p.cover w.addr n (some (w.die, w.stamp.getD w.die 0))
  { s with mem := { s.mem with pending := s.mem.pending.map mark } }

/-- A later write of the home's order, which the die has applied, covers a byte of a write (05 R117). -/
def State.covered? (s : State) (w : PendWrite) (die k : Nat) : Bool := w.under.any fun t =>
  decide (t.1 ≤ k) && decide (k < t.1 + t.2.1) &&
  (match t.2.2 with
   | none => true
   | some (src, v) => clockGe ((s.mem.clock die).getD src 0) v)

/-- A write applied at a die away from its home: the die sees its bytes, but for those over which it already sees a later
write of the home's order. -/
def State.applyAway (s : State) (w : PendWrite) (die : Nat) : State :=
  let ks := (spanNats w.addr w.bytes.length).zip w.bytes |>.filter fun t => !s.covered? w die t.1
  let unit := unitOf w.addr
  let mark (b : Nat) : Nat × Bool :=
    (b, w.poison || ((slice unit b w.addr w.bytes).2.length != unit && s.mem.poisonAt die b))
  let bs := (poisonBlocks w.addr w.bytes.length).filter fun b => ks.any fun t => t.1 / unit == b
  { s with mem := s.mem.overlay die ks (bs.map mark) }

/-- Loads performed ahead on a die take note of a write seen there (01 R30). -/
def State.noteWrite (s : State) (seen : Seen) (die : Nat) : State :=
  let note (a : Act) : Act :=
    if a.early.isEmpty || dieOf a.core != die then a else { a with early := a.early.map fun e => { e with since := e.since ++ [seen] } }
  { s with act := note s.act, acts := s.acts.map note }
/-- A die has applied a write. -/
def State.noteSeen (s : State) (w : PendWrite) (die : Nat) : State :=
  s.noteWrite { addr := w.addr, len := w.bytes.length, core := w.core, die := w.die, stamp := w.stamp, replicated := w.replicas.isSome } die
/-- A core has written its pool, or a mate's: at once for all that see it (05 R115). -/
def State.noteStore (s : State) (core addr n : Nat) : State :=
  let die := dieOf core
  s.noteWrite { addr := addr, len := n, core := core, die := die, stamp := s.mem.clock die } die

def State.applyAt (s : State) (w : PendWrite) (die : Nat) : State :=
  match w.replicas with
  | some mask =>
    let gen := (look? s.mem.keySlots w.key.toNat).getD 0
    (served w.home mask die).foldl (fun s d => s.noteSeen w d) (s.writeHbm gen (die * 2 ^ 38 + w.addr % 2 ^ 38) w.bytes w.poison)
  | none => (if die = w.home then s.applyPlace w else if isPool w.addr then s else s.applyAway w die).noteSeen w die

/-- A write issued and stamped: its own die sees it at once, and the other dies when it is applied there (05 R117). A store
to a replicated page goes to the home die (05 R122). -/
def State.issueWrite (s : State) (w : PendWrite) : State :=
  let m := s.mem.tick w.die w.die (vget (vget s.mem.clocks w.die) w.die + 1)
  let w := { w with stamp := m.clock w.die, applied := if w.replicas.isSome then [] else [w.die] }
  let s := { s with mem := { m with pending := m.pending ++ [w] } }
  if w.replicas.isSome then s else s.applyAt w w.die

/-- Every die that is not lost has applied a write, or for a replicated page every replica. -/
def State.retired (s : State) (w : PendWrite) : Bool :=
  let dies := match w.replicas with
    | some m => (List.range 4).filter fun d => m.getLsbD d || d == w.home
    | none => List.range 4
  dies.all fun d => w.applied.contains d || s.links.lostDies.getLsbD d

/-- A write that is applied everywhere is no longer pending; dies see what its home holds, but for bytes that another
pending write covers. -/
def State.retire (s : State) (w : PendWrite) : State :=
  if s.retired w then
    let rest := s.mem.pending.filter fun p => p.id != w.id
    let free := (spanNats w.addr w.bytes.length).filter fun k =>
      !rest.any fun p => decide (p.addr ≤ k) && decide (k < p.addr + p.bytes.length)
    let m := { s.mem with pending := rest }
    { s with mem := (List.range 4).foldl (fun m d => if (m.view d).isEmpty then m else m.unview d free) m }
  else s

/-- A sector of a push written: its masked bytes keep their values (09 R228, R242, R244). One that a poisoned mask bit leaves
unwritten is poisoned too (assumption 113). -/
def Mem.writePush (m : Mem) (w : PendWrite) : Mem :=
  let kept := (w.mask.zip ((spanNats w.addr w.bytes.length).map (look 0 m.cells))).zip w.bytes
  let whole := w.mask.all id
  { m with cells := putN w.addr (kept.map fun t => if t.1.1 then t.2 else t.1.2) m.cells
           poisonSectors := setMember m.poisonSectors (w.addr / 32) (w.poison || (!whole && m.poisonSectors.contains (w.addr / 32))) }

/-- A push performed: pushes of one stream in beat order (09 R233). -/
def State.performPush (s : State) (w : PendWrite) : State :=
  State.noteStore { s with mem := { s.mem.writePush w with pending := s.mem.pending.filter fun p => p.id != w.id } } w.core w.addr w.bytes.length |>.checkPool w.core

/-- A push of an earlier activation of an actor is still to be performed: it comes before the actor's next accesses (05 R114, 09
R233). -/
def PendWrite.stale (p : PendWrite) (aid : Nat) (name : Word) : Bool :=
  p.stream.isSome && p.aid != aid && p.actor == name && nameKind name != 1

/-- A die has applied the causal predecessors of a write (05 R117): all that its stamp counts but itself. -/
def Mem.ready (m : Mem) (w : PendWrite) (die : Nat) : Bool :=
  (List.range 4).all fun j =>
    let v := w.stamp.getD j 0
    let c := (m.clock die).getD j 0
    if j == w.die then die == w.die || c + 1 == v else clockGe c v

/-- A pending write may be applied at a die now (05 R117, R122; 09 R233); a replica is applied for every die that reads
it. -/
def State.applicable (s : State) (w : PendWrite) (die : Nat) : Bool :=
  let before := s.mem.pending.takeWhile fun p => p.id != w.id
  if w.stream.isSome then die == w.die && !before.any fun p => (p.stream == w.stream && p.aid == w.aid) || p.stale w.aid w.actor
  else match w.replicas with
  | some m =>
    let samePage (p : PendWrite) : Bool := p.replicas.isSome && p.addr / 65536 == w.addr / 65536
    !w.applied.contains die && ((served w.home m die).filter fun d => !s.links.lostDies.getLsbD d).all (s.mem.ready w) &&
    (if die == w.home then !before.any fun p => samePage p && p.core == w.core && !p.applied.contains w.home
     else m.getLsbD die && w.applied.contains w.home &&
       !before.any fun p => samePage p && p.applied.contains w.home && !p.applied.contains die)
  | none => !w.applied.contains die && s.mem.ready w die

/-- A pending write is applied at a die (05 R117, R122): the WRITE_PERFORMED event's effect. A replicated page's write
takes its place in the home's order when the home applies it. -/
def State.perform (s : State) (w : PendWrite) (die : Nat) : State :=
  let s := s.applyAt w die
  let w' := { w with applied := die :: w.applied }
  let dies := match w.replicas with
    | some mask => (served w.home mask die).filter (· != w.die)
    | none => [die]
  let m := dies.foldl (fun m d => m.tick d w.die (w.stamp.getD w.die 0)) s.mem
  let others := m.pending.filter fun p => p.id != w.id
  let moved := if w.replicas.isSome && die == w.home then others ++ [w']
    else mapIf (fun p => p.id == w.id) (fun p => { p with applied := die :: p.applied }) m.pending
  ({ s with mem := { m with pending := moved } }.inject (die * 512) 6 (if die ^^^ w.die = 2 then 1 else 0)).retire w'

/-- Everything a die has seen is applied at another (05 R118: what an atomic waits for at its home). -/
def Mem.caughtUp (m : Mem) (home die : Nat) : Bool :=
  (List.range 4).all fun j => clockGe ((m.clock home).getD j 0) ((m.clock die).getD j 0)

end Sys2Proof.Machine
end

