-- ==== Sys2Proof/Machine/Translate.lean ====
section
/-! DEFINITION. Address translation (17): slices, the walk, its checks, misses and tickets; and `run`, which turns what
a meaning computes into an outcome. -/

namespace Sys2Proof.Machine

/-- The kinds of access that translation tells apart (17 R388, R391). -/
inductive Access where
  | load | store | atomic | fetch | engineRead | engineWrite | restartRead
  deriving DecidableEq, Repr

/-- The access code of a fault record (17 R391). -/
def Access.code : Access → Nat
  | .load => 0 | .store => 1 | .atomic => 2 | .fetch => 3 | .engineRead => 4 | .engineWrite => 5 | .restartRead => 6

/-- Whether the access writes (17 R398). -/
def Access.writes : Access → Bool
  | .store | .atomic | .engineWrite => true
  | .load | .fetch | .engineRead | .restartRead => false

/-- What R100 and R165 allow of each target type; types 6 and 7 have rows of their own in R103. -/
def Access.allowed (type : Nat) : Access → Bool
  | .load | .restartRead => type == 0 || type == 1 || type == 2 || type == 5 || type == 6
  | .store => type == 0 || type == 1 || type == 2 || type == 4 || type == 5 || type == 6
  | .atomic => type == 0 || type == 1 || type == 4 || type == 5
  | .fetch => type == 0 || type == 1 || type == 2 || type == 5
  | .engineRead => type == 0 || type == 1 || type == 2 || type == 3 || type == 5
  | .engineWrite => type == 0 || type == 1 || type == 2 || type == 4 || type == 5

/-! ## Table entries (17 R384 to R386) -/

def entryValid (e : Word) : Bool := e.getLsbD 0
def entryLeaf (e : Word) : Bool := e.getLsbD 4
def entryType (e : Word) : Nat := bits e.toNat 5 3
def entryKey (e : Word) : Byte := e.extractLsb' 8 8
def entryPoison (e : Word) : Bool := e.getLsbD 16
def entryDirty (e : Word) : Bool := e.getLsbD 17
def entryPage (e : Word) : Nat := bits e.toNat 18 34

/-- The bits R388 requires of a leaf. -/
def Access.permitted (e : Word) : Access → Bool
  | .load | .engineRead | .restartRead => e.getLsbD 1
  | .store | .engineWrite => e.getLsbD 2
  | .atomic => e.getLsbD 1 && e.getLsbD 2
  | .fetch => e.getLsbD 3

/-- A page of local HBM (17 R386, type 0). -/
def page0Ok (p : Nat) : Bool := bits p 20 2 < 3 && bits p 0 20 < 976562

/-- The page field's layout (17 R386). -/
def pageOk (type p : Nat) : Bool :=
  match type with
  | 0 => p < 2 ^ 24 && page0Ok p
  | 1 => bits p 24 4 == 0 && page0Ok p
  | 4 => p < 2 ^ 16 && bits p 8 6 < 48 && bits p 5 3 < 5
  | 5 => bits p 28 6 == 0 && page0Ok p
  | _ => true

/-- A malformed valid entry (17 R384, R387); `keys` says which key ids the partition may use. -/
def malformed (keys : Byte → Bool) (level : Nat) (e : Word) : Bool :=
  if level = 0 then bits e.toNat 1 17 != 0 || bits e.toNat 52 12 != 0 || !pageOk 0 (entryPage e)
  else if bits e.toNat 52 12 != 0 then true
  else if entryLeaf e then
    level == 1 || (level == 2 && bits (entryPage e) 0 13 != 0) || !pageOk (entryType e) (entryPage e) ||
    (match entryType e with
     | 0 | 5 => !keys (entryKey e)
     | 2 | 3 | 4 | 6 => entryKey e != 0
     | _ => false)
  else level == 3 || bits e.toNat 5 13 != 0 || bits e.toNat 1 3 != 0 || !pageOk 0 (entryPage e)

/-- The partition that holds an address-space id; id 0 is Calico's own. -/
def State.partOfAsid (s : State) (asid : Nat) : Option Nat :=
  if asid = 0 then none else (List.range 48).find? fun p => (s.part p).state != 0 && (s.part p).asid.toNat == asid

/-- Key ids that a partition's tables may name (16 R370, 17 R387); Calico's own tables may name any. -/
def State.keysOk (s : State) (asid : Nat) (key : Byte) : Bool :=
  match s.partOfAsid asid with
  | none => true
  | some p =>
    let first := bits (s.part p).keys.toNat 0 8
    let count := bits (s.part p).keys.toNat 8 8
    decide (first ≤ key.toNat) && decide (key.toNat < first + count)

/-- The slice of an address on any die (17 R382). -/
def sliceOf (va : Nat) : Nat := (bits va 16 16 ^^^ bits va 32 16 ^^^ bits va 48 7) % 48

/-! ## Minimal mode (20 R444) -/

/-- HBM that the part has: in minimal mode stack 0 of die 0, if it trained (assumption 95). -/
def State.hbmHere (s : State) (k : Nat) : Bool := !s.boot.minimal || (s.boot.hbm && decide (k < 2 ^ 36))
/-- In minimal mode an entry that names HBM, a port or a core which the part then has not names no page. -/
def State.absentPage (s : State) (level : Nat) (e : Word) : Bool :=
  s.boot.minimal &&
  (match (if level = 3 ∨ entryLeaf e then entryType e else 0) with
   | 0 | 5 => !s.hbmHere (hbmKey (entryPage e % 2 ^ 24) 0)
   | 2 | 3 => decide (2 ^ 33 ≤ entryPage e)
   | 4 => decide (entryPage e / 32 ≠ 4)
   | _ => false)

/-! ## The walk (17 R387) -/

/-- How a walk ends when it kills nothing. -/
inductive WalkEnd where
  /-- a leaf, its page the page of the address itself -/
  | leaf (e : Word)
  | miss (level : Nat)
  deriving DecidableEq, Repr

/-- An entry of a table, read as a load at the walking die under Calico's key; poison on it is a poisoned record. -/
def State.tableEntry (s : State) (die page idx : Nat) : Chk (Word × State) := do
  need (s.hbmHere (hbmKey page (idx * 8))) 20
  let (bs, poison, s) ← s.readHbm die 0 (hbmKey page (idx * 8)) 8
  need (!poison) 10
  .ok (BitVec.ofNat 64 (leNat bs), s)

/-- What a malformed entry logs (17 R387); its level has no bits in R416's layout (assumption 92). -/
def State.malformedNote (s : State) (die asid va level : Nat) : Note :=
  { die := die, cls := 7, unit := 9, location := location (die * 512 + sliceOf va * 8), asid := BitVec.ofNat 16 asid
    address := BitVec.ofNat 48 va, reason := 20, part := s.partOfAsid asid, level := some level }

/-- The part of an address that leads to a table entry of a level, and to a leaf's page. -/
def tagOf (level va : Nat) : Nat :=
  if level = 0 then 0 else if level = 1 then va / 2 ^ 42 else if level = 2 then va / 2 ^ 29 else va / 65536
/-- The addresses that an entry of a level serves: how many. -/
def reachOf (level : Nat) : Nat :=
  if level = 0 then 2 ^ 55 else if level = 1 then 2 ^ 42 else if level = 2 then 2 ^ 29 else 65536

/-- An entry that the slice of an address caches (17 R389). -/
def State.cachedEntry (s : State) (die asid va level : Nat) : Option Word :=
  (s.xlat.cached.find? fun c =>
    c.die == die && c.slice == sliceOf va && c.asid == asid && c.level == level && c.tag == tagOf level va).map (·.entry)

/-- One table entry of the walk: a miss ends it, a malformed entry kills. A root entry or pointer that the slice caches is
not read again (17 R389). -/
def State.walkEntry (s : State) (die asid va level page idx : Nat) : Chk (Option Word × State) :=
  match s.cachedEntry die asid va level with
  | some e => .ok (some e, s)
  | none => do
    let (e, s) ← s.tableEntry die page idx
    if !entryValid e then .ok (none, s)
    else if malformed (s.keysOk asid) level e || s.absentPage level e then .error (.kill 20 (some (s.malformedNote die asid va level)))
    else .ok (some e, s)

/-- The walk of the tables for an address. A leaf of level 2 stands for the page of the address within it. -/
def State.walk (s : State) (die asid va : Nat) : Chk (WalkEnd × State) := do
  let (r, s) ← s.walkEntry die asid va 0 (asid / 8192) (asid % 8192)
  match r with
  | none => .ok (.miss 0, s)
  | some e0 =>
    let (r, s) ← s.walkEntry die asid va 1 (entryPage e0) (bits va 42 13)
    match r with
    | none => .ok (.miss 1, s)
    | some e1 =>
      let (r, s) ← s.walkEntry die asid va 2 (entryPage e1) (bits va 29 13)
      match r with
      | none => .ok (.miss 2, s)
      | some e2 =>
        if entryLeaf e2 then
          let e := e2 ||| BitVec.ofNat 64 (bits va 16 13 <<< 18)
          if pageOk (entryType e) (entryPage e) then .ok (.leaf e, s)
          else .error (.kill 20 (some (s.malformedNote die asid va 2)))
        else
          let (r, s) ← s.walkEntry die asid va 3 (entryPage e2) (bits va 16 13)
          match r with
          | none => .ok (.miss 3, s)
          | some e3 => .ok (.leaf e3, s)

/-! ## Translating an access (17 R388, R389) -/

/-- Where an address leads: the leaf, and the address itself. -/
structure Phys where
  leaf : Word
  asid : Nat
  va : Nat
  deriving DecidableEq, Repr

def Phys.type (p : Phys) : Nat := entryType p.leaf
def Phys.page (p : Phys) : Nat := entryPage p.leaf
def Phys.off (p : Phys) : Nat := p.va % 65536
/-- The key of the byte the address names; for type 1 as the other package lays out its HBM, for type 5 the home copy. -/
def Phys.addr (p : Phys) : Nat :=
  match p.type with
  | 2 => hostKey (p.page / 2 ^ 33) (p.page % 2 ^ 33 * 65536 + p.off)
  | 3 => tierKey (p.page / 2 ^ 33) (p.page % 2 ^ 33 * 65536 + p.off)
  | 4 => poolKey (bits p.page 14 2 * 512 + bits p.page 8 6 * 8 + bits p.page 5 3) (bits p.page 0 5 * 65536 + p.off)
  | _ => hbmKey (p.page % 2 ^ 24) p.off

/-- The leaf a slice holds for a page. -/
def State.cachedLeaf (s : State) (die asid va : Nat) : Option Word := s.cachedEntry die asid va 4

/-- The table entry of a level that a walk for an address reads: a root entry or a pointer. -/
def State.pointerAt (s : State) (die asid va level : Nat) : Option Word :=
  let step (l page idx : Nat) : Option Word := match s.walkEntry die asid va l page idx with
    | .ok (some e, _) => if entryLeaf e then none else some e
    | _ => none
  do
    let e0 ← step 0 (asid / 8192) (asid % 8192)
    if level = 0 then some e0
    else
      let e1 ← step 1 (entryPage e0) (bits va 42 13)
      if level = 1 then some e1 else step 2 (entryPage e1) (bits va 29 13)

/-- The leaf that an address has now, if a walk finds one. -/
def State.leafOf (s : State) (die asid va : Nat) : Option Word :=
  match s.cachedLeaf die asid va with
  | some e => some e
  | none => match s.walk die asid va with
    | .ok (.leaf e, _) => some e
    | _ => none

/-- The checks of step 5 of R103 on a leaf: the reason of the first that fails. `only` is the one target type that the use
admits, every other giving reason 20 (11 R299). -/
def leafCheck (acc : Access) (service : Bool) (only : Option Nat) (e : Word) : Option Nat :=
  if entryType e = 7 ∨ only.any (· != entryType e) then some 20
  else if entryType e = 6 ∧ !service then some 19
  else if !acc.allowed (entryType e) then some 20
  else if !acc.permitted e then some 4
  else none

/-- An access passes the slice of its address: its detector checks (16 R379, 18 R415). -/
def State.atSlice (s : State) (die va : Nat) : State := s.inject (die * 512 + sliceOf va * 8) 2 0

/-- A walked address, checked. -/
def State.walkChecked (s : State) (die asid va : Nat) (acc : Access) (queue : Nat) (service : Bool) (only : Option Nat) :
    Chk (Phys × State) := do
  let (w, s) ← s.walk die asid va
  match w with
  | .miss level => .error (.miss { asid := asid, va := va, access := acc.code, queue := queue, level := level })
  | .leaf e =>
    match leafCheck acc service only e with
    | some r => kill r
    | none => .ok ({ leaf := e, asid := asid, va := va }, s.atSlice die va)

/-- Step 5 of R103: an address translated for an access at a die's slice. A cached leaf without the right is walked
again. -/
def State.translate (s : State) (die asid va : Nat) (acc : Access) (service : Bool) (queue : Nat := 7)
    (only : Option Nat := none) : Chk (Phys × State) :=
  match s.cachedLeaf die asid va with
  | some e =>
    match leafCheck acc service only e with
    | none => .ok ({ leaf := e, asid := asid, va := va }, s.atSlice die va)
    | some r => if r = 4 then s.walkChecked die asid va acc queue service only else kill r
  | none => s.walkChecked die asid va acc queue service only

/-! ## Misses (17 R391 to R393) -/

/-- The FAULT message of a ticket (17 R391). -/
def Ticket.message (t : Ticket) : Msg :=
  { w0 := pagerName t.part, w1 := t.actor, w2 := 0xFF09, w3 := t.deadline.zeroExtend 64
    w4 := t.va, w5 := t.actor, w6 := t.where_, w7 := t.what }

def msgKind (m : Msg) : Nat := m.w2.toNat % 65536
def msgPhase (m : Msg) : Half := m.w2.extractLsb' 48 16
def isHardware (m : Msg) : Bool := 0xFF00 ≤ msgKind m
/-- The job whose phases and launches a message counts in: its sender's, or for a hardware message its receiver's. -/
def msgJob (m : Msg) : Half := if isHardware m then nameJob m.w0 else nameJob m.w1
def State.epochOf (s : State) (job : Half) : Word32 := ((s.job? job).map (·.epoch)).getD 0

/-- A hardware message at its release carries the epoch of its cause's phase, or of phase 0 its job's (13 R348). -/
def State.stamped (s : State) (m : Msg) : Msg :=
  let open_ := s.dir.phases.find? fun p => p.job == msgJob m && p.id == msgPhase m && msgPhase m != 0
  { m with epoch := (open_.map (·.epoch)).getD (s.epochOf (msgJob m)) }

/-- Releases a message that only hardware generates. -/
def State.hardSend (s : State) (die : Nat) (m : Msg) : State :=
  let (id, s) := s.fresh
  { s with wire := { s.wire with flights := s.wire.flights ++ [{ id := id, src := m.w1, dst := m.w0, die := die, item := .msg (s.stamped m) }] } }

/-- A sequence number from `n` up that no outstanding ticket of the die and slice has. -/
def firstTicket (used : List Nat) (base : Nat) : Nat → Nat → Nat
  | 0, n => n
  | fuel + 1, n => if used.contains (base + n % 2 ^ 24) then firstTicket used base fuel (n + 1) else n

/-- A set is wanted (13 R349): an absent one is fetched, and a fetch of one being evicted is owed. -/
def State.wantSet (s : State) (n set : Nat) : State :=
  match s.exp.entries.find? fun e => e.num == n with
  | none => s
  | some e =>
    let w := vget e.sets set
    let mod (f : WSet → WSet) : List ExpEntry := mapIf (fun t => t.num == n) (fun t => { t with sets := vset t.sets set (f (vget t.sets set)) }) s.exp.entries
    if w.state = 2 then
      { s with exp := { s.exp with entries := mod (fun w => { w with state := 1 }), fetches := s.exp.fetches ++ [{ entry := n, set := set }] } }
    else if w.state = 3 then { s with exp := { s.exp with entries := mod fun w => { w with owed := true } } }
    else s

/-- A fault on a set's window is a request for the set (13 R349, R352). -/
def State.windowFault (s : State) (asid va : Nat) : State :=
  let hit (w : WSet) : Bool := decide (w.window ≤ va / 65536) && decide (va / 65536 ≤ w.window + w.pages)
  let mine (e : ExpEntry) : Bool := e.valid && some (s.partOf e.job 0) == s.partOfAsid asid
  (s.exp.entries.filter mine).foldl (fun s e =>
    [0, 1].foldl (fun s k => if hit (vget e.sets k) then s.wantSet e.num k else s) s) s

/-- A miss at a slice: it joins the ticket outstanding for the page, or takes a ticket and sends its record. -/
def State.raiseMiss (s : State) (die core part : Nat) (actor : Word) (deadline : Word32) (m : Miss) (join : Ticket → Ticket) :
    Nat × State :=
  let s := s.windowFault m.asid m.va
  let page := m.va / 65536
  let here (t : Ticket) : Bool := t.num / 2 ^ 30 == die && t.asid == m.asid && t.page == page
  match s.xlat.tickets.find? here with
  | some t => (t.num, { s with xlat := { s.xlat with tickets := mapIf here join s.xlat.tickets } })
  | none =>
    let base := die * 2 ^ 30 + sliceOf m.va * 2 ^ 24
    let seq := firstTicket (s.xlat.tickets.map (·.num)) base s.xlat.tickets.length (vget s.xlat.nextSeq die)
    let num := base + seq % 2 ^ 24
    let t : Ticket := join
      { num := num, asid := m.asid, page := page, va := BitVec.ofNat 64 m.va, actor := actor
        where_ := location core ++ BitVec.ofNat 32 num
        what := BitVec.ofNat 64 (m.asid * 2 ^ 48 + m.access * 2 ^ 44 + m.queue * 2 ^ 41 + m.level * 2 ^ 38 + m.mask)
        deadline := deadline, part := part }
    let s := { s with xlat := { s.xlat with tickets := s.xlat.tickets ++ [t], nextSeq := vset s.xlat.nextSeq die (seq + 1) } }
    (num, s.hardSend die t.message)

/-- An activation's own miss: it blocks at the instruction (17 R393). -/
def State.missAct (s : State) (m : Miss) : State :=
  let a := s.act
  let join (t : Ticket) : Ticket := if t.acts.contains a.aid then t else { t with acts := t.acts ++ [a.aid] }
  let (num, s) := s.raiseMiss (dieOf a.core) a.core s.myPart a.name a.deadline m join
  s.modAct fun a => { a with wait := .ticket num }

/-! ## Outcomes -/

/-- The outcome of what an instruction's meaning computes from a state: its next state; or the kill it raises, its
stall, or its miss, each of which is a next state too. -/
def run (s : State) (c : Chk State) : Host.Outcome State Fault Refusal :=
  if s.act.live then
    match c with
    | .ok t => .next t
    | .error (.kill r n) => .next (s.raise r n)
    | .error (.stall w) => .next (s.modAct fun a => { a with wait := w })
    | .error (.miss m) => .next (s.missAct m)
    | .error (.line l) => .next (s.settleLine l)
    | .error (.fault f) => .fault f
    | .error (.refuse r) => .refused r
  else .fault .noActivation

/-- The outcome of an event on a part that runs: its effect; where its conditions do not hold nothing happens
(assumption 17). -/
def event (s : State) (c : Option State) : Host.Outcome State Fault Refusal :=
  if s.boot.halted || s.boot.tripped || !s.boot.powered then .fault .partStopped else .next (c.getD s)

end Sys2Proof.Machine
end

