-- ==== Sys2Proof/Machine/Io.lean ====
section
/-! DEFINITION. The I/O pages of target type 6: the link page (19 R424, R425) and the error log's pages (18 R416). -/

namespace Sys2Proof.Machine

def State.link (s : State) (n : Nat) : Link := vget s.links.links n
def State.modLink (s : State) (n : Nat) (f : Link → Link) : State :=
  { s with links := { s.links with links := vset s.links.links n (f (s.link n)) } }

/-- A field placed at bit `lo` of a register. -/
def at_ {n : Nat} (v : BitVec n) (lo : Nat) : Word := v.zeroExtend 64 <<< lo
def flagAt (b : Bool) (lo : Nat) : Word := if b then (1 : Word) <<< lo else 0

/-- A register of the link page; none where the page lists no register. -/
def State.linkReg (s : State) (n off : Nat) : Option Word :=
  let l := s.link n
  match off with
  | 0x00 => some (at_ l.state 6 ||| flagAt l.err 5 ||| flagAt l.keywait 4)
  | 0x08 => some (at_ l.thr 0)
  | 0x10 => some l.txctr
  | 0x18 => some (at_ l.txgen 32 ||| at_ (vget l.tx 1) 6 ||| at_ (vget l.tx 0) 4 ||| at_ (vget l.rx 1) 2 ||| at_ (vget l.rx 0) 0)
  | 0x20 => some (at_ l.txnext 48 ||| at_ l.txold 32 ||| at_ l.rxnext 16 ||| BitVec.ofNat 64 l.replay.length)
  | 0x28 => some (at_ l.failTotal 32 ||| at_ l.failRun 0)
  | 0x30 => some (at_ l.rxsalt 32 ||| at_ l.txsalt 0)
  | 0x38 => if n = 0 then some (at_ s.links.rto 0) else none
  | _ => none

/-- A store to thr: a threshold of 1 to 2^40, or refused with err. -/
def State.writeThr (s : State) (n : Nat) (v : Word) : State :=
  if 1 ≤ v.toNat ∧ v.toNat ≤ 2 ^ 40 then s.modLink n fun l => { l with thr := v.setWidth 41 }
  else s.modLink n fun l => { l with err := true }

/-- A store to rto: 10 to 10,000 µs, or refused with err in link 0's ctl. -/
def State.writeRto (s : State) (v : Word) : State :=
  if 10 ≤ v.toNat ∧ v.toNat ≤ 10000 then { s with links := { s.links with rto := v.setWidth 32 } }
  else s.modLink 0 fun l => { l with err := true }

/-- A store to a listed register of the link page. -/
def State.writeLinkReg (s : State) (n off : Nat) (v : Word) : State :=
  match off with
  | 0x00 => if v.getLsbD 5 then s.modLink n fun l => { l with err := false } else s
  | 0x08 => s.writeThr n v
  | 0x38 => s.writeRto v
  | _ => s

/-- The four words of an error-log entry (18 R416). -/
def LogEntry.word (e : LogEntry) (i : Nat) : Word :=
  match i with
  | 0 => BitVec.ofNat 64 e.time
  | 1 => BitVec.ofNat 64 (e.cls * 2 ^ 56 + e.unit * 2 ^ 52) ||| flagAt e.injected 51 |||
      BitVec.ofNat 64 (e.part.getD 0 * 2 ^ 42) ||| flagAt e.part.isNone 41 ||| at_ e.location 0
  | 2 => at_ e.asid 48 ||| at_ e.address 0
  | _ => at_ e.detail 32 ||| at_ e.reason 16 ||| at_ e.count 0

/-- A store of a new head: accepted from the current head to tail (18 R416). -/
def DieLog.setHead (l : DieLog) (v : Word32) : DieLog :=
  if (v - l.head).toNat ≤ (l.tail - l.head).toNat then { l with head := v } else l

/-- A doubleword of an error log's pages. -/
def DieLog.read (l : DieLog) (page off : Nat) : Option Word :=
  if page = 0 then
    (match off with
     | 0x00 => some (at_ l.head 0)
     | 0x08 => some (at_ l.overflow 32 ||| at_ l.tail 0)
     | _ => none)
  else
    let k := (page - 1) * 2048 + off / 32
    some (match look? l.ring k with
      | some e => e.word (off % 32 / 8)
      | none => 0)

/-- A load of an I/O page at service level. -/
def State.ioRead (s : State) (page off n : Nat) : Chk Word :=
  match Config.ioBlock page with
  | none => .error (.refuse .unknownIoPage)
  | some b =>
    if n ≠ 8 then kill 3
    else
      match (match b with
        | .errorLog die p => (vget s.logs die).read p off
        | .linkPage l => s.linkReg l off) with
      | some v => .ok v
      | none => kill 3

/-- A store to an I/O page at service level. -/
def State.ioWrite (s : State) (page off n : Nat) (v : Word) : Chk State :=
  match Config.ioBlock page with
  | none => .error (.refuse .unknownIoPage)
  | some b =>
    if n ≠ 8 then kill 3
    else match b with
      | .errorLog die p =>
        let l := vget s.logs die
        if (l.read p off).isNone then kill 3
        else .ok (if p = 0 ∧ off = 0 then { s with logs := vset s.logs die (l.setHead (v.setWidth 32)) } else s)
      | .linkPage l => if (s.linkReg l off).isNone then kill 3 else .ok (s.writeLinkReg l off v)

end Sys2Proof.Machine
end

