-- ==== Sys2Proof/Machine/Flags.lean ====
section
/-! DEFINITION. Floating-point values, rounding, and every flag computation (06 R138 to R154). A finite value is exact:
a sign and a natural number times a power of two. -/

namespace Sys2Proof.Machine

/-! ## Formats (06 R138) -/

/-- What the largest exponent field of a format means. -/
inductive Top where
  /-- infinity and NaNs -/
  | ieee
  /-- numbers, but for one NaN code of each sign -/
  | oneNan
  /-- numbers -/
  | plain
  deriving DecidableEq, Repr, Inhabited

structure Fmt where
  ebits : Nat
  mbits : Nat
  bias : Nat
  top : Top
  /-- whether a clear top mantissa bit makes a NaN signalling (06 R139) -/
  signals : Bool
  deriving DecidableEq, Repr, Inhabited

def fp32 : Fmt := { ebits := 8, mbits := 23, bias := 127, top := .ieee, signals := true }
def bf16 : Fmt := { ebits := 8, mbits := 7, bias := 127, top := .ieee, signals := true }
def fp16 : Fmt := { ebits := 5, mbits := 10, bias := 15, top := .ieee, signals := true }
def e4m3 : Fmt := { ebits := 4, mbits := 3, bias := 7, top := .oneNan, signals := false }
def e5m2 : Fmt := { ebits := 5, mbits := 2, bias := 15, top := .ieee, signals := false }
def e3m2 : Fmt := { ebits := 3, mbits := 2, bias := 3, top := .plain, signals := false }
def e2m3 : Fmt := { ebits := 2, mbits := 3, bias := 1, top := .plain, signals := false }
def e2m1 : Fmt := { ebits := 2, mbits := 1, bias := 1, top := .plain, signals := false }

def Fmt.width (f : Fmt) : Nat := 1 + f.ebits + f.mbits
def Fmt.emax (f : Fmt) : Nat := 2 ^ f.ebits - 1
/-- The exponent of the smallest subnormal. -/
def Fmt.qmin (f : Fmt) : Int := 1 - f.bias - f.mbits
def Fmt.signBit (f : Fmt) (neg : Bool) : Nat := if neg then 2 ^ (f.ebits + f.mbits) else 0
/-- The code of the largest finite magnitude. -/
def Fmt.largest (f : Fmt) : Nat :=
  match f.top with
  | .ieee => f.emax * 2 ^ f.mbits - 1
  | .oneNan => f.emax * 2 ^ f.mbits + 2 ^ f.mbits - 2
  | .plain => 2 ^ (f.ebits + f.mbits) - 1
/-- The code of positive infinity. -/
def Fmt.infCode (f : Fmt) : Nat := f.emax * 2 ^ f.mbits
/-- The canonical NaN (06 R139), or in a format without NaN what stands for it (06 R151). -/
def Fmt.nanCode (f : Fmt) : Nat :=
  match f.top with
  | .ieee => f.emax * 2 ^ f.mbits + 2 ^ (f.mbits - 1)
  | .oneNan => 2 ^ (f.ebits + f.mbits) - 1
  | .plain => f.largest

/-! ## Values -/

inductive FV where
  | nan (signalling : Bool)
  | inf (neg : Bool)
  /-- `m * 2 ^ e`, negated when `neg` -/
  | fin (neg : Bool) (m : Nat) (e : Int)
  deriving DecidableEq, Repr, Inhabited

/-- The value of a code (06 R138). -/
def Fmt.decode (f : Fmt) (code : Nat) : FV :=
  let neg := decide (code / 2 ^ (f.ebits + f.mbits) % 2 = 1)
  let e := code / 2 ^ f.mbits % 2 ^ f.ebits
  let m := code % 2 ^ f.mbits
  if f.top = .ieee ∧ e = f.emax then
    if m = 0 then .inf neg else .nan (f.signals && decide (m < 2 ^ (f.mbits - 1)))
  else if f.top = .oneNan ∧ e = f.emax ∧ m = 2 ^ f.mbits - 1 then .nan false
  else if e = 0 then .fin neg m f.qmin
  else .fin neg (2 ^ f.mbits + m) ((e : Int) + f.qmin - 1)

/-- Whether a code is a subnormal number. -/
def Fmt.subnormal (f : Fmt) (code : Nat) : Bool := code / 2 ^ f.mbits % 2 ^ f.ebits = 0 && code % 2 ^ f.mbits ≠ 0

def FV.isNan : FV → Bool
  | .nan _ => true
  | _ => false
/-- A BF16 code widened to FP32 (06 R139, R152): exact, and a NaN is the canonical one. -/
def widenBf16 (code : Nat) : BitVec 32 := if (bf16.decode code).isNan then 0x7FC00000 else BitVec.ofNat 32 (code * 65536)
def FV.isSignalling : FV → Bool
  | .nan s => s
  | _ => false
def FV.neg : FV → FV
  | .nan s => .nan s
  | .inf n => .inf !n
  | .fin n m e => .fin (!n) m e
def FV.isZero : FV → Bool
  | .fin _ m _ => m == 0
  | _ => false
def FV.sign : FV → Bool
  | .nan _ => false
  | .inf n | .fin n _ _ => n

/-- A finite value as an integer multiple of `2 ^ q`, for `q` not above its own exponent. -/
def scaled (neg : Bool) (m : Nat) (e q : Int) : Int := (if neg then -1 else 1) * (m * 2 ^ (e - q).toNat : Nat)

/-- Exact comparison of values that are no NaN: -1, 0 or 1. The zeros are equal. -/
def FV.cmp : FV → FV → Int
  | .inf a, .inf b => if a == b then 0 else if a then -1 else 1
  | .inf a, _ => if a then -1 else 1
  | _, .inf b => if b then 1 else -1
  | .fin na ma ea, .fin nb mb eb =>
    let q := min ea eb
    (scaled na ma ea q - scaled nb mb eb q).sign
  | _, _ => 0

/-! ## Flags (06 R149) -/

abbrev Flags := BitVec 5
def flagNV : Flags := 16
def flagDZ : Flags := 8
def flagOF : Flags := 4
def flagUF : Flags := 2
def flagNX : Flags := 1
def flagIf (c : Bool) (f : Flags) : Flags := if c then f else 0
/-- The invalid flag of signalling inputs. -/
def sigFlag (l : List FV) : Flags := flagIf (l.any FV.isSignalling) flagNV

/-! ## Exact operations -/

/-- An exactly zero sum of values that are not zeros of one sign is -0 only under RDN (08 R220). -/
def FV.add (rdn : Bool) : FV → FV → FV × Flags
  | .nan a, b => (.nan false, sigFlag [.nan a, b])
  | a, .nan b => (.nan false, sigFlag [a, .nan b])
  | .inf a, .inf b => if a == b then (.inf a, 0) else (.nan false, flagNV)
  | .inf a, _ => (.inf a, 0)
  | _, .inf b => (.inf b, 0)
  | .fin na ma ea, .fin nb mb eb =>
    let q := min ea eb
    let v := scaled na ma ea q + scaled nb mb eb q
    if v = 0 then (.fin (if ma = 0 ∧ mb = 0 ∧ na = nb then na else rdn) 0 0, 0)
    else (.fin (decide (v < 0)) v.natAbs q, 0)

def FV.mul : FV → FV → FV × Flags
  | .nan a, b => (.nan false, sigFlag [.nan a, b])
  | a, .nan b => (.nan false, sigFlag [a, .nan b])
  | .inf a, b => if b.isZero then (.nan false, flagNV) else (.inf (a != b.sign), 0)
  | a, .inf b => if a.isZero then (.nan false, flagNV) else (.inf (a.sign != b), 0)
  | .fin na ma ea, .fin nb mb eb => (.fin (na != nb) (ma * mb) (ea + eb), 0)

/-- One product and one addition, exact. -/
def FV.fma (rdn : Bool) (a b c : FV) : FV × Flags :=
  let p := a.mul b
  let r := p.1.add rdn c
  (r.1, p.2 ||| r.2)

/-- A quotient of naturals to many more bits than any format has, its lowest bit set when it is not exact. -/
def stickyDiv (a b : Nat) (e : Int) : Nat × Int :=
  let k := b.log2 + 160
  let n := a * 2 ^ k
  (2 * (n / b) + (if n % b = 0 then 0 else 1), e - k - 1)

def FV.div : FV → FV → FV × Flags
  | .nan a, b => (.nan false, sigFlag [.nan a, b])
  | a, .nan b => (.nan false, sigFlag [a, .nan b])
  | .inf a, .inf _ => (if a then .nan false else .nan false, flagNV)
  | .inf a, b => (.inf (a != b.sign), 0)
  | a, .inf b => (.fin (a.sign != b) 0 0, 0)
  | .fin na ma ea, .fin nb mb eb =>
    if mb = 0 then (if ma = 0 then (.nan false, flagNV) else (.inf (na != nb), flagDZ))
    else let q := stickyDiv ma mb (ea - eb); (.fin (na != nb) q.1 q.2, 0)

/-- A square root to many bits, its lowest bit set when it is not exact. -/
def FV.sqrt : FV → FV × Flags
  | .nan a => (.nan false, sigFlag [.nan a])
  | .inf neg => if neg then (.nan false, flagNV) else (.inf false, 0)
  | .fin neg m e =>
    if m = 0 then (.fin neg 0 0, 0)
    else if neg then (.nan false, flagNV)
    else
      let odd := (e % 2).toNat
      let n := m * 2 ^ (odd + 400)
      let r := Nat.sqrt n
      (.fin false (2 * r + (if r * r = n then 0 else 1)) ((e - odd) / 2 - 201), 0)

/-! ## Rounding (06 R148) -/

/-- Whether a magnitude with a remainder `rem` of `2 ^ shift` moves up to the next value; modes as 06 R147 codes them,
`rnd` the 24 random bits of a draw. -/
def roundUp (mode : Nat) (neg : Bool) (lo rem shift rnd : Nat) : Bool :=
  match mode with
  | 0 => decide (rem * 2 > 2 ^ shift) || (rem * 2 == 2 ^ shift && lo % 2 == 1)
  | 1 => false
  | 2 => !neg && rem != 0
  | 3 => neg && rem != 0
  | _ => decide (rem * 2 ^ 24 / 2 ^ shift + rnd ≥ 2 ^ 24)

/-- A magnitude rounded to a multiple of `2 ^ q`: the multiple, and whether it is inexact. -/
def roundAt (mode : Nat) (neg : Bool) (m : Nat) (e q : Int) (rnd : Nat) : Nat × Bool :=
  if q ≤ e then (m * 2 ^ (e - q).toNat, false)
  else
    let shift := (q - e).toNat
    let lo := m / 2 ^ shift
    let rem := m % 2 ^ shift
    (if roundUp mode neg lo rem shift rnd then lo + 1 else lo, rem != 0)

/-- How a result is delivered: whether its format overflows to infinity (06 R150, R151), and whether tiny results are
flushed (06 R152). -/
structure Deliver where
  inf : Bool
  flush : Bool
  deriving DecidableEq, Repr

/-- The code of `n * 2 ^ q` with `q` as `roundAt` was asked for: normal, subnormal or zero. -/
def Fmt.pack (f : Fmt) (neg : Bool) (n : Nat) (q : Int) : Nat :=
  let n' := if n = 2 ^ (f.mbits + 1) then n / 2 else n
  let q' := if n = 2 ^ (f.mbits + 1) then q + 1 else q
  f.signBit neg + (if n' < 2 ^ f.mbits then n' else ((q' - f.qmin).toNat + 1) * 2 ^ f.mbits + (n' - 2 ^ f.mbits))

/-- An overflowed result (06 R150, R151). -/
def Fmt.overflow (f : Fmt) (mode : Nat) (neg : Bool) (inf : Bool) : Nat :=
  let up := mode == 0 || mode == 4 || (mode == 2 && !neg) || (mode == 3 && neg)
  f.signBit neg + (if inf && up then f.infCode else f.largest)

/-- An exact value rounded and delivered in a format, with its flags (06 R148 to R153). -/
def Fmt.deliver (f : Fmt) (mode : Nat) (d : Deliver) (rnd : Nat) : FV → Nat × Flags
  | .nan s => (f.nanCode, flagIf (s || f.top == .plain) flagNV)
  | .inf neg =>
    if f.top = .ieee then (f.signBit neg + f.infCode, 0) else (f.signBit neg + f.largest, flagOF ||| flagNX)
  | .fin neg m e =>
    if m = 0 then (f.signBit neg, 0)
    else
      let q := max ((m.log2 : Int) + e - f.mbits) f.qmin
      let r := roundAt mode neg m e q rnd
      let code := f.pack false r.1 q
      if f.largest < code then (f.overflow mode neg d.inf, flagOF ||| flagNX)
      else if code < 2 ^ f.mbits then
        if d.flush then (f.signBit neg, flagUF ||| flagNX)
        else (f.signBit neg + code, flagIf r.2 (flagUF ||| flagNX))
      else (f.signBit neg + code, flagIf r.2 flagNX)

/-- How FP32 results are delivered. -/
def inFull : Deliver := { inf := true, flush := false }
/-- Rounded to FP32. -/
def round32 (mode rnd : Nat) (v : FV) : Nat × Flags := fp32.deliver mode inFull rnd v
/-- `round_fp32(x, RNE)`, as the matrix array rounds. -/
def rne32 (v : FV) : Word32 × Flags := let r := round32 0 0 v; (BitVec.ofNat 32 r.1, r.2)
def val32 (w : Word32) : FV := fp32.decode w.toNat

/-- How a conversion or an operation delivers in a format: E5M2 overflows to infinity only with e5inf (06 R151). -/
def Fmt.deliverAs (f : Fmt) (e5inf flush : Bool) : Deliver :=
  { inf := if f = fp32 then true else f == e5m2 && e5inf, flush := flush }

/-! ## Integers (06 R154, R159) -/

/-- The range of an integer type. -/
def intLo (signed : Bool) (n : Nat) : Int := if signed then -(2 ^ (n - 1) : Nat) else 0
def intHi (signed : Bool) (n : Nat) : Int := if signed then (2 ^ (n - 1) : Nat) - 1 else (2 ^ n : Nat) - 1
def clampInt (signed : Bool) (n : Nat) (v : Int) : Int := max (intLo signed n) (min (intHi signed n) v)

/-- Floating point to an integer type (06 R154). -/
def FV.toInt (mode rnd : Nat) (signed : Bool) (n : Nat) : FV → Int × Flags
  | .nan _ => (0, flagNV)
  | .inf neg => (if neg then intLo signed n else intHi signed n, flagNV)
  | .fin neg m e =>
    let r := roundAt mode neg m e 0 rnd
    let v : Int := if neg then -(r.1 : Int) else r.1
    if v < intLo signed n ∨ intHi signed n < v then (clampInt signed n v, flagNV) else (v, flagIf r.2 flagNX)

def FV.ofInt (v : Int) : FV := .fin (decide (v < 0)) v.natAbs 0

/-- Wraps an integer to `n` bits (06 R159). -/
def wrapInt (n : Nat) (v : Int) : Nat := (v % (2 ^ n : Nat)).toNat
/-- The value of `n` bits as a signed or unsigned integer. -/
def intOf (signed : Bool) (n : Nat) (v : Nat) : Int :=
  let w := v % 2 ^ n
  if signed ∧ 2 ^ (n - 1) ≤ w then (w : Int) - (2 ^ n : Nat) else w

/-! ## Random draws (06 R148) -/

def splitmix64 (v : Word) : Word :=
  let z := v + 0x9E3779B97F4A7C15
  let z := (z ^^^ (z >>> 30)) * 0xBF58476D1CE4E5B9
  let z := (z ^^^ (z >>> 27)) * 0x94D049BB133111EB
  z ^^^ (z >>> 31)

/-- The 24 random bits of the draw at a counter. -/
def drawAt (seed : Word) (lcore : Half) (ctr : Word) : Nat :=
  bits (splitmix64 (seed ^^^ ((lcore.zeroExtend 64) <<< 32) ^^^ ctr)).toNat 40 24

/-- Minimum or maximum with -0 below +0 (08 R221, 09 R246): the code of one operand, or of NaN, and the flags. -/
def Fmt.minMax (f : Fmt) (max : Bool) (a b : Nat) : Nat × Flags :=
  let va := f.decode a
  let vb := f.decode b
  let fl := sigFlag [va, vb]
  if va.isNan && vb.isNan then (f.nanCode, fl)
  else if va.isNan then (b, fl)
  else if vb.isNan then (a, fl)
  else
    let c := va.cmp vb
    let less := decide (c < 0) || (c == 0 && va.sign && !vb.sign)
    (if less != max then a else b, fl)

end Sys2Proof.Machine
end

