-- ==== Sys2Proof/Machine/Tiles.lean ====
section
/-! DEFINITION. Operand formats (06 R143 to R145), tiles of tensors (04 R104 to R109), and the pieces, each one sector
or what posts together, in which an entry of a copy or gather queue is performed (11). -/

namespace Sys2Proof.Machine

/-! ## Operand-format codes (06 R143) -/

inductive Elem where
  | fp (f : Fmt)
  | int (n : Nat)
  deriving DecidableEq, Repr, Inhabited

def Elem.width : Elem → Nat
  | .fp f => f.width
  | .int n => n

def elemOf (code : Nat) : Elem :=
  match code with
  | 0 => .fp fp32 | 1 | 31 => .fp bf16 | 2 => .fp fp16
  | 3 | 10 | 19 | 24 => .fp e4m3 | 4 | 11 | 22 | 25 => .fp e5m2
  | 5 | 12 | 17 | 27 => .fp e3m2 | 6 | 13 | 18 | 28 => .fp e2m3
  | 7 | 14 | 16 | 23 | 26 => .fp e2m1
  | 8 | 15 | 21 | 29 => .int 8
  | _ => .int 4

/-- Bits an element takes in memory. -/
def widthOf (code : Nat) : Nat := (elemOf code).width
/-- Elements that share a scale; 0 where there is none. -/
def blockOf (code : Nat) : Nat := if code < 10 then 0 else if code < 16 then 32 else if code < 24 then 16 else 128
/-- Bytes of a scale, and of the header before the scales (06 R144). -/
def scaleBytes (code : Nat) : Nat := if code < 24 then 1 else 4
def headerBytes (code : Nat) : Nat := if code = 23 then 32 else 0
/-- The encoding of 1.0 of a format's scales (04 R106). -/
def scaleOne (code : Nat) : Nat := if code < 16 then 0x7F else if code < 24 then 0x38 else 0x3F800000

def ceilDiv (a b : Nat) : Nat := (a + b - 1) / b
def round32Up (n : Nat) : Nat := ceilDiv n 32 * 32

/-! ## Elements of a tensor (04 R105, 06 R144) -/

def Tensor.extent (t : Tensor) (k : Nat) : Nat := if k < t.rank then t.extents.getD k 1 else 1
def Tensor.stride (t : Tensor) (k : Nat) : Nat := if k < t.rank then t.strides.getD k 0 else 0
def Tensor.inDim (t : Tensor) (k : Nat) (i : Int) : Bool := 0 ≤ i && i < t.extent k
/-- Indices of dimensions 1 to 4 are in bounds. -/
def Tensor.lineIn (t : Tensor) (is : List Int) : Bool := (List.range 4).all fun k => t.inDim (k + 1) (is.getD k 0)
/-- The bit address of element 0 of a line given by its indices in dimensions 1 to 4. -/
def Tensor.lineBit (t : Tensor) (is : List Int) : Nat :=
  8 * t.base + 256 * ((List.range 4).foldl (fun s k => s + (is.getD k 0).toNat * t.stride (k + 1)) 0)
/-- The byte address of the scale of block `b` of a line. -/
def Tensor.scaleAt (t : Tensor) (is : List Int) (b : Nat) : Nat :=
  let z := scaleBytes t.format
  let row := 32 * ceilDiv (z * ceilDiv (t.extent 0) (blockOf t.format)) 32
  let n := (is.getD 0 0).toNat + t.extent 1 * ((is.getD 1 0).toNat + t.extent 2 * ((is.getD 2 0).toNat + t.extent 3 * (is.getD 3 0).toNat))
  t.scale + headerBytes t.format + z * b + row * n
/-- The descriptor's footprint (04 R105): its first byte and its length, 0 when an extent is 0. -/
def Tensor.footprint (t : Tensor) : Nat × Nat :=
  if (List.range t.rank).any fun k => t.extent k == 0 then (t.base, 0)
  else
    let last := t.lineBit ((List.range 4).map fun k => (t.extent (k + 1) : Int) - 1) + t.extent 0 * widthOf t.format
    (t.base, ceilDiv last 8 - t.base)

/-! ## Tiles -/

/-- A tile as an entry moves it: origin and shape of five dimensions. -/
structure Tile5 where
  origin : List Int
  shape : List Nat
  deriving DecidableEq, Repr, Inhabited

def Tile5.t (v : Tile5) (k : Nat) : Nat := v.shape.getD k 1
def Tile5.o (v : Tile5) (k : Nat) : Int := v.origin.getD k 0
def Tile5.lines (v : Tile5) : Nat := v.t 1 * v.t 2 * v.t 3 * v.t 4
def Tile5.count (v : Tile5) : Nat := v.t 0 * v.lines
/-- The tensor indices in dimensions 1 to 4 of a line of the tile, dimension 1 fastest. -/
def Tile5.line (v : Tile5) (l : Nat) : List Int :=
  [v.o 1 + (l % v.t 1 : Nat), v.o 2 + (l / v.t 1 % v.t 2 : Nat), v.o 3 + (l / (v.t 1 * v.t 2) % v.t 3 : Nat),
   v.o 4 + (l / (v.t 1 * v.t 2 * v.t 3) : Nat)]

/-- The dimension-0 indices of the tensor that a run of `n` from `o` has in bounds: first, and one past the last. -/
def Tensor.run0 (t : Tensor) (o : Int) (n : Nat) : Nat × Nat :=
  let lo := max o 0
  let hi := min (o + n) (t.extent 0)
  if lo < hi then (lo.toNat, hi.toNat) else (0, 0)

/-- Whether a tile has an element in bounds (04 R108). -/
def Tensor.touches (t : Tensor) (v : Tile5) : Bool :=
  (let r := t.run0 (v.o 0) (v.t 0); r.1 < r.2) &&
  (List.range 4).all fun k =>
    let r0 := max (v.o (k + 1)) 0
    let r1 := min (v.o (k + 1) + v.t (k + 1)) (t.extent (k + 1))
    decide (r0 < r1)

/-- Bounds of the bytes of a tile's elements in bounds, as first byte and length (05 R127). -/
def Tensor.tileRange (t : Tensor) (v : Tile5) : Nat × Nat :=
  if !t.touches v then (t.base, 0)
  else
    let w := widthOf t.format
    let r := t.run0 (v.o 0) (v.t 0)
    let lo := (List.range 4).map fun k => max (v.o (k + 1)) 0
    let hi := (List.range 4).map fun k => min (v.o (k + 1) + v.t (k + 1)) (t.extent (k + 1)) - 1
    let first := (t.lineBit lo + r.1 * w) / 8
    (first, ceilDiv (t.lineBit hi + r.2 * w) 8 - first)

/-- Bytes of a tile's elements, with no scales. -/
def tileBytes (code : Nat) (v : Tile5) : Nat := v.count * widthOf code / 8
/-- Bytes of a tile in scratchpad, its scale area with it (11 R293, R294). -/
def tileSize (code : Nat) (v : Tile5) : Nat :=
  if code < 10 then tileBytes code v else round32Up (tileBytes code v) + headerBytes code + 32 * v.lines

/-! ## Pieces -/

/-- What one ENGINE_SECTOR_COMPLETE performs of an entry. -/
inductive Piece where
  /-- a destination sector of a load or gather, by its place in the destination -/
  | land (k : Nat)
  /-- a destination sector (address / 32) of a line of a store, or of a row of a scatter -/
  | row (line sector : Nat)
  /-- the scales of a line -/
  | scales (line : Nat)
  /-- the tensor scale -/
  | header
  /-- bytes of elements out of bounds, which post and move nothing (04 R109) -/
  | rest (bytes : Nat)
  /-- a group of source sectors of a push -/
  | group (k : Nat)
  deriving DecidableEq, Repr, Inhabited

/-- The destination sectors that elements `[lo, hi)` of a line touch. -/
def lineSectors (bit w lo hi : Nat) : List Nat :=
  if lo < hi then spanNats ((bit + lo * w) / 256) ((bit + hi * w - 1) / 256 - (bit + lo * w) / 256 + 1) else []

/-- Bits of the elements `[lo, hi)` of a line that lie in a sector. -/
def lineBitsIn (bit w lo hi sector : Nat) : Nat :=
  min (bit + hi * w) (sector * 256 + 256) - max (bit + lo * w) (sector * 256)

/-- A push's shape: source sectors and delivered sectors of a group (11 R296, R298). -/
def pushGroup (conv : Option (Nat × Nat × Nat)) : Nat × Nat :=
  match conv with
  | none => (1, 1)
  | some (sfmt, dfmt, _) =>
    let d := Nat.gcd (widthOf sfmt) (widthOf dfmt)
    (widthOf sfmt / d, widthOf dfmt / d)
/-- Bytes a push delivers. -/
def delivered (conv : Option (Nat × Nat × Nat)) (len : Nat) : Nat :=
  let g := pushGroup conv
  len / g.1 * g.2

def storePieces (t : Tensor) (v : Tile5) : List Piece :=
  let w := widthOf t.format
  let r := t.run0 (v.o 0) (v.t 0)
  let touched := (List.range v.lines).filter fun l => t.lineIn (v.line l)
  let rows := touched.flatMap fun l => (lineSectors (t.lineBit (v.line l)) w r.1 r.2).map fun s => Piece.row l s
  let moved := touched.length * (r.2 - r.1) * w / 8
  let left := tileBytes t.format v - moved
  rows ++ (if left = 0 then [] else [.rest left])

def scalePieces (code lines : Nat) : List Piece :=
  if code < 10 then [] else (if code = 23 then [Piece.header] else []) ++ (List.range lines).map .scales

/-- A gather's or scatter's row in tensor indices: index 0 beyond dimension 1 (11 R300). -/
def rowLine (i : Int) : List Int := [i, 0, 0, 0]

/-- The pieces of an entry, in an order that only counts them: any order of performing them is allowed (04 R109). -/
def EOp.pieces (index : List Int) : EOp → List Piece
  | .tload t _ origin shape =>
    let v : Tile5 := { origin := origin, shape := shape }
    (List.range (ceilDiv (tileBytes t.format v) 32)).map .land ++ scalePieces t.format v.lines
  | .tstore t _ origin shape _ _ =>
    let v : Tile5 := { origin := origin, shape := shape }
    storePieces t v ++ scalePieces t.format v.lines
  | .push _ _ len _ _ conv _ | .pushr _ _ len conv _ => (List.range (len / 32 / (pushGroup conv).1)).map .group
  | .gather t _ _ n t0 _ => (List.range (n * (t0 * widthOf t.format / 8) / 32)).map .land
  | .scatter t _ _ n t0 org _ _ =>
    let w := widthOf t.format
    let r := t.run0 org t0
    let inb := (List.range n).filter fun j => t.lineIn (rowLine (index.getD j (-1)))
    let rows := inb.flatMap fun j => (lineSectors (t.lineBit (rowLine (index.getD j 0))) w r.1 r.2).map fun s => Piece.row j s
    let left := n * (t0 * w / 8) - inb.length * (r.2 - r.1) * w / 8
    rows ++ (if left = 0 then [] else [.rest left])
  | _ => []

/-- Bits of a store's row piece. -/
def EOp.rowBits (index : List Int) (op : EOp) (line sector : Nat) : Nat :=
  match op with
  | .tstore t _ origin shape _ _ =>
    let v : Tile5 := { origin := origin, shape := shape }
    let r := t.run0 (v.o 0) (v.t 0)
    lineBitsIn (t.lineBit (v.line line)) (widthOf t.format) r.1 r.2 sector
  | .scatter t _ _ _ t0 org _ _ =>
    let r := t.run0 org t0
    lineBitsIn (t.lineBit (rowLine (index.getD line 0))) (widthOf t.format) r.1 r.2 sector
  | _ => 0

/-- Bits that a piece counts towards the entry's postings. -/
def EOp.pieceBits (index : List Int) (op : EOp) : Piece → Nat
  | .land k =>
    match op with
    | .tload t _ origin shape => 8 * min 32 (tileBytes t.format { origin := origin, shape := shape } - 32 * k)
    | _ => 256
  | .row l s => op.rowBits index l s
  | .scales _ | .header => 256
  | .rest n => 8 * n
  | .group _ =>
    match op with
    | .push _ _ _ _ _ conv _ | .pushr _ _ _ conv _ => 256 * (pushGroup conv).1
    | _ => 0

/-- Bytes that a piece posts: the sum over all pieces is the entry's byte count (04 R109), and a byte that two pieces
share posts with the later of the two in the list. -/
def EOp.pieceBytes (index : List Int) (op : EOp) (k : Nat) : Nat :=
  let ps := op.pieces index
  let before := (ps.take k).foldl (fun n p => n + op.pieceBits index p) 0
  match ps[k]? with
  | some p => (before + op.pieceBits index p) / 8 - before / 8
  | none => 0

/-! ## Source sectors -/

/-- The 32-byte sectors that bits `[b, b + n)` touch. -/
def bitSectors (b n : Nat) : List Nat := if n = 0 then [] else spanNats (b / 256) ((b + n - 1) / 256 - b / 256 + 1)

/-- The elements, by place in the tile, whose delivered bits meet sector `k` of a load's destination. -/
def landElems (w total k : Nat) : List Nat :=
  let lo := 256 * k / w
  let hi := min total (ceilDiv (256 * k + 256) w)
  spanNats lo (hi - lo)

/-- Where an element of a load comes from: the bit address of an element in bounds. -/
def loadBit (t : Tensor) (v : Tile5) (e : Nat) : Option Nat :=
  let is := v.line (e / v.t 0)
  let i0 := v.o 0 + (e % v.t 0 : Nat)
  if t.lineIn is && t.inDim 0 i0 then some (t.lineBit is + i0.toNat * widthOf t.format) else none
def gatherBit (t : Tensor) (index : List Int) (t0 : Nat) (org : Int) (e : Nat) : Option Nat :=
  let is := rowLine (index.getD (e / t0) (-1))
  let i0 := org + (e % t0 : Nat)
  if t.lineIn is && t.inDim 0 i0 then some (t.lineBit is + i0.toNat * widthOf t.format) else none

/-- The elements of a store's row piece: index in dimension 0 of each. -/
def rowElems (bit w lo hi sector : Nat) : List Nat :=
  let first := max lo ((sector * 256 - bit) / w)
  let last := min hi (ceilDiv (sector * 256 + 256 - bit) w)
  spanNats first (last - first)

/-- Blocks of a line with an element in bounds: block within the tile, and block of the tensor (11 R294). -/
def liveBlocks (t : Tensor) (v : Tile5) (line : Nat) : List (Nat × Nat) :=
  let b := blockOf t.format
  if !t.lineIn (v.line line) then []
  else (List.range (ceilDiv (v.t 0) b)).filterMap fun k =>
    let lo := v.o 0 + (b * k : Nat)
    let hi := v.o 0 + (min (b * k + b) (v.t 0) : Nat)
    if max lo 0 < min hi (t.extent 0) then some (k, (lo / b).toNat) else none

/-- The scratchpad width of a converted entry's elements, or the tensor's. -/
def srcWidth (t : Tensor) (conv : Option (Nat × Nat)) : Nat :=
  match conv with
  | some (sfmt, _) => widthOf sfmt
  | none => widthOf t.format

/-- The source sectors (address / 32) that a piece reads. -/
def EOp.sources (index : List Int) (op : EOp) (p : Piece) : List Nat :=
  let l := match op, p with
    | .tload t _ origin shape, .land k =>
      let v : Tile5 := { origin := origin, shape := shape }
      (landElems (widthOf t.format) v.count k).flatMap fun e =>
        match loadBit t v e with
        | some b => bitSectors b (widthOf t.format)
        | none => []
    | .tload t _ origin shape, .scales line =>
      let v : Tile5 := { origin := origin, shape := shape }
      (liveBlocks t v line).flatMap fun (b : Nat × Nat) => bitSectors (8 * t.scaleAt (v.line line) b.2) (8 * scaleBytes t.format)
    | .tload t _ origin shape, .header => if t.touches { origin := origin, shape := shape } then [t.scale / 32] else []
    | .tstore t pad origin shape conv _, .row line s =>
      let v : Tile5 := { origin := origin, shape := shape }
      let r := t.run0 (v.o 0) (v.t 0)
      let w := srcWidth t conv
      (rowElems (t.lineBit (v.line line)) (widthOf t.format) r.1 r.2 s).flatMap fun (i : Nat) =>
        bitSectors (8 * pad + (line * v.t 0 + ((i : Int) - v.o 0).toNat) * w) w
    | .tstore t pad origin shape _ _, .scales line =>
      let v : Tile5 := { origin := origin, shape := shape }
      if (liveBlocks t v line).isEmpty then []
      else [(pad + round32Up (tileBytes t.format v) + headerBytes t.format) / 32 + line]
    | .tstore t pad origin shape _ _, .header =>
      let v : Tile5 := { origin := origin, shape := shape }
      if t.touches v then [(pad + round32Up (tileBytes t.format v)) / 32] else []
    | .push _ pad _ _ _ conv _, .group k | .pushr _ pad _ conv _, .group k =>
      let g := (pushGroup conv).1
      spanNats (pad / 32 + k * g) g
    | .gather t _ _ n t0 org, .land k =>
      (landElems (widthOf t.format) (n * t0) k).flatMap fun e =>
        match gatherBit t index t0 org e with
        | some b => bitSectors b (widthOf t.format)
        | none => []
    | .scatter t pad _ _ t0 org conv _, .row j s =>
      let r := t.run0 org t0
      let w := srcWidth t conv
      (rowElems (t.lineBit (rowLine (index.getD j 0))) (widthOf t.format) r.1 r.2 s).flatMap fun (i : Nat) =>
        bitSectors (8 * pad + (j * t0 + ((i : Int) - org).toNat) * w) w
    | _, _ => []
  l.eraseDups

/-- Sectors (address / 32) of its own scratchpad, or of a tensor, that a piece writes; a push's destinations lie on
other cores. -/
def EOp.targets (op : EOp) (p : Piece) : List Nat :=
  match op, p with
  | .tload _ pad _ _, .land k | .gather _ pad _ _ _ _, .land k => [pad / 32 + k]
  | .tload t pad origin shape, .scales line =>
    [(pad + round32Up (tileBytes t.format { origin := origin, shape := shape }) + headerBytes t.format) / 32 + line]
  | .tload t pad origin shape, .header => [(pad + round32Up (tileBytes t.format { origin := origin, shape := shape })) / 32]
  | .tstore _ _ _ _ _ _, .row _ s | .scatter _ _ _ _ _ _ _ _, .row _ s => [s]
  | .tstore t _ origin shape _ _, .scales line =>
    let v : Tile5 := { origin := origin, shape := shape }
    ((liveBlocks t v line).flatMap fun (b : Nat × Nat) =>
      bitSectors (8 * t.scaleAt (v.line line) b.2) (8 * scaleBytes t.format)).eraseDups
  | .tstore t _ origin shape _ _, .header => if t.touches { origin := origin, shape := shape } then [t.scale / 32] else []
  | .pushr va _ _ conv _, .group k =>
    let h := (pushGroup conv).2
    spanNats (va / 32 + k * h) h
  | _, _ => []

/-! ## Whole ranges (05 R127, 04 R95) -/

/-- The byte ranges of a matrix operand of `rows` lines of `k` elements: lines, then scales (10 R267). -/
def operandRanges (code k rows base pitch spitch : Nat) (weights : Bool) : List (Nat × Nat) :=
  if rows = 0 then []
  else
    (base, (rows - 1) * pitch + k * widthOf code / 8) ::
    (if code < 10 then []
     else if 24 ≤ code ∧ weights then [(base + 32 * spitch, 4)]
     else [(base + 32 * spitch, headerBytes code + 32 * (rows - 1) + scaleBytes code * ceilDiv k (blockOf code))])

def rangesOf (write : Bool) (l : List (Nat × Nat)) : List (Bool × Nat × Nat) := l.map fun r => (write, r)

/-- Bounds of the bytes that a tile moves of its tensor's scale array, as first byte and length (04 R105, R106). -/
def Tensor.scaleRange (t : Tensor) (v : Tile5) : Nat × Nat :=
  if t.format < 10 || !t.touches v then (t.scale, 0)
  else
    let b := blockOf t.format
    let r := t.run0 (v.o 0) (v.t 0)
    let lo := (List.range 4).map fun k => max (v.o (k + 1)) 0
    let hi := (List.range 4).map fun k => min (v.o (k + 1) + v.t (k + 1)) (t.extent (k + 1)) - 1
    let first := if headerBytes t.format = 0 then t.scaleAt lo (r.1 / b) else t.scale
    (first, t.scaleAt hi ((r.2 - 1) / b) + scaleBytes t.format - first)

/-- The sectors that a piece of a store writes in a tensor, and whether the entry writes each whole there (19 R428). -/
def EOp.parts (index : List Int) (op : EOp) (p : Piece) : List (Nat × Bool) :=
  match op, p with
  | .tstore _ _ _ _ _ _, .row line sector | .scatter _ _ _ _ _ _ _ _, .row line sector =>
    [(sector, op.rowBits index line sector == 256)]
  | .tstore t _ origin shape _ _, .scales line =>
    let v : Tile5 := { origin := origin, shape := shape }
    let z := scaleBytes t.format
    let live := liveBlocks t v line
    let at_ (b : Nat × Nat) : Nat := t.scaleAt (v.line line) b.2
    let full (sector : Nat) : Bool := (live.filter fun b => at_ b / 32 == sector).length * z == 32
    ((live.map fun b => at_ b / 32).eraseDups).map fun k => (k, full k)
  | .tstore t _ origin shape _ _, .header => if t.touches { origin := origin, shape := shape } then [(t.scale / 32, false)] else []
  | _, _ => []

/-- Where a push's destination counts (05 R127): its instruction names no address there, so it shares no sector with a
guard slot and counts in rest (assumption 91). -/
def unnamed : Nat := 2 ^ 60

/-- The ranges an entry reads and writes, by the addresses its instruction named: whether it writes, first byte and length; a
tensor's scale array among them. -/
def EOp.ranges (op : EOp) : List (Bool × Nat × Nat) :=
  match op with
  | .tload t pad origin shape =>
    let v : Tile5 := { origin := origin, shape := shape }
    [(false, t.tileRange v), (false, t.scaleRange v), (true, pad, tileSize t.format v)]
  | .tstore t pad origin shape conv _ =>
    let v : Tile5 := { origin := origin, shape := shape }
    let size := match conv with
      | some (sfmt, _) => v.count * widthOf sfmt / 8
      | none => tileSize t.format v
    [(false, pad, size), (true, t.tileRange v), (true, t.scaleRange v)]
  | .push _ pad len _ _ conv _ => [(false, pad, len), (true, unnamed, delivered conv len)]
  | .pushr va pad len conv _ => [(false, pad, len), (true, va, delivered conv len)]
  | .gather t pad list n t0 _ =>
    [(false, t.footprint), (false, list, 4 * n), (true, pad, n * (t0 * widthOf t.format / 8))]
  | .scatter t pad list n t0 _ conv _ =>
    [(false, pad, n * (t0 * srcWidth t conv / 8)), (false, list, 4 * n), (true, t.footprint)]
  | .mldw _ fmt k n base pitch spitch => rangesOf false (operandRanges fmt k n base pitch spitch true)
  | .mma _ _ fmt k m base pitch spitch _ => rangesOf false (operandRanges fmt k m base pitch spitch false)
  | .mstore _ fmt m n base pitch bias _ _ _ _ _ =>
    rangesOf true (operandRanges fmt n m base pitch 0 false) ++
      (match bias with
       | some b => [(false, b, 4 * n)]
       | none => [])
  | .mmas _ fmt wfmt _ ks rows cols aBase aPitch aSpitch bBase bPitch bSpitch =>
    rangesOf false (operandRanges fmt ks rows aBase aPitch aSpitch false) ++
    rangesOf false (operandRanges wfmt ks cols bBase bPitch bSpitch true ++
      (if 24 ≤ wfmt ∧ 128 < cols then [(bBase + 32 * bSpitch + 32 * 128, 4)] else []))
  | .mtkr _ m k base pitch => [(true, base, (m - 1) * pitch + 8 * k)]
  | .mscl _ (.inr a) => [(false, a, 512)]
  | .mlda _ fmt m n base pitch => rangesOf false (operandRanges fmt n m base pitch 0 false)
  | _ => []

/-- The ranges that an entry counts (05 R127): a scale array counts with its tile, under the tile's slots (06 R144). -/
def EOp.counted (op : EOp) : List (Bool × Nat × Nat) :=
  match op with
  | .tload t pad origin shape =>
    let v : Tile5 := { origin := origin, shape := shape }
    [(false, t.tileRange v), (true, pad, tileSize t.format v)]
  | .tstore t pad origin shape conv _ =>
    let v : Tile5 := { origin := origin, shape := shape }
    let size := match conv with
      | some (sfmt, _) => v.count * widthOf sfmt / 8
      | none => tileSize t.format v
    [(false, pad, size), (true, t.tileRange v)]
  | _ => op.ranges

/-- Whether two byte ranges share a 32-byte sector (05 R126). -/
def sharesSector (a n b m : Nat) : Bool := n != 0 && m != 0 && a / 32 ≤ (b + m - 1) / 32 && b / 32 ≤ (a + n - 1) / 32

end Sys2Proof.Machine
end

