-- ==== Sys2Proof/Machine/Operands.lean ====
section
/-! DEFINITION. Operand forms: guard masks and the operations they cover (05), address checks and region rights (04),
and loads, stores and atomics at an address (08 R198 to R205). -/

namespace Sys2Proof.Machine

def State.whoOf (s : State) (a : Act) : Who :=
  { aid := a.aid, core := a.core, run := a.run, name := a.name, asid := s.asidOf a.job a.core, part := s.partOf a.job a.core }
def State.me (s : State) : Who := s.whoOf s.act
def Who.service (w : Who) : Bool := nameJob w.name == 0
def Who.die (w : Who) : Nat := dieOf w.core

/-! ## Guard masks and tags (05 R126 to R128) -/

/-- A guard mask from a register (07 R163). -/
def maskOf (w : Word) : Chk (BitVec 17) := if w.toNat < 2 ^ 17 then .ok (w.setWidth 17) else kill 3

/-- A slot's range: first byte and length. -/
def Guard.span : Guard → Nat × Nat
  | .empty => (0, 0)
  | .range b n => (b, n)
  | .handle t => t.footprint

/-- The slots, or rest (bit 16), that a range counts in. -/
def Act.slotsFor (a : Act) (base n : Nat) : BitVec 17 :=
  let hit := (List.range 16).foldl (fun (m : BitVec 17) i =>
    let g := (vget a.guards i |>.span)
    if sharesSector base n g.1 g.2 then m ||| (1#17 <<< i) else m) 0
  if hit = 0 then 1#17 <<< 16 else hit

/-- The tags of an operation with these ranges; an empty range counts nowhere. One issued unstaged before COMMIT comes after
the effects staged by then. -/
def Act.tagsFor (a : Act) (ranges : List (Bool × Nat × Nat)) : Tags :=
  { aid := a.aid, ranges := (ranges.filter fun r => r.2.2 != 0).map fun r => (r.1, a.slotsFor r.2.1 r.2.2)
    pos := if a.committed then 0 else a.staged.length }
/-- The number by which an operation is waited for: that of the release or atomic it performs, if it performs one. -/
def Tags.opOf (t : Tags) (id : Nat) : Nat := if t.op = 0 then id else t.op

/-- The undone pieces of an entry. -/
def Entry.left (e : Entry) : List Piece :=
  ((e.op.pieces e.index).zipIdx.filter fun p => !e.done.contains p.2).map (·.1)
/-- Whether an entry of a copy or gather queue moves sector by sector and has its list. -/
def Entry.sectored (e : Entry) : Bool :=
  match e.op with
  | .tload _ _ _ _ | .tstore _ _ _ _ _ _ | .push _ _ _ _ _ _ _ | .pushr _ _ _ _ _ => true
  | .gather _ _ _ _ _ _ | .scatter _ _ _ _ _ _ _ _ => e.started
  | _ => false

def State.entries (s : State) : List Entry := s.cores.flatMap fun c => c.2.queues.toList.flatten

/-- The outstanding counted operations: id and tags. -/
def State.counted (s : State) : List (Nat × Tags) :=
  (s.mem.pending.map fun w => (w.id, w.tags)) ++
  (s.entries.map fun e => (e.id, if e.sectored && e.left.isEmpty then { e.tags with ranges := e.tags.ranges.filter (·.1) } else e.tags)) ++
  (s.wire.deferred.map fun d => (d.id, d.tags)) ++
  (s.links.remote.map fun r => (r.id, r.tags))

/-- How many ranges of an activation's operations count in a slot, as writes or as reads. -/
def State.outstanding (s : State) (aid slot : Nat) (write : Bool) : Nat :=
  s.counted.foldl (fun n t =>
    if t.2.aid = aid then n + (t.2.ranges.filter fun r => r.1 == write && r.2.getLsbD slot).length else n) 0

/-- An operation that would take a counter past 65,535 stalls at entry (05 R128). -/
def State.awaitCounts (s : State) (t : Tags) : Chk Unit :=
  await ((List.range 17).all fun i => [true, false].all fun w =>
    s.outstanding t.aid i w + (t.ranges.filter fun r => r.1 == w && r.2.getLsbD i).length ≤ 65535)

/-- Whether an operation issued unstaged comes before the effect that an activation has come to: while effects staged before
COMMIT are released, the operations issued unstaged after one are none of its own (05 R132, R135). -/
def Act.came (a : Act) (pos : Nat) : Bool := !a.committed || decide (pos ≤ a.outs)

/-- The operations of an activation that a mask covers, issued before the effect it has come to. -/
def State.covered (s : State) (a : Act) (mask : BitVec 17) : List Nat :=
  (s.counted.filter fun t => t.2.aid == a.aid && a.came t.2.pos &&
    t.2.ranges.any fun r => r.2 &&& mask != 0).map fun t => 2 * t.2.opOf t.1

/-- A write that causally precedes what a die does now, as far as its clock tells: it has applied the write, or a later
one of the writing die (05 R116, R120). -/
def State.precedesDie (s : State) (die src : Nat) (count : Word32) : Bool :=
  src == die || !clockGe count ((s.mem.clock die).getD src 0)

/-- An actor's deferred or trailing effect precedes the accesses of its next activation (05 R114). -/
def sameActor (w : Who) (aid : Nat) (name : Word) : Bool := aid == w.aid || (name == w.name && nameKind name != 1)

/-- Where a write effect writes as issued: first address and length. -/
def Eff.span : Eff → Nat × Nat
  | .store va n _ _ | .strl va n _ _ _ _ => (va, n)
  | .amo va _ narrow _ _ _ _ _ _ => (va, if narrow then 4 else 8)
  | .routeSend va bs _ _ _ => (va, bs.length)
  | _ => (0, 0)
/-- An effect that writes memory. -/
def Eff.writes : Eff → Bool
  | .store _ _ _ _ | .strl _ _ _ _ _ _ | .amo _ _ _ _ _ _ _ _ _ | .routeSend _ _ _ _ _ => true
  | _ => false

/-- Writes that a cumulative release also waits for, in a covered range: those of the package already seen by the issuing die,
those to other packages that precede what it has seen, and what the actor's earlier activations have still to write (05 R114,
R120). -/
def State.coveredBefore (s : State) (a : Act) (mask : BitVec 17) : List Nat :=
  let asid := s.asidOf a.job a.core
  let die := dieOf a.core
  let hit (va n : Nat) : Bool := a.slotsFor va n &&& mask != 0
  ((s.mem.pending.filter fun w => w.asid == asid && w.applied.contains die && hit w.va w.bytes.length).map fun w => 2 * w.tags.opOf w.id + 1) ++
  ((s.links.remote.filter fun r => r.store && r.entry.isNone && s.asidOf (nameJob r.actor) r.core == asid &&
    s.precedesDie die (dieOf r.core) r.count && hit r.va r.len).map fun r => 2 * r.tags.opOf r.id) ++
  ((s.wire.deferred.filter fun d => d.who.aid != a.aid && sameActor (s.whoOf a) d.who.aid d.who.name && d.eff.writes &&
    hit d.eff.span.1 d.eff.span.2).map fun d => 2 * d.tags.opOf d.id + 1)
/-- Writes in a covered range that an activation may have read: they precede its message, which brings them to its receiver in
the package (05 R116, R117). -/
def State.seenBefore (s : State) (a : Act) (mask : BitVec 17) : List Nat :=
  let asid := s.asidOf a.job a.core
  (s.mem.pending.filter fun w => w.asid == asid && w.applied.contains (dieOf a.core) &&
    a.slotsFor w.va w.bytes.length &&& mask != 0).map fun w => 2 * w.tags.opOf w.id

/-- What a release with a mask and a scope waits for. -/
def State.waitsFor (s : State) (a : Act) (mask : BitVec 17) (scope : Nat) : List Nat :=
  if mask = 0 then [] else s.covered a mask ++ (if 7 ≤ scope then s.coveredBefore a mask else [])

/-- A pending write is performed at a scope: applied at the issuer's die, or for a replicated page at the replica it
reads; or everywhere (05 R112). -/
def PendWrite.performedAt (w : PendWrite) (scope : Nat) : Bool :=
  decide (scope ≤ 4) &&
  (match w.replicas with
   | none => w.applied.contains w.die
   | some m => w.applied.contains (nearest w.die w.home m))

/-- An acquire event that an operation brings about has happened: the atomic is performed, or the MMAC's gate met. -/
def State.happened (s : State) (q : Acquire) : Bool :=
  if q.atomic then !(s.wire.deferred.any fun d => d.id == q.op) && !(s.links.remote.any fun r => r.tags.opOf r.id == q.op)
  else s.entries.all fun e => e.id != q.op || e.started

/-- What stands for an MMAC's gate among the operations that are waited for: its entry's number above this. -/
def gateMark : Nat := 2 ^ 128
/-- The gates of MMACs before the effect that an activation has come to, which have not been met: stores, atomics, releases and
messages follow them (05 R130), while the A-stream goes on (10 R272). -/
def State.gates (s : State) (a : Act) : List Nat :=
  (a.acquires.filter fun q => !q.atomic && a.came q.pos && !s.happened q).map fun q => gateMark + q.op
/-- What a message or an increment with a mask and a scope waits for. -/
def State.carries (s : State) (a : Act) (mask : BitVec 17) (scope : Nat) : List Nat :=
  s.gates a ++ s.waitsFor a mask scope ++ (if mask = 0 ∨ 7 ≤ scope then [] else s.seenBefore a mask)

/-- Every operation of a list is performed: no longer outstanding, or performed at the scope or at its home; and every gate
met. -/
def State.performed (s : State) (ids : List Nat) (scope : Nat) : Bool :=
  ids.all fun n =>
    if gateMark ≤ n then s.entries.all fun e => e.id != n - gateMark || e.started else
    (s.mem.pending.all fun w => w.tags.opOf w.id != n / 2 || (if n % 2 = 1 then w.applied.contains w.home else w.performedAt scope)) &&
    !(s.counted.any fun t => t.2.opOf t.1 == n / 2 && !s.mem.pending.any fun w => w.id == t.1)

/-- A store, atomic, release or message waits for the release fences before it (05 R129), and for atomics before it that
acquire (05 R130). What waits for an MMAC's gate does so in its effect (`gates`). -/
def State.fencesMet (s : State) (a : Act) : Bool :=
  (a.fences.all fun f => s.performed f.1 f.2) && a.acquires.all fun q => !q.atomic || s.happened q
def State.awaitFences (s : State) : Chk Unit := await (s.fencesMet s.act)

/-- An acquire event with a mask has happened: reads that it covers and that were performed ahead are performed again (05
R130). -/
def Act.acquired (a : Act) (mask : BitVec 17) : Act :=
  if a.early.isEmpty then a
  else { a with early := (a.early.filter fun e => a.slotsFor e.va e.len &&& mask == 0).map fun e => { e with passed := true } }

/-- Acquire events that have happened are done with. -/
def State.settleAcquires (s : State) : State :=
  if s.act.acquires.isEmpty then s
  else
    let done := s.act.acquires.filter s.happened
    let left := s.act.acquires.filter fun q => !s.happened q
    s.modAct fun a => { done.foldl (fun a q => a.acquired q.mask) a with acquires := left }

/-- No acquire event still to come covers a read (05 R130). -/
def Act.mayRead (a : Act) (va n : Nat) : Bool := a.acquires.all fun q => a.slotsFor va n &&& q.mask == 0
/-- A read waits for the acquire events before it that cover it (05 R130). -/
def State.awaitAcquires (s : State) (va n : Nat) : Chk Unit := await (s.act.mayRead va n)

/-! ## Address checks (04 R103) -/

/-- What window an address lies in (04 R97, step 3 of R103). -/
inductive Spot where
  | pool (core off : Nat) (localWindow own : Bool)
  | far
  deriving DecidableEq, Repr

def localVa (off : Nat) : Nat := 0x70 * 2 ^ 48 + off
def clusterVa (k off : Nat) : Nat := 0x71 * 2 ^ 48 + k * 2 ^ 24 + off

/-- Step 1 of R103. -/
def canonical (va : Word) : Chk Nat := if va.toNat < 2 ^ 55 then .ok va.toNat else kill 20
/-- Step 2. -/
def aligned (va n : Nat) : Chk Unit := need (va % n == 0) 5
/-- Step 3: window decoding, for an access of `n` bytes. -/
def State.spot (s : State) (core va n : Nat) : Chk Spot :=
  if va / 2 ^ 48 = 0x70 then
    let off := va % 2 ^ 48
    if off + n ≤ s.scratchBytes core then .ok (.pool core off true true) else kill 20
  else if va / 2 ^ 48 = 0x71 then
    let k := va % 2 ^ 48 / 2 ^ 24
    let t := core / 8 * 8 + k
    if k ≤ 4 ∧ va % 2 ^ 24 + n ≤ s.scratchBytes t then .ok (.pool t (va % 2 ^ 24) false (t == core)) else kill 20
  else .ok .far

/-- The region table of whoever runs: an actor's, a mirrored run's, or a pool's on the core. -/
def State.regionsOf (s : State) (name : Word) (run core : Nat) : Vector Region 8 :=
  match s.poolOf name with
  | some p => ((p.members.find? fun m => m.core == core).map (·.regions)).getD default
  | none =>
    match s.dir.actors.find? fun a => a.name == name with
    | some a => if run = 0 then a.regions else ((a.mirror.find? fun m => m.run == run).map (·.regions)).getD default
    | none => default

/-- Every region of the job's actors that lies on a core, with its owner. -/
def State.regionsAt (s : State) (job : Half) (core : Nat) : List (Word × Region) :=
  let own (name : Word) (v : Vector Region 8) : List (Word × Region) := v.toList.map fun r => (name, r)
  (s.dir.actors.filter fun a => a.job == job).flatMap (fun a =>
    (if a.core == core then own a.name a.regions else []) ++
    (a.mirror.filter fun m => m.core == core).flatMap fun m => own a.name m.regions) ++
  (s.dir.pools.filter fun p => p.job == job).flatMap fun p =>
    (p.members.filter fun m => m.core == core).flatMap fun m => own p.name m.regions

/-- The right that R95 requires for an access. -/
def Region.allows (r : Region) (acc : Access) (off n : Nat) : Bool :=
  r.state == .owned && r.covers off n &&
  (match acc with
   | .load | .engineRead | .restartRead | .fetch => r.r
   | .store | .engineWrite => r.w
   | .atomic => r.r && r.w)

/-- Step 4 of R103: the bytes lie in one region with the right (04 R95, R98). -/
def State.regionCheck (s : State) (w : Who) (spot : Spot) (acc : Access) (n : Nat) : Chk Unit :=
  match spot with
  | .far => .ok ()
  | .pool core off _ own =>
    if own then need ((s.regionsOf w.name w.run core).toList.any fun r => r.allows acc off n) 2
    else need ((s.regionsAt (nameJob w.name) core).any fun r => r.2.allows acc off n) 2

/-- Steps 1 to 4 of R103 for an access of `n` bytes aligned to `al`. -/
def State.check (s : State) (w : Who) (va : Word) (n al : Nat) (acc : Access) : Chk (Nat × Spot) := do
  let a ← canonical va
  aligned a al
  let p ← s.spot w.core a n
  s.regionCheck w p acc n
  .ok (a, p)

/-- The same for a range that must lie in the local window (04 R452). -/
def State.checkLocal (s : State) (w : Who) (va : Word) (n al : Nat) (acc : Access) : Chk Nat := do
  let a ← canonical va
  aligned a al
  need (a / 2 ^ 48 == 0x70) 20
  let p ← s.spot w.core a n
  s.regionCheck w p acc n
  .ok a

/-! ## The range scoreboard and armed regions (05 R123, R136) -/

/-- Whether an entry has still to read or write bytes of a range, addresses as issued. -/
def Entry.uses (e : Entry) (va n : Nat) : Bool :=
  if e.sectored then e.left.any fun p => (e.op.sources e.index p ++ e.op.targets p).any fun k => overlaps (32 * k) 32 va n
  else e.op.ranges.any fun r => overlaps r.2.1 r.2.2 va n
/-- Whether it has still to write bytes of a range. -/
def Entry.writes (e : Entry) (va n : Nat) : Bool :=
  if e.sectored then e.left.any fun p => (e.op.targets p).any fun k => overlaps (32 * k) 32 va n
  else e.op.ranges.any fun r => r.1 && overlaps r.2.1 r.2.2 va n

def State.queued (s : State) (core : Nat) : List Entry := (s.core core).queues.toList.flatten

/-- A store waits for the core's earlier entries, those with lower numbers than `before`, that use its bytes (05 R123). -/
def State.awaitBoard (s : State) (core va n before : Nat) : Chk Unit :=
  await !((s.queued core).any fun e => decide (e.id < before) && e.uses va n)

/-- The bytes that an armed port which is not reached covers. -/
def State.portRegion (s : State) (core : Nat) (p : Port) : Region :=
  vget (s.regionsOf p.actor p.run core) p.region

/-- A load of an armed region stalls while the port is not reached (05 R136, 11 R297). -/
def State.awaitPorts (s : State) (core off n : Nat) : Chk Unit :=
  let armed := (s.core core).ports.any fun p =>
    let r := s.portRegion core p
    !reached ((s.core core).counter p.counter) p.expected && overlaps r.offset r.size off n
  await !armed

/-! ## Requests to other packages (19 R425, R427, R437) -/

def place1 (p : Phys) : Nat := p.page / 2 ^ 28

/-- Where transactions come from that arrive in order (02 R39, 05 R119): a core's requests, or an actor's messages. -/
def txSource : Transaction → Option (Bool × Nat)
  | .write _ _ _ src _ | .readRequest _ _ _ src _ | .atomic _ _ _ _ _ _ _ _ src _ => some (false, src)
  | .messages (m :: _) => some (true, m.w1.toNat)
  | _ => none

/-- A link still carries transactions of a source to a package: they wait to leave, or are not acknowledged. -/
def Link.carries (l : Link) (pkg : Nat) (src : Option (Bool × Nat)) : Bool :=
  src.isSome && (l.out.any (fun t => t.1 == pkg && txSource t.2 == src) ||
  l.replay.any fun f => match f.plain with
    | .data _ dst t => dst == pkg && txSource t == src
    | _ => false)

/-- A link that is up and reaches a package (19 R433): the one that still carries what the source sent there before, or
else the first. -/
def State.linkTo (s : State) (pkg : Nat) (src : Option (Bool × Nat)) : Option Nat :=
  let up := (List.range 20).filter fun n => (s.link n).state == 2 && ((s.link n).peer == some pkg || Config.reaches n pkg)
  match up.find? fun n => (s.link n).carries pkg src with
  | some n => some n
  | none => up.head?
/-- The number of the request that a transaction makes. -/
def txNumber : Transaction → Option Nat
  | .write _ _ _ _ seq | .readRequest _ _ _ _ seq | .atomic _ _ _ _ _ _ _ _ _ seq => some seq
  | _ => none
/-- A request that waits for its link and has never been sent: its time has not begun (19 R425). -/
def State.unsent (s : State) (r : RemoteReq) : Bool :=
  !r.sent && (List.range 20).any fun n => (s.link n).out.any fun t => txNumber t.2 == some r.id
/-- A transaction leaves: if it is a request's first, the request's time begins (19 R425). -/
def State.firstSent (s : State) (t : Transaction) : State :=
  let set (r : RemoteReq) : RemoteReq := if txNumber t = some r.id ∧ r.sent = false then { r with sentAt := s.env.time, sent := true } else r
  { s with links := { s.links with remote := s.links.remote.map set } }

def isHeartbeat : Transaction → Bool
  | .heartbeat _ _ => true
  | _ => false
/-- A transaction queued for a package. With no route it waits for one, and R425 bounds the time of a request; a heartbeat is
not sent late. -/
def State.transmit (s : State) (pkg : Nat) (t : Transaction) : State :=
  match s.linkTo pkg (txSource t) with
  | some n => s.modLink n fun l => { l with out := l.out ++ [(pkg, t)] }
  | none => if isHeartbeat t then s else { s with links := { s.links with waiting := s.links.waiting ++ [(pkg, t)] } }
/-- The package at a place of the domain (19 R437). -/
def packageAt (place : Nat) : Chk Nat :=
  match Config.domain place with
  | some p => .ok p
  | none => kill 20

/-- Issues a request and says what its transaction is. -/
def State.ask (s : State) (w : Who) (p : Phys) (n : Nat) (store : Bool) (tags : Tags) (entry : Option (Nat × Nat))
    (tx : Nat → Transaction) : Chk (Nat × State) := do
  let pkg ← packageAt (place1 p)
  let (id, s) := s.fresh
  let r : RemoteReq := { id := id, aid := w.aid, core := w.core, actor := w.name, place := place1 p, sentAt := s.env.time
                         store := store, tags := tags, va := p.va, len := n, entry := entry
                         count := (s.mem.clock w.die).getD w.die 0 }
  .ok (id, { s with links := { s.links with remote := s.links.remote ++ [r] } }.transmit pkg (tx id))

def State.dropRemote (s : State) (id : Nat) : State :=
  { s with links := { s.links with remote := s.links.remote.filter fun r => r.id != id } }

/-- The request an activation waits for, if any. -/
def State.awaited (s : State) (w : Who) : Option RemoteReq :=
  s.links.remote.find? fun r => r.aid == w.aid && !r.store && r.entry.isNone

/-! ## Reading translated memory -/

/-- A key fault of an access says whose it was: its space, address and partition (18 R416). -/
def State.named {α : Type} (s : State) (p : Phys) : Chk α → Chk α
  | .error (.kill r (some n)) =>
    .error (.kill r (some (if n.cls = 8 then { n with asid := BitVec.ofNat 16 p.asid, address := BitVec.ofNat 48 p.va, part := s.partOfAsid p.asid } else n)))
  | c => c

/-- Bytes at a translated address as a die reads them; a poisoned leaf poisons what it reads (17 R385). Type 1 is read by
request, type 6 by `ioRead`. -/
def State.readPhys (s : State) (die : Nat) (p : Phys) (n : Nat) : Chk (List Byte × Bool × State) :=
  match p.type with
  | 5 => do
    let near := nearest die (p.addr / 2 ^ 38) (BitVec.ofNat 4 (bits p.page 24 4))
    let (bs, poison, s) ← s.named p (s.readHbm die (entryKey p.leaf) (near * 2 ^ 38 + p.addr % 2 ^ 38) n)
    .ok (bs, poison || entryPoison p.leaf, s)
  | 2 | 3 | 4 => let r := s.readPlain die p.addr n; .ok (r.1, r.2 || entryPoison p.leaf, s)
  | _ => do
    let (bs, poison, s) ← s.named p (s.readHbm die (entryKey p.leaf) p.addr n)
    .ok (bs, poison || entryPoison p.leaf, s)

/-- A core's own writes to a replicated page that its nearest replica has not applied hold its reads (05 R122). -/
def State.replicaBehind (s : State) (core : Nat) (p : Phys) : Bool :=
  let near := nearest (dieOf core) (p.addr / 2 ^ 38) (BitVec.ofNat 4 (bits p.page 24 4))
  p.type == 5 && s.mem.pending.any fun w =>
    w.replicas.isSome && w.core == core && w.addr / 65536 == p.addr / 65536 && !w.applied.contains near

/-- A core's later stores and atomics follow its writes to replicated pages, as its die reads them (05 R116). -/
def State.replicated (s : State) (core : Nat) : Bool := s.mem.pending.any fun w => match w.replicas with
  | some m => w.core == core && !w.applied.contains (nearest w.die w.home m)
  | none => false

/-! ## An actor's own effects not yet performed (02 R47; 05 R114, R115) -/

def Eff.isFence : Eff → Bool
  | .fence _ _ => true
  | _ => false
/-- Byte `i` of what an effect is to write, and its poison; none for an atomic. -/
def Eff.byte (i : Nat) : Eff → Option (Byte × Bool)
  | .store _ n v p | .strl _ n v p _ _ => if i < n then some ((leBytes n v.toNat).getD i 0, p) else none
  | .routeSend _ bs _ _ _ => (bs[i]?).map fun b => (b, false)
  | _ => none

/-- The place of a byte, whatever address names it: addresses of one place name one location (05 R114, R115; 17 R383). -/
def Phys.place (p : Phys) : Nat := match p.type with
  | 1 => 2 ^ 90 + p.page * 65536 + p.off
  | 6 => 2 ^ 130 + p.page * 65536 + p.off
  | _ => p.addr
/-- The place an address names now; none where nothing does. -/
def State.placeOf (s : State) (w : Who) (va n : Nat) : Option Nat :=
  match s.spot w.core va n with
  | .ok (.pool core off _ _) => some (poolKey core off)
  | .ok .far => (s.leafOf w.die w.asid va).map fun e => ({ leaf := e, asid := w.asid, va := va } : Phys).place
  | .error _ => none

/-- An actor's effects that have left its staging and are still to be performed, in program order, with the place each
writes. -/
def State.ownEffects (s : State) (w : Who) : List (Option Nat × Eff) :=
  let deferred := (s.wire.deferred.filter fun d => sameActor w d.who.aid d.who.name).map fun d => (d.who, d.eff)
  let tails := (s.wire.tails.filter fun t => sameActor w t.aid t.act.name).flatMap fun t => t.act.staged.map fun e => (s.whoOf t.act, e)
  ((deferred ++ tails).filter fun t => t.2.writes).map fun t => (s.placeOf t.1 t.2.span.1 t.2.span.2, t.2)

/-- A read of bytes at a place waits for the actor's own atomics on them still to be performed, and for effects whose place
no leaf gives yet. -/
def State.awaitOwn (s : State) (w : Who) (place n : Nat) : Chk Unit :=
  await ((s.ownEffects w).all fun t => match t.1, t.2 with
    | some q, .amo _ _ _ _ _ _ _ _ _ => !overlaps q t.2.span.2 place n
    | some _, _ => true
    | none, _ => isPool place)

/-- A byte that an own store not yet performed holds: a staged one by the address it was issued with, a released one by its
place (02 R47, 05 R114). -/
def State.ownByte (s : State) (w : Who) (own : List (Option Nat × Eff)) (va place : Nat) : Option (Byte × Bool) :=
  let staged := if s.act.aid = w.aid then s.act.staged else []
  let at_ (base k : Nat) (e : Eff) : Option (Byte × Bool) := if base ≤ k then e.byte (k - base) else none
  let seen (e : Eff) : Option (Byte × Bool) := match e with
    | .routeSend _ _ _ _ _ => none
    | _ => at_ e.span.1 va e
  match staged.reverse.findSome? seen with
  | some b => some b
  | none => own.reverse.findSome? fun t => t.1.bind fun q => at_ q place t.2

def State.overlayOwn (s : State) (w : Who) (va place : Nat) (bs : List Byte) (poison : Bool) : List Byte × Bool :=
  let effs := s.ownEffects w
  let own := (List.range bs.length).map fun i => s.ownByte w effs (va + i) (place + i)
  -- a ROUTE's list covers whole lines, and clears the poison of what it overwrites (18 R412)
  let wiped := effs.any fun t => match t.1, t.2 with
    | some q, .routeSend _ l _ _ _ => decide (q ≤ place) && decide (place + bs.length ≤ q + l.length)
    | _, _ => false
  ((own.zip bs).map (fun t => (t.1.map (·.1)).getD t.2), (poison && !wiped) || own.any fun o => (o.map (·.2)).getD false)

/-- A deferred store or atomic of the actor comes first: what follows it in program order is performed after it (05 R115,
R116, R119, R121). -/
def State.behind (s : State) (w : Who) : Bool :=
  s.wire.deferred.any fun d => sameActor w d.who.aid d.who.name && d.eff.writes
/-- What an earlier activation of the actor released, or wrote to a replicated page, comes first (02 R39, 05 R114, R116). -/
def State.awaitEarlier (s : State) (w : Who) : Chk Unit :=
  await (!((s.wire.tails.takeWhile fun t => t.aid != w.aid).any fun t => sameActor w t.aid t.act.name) && !s.replicated w.core &&
    !s.mem.pending.any fun p => p.stale w.aid w.name)

/-- A read waits for the pushes of the actor's earlier activations to those bytes (05 R114, 09 R233). -/
def State.awaitPushes (s : State) (w : Who) (place n : Nat) : Chk Unit :=
  await !(s.mem.pending.any fun p => p.stale w.aid w.name && overlaps p.addr p.bytes.length place n)

/-- A core's earlier stores to another package are not yet acknowledged, or are still to leave (05 R119). -/
def State.storesTo (s : State) (w : Who) (place : Nat) : Bool :=
  (s.links.remote.any fun r => r.store && r.core == w.core && r.place == place) ||
  (s.ownEffects w).any fun t => match t.1 with
    | some q => decide (2 ^ 90 ≤ q) && decide (q < 2 ^ 130) && (q - 2 ^ 90) / 65536 / 2 ^ 28 == place
    | none => true

/-! ## Loads performed ahead (01 R30) -/

/-- A write is seen before another by every observer: as their stamps tell, as writes of one core to scratchpad are (05 R115), or
in the one order of a replicated page (05 R117, R122). `a` was seen first where `first` says so. -/
def Seen.precedes (a b : Seen) (first : Bool) : Bool :=
  if isPool a.addr then first && a.core == b.core
  else clockGe (b.stamp.getD a.die 0) (a.stamp.getD a.die 0) ||
    (first && a.replicated && b.replicated && a.addr / 65536 == b.addr / 65536)
/-- A read of a place sees a write that follows one which a load performed ahead missed: that load is performed again. -/
def EarlyRead.outdated (e : EarlyRead) (place n : Nat) : Bool :=
  let l := e.since.zipIdx
  l.any fun b => overlaps b.1.addr b.1.len place n &&
    l.any fun a => overlaps a.1.addr a.1.len e.place e.len && a.1.precedes b.1 (decide (a.2 ≤ b.2))

/-- A load, or an own write, at a place: loads performed ahead that it would put out of order are performed again. -/
def State.passEarly (s : State) (aid place n : Nat) : State :=
  let pass (a : Act) : Act :=
    if a.early.isEmpty || a.aid != aid then a
    else { a with early := a.early.filter fun e => !(overlaps e.place e.len place n || e.outdated place n) }
  { s with act := pass s.act, acts := s.acts.map pass }

/-- A write of an activation's own to a replicated page: its loads of the page are performed after it (05 R122). -/
def State.passPage (s : State) (aid : Nat) (p : Phys) : State :=
  let pass (a : Act) : Act :=
    if a.early.isEmpty || a.aid != aid || p.type != 5 then a
    else { a with early := a.early.filter fun e => e.place / 65536 != p.place / 65536 }
  { s with act := pass s.act, acts := s.acts.map pass }

def State.early? (s : State) (w : Who) (va n place : Nat) : Option EarlyRead :=
  if s.act.aid = w.aid then s.act.early.find? fun e => e.va == va && e.len == n && e.place == place else none

/-- What marks the request of a load performed ahead. -/
def earlyEntry : Option (Nat × Nat) := some (0, 2)
/-- What an activation read ahead at another package, before a write of its own there, is read again. -/
def State.dropAhead (s : State) (w : Who) (place : Nat) : State :=
  let gone (e : EarlyRead) : Bool := e.req.any fun i => s.links.remote.any fun r => r.id == i && r.place == place
  if s.allActs.any fun a => a.aid == w.aid && a.early.any gone then
    let remote := s.links.remote.filter fun r => !(r.aid == w.aid && r.entry == earlyEntry && r.place == place)
    let drop (a : Act) : Act := if a.aid == w.aid then { a with early := a.early.filter fun e => !gone e } else a
    { s with links := { s.links with remote := remote }, act := drop s.act, acts := s.acts.map drop }
  else s

/-- What a load at a place of package memory returns: what it read ahead, or what is there. -/
def State.readFar (s : State) (w : Who) (p : Phys) (n : Nat) : Chk (List Byte × Bool × State) := do
  let (bs, poison, t) ← s.readPhys w.die p n
  match s.early? w p.va n p.place with
  | some e => .ok (e.bytes, e.poison, t.passEarly w.aid p.place n)
  | none => .ok (bs, poison, t.passEarly w.aid p.place n)

/-! ## Loads -/

/-- A load of `n` bytes aligned to `al`: the bytes, or none when a request to another package has been made and the
stream waits (08 R199). -/
def State.loadBytes (s : State) (w : Who) (va : Word) (n al : Nat) : Chk (Option (List Byte × Bool) × State) := do
  let (a, spot) ← s.check w va n al .load
  let s := s.settleAcquires
  s.awaitAcquires a n
  match spot with
  | .pool core off _ _ =>
    let place := poolKey core off
    s.awaitPorts core off n
    s.awaitPushes w place n
    s.awaitOwn w place n
    let r := match s.early? w a n place with
      | some e => (e.bytes, e.poison)
      | none => s.readPlain w.die place n
    .ok (some (s.overlayOwn w a place r.1 r.2), (s.passEarly w.aid place n).checkPool core)
  | .far =>
    let (p, s) ← s.translate w.die w.asid a .load w.service
    s.awaitOwn w p.place n
    match p.type with
    | 1 =>
      let ahead := (s.early? w a n p.place).bind fun e => e.req.bind fun i => s.links.remote.find? fun r => r.id == i
      match ahead.or (s.awaited w) with
      | some r =>
        match r.answer with
        | some (bs, poison) =>
          .ok (some (s.overlayOwn w a p.place bs (poison || entryPoison p.leaf)), (s.dropRemote r.id).passEarly w.aid p.place n)
        | none => .error (.stall (.remote r.id))
      | none =>
        await !(s.storesTo w (place1 p))
        let (id, s) ← s.ask w p n false {} none fun id => .readRequest p.addr (entryKey p.leaf) n w.core id
        .ok (none, s.modAct fun t => { t with wait := .remote id })
    | 6 =>
      let v ← s.ioRead p.page p.off n
      .ok (some (leBytes n v.toNat, entryPoison p.leaf), s)
    | _ =>
      await !(s.replicaBehind w.core p)
      await ((s.ownEffects w).all fun t => p.type != 5 || t.1.all fun q => q / 65536 != p.addr / 65536)
      let (bs, poison, s) ← s.readFar w p n
      .ok (some (s.overlayOwn w a p.place bs poison), s)

/-- A load of the running activation is performed ahead of those before it (01 R30); where a rule orders it behind what comes to
be read before it, it is performed again. A load that does not come to that address and size never uses it (assumption 74). -/
def State.readEarly (s : State) (va n : Nat) : State :=
  let w := s.me
  let keep (s : State) (e : EarlyRead) : State := s.modAct fun t => { t with early := t.early ++ [e] }
  let r : Chk State := do
    let (a, spot) ← s.check w (BitVec.ofNat 64 va) n n .load
    await (decide (n ∈ [1, 2, 4, 8]) && s.act.live && !s.act.early.any fun e => overlaps e.va e.len a n)
    s.awaitAcquires a n
    match spot with
    | .pool core off _ _ => do
      let place := poolKey core off
      s.awaitPorts core off n
      s.awaitPushes w place n
      s.awaitOwn w place n
      let r := s.readPlain w.die place n
      .ok (keep s { va := a, len := n, place := place, bytes := r.1, poison := r.2 })
    | .far => do
      let (p, _) ← s.translate w.die w.asid a .load w.service
      s.awaitOwn w p.place n
      match p.type with
      | 0 | 2 | 5 => do
        await !(s.replicaBehind w.core p)
        await ((s.ownEffects w).all fun t => p.type != 5 || t.1.all fun q => q / 65536 != p.addr / 65536)
        let (bs, poison, _) ← s.readPhys w.die p n
        .ok (keep s { va := a, len := n, place := p.place, bytes := bs, poison := poison })
      | 1 => do
        await !(s.storesTo w (place1 p))
        let (id, s) ← s.ask w p n false {} earlyEntry fun id => .readRequest p.addr (entryKey p.leaf) n w.core id
        .ok (keep s { va := a, len := n, place := p.place, req := some id })
      | _ => .ok s
  match r with
  | .ok t => t
  | .error (.line l) => s.settleLine l
  | .error _ => s

/-- Bytes of a record that an instruction reads: poison on them kills (18 R409). -/
def State.loadRecord (s : State) (w : Who) (va : Word) (n al : Nat) : Chk (Option (List Byte) × State) := do
  let (r, s) ← s.loadBytes w va n al
  match r with
  | none => .ok (none, s)
  | some (bs, poison) => do need (!poison) 10; .ok (some bs, s)

/-! ## Stores -/

/-- A write through a leaf whose dirty bit was clear is logged, in types 0, 1 and 5 (17 R398). -/
def Phys.logged (p : Phys) : Bool := (p.type == 0 || p.type == 1 || p.type == 5) && !entryDirty p.leaf
/-- A page appended to a core's dirty log, unless the log holds it. -/
def State.appendDirty (s : State) (core : Nat) (e : Nat × Nat) : State :=
  if (s.core core).dirty.contains e then s else s.modCore core fun c => { c with dirty := c.dirty ++ [e] }
/-- A full log, its room for answers still to come included, stalls the writer of a page it does not hold. -/
def State.dirtyRoom (s : State) (core : Nat) (e : Nat × Nat) : Bool :=
  (s.core core).dirty.contains e ||
  decide ((s.core core).dirty.length + (s.links.remote.filter fun r => r.core == core && r.logs.isSome).length < 1024)
/-- Dirty logging of a write. -/
def State.logDirty (s : State) (core : Nat) (p : Phys) : Chk State :=
  if p.logged then do
    await (s.dirtyRoom core (p.asid, p.va / 65536))
    .ok (s.appendDirty core (p.asid, p.va / 65536))
  else .ok s

/-- A log entry for poison that would leave its containment domain (18 R411, R417). -/
def crossing {α : Type} : Chk α := kill 10

def replicasOf (p : Phys) : Option (BitVec 4) := if p.type = 5 then some (BitVec.ofNat 4 (bits p.page 24 4)) else none

/-- An ordinary write to package memory as it enters the memory system. -/
def State.pend (s : State) (w : Who) (p : Phys) (bs : List Byte) (poison : Bool) (tags : Tags) : PendWrite × State :=
  let (id, s) := s.fresh
  ({ id := id, aid := w.aid, core := w.core, actor := w.name, asid := w.asid, va := p.va, addr := p.addr, bytes := bs, poison := poison
     key := entryKey p.leaf, die := w.die, home := homeDie p.addr, replicas := replicasOf p, stamp := [], applied := []
     tags := tags }, s)

/-- The sectors of a remote write transaction. -/
def partSector (va : Nat) (bs : List Byte) (poison : Bool) : WSector :=
  let lead := va % 32
  { bytes := List.replicate lead 0 ++ bs, mask := BitVec.ofNat 256 ((2 ^ (8 * bs.length) - 1) * 2 ^ (8 * lead)), poison := poison }

/-- A write to another package (19 R427): transactions of at most seven sectors. What the activation read ahead there is
read again (05 R119). -/
def State.askWrite (s : State) (w : Who) (p : Phys) (bs : List Byte) (tags : Tags) : Chk State :=
  let sectors := (blocks 32 p.addr bs.length).map fun b => let t := slice 32 b p.addr bs; partSector t.1 t.2 false
  (List.range (ceilDiv sectors.length 7)).foldlM (fun s k => do
    let r ← (s.dropAhead w (place1 p)).ask w p bs.length true tags none fun id =>
      .write ((p.addr / 32 + 7 * k) * 32) (entryKey p.leaf) ((sectors.drop (7 * k)).take 7) w.core id
    .ok r.2) s

/-- A store through type 4 lands wholly in an owned, writable region of an actor of the job (04 R101). -/
def State.mayLand (s : State) (job : Half) (key n : Nat) : Bool :=
  (s.regionsAt job ((key - 2 ^ 45) / 2 ^ 24)).any fun r => r.2.allows .store (key % 2 ^ 24) n

/-- A write through a leaf (04 R100, R101): the last step of every store. A store to a core of another die leaves the die
as any write does (05 R117), and is checked where it lands. -/
def State.writePhys (s : State) (w : Who) (p : Phys) (bs : List Byte) (poison : Bool) (tags : Tags) : Chk State := do
  let s ← s.logDirty w.core p
  match p.type with
  | 1 =>
    if poison then crossing else s.askWrite w p bs tags
  | 2 => if poison then crossing else let t := s.pend w p bs poison tags; .ok (t.2.issueWrite t.1)
  | 4 =>
    if homeDie p.addr = w.die then do
      need (s.mayLand (nameJob w.name) p.addr bs.length) 2
      .ok (s.writeNow 0 p.addr bs poison)
    else let t := s.pend w p bs poison tags; .ok (t.2.issueWrite t.1)
  | 6 => s.ioWrite p.page p.off bs.length (BitVec.ofNat 64 (leNat bs))
  | _ =>
    let _ ← s.named p (s.keyGen (homeDie p.addr) (entryKey p.leaf))
    let t := s.pend w p bs poison tags
    .ok (t.2.issueWrite t.1)

/-- A store performed: every check made again, as at its release (08 R191). -/
def State.storeNow (s : State) (w : Who) (va n : Nat) (v : Word) (poison : Bool) (tags : Tags) (before : Nat) :
    Chk State := do
  let (a, spot) ← s.check w (BitVec.ofNat 64 va) n n .store
  s.awaitBoard w.core a n before
  match spot with
  | .pool core off _ _ =>
    let place := poolKey core off
    .ok ((((s.writeNow 0 place (leBytes n v.toNat) poison).noteStore w.core place n).passEarly w.aid place n).checkPool core)
  | .far =>
    let (p, s) ← s.translate w.die w.asid a .store w.service
    ((s.passEarly w.aid p.place n).passPage w.aid p).writePhys w p (leBytes n v.toNat) poison tags

/-- The effective deadline of the message that an activation handles, or handled to its DONE (17 R391). -/
def State.deadlineOf (s : State) (aid : Nat) : Word32 :=
  (((s.allActs ++ s.wire.tails.map (·.act)).find? fun a => a.aid == aid).map (·.deadline)).getD 0
/-- An effect that waits for others before it is performed, under a number. -/
def State.deferAs (s : State) (id : Nat) (w : Who) (eff : Eff) (after : List Nat) (scope : Nat) (tags : Tags) : State :=
  let d : Deferred := { id := id, who := w, eff := eff, after := after, scope := scope, tags := tags, deadline := s.deadlineOf w.aid }
  { s with wire := { s.wire with deferred := s.wire.deferred ++ [d] } }
def State.defer (s : State) (w : Who) (eff : Eff) (after : List Nat) (scope : Nat) (tags : Tags) : State :=
  let (id, s) := s.fresh
  s.deferAs id w eff after scope tags

/-- An address of the local window, or of the cluster window that names the issuer's own core and is the same (04 R97). -/
def isLocal (core va : Nat) : Bool := va / 2 ^ 48 == 0x70 || (va / 2 ^ 48 == 0x71 && va % 2 ^ 48 / 2 ^ 24 == coreNo core)
/-- The address window decides whether a store is a global store (08 R191). -/
def isGlobal (core va : Nat) : Bool := !isLocal core va

/-- The smallest scope that holds two cores (05 R110). -/
def scopeBetween (c d : Nat) : Nat :=
  if c = d then 1 else if c / 8 = d / 8 then 2
  else if dieOf c ≠ dieOf d then 5 else if spanOf (clusterOf c) = spanOf (clusterOf d) then 3 else 4
/-- The smallest scope that holds a core and what a leaf leads to, where that lies elsewhere (05 R113). -/
def scopeOfLeaf (core : Nat) (p : Phys) : Nat := match p.type with
  | 1 => 7
  | 2 | 3 => 6
  | 4 => scopeBetween core ((p.addr - 2 ^ 45) / 2 ^ 24)
  | _ => if homeDie p.addr = dieOf core then 0 else 5
/-- A release carried by an access takes effect at the scope it names, or at the smallest that holds the issuer and what it
accesses, whichever is wider (05 R113); where no leaf leads there yet, at the widest of those. -/
def State.scopeAt (s : State) (w : Who) (va n scope : Nat) : Nat :=
  match s.spot w.core va n with
  | .ok (.pool core _ _ _) => if core = w.core then scope else max scope (scopeBetween w.core core)
  | .ok .far => max scope (match s.leafOf w.die w.asid va with
    | some e => scopeOfLeaf w.core { leaf := e, asid := w.asid, va := va }
    | none => 7)
  | .error _ => scope

/-- An access that is to wait is checked and translated now: whether it could be made. -/
def State.translates (s : State) (w : Who) (va n : Nat) (acc : Access) : Chk Unit := do
  let (a, spot) ← s.check w (BitVec.ofNat 64 va) n n acc
  match spot with
  | .far => do let _ ← s.translate w.die w.asid a acc w.service; .ok ()
  | .pool _ _ _ _ => .ok ()

/-- A store, or with a mask a releasing store, takes effect: at once, or when what it waits for is performed and what comes
before it has been. `a` is the activation whose effect it is. The effects of a mirrored child's second and third run go
nowhere (03 R86). -/
def State.effectStore (s : State) (a : Act) (eff : Eff) (va n : Nat) (v : Word) (poison : Bool) (mask : BitVec 17) (scope : Nat) :
    Chk State := do
  let w := s.whoOf a
  if a.run ≠ 0 && isGlobal a.core va then .ok s
  else
    s.awaitEarlier w
    let tags := a.tagsFor [(true, va, n)]
    s.awaitCounts tags
    let scope := if mask = 0 then scope else s.scopeAt w va n scope
    let after := (s.gates a ++ s.waitsFor a mask scope).filter fun i => !s.performed [i] scope
    if after.isEmpty && !s.behind w then s.storeNow w va n v poison tags s.env.nextId
    else do
      -- translated at its release: a miss is the activation's, not only the store's (08 R191)
      s.translates w va n .store
      .ok (s.defer w eff after scope tags)

/-- Stages an effect; a 257th staged instruction kills (02 R48). Recorded fences do not count. -/
def State.stage (s : State) (eff : Eff) : Chk State :=
  let used := (s.act.staged.filter fun e =>
    match e with
    | .fence _ _ => false
    | _ => true).length
  if used < 256 then .ok (s.modAct fun a => { a with staged := a.staged ++ [eff] }) else kill 17

/-- A store instruction's issue: checks 1 to 4, then staging or its effect (08 R190, R191). -/
def State.issueStore (s : State) (eff : Eff) (va : Word) (n : Nat) (v : Word) (poison : Bool) (mask : BitVec 17) (scope : Nat) :
    Chk State := do
  let (a, spot) ← s.check s.me va n n .store
  s.awaitFences
  if isGlobal s.act.core a && !s.act.committed then
    match spot with
    | .far =>
      let (_, s) ← s.translate s.me.die s.me.asid a .store s.me.service
      s.stage eff
    | .pool _ _ _ _ => s.stage eff
  else s.effectStore s.act eff a n v poison mask scope

/-! ## Atomics (08 R204) -/

/-- The value an atomic writes; none when a CAS finds the values unequal. -/
def amoValue (op : BitVec 3) (n : Nat) (old v cmp : Nat) : Option Nat :=
  match op.toNat with
  | 0 => some v
  | 1 => some ((old + v) % 2 ^ n)
  | 2 => some (old &&& v)
  | 3 => some (old ||| v)
  | 4 => some (old ^^^ v)
  | 5 => some (if intOf true n old < intOf true n v then v else old)
  | 6 => some (if intOf true n v < intOf true n old then v else old)
  | _ => if old = cmp then some v else none

/-- What an atomic finds poisoned: a CAS compares, so poison on the old value kills; otherwise it travels (18 R409). -/
def amoPoison (op : BitVec 3) (oldPoison vPoison : Bool) : Chk Bool :=
  if op = 7 then do need (!oldPoison) 10; .ok vPoison
  else .ok (if op = 0 then vPoison else oldPoison || vPoison)

/-- An atomic on a pool sector: one step at the core that holds it. -/
def State.amoPool (s : State) (core off : Nat) (op : BitVec 3) (n : Nat) (v c : Nat) (vp leaf : Bool) :
    Chk (Nat × Bool × State) := do
  let (bs, poison) := s.readPlain (dieOf core) (poolKey core off) (n / 8)
  let poison := poison || leaf
  let old := leNat bs
  let np ← amoPoison op poison vp
  match amoValue op n old v c with
  | some new => .ok (old, poison, s.writeNow 0 (poolKey core off) (leBytes (n / 8) new) np)
  | none => .ok (old, poison, s)

/-- An atomic on package memory: its home die and its own die have applied what the other has seen of the location, and
it takes its place in the home's order (05 R118, R122). -/
def State.amoHome (s : State) (w : Who) (p : Phys) (op : BitVec 3) (n : Nat) (v c : Nat) (vp : Bool) (tags : Tags) :
    Chk (Nat × Bool × State) := do
  let home := homeDie p.addr
  let same (q : PendWrite) : Bool := overlaps q.addr q.bytes.length p.addr (n / 8)
  let near := nearest w.die home (BitVec.ofNat 4 (bits p.page 24 4))
  let page (q : PendWrite) : Bool := q.replicas.isSome && q.addr / 65536 == p.addr / 65536
  if p.type = 5 then
    -- the page's one order (R122): the core's own writes come before, and what the home has is what the core's loads then see
    await !(s.mem.pending.any fun q => page q && ((q.core == w.core && !q.applied.contains home) ||
      (op == 7 && q.applied.contains home && !q.applied.contains near)))
    await (((served home (BitVec.ofNat 4 (bits p.page 24 4)) home).filter fun d => !s.links.lostDies.getLsbD d).all fun d => s.mem.caughtUp d w.die)
  else
    await (s.mem.caughtUp home w.die)
    await !(s.mem.pending.any fun q => same q && q.applied.contains home && !q.applied.contains w.die)
  let (bs, poison, s) ← s.named p (s.readHbm home (entryKey p.leaf) p.addr (n / 8))
  let poison := poison || entryPoison p.leaf
  let old := leNat bs
  let np ← amoPoison op poison vp
  match amoValue op n old v c with
  | none => .ok (old, poison, s)
  | some new =>
    let s ← s.logDirty w.core p
    let (q, s) := s.pend w p (leBytes (n / 8) new) np tags
    let s := s.issueWrite q
    match s.mem.pending.find? fun r => r.id == q.id with
    | some r => .ok (old, poison, if r.applied.contains home then s else s.perform r home)
    | none => .ok (old, poison, s)

/-- An atomic performed: the old value with its poison, or none when a request to another package has been made. A posted
one (`wait` false) waits for no answer. -/
def State.amoNow (s : State) (w : Who) (va : Nat) (op : BitVec 3) (narrow : Bool) (v c : Word) (vp : Bool) (order : BitVec 2)
    (scope : Nat) (tags : Tags) (wait : Bool) (before : Nat) : Chk (Option (Nat × Bool) × State) := do
  let n := if narrow then 32 else 64
  let (a, spot) ← s.check w (BitVec.ofNat 64 va) (n / 8) (n / 8) .atomic
  s.awaitBoard w.core a (n / 8) before
  match spot with
  | .pool core off _ _ =>
    let (old, p, s) ← s.amoPool core off op n (v.toNat % 2 ^ n) (c.toNat % 2 ^ n) vp false
    let place := poolKey core off
    .ok (some (old, p), ((s.noteStore w.core place (n / 8)).passEarly w.aid place (n / 8)).checkPool core)
  | .far =>
    let (p, s) ← s.translate w.die w.asid a .atomic w.service
    match p.type with
    | 1 =>
      match (if wait then s.awaited w else none) with
      | some r =>
        match r.answer with
        | some (bs, poison) => do
          let poison := poison || entryPoison p.leaf
          need (op != 7 || !poison) 10
          .ok (some (leNat bs, poison), (s.dropRemote r.id).passEarly w.aid p.place (n / 8))
        | none => .error (.stall (.remote r.id))
      | none =>
        if vp then crossing
        else
          need (op != 7 || !entryPoison p.leaf) 10
          await !(s.storesTo w (place1 p))
          -- a CAS writes only when its answer says so
          await (!p.logged || s.dirtyRoom w.core (p.asid, p.va / 65536))
          let s ← if op = 7 then .ok s else s.logDirty w.core p
          let (id, s) ← (s.dropAhead w (place1 p)).ask w p (n / 8) (!wait) tags none fun id =>
            .atomic p.addr (entryKey p.leaf) op narrow v c order scope w.core id
          let posted (r : RemoteReq) : RemoteReq := if r.id != id then r else
            { r with cas := !wait && op == 7, compare := if op = 7 then some (c.toNat % 2 ^ n) else none
                     logs := if op = 7 ∧ p.logged then some (p.asid, p.va / 65536) else none }
          let s : State := { s with links := { s.links with remote := s.links.remote.map posted } }
          if wait then .ok (none, s.modAct fun t => { t with wait := .remote id }) else .ok (some (0, false), s)
    | 4 =>
      let core := (p.addr - 2 ^ 45) / 2 ^ 24
      need ((s.regionsAt (nameJob w.name) core).any fun r => r.2.allows .atomic (p.addr % 2 ^ 24) (n / 8)) 2
      await (s.mem.caughtUp (dieOf core) w.die)
      let (old, poison, s) ← s.amoPool core (p.addr % 2 ^ 24) op n (v.toNat % 2 ^ n) (c.toNat % 2 ^ n) vp (entryPoison p.leaf)
      .ok (some (old, poison), s)
    | _ =>
      let (old, poison, s) ← s.amoHome w p op n (v.toNat % 2 ^ n) (c.toNat % 2 ^ n) vp tags
      .ok (some (old, poison), (s.passEarly w.aid p.place (n / 8)).passPage w.aid p)

/-- An operation of an activation will bring about an acquire event (05 R130). -/
def State.acquireLater (s : State) (w : Who) (q : Acquire) : State :=
  if s.act.aid = w.aid then s.modAct fun a => { a with acquires := a.acquires ++ [q] } else s

/-- A staged or posted atomic takes effect, under a number that what waits for it names. A CAS that finds the values unequal
is no counted write. -/
def State.effectAmo (s : State) (a : Act) (eff : Eff) (va : Nat) (op : BitVec 3) (narrow : Bool) (v c : Word) (vp : Bool)
    (order : BitVec 2) (mask : BitVec 17) (scope : Nat) : Chk State := do
  let w := s.whoOf a
  if a.run ≠ 0 && isGlobal a.core va then .ok s
  else
    s.awaitEarlier w
    let n := if narrow then 4 else 8
    let (id, s) := s.fresh
    let tags := { a.tagsFor [(true, va, n)] with op := id }
    s.awaitCounts tags
    let scope := s.scopeAt w va n scope
    let waits := if order.getLsbD 1 then s.waitsFor a mask scope else []
    let after := (s.gates a ++ waits).filter fun i => !s.performed [i] scope
    let s := if order.getLsbD 0 then s.acquireLater w { op := id, mask := mask, atomic := true } else s
    if after.isEmpty && !s.behind w then do let r ← s.amoNow w va op narrow v c vp order scope tags false id; .ok r.2
    else do
      s.translates w va n .atomic
      .ok (s.deferAs id w eff after scope tags)

/-! ## The heads of queues (05 R123; 10 R272, R276; 02 R451) -/

def State.head (s : State) (core queue : Nat) : Option Entry := (vget (s.core core).queues queue).head?

/-- The compute cores of a span, by the rank of their cluster and their number. -/
def spanGrid (die span : Nat) : List Nat :=
  (((List.range 48).filter fun c => spanOf c == span).flatMap fun c => (List.range 4).map fun k => die * 512 + c * 8 + k)

/-- What an MMAS entry asks for: format, weight format, tag, depth, rows and columns. -/
def EOp.span : EOp → Option (Nat × Nat × Nat × Nat × Nat × Nat)
  | .mmas _ fmt wfmt tag ks rows cols _ _ _ _ _ _ => some (fmt, wfmt, tag, ks, rows, cols)
  | _ => none

/-- The MMAS at the head of a core's queue 4 with a tag. -/
def State.mmasAt (s : State) (tag core : Nat) : Option Entry :=
  (s.head core 4).bind fun e => if (e.op.span).any fun p => p.2.2.1 == tag then some e else none

/-- An operation of the core that comes before an entry is still to be performed on bytes the entry uses (05 R123), or the
operations its mask covers are. -/
def State.mayStart (s : State) (core : Nat) (e : Entry) : Bool :=
  let touches (va n : Nat) : Bool := e.op.ranges.any fun r => overlaps r.2.1 r.2.2 va n
  let before (d : Deferred) : Bool :=
    d.who.core == core && decide (d.id < e.id) && d.eff.writes && touches d.eff.span.1 d.eff.span.2
  let stored (r : RemoteReq) : Bool := r.store && r.core == core && r.entry.isNone && decide (r.id < e.id) && touches r.va r.len
  let pushed (p : PendWrite) : Bool := p.stale e.aid e.actor && p.core == core && touches p.va p.bytes.length
  s.performed e.after e.scope && e.acquires.all s.happened && !s.wire.deferred.any before && !s.links.remote.any stored &&
  !s.mem.pending.any pushed

/-- The MMAS entries of a rendezvous: the same tag, of one job, at the head of queue 4 of all 16 cores of a span (10 R276),
none of them held back. -/
def State.rendezvous (s : State) (die span tag : Nat) : Option (List Entry) := do
  let cores := spanGrid die span
  let es ← cores.mapM (s.mmasAt tag)
  let first ← es.head?
  if es.all (fun e => e.job == first.job && !e.started) && (cores.zip es).all (fun t => s.mayStart t.1 t.2) then some es else none

/-- An entry whose gate is met, or whose rendezvous has formed, waits no more, though it has not begun. -/
def State.mayGoOn (s : State) (core : Nat) (e : Entry) : Bool := match e.op with
  | .mma _ _ _ _ _ _ _ _ (some _) => e.gateMet || (s.core core).meetsGate e
  | .mmas _ _ _ tag _ _ _ _ _ _ _ _ _ => (s.rendezvous (dieOf core) (spanOf (clusterOf core)) tag).isSome
  | _ => false

/-- The watchdog that bounds a job's actors: its partition's; for Calico's, of no partition, the register's reset value
(assumption 55). -/
def State.wdogOf (s : State) (job : Half) : Nat := match s.partOfJob job with
  | some p => (s.part p).wdog.toNat
  | none => 200000

end Sys2Proof.Machine
end

