-- ==== Sys2Proof/Machine/Fetch.lean ====
section
/-! DEFINITION. Fetching an instruction's bytes, and what decoding them comes to (07 R164 to R166, R176, R177). -/

namespace Sys2Proof.Machine

/-- What marks a request as a fetch's: no entry has the number 0. -/
def fetchEntry : Option (Nat × Nat) := some (0, 0)

/-- In minimal mode with no HBM the recovery image runs from its core's pool (20 R445): its code is in the local window
(assumption 95). -/
def State.runsFromPool (s : State) (w : Who) (a : Nat) : Bool :=
  s.boot.minimal && !s.boot.hbm && w.service && a / 2 ^ 48 == 0x70

/-- A halfword of the core's scratchpad as code; one outside its units kills with 20 (04 R96, assumption 95). -/
def State.fetchPool (s : State) (w : Who) (a : Nat) : Chk (Option (List Byte) × State) := do
  need (a % 2 ^ 48 + 2 ≤ s.scratchBytes w.core) 20
  let r := s.readPlain w.die (poolKey w.core (a % 2 ^ 48)) 2
  need (!r.2) 10
  .ok (some ((s.act.ahead.find? fun t => t.1 == a).elim r.1 (·.2)), s.checkPool w.core)

/-- A halfword at an even address, fetched (07 R165); none when a request to another package has been made. One that the
activation read ahead is as it was then: a store to code since is not seen (07 R166, assumption 75). -/
def State.fetchHalf (s : State) (va : Word) : Chk (Option (List Byte) × State) := do
  let w := s.me
  let a ← canonical va
  need (a % 2 == 0) 5
  if s.runsFromPool w a then return ← s.fetchPool w a
  need (a / 2 ^ 48 != 0x70 && a / 2 ^ 48 != 0x71) 20
  let (p, s) ← s.translate w.die w.asid a .fetch w.service
  if p.type = 1 then
    match s.links.remote.find? fun r => r.aid == w.aid && r.entry == fetchEntry && r.va == a with
    | some r =>
      match r.answer with
      | some (bs, poison) => do
        need (!poison && !entryPoison p.leaf) 10
        .ok (some ((s.act.ahead.find? fun t => t.1 == a).elim bs (·.2)), s)
      | none => .error (.stall (.remote r.id))
    | none =>
      let (id, s) ← s.ask w p 2 false {} fetchEntry fun id => .readRequest p.addr (entryKey p.leaf) 2 w.core id
      .ok (none, s.modAct fun t => { t with wait := .remote id })
  else
    let (bs, poison, s) ← s.readPhys w.die p 2
    need (!poison) 10
    .ok (some ((s.act.ahead.find? fun t => t.1 == a).elim bs (·.2)), s)

/-- The running activation reads a halfword of its code ahead (07 R166): of what it stores there, or another stores, each
halfword is fetched old or new. The fetches from now on take what was read, until another version comes first. -/
def State.readCode (s : State) (va : Nat) : State :=
  match s.fetchHalf (BitVec.ofNat 64 va) with
  | .error (.line l) => s.settleLine l
  | .ok (some bs, _) => if s.act.live then s.modAct fun a => { a with ahead := (va, bs) :: a.ahead.filter fun t => t != (va, bs) } else s
  | _ => s

/-- A version of a halfword that the activation read ahead comes first again. -/
def State.reuseCode (s : State) (va k : Nat) : State :=
  match (s.act.ahead.filter fun t => t.1 == va)[k]? with
  | some t => s.modAct fun a => { a with ahead := t :: a.ahead.filter fun u => u != t }
  | none => s

/-- The bytes of the instruction at the pc: two, or four when bits [1:0] are 0b11 (07 R164). -/
def State.fetch (s : State) : Chk (Option (List Byte) × State) := do
  let (lo, s) ← s.fetchHalf s.act.pc
  match lo with
  | none => .ok (none, s)
  | some lo =>
    if leNat lo % 4 = 3 then
      let (hi, s) ← s.fetchHalf (s.act.pc + 2)
      match hi with
      | none => .ok (none, s)
      | some hi => .ok (some (lo ++ hi), s)
    else .ok (some lo, s)

/-- An instruction has been fetched: it stands at the pc until it completes, however often it waits; answers that its fetch used
are used up. -/
def State.fetched (s : State) (bs : List Byte) : State :=
  let mine (r : RemoteReq) : Bool := r.aid == s.act.aid && r.entry == fetchEntry &&
    (r.va == s.act.pc.toNat || r.va == (s.act.pc + 2).toNat) && r.answer.isSome
  let s := if s.links.remote.any mine then { s with links := { s.links with remote := s.links.remote.filter fun r => !mine r } } else s
  s.modAct fun a => { a with issued := some bs }

/-- The reason bytes that are no instruction kill with (07 R176, R177): the privilege check comes after major and
minor. -/
def rejectReason (service : Bool) (bs : List Byte) (e : Reject) : Nat :=
  if (e = .field ∨ e = .value) ∧ !service ∧ privilegedWord (BitVec.ofNat 32 (leNat bs)) then 19 else 3

/-- A privileged form at actor level (07 R176). -/
def State.service (s : State) : Chk Unit := need s.act.service 19

end Sys2Proof.Machine
end

