-- ==== Sys2Proof/Machine/Scalar.lean ====
section
/-! DEFINITION. Loads, stores, branches, jumps, atomics, fences and guard slots (08 R198 to R213). -/

namespace Sys2Proof.Machine

/-! ## LOAD and STORE (08 R198 to R200) -/

/-- A load of `n` bytes into xd: sign-extended or zero-extended. -/
def loadInto (n : Nat) (signed : Bool) (off : Word) (a d : BitVec 5) (len : Nat) (s : State) : Chk State := do
  let base ← s.act.ctlX a
  let (r, s) ← s.loadBytes s.me (base + off) n n
  match r with
  | none => .ok s
  | some (bs, poison) => .ok (s.result len d (if signed then sext (8 * n) (leNat bs) else BitVec.ofNat 64 (leNat bs)) poison)

/-- A store of the low `n` bytes of xd. -/
def storeFrom (n : Nat) (off : Word) (a d : BitVec 5) (len : Nat) (s : State) : Chk State := do
  let base ← s.act.ctlX a
  let va := base + off
  let v := s.act.getX d
  let p := s.act.xPoison d
  let s ← s.issueStore (.store va.toNat n v p) va n v p 0 0
  .ok (s.advance len)

/-- LDB. -/
def execLdb (i : BitVec 12) (a d : BitVec 5) (s : State) : Host.Outcome State Fault Refusal :=
  run s (loadInto 1 true (i.signExtend 64) a d 4 s)
/-- LDH. -/
def execLdh (i : BitVec 12) (a d : BitVec 5) (s : State) : Host.Outcome State Fault Refusal :=
  run s (loadInto 2 true (i.signExtend 64) a d 4 s)
/-- LDW. -/
def execLdw (i : BitVec 12) (a d : BitVec 5) (s : State) : Host.Outcome State Fault Refusal :=
  run s (loadInto 4 true (i.signExtend 64) a d 4 s)
/-- LDD. -/
def execLdd (i : BitVec 12) (a d : BitVec 5) (s : State) : Host.Outcome State Fault Refusal :=
  run s (loadInto 8 true (i.signExtend 64) a d 4 s)
/-- LDBN. -/
def execLdbn (i : BitVec 12) (a d : BitVec 5) (s : State) : Host.Outcome State Fault Refusal :=
  run s (loadInto 1 false (i.signExtend 64) a d 4 s)
/-- LDHN. -/
def execLdhn (i : BitVec 12) (a d : BitVec 5) (s : State) : Host.Outcome State Fault Refusal :=
  run s (loadInto 2 false (i.signExtend 64) a d 4 s)
/-- LDWN. -/
def execLdwn (i : BitVec 12) (a d : BitVec 5) (s : State) : Host.Outcome State Fault Refusal :=
  run s (loadInto 4 false (i.signExtend 64) a d 4 s)

/-- STB. -/
def execStb (i : BitVec 12) (a d : BitVec 5) (s : State) : Host.Outcome State Fault Refusal :=
  run s (storeFrom 1 (i.signExtend 64) a d 4 s)
/-- STH. -/
def execSth (i : BitVec 12) (a d : BitVec 5) (s : State) : Host.Outcome State Fault Refusal :=
  run s (storeFrom 2 (i.signExtend 64) a d 4 s)
/-- STW. -/
def execStw (i : BitVec 12) (a d : BitVec 5) (s : State) : Host.Outcome State Fault Refusal :=
  run s (storeFrom 4 (i.signExtend 64) a d 4 s)
/-- STD. -/
def execStd (i : BitVec 12) (a d : BitVec 5) (s : State) : Host.Outcome State Fault Refusal :=
  run s (storeFrom 8 (i.signExtend 64) a d 4 s)

/-! ## BRANCH, JAL, JALR (08 R201, R202) -/

/-- The pc set by a taken branch or jump: an odd address kills (07 R165). -/
def State.jump (s : State) (t : Word) : Chk State := do
  need (t.toNat % 2 == 0) 5
  .ok (s.modAct fun a => { a with pc := t, wait := .none, memo := .none, issued := none })

/-- A displacement in halfwords. -/
def halfwords {n : Nat} (o : BitVec n) : Word := o.signExtend 64 * 2

/-- A conditional branch on two registers. -/
def branchIf {n : Nat} (o : BitVec n) (b a : BitVec 5) (len : Nat) (s : State) (c : Word → Word → Bool) : Chk State := do
  let x ← s.act.ctlX a
  let y ← s.act.ctlX b
  if c x y then s.jump (s.act.pc + halfwords o) else .ok (s.advance len)

/-- A branch on the bit at the head of bq, which is popped either way. -/
def branchBit (o : BitVec 12) (want : Bool) (s : State) : Chk State :=
  match s.act.bq with
  | [] => stall
  | (v, poison) :: rest => do
    need (!poison) 10
    let s := s.modAct fun a => { a with bq := rest }
    if v == want then s.jump (s.act.pc + halfwords o) else .ok (s.advance 4)

/-- BEQ. -/
def execBeq (o : BitVec 12) (b a : BitVec 5) (s : State) : Host.Outcome State Fault Refusal := run s (branchIf o b a 4 s (· == ·))
/-- BNE. -/
def execBne (o : BitVec 12) (b a : BitVec 5) (s : State) : Host.Outcome State Fault Refusal := run s (branchIf o b a 4 s (· != ·))
/-- BLT. -/
def execBlt (o : BitVec 12) (b a : BitVec 5) (s : State) : Host.Outcome State Fault Refusal :=
  run s (branchIf o b a 4 s fun x y => x.slt y)
/-- BGE. -/
def execBge (o : BitVec 12) (b a : BitVec 5) (s : State) : Host.Outcome State Fault Refusal :=
  run s (branchIf o b a 4 s fun x y => y.sle x)
/-- BLTN. -/
def execBltn (o : BitVec 12) (b a : BitVec 5) (s : State) : Host.Outcome State Fault Refusal :=
  run s (branchIf o b a 4 s fun x y => x.ult y)
/-- BGEN. -/
def execBgen (o : BitVec 12) (b a : BitVec 5) (s : State) : Host.Outcome State Fault Refusal :=
  run s (branchIf o b a 4 s fun x y => y.ule x)
/-- BQT. -/
def execBqt (o : BitVec 12) (s : State) : Host.Outcome State Fault Refusal := run s (branchBit o true s)
/-- BQF. -/
def execBqf (o : BitVec 12) (s : State) : Host.Outcome State Fault Refusal := run s (branchBit o false s)

/-- A jump that writes the address of the next instruction. -/
def jumpLink (t : Word) (d : BitVec 5) (len : Nat) (s : State) : Chk State := do
  let next := s.act.pc + BitVec.ofNat 64 len
  let s ← s.jump t
  .ok (s.modAct fun a => a.setX d next)

/-- JAL. -/
def execJal (o : BitVec 20) (d : BitVec 5) (s : State) : Host.Outcome State Fault Refusal :=
  run s (jumpLink (s.act.pc + halfwords o) d 4 s)
/-- JALR. -/
def execJalr (i : BitVec 12) (a d : BitVec 5) (s : State) : Host.Outcome State Fault Refusal :=
  run s (do let x ← s.act.ctlX a; jumpLink (x + i.signExtend 64) d 4 s)

/-! ## AMO (08 R203 to R205) -/

/-- The mask of an atomic: o7 with an order, nothing without (08 R205). -/
def amoMask (o : BitVec 2) (s : State) : Chk (BitVec 17) :=
  if o = 0 then .ok 0 else do let m ← s.act.ctlO 7; maskOf m

/-- An atomic. With a destination, on an activation that has not committed, it first commits: `commit` releases what is
staged, and the atomic itself follows in a further step (02 R48). -/
def amoOp (op : BitVec 3) (w : BitVec 1) (sc : BitVec 4) (o : BitVec 2) (b a d : BitVec 5)
    (commit : State → Chk State) (s : State) : Chk State := do
  need (decide (sc.toNat ≤ 10)) 3
  let va ← s.act.ctlX a
  let mask ← amoMask o s
  let c ← (if op = 7 then s.act.ctlO 0 else .ok 0)
  let n := if w = 1 then 32 else 64
  let v := s.act.getX b
  let vp := s.act.xPoison b
  let (va, spot) ← s.check s.me va (n / 8) (n / 8) .atomic
  s.awaitFences
  let eff : Eff := .amo va op (w == 1) v c vp o mask sc.toNat
  if d = 0 then
    if s.act.committed then do let s ← s.effectAmo s.act eff va op (w == 1) v c vp o mask sc.toNat; .ok (s.advance 4)
    else do
      let s ← (match spot with
        | .far => do let r ← s.translate s.me.die s.me.asid va .atomic s.me.service; .ok r.2
        | .pool _ _ _ _ => .ok s)
      let s ← s.stage eff
      .ok (s.advance 4)
  else if !(s.act.committed && s.act.staged.isEmpty) then commit s
  else
    let go (s : State) : Chk State := do
      -- its own request, once made, is only waited for
      if (s.awaited s.me).isNone then
        let scope := s.scopeAt s.me va (n / 8) sc.toNat
        s.awaitEarlier s.me
        await (!s.behind s.me && s.performed (s.gates s.act ++ if o.getLsbD 1 then s.waitsFor s.act mask scope else []) scope)
        s.awaitCounts (s.act.tagsFor [(true, va, n / 8)])
      let tags := s.act.tagsFor [(true, va, n / 8)]
      let (r, s) ← s.amoNow s.me va op (w == 1) v c vp o sc.toNat tags true s.env.nextId
      match r with
      | none => .ok s
      | some (old, poison) =>
        let s := if o.getLsbD 0 then s.modAct (·.acquired mask) else s
        .ok (s.result 4 d (if w = 1 then sext 32 old else BitVec.ofNat 64 old) (poison || vp))
    if isLocal s.act.core va then go s else s.once 4 d go

/-! ## FENCE (08 R206, R207) -/

/-- The fence over the operations issued before it: what a later store, atomic, release or message waits for (05 R129). -/
def State.fence (s : State) (mask : BitVec 17) (scope : Nat) : State :=
  let after := s.waitsFor s.act mask scope
  let s := if after.isEmpty then s else s.modAct fun a => { a with fences := (a.fences.filter fun f => !s.performed f.1 f.2) ++ [(after, scope)] }
  if s.act.committed then s else s.modAct fun a => { a with staged := a.staged ++ [.fence mask scope] }

def maskBits (m : BitVec 16) (r : BitVec 1) : BitVec 17 := r ++ m

/-- FENCE_REL. Before COMMIT the fence is recorded too (05 R135). -/
def execFenceRel (m : BitVec 16) (r : BitVec 1) (sc : BitVec 4) (s : State) : Host.Outcome State Fault Refusal :=
  run s (do need (decide (sc.toNat ≤ 10)) 3; .ok ((s.fence (maskBits m r) sc.toNat).advance 4))
/-- An acquire fence (05 R130): later reads that the mask covers follow every earlier acquire event, those still to come
among them, and such reads performed ahead of an earlier event are performed again. -/
def Act.acquireFence (a : Act) (mask : BitVec 17) : Act :=
  { a with acquires := a.acquires.map fun q => { q with mask := q.mask ||| mask }
           early := a.early.filter fun e => !(e.passed && a.slotsFor e.va e.len &&& mask != 0) }

/-- FENCE_ACQ (05 R130). -/
def execFenceAcq (m : BitVec 16) (r : BitVec 1) (sc : BitVec 4) (s : State) : Host.Outcome State Fault Refusal :=
  run s (do need (decide (sc.toNat ≤ 10)) 3; .ok ((s.settleAcquires.modAct (·.acquireFence (maskBits m r))).advance 4))
/-- FENCE_FULL (05 R131): FENCE_REL followed by FENCE_ACQ. -/
def execFenceFull (m : BitVec 16) (r : BitVec 1) (sc : BitVec 4) (s : State) : Host.Outcome State Fault Refusal :=
  run s (do
    need (decide (sc.toNat ≤ 10)) 3
    .ok (((s.fence (maskBits m r) sc.toNat).settleAcquires.modAct (·.acquireFence (maskBits m r))).advance 4))

/-- An entry put in a queue of its core. -/
def State.enqueue (s : State) (core q : Nat) (e : Entry) : State :=
  s.modCore core fun c =>
    let e := if (vget c.queues q).isEmpty then c.headed e s.env.time else e
    { c with queues := vset c.queues q (vget c.queues q ++ [e]) }
/-- A queue of 16 entries has room (01 R24, 05 R124). -/
def State.room (s : State) (core q : Nat) : Bool := decide ((vget (s.core core).queues q).length < 16)

/-- QFENCE (05 R125): one join for each named queue, all with one number; a service core has no queue 4. -/
def execQfence (q : BitVec 7) (s : State) : Host.Outcome State Fault Refusal :=
  run s (do
    let core := s.act.core
    let qs := (List.range 7).filter fun n => q.getLsbD n && !(n == 4 && isService core)
    await (qs.all (s.room core))
    let (id, s) := s.fresh
    let join : Entry := { id := id, aid := s.act.aid, actor := s.act.name, job := s.act.job, op := .join id, early := !s.act.committed }
    .ok ((qs.foldl (fun s n => s.enqueue core n join) s).advance 4))

/-! ## Guard slots (08 R208 to R211, R213) -/

/-- RDEF, HDEF and RCLR wait until their slot counts nothing (05 R128). -/
def State.awaitSlot (s : State) (slot : Nat) : Chk Unit :=
  await (s.outstanding s.act.aid slot true == 0 && s.outstanding s.act.aid slot false == 0)
def State.setGuard (s : State) (slot : BitVec 4) (g : Guard) : State :=
  s.modAct fun a => { a with guards := vset a.guards slot.toNat g }

/-- RDEF (R209). -/
def execRdef (b a : BitVec 5) (d : BitVec 4) (s : State) : Host.Outcome State Fault Refusal :=
  run s (do
    let base ← s.act.ctlX a
    let n ← s.act.ctlX b
    need (decide (base.toNat < 2 ^ 55 ∧ base.toNat + n.toNat ≤ 2 ^ 55)) 20
    s.awaitSlot d.toNat
    .ok ((s.setGuard d (if n = 0 then .empty else .range base.toNat n.toNat)).advance 4))

/-- A descriptor read from its eight words (04 R104): the reason it is refused with, or the tensor. -/
def parseTensor (bs : List Byte) : Except Nat Tensor :=
  let w (i : Nat) : Nat := leNat ((bs.drop (8 * i)).take 8)
  let rank := bits (w 1) 5 3
  let fmt := bits (w 1) 0 5
  let fill := bits (w 1) 32 32
  let zero := w 0 / 2 ^ 55 == 0 && bits (w 1) 8 24 == 0 && fill / 2 ^ widthOf fmt == 0 && bits (w 2) 0 32 == 0 &&
    ((List.range 5).all fun k => k < rank || w (2 + k) == 0) && w 7 / 2 ^ 55 == 0 && (decide (10 ≤ fmt) || w 7 == 0)
  if !zero || rank == 0 || decide (5 < rank) then .error 3
  else if w 0 % 32 != 0 || w 7 % 32 != 0 then .error 5
  else .ok { base := w 0, fill := BitVec.ofNat 32 fill, rank := rank, format := fmt
             extents := (List.range rank).map fun k => bits (w (2 + k)) 32 32
             strides := (List.range rank).map fun k => bits (w (2 + k)) 0 32, scale := w 7 }

/-- HDEF (R210): a 64-byte load, then the checks of R104. -/
def execHdef (a : BitVec 5) (d : BitVec 4) (s : State) : Host.Outcome State Fault Refusal :=
  run s (do
    let va ← s.act.ctlX a
    s.awaitSlot d.toNat
    let (r, s) ← s.loadRecord s.me va 64 64
    match r with
    | none => .ok s
    | some bs =>
      match parseTensor bs with
      | .error reason => kill reason
      | .ok t => .ok ((s.setGuard d (.handle t)).advance 4))

/-- RCLR (R210). -/
def execRclr (d : BitVec 4) (s : State) : Host.Outcome State Fault Refusal :=
  run s (do s.awaitSlot d.toNat; .ok ((s.setGuard d .empty).advance 4))

/-- RSTAT (R213), in the layout of 05 R128. -/
def execRstat (a d : BitVec 5) (s : State) : Host.Outcome State Fault Refusal :=
  run s (do
    need (decide (a.toNat ≤ 16)) 3
    let kind := if a = 16 then 3 else match vget s.act.guards a.toNat with
      | .empty => 0
      | .range _ _ => 1
      | .handle _ => 2
    let v := kind * 2 ^ 32 + s.outstanding s.act.aid a.toNat false * 2 ^ 16 + s.outstanding s.act.aid a.toNat true
    .ok (s.result 4 d (BitVec.ofNat 64 v)))

/-- LDAQ (R212): a load that is an acquire event. -/
def execLdaq (w : BitVec 1) (sc : BitVec 4) (b a d : BitVec 5) (s : State) : Host.Outcome State Fault Refusal :=
  run s (do
    need (decide (sc.toNat ≤ 10)) 3
    let m ← s.act.ctlX b
    let mask ← maskOf m
    let pc := s.act.pc
    let t ← loadInto (if w = 1 then 4 else 8) true 0 a d 4 s
    .ok (if t.act.pc = pc then t else t.modAct (·.acquired mask)))

/-- STRL (R212): a releasing store. -/
def execStrl (w : BitVec 1) (sc : BitVec 4) (b a d : BitVec 5) (s : State) : Host.Outcome State Fault Refusal :=
  run s (do
    need (decide (sc.toNat ≤ 10)) 3
    let m ← s.act.ctlX b
    let mask ← maskOf m
    let va ← s.act.ctlX a
    let n := if w = 1 then 4 else 8
    let v := s.act.getX d
    let p := s.act.xPoison d
    let s ← s.issueStore (.strl va.toNat n v p mask sc.toNat) va n v p mask sc.toNat
    .ok (s.advance 4))

end Sys2Proof.Machine
end

