-- ==== Sys2Proof/Machine/Messages.lean ====
section
/-! DEFINITION. Messages as they are built and released, phases, launches and dependence slots (02, 12, 13 R348), and the
one shared way in which effects, staged or not, take effect (02 R47 to R52; 08 R191). -/

namespace Sys2Proof.Machine

/-! ## Fields of a message (02 R35) -/

def msgFlag (m : Msg) (i : Nat) : Bool := m.w2.getLsbD (16 + i)
def msgDeadline (m : Msg) : Word32 := m.w3.setWidth 32
/-- A host name (19 R439): kind 0b10 with one of the 64 highest aliases. -/
def isHostName (n : Word) : Bool := nameKind n == 2 && nameJob n != 0 && 0x3FFFFFC0 ≤ nameIndex n
/-- A name without its incarnation. -/
def sameIndex (a b : Word) : Bool := a >>> 16 == b >>> 16

/-- A message that hardware generates (02 R37): destination, word 1, kind, cause and payload. -/
def hwMsg (dst w1 : Word) (kind : Nat) (cause : Option Msg) (p0 p1 p2 : Word) : Msg :=
  let carried : Word := match cause with
    | some m => m.w2 &&& 0xFFFFFFFF00000000
    | none => 0
  { w0 := dst, w1 := w1, w2 := carried ||| BitVec.ofNat 64 kind, w4 := p0, w5 := p1, w6 := p2 }

/-- NOACTOR, LATE and CANCELLED answer a message (02 R37). -/
def answerMsg (m : Msg) (kind : Nat) (p2 : Word) : Msg := hwMsg m.w1 m.w0 kind (some m) m.w2 m.w3 p2

/-! ## Phases (02 R60, R61; 13 R348, R356) -/

/-- The message that a mirrored child's primary is to handle again, when it was pre-empted (03 R86). -/
def Actor.again (a : Actor) : List QMsg := (a.rerun.filter fun t => t.1 == 0).map (·.2)

/-- Every message that is queued, held, in flight or being handled. -/
def State.allMsgs (s : State) : List Msg :=
  s.dir.actors.flatMap (fun a => (a.onCore ++ a.spill).map (·.msg) ++ a.held.map (·.msg) ++ a.again.map (·.msg)) ++
  s.dir.pools.flatMap (fun p => (p.queues.flatMap fun q => q.msgs.map (·.msg)) ++ p.held.map (·.msg)) ++
  s.dir.slots.filterMap (fun d => d.held.map (·.msg)) ++
  s.exp.entries.flatMap (fun e => e.sets.toList.flatMap fun w => w.waiting.map fun q => q.msg) ++
  (s.allActs.filter (·.run == 0)).map (·.msg) ++
  s.wire.flights.filterMap (fun f => match f.item with
    | .msg m => some m
    | _ => none) ++
  s.parts.parts.toList.flatMap (·.hostSpill)

/-- Points of launches still to arrive that pass a test on the launch's message. -/
def State.pointsLeft (s : State) (p : Msg → Word32 → Bool) : Nat :=
  s.wire.flights.foldl (fun n f => match f.item with
    | .launch m grid _ num next =>
      if p m num then n + (bits grid.toNat 0 16 * bits grid.toNat 16 16 * bits grid.toNat 32 16 - next) else n
    | _ => n) 0

/-- Outstanding messages of a phase (02 R60, code 3). -/
def State.phaseCount (s : State) (job ph : Half) : Nat :=
  (s.allMsgs.filter fun m => msgPhase m == ph && msgJob m == job).length + s.pointsLeft fun m _ => msgPhase m == ph && msgJob m == job

/-- A message of a launch. -/
def ofLaunch (job : Half) (num : Word32) (m : Msg) : Bool := m.launch.any (·.num == num) && msgJob m == job

/-- Messages of a launch not yet handled to DONE (02 R60, code 1), those that left for another package included. -/
def State.launchCount (s : State) (job : Half) (num : Word32) : Nat :=
  let abroad := (s.dir.launches.filter fun l => l.num == num && l.job == job).map (·.abroad)
  (s.allMsgs.filter (ofLaunch job num)).length + (s.pointsLeft fun m n => n == num && msgJob m == job) + abroad.sum

/-- Phase `a` is later than `b`: signed 16-bit difference. -/
def laterPhase (a b : Half) : Bool := a != b && !(a - b).msb

/-- A model record as the opening of a phase leaves it (13 R348, R356). -/
def ModelRec.opened (r : ModelRec) (epoch : Word32) : ModelRec :=
  let r := if r.pending then { r with force := r.pset, switch := epoch, pending := false } else r
  if r.force then { r with openB := r.openB + 1 } else { r with openA := r.openA + 1 }

def jobModel (job : Half) (r : ModelRec) : Bool := r.valid && r.job == job

/-- The epoch that a message of a phase carries, and the phase opened by its first release (02 R61). -/
def State.openPhase (s : State) (job ph : Half) : Word32 × State :=
  if ph = 0 then (s.epochOf job, s)
  else
    match s.dir.phases.find? fun p => p.job == job && p.id == ph with
    | some p => (p.epoch, s)
    | none =>
      let epoch := s.epochOf job + 1
      let last := (s.job? job).bind (·.lastPhase)
      let late := last.any fun l => laterPhase l ph
      let s := s.modJob job fun j => { j with epoch := epoch, lastPhase := if late then j.lastPhase else some ph }
      let models := mapIf (jobModel job) (fun r => r.opened epoch) s.exp.models
      let captured := (models.filter (jobModel job)).map fun r => (r.num, if r.force then 1 else 0)
      let close (p : Phase) : Phase := if p.job == job && laterPhase ph p.id then { p with closed := true } else p
      let opened : Phase := { job := job, id := ph, epoch := epoch, sets := captured, closed := late }
      (epoch, { s with exp := { s.exp with models := models }, dir := { s.dir with phases := s.dir.phases.map close ++ [opened] } })

/-- A flight added to those under way (02 R39). -/
def State.fly (s : State) (f : Flight) : State :=
  let (id, s) := s.fresh
  { s with wire := { s.wire with flights := s.wire.flights ++ [{ f with id := id }] } }

/-- A model record when a phase that captured one of its sets completes. -/
def ModelRec.closedPhase (r : ModelRec) (p : Phase) : ModelRec :=
  match p.sets.find? fun t => t.1 == r.num with
  | some (_, 0) => { r with openA := r.openA - 1 }
  | some (_, _) => { r with openB := r.openB - 1 }
  | none => r

/-- Phases that pass a test complete. -/
def State.endPhases (s : State) (ended : Phase → Bool) : State :=
  let models := (s.dir.phases.filter ended).foldl (fun l p => l.map fun r => r.closedPhase p) s.exp.models
  { s with exp := { s.exp with models := models }, dir := { s.dir with phases := s.dir.phases.filter fun p => !ended p } }

/-- Phases and launches that have come to nothing outstanding complete (02 R60, 12 R332). A launch's addition covers what its
activations are still releasing after their DONE. -/
def State.settleLevels (s : State) : State :=
  let s := s.endPhases fun p => p.closed && s.phaseCount p.job p.id == 0
  let done (l : Launch) : Bool := s.launchCount l.job l.num == 0 && !s.wire.tails.any fun t => ofLaunch l.job l.num t.act.msg
  let launches := s.dir.launches.filter done
  let s := { s with dir := { s.dir with launches := s.dir.launches.filter fun l => !done l } }
  launches.foldl (fun s l => match l.notify with
    | some (name, c) =>
      s.fly { id := 0, src := name, dst := name, die := 0, item := .launchDone l.num c l.core, after := l.after, scope := l.scope }
    | none => s) s

/-! ## Building messages at issue (12 R327 to R329; 02 R34, R36) -/

/-- Checks of R36 on word 2 and word 3. -/
def checkR36 (w2 w3 : Word) : Chk Unit := do
  need (decide (w2.toNat % 65536 < 0xFF00)) 3
  need (w2 &&& 0x0000000001000000 == 0 && w2 &&& 0x00000000001C0000 == 0) 3
  need (decide (w3.toNat < 2 ^ 32)) 3

/-- Word 2 as a message carries it: reserved flags zero, and phase 0 replaced by the sender's (02 R35, R61). -/
def wordTwo (w2 : Word) (phase : Half) : Word :=
  let v := w2 &&& ~~~0x00000000FEE00000
  if w2.extractLsb' 48 16 = 0 then (v &&& 0x0000FFFFFFFFFFFF) ||| (phase.zeroExtend 64 <<< 48) else v

/-- A message's payload words and their poison. -/
def Act.payload (a : Act) (m : Msg) : Msg :=
  { m with w4 := a.getO 4, w5 := a.getO 5, w6 := a.getO 6, w7 := a.getO 7, poison := a.op &&& 0xF0 }

/-- A message built from o0 and o2 to o7 (R327). -/
def Act.message (a : Act) : Chk Msg := do
  let dst ← a.ctlO 0
  let w2 ← a.ctlO 2
  let w3 ← a.ctlO 3
  need (nameKind dst != 3) 20
  checkR36 w2 w3
  .ok (a.payload { w0 := dst, w2 := wordTwo w2 (msgPhase a.msg), w3 := w3 })

/-- A reply's message: destination and tag of the message being handled (R328). -/
def Act.replyMessage (a : Act) : Chk Msg := do
  let w2 ← a.ctlO 2
  let w3 ← a.ctlO 3
  checkR36 w2 w3
  let tagged := (w2 &&& ~~~0x0000FFFF00000000) ||| (a.msg.w2 &&& 0x0000FFFF00000000)
  .ok (a.payload { w0 := a.msg.w1, w2 := wordTwo tagged (msgPhase a.msg), w3 := w3 })

/-! ## Releasing messages (02 R39, 05 R132, 18 R411) -/

/-- A package declared lost (19 R434). -/
def State.lostPackage (s : State) (p : Nat) : Bool := s.links.peers.any fun t => t.1 == p && t.2.2

/-- The package that holds the directory entry of a name's index: its home, or when that is lost the next (19 R435). -/
def State.homePackage (s : State) (n : Word) : Option Nat :=
  let l := Config.jobPackages (nameJob n)
  if l.isEmpty then none
  else
    let home := l.getD (nameIndex n % l.length) 0
    some (if s.lostPackage home then l.getD ((nameIndex n + 1) % l.length) 0 else home)

/-- What this package's shard has learnt of a name (19 R436). -/
def State.located (s : State) (n : Word) : Option Located :=
  s.dir.remote.find? fun t => t.job == nameJob n && t.index == nameIndex n

/-- A name that leads to another package: nothing here bears it, and it was last learnt to be there, or else its home lies there
(19 R435, R436). -/
def State.elsewhere (s : State) (n : Word) : Option Nat :=
  if nameJob n == 0 || nameKind n == 2 || (s.entryOf n).isSome || (s.poolOf n).isSome then none
  else match s.located n with
    | some t => some t.pkg
    | none => match s.homePackage n with
      | some p => if p == Config.packageNumber.toNat then none else some p
      | none => none

/-- Where a message from a sender goes on to: one that came from another package, for an actor that is not here, goes to the home
entry, and from there to where the actor is (19 R436). -/
def State.onward (s : State) (src dst : Word) : Option Nat :=
  (s.elsewhere dst).map fun p =>
    if (s.elsewhere src).isNone then p
    else match s.homePackage dst with
      | some h => if h == Config.packageNumber.toNat then p else h
      | none => p

/-- A message leaves for another package; behind those of its sender's package that are held until the old location has
confirmed (19 R436). -/
def State.sendAbroad (s : State) (src : Word) (pkg : Nat) (m : Msg) : State :=
  match s.located m.w0 with
  | some t =>
    if t.from_.isSome && (s.elsewhere src).isNone then
      let add (v : Located) : Located := if v.job == t.job && v.index == t.index then { v with held := v.held ++ [m] } else v
      { s with dir := { s.dir with remote := s.dir.remote.map add } }
    else s.transmit pkg (.messages [m])
  | none => s.transmit pkg (.messages [m])

/-- The shard learns where a name of a job's is now (19 R436): later messages are held if they went elsewhere before. -/
def State.learn (s : State) (n : Word) (pkg : Nat) : State :=
  if (s.elsewhere n).isNone && (s.entryOf n).isSome || !(Config.jobPackages (nameJob n)).contains pkg || pkg == Config.packageNumber.toNat ||
    (s.elsewhere n) == some pkg || s.lostPackage pkg then s
  else
    let old := s.located n
    let t : Located := { job := nameJob n, index := nameIndex n, pkg := pkg, from_ := s.elsewhere n, held := (old.map (·.held)).getD [] }
    { s with dir := { s.dir with remote := (s.dir.remote.filter fun v => !(v.job == t.job && v.index == t.index)) ++ [t] } }

/-- The old location has forwarded every earlier message: the held ones leave, in their order. -/
def State.confirm (s : State) (n : Word) : State :=
  match s.located n with
  | none => s
  | some t =>
    let clear (v : Located) : Located := if v.job == t.job && v.index == t.index then { v with from_ := none, held := [] } else v
    t.held.foldl (fun s m => s.transmit t.pkg (.messages [m])) { s with dir := { s.dir with remote := s.dir.remote.map clear } }

/-- Poison that would leave its containment domain with a message (18 R410, R411). -/
def State.crosses (s : State) (m : Msg) : Bool :=
  (m.poison != 0 || m.grant.any fun g => !g.poison.isEmpty) &&
  (isHostName m.w0 || (nameKind m.w0 == 2 && nameJob m.w0 == 0) || (s.elsewhere m.w0).isSome)

/-- A message released: word 1 filled, its phase opened, and on its way behind what its mask covers. -/
def State.releaseMsg (s : State) (a : Act) (m : Msg) (after : List Nat) (scope : Nat) : Chk State := do
  let m := { m with w1 := a.name }
  need (!s.crosses m) 10
  let (epoch, s) := s.openPhase (msgJob m) (msgPhase m)
  .ok (s.fly { id := 0, src := a.name, dst := m.w0, die := dieOf a.core, item := .msg { m with epoch := epoch }
               after := after, scope := scope, aid := a.aid })

/-- A scope wide enough that writes of the package are performed when a message may go to another package (05 R113). -/
def State.releaseScope (s : State) (dst : Word) (scope : Nat) : Nat :=
  if isHostName dst then max scope 6 else if (s.elsewhere dst).isSome then max scope 8 else scope

/-! ## Dependence slots (12 R333 to R336) -/

/-- A handle's slot: checked against the partition's range on that die. -/
def State.slotHandle (s : State) (h : Word) : Chk Nat := do
  need (decide (h.toNat < 2 ^ 18)) 3
  need ((s.part s.myPart).depends (h.toNat % 65536)) 20
  .ok h.toNat

/-- The partition whose dependence range holds a slot of a die (16 R370). -/
def State.slotOwner (s : State) (h : Nat) : Option Nat :=
  (List.range 48).find? fun p => (s.part p).state != 0 && (s.part p).depends (h % 65536)
def State.slot (s : State) (h : Nat) : DepSlot :=
  (s.dir.slots.find? fun d => d.die == h / 65536 && d.num == h % 65536).getD
    { die := h / 65536, num := h % 65536, owner := s.slotOwner h }
def State.setSlot (s : State) (v : DepSlot) : State :=
  let rest := s.dir.slots.filter fun d => !(d.die == v.die && d.num == v.num)
  { s with dir := { s.dir with slots := if v.count = 0 ∧ v.held = none then rest else rest ++ [v] } }

/-- A trigger releases the held message; the slot's count stands (R336). -/
def State.trigger (s : State) (h : Nat) : State :=
  let v := s.slot h
  match v.held with
  | none => s
  | some p =>
    (s.setSlot { v with held := none }).fly
      { id := 0, src := p.src, dst := p.msg.w0, die := p.die, item := .msg p.msg, after := p.after, scope := p.scope }

/-- A release places a message on its slot (R334). -/
def State.placeOnSlot (s : State) (a : Act) (m : Msg) (h : Nat) (after : List Nat) (scope : Nat) : Chk State := do
  let m := { m with w1 := a.name }
  let v := s.slot h
  need (v.held == none) 17
  need (!s.crosses m) 10
  let (epoch, s) := s.openPhase (msgJob m) (msgPhase m)
  .ok (s.setSlot { v with held := some { msg := { m with epoch := epoch }, src := a.name, die := dieOf a.core, after := after, scope := scope } })

/-- DEPSET's modification. -/
def State.depSet (s : State) (h : Nat) (n : Nat) : State :=
  let s := s.setSlot { s.slot h with count := n }
  if n = 0 then s.trigger h else s

/-- ROUTE's addition; a sum that overflows is refused. -/
def State.depAdd (s : State) (h : Nat) (n : Nat) : Chk State :=
  let v := s.slot h
  if v.count + n > 2 ^ 32 - 1 then kill 17
  else
    let t := s.setSlot { v with count := v.count + n }
    .ok (if v.count = 0 ∧ n = 0 then t.trigger h else t)

/-- A decrement; on a slot at zero it is logged and kills the decrementer (R336). -/
def State.depDec (s : State) (core : Nat) (h : Nat) : Chk State :=
  let v := s.slot h
  if v.count = 0 then
    .error (.kill 12 (some { die := v.die, cls := 6, unit := 8, location := location (v.die * 512), detail := BitVec.ofNat 32 h
                             reason := 12, part := (s.core core).part }))
  else
    let t := s.setSlot { v with count := v.count - 1 }
    .ok (if v.count = 1 then t.trigger h else t)

/-! ## Engine entries (05 R124, R127) -/

/-- An entry enters its queue: it waits for room, and is counted. -/
def State.enterQueue (s : State) (a : Act) (queue : Nat) (op : EOp) (post : Option Nat) (after : List Nat) (scope : Nat)
    (early : Bool) : Chk State := do
  await (s.room a.core queue)
  let tags := a.tagsFor op.counted
  s.awaitCounts tags
  let (id, s) := s.fresh
  let reads := tags.ranges.foldl (fun (m : BitVec 17) r => if r.1 then m else m ||| r.2) 0
  let acquires := a.acquires.filter fun q => a.came q.pos && q.mask &&& reads != 0
  .ok (s.enqueue a.core queue { id := id, aid := a.aid, actor := a.name, job := a.job, op := op, post := post, early := early
                                tags := tags, after := after, scope := scope, deadline := a.deadline, acquires := acquires })

/-! ## ROUTE (12 R340) -/

/-- A table pair: row, expert and weight. -/
structure RoutePair where
  row : Nat
  expert : Nat
  weight : Nat
  deriving DecidableEq, Repr

/-- The pairs of a gate table of `k` a row, as bytes and poison give them; unfilled places left out. -/
def routePairs (k rows : Nat) (bs : List Byte) : List RoutePair :=
  (List.range (rows * k)).filterMap fun i =>
    let w := leNat ((bs.drop (8 * i)).take 8)
    if w % 65536 = 0xFFFF then none else some { row := i / k, expert := w % 65536, weight := bits w 32 32 }

/-- The messages of a ROUTE with their lists: for each expert in ascending order, and each group of 128 pairs. -/
def routeLists (experts : Nat) (pairs : List RoutePair) : List (Nat × Nat × List RoutePair) :=
  (List.range experts).flatMap fun e =>
    let l := pairs.filter fun p => p.expert == e
    (List.range (ceilDiv l.length 128)).map fun t => (e, t, (l.drop (128 * t)).take 128)

/-- A list as its 1,024 bytes. -/
def routeBytes (l : List RoutePair) : List Byte :=
  let bs := l.flatMap fun p => leBytes 8 (p.weight * 2 ^ 32 + p.row)
  bs ++ List.replicate (1024 - bs.length) 0

/-- What a ROUTE's operands say (R339). -/
structure RouteOps where
  table : Nat
  experts : Nat
  k : Nat
  rows : Nat
  w2 : Word
  w3 : Word
  buffer : Nat
  pool : Word
  slot : Nat
  w6 : Word
  poison6 : Bool
  deriving DecidableEq, Repr

def routeOps (o0 o1 o2 o3 o4 o5 o6 o7 : Word) (poison6 : Bool) : RouteOps :=
  { table := o0.toNat, experts := bits o1.toNat 32 16 + 1, k := bits o1.toNat 16 3 + 1, rows := bits o1.toNat 0 16
    w2 := o2, w3 := o3, buffer := o4.toNat, pool := o5, slot := o6.toNat, w6 := o7, poison6 := poison6 }

/-- The message of one list (R340). -/
def routeMsg (r : RouteOps) (q : Nat) (e t : Nat) (l : List RoutePair) : Msg :=
  { w0 := r.pool + BitVec.ofNat 64 (e * 65536)
    w2 := r.w2 ||| 0x80000
    w3 := BitVec.ofNat 64 (r.w3.toNat % 2 ^ 32 + (r.slot % 65536 + 1) * 2 ^ 48)
    w4 := BitVec.ofNat 64 (r.buffer + 1024 * q)
    w5 := BitVec.ofNat 64 (e + l.length * 2 ^ 16 + t * 2 ^ 32 + r.slot / 65536 * 2 ^ 48)
    w6 := r.w6
    poison := if r.poison6 then 0x40 else 0 }

/-- The messages of a ROUTE, each with where its list is written and the list's bytes. -/
def RouteOps.sends (r : RouteOps) (pairs : List RoutePair) : List (Nat × List Byte × Msg) :=
  (routeLists r.experts pairs).zipIdx.map fun t =>
    (r.buffer + 1024 * t.2, routeBytes t.1.2.2, routeMsg r t.2 t.1.1 t.1.2.1 t.1.2.2)

/-- An entry of the expert residency table, and the entry of a job's expert id; an id without one kills with 20 (12 R338, 13
R345). -/
def State.expEntry (s : State) (n : Nat) : Option ExpEntry := s.exp.entries.find? fun e => e.num == n
def State.entryOfId (s : State) (job : Half) (id : Nat) : Chk ExpEntry :=
  match s.exp.ranges.find? fun r => r.1 == job with
  | none => kill 20
  | some (_, base, count) =>
    if id < count then
      match s.expEntry (base + id) with
      | some e => if e.valid && e.job == job then .ok e else kill 20
      | none => kill 20
    else kill 20

/-- A ROUTE begins: the table is read now, the count is added, and what is left to do is one effect for each list. -/
def State.routeBegin (s : State) (a : Act) (r : RouteOps) (mask : BitVec 17) (scope : Nat) :
    Chk (Nat × List Eff × State) := do
  let w := s.whoOf a
  let n := 8 * r.k * r.rows
  let (bs, poison) ← (if n = 0 then .ok ([], false) else do
    let va ← s.checkLocal w (BitVec.ofNat 64 r.table) n 32 .engineRead
    await ((a.acquires.filter fun q => a.came q.pos).all fun q => a.slotsFor va n &&& q.mask == 0)
    .ok (s.readPlain w.die (poolKey w.core (va % 2 ^ 48)) n))
  need (!poison) 10
  let pairs := routePairs r.k r.rows bs
  need (pairs.all fun p => decide (p.expert < r.experts)) 3
  pairs.forM fun p => do let _ ← s.entryOfId a.job p.expert; .ok ()
  let sends := r.sends pairs
  let s := if n = 0 then s else s.checkPool a.core
  let s ← (if a.run ≠ 0 then .ok s else s.depAdd r.slot sends.length)
  let effs := sends.map fun t => Eff.routeSend t.1 t.2.1 t.2.2 mask scope
  .ok (sends.length, if a.run ≠ 0 then [] else effs, s)

/-- One list of a ROUTE is written, and its message released after it and after the masked operations. -/
def State.routeSend (s : State) (a : Act) (va : Nat) (bs : List Byte) (m : Msg) (mask : BitVec 17) (scope : Nat) :
    Chk State := do
  let w := s.whoOf a
  let tags := a.tagsFor [(true, va, 1024)]
  s.awaitCounts tags
  s.awaitBoard w.core va 1024 s.env.nextId
  let masked := s.carries a mask (s.releaseScope m.w0 scope)
  let (p, s) ← s.translate w.die w.asid va .store w.service
  let before := s.env.nextId
  let s ← s.writePhys w p bs false tags
  let written := (List.range (s.env.nextId - before)).map fun k => 2 * (before + k)
  s.releaseMsg a m (masked ++ written) scope

/-! ## One effect (02 R47, 08 R191) -/

/-- A launch released (12 R330; 02 R63, R65): a grid with no points sends nothing and completes at once. -/
def State.releaseLaunch (s : State) (a : Act) (m : Msg) (grid : Word) (rec : Option (Word × Word × Word × Word))
    (after : List Nat) (scope : Nat) : Chk State := do
  let m := { m with w1 := a.name }
  let points := bits grid.toNat 0 16 * bits grid.toNat 16 16 * bits grid.toNat 32 16
  need (points == 0 || !s.crosses m) 10
  let used := (s.dir.launches.filter fun l => l.job == a.job).map (·.num.toNat)
  let (num, s) := s.freshRef used
  let r := rec.getD (0, 0, 0, 0)
  let notify := if r.2.2.2.getLsbD 0 then some (a.name, bits r.2.2.2.toNat 8 6) else none
  let l : Launch := { num := num, job := a.job, notify := notify, after := after, scope := scope, core := a.core }
  let s := { s with dir := { s.dir with launches := s.dir.launches ++ [l] } }
  if points = 0 then .ok s.settleLevels
  else
    let (epoch, s) := s.openPhase (msgJob m) (msgPhase m)
    .ok (s.fly { id := 0, src := a.name, dst := m.w0, die := dieOf a.core
                 item := .launch { m with epoch := epoch } grid r num 0, after := after, scope := scope, aid := a.aid })

/-- An addition to a counter, its masked operations performed (11 R307). -/
def State.effectCinc (s : State) (a : Act) (eff : Eff) (name : Option Word) (c : Nat) (v : Word32) (mask : BitVec 17)
    (scope : Nat) : Chk State :=
  match name with
  | none =>
    let after := (s.gates a ++ s.waitsFor a mask scope).filter fun i => !s.performed [i] scope
    if after.isEmpty then .ok (s.addCounter a.core c v) else .ok (s.defer (s.whoOf a) eff after scope {})
  | some n =>
    .ok (s.fly { id := 0, src := a.name, dst := n, die := dieOf a.core, item := .cinc c v
                 after := s.carries a mask (s.releaseScope n scope), scope := scope, aid := a.aid })

/-- A decrement, its masked operations performed at package scope at least (12 R335). -/
def State.effectDepdec (s : State) (a : Act) (h : Nat) (mask : BitVec 17) (scope : Nat) : Chk State :=
  let scope := max scope 5
  let after := (s.carries a mask scope).filter fun i => !s.performed [i] scope
  if after.isEmpty then s.depDec a.core h
  else .ok (s.defer (s.whoOf a) (.depdec h mask scope) after scope {})

/-- What an actor released in earlier activations and is still to leave comes before what it releases now (02 R39). -/
def State.awaitTails (s : State) (a : Act) : Chk Unit :=
  await !((s.wire.tails.takeWhile fun t => t.aid != a.aid).any fun t => t.act.name == a.name)
/-- A store of the activation that has been released and misses holds what is released after it (08 R191). -/
def State.awaitMissed (s : State) (a : Act) : Chk Unit := await !(s.wire.deferred.any fun d => d.who.aid == a.aid && d.ticket.isSome)

/-- What an entry with a guard mask waits for, as a release; one with none waits for nothing (05 R132). -/
def State.entryWaits (s : State) (a : Act) (mask : BitVec 17) (scope : Nat) : List Nat :=
  if mask = 0 then [] else s.gates a ++ s.waitsFor a mask scope

/-- The scope of an entry's release: what it names, or the smallest that holds its core and everything it reads and writes,
whichever is wider (05 R113, 11 R292). A gather's and a scatter's rows are not known yet: all of their tensor's pages count. -/
def State.entryScope (s : State) (a : Act) (op : EOp) (mask : BitVec 17) (scope : Nat) : Nat :=
  let w := s.whoOf a
  let pages (l : List Nat) : Nat := (l.map fun k => k / 65536).eraseDups.foldl (fun n p => s.scopeAt w (p * 65536) 1 n) scope
  if mask = 0 then scope
  else match op with
    | .push _ _ _ _ cores _ _ =>
      ((List.range 5).filter fun k => cores.getLsbD k).foldl (fun n k => max n (scopeBetween a.core (a.core / 8 * 8 + k))) scope
    | .gather t _ _ _ _ _ | .scatter t _ _ _ _ _ _ _ =>
      (blocks 65536 t.footprint.1 t.footprint.2).foldl (fun n p => s.scopeAt w (p * 65536) 1 n) scope
    | .tload _ _ _ _ | .tstore _ _ _ _ _ _ | .pushr _ _ _ _ _ =>
      pages ((op.pieces []).flatMap fun p => (op.sources [] p ++ op.targets p).map (32 * ·))
    | _ => scope

/-- What release fences and acquires do not hold: a recorded fence, and an entry with no guard mask (05 R129, R130). -/
def Eff.unfenced : Eff → Bool
  | .fence _ _ => true
  | .engine _ _ _ mask _ _ => mask == 0
  | _ => false

/-- An effect of an activation takes effect now (02 R47). The effects of a mirrored child's further runs go nowhere but to
their own scratchpad (03 R86). A ROUTE leaves the effects of its lists still to do. -/
def State.effect (s : State) (a : Act) (e : Eff) : Chk (List Eff × State) := do
  await (e.unfenced || s.fencesMet a)
  s.awaitTails a
  s.awaitMissed a
  if a.run ≠ 0 && !isLocal a.core e.span.1 then .ok ([], s)
  else match e with
    | .store va n v p => do let t ← s.effectStore a e va n v p 0 0; .ok ([], t)
    | .strl va n v p mask scope => do let t ← s.effectStore a e va n v p mask scope; .ok ([], t)
    | .amo va op narrow b c p order mask scope => do let t ← s.effectAmo a e va op narrow b c p order mask scope; .ok ([], t)
    | .send m _ mask scope => do
      let t ← s.releaseMsg a m (s.carries a mask (s.releaseScope m.w0 scope)) scope
      .ok ([], t)
    | .sendd m h mask scope => do
      let t ← s.placeOnSlot a m h (s.carries a mask (s.releaseScope m.w0 scope)) scope
      .ok ([], t)
    | .sendn m grid rec mask scope => do
      let t ← s.releaseLaunch a m grid rec (s.carries a mask (s.releaseScope m.w0 scope)) scope
      .ok ([], t)
    | .cinc name c v mask scope => do let t ← s.effectCinc a e name c v mask scope; .ok ([], t)
    | .route o0 o1 o2 o3 o4 o5 o6 o7 p6 mask scope => do
      let (_, l, t) ← s.routeBegin a (routeOps o0 o1 o2 o3 o4 o5 o6 o7 p6) mask scope
      .ok (l, t)
    | .routeSend va bs m mask scope => do let t ← s.routeSend a va bs m mask scope; .ok ([], t)
    | .engine queue op post mask scope _ => do
      let scope := s.entryScope a op mask scope
      let t ← s.enterQueue a queue op post (s.entryWaits a mask scope) scope false
      .ok ([], t)
    | .depdec h mask scope => do let t ← s.effectDepdec a h mask scope; .ok ([], t)
    | .fence _ _ => .ok ([], s)

/-! ## Releasing in program order -/

/-- An effect, or a recorded fence, has been released. -/
def Act.out (a : Act) : Act := { a with outs := a.outs + 1 }

/-- What an effect reached in the sequence of release makes those after it wait for: a fence, the activation's operations that it
covers (05 R135); an atomic that acquires, its event (05 R130, 08 R205). The atomic's number is the next. -/
def State.fenceOf (s : State) (a : Act) (e : Eff) : Act :=
  match e with
  | .amo _ _ _ _ _ _ order mask _ =>
    if order.getLsbD 0 && a.run == 0 then { a with acquires := a.acquires ++ [{ op := s.env.nextId, mask := mask, atomic := true }] } else a
  | .fence mask scope =>
    let after := s.waitsFor a mask scope
    if after.isEmpty then a else { a with fences := a.fences ++ [(after, scope)] }
  | _ => a

/-- Effects released in order: the state they leave, those still to do, and why the next one is not done. None of them
leaves effects of its own. -/
def State.releaseFlat (a : Act) : List Eff → State → State × List Eff × Option Stop
  | [], s => (s, [], none)
  | e :: es, s =>
    match s.effect a e with
    | .ok (_, t) => State.releaseFlat a es t
    | .error stop => (s, e :: es, some stop)

/-- The same for effects among which ROUTEs leave their lists' effects, which come next; and the activation with the
fences it has met, and the count of what it has released. -/
def State.releaseAll (a : Act) : List Eff → State → Act × State × List Eff × Option Stop
  | [], s => (a, s, [], none)
  | e :: es, s =>
    match s.effect a e with
    | .error stop => (a, s, e :: es, some stop)
    | .ok (more, t) =>
      match State.releaseFlat a more t with
      | (t, _, none) => State.releaseAll (s.fenceOf a e).out es t
      | (t, left, some stop) => ((s.fenceOf a e).out, t, left ++ es, some stop)

/-- The running activation releases what it has staged, as far as it goes now. -/
def State.releaseStaged (s : State) : State × Option Stop :=
  let (a, t, left, stop) := State.releaseAll s.act s.act.staged s
  (t.modAct fun u => { u with staged := left, fences := a.fences, outs := a.outs }, stop)

/-- The outcome of a release that has come as far as a state. -/
def finish (r : State × Option Stop) : Host.Outcome State Fault Refusal :=
  run r.1 (match r.2 with
    | none => .ok r.1
    | some e => .error e)

/-- An instruction of the staged class: before COMMIT its effect is staged, after it the effect takes place (12 R311). What
a ROUTE leaves to do after COMMIT stays in the staging buffer until it is done. -/
def State.issue (s : State) (e : Eff) : Chk State := do
  if s.act.committed then do
    let (more, t) ← s.effect s.act e
    .ok (t.modAct fun a => { a with staged := more })
  else do
    await (e.unfenced || s.fencesMet s.act)
    s.stage e

end Sys2Proof.Machine
end

