-- ==== Sys2Proof/Machine/Special.lean ====
section
/-! DEFINITION. Special registers and operand extensions: MFS, MTS, LOX, MOX (08 R214 to R218; 16 R369 to R372). -/

namespace Sys2Proof.Machine

/-- The E-stream has completed every instruction delivered to it (07 R169). A loop whose body is only partly captured has not
completed: an MFS or MTS reached there waits, with no end, which no rule says (assumption 112). -/
def ESeq.idle (q : ESeq) : Bool := q.pending.isEmpty && q.body.isEmpty && q.need == 0
def State.awaitE (s : State) : Chk Unit := await s.act.eseq.idle

/-- A region slot as rgn.i reads it (04 R90). -/
def Region.word (r : Region) : Word :=
  if r.state = .empty then 0
  else
    (if r.state = .owned then flagAt true 62 else flagAt true 63) ||| at_ r.cls 60 ||| flagAt r.w 59 ||| flagAt r.r 58 |||
    BitVec.ofNat 64 (r.size % 2 ^ 22 * 2 ^ 32) ||| BitVec.ofNat 64 (r.offset % 2 ^ 21)

/-- The core whose figures an activation reads: its own, or for a mirrored run the primary's (01 R18, 03 R85). -/
def State.coreOf (s : State) (a : Act) : Nat :=
  if a.run = 0 then a.core else ((s.dir.actors.find? fun t => t.name == a.name).map (·.core)).getD a.core
/-- The logical core an activation reads. -/
def State.lcoreOf (s : State) (a : Act) : Half := (s.core (s.coreOf a)).lcore
/-- A region slot as an activation reads it: its own, at the primary's offset (03 R85). -/
def State.regionRead (s : State) (a : Act) (i : Nat) : Region :=
  let r := vget (s.regionsOf a.name a.run a.core) i
  if a.run = 0 then r else { r with offset := (vget (s.regionsOf a.name 0 a.core) i).offset }

def State.seedOf (s : State) (j : Half) : Word := ((s.job? j).map (·.seed)).getD 0

/-- A launch's point or grid as id.grid and id.gdim read it (02 R63). -/
def threeHalves (z y x : Half) : Word := at_ z 32 ||| at_ y 16 ||| at_ x 0

/-- Clipped extents (02 R64), as words of the message's launch identity. -/
def launchWord (m : Msg) (f : LaunchId → Word) : Word := (m.launch.map f).getD 0

/-- An unprivileged special register (08 R215). -/
def State.readUser (s : State) (n : Nat) : Option Word :=
  let a := s.act
  match n with
  | 0x000 => some a.name
  | 0x001 => some (BitVec.ofNat 64 (a.seq % 2 ^ 44))
  | 0x002 => some (at_ (s.lcoreOf a) 0)
  | 0x004 => some (launchWord a.msg fun l => threeHalves l.z l.y l.x)
  | 0x005 => some (launchWord a.msg fun l => threeHalves l.gz l.gy l.gx)
  | 0x006 => some (launchWord a.msg (·.extM))
  | 0x007 => some (launchWord a.msg (·.extN))
  | 0x008 => some (launchWord a.msg (·.extK))
  | 0x009 => some (launchWord a.msg fun l => at_ l.num 0)
  | 0x00A => some (at_ (a.msg.w2.extractLsb' 48 16) 0)
  | 0x00B => some (at_ a.job 0)
  | 0x00C => some (BitVec.ofNat 64 (scratchUnits (s.coreOf a) (s.core (s.coreOf a)) * 256) ||| at_ (s.core (s.coreOf a)).word 0)
  | 0x010 => some (BitVec.ofNat 64 s.env.time)
  | 0x011 => some (s.seedOf a.job)
  | 0x012 => some (at_ a.fflags 0)
  | 0x013 => some (at_ a.frm 0)
  | 0x014 => some a.srctr
  | 0x015 => some (at_ a.tol 0)
  | _ => if 0x018 ≤ n ∧ n ≤ 0x01F then some (s.regionRead a (n - 0x018)).word else none

/-- The selected job's record. With jsel 0, its value at entry, no job is selected: the fields read zero and none can be written,
where the spec is silent (assumption 115). -/
def State.selectedJob (s : State) : Job := if s.act.jsel = 0 then { id := 0 } else (s.job? s.act.jsel).getD { id := s.act.jsel }

/-- A privileged special register (16 R370). -/
def State.readPrivileged (s : State) (n : Nat) : Option Word :=
  let p := s.part s.act.psel.toNat
  let j := s.selectedJob
  match n with
  | 0x800 => some (at_ s.act.psel 0)
  | 0x810 => some (at_ p.state 0)
  | 0x811 => some (at_ p.spans 0)
  | 0x812 => some (at_ p.asid 0)
  | 0x813 => some (at_ p.keys 0)
  | 0x814 => some (at_ p.dep 0)
  | 0x815 => some p.spill
  | 0x816 => some p.wt
  | 0x817 => some (at_ p.slack 0)
  | 0x818 => some (at_ p.margin 0)
  | 0x819 => some (at_ p.wdog 0)
  | 0x81A => some (at_ p.repl 0)
  | 0x81B => some (pagerName s.act.psel.toNat)
  | 0x81C => some (at_ p.replays 0)
  | 0x820 => some (at_ s.act.jsel 0)
  | 0x821 => some (flagAt j.valid 0 ||| flagAt j.diag 1 ||| BitVec.ofNat 64 (j.part * 256))
  | 0x822 => some j.seed
  | 0x823 => some j.monitor
  | 0x830 => some (at_ p.mchk 0)
  | _ => none

/-- Ranges `[a, a + n)` and `[b, b + m)` of numbers overlap. -/
def numsMeet (a n b m : Nat) : Bool := n != 0 && m != 0 && decide (a < b + m) && decide (b < a + n)

/-- A property that another partition that is not free must not have. -/
def State.noOther (s : State) (p : Nat) (clash : Part → Bool) : Bool :=
  (List.range 48).all fun q => q == p || (s.part q).state == 0 || !clash (s.part q)

/-- Committed activations, and waits that R451 bounds, of a partition that have run longer than its watchdog end at once
(02 R51, 16 R371). -/
def State.overdue (s : State) (p : Nat) : List Word :=
  let limit := (s.part p).wdog.toNat
  let late (since : Nat) : Bool := decide (since + limit < s.env.time)
  let ended (aid : Nat) : Bool := !s.allActs.any fun a => a.aid == aid
  let mine (job : Half) : Bool := s.partOfJob job == some p
  let acts := s.allActs.filter fun a => a.committed && late a.commitAt && mine a.job
  let entries := s.cores.flatMap fun c => (c.2.queues.toList.flatten).filter fun e =>
    mine e.job && e.waitSince.any late && ended e.aid && !s.mayGoOn c.1 e
  let tails := s.wire.tails.filter fun t => t.ticket.isSome && late t.since && mine t.act.job
  let deferred := s.wire.deferred.filter fun d => d.ticket.isSome && late d.since && mine (nameJob d.who.name) && ended d.who.aid
  (acts.map (·.name) ++ entries.map (·.actor) ++ tails.map (·.act.name) ++ deferred.map (·.who.name)).eraseDups

/-- A write of p.wdog (16 R371). -/
def State.setWatchdog (s : State) (p : Nat) (v : Word32) : State :=
  let s := s.modPart p fun t => { t with wdog := v }
  (s.overdue p).foldl (fun s n => s.killAnyway n 7) s

/-- Entries 0 and 1 of a new attestation record (18 R422): Keystone's digest, and that of the image that runs (20 R442, R445). -/
def Boot.measurements (b : Boot) : List (Nat × List Byte) := [(0, sized 32 Config.keystoneDigest), (1, sha256 b.image.1)]

/-- A write of j.ctl (16 R372). At the start of a job every dependence slot of its partition has count 0 and holds nothing
(12 R333, assumption 100). -/
def State.setJobCtl (s : State) (j : Half) (v : Word) : Chk State := do
  need (v &&& ~~~0x3F03#64 == 0) 3
  let valid := v.getLsbD 0
  let p := bits v.toNat 8 6
  let was := ((s.job? j).map (·.valid)).getD false
  if valid then
    need (decide (p < 48) && (s.part p).state == 1) 3
    need (was || decide ((s.parts.jobs.filter (·.valid)).length < 1024)) 17
  let s := s.modJob j fun t => { t with valid := valid, diag := v.getLsbD 1, part := p }
  if valid && !was then
    let part := s.part p
    let r : Attest := { job := j, part := p, asid := part.asid, keys := part.keys, start := s.env.time
                        entries := s.boot.measurements }
    .ok { s with key := { s.key with records := s.key.records ++ [r] }, dir := { s.dir with slots := s.dir.slots.filter fun d => !part.depends d.num } }
  else if was && !valid then
    -- pin counts are dropped when the job ends (12 R342)
    .ok { s with exp := { s.exp with entries := mapIf (fun e => e.job == j) (fun e => { e with pins := 0 }) s.exp.entries } }
  else .ok s

/-- An MTS of a privileged register (16 R369 to R372): what R370 does not allow kills with 3. -/
def State.writePrivileged (s : State) (n : Nat) (v : Word) : Chk State := do
  let p := s.act.psel.toNat
  let part := s.part p
  let free := part.state == 0
  let only (hi : Nat) : Chk Unit := need (decide (v.toNat < 2 ^ hi)) 3
  match n with
  | 0x800 => do need (decide (v.toNat ≤ 47)) 3; .ok (s.modAct fun a => { a with psel := v.setWidth 6 })
  | 0x811 => do
    only 48
    need (free && s.noOther p fun t => t.spans &&& v.setWidth 48 != 0) 3
    .ok (s.modPart p fun t => { t with spans := v.setWidth 48 })
  | 0x812 => do only 16; need free 3; .ok (s.modPart p fun t => { t with asid := v.setWidth 16 })
  | 0x813 => do
    only 16
    let first := bits v.toNat 0 8
    let count := bits v.toNat 8 8
    need (free && !(first == 0 && count != 0) &&
      s.noOther p fun t => numsMeet first count (bits t.keys.toNat 0 8) (bits t.keys.toNat 8 8)) 3
    .ok (s.modPart p fun t => { t with keys := v.setWidth 16 })
  | 0x814 => do
    only 32
    let first := bits v.toNat 0 16
    let count := bits v.toNat 16 16
    need (free && decide (first + count ≤ 65535) &&
      s.noOther p fun t => numsMeet first count (bits t.dep.toNat 0 16) (bits t.dep.toNat 16 16)) 3
    .ok (s.modPart p fun t => { t with dep := v.setWidth 32 })
  | 0x815 => do need (free && bits v.toNat 39 9 == 0) 3; .ok (s.modPart p fun t => { t with spill := v })
  | 0x816 => do need (free && bits v.toNat 39 9 == 0) 3; .ok (s.modPart p fun t => { t with wt := v })
  | 0x817 => do only 32; .ok (s.modPart p fun t => { t with slack := v.setWidth 32 })
  | 0x818 => do only 32; .ok (s.modPart p fun t => { t with margin := v.setWidth 32 })
  | 0x819 => do only 32; need (decide (1000 ≤ v.toNat)) 3; .ok (s.setWatchdog p (v.setWidth 32))
  | 0x81A => do only 32; .ok (s.modPart p fun t => { t with repl := v.setWidth 32 })
  | 0x820 => do only 16; need (v != 0) 3; .ok (s.modAct fun a => { a with jsel := v.setWidth 16 })
  | 0x821 => do need (s.act.jsel != 0) 3; s.setJobCtl s.act.jsel v
  | 0x822 => do need (s.act.jsel != 0) 3; .ok (s.modJob s.act.jsel fun j => { j with seed := v })
  | 0x823 => do
    need (s.act.jsel != 0 && (v == 0 || (nameKind v == 0 && nameJob v == s.act.jsel))) 3
    .ok (s.modJob s.act.jsel fun j => { j with monitor := v })
  | 0x830 => do only 2; .ok (s.modPart p fun t => { t with mchk := v.setWidth 2 })
  | _ => kill 3

/-- Registers that meet the E-stream (07 R169). -/
def meetsE (n : Nat) : Bool := n == 0x012 || n == 0x013 || n == 0x014

/-- An MTS of an unprivileged register: a read-only one kills with 19 (R214). -/
def State.writeUser (s : State) (n : Nat) (v : Word) : Chk State :=
  match n with
  | 0x012 => .ok (s.modAct fun a => { a with fflags := v.setWidth 5 })
  | 0x013 => do need (decide (bits v.toNat 0 3 ≤ 4)) 3; .ok (s.modAct fun a => { a with frm := v.setWidth 4 })
  | 0x015 => .ok (s.modAct fun a => { a with tol := v.setWidth 32 })
  | _ => if (s.readUser n).isSome then kill 19 else kill 3

/-- MFS (R214, R215; 16 R362, R370). -/
def execMfs (n : BitVec 12) (d : BitVec 5) (s : State) : Host.Outcome State Fault Refusal :=
  run s (do
    if 0x800 ≤ n.toNat then
      s.service
      match s.readPrivileged n.toNat with
      | some v => .ok (s.result 4 d v)
      | none => kill 3
    else
      if meetsE n.toNat then s.awaitE
      match s.readUser n.toNat with
      | some v => .ok (s.result 4 d v)
      | none => kill 3)

/-- MTS (R214, R215; 16 R369 to R372). A poisoned source kills. -/
def execMts (n : BitVec 12) (a : BitVec 5) (s : State) : Host.Outcome State Fault Refusal :=
  run s (do
    if 0x800 ≤ n.toNat then s.service
    let v ← s.act.ctlX a
    if 0x800 ≤ n.toNat then
      let s ← s.writePrivileged n.toNat v
      .ok (s.advance 4)
    else
      if meetsE n.toNat then s.awaitE
      let s ← s.writeUser n.toNat v
      .ok (s.advance 4))

/-- LOX (R214, R218). -/
def execLox (o : BitVec 3) (d : BitVec 5) (s : State) : Host.Outcome State Fault Refusal :=
  run s (.ok (s.result 4 d (s.act.getO o.toNat) (s.act.oPoison o.toNat)))

/-- MOX (R214, R218). A poisoned source kills (R192). -/
def execMox (o : BitVec 3) (a : BitVec 5) (s : State) : Host.Outcome State Fault Refusal :=
  run s (do
    let v ← s.act.ctlX a
    .ok ((s.modAct fun t => { t with o := vset t.o o.toNat v, op := t.op &&& ~~~(1#8 <<< o.toNat) }).advance 4))

/-! ## The writes as events of their own: Calico's running activation makes them (16 R371, R372) -/

/-- The activation that runs is at service level; without one such a write is not made (assumption 17). -/
def State.calico (s : State) : Bool := s.act.live && s.act.service

/-- JOB_CTL_WRITE (R372): the selected job's j.ctl is written. -/
def execJobCtlWrite (v : Word) (s : State) : Host.Outcome State Fault Refusal :=
  if s.calico then run s (s.writePrivileged 0x821 v) else .next s

/-- P_WDOG_WRITE (R371): the selected partition's p.wdog is written. -/
def execPWdogWrite (v : Word) (s : State) : Host.Outcome State Fault Refusal :=
  if s.calico then run s (s.writePrivileged 0x819 v) else .next s

end Sys2Proof.Machine
end

