-- ==== Sys2Proof/Machine/Release.lean ====
section
/-! DEFINITION. COMMIT, DONE and EXIT, atomics, the messages of the MSG group and the counters (02 R47 to R52; 08 R203; 11
R304 to R310; 12 R311, R319, R326 to R337). -/

namespace Sys2Proof.Machine

/-! ## Committing (02 R47 to R51, 12 R311, 03 R86) -/

/-- What a release's stop comes to, from the state the release has reached. -/
def State.stopped (t : State) : Option Stop → Chk State
  | none => .ok t
  | some (.kill r n) => .ok (t.raise r n)
  | some (.stall w) => .ok (t.modAct fun a => { a with wait := w })
  | some (.miss m) => .ok (t.missAct m)
  | some (.line l) => .ok (t.settleLine l)
  | some (.fault f) => .error (.fault f)
  | some (.refuse r) => .error (.refuse r)

/-- The words of an effect that a mirrored child's digest covers (03 R86): kind, destination, length and bytes (assumption
14). A staged engine entry's bytes are those its source holds at the release, wherever on the core its regions lie; a
staged ROUTE's are the lists and messages that its table gives then. -/
def effText (s : State) (core : Nat) : Eff → List Nat
  | .store va n v p => [1, va, n, v.toNat, p.toNat]
  | .strl va n v p _ _ => [2, va, n, v.toNat, p.toNat]
  | .amo va op narrow b c p _ _ _ => [3, va, op.toNat, narrow.toNat, b.toNat, c.toNat, p.toNat]
  | .send m _ _ _ => [4] ++ msgText m
  | .sendd m h _ _ => [5, h] ++ msgText m
  | .sendn m g r _ _ => [6, g.toNat] ++ msgText m ++ (match r with
      | some t => [t.1.toNat, t.2.1.toNat, t.2.2.1.toNat, t.2.2.2.toNat]
      | none => [])
  | .cinc n c v _ _ => [7, (n.map (·.toNat)).getD 0, c, v.toNat]
  | .route o0 o1 o2 o3 o4 o5 o6 o7 p6 _ _ =>
    let r := routeOps o0 o1 o2 o3 o4 o5 o6 o7 p6
    let bs := (s.readPlain (dieOf core) (poolKey core (r.table % 2 ^ 48)) (8 * r.k * r.rows)).1
    [8, r.slot] ++ (r.sends (routePairs r.k r.rows bs)).flatMap fun t => t.1 :: t.2.1.map (·.toNat) ++ msgText t.2.2
  | .engine q op post _ _ ranges =>
    [9, q] ++ [(post.map (· + 1)).getD 0] ++ opText op ++ ranges.flatMap fun r =>
      if r.1 then [r.2.1, r.2.2] else r.2.2 :: (s.readPlain (dieOf core) (poolKey core (r.2.1 % 2 ^ 24)) r.2.2).1.map (·.toNat)
  | .fence _ _ => [10]
  | .depdec h _ _ => [11, h]
  | .routeSend va bs m _ _ => [12, va] ++ bs.map (·.toNat) ++ msgText m
where
  /-- A message's words and the bytes of its grant. -/
  msgText (m : Msg) : List Nat :=
    [m.w0, m.w2, m.w3, m.w4, m.w5, m.w6, m.w7].map (·.toNat) ++ (m.grant.map fun g => g.bytes.map (·.toNat)).getD []
  /-- Where a staged engine entry writes and how it converts, beside its ranges. -/
  opText (op : EOp) : List Nat := match op with
    | .tstore t _ origin shape conv e =>
      [t.base, e.toNat] ++ origin.map (fun i => (i + 2 ^ 64).toNat) ++ shape ++ (conv.map fun c => [c.1, c.2]).getD []
    | .push port _ len off cores conv e => [port, len, off, cores.toNat, e.toNat] ++ (conv.map fun c => [c.1, c.2.1, c.2.2]).getD []
    | .pushr va _ len conv e => [va, len, e.toNat] ++ (conv.map fun c => [c.1, c.2.1, c.2.2]).getD []
    | .scatter t _ _ n t0 org conv e =>
      [t.base, n, t0, (org + 2 ^ 64).toNat, e.toNat] ++ (conv.map fun c => [c.1, c.2]).getD []
    | _ => []

/-- Whether the activation's actor is a mirrored child (03 R85). -/
def State.mirrored (s : State) (a : Act) : Bool := (s.mirrorOf a.name).isSome

/-- A run's digest over what it releases (03 R86). -/
def State.postDigest (s : State) (a : Act) : State :=
  let d := sha256 ((a.staged.flatMap (effText s a.core)).flatMap (leBytes 8))
  s.setDigest a.name a.run (some d)

/-- At its release, a run of a mirrored child waits until the runs' digests have been compared. -/
def State.awaitsDigest (s : State) : Bool := s.mirrored s.act && s.act.memo != .agreed

/-- The run that arrives holds what it has staged and stays pre-commit. -/
def State.holdForDigest (s : State) : State := (s.postDigest s.act).modAct fun a => { a with wait := .digest }

/-- From COMMIT on, an activation cannot be pre-empted, and the record of its postings is cleared (02 R50, R51). -/
def State.clearRecord (s : State) (aid : Nat) : State :=
  let fix (e : Entry) : Entry := if e.aid == aid then { e with early := false } else e
  let core (c : Core) : Core := { c with queues := c.queues.map fun q => q.map fix }
  { s with cores := s.cores.map fun c => (c.1, core c.2) }

def State.markCommitted (s : State) : State :=
  (s.clearRecord s.act.aid).modAct fun a =>
    { a with committed := true, commitAt := s.env.time, posts := [], memo := .none, wait := .none }

/-- Acting as a COMMIT, as far as the release goes now: the pc does not move. -/
def State.commitStep (s : State) : Chk State :=
  if !s.act.committed && s.awaitsDigest then .ok s.holdForDigest
  else
    let t := if s.act.committed then s else s.markCommitted
    let r := t.releaseStaged
    r.1.stopped r.2

/-- A commit is complete: nothing staged is left. -/
def Act.released (a : Act) : Bool := a.committed && a.staged.isEmpty

/-- An instruction of the commits class: it first acts as a COMMIT, in a step of its own, and then takes effect. -/
def State.commits (s : State) (f : State → Chk State) : Chk State := if s.act.released then f s else s.commitStep

/-- A meeting point with the E-stream at the end of a stretch (07 R169, 09 R238). -/
def State.meetE (s : State) : Chk Unit := do
  need (s.act.eseq.need == 0) 3
  s.awaitE

/-- COMMIT of `len` bytes (R47, R319). -/
def commitOp (len : Nat) (s : State) : Chk State := do
  s.meetE
  if s.act.released then .ok (s.advance len)
  else
    let t ← s.commitStep
    .ok (if t.act.released then t.advance len else t)

/-- COMMIT. -/
def execCommit (s : State) : Host.Outcome State Fault Refusal := run s (commitOp 4 s)

/-! ## Ending an activation (02 R52, R451; 12 R315, R319) -/

/-- Tiles and weight buffers of an activation that has ended are released once its entries are done (10 R265). -/
def State.releaseTiles (s : State) (aid : Nat) : State :=
  if (s.allActs.any fun a => a.aid == aid) || s.entries.any (fun e => e.aid == aid) then s else s.freeTiles fun a => a == aid

/-- What the completion of the activation's launch covers (12 R332). -/
def State.launchCovers (s : State) (a : Act) : State :=
  match a.msg.launch with
  | none => s
  | some i =>
    let add (l : Launch) : Launch := if l.num == i.num && l.job == msgJob a.msg then { l with after := l.after ++ s.covered a (BitVec.allOnes 17) } else l
    { s with dir := { s.dir with launches := s.dir.launches.map add } }

/-- The running activation ends and frees its slot; effects it could not yet release go on without it (R52, R191). -/
def State.endAct (s : State) (a : Act) (left : List Eff) : State :=
  let s := s.launchCovers a
  let tail : List Tail := if left.isEmpty then [] else [{ aid := a.aid, act := { a with staged := left }, ticket := none, since := s.env.time }]
  let late (e : Entry) : Entry := if e.aid == a.aid && e.waitSince.isSome then { e with waitSince := some s.env.time } else e
  let cores := s.cores.map fun c => (c.1, { c.2 with queues := c.2.queues.map fun q => q.map late })
  let blocked (d : Deferred) : Deferred := if d.who.aid == a.aid && d.ticket.isSome then { d with since := s.env.time } else d
  let s := { s with act := {}, cores := cores, wire := { s.wire with tails := s.wire.tails ++ tail, deferred := s.wire.deferred.map blocked } }
  ((s.clearRecord a.aid).releaseTiles a.aid).settleLevels

/-- The effects still staged are released, and the activation ends. A kill at release is a kill of a committed activation. -/
def State.releaseAndEnd (s : State) : Chk State :=
  if s.act.committed then .ok (s.endAct s.act s.act.staged)
  else
    let (a, t, left, stop) := State.releaseAll { s.act with committed := true } s.act.staged s
    match stop with
    | some (.kill r n) => .ok (t.raise r n)
    | some (.fault f) => .error (.fault f)
    | some (.refuse r) => .error (.refuse r)
    | _ => .ok (t.endAct a left)

/-- DONE (R52, R319): one of `len` bytes, though its length is of no account. -/
def doneOp (s : State) : Chk State := do
  s.meetE
  if !s.act.committed && s.awaitsDigest then .ok s.holdForDigest else s.releaseAndEnd

/-- DONE. -/
def execDone (s : State) : Host.Outcome State Fault Refusal := run s (doneOp s)

/-- An actor or pool begins to exit with reason 0: other activations of its name are discarded (02 R58, R66); entries and
effects that have been released go on. -/
def State.exitNormally (s : State) (name : Word) (aid : Nat) : State :=
  let others := (s.allActs.filter fun a => a.name == name && a.aid != aid).map (·.aid)
  let s := s.abandon fun e => others.contains e.aid
  let s := s.dropEntries fun e => others.contains e.aid
  let s := s.dropActs fun a => others.contains a.aid
  let s := (s.freeTiles others.contains).leaveTickets others.contains
  let s := s.modActor name fun a => { a with life := if a.life == .live then .exiting 0 else a.life }
  s.modPool name fun p => { p with life := if p.life == .live then .exiting 0 else p.life }

/-- A further run of a mirrored child reaches its EXIT with a reason: the child exits with it when the primary does, or when the
primary will not, since it holds a release that is never compared (assumption 108). -/
def State.exitsAlone (s : State) : Bool :=
  s.act.run == 0 || !s.allActs.any fun a => a.name == s.act.name && a.run == 0 && a.wait != .digest

/-- EXIT (R315). A mirrored child exits when its primary does (03 R86). -/
def execExit (a : BitVec 5) (s : State) : Host.Outcome State Fault Refusal :=
  run s (do
    let v ← s.act.ctlX a
    s.meetE
    if v = 0 then
      if !s.act.committed && s.awaitsDigest then .ok s.holdForDigest
      else if s.act.run ≠ 0 then stall
      else
        let name := s.act.name
        let aid := s.act.aid
        let t ← s.releaseAndEnd
        .ok (t.exitNormally name aid)
    else if !s.exitsAlone then stall
    else .ok (s.takeDown s.act.name (if v.toNat ≤ 20 then v.toNat else 1)))

/-! ## Atomics (08 R203 to R205) -/

/-- AMO_SWAP. -/
def execAmoSwap (w : BitVec 1) (sc : BitVec 4) (o : BitVec 2) (b a d : BitVec 5) (s : State) : Host.Outcome State Fault Refusal :=
  run s (amoOp 0 w sc o b a d State.commitStep s)
/-- AMO_ADD. -/
def execAmoAdd (w : BitVec 1) (sc : BitVec 4) (o : BitVec 2) (b a d : BitVec 5) (s : State) : Host.Outcome State Fault Refusal :=
  run s (amoOp 1 w sc o b a d State.commitStep s)
/-- AMO_AND. -/
def execAmoAnd (w : BitVec 1) (sc : BitVec 4) (o : BitVec 2) (b a d : BitVec 5) (s : State) : Host.Outcome State Fault Refusal :=
  run s (amoOp 2 w sc o b a d State.commitStep s)
/-- AMO_OR. -/
def execAmoOr (w : BitVec 1) (sc : BitVec 4) (o : BitVec 2) (b a d : BitVec 5) (s : State) : Host.Outcome State Fault Refusal :=
  run s (amoOp 3 w sc o b a d State.commitStep s)
/-- AMO_XOR. -/
def execAmoXor (w : BitVec 1) (sc : BitVec 4) (o : BitVec 2) (b a d : BitVec 5) (s : State) : Host.Outcome State Fault Refusal :=
  run s (amoOp 4 w sc o b a d State.commitStep s)
/-- AMO_MAX. -/
def execAmoMax (w : BitVec 1) (sc : BitVec 4) (o : BitVec 2) (b a d : BitVec 5) (s : State) : Host.Outcome State Fault Refusal :=
  run s (amoOp 5 w sc o b a d State.commitStep s)
/-- AMO_MIN. -/
def execAmoMin (w : BitVec 1) (sc : BitVec 4) (o : BitVec 2) (b a d : BitVec 5) (s : State) : Host.Outcome State Fault Refusal :=
  run s (amoOp 6 w sc o b a d State.commitStep s)
/-- AMO_CAS. -/
def execAmoCas (w : BitVec 1) (sc : BitVec 4) (o : BitVec 2) (b a d : BitVec 5) (s : State) : Host.Outcome State Fault Refusal :=
  run s (amoOp 7 w sc o b a d State.commitStep s)

/-! ## The MSG group (12 R326 to R331) -/

/-- A release scope and the mask register's guard mask: codes 11 to 15 are no scopes (05 R111). -/
def State.maskX (s : State) (sc : BitVec 4) (a : BitVec 5) : Chk (BitVec 17) := do
  need (decide (sc.toNat ≤ 10)) 3
  let v ← s.act.ctlX a
  maskOf v

/-- SEND of `len` bytes (R327). -/
def sendOp (sc : BitVec 4) (a : BitVec 5) (len : Nat) (s : State) : Chk State := do
  let mask ← s.maskX sc a
  let m ← s.act.message
  let t ← s.issue (.send m none mask sc.toNat)
  .ok (t.advance len)

/-- SEND. -/
def execSend (sc : BitVec 4) (a : BitVec 5) (s : State) : Host.Outcome State Fault Refusal := run s (sendOp sc a 4 s)

/-- REPLY (R328). -/
def execReply (sc : BitVec 4) (a : BitVec 5) (s : State) : Host.Outcome State Fault Refusal :=
  run s (do
    let mask ← s.maskX sc a
    let m ← s.act.replyMessage
    let t ← s.issue (.send m none mask sc.toNat)
    .ok (t.advance 4))

/-- A region slot of whoever runs, changed. -/
def State.modRegion (s : State) (a : Act) (i : Nat) (f : Region → Region) : State :=
  let on (v : Vector Region 8) : Vector Region 8 := vset v i (f (vget v i))
  let s := s.modActor a.name fun t =>
    if a.run = 0 then { t with regions := on t.regions }
    else { t with mirror := t.mirror.map fun m => if m.run == a.run then { m with regions := on m.regions } else m }
  s.modPool a.name fun p => { p with members := p.members.map fun m => if m.core == a.core then { m with regions := on m.regions } else m }

def State.myRegion (s : State) (i : Nat) : Region := vget (s.regionsOf s.act.name s.act.run s.act.core) i

/-- An entry of the core still writes bytes of its pool: by their addresses, through a port, or through type 4. A scatter that
has not read its list may. -/
def State.writesPool (s : State) (core off n : Nat) (e : Entry) : Bool :=
  let w : Who := { aid := e.aid, core := core, run := 0, name := e.actor, asid := s.asidOf e.job core, part := s.partOf e.job core }
  let lands (k : Nat) : Bool := (s.placeOf w (32 * k) 32).any fun q => overlaps q 32 (poolKey core off) n
  let onWay (f : Flight) : Bool := match f.item with
    | .pushrSector i c o _ _ _ _ => i == e.id && c == core && overlaps o 32 off n
    | _ => false
  e.writes (localVa off) n || s.wire.flights.any onWay ||
  (match e.op with
   | .push port _ len o cores conv _ => cores.getLsbD (core % 8) && (s.core core).ports.any fun p =>
       p.num == port && overlaps ((s.portRegion core p).offset + o) (delivered conv len) off n
   | .scatter _ _ _ _ _ _ _ _ => !e.started || e.left.any fun p => (e.op.targets p).any lands
   | _ => e.sectored && e.left.any fun p => (e.op.targets p).any lands)

/-- GIVE and RNEW wait for the core's entries that write the region (04 R94) and for the actor's own stores to it still to be
performed, and clear ports armed on it (11 R297). -/
def State.awaitRegion (s : State) (r : Region) : Chk Unit := do
  let core := s.act.core
  await !((s.queued core).any (s.writesPool core r.offset r.size))
  await ((s.ownEffects s.me).all fun t => t.1.any fun q => !overlaps q t.2.span.2 (poolKey core r.offset) r.size)
def State.dropRegionPorts (s : State) (i : Nat) : State :=
  s.modCore s.act.core fun c => { c with ports := c.ports.filter fun p => !(p.actor == s.act.name && p.region == i) }

/-- GIVE (R329): the region's bytes are captured at issue. -/
def execGive (sc : BitVec 4) (m : BitVec 3) (a : BitVec 5) (n : BitVec 3) (s : State) : Host.Outcome State Fault Refusal :=
  run s (do
    let mask ← s.maskX sc a
    let r := s.myRegion n.toNat
    need (r.state == .owned) 2
    let msg ← s.act.message
    s.awaitRegion r
    s.awaitFences
    s.awaitAcquires (localVa r.offset) r.size
    let bs := s.readPlain (dieOf s.act.core) (poolKey s.act.core r.offset) r.size
    let bad := (List.range (r.size / 32)).filter fun k => s.mem.poisonSectors.contains (poolKey s.act.core r.offset / 32 + k)
    let msg := { msg with w2 := msg.w2 ||| 0x40000, w3 := msg.w3 ||| BitVec.ofNat 64 ((m.toNat + 1) * 2 ^ 32)
                          grant := some { bytes := bs.1, poison := bad } }
    let s := ((s.checkPool s.act.core).modRegion s.act n.toNat fun r => { r with state := .given, renewed := false }).dropRegionPorts n.toNat
    let t ← s.issue (.send msg (some n.toNat) mask sc.toNat)
    .ok (t.advance 4))

/-- The launch record at the address a register names: four words in the local window (R331). -/
def State.launchRecord (s : State) (d : BitVec 5) : Chk (Option (Word × Word × Word × Word)) :=
  if d = 0 then .ok none
  else do
    let va ← s.act.ctlX d
    let a ← s.checkLocal s.me va 32 32 .load
    let off := a % 2 ^ 48
    s.awaitPorts s.act.core off 32
    s.awaitAcquires a 32
    let r := s.readPlain (dieOf s.act.core) (poolKey s.act.core off) 32
    need (!r.2) 10
    let w (i : Nat) : Word := BitVec.ofNat 64 (leNat ((r.1.drop (8 * i)).take 8))
    need (bits (w 1).toNat 32 32 == 0 && bits (w 2).toNat 48 16 == 0 && bits (w 3).toNat 14 50 == 0 && bits (w 3).toNat 1 7 == 0) 3
    .ok (some (w 0, w 1, w 2, w 3))

/-- SENDN (R330, R331). -/
def execSendn (sc : BitVec 4) (b a d : BitVec 5) (s : State) : Host.Outcome State Fault Refusal :=
  run s (do
    let mask ← s.maskX sc a
    let grid ← s.act.ctlX b
    need (decide (grid.toNat < 2 ^ 48)) 3
    let m ← s.act.message
    let points := bits grid.toNat 0 16 * bits grid.toNat 16 16 * bits grid.toNat 32 16
    need (nameKind m.w0 != 2) 3
    need (nameKind m.w0 != 0 || (nameInc m.w0 == 0 && decide (nameIndex m.w0 + points ≤ 2 ^ 30))) 3
    let rec ← s.launchRecord d
    let t ← s.issue (.sendn m grid rec mask sc.toNat)
    .ok (t.advance 4))

/-- SENDD (R334). -/
def execSendd (sc : BitVec 4) (b a : BitVec 5) (s : State) : Host.Outcome State Fault Refusal :=
  run s (do
    let mask ← s.maskX sc a
    let h ← s.act.ctlX b
    let m ← s.act.message
    let slot ← s.slotHandle h
    let m := { m with w2 := m.w2 ||| 0x80000, w3 := m.w3 ||| BitVec.ofNat 64 ((slot % 65536 + 1) * 2 ^ 48) }
    let t ← s.issue (.sendd m slot mask sc.toNat)
    .ok (t.advance 4))

/-- DEPSET (R335). -/
def execDepset (b a : BitVec 5) (s : State) : Host.Outcome State Fault Refusal :=
  run s (do
    let h ← s.act.ctlX a
    let v ← s.act.ctlX b
    let slot ← s.slotHandle h
    need (decide (v.toNat < 2 ^ 32)) 3
    s.commits fun s => s.once 4 0 fun s => do
      s.awaitFences
      .ok ((s.depSet slot v.toNat).advance 4))

/-- DEPDEC (R335). -/
def execDepdec (sc : BitVec 4) (b a : BitVec 5) (s : State) : Host.Outcome State Fault Refusal :=
  run s (do
    let mask ← s.maskX sc b
    let h ← s.act.ctlX a
    let slot ← s.slotHandle h
    s.commits fun s => do
      let t ← s.issue (.depdec slot mask sc.toNat)
      .ok (t.advance 4))

/-! ## Counters (11 R304 to R310) -/

/-- The counter a COUNTER form names: its d field and mod[4]. -/
def counterNo (h : BitVec 1) (c : BitVec 5) : Nat := c.toNat + 32 * h.toNat
/-- A 32-bit operand: the upper half must be zero. -/
def low32 (v : Word) : Chk Word32 := do need (decide (v.toNat < 2 ^ 32)) 3; .ok (v.setWidth 32)

/-- CSET (R306). -/
def execCset (h : BitVec 1) (a c : BitVec 5) (s : State) : Host.Outcome State Fault Refusal :=
  run s (do
    let v ← s.act.ctlX a
    let n ← low32 v
    .ok ((s.setCounter s.act.core (counterNo h c) n).advance 4))

/-- CRD (R306). The runs of a mirrored child read one value (03 R85). -/
def execCrd (h : BitVec 1) (d c : BitVec 5) (s : State) : Host.Outcome State Fault Refusal :=
  run s (s.once 4 d fun s => .ok (s.result 4 d (((s.core s.act.core).counter (counterNo h c)).zeroExtend 64)))

/-- A posting before COMMIT is recorded (02 R50). -/
def Act.record (a : Act) (n : Nat) (v : Word32) : Act := if a.committed then a else { a with posts := put 0 n (look 0 a.posts n + v) a.posts }

/-- CADDL (R306). -/
def execCaddl (h : BitVec 1) (a c : BitVec 5) (s : State) : Host.Outcome State Fault Refusal :=
  run s (do
    let v ← s.act.ctlX a
    let n ← low32 v
    let s := s.modAct fun t => t.record (counterNo h c) n
    .ok ((s.addCounter s.act.core (counterNo h c) n).advance 4))

/-- CINC of `len` bytes (R307). -/
def cincOp (n : Nat) (sc : BitVec 4) (b a : BitVec 5) (len : Nat) (s : State) : Chk State := do
  let mask ← s.maskX sc b
  let v ← s.act.ctlX a
  need (decide (v.toNat < 2 ^ 33)) 3
  let name ← (if v.getLsbD 32 then do
      let o ← s.act.ctlO 0
      need (nameKind o == 0) 20
      .ok (some o)
    else .ok none)
  let t ← s.issue (.cinc name n (v.setWidth 32) mask sc.toNat)
  .ok (t.advance len)

/-- CINC. -/
def execCinc (h : BitVec 1) (sc : BitVec 4) (b a c : BitVec 5) (s : State) : Host.Outcome State Fault Refusal :=
  run s (cincOp (counterNo h c) sc b a 4 s)

/-- WAITC of `len` bytes (R308): met by the counter's value, or by one it has held since the wait began. -/
def waitcOp (n : Nat) (sc : BitVec 4) (b a : BitVec 5) (len : Nat) (s : State) : Chk State := do
  let mask ← s.maskX sc b
  let v ← s.act.ctlX a
  let target ← low32 v
  if s.act.memo = .met ∨ reached ((s.core s.act.core).counter n) target then .ok ((s.modAct (·.acquired mask)).advance len)
  else .error (.stall (.counter n target))

/-- WAITC. -/
def execWaitc (h : BitVec 1) (sc : BitVec 4) (b a c : BitVec 5) (s : State) : Host.Outcome State Fault Refusal :=
  run s (waitcOp (counterNo h c) sc b a 4 s)

/-- When a WAITCT that waits expires. -/
def Act.waitLimit (a : Act) : Option Nat := match a.wait with
  | .counterLimit _ _ limit _ => some limit
  | _ => none

/-- WAITCT (R309). -/
def execWaitct (h : BitVec 1) (sc : BitVec 4) (d a c : BitVec 5) (s : State) : Host.Outcome State Fault Refusal :=
  run s (do
    need (decide (sc.toNat ≤ 10)) 3
    let m ← s.act.ctlO 7
    let mask ← maskOf m
    let v ← s.act.ctlX a
    let target : Word32 := v.setWidth 32
    let limit := s.act.waitLimit.getD (s.env.time + 256 * bits v.toNat 32 31)
    let n := counterNo h c
    if s.act.memo = .met ∨ (s.act.memo ≠ .expired ∧ s.env.time ≤ limit ∧ reached ((s.core s.act.core).counter n) target) then
      .ok ((s.modAct (·.acquired mask)).result 4 d 1)
    else if s.act.memo = .expired ∨ limit < s.env.time ∨ bits v.toNat 32 31 = 0 then
      if v.getLsbD 63 then kill 7 else .ok (s.result 4 d 0)
    else .error (.stall (.counterLimit n target limit (v.getLsbD 63))))

end Sys2Proof.Machine
end

