-- ==== Sys2Proof/Machine/Actors.lean ====
section
/-! DEFINITION. The ACTOR group but for placement (12 R314, R316, R318, R320 to R325): kills, links and monitors, timers,
levels, aliases, locations, launch shares and regions. -/

namespace Sys2Proof.Machine

/-! ## KILL (R314) -/

/-- KILL. The signal travels in the target's channel (02 R39). -/
def execKill (b a : BitVec 5) (s : State) : Host.Outcome State Fault Refusal :=
  run s (do
    let name ← s.act.ctlX a
    let v ← s.act.ctlX b
    let r := if 1 ≤ v.toNat ∧ v.toNat ≤ 20 then v.toNat else 1
    need (nameKind name != 2) 19
    need (nameKind name != 3) 20
    s.commits fun s => s.once 4 0 fun s => do
      s.awaitFences
      if sameIndex name s.act.name && incOk name (nameInc s.act.name) then .ok (s.killActor s.act.name r)
      else .ok ((s.fly { id := 0, src := s.act.name, dst := name, die := dieOf s.act.core, item := .kill r }).advance 4))

/-! ## Links and monitors (03 R68 to R71, 12 R316) -/

def State.linksOf (s : State) (n : Word) : List LinkEntry :=
  match s.poolOf n with
  | some p => p.links
  | none => ((s.dir.actors.find? fun a => a.name == n).map (·.links)).getD []
def State.modLinks (s : State) (n : Word) (f : List LinkEntry → List LinkEntry) : State :=
  (s.modActor n fun a => { a with links := f a.links }).modPool n fun p => { p with links := f p.links }

/-- The lowest free place of a table of 64. -/
def freeEntry (l : List LinkEntry) : Option Nat := (List.range 64).find? fun i => !l.any (·.num == i)
/-- An entry added at the lowest free place; the list keeps the order of places. -/
def addEntry (partner : Word) (ref : Word32) (t : LinkType) (l : List LinkEntry) : List LinkEntry :=
  match freeEntry l with
  | some i => (l.filter fun e => decide (e.num < i)) ++ [{ num := i, partner := partner, ref := ref, type := t }] ++
      l.filter fun e => decide (i < e.num)
  | none => l
def dropEntry (partner : Word) (t : LinkType) (ref : Option Word32) (l : List LinkEntry) : List LinkEntry :=
  l.filter fun e => !(e.partner == partner && e.type == t && (ref == none || ref == some e.ref))

/-- The NOACTOR of a LINK, MON or global CINC whose target does not resolve (03 R70, 11 R307). -/
def State.noTarget (s : State) (die : Nat) (who target : Word) : State := s.hardSend die (hwMsg who target 0xFF06 none 0 0 0)

/-- A name of a job that is live at another package, as that package's directory answers: the package, and the name with its
incarnation (19 R435, assumption 34). -/
def State.liveElsewhere (s : State) (n : Word) : Option (Nat × Word) :=
  let inc := Config.incElsewhere s.env.free n
  match s.elsewhere n with
  | some p => if !s.lostPackage p && inc != 0 && incOk n inc.toNat then some (p, (n &&& 0xFFFFFFFFFFFF0000) ||| inc.zeroExtend 64) else none
  | none => none

/-- A link target, with its table: of the issuer's job, or none that resolves. The index of a child that is being restarted, or
of a saved actor, resolves to no live actor (assumption 76). An actor of the job on another package has its table there
(assumption 34). -/
def State.linkTarget (s : State) (n : Word) : Option (Word × List LinkEntry) :=
  if nameJob n != s.act.job then none
  else match s.resolve n with
    | some a => some (a.name, a.links)
    | none => (s.liveElsewhere n).map fun t => (t.2, [])

/-- LINK. -/
def execLink (a : BitVec 5) (s : State) : Host.Outcome State Fault Refusal :=
  run s (do
    let n ← s.act.ctlX a
    need (nameKind n == 0) 3
    let me := s.act.name
    s.once 4 0 fun s => match s.linkTarget n with
    | none => .ok ((s.noTarget (dieOf s.act.core) me n).advance 4)
    | some (you, theirs) =>
      let mine := s.linksOf me
      if you == me || mine.any fun e => e.partner == you && e.type == .link then .ok (s.advance 4)
      else do
        need ((freeEntry mine).isSome && (freeEntry theirs).isSome) 17
        .ok (((s.modLinks me (addEntry you 0 .link)).modLinks you (addEntry me 0 .link)).advance 4))

/-- UNLINK. -/
def execUnlink (a : BitVec 5) (s : State) : Host.Outcome State Fault Refusal :=
  run s (do
    let n ← s.act.ctlX a
    need (nameKind n == 0) 3
    let me := s.act.name
    s.once 4 0 fun s => match (s.linksOf me).find? fun e => e.type == .link && sameIndex e.partner n && incOk n (nameInc e.partner) with
    | none => .ok (s.advance 4)
    | some e => .ok (((s.modLinks me (dropEntry e.partner .link none)).modLinks e.partner (dropEntry me .link none)).advance 4))

/-- MON. Of the issuer's own name it has no effect, and xd is 0, which the spec leaves open (assumption 109). -/
def execMon (a d : BitVec 5) (s : State) : Host.Outcome State Fault Refusal :=
  run s (do
    let n ← s.act.ctlX a
    need (nameKind n == 0) 3
    let me := s.act.name
    s.once 4 d fun s => match s.linkTarget n with
    | none => .ok ((s.noTarget (dieOf s.act.core) me n).result 4 d 0)
    | some (you, theirs) =>
      let mine := s.linksOf me
      if you == me then .ok (s.result 4 d 0)
      else
        match mine.find? fun e => e.partner == you && e.type == .monitor with
        | some e => .ok (s.result 4 d (e.ref.zeroExtend 64))
        | none => do
          need ((freeEntry mine).isSome && (freeEntry theirs).isSome) 17
          let (ref, s) := s.freshRef ((mine.filter fun e => e.type == .monitor).map fun e => e.ref.toNat)
          let s := (s.modLinks me (addEntry you ref .monitor)).modLinks you (addEntry me ref .monitored)
          .ok (s.result 4 d (ref.zeroExtend 64)))

/-- DEMON. -/
def execDemon (a : BitVec 5) (s : State) : Host.Outcome State Fault Refusal :=
  run s (do
    let v ← s.act.ctlX a
    let ref ← low32 v
    let me := s.act.name
    s.once 4 0 fun s => match (s.linksOf me).find? fun e => e.type == .monitor && e.ref == ref with
    | none => .ok (s.advance 4)
    | some e =>
      let s := (s.modLinks me (dropEntry e.partner .monitor (some ref))).modLinks e.partner (dropEntry me .monitored (some ref))
      .ok (s.advance 4))

/-- TRAPX. -/
def execTrapx (a : BitVec 5) (s : State) : Host.Outcome State Fault Refusal :=
  run s (do
    let v ← s.act.ctlX a
    need (decide (v.toNat ≤ 1)) 3
    let on := v == 1
    s.once 4 0 fun s =>
      .ok (((s.modActor s.act.name fun t => { t with trapx := on }).modPool s.act.name fun p => { p with trapx := on }).advance 4))

/-! ## Timers (R318) -/

def State.timersOf (s : State) (n : Word) : List Timer :=
  match s.poolOf n with
  | some p => p.timers
  | none => ((s.dir.actors.find? fun a => a.name == n).map (·.timers)).getD []
def State.modTimers (s : State) (n : Word) (f : List Timer → List Timer) : State :=
  (s.modActor n fun a => { a with timers := f a.timers }).modPool n fun p => { p with timers := f p.timers }

/-- The TIMEOUT message (02 R37). -/
def timeoutMsg (name : Word) (ref : Word32) (time : Nat) : Msg := hwMsg name name 0xFF04 none (ref.zeroExtend 64) (BitVec.ofNat 64 time) 0

/-- When a time word's timer fires: now, or later at a time of the time base. -/
def timerDue (v : Word) (time : Nat) : Option Nat :=
  if v.getLsbD 32 then
    let diff := v.setWidth 32 - unitsOf time
    if diff = 0 ∨ diff.msb then none else some ((time / 256 + diff.toNat) * 256)
  else if bits v.toNat 0 32 = 0 then none else some (time + 256 * bits v.toNat 0 32)

/-- TIMER. -/
def execTimer (a d : BitVec 5) (s : State) : Host.Outcome State Fault Refusal :=
  run s (do
    let v ← s.act.ctlX a
    need (decide (v.toNat < 2 ^ 33)) 3
    let me := s.act.name
    need (s.act.run != 0 || decide ((s.timersOf me).length < 16)) 17
    s.commits fun s => s.once 4 d fun s => do
      let (ref, s) := s.freshRef ((s.timersOf me).map fun t => t.ref.toNat)
      let s := match timerDue v s.env.time with
        | none => s.hardSend (dieOf s.act.core) (timeoutMsg me ref s.env.time)
        | some due => s.modTimers me fun l => l ++ [({ ref := ref, due := due } : Timer)]
      .ok (s.result 4 d (ref.zeroExtend 64)))

/-- TCAN. -/
def execTcan (a d : BitVec 5) (s : State) : Host.Outcome State Fault Refusal :=
  run s (do
    let v ← s.act.ctlX a
    let ref ← low32 v
    let me := s.act.name
    s.once 4 d fun s =>
      if (s.timersOf me).any fun t => t.ref == ref then
        .ok ((s.modTimers me fun l => l.filter fun t => t.ref != ref).result 4 d 1)
      else .ok (s.result 4 d 0))

/-! ## Levels (02 R60, R62; 12 R320, R321) -/

/-- The operand check of a level and its instance. -/
def checkLevel (level xa : Word) : Chk Unit := do
  need (decide (level.toNat ≤ 4)) 3
  match level.toNat with
  | 1 => need (decide (xa.toNat < 2 ^ 32)) 3
  | 3 => need (decide (xa.toNat < 2 ^ 16)) 3
  | _ => .ok ()

/-- Names below a supervisor: its children and theirs, to a depth. -/
def State.below (s : State) : Nat → List Word → List Word
  | 0, found => found
  | n + 1, found =>
    let next := (s.dir.actors.filter fun a => a.supervisor.any (fun p => found.contains p.1) && !found.contains a.name).map (·.name)
    if next.isEmpty then found else s.below n (found ++ next)
/-- The subtree that a supervisor names: the actors below it. -/
def State.subtree (s : State) (sup : Word) : List Word := (s.below s.dir.actors.length [sup]).drop 1

def isLive : Life → Bool
  | .live | .saved => true
  | _ => false

/-- Messages in the mailboxes of names, and held for them. -/
def State.queuedFor (s : State) (names : List Word) : Nat :=
  (s.dir.actors.filter fun a => names.contains a.name).foldl (fun n a => n + a.onCore.length + a.spill.length + a.held.length + a.again.length) 0

/-- The live supervisor, an actor or a pool, that names a graph, and its record. -/
def State.graphOf (s : State) (n : Word) : Option (Word × SupRec) :=
  match s.poolOf n with
  | some p => if isLive p.life && incOk n p.inc then p.record.map fun r => (p.name, r) else none
  | none => (s.resolve n).bind fun a => a.record.map fun r => (a.name, r)

/-- Released effects of an activation that are not yet performed (02 R60): its stores and atomics, its entries of the staged
class, and the messages and increments on their way. What a staged entry has under way is counted with it. -/
def State.unperformedOf (s : State) (aid : Nat) : Nat :=
  let released (e : Entry) : Bool := e.aid == aid && (match e.op with
    | .tstore _ _ _ _ _ _ | .push _ _ _ _ _ _ _ | .pushr _ _ _ _ _ | .scatter _ _ _ _ _ _ _ _ => true
    | _ => false)
  let onWay (f : Flight) : Bool := f.aid == aid && (match f.item with
    | .pushSector _ _ _ _ _ _ _ _ | .pushrSector _ _ _ _ _ _ _ => false
    | _ => true)
  let ops := ((s.mem.pending.filter fun w => w.aid == aid && w.stream.isNone).map fun w => w.tags.opOf w.id) ++
    ((s.wire.deferred.filter fun d => d.who.aid == aid).map fun d => d.tags.opOf d.id) ++
    ((s.links.remote.filter fun r => r.aid == aid && r.store && r.entry.isNone).map fun r => r.tags.opOf r.id) ++
    ((s.entries.filter released).map fun e => e.tags.opOf e.id)
  ops.eraseDups.length + (s.wire.flights.filter onWay).length

/-- Count, whether complete and whether closed (02 R60). -/
def State.level (s : State) (level : Nat) (xa : Word) : Nat × Bool × Bool :=
  let job := s.act.job
  match level with
  | 0 => (s.unperformedOf s.act.aid, false, false)
  | 1 =>
    if s.dir.launches.any fun l => l.job == job && l.num == xa.setWidth 32 then
      let n := s.launchCount job (xa.setWidth 32)
      (n, n == 0, true)
    else (0, true, true)
  | 2 =>
    match (if nameJob xa == job then s.graphOf xa else none) with
    | some (sup, r) =>
      let names := (s.subtree sup).filter fun n => s.dir.actors.any fun t => t.name == n && isLive t.life
      let n := names.length + s.queuedFor names
      (n, n == 0 && r.cut, false)
    | none => (0, true, true)
  | 3 =>
    match s.dir.phases.find? fun p => p.job == job && p.id == xa.setWidth 16 with
    | some p => (s.phaseCount job p.id, p.closed && s.phaseCount job p.id == 0, p.closed)
    | none =>
      let past := xa != 0 && (s.job? job).any fun j => j.lastPhase.any fun l => !laterPhase (xa.setWidth 16) l
      (0, past, past)
  | _ =>
    let actors := (s.dir.actors.filter fun a => a.job == job && isLive a.life).length + (s.dir.pools.filter fun p => p.job == job && isLive p.life).length
    let n := actors + (s.allMsgs.filter fun m => nameJob m.w0 == job).length + s.pointsLeft fun m _ => nameJob m.w0 == job
    (n, actors == 0 && n == 0, actors == 0)

/-- LVL. -/
def execLvl (b a d : BitVec 5) (s : State) : Host.Outcome State Fault Refusal :=
  run s (do
    let xa ← s.act.ctlX a
    let level ← s.act.ctlX b
    checkLevel level xa
    s.once 4 d fun s =>
      let s := s.settleLevels
      let (n, complete, closed) := s.level level.toNat xa
      .ok (s.result 4 d (BitVec.ofNat 64 (min n (2 ^ 32 - 1)) ||| flagAt complete 62 ||| flagAt closed 63)))

/-- A discarded message is answered with CANCELLED when its sender set NOTIFY_FAIL (02 R62): from
die 0, which the spec leaves open (assumption 105). -/
def State.cancelled (s : State) (code : Nat) (m : Msg) : State :=
  if msgFlag m 1 && !isHardware m then s.hardSend 0 (answerMsg m 0xFF08 (BitVec.ofNat 64 code)) else s

/-- The message of a launch's point (02 R63, R64). -/
def pointMsg (m : Msg) (grid : Word) (rec : Word × Word × Word × Word) (num : Word32) (dst : Word) (p : Nat) : Msg :=
  let gx := bits grid.toNat 0 16
  let gy := bits grid.toNat 16 16
  let gz := bits grid.toNat 32 16
  let x := p % gx
  let y := p / gx % gy
  let z := p / (gx * gy)
  let ext (e t c : Nat) : Word := BitVec.ofNat 64 (min t (e - c * t))
  let tiles := rec.2.2.1.toNat
  let id : LaunchId :=
    { num := num, x := BitVec.ofNat 16 x, y := BitVec.ofNat 16 y, z := BitVec.ofNat 16 z
      gx := BitVec.ofNat 16 gx, gy := BitVec.ofNat 16 gy, gz := BitVec.ofNat 16 gz
      extM := ext (bits rec.1.toNat 0 32) (bits tiles 0 16) x
      extN := ext (bits rec.1.toNat 32 32) (bits tiles 16 16) y
      extK := ext (bits rec.2.1.toNat 0 32) (bits tiles 32 16) z }
  { m with w0 := dst, launch := some id }

/-- The points of a launch that are still to arrive, as messages. -/
def Flight.points (f : Flight) : List Msg := match f.item with
  | .launch m grid rec num next =>
    (List.range (bits grid.toNat 0 16 * bits grid.toNat 16 16 * bits grid.toNat 32 16 - next)).map fun k =>
      let i := next + k
      pointMsg m grid rec num (if nameKind f.dst = 0 then f.dst + BitVec.ofNat 64 (i * 65536) else f.dst) i
  | _ => []

/-- Messages in mailboxes and held for actors that pass a test. -/
def Actor.queued (a : Actor) : List Msg := (a.onCore ++ a.spill ++ a.held ++ a.again).map (·.msg)
/-- An actor that keeps the messages that pass a test. -/
def Actor.keep (a : Actor) (p : QMsg → Bool) : Actor :=
  { a with onCore := a.onCore.filter p, spill := a.spill.filter p, held := a.held.filter p, rerun := a.rerun.filter fun t => p t.2 }

/-- The messages of actors' mailboxes, and those held for them, are discarded. -/
def State.discardOf (s : State) (names : List Word) (code : Nat) : State :=
  let mine (a : Actor) : Bool := names.contains a.name
  let gone := (s.dir.actors.filter mine).flatMap Actor.queued
  let t := { s with dir := { s.dir with actors := mapIf mine (fun a => a.keep fun _ => false) s.dir.actors } }
  gone.foldl (fun s m => s.cancelled code m) t

/-- Queued, held and undelivered messages that pass a test are discarded; slots keep their counts (12 R336). What the activations
`kept` have released and is on its way is delivered (02 R62). -/
def State.discard (s : State) (p : Msg → Bool) (kept : List Nat) (code : Nat) : State :=
  let gone := s.dir.actors.flatMap Actor.queued ++
    s.dir.pools.flatMap (fun q => (q.queues.flatMap fun v => v.msgs.map (·.msg)) ++ q.held.map (·.msg)) ++
    s.dir.slots.filterMap (fun d => d.held.map (·.msg)) ++
    s.exp.entries.flatMap (fun e => e.sets.toList.flatMap fun w => w.waiting.map fun q => q.msg) ++
    (s.wire.flights.filter fun f => !kept.contains f.aid).flatMap (fun f => match f.item with
      | .msg m => [m]
      | _ => f.points) ++
    s.parts.parts.toList.flatMap (·.hostSpill)
  let keep (q : QMsg) : Bool := !p q.msg
  let actors := s.dir.actors.map fun a => a.keep keep
  let pools := s.dir.pools.map fun q => { q with queues := (q.queues.map fun v => { v with msgs := v.msgs.filter keep }), held := q.held.filter keep }
  let slots := s.dir.slots.map fun d => if d.held.any fun t => p t.msg then { d with held := none } else d
  let entries := s.exp.entries.map fun e =>
    { e with sets := e.sets.map fun w => { w with waiting := w.waiting.filter keep } }
  let flights := s.wire.flights.filter fun f => kept.contains f.aid || (match f.item with
    | .msg m => !p m
    | .launch m _ _ num _ => !p { m with launch := some { (default : LaunchId) with num := num } }
    | _ => true)
  let parts := s.parts.parts.map fun t => { t with hostSpill := t.hostSpill.filter fun m => !p m }
  let t := { s with dir := { s.dir with actors := actors, pools := pools
                                        slots := slots.filter fun d => d.count != 0 || d.held.isSome }
                    exp := { s.exp with entries := entries }, wire := { s.wire with flights := flights }
                    parts := { s.parts with parts := parts } }
  (gone.filter p).foldl (fun s m => s.cancelled code m) t

/-- Names of the actors and pools that handle messages passing a test. -/
def State.handling (s : State) (p : Msg → Bool) : List Word :=
  ((s.allActs.filter fun a => p a.msg).map (·.name)).eraseDups

/-- CANCEL's effect on a level (R62): everything else first, the issuer last. A pool that a graph's name names is killed with
it (R58). A graph's messages are those of its actors (assumption 97). -/
def State.cancel (s : State) (level : Nat) (xa : Word) : State :=
  let me := s.act.name
  let job := s.act.job
  let runsOf (names : List Word) : List Nat := (s.allActs.filter fun a => names.contains a.name).map (·.aid)
  let killAll (s : State) (names : List Word) : State :=
    let s := (names.filter (· != me)).foldl (fun s n => s.killActor n 15) s
    if names.contains me then s.killActor me 15 else s
  match level with
  | 0 => s.killActor me 15
  | 1 =>
    let p := ofLaunch job (xa.setWidth 32)
    let names := s.handling p
    (killAll (s.discard p (runsOf names) 1) names).settleLevels
  | 2 =>
    if nameJob xa ≠ job then s
    else
      let pool := match s.poolOf xa with
        | some p => if isLive p.life && incOk xa p.inc then [p.name] else []
        | none => []
      let sup := (s.graphOf xa).map (·.1)
      let names := (sup.map s.subtree).getD []
      let s := s.discardOf names 2
      let cut (r : Option SupRec) : Option SupRec := r.map fun r => { r with cut := true }
      let s := match sup with
        | some n => (s.modActor n fun a => { a with record := cut a.record }).modPool n fun p => { p with record := cut p.record }
        | none => s
      (killAll s (names ++ pool)).settleLevels
  | 3 =>
    if xa = 0 then s
    else
      let p (m : Msg) : Bool := msgPhase m == xa.setWidth 16 && msgJob m == job
      let names := s.handling p
      let s := s.discard p (runsOf names) 3
      ((killAll s names).endPhases fun t => t.job == job && t.id == xa.setWidth 16).settleLevels
  | _ =>
    let names := (s.dir.actors.filter fun a => a.job == job && isLive a.life).map (·.name) ++
      (s.dir.pools.filter fun p => p.job == job && isLive p.life).map (·.name)
    (killAll (s.discard (fun m => nameJob m.w0 == job) (runsOf names) 4) names).settleLevels

/-- CANCEL. -/
def execCancel (b a : BitVec 5) (s : State) : Host.Outcome State Fault Refusal :=
  run s (do
    let xa ← s.act.ctlX a
    let level ← s.act.ctlX b
    checkLevel level xa
    s.commits fun s => s.once 4 0 fun s => do
      s.awaitFences
      let t := s.cancel level.toNat xa
      .ok (if t.act.live then t.advance 4 else t))

/-! ## NAMEREG, WHERE, PART, RNEW (R322 to R325) -/

/-- NAMEREG: a pool's activation binds the pool's index. Host aliases are permanently bound (19 R439), and job 0's kind 0b10 names are services. -/
def execNamereg (a d : BitVec 5) (s : State) : Host.Outcome State Fault Refusal :=
  run s (do
    let v ← s.act.ctlX a
    need (decide (v.toNat < 2 ^ 30)) 3
    s.commits fun s =>
      let me := if nameKind s.act.name = 1 then 2 ^ 30 + nameIndex s.act.name else nameIndex s.act.name
      match s.alias? s.act.job v.toNat with
      | some i => .ok (s.result 4 d (if i = me then 1 else 0))
      | none =>
        if 0x3FFFFFC0 ≤ v.toNat ∨ s.act.job = 0 then .ok (s.result 4 d 0)
        else .ok ({ s with dir := { s.dir with aliases := s.dir.aliases ++ [(s.act.job, v.toNat, me)] } }.result 4 d 1))

/-- The location word of an actor at another package, as its directory answers: the package's number, and a core that is free
(19 R436, assumption 34). -/
def State.locationElsewhere (s : State) (p : Nat) (n : Word) : Word :=
  let k := Config.coreElsewhere s.env.free n
  BitVec.ofNat 64 (p % 4096 * 2 ^ 20 + k % 4 * 2 ^ 18 + k / 4 % 48 * 2 ^ 12 + k / 192 % 5 * 2 ^ 9)

/-- WHERE. -/
def execWhereIs (a d : BitVec 5) (s : State) : Host.Outcome State Fault Refusal :=
  run s (do
    let n ← s.act.ctlX a
    let loc (core : Nat) : Word := (location core).zeroExtend 64
    if n = 0 then .ok (s.result 4 d (loc s.act.core))
    else match (if reachable s.act.job n then s.resolve n else none) with
      | some t => .ok (s.result 4 d (loc (if t.name = s.act.name then s.act.core else t.core)))
      | none => match (if nameKind n = 0 && nameJob n = s.act.job then s.liveElsewhere n else none) with
        | some t => .ok (s.result 4 d (s.locationElsewhere t.1 n))
        | none => .ok (s.result 4 d 0xFFFFFFFFFFFFFFFF))

/-- The start and the length of a point's share. -/
def partOp (e t c : Nat) : Word := BitVec.ofNat 64 (min t (e - c * t) * 2 ^ 32 + c * t % 2 ^ 32)

/-- PART. -/
def execPart (b a d : BitVec 5) (s : State) : Host.Outcome State Fault Refusal :=
  run s (do
    let e ← s.act.ctlX a
    let v ← s.act.ctlX b
    need (decide (e.toNat < 2 ^ 32) && decide (v.toNat < 2 ^ 18) && decide (bits v.toNat 16 2 ≠ 3)) 3
    let c : Half := match s.act.msg.launch with
      | none => 0
      | some l => if bits v.toNat 16 2 = 0 then l.x else if bits v.toNat 16 2 = 1 then l.y else l.z
    .ok (s.result 4 d (partOp e.toNat (bits v.toNat 0 16) c.toNat)))

/-- RNEW. -/
def execRnew (n : BitVec 3) (s : State) : Host.Outcome State Fault Refusal :=
  run s (do
    let r := s.myRegion n.toNat
    need (r.state != .empty) 2
    s.awaitRegion r
    let s := (s.zeroPool s.act.core r.offset r.size).dropRegionPorts n.toNat
    .ok ((s.modRegion s.act n.toNat fun r => { r with state := .owned, renewed := r.state == .given || r.renewed }).advance 4))

end Sys2Proof.Machine
end

