-- ==== Sys2Proof/Machine/Copy.lean ====
section
/-! DEFINITION. The COPY group at issue: tile moves, pushes, gathers, scatters and ports (11 R290 to R300). -/

namespace Sys2Proof.Machine

/-! ## The engine control word (R291) -/

structure EngineCtl where
  scope : Nat
  conv : Bool
  rm : Nat
  sfmt : Nat
  dfmt : Nat
  counter : Nat
  post : Bool
  deriving DecidableEq, Repr

def EngineCtl.ofWord (w : Word) : EngineCtl :=
  let v := w.toNat
  { scope := bits v 60 4, conv := w.getLsbD 47, rm := bits v 44 3, sfmt := bits v 35 5, dfmt := bits v 30 5
    counter := bits v 8 6, post := w.getLsbD 0 }

/-- The counter an entry posts to. -/
def EngineCtl.target (c : EngineCtl) : Option Nat := if c.post then some c.counter else none

/-- The checks of the control word. `mayConv` says whether the entry may convert on send, `named` whether dfmt names its
delivered format. -/
def engineCtl (mayConv named : Bool) (w : Word) : Chk EngineCtl := do
  let c := EngineCtl.ofWord w
  need (decide (c.scope ≤ 10) && bits w.toNat 48 12 == 0 && bits w.toNat 40 4 == 0 && bits w.toNat 14 16 == 0 && bits w.toNat 1 7 == 0) 3
  if c.conv then need (mayConv && decide (c.rm ≤ 3) && decide (c.sfmt ≤ 1) && (if named then decide (c.dfmt ≤ 9) else c.dfmt == 0)) 3
  else need (c.rm == 0 && c.sfmt == 0 && c.dfmt == 0) 3
  .ok c

/-! ## Issue (R292) -/

/-- A range of scratchpad that an entry names: its first byte's address as the operand gives it, its alignment, whether the
cluster window is admitted too, and the access. -/
structure PadUse where
  va : Nat
  n : Nat
  align : Nat := 32
  cluster : Bool := false
  acc : Access
  deriving DecidableEq, Repr

/-- A range of addresses that must be translated: a tensor's bytes, or PUSHR's destination. -/
structure FarUse where
  va : Nat
  n : Nat
  align : Nat := 1
  acc : Access := .engineWrite
  deriving DecidableEq, Repr

/-- No part of a range is in a window. -/
def FarUse.outside (r : FarUse) : Bool :=
  r.va / 2 ^ 48 != 0x70 && r.va / 2 ^ 48 != 0x71 &&
    (r.n == 0 || decide (r.va + r.n ≤ 0x70 * 2 ^ 48) || decide (0x72 * 2 ^ 48 ≤ r.va))

/-- Steps 1 to 4 of R103 over everything an entry names, each step over all of it before the next; an empty range takes the
first two alone. `dest` takes its window check with step 3 (R299), a tensor's base and footprint after step 4 (R292, assumption
102). -/
def State.checkUses (s : State) (pads : List PadUse) (dest tensors : List FarUse) : Chk Unit := do
  let w := s.me
  need (pads.all (fun r => decide (r.va < 2 ^ 55)) && (dest ++ tensors).all fun r => decide (r.va + r.n ≤ 2 ^ 55)) 20
  need (pads.all (fun r => r.va % r.align == 0) && (dest ++ tensors).all fun r => r.va % r.align == 0) 5
  let full := pads.filter fun r => r.n != 0
  need (dest.all FarUse.outside && full.all fun r => r.va / 2 ^ 48 == 0x70 || (r.cluster && r.va / 2 ^ 48 == 0x71)) 20
  let spots ← full.mapM fun r => do let p ← s.spot w.core r.va r.n; .ok (p, r.acc, r.n)
  let bases ← (tensors.filter fun r => r.n != 0).mapM fun r => do let p ← s.spot w.core r.va r.n; .ok (p, r.acc, r.n)
  (spots ++ bases).forM fun t => s.regionCheck w t.1 t.2.1 t.2.2
  need (tensors.all FarUse.outside) 20

/-- The handle a guard slot holds. -/
def State.handle (s : State) (slot : BitVec 4) : Chk Tensor :=
  match vget s.act.guards slot.toNat with
  | .handle t => .ok t
  | _ => kill 3

/-- The scratchpad side of an entry. -/
def padUse (va : Word) (n : Nat) (acc : Access) : List PadUse := [{ va := va.toNat, n := n, acc := acc }]
/-- The tensor side of a tile move: its base, the tile's bytes, and its scale array. -/
def tileUse (t : Tensor) (v : Tile5) (acc : Access) : List FarUse :=
  [{ va := t.base, n := 1, acc := acc }, { va := (t.tileRange v).1, n := (t.tileRange v).2, acc := acc }, { va := t.scale, n := 0, acc := acc }]
/-- The tensor side of a gather or scatter. -/
def rowsUse (t : Tensor) (acc : Access) : List FarUse :=
  [{ va := t.base, n := 1, acc := acc }, { va := t.footprint.1, n := t.footprint.2, acc := acc }]

/-- An unstaged entry enters its queue at issue, a staged one at its release. -/
def State.issueEntry (s : State) (staged : Bool) (queue : Nat) (op : EOp) (c : EngineCtl) (mask : BitVec 17) : Chk State :=
  if staged then s.issue (.engine queue op c.target mask c.scope op.ranges)
  else do
    if mask ≠ 0 then s.awaitFences
    let scope := s.entryScope s.act op mask c.scope
    s.enterQueue s.act queue op c.target (s.entryWaits s.act mask scope) scope (!s.act.committed)

/-- The rounding bit that e5inf gives a conversion, read at issue (R296). -/
def State.e5now (s : State) : Bool := s.act.frm.getLsbD 3

/-! ## Tiles (R293 to R295) -/

def signed32 (w : Word) (lo : Nat) : Int := (w.extractLsb' lo 32).toInt

/-- The tile that o0 to o3 name, checked against the tensor. -/
def Act.tile (a : Act) (t : Tensor) : Chk Tile5 := do
  let o0 ← a.ctlO 0
  let o1 ← a.ctlO 1
  let o2 ← a.ctlO 2
  let o3 ← a.ctlO 3
  let v := o3.toNat
  let tile : Tile5 :=
    { origin := [signed32 o0 0, signed32 o0 32, signed32 o1 0, signed32 o1 32, signed32 o2 0]
      shape := [bits v 0 16, bits v 16 12, bits v 28 12, bits v 40 12, bits v 52 12] }
  need (bits o2.toNat 32 32 == 0 && tile.shape.all (· != 0) && tile.t 0 * widthOf t.format % 8 == 0 &&
    (List.range 5).all fun k => k < t.rank || (tile.t k == 1 && tile.o k == 0)) 3
  if 10 ≤ t.format then
    let b := blockOf t.format
    need (tile.o 0 % b == 0 && decide (scaleBytes t.format * ceilDiv (tile.t 0) b ≤ 32)) 3
  .ok tile

/-- TLOAD. -/
def execTload (q : BitVec 2) (b a : BitVec 5) (d : BitVec 4) (s : State) : Host.Outcome State Fault Refusal :=
  run s (do
    let m ← s.act.ctlX b
    let mask ← maskOf m
    let va ← s.act.ctlX a
    let w ← s.act.ctlO 6
    let c ← engineCtl false false w
    let t ← s.handle d
    let v ← s.act.tile t
    s.checkUses (padUse va (tileSize t.format v) .engineWrite) [] (tileUse t v .engineRead)
    let s ← s.issueEntry false q.toNat (.tload t va.toNat v.origin v.shape) c mask
    .ok (s.advance 4))

/-- Bytes of a stored tile in scratchpad. -/
def storeBytes (t : Tensor) (v : Tile5) (c : EngineCtl) : Nat :=
  if c.conv then v.count * widthOf c.sfmt / 8 else tileSize t.format v

/-- TSTORE. -/
def execTstore (q : BitVec 2) (b a : BitVec 5) (d : BitVec 4) (s : State) : Host.Outcome State Fault Refusal :=
  run s (do
    let m ← s.act.ctlX b
    let mask ← maskOf m
    let va ← s.act.ctlX a
    let w ← s.act.ctlO 6
    let c ← engineCtl true false w
    let t ← s.handle d
    need (!c.conv || decide (t.format ≤ 9)) 3
    let v ← s.act.tile t
    s.checkUses (padUse va (storeBytes t v c) .engineRead) [] (tileUse t v .engineWrite)
    let conv := if c.conv then some (c.sfmt, c.rm) else none
    let s ← s.issueEntry true q.toNat (.tstore t va.toNat v.origin v.shape conv s.e5now) c mask
    .ok (s.advance 4))

/-! ## Pushes (R298, R299) -/

/-- The conversion of a push. -/
def EngineCtl.pushConv (c : EngineCtl) : Option (Nat × Nat × Nat) := if c.conv then some (c.sfmt, c.dfmt, c.rm) else none

/-- A push's source length, and the size it delivers. -/
def pushLength (c : EngineCtl) (len : Nat) : Chk Unit := do
  need (len % 32 == 0 && decide (32 ≤ len) && decide (len ≤ 2097152)) 3
  need (!c.conv || len * 8 / widthOf c.sfmt * widthOf c.dfmt / 8 % 32 == 0) 3

/-- PUSH. -/
def execPush (q : BitVec 3) (b a : BitVec 5) (d : BitVec 4) (s : State) : Host.Outcome State Fault Refusal :=
  run s (do
    let m ← s.act.ctlX b
    let mask ← maskOf m
    let va ← s.act.ctlX a
    let o0 ← s.act.ctlO 0
    let w ← s.act.ctlO 6
    let c ← engineCtl true true w
    let off := bits o0.toNat 32 24
    let len := bits o0.toNat 8 24
    need (bits o0.toNat 56 8 == 0 && bits o0.toNat 5 3 == 0 && bits o0.toNat 0 5 != 0) 3
    pushLength c len
    s.checkUses (padUse va len .engineRead) [{ va := off, n := 0, align := 32 }] []
    let s ← s.issueEntry true q.toNat (.push d.toNat va.toNat len off (o0.setWidth 5) c.pushConv s.e5now) c mask
    .ok (s.advance 4))

/-- PUSHR. -/
def execPushr (q : BitVec 3) (b a : BitVec 5) (s : State) : Host.Outcome State Fault Refusal :=
  run s (do
    let m ← s.act.ctlX b
    let mask ← maskOf m
    let va ← s.act.ctlX a
    let o0 ← s.act.ctlO 0
    let o1 ← s.act.ctlO 1
    let w ← s.act.ctlO 6
    let c ← engineCtl true true w
    let len := bits o1.toNat 0 32
    need (bits o1.toNat 32 32 == 0) 3
    pushLength c len
    let dst := o0.toNat
    s.checkUses (padUse va len .engineRead) [{ va := dst, n := delivered c.pushConv len, align := 32 }] []
    let s ← s.issueEntry true q.toNat (.pushr dst va.toNat len c.pushConv s.e5now) c mask
    .ok (s.advance 4))

/-! ## Gather and scatter (R300) -/

/-- What o0 to o2 name: the list, the rows, the row's elements and its origin. -/
structure RowOps where
  list : Word
  n : Nat
  t0 : Nat
  org : Int
  deriving DecidableEq, Repr

def Act.rows (a : Act) (t : Tensor) : Chk RowOps := do
  let o0 ← a.ctlO 0
  let o1 ← a.ctlO 1
  let o2 ← a.ctlO 2
  let r : RowOps := { list := o0, n := bits o1.toNat 0 16, t0 := bits o2.toNat 32 16, org := signed32 o2 0 }
  need (decide (o1.toNat < 2 ^ 16) && decide (o2.toNat < 2 ^ 48) && r.t0 != 0 && decide (t.format ≤ 9) &&
    r.t0 * widthOf t.format % 256 == 0) 3
  .ok r

/-- GATHER. -/
def execGather (b a : BitVec 5) (d : BitVec 4) (s : State) : Host.Outcome State Fault Refusal :=
  run s (do
    let m ← s.act.ctlX b
    let mask ← maskOf m
    let va ← s.act.ctlX a
    let w ← s.act.ctlO 6
    let c ← engineCtl false false w
    let t ← s.handle d
    let r ← s.act.rows t
    s.checkUses (padUse va (r.n * (r.t0 * widthOf t.format / 8)) .engineWrite ++ padUse r.list (4 * r.n) .engineRead) [] (rowsUse t .engineRead)
    let s ← s.issueEntry false 5 (.gather t va.toNat r.list.toNat r.n r.t0 r.org) c mask
    .ok (s.advance 4))

/-- SCATTER. -/
def execScatter (b a : BitVec 5) (d : BitVec 4) (s : State) : Host.Outcome State Fault Refusal :=
  run s (do
    let m ← s.act.ctlX b
    let mask ← maskOf m
    let va ← s.act.ctlX a
    let w ← s.act.ctlO 6
    let c ← engineCtl true false w
    let t ← s.handle d
    let r ← s.act.rows t
    let conv := if c.conv then some (c.sfmt, c.rm) else none
    s.checkUses (padUse va (r.n * (r.t0 * srcWidth t conv / 8)) .engineRead ++ padUse r.list (4 * r.n) .engineRead) [] (rowsUse t .engineWrite)
    let s ← s.issueEntry true 5 (.scatter t va.toNat r.list.toNat r.n r.t0 r.org conv s.e5now) c mask
    .ok (s.advance 4))

/-! ## Ports (R297) -/

def Core.port (c : Core) (n : Nat) : Option Port := c.ports.find? fun p => p.num == n
def Core.setPort (c : Core) (p : Port) : Core := { c with ports := (c.ports.filter fun q => q.num != p.num) ++ [p] }

/-- ARM. -/
def execArm (a : BitVec 5) (d : BitVec 4) (s : State) : Host.Outcome State Fault Refusal :=
  run s (do
    let v ← s.act.ctlX a
    need (bits v.toNat 14 18 == 0 && bits v.toNat 3 5 == 0) 3
    let region := bits v.toNat 0 3
    let r := s.myRegion region
    need (r.state == .owned && r.w) 2
    let c := s.core s.act.core
    need ((c.port d.toNat).all fun p => p.actor == s.act.name) 2
    let counter := bits v.toNat 8 6
    let p : Port := { num := d.toNat, actor := s.act.name, region := region, counter := counter
                      expected := c.counter counter + v.extractLsb' 32 32, aid := s.act.aid, run := s.act.run }
    .ok ((s.modCore s.act.core fun c => c.setPort p).advance 4))

/-- DISARM. -/
def execDisarm (d : BitVec 4) (s : State) : Host.Outcome State Fault Refusal :=
  run s (.ok ((s.modCore s.act.core fun c => { c with ports := c.ports.filter fun p => !(p.num == d.toNat && p.actor == s.act.name) }).advance 4))

end Sys2Proof.Machine
end

