-- ==== Sys2Proof/Machine/Fps.lean ====
section
/-! DEFINITION. Scalar floating point (08 R219 to R222; 06 R147 to R154). -/

namespace Sys2Proof.Machine

/-- The mode a rounding field selects under a mode register's field: 7 is the register's, 5 and 6 kill (06 R147). -/
def modeFor (dyn : BitVec 3) (r : BitVec 3) : Chk Nat :=
  if r = 7 then .ok dyn.toNat else if r.toNat ≤ 4 then .ok r.toNat else kill 3

/-- The random bits of the next draw of the running activation (06 R148). -/
def State.nextDraw (s : State) (k : Nat) : Nat :=
  drawAt (s.seedOf s.act.job) (s.lcoreOf s.act) (s.act.srctr + BitVec.ofNat 64 k)
/-- `n` draws taken under SR, none under another mode. -/
def State.drawn (s : State) (mode n : Nat) : State :=
  if mode = 4 then s.modAct fun a => { a with srctr := a.srctr + BitVec.ofNat 64 n } else s

def State.setFlags (s : State) (f : Flags) : State := s.modAct fun a => { a with fflags := a.fflags ||| f }

/-- The FP32 value in the low half of a register. -/
def Act.fpX (a : Act) (r : BitVec 5) : FV := val32 ((a.getX r).setWidth 32)

/-- A result of 32 bits, zero-extended, with its flags. -/
def State.fpResult (s : State) (d : BitVec 5) (v : Nat) (f : Flags) (poison : Bool) : State :=
  (s.setFlags f).result 4 d (BitVec.ofNat 64 (v % 2 ^ 32)) poison

/-- A form whose exact result, with the flags of its inputs, is rounded once to FP32. `x` says whether the mode is RDN. -/
def fpRound (r : BitVec 3) (d : BitVec 5) (poison : Bool) (s : State) (x : Bool → FV × Flags) : Chk State := do
  let mode ← modeFor (s.act.frm.setWidth 3) r
  let v := x (mode == 3)
  let c := round32 mode (s.nextDraw 0) v.1
  .ok ((s.drawn mode 1).fpResult d c.1 (v.2 ||| c.2) poison)

def Act.poison2 (x : Act) (a b : BitVec 5) : Bool := x.xPoison a || x.xPoison b

/-- FADD. -/
def execFadd (r : BitVec 3) (b a d : BitVec 5) (s : State) : Host.Outcome State Fault Refusal :=
  run s (fpRound r d (s.act.poison2 a b) s fun rdn => (s.act.fpX a).add rdn (s.act.fpX b))

/-- FSUB. -/
def execFsub (r : BitVec 3) (b a d : BitVec 5) (s : State) : Host.Outcome State Fault Refusal :=
  run s (fpRound r d (s.act.poison2 a b) s fun rdn => (s.act.fpX a).add rdn (s.act.fpX b).neg)

/-- FMUL. -/
def execFmul (r : BitVec 3) (b a d : BitVec 5) (s : State) : Host.Outcome State Fault Refusal :=
  run s (fpRound r d (s.act.poison2 a b) s fun _ => (s.act.fpX a).mul (s.act.fpX b))

/-- FDIV. -/
def execFdiv (r : BitVec 3) (b a d : BitVec 5) (s : State) : Host.Outcome State Fault Refusal :=
  run s (fpRound r d (s.act.poison2 a b) s fun _ => (s.act.fpX a).div (s.act.fpX b))

/-- FSQRT. -/
def execFsqrt (r : BitVec 3) (a d : BitVec 5) (s : State) : Host.Outcome State Fault Refusal :=
  run s (fpRound r d (s.act.xPoison a) s fun _ => (s.act.fpX a).sqrt)

/-- FFMA: one rounding; xd is a source too. -/
def execFfma (r : BitVec 3) (b a d : BitVec 5) (s : State) : Host.Outcome State Fault Refusal :=
  run s (fpRound r d (s.act.poison2 a b || s.act.xPoison d) s fun rdn => FV.fma rdn (s.act.fpX a) (s.act.fpX b) (s.act.fpX d))

/-- FMIN and FMAX (R221). -/
def fpMinMax (max : Bool) (b a d : BitVec 5) (s : State) : Chk State :=
  let v := fp32.minMax max ((s.act.getX a).toNat % 2 ^ 32) ((s.act.getX b).toNat % 2 ^ 32)
  .ok (s.fpResult d v.1 v.2 (s.act.poison2 a b))

/-- FMIN. -/
def execFmin (b a d : BitVec 5) (s : State) : Host.Outcome State Fault Refusal := run s (fpMinMax false b a d s)
/-- FMAX. -/
def execFmax (b a d : BitVec 5) (s : State) : Host.Outcome State Fault Refusal := run s (fpMinMax true b a d s)

/-- Less-than, less-or-equal and equality of values, false with a NaN, with the flags of R221 and 09 R247: the ordered
comparisons signal for every NaN, equality only for a signalling one. -/
def FV.lt (a b : FV) : Bool × Flags :=
  if a.isNan || b.isNan then (false, flagNV) else (decide (a.cmp b < 0), 0)
def FV.le (a b : FV) : Bool × Flags :=
  if a.isNan || b.isNan then (false, flagNV) else (decide (a.cmp b ≤ 0), 0)
def FV.eq (a b : FV) : Bool × Flags :=
  if a.isNan || b.isNan then (false, sigFlag [a, b]) else (a.cmp b == 0, 0)

def fpCompare (v : Bool × Flags) (b a d : BitVec 5) (s : State) : Chk State :=
  .ok (s.fpResult d v.1.toNat v.2 (s.act.poison2 a b))

/-- FCMPLT. -/
def execFcmplt (b a d : BitVec 5) (s : State) : Host.Outcome State Fault Refusal :=
  run s (fpCompare ((s.act.fpX a).lt (s.act.fpX b)) b a d s)
/-- FCMPEQ. -/
def execFcmpeq (b a d : BitVec 5) (s : State) : Host.Outcome State Fault Refusal :=
  run s (fpCompare ((s.act.fpX a).eq (s.act.fpX b)) b a d s)

/-- FCVTI (R222): saturating; a 32-bit signed result is sign-extended and an unsigned one zero-extended. -/
def execFcvti (w u : BitVec 1) (r : BitVec 3) (a d : BitVec 5) (s : State) : Host.Outcome State Fault Refusal :=
  run s (do
    let mode ← modeFor (s.act.frm.setWidth 3) r
    let n := if w = 1 then 32 else 64
    let v := (s.act.fpX a).toInt mode (s.nextDraw 0) (u == 0) n
    let word := if w = 1 ∧ u = 0 then sext 32 (wrapInt 32 v.1) else BitVec.ofNat 64 (wrapInt n v.1)
    .ok ((((s.drawn mode 1).setFlags v.2).result 4 d word (s.act.xPoison a))))

/-- FCVTF (R222). -/
def execFcvtf (w u : BitVec 1) (r : BitVec 3) (a d : BitVec 5) (s : State) : Host.Outcome State Fault Refusal :=
  run s (fpRound r d (s.act.xPoison a) s fun _ =>
    (FV.ofInt (intOf (u == 0) (if w = 1 then 32 else 64) (s.act.getX a).toNat), 0))

end Sys2Proof.Machine
end

