-- ==== Sys2Proof/Machine/Stream.lean ====
section
/-! DEFINITION. The two streams: delivery to the E-stream, the queues between them, and the affine streams (07 R167 to
R169; 09 R225 to R239, R244). -/

namespace Sys2Proof.Machine

/-! ## Delivery (07 R167, 09 R237, R238) -/

/-- The body length of a loop instruction. -/
def loopBody : Instr → Option Nat
  | .eloop _ m => some m.toNat
  | .eloopq _ m => some m.toNat
  | _ => none

/-- Decode delivers an instruction to the E-stream: the E-sequencer holds 16, and a loop inside a body is no
instruction. -/
def State.deliverE (s : State) (i : Instr) (len : Nat) : Chk State := do
  let q := s.act.eseq
  need (q.need == 0 || (loopBody i).isNone) 3
  await (decide (q.pending.length + q.body.length < 16))
  let q :=
    if q.begun then
      { q with body := if q.left = 0 then q.body else q.body ++ [i], need := q.need - 1, begun := decide (q.need ≠ 1) }
    else { q with pending := q.pending ++ [i], need := (loopBody i).getD (q.need - 1) }
  .ok ((s.modAct fun a => { a with eseq := q }).advance len)

/-- An E-stream instruction of `len` bytes. An idle E-stream executes it as it comes; one that is busy, or on which the
instruction waits, takes it to execute later, and the A-stream goes on. -/
def estream (i : Instr) (len : Nat) (f : State → Chk State) (s : State) : Chk State :=
  if s.act.eseq.idle then
    match f s with
    | .error (.stall _) => s.deliverE i len
    | .error (.line l) => (s.settleLine l).deliverE i len
    | .error e => .error e
    | .ok t => .ok (t.advance len)
  else s.deliverE i len

/-- The instruction the E-stream executes next. -/
def ESeq.next (q : ESeq) : Option Instr := if q.left ≠ 0 then q.body[q.index]? else q.pending.head?

/-- It has executed it. A body that is still coming in has more instructions than were delivered. -/
def ESeq.done (q : ESeq) : ESeq :=
  if q.left ≠ 0 then
    if q.index + 1 < q.body.length + (if q.begun then q.need else 0) then { q with index := q.index + 1 }
    else if q.left = 1 then { q with body := [], index := 0, left := 0 }
    else { q with index := 0, left := q.left - 1 }
  else { q with pending := q.pending.drop 1 }

/-- A loop begins, with what has come in of its body. -/
def ESeq.loop (q : ESeq) (m count : Nat) : ESeq :=
  let q := { q with begun := decide (q.pending.length < m + 1), pending := q.pending.drop (m + 1), body := (q.pending.drop 1).take m }
  if count = 0 then { q with body := [] } else { q with index := 0, left := count }

/-- A queue's oldest entry. -/
def Act.queue (a : Act) (n : Nat) : List QEntry := vget a.q n
def Act.setQueue (a : Act) (n : Nat) (l : List QEntry) : Act := { a with q := vset a.q n l }

/-- The loop at the head of what was delivered begins (R237): none when it has to wait. -/
def State.beginLoop (s : State) (i : Instr) : Option (Chk State) :=
  let q := s.act.eseq
  let go (s : State) (m count : Nat) : State := s.modAct fun a => { a with eseq := q.loop m count }
  match loopBody i with
  | none => none
  | some m =>
    match i with
      | .eloop n _ => some (.ok (go s m n.toNat))
      | .eloopq n _ =>
        match s.act.queue n.toNat with
        | [] => none
        | (v, poison) :: rest =>
          some (do
            need (!poison) 10
            .ok (go (s.modAct fun a => a.setQueue n.toNat rest) m v.toNat))
      | _ => none

/-- What a turn of the E-stream makes of the outcome of executing its next instruction in a state whose E-stream is idle:
the A-stream's part is as it was, and an instruction that was only delivered again has not been executed. -/
def State.afterE (s t : State) : State :=
  if t.act.live && t.act.aid == s.act.aid then
    let q := s.act.eseq
    let q := if t.act.eseq.pending.isEmpty then q.done else q
    t.modAct fun a => { a with pc := s.act.pc, wait := s.act.wait, memo := s.act.memo, issued := s.act.issued, eseq := q }
  else t

/-- The state in which the E-stream's next instruction is executed. -/
def State.forE (s : State) : State := s.modAct fun a => { a with eseq := {} }

/-! ## Queue moves (R225) -/

/-- QPUT of `len` bytes. -/
def qputOp (n : Nat) (a : BitVec 5) (len : Nat) (s : State) : Chk State := do
  let l := s.act.queue n
  await (decide (l.length < 8))
  .ok ((s.modAct fun t => t.setQueue n (l ++ [(s.act.getX a, s.act.xPoison a)])).advance len)

/-- QGET of `len` bytes. -/
def qgetOp (n : Nat) (d : BitVec 5) (len : Nat) (s : State) : Chk State :=
  match s.act.queue n with
  | [] => stall
  | (v, poison) :: rest => .ok ((s.modAct fun t => t.setQueue n rest).result len d v poison)

/-- QPUT. -/
def execQput (a : BitVec 5) (q : BitVec 2) (s : State) : Host.Outcome State Fault Refusal := run s (qputOp q.toNat a 4 s)
/-- QGET. -/
def execQget (q : BitVec 1) (d : BitVec 5) (s : State) : Host.Outcome State Fault Refusal := run s (qgetOp (4 + q.toNat) d 4 s)

/-! ## Streams (R226 to R229, R235) -/

/-- A stream's configuration as o0 to o3 hold it. -/
def streamOf (o0 o1 o2 o3 : Word) : Stream :=
  { configured := true, base := o0, stride2 := (o1.extractLsb' 32 32).toInt, stride1 := (o1.extractLsb' 0 32).toInt
    len := bits o2.toNat 32 24, n1 := bits o2.toNat 0 16, n2 := bits o2.toNat 16 16, again := o3.getLsbD 1, write := o3.getLsbD 0 }

/-- The bounding range, as the offset of its first byte from the local window's base and of the byte after its last. -/
def Stream.bounds (t : Stream) : Int × Int :=
  let span (n : Nat) (d : Int) : Int := ((n : Int) - 1) * d
  let off : Int := t.base.toNat % 2 ^ 48
  (off + min 0 (span t.n2 t.stride2) + min 0 (span t.n1 t.stride1),
   off + max 0 (span t.n2 t.stride2) + max 0 (span t.n1 t.stride1) + t.len)

def Stream.total (t : Stream) : Nat := t.n2 * t.n1 * ceilDiv t.len 128

/-- A beat's offset in the local window and its size (R228). -/
def Stream.beatAt (t : Stream) (b : Nat) : Nat × Nat :=
  let per := ceilDiv t.len 128
  let j := b % per
  let off : Int := t.base.toNat % 2 ^ 48
  ((off + (b / (per * t.n1) : Nat) * t.stride2 + (b / per % t.n1 : Nat) * t.stride1 + (128 * j : Nat)).toNat, min 128 (t.len - 128 * j))

def State.stream (s : State) (n : Nat) : Stream := vget s.act.streams n
def State.setStream (s : State) (n : Nat) (t : Stream) : State := s.modAct fun a => { a with streams := vset a.streams n t }

/-- The right a stream needs. -/
def Stream.access (t : Stream) : Access := if t.write then .store else .load

/-- SCFG (R226, R227). -/
def execScfg (n : BitVec 2) (s : State) : Host.Outcome State Fault Refusal :=
  run s (do
    let o0 ← s.act.ctlO 0
    let o1 ← s.act.ctlO 1
    let o2 ← s.act.ctlO 2
    let o3 ← s.act.ctlO 3
    let t := streamOf o0 o1 o2 o3
    need (decide (o0.toNat < 2 ^ 55) && decide (o2.toNat < 2 ^ 56) && decide (o3.toNat < 4) && t.len != 0 && t.n1 != 0 && t.n2 != 0) 3
    need (o0.toNat % 32 == 0 && t.stride1 % 32 == 0 && t.stride2 % 32 == 0 && t.len % 32 == 0) 5
    let r := t.bounds
    need (o0.toNat / 2 ^ 48 == 0x70 && decide (0 ≤ r.1) && decide (r.2 ≤ s.scratchBytes s.act.core)) 20
    need ((s.regionsOf s.act.name s.act.run s.act.core).toList.any fun g => g.allows t.access r.1.toNat (r.2 - r.1).toNat) 2
    .ok ((s.setStream n.toNat { t with bound := (s.stream n.toNat).bound }).advance 4))

/-- SBIND (R229). -/
def execSbind (n : BitVec 2) (s : State) : Host.Outcome State Fault Refusal :=
  run s (do
    let t := s.stream n.toNat
    need (t.bound || t.configured) 3
    .ok ((s.setStream n.toNat { t with bound := true }).advance 4))

/-- SUNB (R229): the register becomes an ordinary one that holds zero. -/
def execSunb (n : BitVec 2) (s : State) : Host.Outcome State Fault Refusal :=
  run s (
    let t := s.stream n.toNat
    if t.bound then
      let s := s.setStream n.toNat { t with bound := false }
      .ok ((s.modAct fun a => { a with e := vset a.e (28 + n.toNat) 0, ep := vset a.ep (28 + n.toNat) 0 }).advance 4)
    else .ok (s.advance 4))

/-- SWAIT (R233): until the pushes of the stream that have been made are performed. -/
def execSwait (n : BitVec 2) (s : State) : Host.Outcome State Fault Refusal :=
  run s (do
    let t := s.stream n.toNat
    await (!(t.configured && t.write) || !(s.mem.pending.any fun w => w.aid == s.act.aid && w.stream == some n.toNat))
    .ok (s.advance 4))

/-! ## Pops and pushes (R230 to R233) -/

/-- The stream bound to an e register. -/
def State.boundTo (s : State) (r : Nat) : Option (Nat × Stream) :=
  if 28 ≤ r then let t := s.stream (r - 28); if t.bound then some (r - 28, t) else none else none

/-- A stream's next beat: an exhausted stream kills (R228), and so does a region that is gone (R231). -/
def State.nextBeat (s : State) (n : Nat) (t : Stream) : Chk (Nat × Nat × State) := do
  need (t.again || decide (t.beat < t.total)) 20
  let b := t.beat % t.total
  let r := t.beatAt b
  need ((s.regionsOf s.act.name s.act.run s.act.core).toList.any fun g => g.allows t.access r.1 r.2) 2
  .ok (r.1, r.2, s.setStream n { t with beat := b + 1 })

/-- A row from bytes, zero above them. -/
def rowOf (bs : List Byte) : ERow := BitVec.ofNat 1024 (leNat bs)

/-- A pop: the beat's bytes, and the poison of its lanes. -/
def State.popBeat (s : State) (n : Nat) (t : Stream) : Chk ((ERow × BitVec 32) × State) := do
  let (off, size, s) ← s.nextBeat n t
  let core := s.act.core
  s.awaitPorts core off size
  s.awaitAcquires (localVa off) size
  s.awaitPushes s.me (poolKey core off) size
  s.awaitOwn s.me (poolKey core off) size
  let sectors := (List.range (size / 32)).map fun k =>
    let r := s.readPlain (dieOf core) (poolKey core (off + 32 * k)) 32
    s.overlayOwn s.me (localVa (off + 32 * k)) (poolKey core (off + 32 * k)) r.1 r.2
  let poison := sectors.zipIdx.foldl (fun (p : BitVec 32) c => if c.1.2 then p ||| (0xFF#32 <<< (8 * c.2)) else p) 0
  .ok ((rowOf (sectors.flatMap (·.1)), poison), s.checkPool core)

/-- Bytes of a row from `lo`. -/
def rowBytes (v : ERow) (lo n : Nat) : List Byte := leBytes n (bits v.toNat (8 * lo) (8 * n))

/-- A push: the unmasked bytes of the beat, sector by sector in order. The last sector's write counts for the beat. -/
def State.pushBeat (s : State) (n : Nat) (t : Stream) (v : ERow) (poison : BitVec 32) (mask : PRow) : Chk State := do
  let (off, size, s) ← s.nextBeat n t
  let core := s.act.core
  let tags := s.act.tagsFor [(true, localVa off, size)]
  s.awaitCounts tags
  s.awaitBoard core (localVa off) size s.env.nextId
  let sectors := size / 32
  .ok ((List.range sectors).foldl (fun s k =>
    let (id, s) := s.fresh
    let w : PendWrite :=
      { id := id, aid := s.act.aid, core := core, actor := s.act.name, asid := s.myAsid, va := localVa (off + 32 * k), addr := poolKey core (off + 32 * k)
        bytes := rowBytes v (32 * k) 32, poison := bits poison.toNat (8 * k) 8 != 0, key := 0, die := dieOf core, home := dieOf core
        replicas := none, stamp := [], applied := [], tags := if k + 1 = sectors then tags else { aid := s.act.aid }
        stream := some n, mask := (List.range 32).map fun i => mask.getLsbD (32 * k + i) }
    { s with mem := { s.mem with pending := s.mem.pending ++ [w] } }) s)

/-! ## Operands of the E-stream (R230, R241) -/

/-- Whether the registers an instruction names may be bound as they are: sources to read streams, destinations to write
streams. -/
def State.checkBound (s : State) (srcs dsts : List Nat) : Chk Unit := do
  need (srcs.all fun r => (s.boundTo r).all fun t => !t.2.write) 3
  need (dsts.all fun r => (s.boundTo r).all fun t => t.2.write) 3

/-- What source registers hold: those bound to a stream are popped, each once, in ascending number. -/
def State.popAll : List Nat → State → Chk (List (Nat × ERow × BitVec 32) × State)
  | [], s => .ok ([], s)
  | r :: l, s => do
    let (v, s) ← (match s.boundTo r with
      | some (n, t) => s.popBeat n t
      | none => .ok ((vget s.act.e r, vget s.act.ep r), s))
    let (rest, s) ← State.popAll l s
    .ok ((r, v) :: rest, s)

/-- The sources of an instruction, once each, after the check of what is bound. -/
def State.sources (s : State) (srcs dsts : List Nat) : Chk (List (Nat × ERow × BitVec 32) × State) := do
  s.checkBound srcs dsts
  State.popAll (srcs.foldr insertNat []) s

/-- What a source held. -/
def valueOf (l : List (Nat × ERow × BitVec 32)) (r : Nat) : ERow := ((l.find? fun t => t.1 == r).map (·.2.1)).getD 0
def poisonOf (l : List (Nat × ERow × BitVec 32)) (r : Nat) : BitVec 32 := ((l.find? fun t => t.1 == r).map (·.2.2)).getD 0

/-- A destination register takes the bytes of a mask: or a bound write stream is pushed. Lanes keep the poison of bytes
that they keep, and take the poison given: that of a poisoned mask bit also where no byte is taken. -/
def State.writeRow (s : State) (d : Nat) (v : ERow) (poison : BitVec 32) (mask : PRow) : Chk State :=
  match s.boundTo d with
  | some (n, t) => s.pushBeat n t v poison mask
  | none =>
    let old := vget s.act.e d
    let oldp := vget s.act.ep d
    let bitsOf (m : PRow) : Nat := leNat ((List.range 128).map fun i => if m.getLsbD i then (0xFF : Byte) else 0)
    let m : ERow := BitVec.ofNat 1024 (bitsOf mask)
    let kept (i : Nat) : Bool := (mask >>> (4 * i)).toNat % 16 != 15
    let lanes := (List.range 32).foldl (fun (p : BitVec 32) i =>
      if poison.getLsbD i || (kept i && oldp.getLsbD i) then p ||| (1#32 <<< i) else p) 0
    .ok (s.modAct fun a => { a with e := vset a.e d ((v &&& m) ||| (old &&& ~~~m)), ep := vset a.ep d lanes })

/-- Flags that an E-stream instruction sets, in fflags and in the E-flags (R239, R243). -/
def State.setEFlags (s : State) (f : Flags) : State :=
  s.modAct fun a => { a with fflags := a.fflags ||| f, eflags := a.eflags ||| f }

/-- The rounding mode of the E-stream for a rounding field, and its e5inf (R239). -/
def Act.eMode (a : Act) (r : BitVec 3) : Chk Nat :=
  modeFor (match a.erm with
    | some (m, _) => m
    | none => a.frm.setWidth 3) r
def Act.e5inf (a : Act) : Bool := match a.erm with
  | some (_, e) => e
  | none => a.frm.getLsbD 3

/-! ## ESEQ (R236, R239) -/

/-- ELOOP. -/
def execEloop (n : BitVec 11) (m : BitVec 5) (s : State) : Host.Outcome State Fault Refusal := run s (s.deliverE (.eloop n m) 4)
/-- ELOOPQ. -/
def execEloopq (q : BitVec 2) (m : BitVec 5) (s : State) : Host.Outcome State Fault Refusal := run s (s.deliverE (.eloopq q m) 4)

/-- EFLAGS. -/
def execEflags (k : BitVec 5) (q : BitVec 1) (s : State) : Host.Outcome State Fault Refusal :=
  run s (estream (.eflags k q) 4 (fun s => do
    let l := s.act.queue (4 + q.toNat)
    await (decide (l.length < 8))
    .ok (s.modAct fun a =>
      { a.setQueue (4 + q.toNat) (l ++ [(a.eflags.zeroExtend 64, false)]) with eflags := a.eflags &&& ~~~k })) s)

/-- ERM. -/
def execErm (e : BitVec 1) (r : BitVec 3) (s : State) : Host.Outcome State Fault Refusal :=
  run s (estream (.erm e r) 4 (fun s => .ok (s.modAct fun a => { a with erm := if r = 7 then none else some (r, e == 1) })) s)

end Sys2Proof.Machine
end

