-- ==== Sys2Proof/Machine/Vector.lean ====
section
/-! DEFINITION. Vector instructions: the VFP, VINT and VCVT groups (09 R240 to R255). -/

namespace Sys2Proof.Machine

/-! ## Elements (R241, R242) -/

/-- A result for one element position: its bits, its flags, and whether what contributed to it was poisoned. -/
structure EElem where
  v : Nat
  f : Flags := 0
  poison : Bool := false
  deriving DecidableEq, Repr, Inhabited

def eCount (w : Nat) : Nat := 1024 / w
/-- Element `j` of a row. -/
def elemAt (r : ERow) (w j : Nat) : Nat := bits r.toNat (w * j) w
/-- The poison of the lane that element `j` lies in. -/
def elemPoison (p : BitVec 32) (w j : Nat) : Bool := p.getLsbD (j * w / 32)

/-- Whether p0 makes an element active, and whether the bit that says so is poisoned. -/
def Act.active (a : Act) (p : BitVec 1) (w j : Nat) : Bool := p = 0 || (vget a.p 0).getLsbD (j * w / 8)
def Act.maskPoison (a : Act) (p : BitVec 1) (w j : Nat) : Bool := p = 1 && (vget a.pp 0).getLsbD (j * w / 8)

/-- Elements packed into a row, element 0 lowest. -/
def packElems (w : Nat) : List Nat → Nat
  | [] => 0
  | v :: l => v % 2 ^ w + 2 ^ w * packElems w l

/-- A register written with a result for each element: `act` and `mp` say which are active, and whose mask was
poisoned. -/
def State.writeElems (s : State) (d w : Nat) (act mp : Nat → Bool) (l : List EElem) : Chk State :=
  let n := eCount w
  let bytes : PRow := (List.range n).foldl (fun m j =>
    if act j then m ||| (BitVec.ofNat 128 (2 ^ (max 1 (w / 8)) - 1) <<< (j * w / 8)) else m) 0
  let lanes : BitVec 32 := l.zipIdx.foldl (fun p e =>
    if (act e.2 && e.1.poison) || mp e.2 then p ||| (BitVec.ofNat 32 (2 ^ max 1 (w / 32) - 1) <<< (e.2 * w / 32)) else p) 0
  s.writeRow d (BitVec.ofNat 1024 (packElems w (l.map (·.v)))) lanes bytes

/-- Flags of the active elements. -/
def elemFlags (act : Nat → Bool) (l : List EElem) : Flags :=
  l.zipIdx.foldl (fun f e => if act e.2 then f ||| e.1.f else f) 0

/-- The general form: sources are popped and read, each element of each destination register is computed, flags are set and
draws are taken. `res` gives the results of the register at a place in the group; `act` and `mp` take that place and the
element; `draws` is how many positions round under the mode. -/
def vectorOp (s : State) (srcs dsts : List Nat) (w mode draws : Nat)
    (act mp : Act → Nat → Nat → Bool)
    (res : Act → List (Nat × ERow × BitVec 32) → (Nat → Nat) → Nat → List EElem) : Chk State := do
  let (vals, t) ← s.sources srcs dsts
  let a := s.act
  let rnd (k : Nat) : Nat := s.nextDraw k
  let rows := dsts.zipIdx.map fun d => (d.1, d.2, res a vals rnd d.2)
  let t ← rows.foldlM (fun t r => t.writeElems r.1 w (act a r.2.1) (mp a r.2.1) r.2.2) t
  let flags := rows.foldl (fun f r => f ||| elemFlags (act a r.2.1) r.2.2) 0
  .ok ((t.drawn mode draws).setEFlags flags)

/-- An instruction of one destination register whose every element comes from the elements at its own place. -/
def lanewise (w : Nat) (p : BitVec 1) (mode draws : Nat) (srcs : List (BitVec 5)) (d : BitVec 5)
    (f : Nat → List Nat → Nat → Nat × Flags) (s : State) : Chk State :=
  vectorOp s (srcs.map (·.toNat)) [d.toNat] w mode draws (fun a _ j => a.active p w j) (fun a _ j => a.maskPoison p w j)
    fun _ vals rnd _ => (List.range (eCount w)).map fun j =>
      let r := f j (srcs.map fun r => elemAt (valueOf vals r.toNat) w j) (rnd j)
      { v := r.1, f := r.2, poison := srcs.any fun r => elemPoison (poisonOf vals r.toNat) w j }

/-! ## VFP (R245 to R249) -/

/-- The format of a floating vector type. -/
def vecFmt (t : BitVec 4) : Fmt :=
  match t.toNat with
  | 0 => fp32 | 1 => bf16 | 2 => fp16 | 3 => e4m3 | _ => e5m2

/-- An input of arithmetic at 16 bits or narrower: a subnormal counts as a zero of its sign (06 R152). -/
def flushIn (f : Fmt) (code : Nat) : Nat := if f ≠ fp32 ∧ f.subnormal code then f.signBit (decide (code / 2 ^ (f.ebits + f.mbits) % 2 = 1)) else code
def vecIn (f : Fmt) (code : Nat) : FV := f.decode (flushIn f code)

/-- Exact results rounded once to the element format (R243). -/
def vfp (t : BitVec 4) (p : BitVec 1) (srcs : List (BitVec 5)) (d : BitVec 5) (f : Bool → List FV → List Nat → FV × Flags)
    (s : State) : Chk State := do
  let mode ← s.act.eMode 7
  let fmt := vecFmt t
  let del := fmt.deliverAs s.act.e5inf (fmt != fp32)
  lanewise fmt.width p mode (eCount fmt.width) srcs d (fun _ l rnd =>
    let x := f (mode == 3) (l.map (vecIn fmt)) l
    let r := fmt.deliver mode del rnd x.1
    (r.1, x.2 ||| r.2)) s

/-- Results delivered without rounding. -/
def vraw (t : BitVec 4) (p : BitVec 1) (srcs : List (BitVec 5)) (d : BitVec 5) (f : List Nat → Nat × Flags) (s : State) : Chk State :=
  lanewise (vecFmt t).width p 0 0 srcs d (fun _ l _ => f l) s

def arg {α : Type} [Inhabited α] (l : List α) (i : Nat) : α := l.getD i default

/-- VADD. -/
def execVadd (p : BitVec 1) (t : BitVec 4) (b a d : BitVec 5) (s : State) : Host.Outcome State Fault Refusal :=
  run s (estream (.vadd p t b a d) 4 (vfp t p [a, b] d fun rdn l _ => (arg l 0).add rdn (arg l 1)) s)
/-- VSUB. -/
def execVsub (p : BitVec 1) (t : BitVec 4) (b a d : BitVec 5) (s : State) : Host.Outcome State Fault Refusal :=
  run s (estream (.vsub p t b a d) 4 (vfp t p [a, b] d fun rdn l _ => (arg l 0).add rdn (arg l 1).neg) s)
/-- VMUL. -/
def execVmul (p : BitVec 1) (t : BitVec 4) (b a d : BitVec 5) (s : State) : Host.Outcome State Fault Refusal :=
  run s (estream (.vmul p t b a d) 4 (vfp t p [a, b] d fun _ l _ => (arg l 0).mul (arg l 1)) s)

/-- VFMA: A × B + D. -/
def vfmaOp (t : BitVec 4) (p : BitVec 1) (b a d : BitVec 5) (s : State) : Chk State :=
  vfp t p [a, b, d] d (fun rdn l _ => FV.fma rdn (arg l 0) (arg l 1) (arg l 2)) s
/-- VFMA. -/
def execVfma (p : BitVec 1) (t : BitVec 4) (b a d : BitVec 5) (s : State) : Host.Outcome State Fault Refusal :=
  run s (estream (.vfma p t b a d) 4 (vfmaOp t p b a d) s)
/-- VFMS: D - A × B. -/
def execVfms (p : BitVec 1) (t : BitVec 4) (b a d : BitVec 5) (s : State) : Host.Outcome State Fault Refusal :=
  run s (estream (.vfms p t b a d) 4 (vfp t p [a, b, d] d fun rdn l _ => FV.fma rdn (arg l 0).neg (arg l 1) (arg l 2)) s)

/-- VMIN and VMAX (R246). -/
def vecMinMax (f : Fmt) (max : Bool) (x y : Nat) : Nat × Flags := f.minMax max (flushIn f x) (flushIn f y)
/-- VMIN. -/
def execVmin (p : BitVec 1) (t : BitVec 4) (b a d : BitVec 5) (s : State) : Host.Outcome State Fault Refusal :=
  run s (estream (.vmin p t b a d) 4 (vraw t p [a, b] d fun l => vecMinMax (vecFmt t) false (arg l 0) (arg l 1)) s)
/-- VMAX. -/
def execVmax (p : BitVec 1) (t : BitVec 4) (b a d : BitVec 5) (s : State) : Host.Outcome State Fault Refusal :=
  run s (estream (.vmax p t b a d) 4 (vraw t p [a, b] d fun l => vecMinMax (vecFmt t) true (arg l 0) (arg l 1)) s)

/-- A value without its sign. -/
def FV.abs : FV → FV
  | .nan s => .nan s
  | .inf _ => .inf false
  | .fin _ m e => .fin false m e

/-- VMAXM (R246): the larger magnitude, or VMAX of equal ones and of NaNs. -/
def vecMaxMag (f : Fmt) (x y : Nat) : Nat × Flags :=
  let a := vecIn f x
  let b := vecIn f y
  let c := a.abs.cmp b.abs
  if a.isNan || b.isNan || c == 0 then vecMinMax f true x y else if 0 < c then (flushIn f x, 0) else (flushIn f y, 0)
/-- VMAXM. -/
def execVmaxm (p : BitVec 1) (t : BitVec 4) (b a d : BitVec 5) (s : State) : Host.Outcome State Fault Refusal :=
  run s (estream (.vmaxm p t b a d) 4 (vraw t p [a, b] d fun l => vecMaxMag (vecFmt t) (arg l 0) (arg l 1)) s)

/-- A code with its sign cleared or flipped; a NaN becomes the canonical one. -/
def vecSign (f : Fmt) (flip : Bool) (x : Nat) : Nat × Flags :=
  let v := f.decode x
  if v.isNan then (f.nanCode, sigFlag [v])
  else (x % 2 ^ (f.ebits + f.mbits) + f.signBit (flip && !decide (x / 2 ^ (f.ebits + f.mbits) % 2 = 1)), 0)
/-- VABS. -/
def execVabs (p : BitVec 1) (t : BitVec 4) (a d : BitVec 5) (s : State) : Host.Outcome State Fault Refusal :=
  run s (estream (.vabs p t a d) 4 (vraw t p [a] d fun l => vecSign (vecFmt t) false (arg l 0)) s)
/-- VNEG. -/
def execVneg (p : BitVec 1) (t : BitVec 4) (a d : BitVec 5) (s : State) : Host.Outcome State Fault Refusal :=
  run s (estream (.vneg p t a d) 4 (vraw t p [a] d fun l => vecSign (vecFmt t) true (arg l 0)) s)

/-- A value times a power of two; beyond 4,000 the result is the same. -/
def FV.scale (v : FV) (k : Int) : FV :=
  match v with
  | .fin n m e => .fin n m (e + max (-4000) (min 4000 k))
  | v => v
/-- VSCALB. -/
def execVscalb (p : BitVec 1) (t : BitVec 4) (b a d : BitVec 5) (s : State) : Host.Outcome State Fault Refusal :=
  run s (estream (.vscalb p t b a d) 4 (vfp t p [a, b] d fun _ l c =>
    ((arg l 0).scale (intOf true (vecFmt t).width (arg c 1)), sigFlag [arg l 0])) s)

/-- VCLASS (R249). -/
def vecClass (f : Fmt) (x : Nat) : Nat :=
  let code := flushIn f x
  match f.decode code with
  | .nan sig => if sig then 8 else 9
  | .inf neg => if neg then 0 else 7
  | .fin neg m _ =>
    if m = 0 then (if neg then 3 else 4)
    else if f.subnormal code then (if neg then 2 else 5)
    else if neg then 1 else 6
/-- VCLASS. -/
def execVclass (p : BitVec 1) (t : BitVec 4) (a d : BitVec 5) (s : State) : Host.Outcome State Fault Refusal :=
  run s (estream (.vclass p t a d) 4 (vraw t p [a] d fun l => (vecClass (vecFmt t) (arg l 0), 0)) s)

/-- A p register changed in the bits of a mask, with their poison. -/
def State.writeP (s : State) (d : Nat) (v poison mask : PRow) : State :=
  s.modAct fun a =>
    { a with p := vset a.p d ((v &&& mask) ||| (vget a.p d &&& ~~~mask)), pp := vset a.pp d ((poison &&& mask) ||| (vget a.pp d &&& ~~~mask)) }

/-- A compare into a p register (R247). -/
def compareOp (w : Nat) (p : BitVec 1) (b a : BitVec 5) (d : BitVec 3) (f : Nat → Nat → Bool × Flags) (s : State) : Chk State := do
  let (vals, t) ← s.sources [a.toNat, b.toNat] []
  let act (j : Nat) : Bool := s.act.active p w j
  let l := (List.range (eCount w)).map fun j =>
    let r := f (elemAt (valueOf vals a.toNat) w j) (elemAt (valueOf vals b.toNat) w j)
    let bad := elemPoison (poisonOf vals a.toNat) w j || elemPoison (poisonOf vals b.toNat) w j
    (j, r.1, r.2, bad)
  let field (j : Nat) : PRow := BitVec.ofNat 128 (2 ^ (w / 8) - 1) <<< (j * w / 8)
  let gather (c : Nat × Bool × Flags × Bool → Bool) : PRow := l.foldl (fun m e => if c e then m ||| field e.1 else m) 0
  let changed := gather fun e => act e.1 || s.act.maskPoison p w e.1
  let value := gather (fun e => act e.1 && e.2.1) ||| (vget s.act.p d.toNat &&& ~~~gather fun e => act e.1)
  let bad := gather fun e => (act e.1 && e.2.2.2) || s.act.maskPoison p w e.1
  let flags := l.foldl (fun g e => if act e.1 then g ||| e.2.2.1 else g) 0
  .ok ((t.writeP d.toNat value bad changed).setEFlags flags)

def vecCompare (t : BitVec 4) (p : BitVec 1) (b a : BitVec 5) (d : BitVec 3) (f : FV → FV → Bool × Flags) (s : State) : Chk State :=
  compareOp (vecFmt t).width p b a d (fun x y => f (vecIn (vecFmt t) x) (vecIn (vecFmt t) y)) s
/-- VCMPEQ. -/
def execVcmpeq (p : BitVec 1) (t : BitVec 4) (b a : BitVec 5) (d : BitVec 3) (s : State) : Host.Outcome State Fault Refusal :=
  run s (estream (.vcmpeq p t b a d) 4 (vecCompare t p b a d FV.eq) s)
/-- VCMPLT. -/
def execVcmplt (p : BitVec 1) (t : BitVec 4) (b a : BitVec 5) (d : BitVec 3) (s : State) : Host.Outcome State Fault Refusal :=
  run s (estream (.vcmplt p t b a d) 4 (vecCompare t p b a d FV.lt) s)
/-- VCMPLE. -/
def execVcmple (p : BitVec 1) (t : BitVec 4) (b a : BitVec 5) (d : BitVec 3) (s : State) : Host.Outcome State Fault Refusal :=
  run s (estream (.vcmple p t b a d) 4 (vecCompare t p b a d FV.le) s)

/-- VSEL (R248): byte by byte under p0. -/
def execVsel (b a d : BitVec 5) (s : State) : Host.Outcome State Fault Refusal :=
  run s (estream (.vsel b a d) 4 (fun s =>
    vectorOp s [a.toNat, b.toNat] [d.toNat] 8 0 0 (fun _ _ _ => true) (fun _ _ _ => false)
      fun x vals _ _ => (List.range 128).map fun m =>
        let r := if (vget x.p 0).getLsbD m then a.toNat else b.toNat
        { v := elemAt (valueOf vals r) 8 m, poison := elemPoison (poisonOf vals r) 8 m || (vget x.pp 0).getLsbD m }) s)

/-- VBCAST: every lane becomes one lane of the source. -/
def execVbcast (p : BitVec 1) (n a d : BitVec 5) (s : State) : Host.Outcome State Fault Refusal :=
  run s (estream (.vbcast p n a d) 4 (fun s =>
    vectorOp s [a.toNat] [d.toNat] 32 0 0 (fun x _ j => x.active p 32 j) (fun x _ j => x.maskPoison p 32 j)
      fun _ vals _ _ => (List.range 32).map fun _ =>
        { v := elemAt (valueOf vals a.toNat) 32 n.toNat, poison := elemPoison (poisonOf vals a.toNat) 32 n.toNat }) s)

/-- VMOV of f32 elements. -/
def vmovOp (p : BitVec 1) (a d : BitVec 5) (s : State) : Chk State := lanewise 32 p 0 0 [a] d (fun _ l _ => (arg l 0, 0)) s
/-- VMOV. -/
def execVmov (p : BitVec 1) (a d : BitVec 5) (s : State) : Host.Outcome State Fault Refusal :=
  run s (estream (.vmov p a d) 4 (vmovOp p a d) s)

/-! ## VINT (R250) -/

/-- Width and signedness of an integer vector type. -/
def intWidth (t : BitVec 4) : Nat := typeWidth t.toNat
def intSigned (t : BitVec 4) : Bool := t.toNat ≤ 7 || t.toNat = 14

/-- An integer form of sources, its results wrapped to the width. -/
def vint (t : BitVec 4) (p : BitVec 1) (srcs : List (BitVec 5)) (d : BitVec 5) (f : Nat → List Nat → Int) (s : State) : Chk State :=
  let w := intWidth t
  lanewise w p 0 0 srcs d (fun _ l _ => (wrapInt w (f w l), 0)) s

/-- The same on values as the type reads them. -/
def vintTyped (t : BitVec 4) (p : BitVec 1) (b a d : BitVec 5) (f : Int → Int → Int) (s : State) : Chk State :=
  let g := intSigned t
  vint t p [a, b] d (fun w l => f (intOf g w (arg l 0)) (intOf g w (arg l 1))) s

/-- VIADD. -/
def execViadd (p : BitVec 1) (t : BitVec 4) (b a d : BitVec 5) (s : State) : Host.Outcome State Fault Refusal :=
  run s (estream (.viadd p t b a d) 4 (vintTyped t p b a d (· + ·)) s)
/-- VISUB. -/
def execVisub (p : BitVec 1) (t : BitVec 4) (b a d : BitVec 5) (s : State) : Host.Outcome State Fault Refusal :=
  run s (estream (.visub p t b a d) 4 (vintTyped t p b a d (· - ·)) s)
/-- VIMUL. -/
def execVimul (p : BitVec 1) (t : BitVec 4) (b a d : BitVec 5) (s : State) : Host.Outcome State Fault Refusal :=
  run s (estream (.vimul p t b a d) 4 (vintTyped t p b a d (· * ·)) s)
/-- VIMULH. -/
def execVimulh (p : BitVec 1) (t : BitVec 4) (b a d : BitVec 5) (s : State) : Host.Outcome State Fault Refusal :=
  run s (estream (.vimulh p t b a d) 4 (vintTyped t p b a d fun x y => x * y / (2 ^ intWidth t : Nat)) s)
/-- VAND. -/
def execVand (p : BitVec 1) (t : BitVec 4) (b a d : BitVec 5) (s : State) : Host.Outcome State Fault Refusal :=
  run s (estream (.vand p t b a d) 4 (vint t p [a, b] d fun _ l => (arg l 0 &&& arg l 1 : Nat)) s)
/-- VOR. -/
def execVor (p : BitVec 1) (t : BitVec 4) (b a d : BitVec 5) (s : State) : Host.Outcome State Fault Refusal :=
  run s (estream (.vor p t b a d) 4 (vint t p [a, b] d fun _ l => (arg l 0 ||| arg l 1 : Nat)) s)
/-- VXOR. -/
def execVxor (p : BitVec 1) (t : BitVec 4) (b a d : BitVec 5) (s : State) : Host.Outcome State Fault Refusal :=
  run s (estream (.vxor p t b a d) 4 (vint t p [a, b] d fun _ l => (arg l 0 ^^^ arg l 1 : Nat)) s)
/-- VSHL (06 R161). -/
def execVshl (p : BitVec 1) (t : BitVec 4) (b a d : BitVec 5) (s : State) : Host.Outcome State Fault Refusal :=
  run s (estream (.vshl p t b a d) 4 (vint t p [a, b] d fun w l => (if arg l 1 < w then arg l 0 * 2 ^ arg l 1 else 0 : Nat)) s)
/-- VSHR. -/
def execVshr (p : BitVec 1) (t : BitVec 4) (b a d : BitVec 5) (s : State) : Host.Outcome State Fault Refusal :=
  run s (estream (.vshr p t b a d) 4 (vint t p [a, b] d fun w l => (if arg l 1 < w then arg l 0 / 2 ^ arg l 1 else 0 : Nat)) s)
/-- VSRA. -/
def execVsra (p : BitVec 1) (t : BitVec 4) (b a d : BitVec 5) (s : State) : Host.Outcome State Fault Refusal :=
  run s (estream (.vsra p t b a d) 4 (vint t p [a, b] d fun w l =>
    let x := intOf true w (arg l 0)
    if arg l 1 < w then x / (2 ^ arg l 1 : Nat) else if x < 0 then -1 else 0) s)
/-- VIMIN: signed, whatever the type. -/
def execVimin (p : BitVec 1) (t : BitVec 4) (b a d : BitVec 5) (s : State) : Host.Outcome State Fault Refusal :=
  run s (estream (.vimin p t b a d) 4 (vint t p [a, b] d fun w l => min (intOf true w (arg l 0)) (intOf true w (arg l 1))) s)
/-- VIMAX. -/
def execVimax (p : BitVec 1) (t : BitVec 4) (b a d : BitVec 5) (s : State) : Host.Outcome State Fault Refusal :=
  run s (estream (.vimax p t b a d) 4 (vint t p [a, b] d fun w l => max (intOf true w (arg l 0)) (intOf true w (arg l 1))) s)
/-- VIMINN: unsigned. -/
def execViminn (p : BitVec 1) (t : BitVec 4) (b a d : BitVec 5) (s : State) : Host.Outcome State Fault Refusal :=
  run s (estream (.viminn p t b a d) 4 (vint t p [a, b] d fun _ l => (min (arg l 0) (arg l 1) : Nat)) s)
/-- VIMAXN. -/
def execVimaxn (p : BitVec 1) (t : BitVec 4) (b a d : BitVec 5) (s : State) : Host.Outcome State Fault Refusal :=
  run s (estream (.vimaxn p t b a d) 4 (vint t p [a, b] d fun _ l => (max (arg l 0) (arg l 1) : Nat)) s)
/-- VICMPEQ. -/
def execVicmpeq (p : BitVec 1) (t : BitVec 4) (b a : BitVec 5) (d : BitVec 3) (s : State) : Host.Outcome State Fault Refusal :=
  run s (estream (.vicmpeq p t b a d) 4 (compareOp (intWidth t) p b a d fun x y => (x == y, 0)) s)
/-- VICMPLT. -/
def execVicmplt (p : BitVec 1) (t : BitVec 4) (b a : BitVec 5) (d : BitVec 3) (s : State) : Host.Outcome State Fault Refusal :=
  run s (estream (.vicmplt p t b a d) 4 (compareOp (intWidth t) p b a d fun x y =>
    (decide (intOf (intSigned t) (intWidth t) x < intOf (intSigned t) (intWidth t) y), 0)) s)
/-- VPOPC. -/
def execVpopc (p : BitVec 1) (t : BitVec 4) (a d : BitVec 5) (s : State) : Host.Outcome State Fault Refusal :=
  run s (estream (.vpopc p t a d) 4 (vint t p [a] d fun w l => (((List.range w).filter fun i => (arg l 0).testBit i).length : Nat)) s)
/-- VCLZ. -/
def execVclz (p : BitVec 1) (t : BitVec 4) (a d : BitVec 5) (s : State) : Host.Outcome State Fault Refusal :=
  run s (estream (.vclz p t a d) 4 (vint t p [a] d fun w l => (if arg l 0 = 0 then w else w - 1 - (arg l 0).log2 : Nat)) s)
/-- VIADDS: clamped to the type's range (06 R159). -/
def execViadds (p : BitVec 1) (t : BitVec 4) (b a d : BitVec 5) (s : State) : Host.Outcome State Fault Refusal :=
  run s (estream (.viadds p t b a d) 4 (vintTyped t p b a d fun x y => clampInt (intSigned t) (intWidth t) (x + y)) s)
/-- VISUBS. -/
def execVisubs (p : BitVec 1) (t : BitVec 4) (b a d : BitVec 5) (s : State) : Host.Outcome State Fault Refusal :=
  run s (estream (.visubs p t b a d) 4 (vintTyped t p b a d fun x y => clampInt (intSigned t) (intWidth t) (x - y)) s)

/-! ## VCVT (R251 to R255) -/

/-- A conversion target: a floating format or an integer type, with its code width in the register. -/
inductive CvtType where
  | float (f : Fmt)
  | int (signed : Bool) (n : Nat)
  deriving DecidableEq, Repr

def cvtType (t : BitVec 4) : CvtType :=
  match t.toNat with
  | 0 => .float fp32 | 1 => .float bf16 | 2 => .float fp16 | 3 => .float e4m3 | 4 => .float e5m2
  | 11 => .float e2m1 | 12 => .float e3m2 | 13 => .float e2m3
  | _ => .int (intSigned t) (typeWidth t.toNat)

/-- A value converted to a type, as the element holds it (06 R151, R153, R154). -/
def CvtType.narrow (c : CvtType) (mode : Nat) (e5inf : Bool) (rnd : Nat) (v : FV) : Nat × Flags :=
  match c with
  | .float f => f.deliver mode (f.deliverAs e5inf false) rnd v
  | .int g n => let r := v.toInt mode rnd g n; (wrapInt n r.1, r.2)

/-- The value of an element: bits above a format's code are ignored. -/
def CvtType.value (c : CvtType) (code : Nat) : FV :=
  match c with
  | .float f => f.decode (code % 2 ^ f.width)
  | .int g n => FV.ofInt (intOf g n code)

/-- A group of registers from `e`. -/
def group (e : BitVec 5) (k : Nat) : List Nat := (List.range k).map (e.toNat + ·)
def groupOf (t : BitVec 4) : Nat := 32 / typeWidth t.toNat

/-- A narrowing: element `m` from lane `m mod 32` of register `m / 32` of a group; `f` has the place, the lane and the
draw. -/
def narrowing (t : BitVec 4) (p : BitVec 1) (mode draws : Nat) (a d : BitVec 5) (more : List Nat)
    (f : List (Nat × ERow × BitVec 32) → Nat → Nat → Nat → EElem) (s : State) : Chk State :=
  let w := typeWidth t.toNat
  vectorOp s (group a (groupOf t) ++ more) [d.toNat] w mode draws (fun x _ j => x.active p w j) (fun x _ j => x.maskPoison p w j)
    fun _ vals rnd _ => (List.range (eCount w)).map fun m =>
      let r := a.toNat + m / 32
      let e := f vals m (elemAt (valueOf vals r) 32 (m % 32)) (rnd m)
      { e with poison := e.poison || elemPoison (poisonOf vals r) 32 (m % 32) }

/-- A widening: lane `m mod 32` of register `m / 32` of a group from element `m`, active as that element is. -/
def widening (t : BitVec 4) (p : BitVec 1) (mode draws : Nat) (a d : BitVec 5) (more : List Nat)
    (f : List (Nat × ERow × BitVec 32) → Nat → Nat → Nat → EElem) (s : State) : Chk State :=
  let w := typeWidth t.toNat
  vectorOp s (a.toNat :: more) (group d (groupOf t)) 32 mode draws
    (fun x k j => x.active p w (32 * k + j)) (fun x k j => x.maskPoison p w (32 * k + j))
    fun _ vals rnd k => (List.range 32).map fun j =>
      let m := 32 * k + j
      let e := f vals m (elemAt (valueOf vals a.toNat) w m) (rnd m)
      { e with poison := e.poison || elemPoison (poisonOf vals a.toNat) w m }

def asElem (r : Nat × Flags) : EElem := { v := r.1, f := r.2 }

/-- VCVT, narrowing (R251). -/
def execVcvt (p : BitVec 1) (t : BitVec 4) (r : BitVec 3) (a d : BitVec 5) (s : State) : Host.Outcome State Fault Refusal :=
  run s (estream (.vcvt p t r a d) 4 (fun s => do
    let mode ← s.act.eMode r
    narrowing t p mode (eCount (typeWidth t.toNat)) a d []
      (fun _ _ x rnd => asElem ((cvtType t).narrow mode s.act.e5inf rnd (fp32.decode x))) s) s)

/-- VCVT, widening: exact for a floating type, without flags (06 R152); rounded for an integer type. -/
def execVcvtWide (p : BitVec 1) (t : BitVec 4) (r : BitVec 3) (a d : BitVec 5) (s : State) : Host.Outcome State Fault Refusal :=
  run s (estream (.vcvtWide p t r a d) 4 (fun s => do
    let mode ← s.act.eMode r
    widening t p mode (eCount (typeWidth t.toNat)) a d []
      (fun _ _ x rnd =>
        let v := round32 mode rnd ((cvtType t).value x)
        match cvtType t with
        | .float _ => { v := v.1 }
        | .int _ _ => asElem v) s) s)

/-- A lane times its FP32 scale, exact; a NaN scale is invalid (R252). -/
def scaledLane (x y : FV) : FV × Flags :=
  let r := x.mul y
  (r.1, r.2 ||| flagIf y.isNan flagNV)

/-- VCVTS (R252). -/
def execVcvts (p : BitVec 1) (t : BitVec 4) (b a d : BitVec 5) (s : State) : Host.Outcome State Fault Refusal :=
  run s (estream (.vcvts p t b a d) 4 (fun s => do
    let mode ← s.act.eMode 7
    narrowing t p mode (eCount (typeWidth t.toNat)) a d [b.toNat]
      (fun vals m x rnd =>
        let v := scaledLane (fp32.decode x) (fp32.decode (elemAt (valueOf vals b.toNat) 32 (m % 32)))
        let r := (cvtType t).narrow mode s.act.e5inf rnd v.1
        { v := r.1, f := v.2 ||| r.2, poison := elemPoison (poisonOf vals b.toNat) 32 (m % 32) }) s) s)

/-- emax of an MX element format (R253). -/
def mxEmax (t : BitVec 4) : Int :=
  match t.toNat with
  | 3 => 8 | 4 => 15 | 12 => 4 | 13 => 2 | 11 => 2 | _ => 0

/-- The exponent of a block's scale: none when a value is NaN or infinite. -/
def mxExp (t : BitVec 4) (l : List FV) : Option Int :=
  l.foldl (fun r v => match r, v with
    | some x, .fin _ m e => if m = 0 then some x else some (max x (min 127 ((m.log2 : Int) + e - mxEmax t)))
    | _, _ => none) (some (-127))

/-- An element of a quantised block. -/
def mxElem (t : BitVec 4) (mode : Nat) (e5inf : Bool) (rnd : Nat) (x : Int) (v : FV) : Nat × Flags :=
  let y := v.scale (-x)
  if t = 7 then (cvtType 7).narrow mode e5inf rnd (y.scale 6) else (cvtType t).narrow mode e5inf rnd y

/-- VMXQ (R253). -/
def execVmxq (t : BitVec 4) (b a d : BitVec 5) (s : State) : Host.Outcome State Fault Refusal :=
  run s (estream (.vmxq t b a d) 4 (fun s => do
    let mode ← s.act.eMode 7
    let w := typeWidth t.toNat
    let k := groupOf t
    let (vals, u) ← s.sources (group a k) [d.toNat, b.toNat]
    let block (j : Nat) : List FV := (List.range 32).map fun i => fp32.decode (elemAt (valueOf vals (a.toNat + j)) 32 i)
    let exps := (List.range k).map fun j => mxExp t (block j)
    let bad (j : Nat) : Bool := poisonOf vals (a.toNat + j) != 0
    let elems := (List.range (32 * k)).map fun m =>
      let r := match exps.getD (m / 32) none with
        | some x => mxElem t mode s.act.e5inf (s.nextDraw m) x ((block (m / 32)).getD (m % 32) default)
        | none => (0, flagNV)
      ({ v := r.1, f := r.2, poison := bad (m / 32) } : EElem)
    let scales := (List.range 128).map fun j =>
      ({ v := if j < k then (match exps.getD j none with
            | some x => (x + 127).toNat
            | none => 0xFF) else 0
         poison := decide (j < k) && bad j } : EElem)
    let all (_ : Nat) : Bool := true
    let none_ (_ : Nat) : Bool := false
    let row (u : State) (r : Nat) : Chk State := if r = d.toNat then u.writeElems r w all none_ elems else u.writeElems r 8 all none_ scales
    let u ← row u (min d.toNat b.toNat)
    let u ← row u (max d.toNat b.toNat)
    .ok ((u.drawn mode (eCount w)).setEFlags (elemFlags all elems))) s)

/-- VMXD (R254). -/
def execVmxd (t : BitVec 4) (b a d : BitVec 5) (s : State) : Host.Outcome State Fault Refusal :=
  run s (estream (.vmxd t b a d) 4 (fun s => do
    let mode ← s.act.eMode 7
    widening t 0 mode (eCount (typeWidth t.toNat)) a d [b.toNat]
      (fun vals m x rnd =>
        let c := elemAt (valueOf vals b.toNat) 8 (m / 32)
        let v := ((cvtType t).value x).scale ((c : Int) - 127 - (if t = 7 then 6 else 0))
        let r := if c = 0xFF then (fp32.nanCode, 0) else round32 mode rnd v
        { v := r.1, f := r.2, poison := elemPoison (poisonOf vals b.toNat) 8 (m / 32) }) s) s)

/-- VPACK (R255): clamped to the type's range. -/
def execVpack (p : BitVec 1) (t : BitVec 4) (a d : BitVec 5) (s : State) : Host.Outcome State Fault Refusal :=
  run s (estream (.vpack p t a d) 4 (narrowing t p 0 0 a d [] fun _ _ x _ =>
    { v := wrapInt (intWidth t) (clampInt (intSigned t) (intWidth t) (intOf (intSigned t) 32 x)) }) s)
/-- VUNPK (R255). -/
def execVunpk (p : BitVec 1) (t : BitVec 4) (a d : BitVec 5) (s : State) : Host.Outcome State Fault Refusal :=
  run s (estream (.vunpk p t a d) 4 (widening t p 0 0 a d [] fun _ _ x _ =>
    { v := wrapInt 32 (intOf (intSigned t) (intWidth t) x) }) s)

end Sys2Proof.Machine
end

