-- ==== Sys2Proof/Machine/Sfu.lean ====
section
/-! DEFINITION. The VSFU group: the shared SFU's functions, reductions, permutes, queue moves and predicates (09 R256 to
R262). -/

namespace Sys2Proof.Machine

/-! ## Exact functions to many bits (R256)

Fixed-point numbers of 400 fractional bits. A result that is not exact carries a lowest bit that says so, and so rounds as
the exact value does (assumption 13). -/

def fixOne : Nat := 2 ^ 400
/-- The natural logarithm of 2, and the logarithm of e to base 2. -/
def fixLn2 : Nat := 1789879222497203190815761498240779176894896805856420935579692301363062920687047601279850318367644315849030039181347319086
def fixLog2e : Nat := 3725399093452113361508878261685348397064333121840474113669779251110053462896811095071531244706817557295705407090210624801

def fixMul (a b : Nat) : Nat := a * b / fixOne
def fixDiv (a b : Nat) : Nat := a * fixOne / b

/-- The terms of e^t from the one of number `k` on, `term` being the one before. -/
def expTerms (t : Nat) : Nat → Nat → Nat → Nat
  | 0, _, _ => 0
  | n + 1, k, term => let u := fixMul term t / k; u + expTerms t n (k + 1) u

/-- 2 to a fraction of 1. -/
def exp2Frac (f : Nat) : Nat := fixOne + expTerms (fixMul f fixLn2) 90 1 fixOne

/-- The terms of the inverse hyperbolic tangent of `u`, `sq` its square. -/
def atanhTerms (sq : Nat) : Nat → Nat → Nat → Nat
  | 0, _, _ => 0
  | n + 1, k, pow => pow / k + atanhTerms sq n (k + 2) (fixMul pow sq)

/-- The logarithm to base 2 of a number from 1 to 2. -/
def log2Mant (z : Nat) : Nat :=
  let u := fixDiv (z - fixOne) (z + fixOne)
  fixMul (2 * atanhTerms (fixMul u u) 140 1 u) fixLog2e

/-- A fixed-point number as a value that is not exact. -/
def inexact (neg : Bool) (v : Nat) : FV := .fin neg (2 * v + 1) (-401)

/-- A magnitude as a fixed-point number. -/
def toFix (m : Nat) (e : Int) : Nat := if 0 ≤ e + 400 then m * 2 ^ (e + 400).toNat else m / 2 ^ (-(e + 400)).toNat

/-- 2^A. Beyond 4,000 the result is the same. -/
def FV.exp2 : FV → FV × Flags
  | .nan s => (.nan s, 0)
  | .inf neg => (if neg then .fin false 0 0 else .inf false, 0)
  | .fin neg m e =>
    if m = 0 then (.fin false 1 0, 0)
    else if 13 ≤ (m.log2 : Int) + e then (.fin false 1 (if neg then -4000 else 4000), 0)
    else
      let x := toFix m e
      let k := x / fixOne
      let f := x % fixOne
      if f = 0 then (.fin false 1 (if neg then -(k : Int) else k), 0)
      else
        let r := if neg then inexact false (exp2Frac (fixOne - f)) else inexact false (exp2Frac f)
        (r.scale (if neg then -(k : Int) - 1 else k), 0)

/-- log2 A. -/
def FV.log2 : FV → FV × Flags
  | .nan s => (.nan s, 0)
  | .inf neg => if neg then (.nan false, flagNV) else (.inf false, 0)
  | .fin neg m e =>
    if m = 0 then (.inf true, flagDZ)
    else if neg then (.nan false, flagNV)
    else
      let k := (m.log2 : Int) + e
      if m = 2 ^ m.log2 then (FV.ofInt k, 0)
      else
        let v : Int := k * fixOne + log2Mant (toFix m (-(m.log2 : Int)))
        (inexact (decide (v < 0)) v.natAbs, 0)

/-- 1 / A. -/
def FV.rcp : FV → FV × Flags
  | .inf neg => (.fin neg 0 0, 0)
  | v => (FV.fin false 1 0).div v

/-- 1 / √A. -/
def FV.rsq : FV → FV × Flags
  | .nan s => (.nan s, 0)
  | .inf neg => if neg then (.nan false, flagNV) else (.fin false 0 0, 0)
  | .fin neg m e =>
    if m = 0 then (.inf neg, flagDZ)
    else if neg then (.nan false, flagNV)
    else
      let odd := (e % 2).toNat
      let n := m * 2 ^ odd
      let q := 2 ^ 600 / n
      let r := Nat.sqrt q
      (.fin false (2 * r + (if r * r * n = 2 ^ 600 then 0 else 1)) (-301 - (e - odd) / 2), 0)

/-- tanh A: for a small value just below it in magnitude, for a large one just below 1. -/
def FV.tanh : FV → FV × Flags
  | .nan s => (.nan s, 0)
  | .inf neg => (.fin neg 1 0, 0)
  | .fin neg m e =>
    if m = 0 then (.fin neg 0 0, 0)
    else if (m.log2 : Int) + e < -60 then (.fin neg (m * 2 ^ 200 - 1) (e - 200), 0)
    else
      let x := if 6 ≤ (m.log2 : Int) + e then 64 * fixOne else toFix m e
      let y := fixMul (2 * x) fixLog2e
      let big := exp2Frac (y % fixOne) * 2 ^ (y / fixOne)
      (inexact neg (fixDiv (big - fixOne) (big + fixOne)), 0)

/-! ## The shared SFU (R256, R257) -/

/-- The stream of an e register, bound or not. -/
def State.streamOfReg (s : State) (r : Nat) : Stream := if 28 ≤ r then s.stream (r - 28) else {}

/-- A request enters the queue of its cluster's SFU, with what its source held, and the stream of its destination. -/
def State.askSfu (s : State) (i : Instr) (v : ERow × BitVec 32) (d : Nat) : State :=
  let (id, s) := s.fresh
  let cl := s.act.core / 8
  let s := s.modAct fun a => { a with ewait := .sfu id, ememo := [v.1, v.2.zeroExtend 1024], edst := s.streamOfReg d }
  { s with sfu := put [] cl (look [] s.sfu cl ++ [(s.act.aid, id, i)]) s.sfu }

/-- The result of a request written: by the stream of the destination as the request found it (R234). Where that has been
changed since, the new state stays as it is. -/
def State.writeAsked (s : State) (d w : Nat) (act mp : Nat → Bool) (l : List EElem) : Chk State :=
  if d < 28 then s.writeElems d w act mp l
  else do
    let now := s.stream (d - 28)
    let u ← (s.setStream (d - 28) s.act.edst).writeElems d w act mp l
    .ok (if now == s.act.edst then u else u.setStream (d - 28) now)

/-- A served request's result, rounded once. -/
def State.takeSfu (s : State) (p : BitVec 1) (t : BitVec 4) (d : BitVec 5) (f : FV → FV × Flags) (v poison : ERow) : Chk State := do
  let mode ← s.act.eMode 7
  let fmt := vecFmt t
  let w := fmt.width
  let del := fmt.deliverAs s.act.e5inf (fmt != fp32)
  let l := (List.range (eCount w)).map fun j =>
    let x := f (vecIn fmt (elemAt v w j))
    let r := fmt.deliver mode del (s.nextDraw j) x.1
    ({ v := r.1, f := x.2 ||| r.2, poison := elemPoison (poison.setWidth 32) w j } : EElem)
  let act (j : Nat) : Bool := s.act.active p w j
  let u ← s.writeAsked d.toNat w act (fun j => s.act.maskPoison p w j) l
  .ok (((u.drawn mode (eCount w)).setEFlags (elemFlags act l)).modAct fun a => { a with ememo := [], edst := {} })

/-- What the E-stream does of an SFU form: the result is taken, and it has been executed; or the request is made, with the
source popped. -/
def State.sfuStep (s : State) (i : Instr) (p : BitVec 1) (t : BitVec 4) (a d : BitVec 5) (f : FV → FV × Flags) : Chk (Bool × State) :=
  match s.act.ewait, s.act.ememo with
  | .none, [v, poison] => do
    let u ← s.takeSfu p t d f v poison
    .ok (true, u)
  | .none, _ => do
    let (vals, s) ← s.sources [a.toNat] [d.toNat]
    .ok (false, s.askSfu i (valueOf vals a.toNat, poisonOf vals a.toNat) d.toNat)
  | _, _ => stall

/-- An SFU form: the E-stream's request is made, it waits for the SFU, and then takes the result. The A-stream goes on. -/
def sfuForm (i : Instr) (p : BitVec 1) (t : BitVec 4) (a d : BitVec 5) (f : FV → FV × Flags) (s : State) : Chk State :=
  if s.act.eseq.idle then
    match s.sfuStep i p t a d f with
    | .error (.stall _) => s.deliverE i 4
    | .error (.line l) => (s.settleLine l).deliverE i 4
    | .error e => .error e
    | .ok (true, u) => .ok (u.advance 4)
    | .ok (false, u) => u.deliverE i 4
  else s.deliverE i 4

/-- VEXP2. -/
def execVexp2 (p : BitVec 1) (t : BitVec 4) (a d : BitVec 5) (s : State) : Host.Outcome State Fault Refusal :=
  run s (sfuForm (.vexp2 p t a d) p t a d FV.exp2 s)
/-- VLOG2. -/
def execVlog2 (p : BitVec 1) (t : BitVec 4) (a d : BitVec 5) (s : State) : Host.Outcome State Fault Refusal :=
  run s (sfuForm (.vlog2 p t a d) p t a d FV.log2 s)
/-- VRCP. -/
def execVrcp (p : BitVec 1) (t : BitVec 4) (a d : BitVec 5) (s : State) : Host.Outcome State Fault Refusal :=
  run s (sfuForm (.vrcp p t a d) p t a d FV.rcp s)
/-- VRSQ. -/
def execVrsq (p : BitVec 1) (t : BitVec 4) (a d : BitVec 5) (s : State) : Host.Outcome State Fault Refusal :=
  run s (sfuForm (.vrsq p t a d) p t a d FV.rsq s)
/-- VTANH. -/
def execVtanh (p : BitVec 1) (t : BitVec 4) (a d : BitVec 5) (s : State) : Host.Outcome State Fault Refusal :=
  run s (sfuForm (.vtanh p t a d) p t a d FV.tanh s)

/-- SFU_REQUEST_SERVICE: the request at the head of a cluster's queue is served; the result of one whose activation no
longer waits for it is discarded. -/
def execSfuRequestService (cluster : Nat) (s : State) : Host.Outcome State Fault Refusal :=
  event s (
    match look [] s.sfu cluster with
    | [] => none
    | (aid, id, _) :: rest =>
      let serve (a : Act) : Act := if a.aid == aid && a.ewait == .sfu id then { a with ewait := .none } else a
      some { s with sfu := put [] cluster rest s.sfu, act := serve s.act, acts := s.acts.map serve })

/-! ## Reductions (R258) -/

/-- The exact sum of values, whatever their order. -/
def FV.sum (rdn : Bool) (l : List FV) : FV × Flags :=
  let up := l.any fun v => v == .inf false
  let down := l.any fun v => v == .inf true
  if l.any FV.isNan then (.nan false, sigFlag l)
  else if up && down then (.nan false, flagNV)
  else if up then (.inf false, 0)
  else if down then (.inf true, 0)
  else match l with
    | [] => (.fin false 0 0, 0)
    | v :: rest => (rest.foldl (fun s x => (s.add rdn x).1) v, 0)

/-- The least or greatest of codes, all of them inputs of R246. -/
def Fmt.extreme (f : Fmt) (max : Bool) : List Nat → Nat × Flags
  | [] => ((if max then f.signBit true else 0) + f.infCode, 0)
  | c :: l =>
    let r := l.foldl (fun (s : Nat × Flags) x => let t := f.minMax max s.1 x; (t.1, s.2 ||| t.2)) (c, sigFlag [f.decode c])
    (if (f.decode r.1).isNan then f.nanCode else r.1, r.2)

/-- A reduction into element 0; the others are written zero. `from_` says whether an element's bits are in the result, for
its poison (R244, assumption 86); a poisoned mask bit of any element poisons it (assumption 113). -/
def reduceOp (w : Nat) (p : BitVec 1) (a d : BitVec 5) (mode draws : Nat) (f : Nat → List Nat → Nat × Flags)
    (from_ : Nat → Nat → Bool) (s : State) : Chk State :=
  vectorOp s [a.toNat] [d.toNat] w mode draws (fun _ _ _ => true) (fun _ _ _ => false)
    fun x vals rnd _ =>
      let act := (List.range (eCount w)).filter (x.active p w)
      let r := f (rnd 0) (act.map (elemAt (valueOf vals a.toNat) w))
      let bad := (act.any fun j => elemPoison (poisonOf vals a.toNat) w j && from_ (elemAt (valueOf vals a.toNat) w j) r.1) ||
        (List.range (eCount w)).any (x.maskPoison p w)
      (List.range (eCount w)).map fun j => if j = 0 then { v := r.1, f := r.2, poison := bad } else { v := 0 }

def isFloatType (t : BitVec 4) : Bool := t.toNat ≤ 4

/-- VRSUM. -/
def execVrsum (p : BitVec 1) (t : BitVec 4) (a d : BitVec 5) (s : State) : Host.Outcome State Fault Refusal :=
  run s (estream (.vrsum p t a d) 4 (fun s =>
    if isFloatType t then do
      let mode ← s.act.eMode 7
      let f := vecFmt t
      reduceOp f.width p a d mode (eCount f.width) (fun rnd l =>
        let x := FV.sum (mode == 3) (l.map (vecIn f))
        let r := f.deliver mode (f.deliverAs s.act.e5inf (f != fp32)) rnd x.1
        (r.1, x.2 ||| r.2)) (fun _ _ => true) s
    else
      reduceOp (intWidth t) p a d 0 0 (fun _ l => (l.sum % 2 ^ intWidth t, 0)) (fun _ _ => true) s) s)

/-- The least or greatest integer element, or the far end of the type's range when there is none. -/
def intExtreme (max : Bool) (g : Bool) (w : Nat) (l : List Nat) : Nat :=
  let vals := l.map (intOf g w)
  wrapInt w (if max then vals.foldl (fun s x => if s < x then x else s) (intLo g w) else vals.foldl (fun s x => if x < s then x else s) (intHi g w))

/-- The least or greatest element: its poison is that of the elements equal to it, all of them where every one is a NaN
(assumption 86). -/
def reduceExtreme (max : Bool) (p : BitVec 1) (t : BitVec 4) (a d : BitVec 5) (s : State) : Chk State :=
  if isFloatType t then
    let f := vecFmt t
    reduceOp f.width p a d 0 0 (fun _ l => f.extreme max (l.map (flushIn f)))
      (fun c r => flushIn f c == r || (f.decode r).isNan) s
  else reduceOp (intWidth t) p a d 0 0 (fun _ l => (intExtreme max (intSigned t) (intWidth t) l, 0)) (fun c r => c == r) s

/-- VRMAX. -/
def execVrmax (p : BitVec 1) (t : BitVec 4) (a d : BitVec 5) (s : State) : Host.Outcome State Fault Refusal :=
  run s (estream (.vrmax p t a d) 4 (reduceExtreme true p t a d) s)
/-- VRMIN. -/
def execVrmin (p : BitVec 1) (t : BitVec 4) (a d : BitVec 5) (s : State) : Host.Outcome State Fault Refusal :=
  run s (estream (.vrmin p t a d) 4 (reduceExtreme false p t a d) s)

/-! ## Permutes (R259, R260) -/

/-- An element taken from a source register, or zero, at the bidding of an index element. -/
def pick (vals : List (Nat × ERow × BitVec 32)) (w : Nat) (r : Option (Nat × Nat)) (bad : Bool) : EElem :=
  match r with
  | some (reg, j) => { v := elemAt (valueOf vals reg) w j, poison := bad || elemPoison (poisonOf vals reg) w j }
  | none => { v := 0, poison := bad }

/-- VPERM. -/
def execVperm (p : BitVec 1) (t : BitVec 4) (b a d : BitVec 5) (s : State) : Host.Outcome State Fault Refusal :=
  run s (estream (.vperm p t b a d) 4 (fun s =>
    let w := intWidth t
    vectorOp s [a.toNat, b.toNat] [d.toNat] w 0 0 (fun x _ j => x.active p w j) (fun x _ j => x.maskPoison p w j)
      fun _ vals _ _ => (List.range (eCount w)).map fun j =>
        let i := elemAt (valueOf vals b.toNat) w j
        pick vals w (if i < eCount w then some (a.toNat, i) else none) (elemPoison (poisonOf vals b.toNat) w j)) s)

/-- VSHUF: the old destination is the index. -/
def execVshuf (p : BitVec 1) (t : BitVec 4) (b a d : BitVec 5) (s : State) : Host.Outcome State Fault Refusal :=
  run s (estream (.vshuf p t b a d) 4 (fun s =>
    let w := intWidth t
    let n := eCount w
    vectorOp s [a.toNat, b.toNat, d.toNat] [d.toNat] w 0 0 (fun x _ j => x.active p w j) (fun x _ j => x.maskPoison p w j)
      fun _ vals _ _ => (List.range n).map fun j =>
        let i := elemAt (valueOf vals d.toNat) w j
        pick vals w (if i < n then some (a.toNat, i) else if i < 2 * n then some (b.toNat, i - n) else none)
          (elemPoison (poisonOf vals d.toNat) w j)) s)

/-- VSLIDE: lanes of the source followed by lanes of the old destination. -/
def execVslide (p : BitVec 1) (sh a d : BitVec 5) (s : State) : Host.Outcome State Fault Refusal :=
  run s (estream (.vslide p sh a d) 4 (fun s =>
    vectorOp s [a.toNat, d.toNat] [d.toNat] 32 0 0 (fun x _ j => x.active p 32 j) (fun x _ j => x.maskPoison p 32 j)
      fun _ vals _ _ => (List.range 32).map fun i =>
        let k := i + sh.toNat
        pick vals 32 (some (if k < 32 then (a.toNat, k) else (d.toNat, k - 32))) false) s)

/-! ## Queue moves (R261) -/

/-- VTOQ. -/
def execVtoq (w : BitVec 4) (a : BitVec 5) (q : BitVec 1) (s : State) : Host.Outcome State Fault Refusal :=
  run s (estream (.vtoq w a q) 4 (fun s => do
    let n := 4 + q.toNat
    let l := s.act.queue n
    await (decide (l.length < 8))
    let (vals, s) ← s.sources [a.toNat] []
    let poison := bits (poisonOf vals a.toNat).toNat (2 * w.toNat) 2 != 0
    .ok (s.modAct fun x => x.setQueue n (l ++ [(BitVec.ofNat 64 (elemAt (valueOf vals a.toNat) 64 w.toNat), poison)]))) s)

/-- A row with the queue's entry in some of its words. -/
def fromQueue (n : Nat) (d : BitVec 5) (words : Nat → Bool) (s : State) : Chk State :=
  match s.act.queue n with
  | [] => stall
  | (v, poison) :: rest => do
    s.checkBound [] [d.toNat]
    let s := s.modAct fun x => x.setQueue n rest
    s.writeElems d.toNat 64 words (fun _ => false) (List.replicate 16 { v := v.toNat, poison := poison })

/-- VFROMQ into every word. -/
def execVfromq (q : BitVec 2) (d : BitVec 5) (s : State) : Host.Outcome State Fault Refusal :=
  run s (estream (.vfromq q d) 4 (fromQueue q.toNat d fun _ => true) s)
/-- VFROMQ into one word. -/
def execVfromqWord (w : BitVec 4) (q : BitVec 2) (d : BitVec 5) (s : State) : Host.Outcome State Fault Refusal :=
  run s (estream (.vfromqWord w q d) 4 (fromQueue q.toNat d fun j => j == w.toNat) s)

/-! ## Predicates (R262) -/

/-- A whole p register from two. -/
def predOp (b a d : BitVec 3) (f : PRow → PRow → PRow) (s : State) : Chk State :=
  let x := s.act
  .ok (s.writeP d.toNat (f (vget x.p a.toNat) (vget x.p b.toNat)) (vget x.pp a.toNat ||| vget x.pp b.toNat) (BitVec.allOnes 128))

/-- PAND. -/
def execPand (b a d : BitVec 3) (s : State) : Host.Outcome State Fault Refusal :=
  run s (estream (.pand b a d) 4 (predOp b a d (· &&& ·)) s)
/-- POR. -/
def execPor (b a d : BitVec 3) (s : State) : Host.Outcome State Fault Refusal :=
  run s (estream (.por b a d) 4 (predOp b a d (· ||| ·)) s)
/-- PNOT. -/
def execPnot (a d : BitVec 3) (s : State) : Host.Outcome State Fault Refusal :=
  run s (estream (.pnot a d) 4 (predOp a a d fun x _ => ~~~x) s)
/-- PMOV. -/
def execPmov (a d : BitVec 3) (s : State) : Host.Outcome State Fault Refusal :=
  run s (estream (.pmov a d) 4 (predOp a a d fun x _ => x) s)

/-- PTOBQ. -/
def execPtobq (l : BitVec 1) (a : BitVec 3) (s : State) : Host.Outcome State Fault Refusal :=
  run s (estream (.ptobq l a) 4 (fun s => do
    await (decide (s.act.bq.length < 16))
    let v := vget s.act.p a.toNat
    let bit := if l = 1 then v == BitVec.allOnes 128 else v != 0
    .ok (s.modAct fun x => { x with bq := x.bq ++ [(bit, vget x.pp a.toNat != 0)] })) s)

end Sys2Proof.Machine
end

