-- ==== Sys2Proof/Machine/Matrix.lean ====
section
/-! DEFINITION. The MATRIX group at issue: operand records, tiles and weight buffers claimed, and entries put in queue 4
(10 R263 to R287). -/

namespace Sys2Proof.Machine

/-! ## Pairing (06 R146) -/

def scalingClass (code : Nat) : Nat :=
  if code < 10 then 0 else if code < 16 then 1 else if code < 23 then 2 else if code = 23 then 3 else 4
/-- Elements of one kind of width: FP32, BF16 and FP16 pair with themselves, the 8-bit and narrower among themselves. -/
def elemsPair (a w : Elem) : Bool :=
  match a, w with
  | .int _, .int _ => true
  | .fp f, .fp g => if 8 < f.width || 8 < g.width then f == g else true
  | _, _ => false
def mayPair (act weight : Nat) : Bool := scalingClass act == scalingClass weight && elemsPair (elemOf act) (elemOf weight)
/-- The chunk length of a pair. -/
def chunkLen (weight : Nat) : Nat := match elemOf weight with
  | .fp f => if 8 < f.width then 8 else 32
  | .int _ => 32

/-! ## Claims (R265, R266) -/

/-- A tile as it is claimed: zero in every element. -/
def State.tile (s : State) (core n : Nat) : Option Tile := (s.core core).tiles.find? fun t => t.num == n
/-- A slot claims the tiles it names; one that another holds stalls it. -/
def State.claim (s : State) (tiles : List Nat) : Chk State := do
  let core := s.act.core
  await (tiles.all fun n => (s.tile core n).all fun t => t.owner == s.act.aid)
  let fresh := (tiles.filter fun n => (s.tile core n).isNone).eraseDups.map fun n => ({ num := n, owner := s.act.aid } : Tile)
  .ok (s.modCore core fun c => { c with tiles := c.tiles ++ fresh })

/-- The buffer that the activation has loaded. -/
def State.loadedBuf (s : State) (n : Nat) : Chk WBuf :=
  match (s.core s.act.core).bufs.find? fun b => b.num == n && b.owner == s.act.aid with
  | some b => .ok b
  | none => kill 3

/-- MLDW claims its buffer, and says what later instructions will find in it. -/
def State.claimBuf (s : State) (n : Nat) (issued : Nat × Nat × Nat) : Chk State := do
  let core := s.act.core
  await ((s.core core).bufs.all fun b => b.num != n || b.owner == s.act.aid)
  let l := (s.core core).bufs
  let l := if l.any (·.num == n) then mapIf (·.num == n) (fun b => { b with issued := issued }) l
    else l ++ [({ num := n, owner := s.act.aid, issued := issued } : WBuf)]
  .ok (s.modCore core fun c => { c with bufs := l })

/-! ## Operands (R264, R267, R268) -/

/-- A layout register: spitch and pitch. -/
def layoutOf (w : Word) (scaled : Bool) : Chk (Nat × Nat) := do
  need (bits w.toNat 35 29 == 0 && (scaled || bits w.toNat 16 16 == 0)) 3
  .ok (bits w.toNat 16 16, bits w.toNat 0 16)

/-- A whole number of bytes in a line. -/
def wholeLine (fmt k : Nat) : Chk Unit := need (k * widthOf fmt % 8 == 0) 3
def absent (s : State) (tiles : List Nat) : Chk Unit := need (tiles.all fun n => decide (n < (s.core s.act.core).acc)) 3

/-- What a matrix operand names: its base, which is 32-byte aligned as its pitch is, and the ranges of its lines and their
scales. -/
def operandUse (base : Word) (pitch : Nat) (ranges : List (Nat × Nat)) (acc : Access) (cluster : Bool) : List PadUse :=
  { va := base.toNat, n := 0, cluster := cluster, acc := acc } :: { va := pitch, n := 0, cluster := cluster, acc := acc } ::
    ranges.map fun r => { va := r.1, n := r.2, align := 1, cluster := cluster, acc := acc }
/-- Steps 1 to 4 of R103 over a matrix entry's operands (R268). -/
def State.checkOperands (s : State) (l : List PadUse) : Chk Unit := s.checkUses l [] []

/-- A service core has no matrix array (01 R25). -/
def State.hasArray (s : State) : Chk Unit := need (!isService s.act.core) 3

/-- An entry enters queue 4, and its activation claims what it names. -/
def State.issueMatrix (s : State) (op : EOp) (claims : State → Chk State) : Chk State := do
  let t ← s.enterQueue s.act 4 op none [] 0 (!s.act.committed)
  let t ← claims t
  .ok (t.advance 4)

/-- Only these bits of an operand may be set. -/
def onlyBits (w : Word) (mask : Nat) : Chk Unit := need (w.toNat &&& (2 ^ 64 - 1 - mask) == 0) 3

/-! ## The forms -/

/-- MLDW (R270). -/
def execMldw (f a : BitVec 5) (w : BitVec 1) (s : State) : Host.Outcome State Fault Refusal :=
  run s (do
    s.hasArray
    let v ← s.act.ctlX a
    let base ← s.act.ctlO 2
    let lay ← s.act.ctlO 3
    onlyBits v 0x7F7F
    let (spitch, pitch) ← layoutOf lay (10 ≤ f.toNat)
    let k := bits v.toNat 0 7 + 1
    let n := bits v.toNat 8 7 + 1
    wholeLine f.toNat k
    s.checkOperands (operandUse base pitch (operandRanges f.toNat k n base.toNat pitch spitch true) .engineRead true)
    s.issueMatrix (.mldw w.toNat f.toNat k n base.toNat pitch spitch) fun s => s.claimBuf w.toNat (f.toNat, k, n))

/-- A gate of MMAC: counter, target and the acquire event's mask (R272). -/
abbrev Gate := Nat × Word32 × BitVec 17

/-- MMA, or with a gate MMAC (R271, R272). -/
def mmaOp (f : BitVec 5) (w : BitVec 1) (a : BitVec 5) (d : BitVec 4) (gate : State → Chk (Option Gate)) (s : State) : Chk State := do
  s.hasArray
  absent s [d.toNat]
  let v ← s.act.ctlX a
  let base ← s.act.ctlO 2
  let lay ← s.act.ctlO 3
  onlyBits v 0x7F
  let (spitch, pitch) ← layoutOf lay (10 ≤ f.toNat)
  let g ← gate s
  let b ← s.loadedBuf w.toNat
  let (wf, k, _) := b.issued
  need (mayPair f.toNat wf) 3
  wholeLine f.toNat k
  let m := bits v.toNat 0 7 + 1
  s.checkOperands (operandUse base pitch (operandRanges f.toNat k m base.toNat pitch spitch false) .engineRead true)
  let op := EOp.mma d.toNat w.toNat f.toNat k m base.toNat pitch spitch (g.map fun x => (x.1, x.2.1))
  s.issueMatrix op fun t => do
    let t ← t.claim [d.toNat]
    .ok (match g with
      | some x => t.acquireLater t.me { op := s.env.nextId, mask := x.2.2, atomic := false, pos := if t.act.committed then 0 else t.act.staged.length }
      | none => t)

/-- MMA. -/
def execMma (f : BitVec 5) (w : BitVec 1) (a : BitVec 5) (d : BitVec 4) (s : State) : Host.Outcome State Fault Refusal :=
  run s (mmaOp f w a d (fun _ => .ok none) s)

/-- The gate that o6 and o7 name. -/
def State.gate (s : State) : Chk (Option Gate) := do
  let o6 ← s.act.ctlO 6
  let o7 ← s.act.ctlO 7
  need (o6.toNat &&& 0xFFFFF0C0 == 0 && decide (bits o6.toNat 8 4 ≤ 10)) 3
  let mask ← maskOf o7
  .ok (some (bits o6.toNat 0 6, o6.extractLsb' 32 32, mask))

/-- MMAC. -/
def execMmac (f : BitVec 5) (w : BitVec 1) (a : BitVec 5) (d : BitVec 4) (s : State) : Host.Outcome State Fault Refusal :=
  run s (mmaOp f w a d State.gate s)

/-- MZERO (R278). -/
def execMzero (d : BitVec 4) (s : State) : Host.Outcome State Fault Refusal :=
  run s (do
    s.hasArray
    absent s [d.toNat]
    s.issueMatrix (.mzero d.toNat) fun s => s.claim [d.toNat])

/-- MSTORE (R281, R282). -/
def execMstore (f a : BitVec 5) (d : BitVec 4) (s : State) : Host.Outcome State Fault Refusal :=
  run s (do
    s.hasArray
    absent s [d.toNat]
    let v ← s.act.ctlX a
    let base ← s.act.ctlO 2
    let lay ← s.act.ctlO 3
    onlyBits v 0xFF7F7F
    let (_, pitch) ← layoutOf lay false
    let bias ← (if v.getLsbD 23 then do let o ← s.act.ctlO 4; .ok (some o) else .ok none)
    let scale ← (if v.getLsbD 22 then do
        let o ← s.act.ctlO 5
        need (decide (o.toNat < 2 ^ 32)) 3
        .ok (some (o.setWidth 32))
      else .ok none)
    let func := bits v.toNat 19 3
    need (decide (func ≤ 5)) 3
    let rm ← modeFor (s.act.frm.setWidth 3) (v.extractLsb' 16 3)
    let m := bits v.toNat 0 7 + 1
    let n := bits v.toNat 8 7 + 1
    wholeLine f.toNat n
    s.checkOperands (operandUse base pitch (operandRanges f.toNat n m base.toNat pitch 0 false) .engineWrite false ++
      (match bias with
       | some o => operandUse o 0 [(o.toNat, 4 * n)] .engineRead true
       | none => []))
    let op := EOp.mstore d.toNat f.toNat m n base.toNat pitch (bias.map (·.toNat)) scale func rm s.e5now s.act.mdraw
    let t ← s.issueMatrix op fun s => s.claim [d.toNat]
    .ok (if rm = 4 then t.modAct fun x => { x with mdraw := x.mdraw + BitVec.ofNat 64 (m * n) } else t))

/-- MMAS (R274, R275). -/
def execMmas (f a : BitVec 5) (d : BitVec 4) (s : State) : Host.Outcome State Fault Refusal :=
  run s (do
    s.hasArray
    let tiles := (List.range 4).map (d.toNat + ·)
    absent s tiles
    let v ← s.act.ctlX a
    let aBase ← s.act.ctlO 2
    let aLay ← s.act.ctlO 3
    let bBase ← s.act.ctlO 4
    let bLay ← s.act.ctlO 5
    onlyBits v 0x1FFF7F01FF01FF
    let wf := bits v.toNat 48 5
    let (aSpitch, aPitch) ← layoutOf aLay (10 ≤ f.toNat)
    let (bSpitch, bPitch) ← layoutOf bLay (decide (10 ≤ wf))
    let ks := bits v.toNat 32 7 + 1
    let rows := bits v.toNat 0 9
    let cols := bits v.toNat 16 9
    need (decide (rows ≤ 256) && decide (cols ≤ 256) && mayPair f.toNat wf) 3
    wholeLine f.toNat ks
    wholeLine wf ks
    let op := EOp.mmas d.toNat f.toNat wf (bits v.toNat 40 8) ks rows cols aBase.toNat aPitch aSpitch bBase.toNat bPitch bSpitch
    let aRanges := operandRanges f.toNat ks rows aBase.toNat aPitch aSpitch false
    s.checkOperands (operandUse aBase aPitch aRanges .engineRead false ++
      operandUse bBase bPitch ((op.ranges.map (·.2)).drop aRanges.length) .engineRead false)
    s.issueMatrix op fun s => s.claim tiles)

/-- MTOPK (R283). -/
def execMtopk (b : BitVec 4) (a : BitVec 5) (d : BitVec 4) (s : State) : Host.Outcome State Fault Refusal :=
  run s (do
    s.hasArray
    absent s [d.toNat, b.toNat]
    let v ← s.act.ctlX a
    onlyBits v 0xFFFF00007F7F
    let m := bits v.toNat 0 7 + 1
    let n := bits v.toNat 8 7 + 1
    let base := bits v.toNat 32 16
    need (decide (base + n - 1 ≤ 65535)) 3
    s.issueMatrix (.mtopk d.toNat b.toNat m n base) fun s => s.claim [d.toNat, b.toNat])

/-- MTKR (R284). -/
def execMtkr (a : BitVec 5) (d : BitVec 4) (s : State) : Host.Outcome State Fault Refusal :=
  run s (do
    s.hasArray
    absent s [d.toNat]
    let v ← s.act.ctlX a
    let base ← s.act.ctlO 2
    let lay ← s.act.ctlO 3
    onlyBits v 0xF007F
    let (_, pitch) ← layoutOf lay false
    let m := bits v.toNat 0 7 + 1
    let k := bits v.toNat 16 4
    need (decide (1 ≤ k) && decide (k ≤ 8)) 3
    s.checkOperands (operandUse base pitch [(base.toNat, (m - 1) * pitch + 8 * k)] .engineWrite false)
    s.issueMatrix (.mtkr d.toNat m k base.toNat pitch) fun s => s.claim [d.toNat])

/-- MSCL (R279). -/
def execMscl (r : BitVec 1) (a : BitVec 5) (d : BitVec 4) (s : State) : Host.Outcome State Fault Refusal :=
  run s (do
    s.hasArray
    absent s [d.toNat]
    let v ← s.act.ctlX a
    if r = 0 then need (decide (v.toNat < 2 ^ 32)) 3
    if r = 1 then s.checkOperands (operandUse v 0 [(v.toNat, 512)] .engineRead true)
    s.issueMatrix (.mscl d.toNat (if r = 1 then .inr v.toNat else .inl (v.setWidth 32))) fun s => s.claim [d.toNat])

/-- The tile's part of what MSTAT reads (R285). -/
def Tile.status (t : Tile) : Word :=
  flagAt t.abandoned 51 ||| flagAt t.corrected 50 ||| flagAt t.uncorrectable 49 ||| flagAt t.suspect 48 |||
  BitVec.ofNat 64 (t.ncols * 2 ^ 40 + t.nrows * 2 ^ 32 + t.col * 2 ^ 24 + t.row * 2 ^ 16) ||| flagAt t.nan 5

def EOp.isJoin : EOp → Bool
  | .join _ => true
  | _ => false

/-- MSTAT waits for the activation's matrix entries. -/
def execMstat (c : BitVec 1) (b : BitVec 4) (d : BitVec 5) (s : State) : Host.Outcome State Fault Refusal :=
  run s (do
    s.hasArray
    absent s [b.toNat]
    let core := s.act.core
    await !((vget (s.core core).queues 4).any fun e => e.aid == s.act.aid && !e.op.isJoin)
    let mine (t : Tile) : Bool := t.num == b.toNat && t.owner == s.act.aid
    let v := (((s.core core).tiles.find? mine).map Tile.status).getD 0 ||| at_ s.act.replays 52 ||| at_ s.act.mflags 0
    let s := if c = 1 then
        (s.modCore core fun k => { k with tiles := mapIf mine (fun t =>
          { t with abandoned := false, corrected := false, uncorrectable := false, suspect := false }) k.tiles }).modAct fun x =>
          { x with replays := 0, mflags := 0 }
      else s
    .ok (s.result 4 d v))

/-- MCHK (R286): the tolerance is read now. -/
def execMchk (d : BitVec 4) (s : State) : Host.Outcome State Fault Refusal :=
  run s (do
    s.hasArray
    absent s [d.toNat]
    s.issueMatrix (.mchk d.toNat s.act.tol) fun s => s.claim [d.toNat])

/-- MCORR (R287). -/
def execMcorr (d : BitVec 4) (s : State) : Host.Outcome State Fault Refusal :=
  run s (do
    s.hasArray
    absent s [d.toNat]
    s.issueMatrix (.mcorr d.toNat) fun s => s.claim [d.toNat])

/-- MACC (R278). -/
def execMacc (b d : BitVec 4) (s : State) : Host.Outcome State Fault Refusal :=
  run s (do
    s.hasArray
    absent s [d.toNat, b.toNat]
    s.issueMatrix (.macc d.toNat b.toNat) fun s => s.claim [d.toNat, b.toNat])

/-- MLDA (R280). -/
def execMlda (f : BitVec 1) (a : BitVec 5) (d : BitVec 4) (s : State) : Host.Outcome State Fault Refusal :=
  run s (do
    s.hasArray
    absent s [d.toNat]
    let v ← s.act.ctlX a
    let base ← s.act.ctlO 2
    let lay ← s.act.ctlO 3
    onlyBits v 0x7F7F
    let (_, pitch) ← layoutOf lay false
    let m := bits v.toNat 0 7 + 1
    let n := bits v.toNat 8 7 + 1
    s.checkOperands (operandUse base pitch (operandRanges f.toNat n m base.toNat pitch 0 false) .engineRead true)
    s.issueMatrix (.mlda d.toNat f.toNat m n base.toNat pitch) fun s => s.claim [d.toNat])

end Sys2Proof.Machine
end

