-- ==== Sys2Proof/Machine/Array.lean ====
section
/-! DEFINITION. The matrix array: operands as it decodes them, summation order, tiles and checksums, and what each entry of
queue 4 does to its tile (06 R141 to R146, R155 to R157; 10 R270 to R287). -/

namespace Sys2Proof.Machine

/-! ## Bytes of the pool and packed elements (04 R105) -/

/-- The pool byte that an address of the local or the cluster window names. -/
def padKey (core va : Nat) : Nat :=
  if va / 2 ^ 48 = 0x70 then poolKey core (va % 2 ^ 48) else poolKey (core / 8 * 8 + va % 2 ^ 48 / 2 ^ 24) (va % 2 ^ 24)
def State.padRead (s : State) (core va n : Nat) : List Byte × Bool := s.readPlain (dieOf core) (padKey core va) n

/-- Elements packed from bit 0 of each byte upward. -/
def unpack (w : Nat) (bs : List Byte) (n : Nat) : List Nat :=
  let v := leNat bs
  (List.range n).map fun i => bits v (w * i) w
def packBits (w : Nat) (codes : List Nat) : Nat := codes.reverse.foldl (fun v c => v * 2 ^ w + c % 2 ^ w) 0
def pack (w : Nat) (codes : List Nat) : List Byte := leBytes (ceilDiv (w * codes.length) 8) (packBits w codes)

/-- Bytes written with poison where `bad` says so of a 32-byte sector's offsets from `va`. -/
def State.padWrite (s : State) (core va : Nat) (bs : List Byte) (bad : Nat → Nat → Bool) : State :=
  (blocks 32 va bs.length).foldl (fun s b =>
    let t := slice 32 b va bs
    s.writeNow 0 (padKey core t.1) t.2 (bad (t.1 - va) t.2.length)) s

/-! ## Decoding (06 R138 to R145) -/

/-- Decoding an element is a widening: its NaNs are quiet. -/
def quiet (v : FV) : FV := if v.isNan then .nan false else v
def elemValue (code v : Nat) : FV :=
  match elemOf code with
  | .fp f => quiet (f.decode v)
  | .int n => let i := intOf true n v; .fin (decide (i < 0)) i.natAbs (if code = 15 then -6 else 0)
/-- The scale formats (R141). -/
def scaleValue (code v : Nat) : FV :=
  if code < 16 then (if v = 0xFF then .nan false else .fin false 1 ((v : Int) - 127))
  else if code < 24 then quiet (e4m3.decode v)
  else quiet (fp32.decode v)
/-- An exact product in decoding. -/
def times (a b : FV) : FV := (a.mul b).1

/-- A decoded line: a row of activations or a column of weights. -/
structure MLine where
  fmt : Nat
  codes : List Nat
  /-- decoded elements, with their block scales for codes 10 to 23 -/
  dec : List FV
  /-- fully scaled elements -/
  full : List FV
  /-- the tensor scale, or the scale of codes 24 to 31 -/
  scale : FV
  /-- block scales -/
  scales : List FV
  poison : Bool
  deriving DecidableEq, Repr, Inhabited

def mkLine (fmt : Nat) (codes scales : List Nat) (tensorScale : FV) (poison : Bool) : MLine :=
  let sv := scales.map (scaleValue fmt)
  let raw := codes.map (elemValue fmt)
  let dec := if fmt < 10 ∨ 24 ≤ fmt then raw else raw.zipIdx.map fun t => times t.1 (sv.getD (t.2 / blockOf fmt) default)
  let scale := if fmt = 23 then tensorScale else if 24 ≤ fmt then sv.getD 0 default else .fin false 1 0
  { fmt := fmt, codes := codes, dec := dec, full := if fmt < 23 then dec else dec.map (times · scale), scale := scale
    scales := sv, poison := poison }

/-- A line's codes, its scales and its poison. `row` is the row of scales it uses (R267, R145). -/
def State.readLine (s : State) (core fmt k base pitch spitch i row : Nat) : RawLine :=
  let d := s.padRead core (base + i * pitch) (k * widthOf fmt / 8)
  if fmt < 10 then { codes := unpack (widthOf fmt) d.1 k, scales := [], poison := d.2 }
  else
    let n := ceilDiv k (blockOf fmt)
    let z := scaleBytes fmt
    let c := s.padRead core (base + 32 * spitch + headerBytes fmt + 32 * row) (z * n)
    { codes := unpack (widthOf fmt) d.1 k, scales := unpack (8 * z) c.1 n, poison := d.2 || c.2 }

/-- A matrix operand as it is read, with the tensor scale of code 23. The weights of codes 24 to 31 take the scale of the
first line of their tile of 128. -/
def State.readBlock (s : State) (core fmt k n base pitch spitch : Nat) (weights : Bool) : RawBlock :=
  let ts := if fmt = 23 then s.padRead core (base + 32 * spitch) 4 else ([], false)
  { fmt := fmt, tensorScale := leNat ts.1, poison := ts.2
    lines := (List.range n).map fun i =>
      s.readLine core fmt k base pitch spitch i (if weights && decide (24 ≤ fmt) then i / 128 * 128 else i) }

/-- The decoded lines of a block. -/
def RawBlock.decode (b : RawBlock) : List MLine :=
  let ts := if b.fmt = 23 then quiet (fp32.decode b.tensorScale) else .fin false 1 0
  b.lines.map fun r => mkLine b.fmt r.codes r.scales ts (r.poison || b.poison)

/-! ## Summation (06 R155 to R157) -/

/-- The exact sum of products of a chunk. -/
def dot (ps : List (FV × FV)) : FV × Flags :=
  let ms := ps.map fun p => p.1.mul p.2
  let r := FV.sum false (ms.map (·.1))
  (r.1, ms.foldl (fun f m => f ||| m.2) r.2)

def chunksOf {α : Type} (l : Nat) (xs : List α) : List (List α) :=
  (List.range (ceilDiv xs.length l)).map fun c => (xs.drop (c * l)).take l

/-- `round_fp32(acc + round_fp32(s))`. -/
def accAdd (acc : Word32 × Flags) (s : FV) : Word32 × Flags :=
  let r := rne32 s
  let v := (val32 acc.1).add false (val32 r.1)
  let t := rne32 v.1
  (t.1, acc.2 ||| r.2 ||| v.2 ||| t.2)

/-- The loop of R155: `f` is what multiplies a chunk sum. -/
def sumChunks (l : Nat) (f : FV → FV × Flags) (ps : List (FV × FV)) (acc : Word32 × Flags) : Word32 × Flags :=
  (chunksOf l ps).foldl (fun acc c =>
    let d := dot c
    let m := f d.1
    accAdd (acc.1, acc.2 ||| d.2 ||| m.2) m.1) acc

/-- Products with two FP32 scales. -/
def scaleBy (a b : FV) (s : FV) : FV × Flags :=
  let p := s.mul a
  let q := p.1.mul b
  (q.1, p.2 ||| q.2)

/-- R156: the chunk sums of a block of 128 go to one sum, which is scaled and added once. -/
def sumBlock (l : Nat) (sa sb : FV) (ps : List (FV × FV)) (acc : Word32 × Flags) : Word32 × Flags :=
  let d := (List.range (128 / l)).map fun j => dot ((ps.drop (j * l)).take l)
  let first := rne32 (d.getD 0 default).1
  let t := (d.drop 1).foldl (fun t s => accAdd t s.1) first
  let m := scaleBy sa sb (val32 t.1)
  accAdd (acc.1, d.foldl (fun f s => f ||| s.2) (acc.2 ||| t.2 ||| m.2)) m.1

/-- The halves of an FP32 operand (R157). A NaN's high half is a NaN. -/
def hiHalf (code : Nat) : FV :=
  let v := elemValue 0 code
  if v.isNan then v else fp32.decode (code / 2 ^ 16 * 2 ^ 16)
def loHalf (code : Nat) : FV :=
  match elemValue 0 code with
  | .fin n m e =>
    let d := (FV.fin n m e).add false (hiHalf code).neg
    bf16.decode (bf16.deliver 0 { inf := false, flush := false } 0 d.1).1
  | _ => .fin false 0 0

/-- One element of a product, on a row of activations and a column of weights. -/
def mmaElem (l : Nat) (a b : MLine) (acc : Word32) : Word32 × Flags :=
  if a.fmt = 0 then
    let ah := a.codes.map hiHalf
    let al := a.codes.map loHalf
    let bh := b.codes.map hiHalf
    let bl := b.codes.map loHalf
    let pass := sumChunks 8 fun s => (s, 0)
    pass (al.zip bh) (pass (ah.zip bl) (pass (ah.zip bh) (acc, 0)))
  else if a.fmt < 23 then sumChunks l (fun s => (s, 0)) (a.dec.zip b.dec) (acc, 0)
  else if a.fmt = 23 then sumChunks l (scaleBy a.scale b.scale) (a.dec.zip b.dec) (acc, 0)
  else sumBlock l a.scale b.scale (a.dec.zip b.dec) (acc, 0)

/-- The exact sum of one place of every line, rounded once. -/
def lineSum (lines : List MLine) (k : Nat) : Word32 := (rne32 (FV.sum false (lines.map fun l => l.full.getD k default)).1).1

/-! ## The exponent-bound check (10 R288, mode 2) -/

def maxFinite (code : Nat) : FV :=
  match elemOf code with
  | .fp f => f.decode f.largest
  | .int n => .fin false (2 ^ (n - 1) - 1) (-6)
/-- A chunk sum of codes 10 to 15 exceeds its bound. -/
def exceeds (l : Nat) (a b : MLine) : Bool :=
  10 ≤ a.fmt && decide (a.fmt < 16) && (chunksOf l (a.dec.zip b.dec)).zipIdx.any fun t =>
    let bound := times (times (.fin false l 0) (times (maxFinite a.fmt) (maxFinite b.fmt)))
      (times (a.scales.getD t.2 default) (b.scales.getD t.2 default))
    !bound.isNan && !(dot t.1).1.isNan && (dot t.1).1.abs.cmp bound == 1

/-! ## Tiles -/

def Tile.at (t : Tile) (i n : Nat) : Word32 := look 0 t.elems (128 * i + n)
def Tile.bad (t : Tile) (i n : Nat) : Bool := t.poison.contains (16 * i + n / 8)
/-- Every element made anew, with its poison, and the flags of making it. -/
def Tile.map (t : Tile) (f : Nat → Nat → Word32 × Flags) (bad : Nat → Nat → Bool) : Tile × Flags :=
  let r : List (Nat × Word32 × Flags) := (List.range 16384).map fun k => (k, f (k / 128) (k % 128))
  let poison := (List.range 2048).filter fun k => (List.range 8).any fun j => bad (k / 16) (k % 16 * 8 + j)
  ({ t with elems := (r.filter fun x => x.2.1 != 0).map (fun x => (x.1, x.2.1)), poison := poison },
   r.foldl (fun g x => g ||| x.2.2) 0)
/-- Places of a checksum vector made anew. -/
def sums128 (f : Nat → Word32) : List (Nat × Word32) := ((List.range 128).map fun i => (i, f i)).filter fun x => x.2 != 0
/-- Poison of the checksums: rows, then columns, and the top-k rows as they were. -/
def sumBad (t : Tile) (row col : Nat → Bool) : List Nat :=
  ((List.range 128).filter row) ++ ((List.range 128).filter col).map (128 + ·) ++ t.sumPoison.filter fun k => decide (256 ≤ k)

def Tile.rowSum (t : Tile) (i : Nat) : Word32 := (rne32 (FV.sum false ((List.range 128).map fun n => val32 (t.at i n))).1).1
def Tile.colSum (t : Tile) (n : Nat) : Word32 := (rne32 (FV.sum false ((List.range 128).map fun i => val32 (t.at i n))).1).1
def Tile.rowBad (t : Tile) (i : Nat) : Bool := (List.range 128).any (t.bad i)
def Tile.colBad (t : Tile) (n : Nat) : Bool := (List.range 128).any fun i => t.bad i n

/-- A product added to a tile, with its checksums (R271): lines of activations, columns of weights, and the checksum
column. -/
def Tile.multiply (t : Tile) (l : Nat) (bound : Bool) (a b : List MLine) (bs : List Word32) : Tile × Flags :=
  let m := a.length
  let n := b.length
  let inside (i j : Nat) : Bool := decide (i < m) && decide (j < n)
  let row (i : Nat) : MLine := a.getD i default
  let col (j : Nat) : MLine := b.getD j default
  let as_ := (List.range bs.length).map fun x => lineSum a x
  let anyA := a.any (·.poison)
  let anyB := b.any (·.poison)
  let r := t.map (fun i j => if inside i j then mmaElem l (row i) (col j) (t.at i j) else (t.at i j, 0))
    fun i j => t.bad i j || (inside i j && ((row i).poison || (col j).poison))
  let chunked (ps : List (FV × FV)) (acc : Word32) : Word32 := (sumChunks l (fun s => (s, 0)) ps (acc, 0)).1
  let pr (i : Nat) : Word32 := if i < m then chunked ((row i).full.zip (bs.map val32)) (look 0 t.pr i) else look 0 t.pr i
  let pc (j : Nat) : Word32 := if j < n then chunked ((as_.map val32).zip (col j).full) (look 0 t.pc j) else look 0 t.pc j
  ({ r.1 with
      pr := sums128 pr, pc := sums128 pc
      sumPoison := sumBad t (fun i => t.sumPoison.contains i || (decide (i < m) && ((row i).poison || anyB)))
        fun j => t.sumPoison.contains (128 + j) || (decide (j < n) && ((col j).poison || anyA))
      suspect := t.suspect || (bound && a.any fun x => b.any fun y => exceeds l x y) },
   r.2)

/-! ## Weights (R270) -/

def WBuf.lines (b : WBuf) : List MLine :=
  (b.cols.zip b.scales).zipIdx.map fun t => mkLine b.fmt t.1.1 t.1.2 (val32 b.tensorScale) (b.poison.contains t.2)

/-- What MLDW latches. -/
def State.latch (s : State) (core : Nat) (b : WBuf) (fmt k n base pitch spitch : Nat) : WBuf :=
  let ts := s.padRead core (base + 32 * spitch) 4
  let rows := (List.range n).map fun j => s.readLine core fmt k base pitch spitch j (if 24 ≤ fmt then 0 else j)
  let b := { b with
    fmt := fmt, k := k, n := n, cols := rows.map RawLine.codes, scales := rows.map RawLine.scales
    tensorScale := if fmt = 23 then BitVec.ofNat 32 (leNat ts.1) else 0x3F800000
    poison := (List.range n).filter fun j => (rows.getD j default).poison || (decide (fmt = 23) && ts.2), loaded := true }
  let lines := b.lines
  { b with bs := (List.range k).map fun x => lineSum lines x }

/-! ## Elementwise entries (R278 to R280) -/

def add32 (a b : Word32) : Word32 × Flags :=
  let v := (val32 a).add false (val32 b)
  let r := rne32 v.1
  (r.1, v.2 ||| r.2)
def mul32 (a b : Word32) : Word32 × Flags :=
  let v := (val32 a).mul (val32 b)
  let r := rne32 v.1
  (r.1, v.2 ||| r.2)

/-- MACC. -/
def Tile.accumulate (t u : Tile) : Tile × Flags :=
  let r := t.map (fun i n => add32 (t.at i n) (u.at i n)) fun i n => t.bad i n || u.bad i n
  ({ r.1 with
      pr := sums128 fun i => (add32 (look 0 t.pr i) (look 0 u.pr i)).1
      pc := sums128 fun n => (add32 (look 0 t.pc n) (look 0 u.pc n)).1
      sumPoison := sumBad t (fun i => t.sumPoison.contains i || u.sumPoison.contains i)
        fun n => t.sumPoison.contains (128 + n) || u.sumPoison.contains (128 + n) },
   r.2)

/-- MSCL by one factor. -/
def Tile.scale (t : Tile) (f : Word32) : Tile × Flags :=
  let r := t.map (fun i n => mul32 (t.at i n) f) t.bad
  ({ r.1 with pr := sums128 fun i => (mul32 (look 0 t.pr i) f).1, pc := sums128 fun n => (mul32 (look 0 t.pc n) f).1 }, r.2)

/-- MSCL by a factor for each row, some of them poisoned. -/
def Tile.scaleRows (t : Tile) (f : Nat → Word32) (bad : Nat → Bool) : Tile × Flags :=
  let r := t.map (fun i n => mul32 (t.at i n) (f i)) fun i n => t.bad i n || bad i
  ({ r.1 with
      pr := sums128 fun i => (mul32 (look 0 t.pr i) (f i)).1
      pc := sums128 r.1.colSum
      sumPoison := sumBad t (fun i => t.sumPoison.contains i || bad i) r.1.colBad },
   r.2)

/-- MLDA: lines of `n` elements; the checksums of the whole tile. -/
def Tile.load (t : Tile) (m n : Nat) (v : Nat → Nat → Word32) (bad : Nat → Nat → Bool) : Tile :=
  let inside (i j : Nat) : Bool := decide (i < m) && decide (j < n)
  let covered (i j : Nat) : Bool := decide (i < m) && decide (j / 8 * 8 + 8 ≤ n)
  let r := (t.map (fun i j => (if inside i j then v i j else t.at i j, 0))
    fun i j => (t.bad i j && !covered i j) || (inside i j && bad i j)).1
  { r with pr := sums128 r.rowSum, pc := sums128 r.colSum, sumPoison := sumBad t r.rowBad r.colBad }

/-! ## Top-k (R283, R284) -/

/-- Whether a value is greater: every NaN ranks below -∞, and the NaNs are equal. -/
def ranksAbove (a b : Word32) : Bool :=
  let x := val32 a
  let y := val32 b
  if x.isNan then false else if y.isNan then true else x.cmp y == 1
/-- A candidate joins a row's pairs: behind those that rank as high. -/
def topInsert (c : Half × Word32) : TopRow → TopRow
  | [] => [c]
  | p :: l =>
    if ranksAbove c.2 p.2 || (!ranksAbove p.2 c.2 && decide (c.1.toNat < p.1.toNat)) then c :: p :: l else p :: topInsert c l
def topRow (l : List (Nat × TopRow)) (i : Nat) : TopRow := look [] l i

/-- MTOPK. -/
def Tile.select (t u : Tile) (m n base : Nat) : Tile :=
  let row (i : Nat) : TopRow :=
    (List.range n).foldl (fun l j => (topInsert (BitVec.ofNat 16 (base + j), u.at i j) l).take 8) (look [] t.topk i)
  let bad (i : Nat) : Bool := (List.range n).any (u.bad i)
  { t with topk := (List.range m).foldl (fun l i => put [] i (row i) l) t.topk
           sumPoison := t.sumPoison ++ ((List.range m).filter fun i => bad i && !t.sumPoison.contains (256 + i)).map (256 + ·) }

/-- A pair as MTKR writes it. -/
def topWord (l : TopRow) (i : Nat) : Nat :=
  match l[i]? with
  | some p => p.2.toNat * 2 ^ 32 + p.1.toNat
  | none => 0xFF8000000000FFFF

/-! ## Checks (R286, R287) -/

/-- Whether two checksums disagree, and whether both are NaN. -/
def disagree (tol x y : Word32) : Bool × Bool :=
  let a := val32 x
  let b := val32 y
  let t := val32 (tol &&& 0x7FFFFFFF)
  let isInf (v : FV) : Bool := v == .inf false || v == .inf true
  if a.isNan && b.isNan then (false, true)
  else if a.isNan || b.isNan then (true, false)
  else if isInf a || isInf b then (a != b, false)
  else if isInf t then (false, false)
  else
    let t := if t.isNan then .fin false 0 0 else t
    let greater := if a.abs.cmp b.abs == 1 then a.abs else b.abs
    (((a.add false b.neg).1.abs).cmp (times t greater) == 1, false)

/-- MCHK. -/
def Tile.check (t : Tile) (tol : Word32) : Tile :=
  let rows := (List.range 128).map fun i => disagree tol (t.rowSum i) (look 0 t.pr i)
  let cols := (List.range 128).map fun n => disagree tol (t.colSum n) (look 0 t.pc n)
  let hit (l : List (Bool × Bool)) : List Nat := (List.range 128).filter fun i => (l.getD i default).1
  { t with nrows := (hit rows).length, ncols := (hit cols).length, row := (hit rows).headD 0, col := (hit cols).headD 0
           nan := (rows ++ cols).any (·.2) }

/-- MCORR. With no mismatch left the lowest mismatched row and column read 0 (10 R285). -/
def Tile.correct (t : Tile) : Tile × Flags :=
  if t.nrows = 1 ∧ t.ncols = 1 then
    let rest := FV.sum false (((List.range 128).filter (· != t.col)).map fun n => val32 (t.at t.row n))
    let v := (val32 (look 0 t.pr t.row)).add false rest.1.neg
    let r := rne32 v.1
    let bad := t.sumPoison.contains t.row || ((List.range 128).filter (· != t.col)).any (t.bad t.row)
    ({ t with elems := put 0 (128 * t.row + t.col) r.1 t.elems, corrected := true, nrows := 0, ncols := 0, row := 0, col := 0
              poison := if bad then insertNat (16 * t.row + t.col / 8) t.poison else t.poison },
     rest.2 ||| v.2 ||| r.2)
  else if t.nrows = 0 ∧ t.ncols = 0 then (t, 0)
  else ({ t with uncorrectable := true }, 0)

/-! ## The epilogue (R281, R282) -/

/-- The functions of MSTORE's control register. -/
def epilogueFunc (func : Nat) (v : FV) : FV × Flags :=
  match func with
  | 1 => v.exp2 | 2 => v.log2 | 3 => v.rcp | 4 => v.rsq | 5 => v.tanh
  | _ => (v, 0)

/-- An FP32 value converted to an unscaled format (06 R148, R151, R153, R154). -/
def convertTo (fmt rm rnd : Nat) (e5inf : Bool) (v : FV) : Nat × Flags :=
  match elemOf fmt with
  | .fp f => f.deliver rm (f.deliverAs e5inf false) rnd v
  | .int n => let r := v.toInt rm rnd true n; (wrapInt n r.1, r.2)

/-- One stored element. -/
def storeElem (fmt func rm rnd : Nat) (e5inf : Bool) (x s b : Word32) : Nat × Flags :=
  let p := FV.fma false (val32 x) (val32 s) (val32 b)
  let v := rne32 p.1
  let f := epilogueFunc func (val32 v.1)
  let u := if func = 0 then (v.1, 0) else rne32 f.1
  let o := convertTo fmt rm rnd e5inf (val32 u.1)
  (o.1, p.2 ||| v.2 ||| (if func = 0 then 0 else f.2) ||| u.2 ||| o.2)

end Sys2Proof.Machine
end

