-- ==== Sys2Proof/Machine/Mailbox.lean ====
section
/-! DEFINITION. Mailboxes, pool queues, arrival, refill, dispatch and pre-emption (02 R39 to R46, R49, R50, R53 to R59,
R67; 04 R92). -/

namespace Sys2Proof.Machine

/-! ## Places (02 R40 to R42) -/

def mailSlots (core : Nat) : Nat := if isService core then 1024 else 4096
def mailMin (core : Nat) : Nat := if isService core then 1 else 4

def resident (a : Actor) : Bool := match a.life with
  | .live | .exiting _ => true
  | _ => false

/-- Actors that a core holds. -/
def State.residents (s : State) (core : Nat) : List Actor := s.dir.actors.filter fun a => resident a && a.core == core
/-- Places that placements under way keep on a core: of children, and of SPAWNs (03 R84). -/
def State.kept (s : State) (core : Nat) : List Room :=
  let records := s.dir.actors.filterMap (·.record) ++ s.dir.pools.filterMap (·.record)
  ((records.flatMap fun r => r.children.flatMap (·.rooms)) ++ s.allActs.filterMap (·.room)).filter fun r => r.core == core
/-- Resident numbers in use on a core: of actors, further runs of mirrored children, and pool members. -/
def State.residentNumbers (s : State) (core : Nat) : List Nat :=
  (s.residents core).map (·.resident) ++
  (s.dir.actors.filter resident).flatMap (fun a => (a.mirror.filter fun m => m.core == core).map (·.resident)) ++
  s.dir.pools.flatMap (fun p => (p.members.filter fun m => m.core == core).map (·.resident)) ++
  (s.kept core).map (·.resident)
def lowestFree (used : List Nat) : Nat := firstUnused used used.length 0

/-- On-core slots in use. -/
def State.mailUsed (s : State) (core : Nat) : Nat := (s.residents core).foldl (fun n a => n + a.onCore.length) 0

/-- Messages that a partition's spill area on a die holds: one for each 64 bytes (assumption 21). -/
def areaMessages (area : Word) : Nat := if bits area.toNat 0 39 = 0 then 0 else (bits area.toNat 48 16 + 1) * 1024

/-- Messages of a partition in spill on a die. -/
def State.spilled (s : State) (part die : Nat) : Nat :=
  let mine (job : Half) : Bool := s.partOfJob job == some part
  (s.dir.actors.filter fun a => mine a.job && dieOf a.core == die).foldl (fun n a => n + a.spill.length + a.held.length) 0 +
  (s.dir.pools.filter fun p => mine p.job).foldl (fun n p =>
    n + (if die = 0 then p.held.length else 0) + ((p.queues.filter fun q => q.die == die).map fun q => q.msgs.length).sum) 0 +
  (s.exp.entries.filter fun e => mine e.job && e.home.toNat == die).foldl (fun n e => n + (e.sets.toList.map fun w => w.waiting.length).sum) 0 +
  (if die = 0 then (s.part part).hostSpill.length else 0)

/-- The spill area has room for one more message. -/
def State.spillRoom (s : State) (job : Half) (die : Nat) : Bool :=
  match s.partOfJob job with
  | none => true
  | some p => decide (s.spilled p die < areaMessages (s.part p).spill)

/-- Default slack (02 R54): the partition's, or the register's reset value for Calico. -/
def State.slackOf (s : State) (job : Half) : Nat := match s.partOfJob job with
  | none => 10000
  | some p => (s.part p).slack.toNat

/-- The effective deadline, fixed at arrival (02 R54). -/
def State.effective (s : State) (job : Half) (m : Msg) : Word32 :=
  if msgDeadline m ≠ 0 then msgDeadline m else unitsOf (s.env.time + s.slackOf job)

/-! ## Accepting a message (02 R41, R42, R44) -/

/-- The actor that gives up a slot: it holds the most messages on core and more than its minimum; ties to the higher
resident number. -/
def State.giver (s : State) (core : Nat) : Option Actor :=
  ((s.residents core).filter fun a => decide (mailMin core < a.onCore.length)).foldl (fun best a =>
    match best with
    | none => some a
    | some b => if b.onCore.length < a.onCore.length ∨ (b.onCore.length = a.onCore.length ∧ b.resident < a.resident) then some a else some b) none

/-- The youngest on-core message moves to the front of the spill. -/
def Actor.displace (a : Actor) : Actor :=
  { a with onCore := a.onCore.dropLast, spill := a.onCore.getLast?.toList ++ a.spill }

/-- A message appended to its receiver's spill: past the quota, or with the area full, it kills the receiver. The spec lays out
no bytes of a spilled message, and none is written to the spill area (R42, assumption 90). -/
def State.spillTo (s : State) (a : Actor) (q : QMsg) : State :=
  let full := decide (a.image.quota < a.spill.length + 1) || !s.spillRoom a.job (dieOf a.core)
  let t := s.modActor a.name fun a => { a with spill := a.spill ++ [q] }
  if full then t.killActor a.name 6 else t

/-- A message enters the mailbox of a live actor. Where the receiver is the one that gives up a slot, its message that is not
on core is the later one, so that its messages stay in their order (R41, assumption 77); that one is not tested against the
quota (R42). -/
def State.accept (s : State) (a : Actor) (m : Msg) : State :=
  let q : QMsg := { msg := m, seq := a.nextSeq, arrived := s.env.time, deadline := s.effective a.job m }
  let s := s.modActor a.name fun t => { t with nextSeq := (t.nextSeq + 1) % 2 ^ 44 }
  let take (s : State) : State := s.modActor a.name fun t => { t with onCore := t.onCore ++ [q] }
  if !a.spill.isEmpty then s.spillTo a q
  else if s.mailUsed a.core < mailSlots a.core then take s
  else
    match s.giver a.core with
    | some g =>
      if !s.spillRoom g.job (dieOf g.core) then s.spillTo a q
      else if g.name = a.name then s.modActor a.name fun t => { t with spill := t.spill ++ [q] }
      else take (s.modActor g.name Actor.displace)
    | none => s.spillTo a q

/-! ## Pool queues (02 R58) -/

/-- The die whose queue takes a message from a die: its own if it serves the pool, else the lowest that does. -/
def Pool.dieFor (p : Pool) (die : Nat) : Nat :=
  if p.dies.getLsbD die then die else ((List.range 4).find? fun d => p.dies.getLsbD d).getD 0

/-- A message enters a pool queue. -/
def State.acceptPool (s : State) (p : Pool) (die : Nat) (m : Msg) (arrived : Nat) (deadline : Word32) (capture : Option (Nat × Nat)) :
    State :=
  let len := ((p.queues.find? fun v => v.die == die).map fun v => v.msgs.length).getD 0
  let full := decide (p.image.quota < len + 1) || !s.spillRoom p.job die
  let put (v : PoolQueue) : PoolQueue :=
    if v.die == die then
      { v with msgs := v.msgs ++ [{ msg := m, seq := v.nextSeq, arrived := arrived, deadline := deadline, capture := capture }]
               nextSeq := (v.nextSeq + 1) % 2 ^ 44 }
    else v
  let t := s.modPool p.name fun p => { p with queues := p.queues.map put }
  if full then t.killActor p.name 6 else t

/-- A pool some expert entry is bound to (13 R345). -/
def State.isExpertPool (s : State) (p : Pool) : Bool := s.exp.entries.any fun e => e.valid && e.job == p.job && e.pool == p.index

/-! ## Arrival (02 R33, R34, R39, R67) -/

/-- NOACTOR to a sender that asked for it (02 R33). -/
def State.noActor (s : State) (die : Nat) (m : Msg) : State :=
  if msgFlag m 1 && !isHardware m then s.hardSend die (answerMsg m 0xFF06 0) else s

/-- Whether an exit of a child calls for a restart (03 R80). -/
def callsRestart (c : Child) (reason : Nat) : Bool := c.cond == 0 || (c.cond == 1 && reason != 0)

def State.recordOf (s : State) (n : Word) : Option SupRec :=
  match s.poolOf n with
  | some p => if p.life == .live && p.name == n then p.record else none
  | none => ((s.dir.actors.find? fun a => a.name == n && (a.life == .live || a.life == .saved)).bind (·.record))

/-- An exiting actor whose supervisor's engine is going to restart it: its entry is marked from now on. -/
def State.restartDue (s : State) (a : Actor) (reason : Nat) : Bool :=
  match a.supervisor with
  | some (sup, i) => (match s.recordOf sup with
    | some r => callsRestart (r.children.getD i default) reason
    | none => false)
  | none => false

/-- The child that a live record of the job owes to an index, with its image: an index whose entry is leaving goes over to it
(03 R79, R81). -/
def State.owedAt (s : State) (job : Half) (index : Nat) : Option ((Word × Nat) × Image) :=
  let at_ (name : Word) (r : SupRec) : Option ((Word × Nat) × Image) :=
    (r.children.zipIdx.find? fun t => t.1.owed.isSome && t.1.image.index == index).map fun t => ((name, t.2), t.1.image)
  let records := ((s.dir.actors.filter fun a => a.job == job && isLive a.life).filterMap fun a => a.record.map fun r => (a.name, r)) ++
    (s.dir.pools.filter fun p => p.job == job && isLive p.life).filterMap fun p => p.record.map fun r => (p.name, r)
  records.findSome? fun t => at_ t.1 t.2

/-- Who restarts an index when its exiting actor has left. -/
def State.heir (s : State) (a : Actor) (reason : Nat) : Option ((Word × Nat) × Image) :=
  if s.restartDue a reason then a.supervisor.map fun t => (t, a.image) else s.owedAt a.job a.index

/-- The die of a message's sender, reached through a die: none when the sender is at another package, which has no die here
(13 R351, assumption 105). -/
def State.senderDie (s : State) (die : Nat) (m : Msg) : Option Nat := if (s.elsewhere m.w1).isSome then none else some die

/-- What may be held for an index (02 R67): the quota of the image that is to be placed. -/
def State.heldQuota (s : State) (a : Actor) : Nat := match a.life with
  | .exiting r => ((s.heir a r).map (·.2.quota)).getD a.image.quota
  | _ => a.image.quota

/-- A message for an index that is being restarted, or whose partition is cleared, is held (02 R67, 16 R374). What a restart
discards is counted for its RESTARTED. -/
def State.hold (s : State) (a : Actor) (m : Msg) (die : Nat) : State :=
  if !(nameInc m.w0 = 0 ∨ (a.life = .saved ∧ nameInc m.w0 = a.inc)) then s.noActor die m
  else if a.held.length < s.heldQuota a ∧ s.spillRoom a.job (dieOf a.core) then
    let q : QMsg := { msg := m, seq := 0, arrived := s.env.time, deadline := 0, src := s.senderDie die m }
    s.modActor a.name fun t => { t with held := t.held ++ [q] }
  else (s.modActor a.name fun t => if t.life = .saved then t else { t with heldDropped := t.heldDropped + 1 }).noActor die m

def State.holdPool (s : State) (p : Pool) (m : Msg) (die : Nat) : State :=
  if p.held.length < p.image.quota ∧ s.spillRoom p.job die then
    s.modPool p.name fun t => { t with held := t.held ++ [{ msg := m, seq := 0, arrived := s.env.time, deadline := 0, src := s.senderDie die m }] }
  else s.noActor die m

/-- The name a flight goes to next: for a launch on actors, its next point's (12 R330). -/
def Flight.to (f : Flight) : Word := match f.item with
  | .launch _ _ _ _ next => if nameKind f.dst = 0 then f.dst + BitVec.ofNat 64 (next * 65536) else f.dst
  | _ => f.dst

/-- Whether a flight may go to a name. -/
def Flight.mayReach (f : Flight) (n : Word) : Bool := match f.item with
  | .launch _ _ _ _ _ => if nameKind f.dst = 0 then nameJob f.dst == nameJob n && nameKind n == 0 else sameIndex f.dst n
  | _ => sameIndex f.dst n

/-- Flights of one sender to one name arrive in the order of their release (02 R39). -/
def State.firstInChannel (s : State) (f : Flight) : Bool :=
  !(s.wire.flights.takeWhile fun g => g.id != f.id).any fun g => g.src == f.src && g.mayReach f.to

/-- A name's messages from a die arrive on that die. An expert pool's may be queued on any die it serves (13 R351). -/
def State.staysOn (s : State) (die : Nat) (n : Word) : Bool :=
  match s.poolOf n with
  | some p => if p.life == .saved then false else if s.isExpertPool p then (List.range 4).all fun d => !p.dies.getLsbD d || d == die else p.dieFor die == die
  | none => (s.entryOf n).all fun a => resident a && dieOf a.core == die && a.mirror.all fun m => dieOf m.core == die

/-- A release takes effect at a scope that holds the receiver (05 R113): every place where it may run, when it has none yet. -/
def State.flightReady (s : State) (f : Flight) : Bool :=
  let there := if s.staysOn f.die f.to then f.scope else max f.scope 5
  s.performed f.after (s.releaseScope f.to there) && s.firstInChannel f

def State.removeFlight (s : State) (id : Nat) : State :=
  { s with wire := { s.wire with flights := s.wire.flights.filter fun f => f.id != id } }

/-- Calico's own actors, to which no job's message goes (16 R363). -/
def calicoOnly (n : Word) : Bool := nameKind n == 2 && nameJob n == 0 && decide (4 ≤ nameIndex n) && decide (nameIndex n < 16)

/-- A message at the shard that resolves it: none when it cannot be placed yet, or is the business of another event. -/
def State.deliver (s : State) (die : Nat) (src : Word) (m : Msg) : Option State :=
  let n := m.w0
  if isHostName n then none
  else if !isHardware m && (!reachable (nameJob src) n || (calicoOnly n && nameJob src != 0)) then some (s.noActor die m)
  else match s.poolOf n with
  | some p =>
    if !incOk n p.inc then some (s.noActor die m)
    else if p.life == .saved then some (s.holdPool p m die)
    else if p.life != .live then none
    else if s.isExpertPool p then none
    else some (s.acceptPool p (p.dieFor die) m s.env.time (s.effective p.job m) none)
  | none =>
    match s.entryOf n with
    | none => some (s.noActor die m)
    | some a =>
      match a.life with
      | .live => if incOk n a.inc then some (s.accept a m) else some (s.noActor die m)
      | .restarting _ | .saved => some (s.hold a m die)
      | .exiting r => if (s.heir a r).isSome then some (s.hold a m die) else none

/-- A launch's point that leaves the package is still one of the launch's (12 R332). -/
def State.pointAbroad (s : State) (m : Msg) : State :=
  match m.launch with
  | none => s
  | some i =>
    let add (l : Launch) : Launch := if l.num == i.num && l.job == msgJob m then { l with abroad := l.abroad + 1 } else l
    { s with dir := { s.dir with launches := s.dir.launches.map add } }

/-- Points of a launch have been handled to DONE at other packages, with what their activations released performed (12 R332). -/
def State.pointsDone (s : State) (job : Half) (num : Word32) (n : Nat) : State :=
  let sub (l : Launch) : Launch := if l.num == num && l.job == job then { l with abroad := l.abroad - n } else l
  State.settleLevels { s with dir := { s.dir with launches := s.dir.launches.map sub } }

/-- A message or a launch's next point leaves its flight. -/
def State.arrive (s : State) (f : Flight) : Option State :=
  let go (m : Msg) (rest : State) : Option State :=
    match s.onward f.src m.w0 with
    | some pkg => some (if s.lostPackage pkg then rest.noActor f.die m else (rest.sendAbroad f.src pkg m).pointAbroad m)
    | none => rest.deliver f.die f.src m
  match f.item with
  | .msg m => go m (s.removeFlight f.id)
  | .launch m grid rec num next =>
    let gx := bits grid.toNat 0 16
    let total := gx * bits grid.toNat 16 16 * bits grid.toNat 32 16
    let step (g : Flight) : Flight := if g.id == f.id then { g with item := .launch m grid rec num (next + 1) } else g
    let rest := if next + 1 < total then { s with wire := { s.wire with flights := s.wire.flights.map step } } else s.removeFlight f.id
    go (pointMsg m grid rec num f.to next) rest
  | _ => none

/-- MESSAGE_ARRIVAL (R39 to R42, R58, R67; 19 R436). -/
def execMessageArrival (flight : Nat) (s : State) : Host.Outcome State Fault Refusal :=
  event s (do
    let f ← s.wire.flights.find? fun f => f.id == flight
    if s.flightReady f then (s.arrive f).map State.settleLevels else none)

/-! ## Refill (02 R43) -/

/-- An earlier effective deadline, or the earlier arrival (02 R43, R55). -/
def QMsg.before (a b : QMsg) : Bool := precedes a.deadline b.deadline || (a.deadline == b.deadline && decide (a.arrived < b.arrived))

/-- The mailbox whose oldest spilled message takes a freed slot. -/
def State.refillFrom (s : State) (core : Nat) : Option Actor :=
  (s.residents core).foldl (fun best a =>
    match a.spill.head?, best with
    | none, _ => best
    | some _, none => some a
    | some q, some b => if (b.spill.head?.map fun t => q.before t).getD true then some a else best) none

/-- MAILBOX_REFILL. -/
def execMailboxRefill (core : Nat) (s : State) : Host.Outcome State Fault Refusal :=
  event s (do
    let a ← if s.mailUsed core < mailSlots core then s.refillFrom core else none
    let move (t : Actor) : Actor := { t with onCore := t.onCore ++ t.spill.head?.toList, spill := t.spill.drop 1 }
    some (s.modActor a.name move))

/-! ## Heads (02 R53, R55, R56, R59) -/

/-- What a core may dispatch: a mailbox's head, a pool queue's of its die, or the message that a pre-empted run of a mirrored
child handles again (03 R86). -/
inductive Head where
  | mailbox (name : Word) (q : QMsg)
  | pool (name : Word) (queue : Nat) (q : QMsg)
  | again (name : Word) (run : Nat) (q : QMsg)
  deriving DecidableEq, Repr

def Head.msg : Head → QMsg
  | .mailbox _ q | .pool _ _ q | .again _ _ q => q

def State.actsOn (s : State) (core : Nat) : List Act := s.allActs.filter fun a => a.core == core
/-- The lowest slot of a core that no activation occupies (01 R23, R25). -/
def State.freeSlot (s : State) (core : Nat) : Option Nat :=
  let used := (s.actsOn core).map (·.slot)
  (List.range (slotsOf core (s.core core))).find? fun k => !used.contains k

/-- Handlers of a job run on a core: Calico's always, others while their partition runs (16 R368, R374). -/
def State.runs (s : State) (job : Half) : Bool := match s.partOfJob job with
  | none => job == 0
  | some p => (s.part p).state == 1

/-- The core that a pool head of a die is offered to (R59): the span with the fewest occupied slots, then the core with the
most free slots and the lowest logical number, among the pool's cores there that run no activation of it. -/
def State.offered (s : State) (p : Pool) (die : Nat) : Option Nat :=
  let cores := (p.members.map (·.core)).filter fun c => dieOf c == die && !(s.actsOn c).any fun a => a.name == p.name
  let occupied (c : Nat) : Nat := (s.allActs.filter fun a => dieOf a.core == die && spanOf (clusterOf a.core) == spanOf (clusterOf c)).length
  let free (c : Nat) : Nat := slotsOf c (s.core c) - (s.actsOn c).length
  let key (c : Nat) : Nat × Nat × Nat × Nat := (occupied c, spanOf (clusterOf c), 16 - free c, (s.core c).lcore.toNat)
  let less (a b : Nat × Nat × Nat × Nat) : Bool :=
    decide (a.1 < b.1) || (a.1 == b.1 && (decide (a.2.1 < b.2.1) || (a.2.1 == b.2.1 && (decide (a.2.2.1 < b.2.2.1) || (a.2.2.1 == b.2.2.1 && decide (a.2.2.2 < b.2.2.2))))))
  cores.foldl (fun best c => match best with
    | none => some c
    | some b => if less (key c) (key b) then some c else best) none

/-- Every core on which a further run of a mirrored child is placed has a free slot. -/
def State.mirrorsFree (s : State) (a : Actor) : Bool := a.mirror.all fun m => (s.freeSlot m.core).isSome

/-- Where a run of an actor is: its core and its resident number there. -/
def Actor.placeOfRun (a : Actor) (run : Nat) : Option (Nat × Nat) :=
  if run = 0 then some (a.core, a.resident) else (a.mirror.find? fun m => m.run == run).map fun m => (m.core, m.resident)

/-- The heads that compete for a core, in the order that breaks ties: mailboxes by resident number, then pools by queue
number. -/
def State.heads (s : State) (core : Nat) : List Head :=
  let ready (a : Actor) : Bool := a.life == .live && s.runs a.job
  let idle (a : Actor) : Bool := ready a && !(s.allActs.any fun t => t.name == a.name) && a.rerun.isEmpty && s.mirrorsFree a
  let firsts := ((s.residents core).filter idle).filterMap fun a => ((a.onCore ++ a.spill).head?).map fun q => (a.resident, Head.mailbox a.name q)
  let agains := (s.dir.actors.filter ready).flatMap fun a => a.rerun.filterMap fun t =>
    match a.placeOfRun t.1 with
    | some (c, n) => if c = core then some (n, Head.again a.name t.1 t.2) else none
    | none => none
  let boxes := (sortBy (fun a b => decide (a.1 ≤ b.1)) (firsts ++ agains)).map (·.2)
  let queues := (s.dir.pools.filter fun p => p.life == .live && s.runs p.job).flatMap fun p =>
    (p.queues.filter fun q => q.die == dieOf core && s.offered p q.die == some core).filterMap fun v =>
      v.msgs.head?.map fun q => (v.num, Head.pool p.name v.die q)
  boxes ++ (sortBy (fun a b => decide (a.1 ≤ b.1)) queues).map (·.2)

/-- The head a core chooses (R55). -/
def State.choose (s : State) (core : Nat) : Option Head :=
  (s.heads core).foldl (fun best h => match best with
    | none => some h
    | some b => if h.msg.before b.msg then some h else best) none

/-- A head whose deadline has passed and that carries LATE_DROP (R56). The message of a run that is pre-empted alone is still
being handled, and is not dropped (assumption 78). -/
def State.lateDrop (s : State) (h : Head) : Bool := match h with
  | .again _ _ _ => false
  | .mailbox _ q | .pool _ _ q => precedes q.deadline (unitsOf s.env.time) && msgFlag q.msg 0

/-- A head leaves its mailbox or queue. -/
def State.pop (s : State) (h : Head) : State :=
  match h with
  | .mailbox name _ => s.modActor name fun a => if a.onCore.isEmpty then { a with spill := a.spill.drop 1 } else { a with onCore := a.onCore.drop 1 }
  | .pool name die _ =>
    s.modPool name fun p => { p with queues := p.queues.map fun v => if v.die == die then { v with msgs := v.msgs.drop 1 } else v }
  | .again name run _ => s.modActor name fun a => { a with rerun := a.rerun.filter fun t => t.1 != run }

/-- A late head is discarded and its source receives LATE. -/
def State.dropLate (s : State) (core : Nat) (h : Head) : State :=
  let m := h.msg.msg
  ((s.pop h).hardSend (dieOf core) (answerMsg m 0xFF05 (h.msg.deadline.zeroExtend 64))).settleLevels

/-! ## Entry (02 R45, R46; 04 R92) -/

/-- The entry state of an activation. -/
def entryState (aid core slot run : Nat) (name entry : Word) (q : QMsg) : Act :=
  let m := q.msg
  let seq := BitVec.ofNat 64 (q.seq % 2 ^ 44)
  let regs : Vector Word 32 := (((((((((Vector.replicate 32 0).set 3 name).set 4 m.w1).set 5 m.w2).set 6 m.w3).set 7 m.w4).set 8 m.w5).set 9 m.w6).set 10 m.w7)
  { live := true, aid := aid, core := core, slot := slot, name := name, run := run, x := regs
    xp := m.poison.zeroExtend 32 <<< 3
    pc := entry, srctr := seq <<< 20, mdraw := (seq <<< 20) + 2 ^ 19
    msg := m, seq := q.seq, arrived := q.arrived, deadline := q.deadline, capture := q.capture }

/-- A grant lands in its inbox: whether it may, and the state it leaves. No rule says what becomes of one whose inbox slot is in
state given: it may not land, so the message is discarded and its receiver killed with 2 (04 R92, assumption 88). -/
def State.land (s : State) (regions : Vector Region 8) (core : Nat) (m : Msg) : Bool × State :=
  match m.grant with
  | none => (true, s)
  | some g =>
    let r := vget regions (bits m.w3.toNat 32 16 - 1)
    if r.state = .owned ∧ r.cls = 2 ∧ g.bytes.length ≤ r.size ∧ bits m.w3.toNat 32 16 ≤ 8 then
      let t := s.zeroPool core r.offset r.size
      let mem := t.mem.writePlain (poolKey core r.offset) g.bytes false
      let bad := g.poison.foldl (fun l k => insertNat (poolKey core r.offset / 32 + k) l) mem.poisonSectors
      (true, { t with mem := { mem with poisonSectors := bad } })
    else (false, s)

/-- The bytes of a mirrored child's persist and inbox regions, kept until its release (03 R86). -/
def State.snapshot (s : State) (a : Actor) : List (Nat × List (Byte × Bool)) :=
  ((List.range 8).filter fun i => let r := vget a.regions i; r.state != .empty && r.cls != 1).map fun i =>
    let r := vget a.regions i
    (i, (spanNats (poolKey a.core r.offset) r.size).map fun k => (look 0 s.mem.cells k, s.mem.poisonSectors.contains (k / 32)))

/-- An activation is placed in a slot. -/
def State.begin (s : State) (core run : Nat) (name entry : Word) (q : QMsg) : State :=
  let (aid, s) := s.fresh
  let a := entryState aid core ((s.freeSlot core).getD 0) run name entry { q with msg := { q.msg with grant := none } }
  { s with acts := s.acts ++ [a] }

/-- An expert's message is dispatched: its entry's last dispatch time (13 R346). -/
def State.touchExpert (s : State) (q : QMsg) : State :=
  match q.capture with
  | none => s
  | some (e, _) =>
    { s with exp := { s.exp with entries := mapIf (fun t => t.num == e) (fun t => { t with last := unitsOf s.env.time }) s.exp.entries } }

/-- A head starts its activation, and a mirrored child's further runs theirs. -/
def State.start (s : State) (core : Nat) (h : Head) : State :=
  let q := h.msg
  let s := s.pop h
  match h with
  | .pool name _ _ =>
    match s.poolOf name with
    | none => s
    | some p =>
      let regions := s.regionsOf name 0 core
      let r := if q.landed then (true, s) else s.land regions core q.msg
      if r.1 then (r.2.touchExpert q).begin core 0 name p.image.entry { q with landed := true } else s.killActor name 2
  | .again name run _ =>
    match s.dir.actors.find? fun a => a.name == name with
    | none => s
    | some a => s.begin core run name a.image.entry q
  | .mailbox name _ =>
    match s.dir.actors.find? fun a => a.name == name with
    | none => s
    | some a =>
      let r := if q.landed then (true, s) else s.land a.regions core q.msg
      if !r.1 then s.killActor name 2
      else
        let land (t : State) (m : Mirror) : State := if q.landed then t else (t.land m.regions m.core q.msg).2
        let t := a.mirror.foldl land r.2
        let t := if a.mirror.isEmpty then t else t.modActor name fun u => { u with entryBytes := t.snapshot u, shared := [] }
        let t := t.begin core 0 name a.image.entry { q with landed := true }
        a.mirror.foldl (fun t m => t.begin m.core m.run name a.image.entry { q with landed := true }) t

/-! ## Pre-emption (02 R49, R50, R57; 04 R93; 11 R303) -/

/-- A message back at the head of its mailbox, without reordering: when every slot of the core is taken, the actor's own
youngest message gives way. -/
def State.requeueBox (s : State) (name : Word) (q : QMsg) : State :=
  match s.dir.actors.find? fun a => a.name == name with
  | none => s
  | some a =>
    let full := mailSlots a.core ≤ s.mailUsed a.core
    let back (a : Actor) : Actor :=
      if !full then { a with onCore := q :: a.onCore }
      else if a.onCore.isEmpty then { a with spill := q :: a.spill }
      else { a with onCore := q :: a.onCore.dropLast, spill := a.onCore.getLast?.toList ++ a.spill }
    s.modActor name back

def State.requeue (s : State) (a : Act) : State :=
  let q : QMsg := { msg := { a.msg with w2 := a.msg.w2 ||| 0x1000000 }, seq := a.seq, arrived := a.arrived, deadline := a.deadline
                    landed := true, capture := a.capture }
  if nameKind a.name = 1 then
    s.modPool a.name fun p => { p with queues := p.queues.map fun v => if v.die == dieOf a.core then { v with msgs := q :: v.msgs } else v }
  else if (s.mirrorOf a.name).isSome then s.modActor a.name fun t => { t with rerun := t.rerun ++ [(a.run, q)] }
  else s.requeueBox a.name q

/-- Staged grants return to their regions, unless RNEW has put fresh units there (04 R93). -/
def State.returnGrants (s : State) (a : Act) : State :=
  a.staged.foldl (fun s e => match e with
    | .send _ (some n) _ _ => s.modRegion a n fun r => if r.state = .given then { r with state := .owned } else r
    | _ => s) s

/-- Scratch-class regions are zeroed (04 R91). -/
def State.zeroScratch (s : State) (a : Act) : State :=
  (s.regionsOf a.name a.run a.core).toList.foldl (fun s r => if r.state = .owned ∧ r.cls = 1 then s.zeroPool a.core r.offset r.size else s) s

/-- A store of a pre-empted activation to its own scratchpad that still waits goes on in its order, since writes to persist
and inbox regions stand; one to a scratch region is zeroed with it (02 R49). -/
def State.staysDeferred (s : State) (a : Act) (d : Deferred) : Bool :=
  d.who.aid != a.aid || !((s.regionsOf a.name a.run a.core).toList.any fun r =>
    r.state == .owned && r.cls == 1 && r.covers (d.eff.span.1 % 2 ^ 24) d.eff.span.2)

/-- One run of a pre-empted activation is undone. Regions of discarded GIVEs come back first, and those of class scratch are
then zeroed with the others (02 R49, 04 R91, R93; assumption 89). -/
def State.undo (s : State) (a : Act) : State :=
  let mine (n : Nat) : Bool := n == a.aid
  let s := s.returnGrants a
  let s := s.abandon fun e => mine e.aid
  let s := s.dropEntries fun e => mine e.aid
  let deferred := s.wire.deferred.filter (s.staysDeferred a)
  let s := { s with wire := { s.wire with deferred := deferred } }
  let s := a.posts.foldl (fun s p => s.addCounter a.core p.1 (-p.2)) s
  let s := s.dropPorts fun p => mine p.aid
  let s := s.zeroScratch a
  let s := (s.dropActs fun t => mine t.aid).freeTiles mine
  let s := s.leaveTickets mine
  let remote := s.links.remote.filter fun r => r.store || !mine r.aid
  { s with links := { s.links with remote := remote } }

/-- An activation is pre-empted: its message is queued again. Of a mirrored child only the pre-empted run handles it again, and
the comparison waits for it (03 R86). -/
def State.preempt (s : State) (v : Act) : State := ((s.undo v).setDigest v.name v.run none).requeue v

/-- The victim that R57 considers: the pre-commit activation with the latest deadline, later arrival on a tie. A run of a mirrored
child whose digest agrees is releasing, and is none (03 R86). -/
def State.victim (s : State) (core : Nat) : Option Act :=
  ((s.actsOn core).filter fun a => !a.committed && a.memo != .agreed).foldl (fun best a => match best with
    | none => some a
    | some b =>
      if precedes b.deadline a.deadline || (a.deadline == b.deadline && decide (b.arrived < a.arrived)) then some a else best) none

/-- The pre-empt margin is met (R57): that of the partition of the activation that would be pre-empted, and the register's
reset value for a Calico activation, which has none (assumption 87). -/
def State.marginMet (s : State) (v : Act) (h : Head) : Bool :=
  let gap := v.deadline - h.msg.deadline
  let margin := match s.partOfJob v.job with
    | none => 2000
    | some p => (s.part p).margin.toNat
  !gap.msb && decide (margin ≤ gap.toNat * 256)

/-- DISPATCH (R55 to R57): a late head is discarded; or the chosen head takes a free slot, or a victim's. -/
def execDispatch (core : Nat) (s : State) : Host.Outcome State Fault Refusal :=
  event s (do
    let h ← s.choose core
    if s.lateDrop h then some (s.dropLate core h)
    else if (s.freeSlot core).isSome then some (s.start core h)
    else
      let v ← s.victim core
      if s.marginMet v h then some ((s.preempt v).start core h) else none)

end Sys2Proof.Machine
end

