-- ==== Sys2Proof/Machine/Engine.lean ====
section
/-! DEFINITION. The engines: entries performed in their queues, sectors moved, pushes landing, gates and rendezvous, and the
answers to their misses (04 R98 to R109; 05 R117, R123 to R125, R134; 10 R265, R272 to R277, R288; 11 R292 to R303; 17 R391 to
R399; 02 R451). -/

namespace Sys2Proof.Machine

/-! ## Activations and queues by number -/

/-- The activation of a number, changed, wherever it is. -/
def State.modAid (s : State) (aid : Nat) (f : Act → Act) : State :=
  { s with act := if s.act.live && s.act.aid == aid then f s.act else s.act, acts := mapIf (fun a => a.aid == aid) f s.acts }

def State.modHead (s : State) (core queue : Nat) (f : Entry → Entry) : State :=
  s.modCore core fun c => { c with queues := vset c.queues queue (match vget c.queues queue with
    | e :: l => f e :: l
    | [] => []) }
/-- The entry at the head of a queue is done: the next comes to the head, and its activation's tiles may be free (R265). -/
def State.dropHead (s : State) (core queue : Nat) : State :=
  let aid := ((s.head core queue).map (·.aid)).getD 0
  let s := s.modCore core fun c => ({ c with queues := vset c.queues queue ((vget c.queues queue).drop 1) } : Core).settleHeads s.env.time
  s.releaseTiles aid

/-- The kill of an entry's actor, logged as any (18 R417); the entry is removed with it. -/
def State.failEntry (s : State) (core queue : Nat) (e : Entry) (reason : Nat) (note : Option Note) : State :=
  let s := (s.noteKill e.job core reason note).killAnyway e.actor reason
  match s.head core queue with
  | some h => if h.id = e.id then s.dropHead core queue else s
  | none => s

/-- Who an entry's accesses are made for. -/
def State.entryWho (s : State) (core : Nat) (e : Entry) : Who :=
  { aid := e.aid, core := core, run := 0, name := e.actor, asid := s.asidOf e.job core, part := s.partOf e.job core }

/-- An entry's posting on its own core (11 R301); one made before COMMIT is recorded (02 R50). -/
def State.post (s : State) (core : Nat) (e : Entry) (bytes : Nat) : State :=
  match e.post with
  | none => s
  | some n =>
    let v := BitVec.ofNat 32 bytes
    (if e.early then s.modAid e.aid (·.record n v) else s).addCounter core n v

/-! ## Matrix entries (10) -/

def State.modTile (s : State) (core n : Nat) (f : Tile → Tile) : State :=
  s.modCore core fun c => { c with tiles := mapIf (fun t => t.num == n) f c.tiles }
def State.tileOf (s : State) (core n : Nat) : Tile := (s.tile core n).getD default
/-- Matrix flags of an activation (R273). -/
def State.mark (s : State) (aid : Nat) (f : Flags) : State := s.modAid aid fun a => { a with mflags := a.mflags ||| f }
/-- A tile made anew with the flags of it. -/
def State.setTile (s : State) (core aid n : Nat) (r : Tile × Flags) : State := (s.modTile core n fun _ => r.1).mark aid r.2

def State.mchk (s : State) (core : Nat) : Nat := match (s.core core).part with
  | some p => (s.part p).mchk.toNat
  | none => 0

/-- A replay at half clock on a core counts in p.replays of the partition there (16 R370, 18 R413). -/
def State.countReplay (s : State) (core : Nat) : State :=
  match (s.core core).part with
  | some p => s.modPart p fun t => { t with replays := if t.replays = 0xFFFFFFFF then t.replays else t.replays + 1 }
  | none => s

/-- A residue mismatch strikes an entry's product (R288, 18 R414): the first in the entry is replayed, logged and counted, a
second kills. None, when the core holds no mismatch to strike or does not check. -/
def State.residueStrike (s : State) (core queue : Nat) (e : Entry) : Option (State × Bool) :=
  let n := (s.core core).residue
  if s.mchk core % 2 = 0 || n == 0 then none
  else
    let t := s.modCore core fun c => { c with residue := n - 1 }
    if e.struck then some (t, true)
    else
      let note : Note := { die := dieOf core, cls := 4, unit := 5, location := location core, asid := BitVec.ofNat 16 (s.asidOf e.job core)
                           part := s.partOf? e.job core }
      let t := ((t.note note).countReplay core).modHead core queue fun e => { e with struck := true }
      some (t.modAid e.aid fun a => { a with replays := if a.replays = 255 then 255 else a.replays + 1 }, false)

/-- A product that nothing strikes: armed checks report. Mismatches on a core that does not check go unseen. -/
def State.residueCheck (s : State) (core : Nat) : State :=
  if s.mchk core % 2 = 0 then s.modCore core fun c => { c with residue := 0 } else s.inject core 5 0

def State.bufOf (s : State) (core n : Nat) : WBuf := ((s.core core).bufs.find? fun b => b.num == n).getD default

/-- The lines that MSTORE and MTKR write: codes of width `w` with the poison of each, at their pitch. -/
def State.writeLines (s : State) (core base pitch w : Nat) (lines : List (List (Nat × Bool))) : State :=
  lines.zipIdx.foldl (fun s t =>
    let l := t.1
    s.padWrite core (base + t.2 * pitch) (pack w (l.map (·.1))) fun off n =>
      l.zipIdx.any fun x => x.1.2 && overlaps (w * x.2) w (8 * off) (8 * n)) s

/-- What a matrix entry does when it is performed, but for MMAS and joins. -/
def State.matrixOp (s : State) (core : Nat) (e : Entry) : Chk State :=
  match e.op with
  | .mldw buf fmt k n base pitch spitch =>
    .ok (s.modCore core fun c => { c with bufs := mapIf (fun b => b.num == buf) (fun b => s.latch core b fmt k n base pitch spitch) c.bufs })
  | .mma tile buf fmt k m base pitch spitch _ => do
    let s := s.residueCheck core
    let b := s.bufOf core buf
    let a := (s.readBlock core fmt k m base pitch spitch false).decode
    .ok (s.setTile core e.aid tile ((s.tileOf core tile).multiply (chunkLen b.fmt) (2 ≤ s.mchk core) a b.lines b.bs))
  | .mzero tile => .ok (s.modTile core tile fun t => { num := t.num, owner := t.owner })
  | .mstore tile fmt m n base pitch bias scale func rm e5inf draw =>
    let t := s.tileOf core tile
    let bs : List Byte × List Bool := match bias with
      | some a => ((s.padRead core a (4 * n)).1, (List.range n).map fun j => (s.padRead core (a + 4 * j) 4).2)
      | none => ([], [])
    let biases := unpack 32 bs.1 n
    let seed := s.seedOf e.job
    let lcore := ((s.allActs.find? fun a => a.aid == e.aid).map s.lcoreOf).getD (s.core core).lcore
    let elem (i j : Nat) : Nat × Flags :=
      storeElem fmt func rm (drawAt seed lcore (draw + BitVec.ofNat 64 (i * n + j))) e5inf (t.at i j) (scale.getD 0x3F800000)
        (BitVec.ofNat 32 (biases.getD j 0))
    let rows : List (List ((Nat × Flags) × Bool)) :=
      (List.range m).map fun i => (List.range n).map fun j => (elem i j, t.bad i j || bs.2.getD j false)
    let s := s.writeLines core base pitch (widthOf fmt) (rows.map fun r => r.map fun x => (x.1.1, x.2))
    .ok (s.mark e.aid (rows.flatten.foldl (fun f x => f ||| x.1.2) 0))
  | .mtopk tile src m n base =>
    let u := s.tileOf core src
    .ok (s.modTile core tile fun t => t.select u m n base)
  | .mtkr tile m k base pitch =>
    let t := s.tileOf core tile
    let rows := (List.range m).map fun i => (List.range k).map fun j => (topWord (look [] t.topk i) j, t.sumPoison.contains (256 + i))
    .ok (s.writeLines core base pitch 64 rows)
  | .mscl tile (.inl f) => .ok (s.setTile core e.aid tile ((s.tileOf core tile).scale f))
  | .mscl tile (.inr a) =>
    let fs := unpack 32 (s.padRead core a 512).1 128
    let bad := (List.range 128).map fun i => (s.padRead core (a + 4 * i) 4).2
    .ok (s.setTile core e.aid tile ((s.tileOf core tile).scaleRows (fun i => BitVec.ofNat 32 (fs.getD i 0)) fun i => bad.getD i false))
  | .mchk tile tol => .ok (s.modTile core tile fun t => t.check tol)
  | .mcorr tile => .ok (s.setTile core e.aid tile (s.tileOf core tile).correct)
  | .macc tile src => .ok (s.setTile core e.aid tile ((s.tileOf core tile).accumulate (s.tileOf core src)))
  | .mlda tile fmt m n base pitch =>
    let w := widthOf fmt
    let rows := (List.range m).map fun i => unpack w (s.padRead core (base + i * pitch) (n * w / 8)).1 n
    let v (i j : Nat) : Word32 :=
      let x := (rows.getD i []).getD j 0
      if fmt = 0 then BitVec.ofNat 32 x else widenBf16 x
    let bad (i j : Nat) : Bool := (s.padRead core (base + i * pitch + j * w / 8) (w / 8)).2
    .ok (s.modTile core tile fun t => t.load m n v bad)
  | _ => .ok s

/-- A flip performed (15 R360, 16 R380): the asker is answered, or the diagnostic service's increment goes out. A tile stays
claimed while its activation runs, or has entries queued: of any queue, as 10 R289 has it where R265 says the matrix entries
(assumption 114). -/
def State.flip (s : State) (core : Nat) (e : Entry) (spec target : Word) (asker : Nat) : State :=
  let n := bits spec.toNat 0 4
  let k := 128 * bits spec.toNat 8 7 + bits spec.toNat 16 7
  let held := (s.tile core n).any fun t =>
    s.allActs.any (fun a => a.aid == t.owner && a.name == target) || s.entries.any fun q => q.aid == t.owner && q.actor == target
  let turn (t : Tile) : Tile := { t with elems := put 0 k (look 0 t.elems k ^^^ (1#32 <<< bits spec.toNat 24 5)) t.elems }
  let s := if held then s.modTile core n turn else s
  match e.post with
  | some c =>
    s.fly { id := 0, src := e.actor, dst := target, die := dieOf core, item := .cinc c 1, after := [], scope := 2 }
  | none => s.modAid asker fun a => { a with memo := .value (if held then 1 else 0) false, wait := .none }

/-! ## MMAS (10 R274 to R277) -/

/-- Block A, or block B, that a participant supplies, read now. -/
def State.readA (s : State) (core : Nat) (op : EOp) : RawBlock := match op with
  | .mmas _ fmt _ _ ks rows _ base pitch spitch _ _ _ => s.readBlock core fmt ks rows base pitch spitch false
  | _ => default
def State.readB (s : State) (core : Nat) (op : EOp) : RawBlock := match op with
  | .mmas _ _ wfmt _ ks _ cols _ _ _ base pitch spitch => s.readBlock core wfmt ks cols base pitch spitch true
  | _ => default

/-- Block A, or B, of a participant: its owner reads each byte once, for all the cores it goes to (R276). -/
def State.takeA (s : State) (core : Nat) : List MLine × State :=
  match s.head core 4 with
  | none => ([], s)
  | some e =>
    let b := e.blockA.getD (s.readA core e.op)
    (b.decode, s.modHead core 4 fun e => { e with blockA := some b })
def State.takeB (s : State) (core : Nat) : List MLine × State :=
  match s.head core 4 with
  | none => ([], s)
  | some e =>
    let b := e.blockB.getD (s.readB core e.op)
    (b.decode, s.modHead core 4 fun e => { e with blockB := some b })

/-- One step of a participant: its four tiles take the product of a slice of K. -/
def State.mmasStep (s : State) (core : Nat) (e : Entry) (step : Nat) : Chk State := do
  let s := s.residueCheck core
  let cores := spanGrid (dieOf core) (spanOf (clusterOf core))
  let place := cores.idxOf core
  let (a, s) := s.takeA (cores.getD (place / 4 * 4 + step) 0)
  let (b, s) := s.takeB (cores.getD (step * 4 + place % 4) 0)
  match e.op with
  | .mmas tile _ wfmt _ ks _ _ _ _ _ _ _ _ =>
    .ok ((List.range 4).foldl (fun s q =>
      let rows := (a.drop (128 * (q / 2))).take 128
      let cols := (b.drop (128 * (q % 2))).take 128
      let bs := (List.range ks).map fun x => lineSum cols x
      s.setTile core e.aid (tile + q) ((s.tileOf core (tile + q)).multiply (chunkLen wfmt) (2 ≤ s.mchk core) rows cols bs)) s)
  | _ => .ok s

/-- An MMAS whose participants have all done their steps completes for all of them. -/
def State.mmasEnd (s : State) (core tag : Nat) : State :=
  let cores := spanGrid (dieOf core) (spanOf (clusterOf core))
  if cores.all fun c => (s.mmasAt tag c).any fun e => e.done.length == 4 then cores.foldl (fun s c => s.dropHead c 4) s else s

/-! ## Entries performed (05 R123 to R125, R132) -/

/-- What the hardware checks at a rendezvous: format, weight format and depth of all, rows of a row and columns of a column. -/
def mmasAgree (es : List Entry) : Bool :=
  let of (i : Nat) : Nat × Nat × Nat × Nat × Nat × Nat := ((es.getD i default).op.span).getD default
  let p0 := of 0
  (List.range 16).all fun i =>
    let p := of i
    p.1 == p0.1 && p.2.1 == p0.2.1 && p.2.2.2.1 == p0.2.2.2.1 &&
    p.2.2.2.2.1 == (of (i / 4 * 4)).2.2.2.2.1 && p.2.2.2.2.2 == (of (i % 4)).2.2.2.2.2

/-- MMAS_RENDEZVOUS. -/
def execMmasRendezvous (die span tag : Nat) (s : State) : Host.Outcome State Fault Refusal :=
  event s (do
    let es ← s.rendezvous die span tag
    let cores := spanGrid die span
    if mmasAgree es then some (cores.foldl (fun s c => s.modHead c 4 fun e => { e with started := true, waitSince := none }) s)
    else
      let t := cores.foldl (fun s c => s.dropHead c 4) s
      some ((es.map (·.actor)).foldl (fun s n => s.killAnyway n 3) t))

/-- All the joins of a QFENCE are at the heads of their queues (05 R125). -/
def State.joined (s : State) (core id : Nat) : Bool :=
  (s.core core).queues.toList.all fun q => match q.zipIdx.find? fun t => t.1.id == id && t.1.op.isJoin with
    | some t => t.2 == 0
    | none => true

/-- The index list of a gather or scatter (11 R300): poison on it kills. -/
def State.indexList (s : State) (core list n : Nat) : Chk (List Int) := do
  let r := if n = 0 then ([], false) else s.padRead core list (4 * n)
  need (!r.2) 10
  .ok ((unpack 32 r.1 n).map (intOf true 32))

/-- A gather's or scatter's list: address and rows. -/
def EOp.list : EOp → Option (Nat × Nat)
  | .gather _ _ list n _ _ => some (list, n)
  | .scatter _ _ list n _ _ _ _ => some (list, n)
  | _ => none
def EOp.moves : EOp → Bool
  | .tload _ _ _ _ | .tstore _ _ _ _ _ _ | .push _ _ _ _ _ _ _ | .pushr _ _ _ _ _ | .gather _ _ _ _ _ _ | .scatter _ _ _ _ _ _ _ _ => true
  | _ => false

/-- A copy or gather entry begins. -/
def State.beginCopy (s : State) (core queue : Nat) (e : Entry) : Chk State := do
  let index ← (match e.op.list with
    | some (list, n) => s.indexList core list n
    | none => .ok [])
  if (e.op.pieces index).isEmpty then .ok (s.dropHead core queue)
  else .ok (s.modHead core queue fun e => { e with started := true, index := index })

/-- What an entry's error comes to: a kill, or nothing yet. -/
def State.entryStop (s : State) (core queue : Nat) (e : Entry) : Stop → Option State
  | .kill r n => some (s.failEntry core queue e r n)
  | .line l => some (s.settleLine l)
  | _ => none

/-- ENGINE_ENTRY_PERFORM: the head of a queue is performed, or begins; an MMAS does its next step. -/
def State.performHead (s : State) (core queue : Nat) : Option State := do
  let e ← s.head core queue
  if !s.mayStart core e || e.gated then none
  else
    let s := (if e.op.ranges.isEmpty || e.op.moves then s else s.checkPool core).inject core 4 0
    let r : Option (Chk State) :=
      match e.op with
      | .join id =>
        if s.joined core id then
          some (.ok ((List.range 7).foldl (fun s q => if (s.head core q).any fun h => h.op.isJoin && h.id == e.id then s.dropHead core q else s) s))
        else none
      | .mmas _ _ _ tag _ _ _ _ _ _ _ _ _ =>
        if e.done.length < 4 then
          some (do
            let t ← s.mmasStep core e e.done.length
            .ok ((t.modHead core 4 fun e => { e with done := e.done ++ [e.done.length] }).mmasEnd core tag))
        else none
      | .mflip spec target asker => some (.ok ((s.flip core e spec target asker).dropHead core queue))
      | op =>
        if op.moves then (if e.started then none else some (s.beginCopy core queue e))
        else some (do let t ← s.matrixOp core e; .ok (t.dropHead core queue))
    let product := match e.op with
      | .mma _ _ _ _ _ _ _ _ _ => true
      | .mmas _ _ _ _ _ _ _ _ _ _ _ _ _ => decide (e.done.length < 4)
      | _ => false
    match (if product then s.residueStrike core queue e else none) with
    | some (t, false) => some t
    | some (t, true) =>
      some (t.failEntry core queue e 11 (some { die := dieOf core, cls := 5, unit := 5, location := location core, reason := 11 }))
    | none =>
      match r with
      | none => none
      | some (.ok t) => some t
      | some (.error x) => s.entryStop core queue e x

/-- ENGINE_ENTRY_PERFORM. -/
def execEngineEntryPerform (core queue : Nat) (s : State) : Host.Outcome State Fault Refusal :=
  event s (s.performHead core queue)

/-- MMAC_GATE_MET (10 R272): an acquire event. -/
def execMmacGateMet (core : Nat) (s : State) : Host.Outcome State Fault Refusal :=
  event s (do
    let e ← s.head core 4
    match e.op with
    | .mma _ _ _ _ _ _ _ _ (some (n, target)) =>
      if !e.started && (e.gateMet || reached ((s.core core).counter n) target) then
        some (s.modHead core 4 fun e => { e with started := true, waitSince := none })
      else none
    | _ => none)

/-! ## Sectors (04 R106 to R109; 11 R294 to R302) -/

/-- The request of an entry's piece to another package at an address, and its answer. -/
def State.pieceReq (s : State) (e : Entry) (k va : Nat) (store : Bool) : Option RemoteReq :=
  s.links.remote.find? fun r => r.entry == some (e.id, k) && r.va == va && r.store == store

/-- A source sector: its 32 bytes and poison, or none when a request to another package is on its way. -/
def State.readSector (s : State) (w : Who) (queue : Nat) (e : Entry) (k sector : Nat) : Chk (Option (Nat × Bool) × State) := do
  let va := 32 * sector
  if va / 2 ^ 48 = 0x70 then
    let r := s.padRead w.core va 32
    .ok (some (leNat r.1, r.2), s.checkPool w.core)
  else
    let (p, s) ← s.translate w.die w.asid va .engineRead w.service queue
    if p.type = 1 then
      match s.pieceReq e k va false with
      | some r => .ok (r.answer.map fun a => (leNat a.1, a.2 || entryPoison p.leaf), s)
      | none =>
        let (_, s) ← s.ask w p 32 false {} (some (e.id, k)) fun id => .readRequest p.addr (entryKey p.leaf) 32 w.core id
        .ok (none, s)
    else
      await !(s.replicaBehind w.core p)
      let (bs, poison, s) ← s.readPhys w.die p 32
      .ok (some (leNat bs, poison), s)

/-- Source sectors, by number; none while one of them is awaited. -/
def State.readSectors (w : Who) (queue : Nat) (e : Entry) (k : Nat) : List Nat → State → Chk (Option (List (Nat × Nat × Bool)) × State)
  | [], s => .ok (some [], s)
  | n :: l, s => do
    let (r, s) ← s.readSector w queue e k n
    let (rest, s) ← State.readSectors w queue e k l s
    .ok ((match r, rest with
      | some v, some t => some ((n, v) :: t)
      | _, _ => none), s)

/-- `w` bits at a bit address, from sectors that were read. -/
def bitsFrom (src : List (Nat × Nat × Bool)) (b w : Nat) : Nat :=
  let sec (n : Nat) : Nat := ((src.find? fun t => t.1 == n).map (·.2.1)).getD 0
  (sec (b / 256) + sec (b / 256 + 1) * 2 ^ 256) / 2 ^ (b % 256) % 2 ^ w
def poisonFrom (src : List (Nat × Nat × Bool)) (b w : Nat) : Bool := src.any fun t => t.2.2 && overlaps (256 * t.1) 256 b w

/-- A value's bytes merged into bytes under a bit mask (R107). -/
def mergeBytes (old bs masks : List Byte) : List Byte :=
  (old.zip (bs.zip masks)).map fun t => (t.1 &&& ~~~t.2.2) ||| (t.2.1 &&& t.2.2)

/-- What an entry writes in a tensor, sector by sector: the sector, the piece, and whether it writes it whole. -/
def Entry.parts (e : Entry) : List (Nat × Nat × Bool) :=
  ((e.op.pieces e.index).zipIdx).flatMap fun t => (e.op.parts e.index t.1).map fun x => (x.1, t.2, x.2)

/-- The pieces and sectors of the flit that a piece's sector joins, in ascending address order: seven whole sectors from the
start of their run, which ends at a gap, at a sector written in part and at a page boundary (19 R428). A place that several
rows write has a flit for each. -/
def Entry.flitOf (e : Entry) (k sector : Nat) : List (Nat × Nat) :=
  let parts := e.parts
  let turn := ((parts.filter fun t => t.1 == sector).takeWhile fun t => t.2.1 != k).length
  let piece (n : Nat) : Option (Nat × Nat) :=
    ((parts.filter fun t => t.1 == n)[turn]?).bind fun t => if t.2.2 then some (t.2.1, n) else none
  let before := ((List.range (sector % 2048)).takeWhile fun i => (piece (sector - 1 - i)).isSome).length
  let first := sector - before % 7
  ((List.range (min 7 (2048 - first % 2048))).map fun i => piece (first + i)).takeWhile (·.isSome) |>.filterMap fun x => x

/-- An entry's writes to a package leave in ascending address order (19 R428): every lower sector that it writes there has
left, or waits in a flit that leaves before. -/
def State.lowerSent (s : State) (w : Who) (e : Entry) (place sector : Nat) : Bool :=
  e.parts.all fun t =>
    decide (sector ≤ t.1) || e.done.contains t.2.1 || e.packed.any (fun x => x.1 == t.2.1 && x.2.1 / 32 == t.1) ||
    s.links.remote.any (fun r => r.entry == some (e.id, t.2.1) && r.store && r.va / 32 == t.1) ||
    (s.leafOf w.die w.asid (32 * t.1)).any fun l =>
      let p : Phys := { leaf := l, asid := w.asid, va := 32 * t.1 }
      p.type != 1 || place1 p != place

/-- A whole sector for another package joins its flit, which leaves when it is full: one write, one acknowledgement. Its page
is logged as it leaves (17 R398). -/
def State.packSector (s : State) (w : Who) (queue : Nat) (e : Entry) (k : Nat) (p : Phys) (bs : List Byte) : Chk State := do
  let held (l : List (Nat × Nat × Nat × List Byte)) (j : Nat × Nat) : Option (Nat × Nat × Nat × List Byte) :=
    l.find? fun t => t.1 == j.1 && t.2.1 / 32 == j.2
  let s := if (held e.packed (k, p.va / 32)).isSome then s
    else s.modHead w.core queue fun e => { e with packed := e.packed ++ [(k, p.va, p.addr, bs)] }
  let have_ := ((s.head w.core queue).map (·.packed)).getD []
  let flit := e.flitOf k (p.va / 32)
  let parts := flit.filterMap (held have_)
  if parts.length < flit.length then .ok s
  else
    let pkg ← packageAt (place1 p)
    let s ← s.logDirty w.core p
    let (id, s) := s.fresh
    let req (t : Nat × Nat × Nat × List Byte) : RemoteReq :=
      { id := id, aid := w.aid, core := w.core, actor := w.name, place := place1 p, sentAt := s.env.time, store := true, tags := {}
        va := t.2.1, len := 32, entry := some (e.id, t.1) }
    let s := s.modHead w.core queue fun e => { e with packed := e.packed.filter fun t => !parts.contains t }
    let s := { s with links := { s.links with remote := s.links.remote ++ parts.map req } }
    .ok (s.transmit pkg (.write ((parts.headD (0, 0, p.addr, [])).2.2.1) (entryKey p.leaf)
      (parts.map fun t => { bytes := t.2.2.2, mask := BitVec.allOnes 256, poison := false }) w.core id))

/-- Bytes of one sector written by an engine at a translated address (04 R100, R101): whether it is performed. -/
def State.engineWrite (s : State) (w : Who) (queue : Nat) (e : Entry) (k va : Nat) (bs masks : List Byte) (poison : Bool) :
    Chk (Bool × State) := do
  let (p, s) ← s.translate w.die w.asid va .engineWrite w.service queue
  let n := bs.length
  let hbm (s : State) (addr gen : Nat) : Chk State := do
    s.awaitLines addr n
    let old := (spanNats addr n).map (s.mem.plain (homeDie addr) gen)
    let s := s.writeNow gen addr (mergeBytes old bs masks) poison
    .ok (if n = 32 ∧ !poison ∧ masks.all (· == 0xFF) then { s with mem := s.mem.wholeHalf addr e.id } else s)
  match p.type with
  | 1 =>
    if poison then crossing
    else match s.pieceReq e k va true with
      | some r => .ok (r.answer.isSome, s)
      | none =>
        if !(s.lowerSent w ((s.head w.core queue).getD e) (place1 p) (va / 32)) then return (false, s)
        if n = 32 ∧ masks.all (· == 0xFF) then return (false, ← s.packSector w queue e k p bs)
        let s ← s.logDirty w.core p
        let lead := va % 32
        let sector : WSector :=
          { bytes := List.replicate lead 0 ++ bs, mask := BitVec.ofNat 256 (leNat masks * 2 ^ (8 * lead)), poison := false }
        let (_, s) ← s.ask w p n true {} (some (e.id, k)) fun id => .write (p.addr / 32 * 32) (entryKey p.leaf) [sector] w.core id
        .ok (false, s)
  | 2 =>
    if poison then crossing
    else
      await !(s.mem.pending.any fun q => overlaps q.addr q.bytes.length p.addr n)
      let old := (s.readPlain w.die p.addr n).1
      .ok (true, s.writeNow 0 p.addr (mergeBytes old bs masks) false)
  | 4 =>
    let core := (p.addr - 2 ^ 45) / 2 ^ 24
    need ((s.regionsAt (nameJob w.name) core).any fun r => r.2.allows .engineWrite (p.addr % 2 ^ 24) n) 2
    let old := (s.readPlain (homeDie p.addr) p.addr n).1
    .ok (true, s.writeNow 0 p.addr (mergeBytes old bs masks) poison)
  | _ =>
    let gen ← s.named p (s.keyGen (homeDie p.addr) (entryKey p.leaf))
    let s ← s.logDirty w.core p
    let copies := match replicasOf p with
      | none => [p.addr]
      | some m => ((List.range 4).filter fun d => m.getLsbD d || d == homeDie p.addr).map fun d => d * 2 ^ 38 + p.addr % 2 ^ 38
    await !(s.mem.pending.any fun q => copies.any fun a => overlaps q.addr q.bytes.length a n)
    let s ← copies.foldlM (fun s a => hbm s a gen) s
    .ok (true, s)

/-- One element of a source, converted where the entry converts: value and poison. -/
def fromSource (src : List (Nat × Nat × Bool)) (b : Nat) (w : Nat) (conv : Option (Nat × Nat × Nat)) (e5inf : Bool) : Nat × Bool :=
  let v := bitsFrom src b w
  match conv with
  | none => (v, poisonFrom src b w)
  | some (sfmt, dfmt, rm) => ((convertTo dfmt rm 0 e5inf ((if sfmt = 0 then fp32 else bf16).decode v)).1, poisonFrom src b w)

/-- Elements laid out from a bit place: their value and the mask of the bits they take, from bit `lo` on. -/
def layBits (w : Nat) (items : List (Nat × Nat)) (lo n : Nat) : List Byte × List Byte :=
  let v := items.foldl (fun t x => t + (x.2 % 2 ^ w) * 2 ^ (x.1 + w - lo)) 0
  let m := items.foldl (fun t x => t + (2 ^ w - 1) * 2 ^ (x.1 + w - lo)) 0
  (leBytes n (v / 2 ^ w), leBytes n (m / 2 ^ w))

/-- A row of a store: the bytes of one sector that its elements take. `at_` gives an element's source bit address. -/
def State.storeRow (s : State) (w : Who) (queue : Nat) (e : Entry) (k : Nat) (t : Tensor) (lineBit : Nat) (run : Nat × Nat)
    (sector : Nat) (src : List (Nat × Nat × Bool)) (at_ : Nat → Nat) (conv : Option (Nat × Nat)) (e5inf : Bool) : Chk (Bool × State) :=
  let dw := widthOf t.format
  let elems := rowElems lineBit dw run.1 run.2 sector
  let c := conv.map fun c => (c.1, t.format, c.2)
  let read := elems.map fun i => (lineBit + i * dw, fromSource src (at_ i) (srcWidth t conv) c e5inf)
  let laid := layBits dw (read.map fun x => (x.1, x.2.1)) (256 * sector) 32
  let first := max (lineBit + run.1 * dw) (256 * sector) / 8 - 32 * sector
  let last := ceilDiv (min (lineBit + run.2 * dw) (256 * sector + 256)) 8 - 32 * sector
  s.engineWrite w queue e k (32 * sector + first) ((laid.1.drop first).take (last - first)) ((laid.2.drop first).take (last - first))
    (read.any fun x => x.2.2)

/-- Values laid side by side from an address on, joined sector by sector. -/
def bySector (l : List (Nat × List Byte × Bool)) : List (Nat × List Byte × Bool) :=
  ((l.map fun t => t.1 / 32).eraseDups).map fun k =>
    let here := l.filter fun t => t.1 / 32 == k
    ((here.headD (0, [], false)).1, here.flatMap (·.2.1), here.any (·.2.2))

/-- Scales, or the tensor scale, written one sector after another: address, bytes and poison. -/
def State.storeScales (w : Who) (queue : Nat) (e : Entry) (k : Nat) : List (Nat × List Byte × Bool) → State → Chk (Bool × State)
  | [], s => .ok (true, s)
  | (va, bs, poison) :: l, s => do
    let (a, s) ← s.engineWrite w queue e k va bs (bs.map fun _ => 0xFF) poison
    let (b, s) ← State.storeScales w queue e k l s
    .ok (a && b, s)

/-- Who has armed a port of a core: nobody is 0. -/
def State.armedBy (s : State) (core port : Nat) : Word := (((s.core core).ports.find? fun p => p.num == port).map (·.actor)).getD 0

/-- The flights of a push's delivered sectors (R298, R299). -/
def State.pushSectors (s : State) (w : Who) (e : Entry) (k : Nat) (bs : List Byte) (poison : List Bool) : Chk State :=
  match e.op with
  | .push port _ len off cores conv _ =>
    let h := (pushGroup conv).2
    let size := delivered conv len
    let dests := ((List.range 5).filter fun c => cores.getLsbD c).map (w.core / 8 * 8 + ·)
    .ok ((List.range h).foldl (fun s j => dests.foldl (fun s c =>
      s.fly { id := 0, src := e.actor, dst := 0, die := dieOf c, aid := e.aid
              item := .pushSector e.id c port (off + 32 * (h * k + j)) size (s.armedBy c port) ((bs.drop (32 * j)).take 32) (poison.getD j false) }) s) s)
  | _ => .ok s

/-- The group of a PUSHR: each delivered sector is translated, and goes to the core that holds it. -/
def State.pushrSectors (w : Who) (queue : Nat) (e : Entry) (va : Nat) (post : Option Nat) : List (List Byte × Bool) → State → Chk State
  | [], s => .ok s
  | (bs, poison) :: l, s => do
    let (p, s) ← s.translate w.die w.asid va .engineWrite w.service queue (some 4)
    let core := (p.addr - 2 ^ 45) / 2 ^ 24
    let s := s.fly { id := 0, src := e.actor, dst := 0, die := dieOf core, aid := e.aid
                     item := .pushrSector e.id core (p.addr % 2 ^ 24) va bs poison post }
    State.pushrSectors w queue e (va + 32) post l s

/-- One piece of an entry, its sources read: whether it is performed now. -/
def State.performPiece (s : State) (w : Who) (queue : Nat) (e : Entry) (k : Nat) (p : Piece) (src : List (Nat × Nat × Bool)) :
    Chk (Bool × State) :=
  let land (pad w' total : Nat) (fill : Nat) (at_ : Nat → Option Nat) (j : Nat) : Chk (Bool × State) :=
    let items := (landElems w' total j).map fun i => (i * w', match at_ i with
      | some b => bitsFrom src b w'
      | none => fill)
    let n := min 32 (ceilDiv (total * w') 8 - 32 * j)
    .ok (true, (s.writeNow 0 (padKey w.core (pad + 32 * j)) (layBits w' items (256 * j) n).1 (src.any (·.2.2))).checkPool w.core)
  match e.op, p with
  | .tload t pad origin shape, .land j =>
    let v : Tile5 := { origin := origin, shape := shape }
    land pad (widthOf t.format) v.count t.fill.toNat (loadBit t v) j
  | .gather t pad _ n t0 org, .land j => land pad (widthOf t.format) (n * t0) t.fill.toNat (gatherBit t e.index t0 org) j
  | .tload t pad origin shape, .scales line =>
    let v : Tile5 := { origin := origin, shape := shape }
    let z := scaleBytes t.format
    let live := liveBlocks t v line
    let bs := (List.range (ceilDiv (v.t 0) (blockOf t.format))).flatMap fun b => match live.find? fun x => x.1 == b with
      | some x => leBytes z (bitsFrom src (8 * t.scaleAt (v.line line) x.2) (8 * z))
      | none => leBytes z (scaleOne t.format)
    let dst := pad + round32Up (tileBytes t.format v) + headerBytes t.format + 32 * line
    .ok (true, (s.writeNow 0 (padKey w.core dst) ((bs ++ List.replicate 32 0).take 32) (src.any (·.2.2))).checkPool w.core)
  | .tload t pad origin shape, .header =>
    let v : Tile5 := { origin := origin, shape := shape }
    let scale := if t.touches v then bitsFrom src (8 * t.scale) 32 else 0x3F800000
    .ok (true, s.writeNow 0 (padKey w.core (pad + round32Up (tileBytes t.format v))) (leBytes 32 scale) (src.any (·.2.2)) |>.checkPool w.core)
  | .tstore t pad origin shape conv e5inf, .row line sector =>
    let v : Tile5 := { origin := origin, shape := shape }
    let sw := srcWidth t conv
    s.storeRow w queue e k t (t.lineBit (v.line line)) (t.run0 (v.o 0) (v.t 0)) sector src
      (fun i => 8 * pad + (line * v.t 0 + ((i : Int) - v.o 0).toNat) * sw) conv e5inf
  | .scatter t pad _ _ t0 org conv e5inf, .row j sector =>
    let sw := srcWidth t conv
    s.storeRow w queue e k t (t.lineBit (rowLine (e.index.getD j 0))) (t.run0 org t0) sector src
      (fun i => 8 * pad + (j * t0 + ((i : Int) - org).toNat) * sw) conv e5inf
  | .tstore t pad origin shape _ _, .scales line =>
    let v : Tile5 := { origin := origin, shape := shape }
    let z := scaleBytes t.format
    let row := pad + round32Up (tileBytes t.format v) + headerBytes t.format + 32 * line
    State.storeScales w queue e k (bySector ((liveBlocks t v line).map fun x =>
      let b := 8 * (row + z * x.1)
      (t.scaleAt (v.line line) x.2, leBytes z (bitsFrom src b (8 * z)), poisonFrom src b (8 * z)))) s
  | .tstore t pad origin shape _ _, .header =>
    let v : Tile5 := { origin := origin, shape := shape }
    let b := 8 * (pad + round32Up (tileBytes t.format v))
    State.storeScales w queue e k (if t.touches v then [(t.scale, leBytes 4 (bitsFrom src b 32), poisonFrom src b 32)] else []) s
  | .push _ pad len _ _ conv e5inf, .group j | .pushr _ pad len conv e5inf, .group j =>
    let (g, h) := pushGroup conv
    let sw := (conv.map fun c => widthOf c.1).getD 256
    let dw := (conv.map fun c => widthOf c.2.1).getD 256
    let first := 8 * (pad + 32 * (g * j))
    let items := (List.range (256 * g / sw)).map fun i => (i * dw, fromSource src (first + i * sw) sw conv e5inf)
    let bs := (layBits dw (items.map fun x => (x.1, x.2.1)) 0 (32 * h)).1
    let bad := (List.range h).map fun y => items.any fun x => x.2.2 && overlaps x.1 dw (256 * y) 256
    match e.op with
    | .pushr va _ _ _ _ => do
      let sectors := (List.range h).map fun y => ((bs.drop (32 * y)).take 32, bad.getD y false)
      let s ← State.pushrSectors w queue e (va + 32 * (h * j)) e.post sectors s
      .ok (true, s)
    | _ => do
      let s ← s.pushSectors w e j bs bad
      let _ := len
      .ok (true, s)
  | _, _ => .ok (true, s)

/-- Flights of a push that have not landed. -/
def State.inFlight (s : State) (id : Nat) : Bool := s.wire.flights.any fun f => match f.item with
  | .pushSector i _ _ _ _ _ _ _ | .pushrSector i _ _ _ _ _ _ => i == id
  | _ => false

/-- An entry whose pieces are all performed, and whose pushes have landed, is complete. -/
def State.completeHead (s : State) (core queue : Nat) : State :=
  match s.head core queue with
  | some e =>
    if e.started && e.op.moves && e.done.length == (e.op.pieces e.index).length && !s.inFlight e.id then s.dropHead core queue else s
  | none => s

/-- A piece is performed: it posts, and is done. PUSHR posts where it lands. -/
def State.pieceDone (s : State) (core queue : Nat) (e : Entry) (k : Nat) : State :=
  let remote := s.links.remote.filter fun r => r.entry != some (e.id, k)
  let s := { s with links := { s.links with remote := remote } }
  let s := match e.op with
    | .pushr _ _ _ _ _ => s
    | _ => s.post core e (e.op.pieceBytes e.index k)
  (s.modHead core queue fun e => { e with done := e.done ++ [k] }).completeHead core queue

/-- Sectors of a page that an entry has not performed. -/
def Entry.sectorsLeft (e : Entry) (page : Nat) : List Nat :=
  (e.left.flatMap fun p => e.op.sources e.index p ++ e.op.targets p).filter fun k => 32 * k / 65536 == page

/-- A miss halts an entry and its queue (11 R302, 17 R391, R393). -/
def State.haltEntry (s : State) (core queue : Nat) (e : Entry) (m : Miss) : State :=
  let left := e.sectorsLeft (m.va / 65536)
  let lowest := left.foldl min (m.va / 32)
  let mask := (left.map fun k => 32 * k % 65536 / 2048).eraseDups.foldl (fun n i => n + 2 ^ i) 0
  let join (t : Ticket) : Ticket := if t.entries.contains (core, queue) then t else { t with entries := t.entries ++ [(core, queue)] }
  let (num, s) := s.raiseMiss (dieOf core) core (s.partOf e.job core) e.actor e.deadline { m with va := 32 * lowest, mask := mask } join
  s.modHead core queue fun e => { e with ticket := some num, waitSince := some s.env.time }

/-- Rows of a scatter that name one location are written in the order of the list (R300). -/
def Entry.inOrder (e : Entry) (k : Nat) : Bool :=
  match e.op with
  | .scatter _ _ _ _ _ _ _ _ =>
    let ps := e.op.pieces e.index
    (match ps[k]? with
     | some (.row _ sector) => (ps.take k).zipIdx.all fun t => (match t.1 with
        | .row _ other => other != sector || e.done.contains t.2
        | _ => true)
     | _ => true)
  | _ => true

/-- ENGINE_SECTOR_COMPLETE. -/
def State.sectorStep (s : State) (core queue k : Nat) : Option State := do
  let e ← s.head core queue
  let p ← (e.op.pieces e.index)[k]?
  if !e.started || e.ticket.isSome || e.done.contains k || !e.inOrder k then none
  else
    let w := s.entryWho core e
    let r : Chk State := do
      let (src, s) ← State.readSectors w queue e k (e.op.sources e.index p) s
      match src with
      | none => .ok s
      | some src => do
        let (now, s) ← s.performPiece w queue e k p src
        .ok (if now then s.pieceDone core queue e k else s)
    match r with
    | .ok t => some t
    | .error (.miss m) => some (s.haltEntry core queue e m)
    | .error x => s.entryStop core queue e x

/-- ENGINE_SECTOR_COMPLETE. -/
def execEngineSectorComplete (core queue sector : Nat) (s : State) : Host.Outcome State Fault Refusal :=
  event s (s.sectorStep core queue sector)

/-! ## Pushes landing (R297 to R299, R99, R101) -/

/-- The queue and the entry of a number, with its core. -/
def State.entryById (s : State) (id : Nat) : Option (Nat × Nat × Entry) :=
  s.cores.findSome? fun c => (List.range 7).findSome? fun q => ((vget c.2.queues q).find? fun e => e.id == id).map fun e => (c.1, q, e)

/-- A push that fails at a destination: what is on its way there is discarded, and the issuer killed. -/
def State.failPush (s : State) (id core : Nat) : State :=
  let mine (f : Flight) : Bool := match f.item with
    | .pushSector i c _ _ _ _ _ _ | .pushrSector i c _ _ _ _ _ => i == id && c == core
    | _ => false
  let flights := s.wire.flights.filter fun f => !mine f
  let s := { s with wire := { s.wire with flights := flights } }
  match s.entryById id with
  | some (c, q, e) => s.failEntry c q e 2 none
  | none => s

/-- A push's sector at its core's port; none of an entry that is gone lands. One that left for a port which an actor had armed finds
the port cleared when another has armed it since: no actor receives bytes meant for its predecessor (04 R99). -/
def State.landPush (s : State) (f : Flight) : Option State :=
  match f.item with
  | .pushSector id core port off size actor data poison =>
    let t := s.removeFlight f.id
    match s.entryById id with
    | none => some t
    | some (src, q, e) =>
      match (s.core core).ports.find? fun p => p.num == port && nameJob p.actor == e.job && (actor == 0 || p.actor == actor) with
      | none => some (s.failPush id core)
      | some p =>
        let r := s.portRegion core p
        let start := match e.op with
          | .push _ _ _ o _ _ _ => o
          | _ => off
        if r.state = .owned ∧ start + size ≤ r.size then
          let t := ((t.writeNow 0 (poolKey core (r.offset + off)) data poison).checkPool core).addCounter core p.counter 32
          some (t.completeHead src q)
        else some (s.failPush id core)
  | _ => none

/-- PUSH_SECTOR_ARRIVAL. -/
def execPushSectorArrival (flight : Nat) (s : State) : Host.Outcome State Fault Refusal :=
  event s (do
    let f ← s.wire.flights.find? fun f => f.id == flight
    s.landPush f)

/-- The places on a core that the delivered range of a PUSHR leads to, page by page, as far as its pages are translated; one at
another core is none. -/
def State.pushrPlaces (s : State) (w : Who) (va n core : Nat) : List (Option (Nat × Nat)) :=
  (blocks 65536 va n).filterMap fun p =>
    let lo := max va (p * 65536)
    let len := min (va + n) ((p + 1) * 65536) - lo
    (s.placeOf w lo 1).map fun k => if poolKey core 0 ≤ k ∧ k < poolKey core 0 + 2 ^ 24 then some (k - poolKey core 0, len) else none

/-- The delivered range of a PUSHR lies wholly in one region that its job's actors own and that is writable, with this sector
(04 R96, R101). -/
def State.pushrLands (s : State) (src core off : Nat) (e : Entry) : Bool :=
  let whole := match e.op with
    | .pushr va _ len conv _ => s.pushrPlaces (s.entryWho src e) va (delivered conv len) core
    | _ => []
  (s.regionsAt e.job core).any fun r =>
    r.2.allows .engineWrite off 32 && whole.all fun p => p.any fun t => r.2.covers t.1 t.2

/-- A sector of a PUSHR where its address led. -/
def State.landPushr (s : State) (f : Flight) : Option State :=
  match f.item with
  | .pushrSector id core off _ data poison post =>
    let t := s.removeFlight f.id
    match s.entryById id with
    | none => some t
    | some (src, q, e) =>
      if s.pushrLands src core off e then
        let t := (t.writeNow 0 (poolKey core off) data poison).checkPool core
        let t := match post with
          | some n => t.addCounter core n 32
          | none => t
        some (t.completeHead src q)
      else some (s.failPush id core)
  | _ => none

/-- PUSHR_SECTOR_LANDING. -/
def execPushrSectorLanding (flight : Nat) (s : State) : Host.Outcome State Fault Refusal :=
  event s (do
    let f ← s.wire.flights.find? fun f => f.id == flight
    s.landPushr f)

/-! ## Writes performed (05 R117, R122; 09 R233) -/

/-- A store through type 4 from another die is checked where it lands (04 R98, R101). -/
def State.landsAt (s : State) (w : PendWrite) (die : Nat) : Bool :=
  !isPool w.addr || die != w.home || s.mayLand (nameJob w.actor) w.addr w.bytes.length
/-- One that may not land is discarded, and its issuer killed. -/
def State.turnAway (s : State) (w : PendWrite) (die : Nat) : State :=
  let none_ : PendWrite := { w with bytes := [] }
  let pending := mapIf (fun p => p.id == w.id) (fun _ => none_) s.mem.pending
  (({ s with mem := { s.mem with pending := pending } }).perform none_ die).killAnyway w.actor 2

/-- WRITE_PERFORMED. -/
def execWritePerformed (write die : Nat) (s : State) : Host.Outcome State Fault Refusal :=
  event s (do
    let w ← s.mem.pending.find? fun w => w.id == write
    if 4 ≤ die || !s.applicable w die then none
    else some (if w.stream.isSome then s.performPush w else if s.landsAt w die then s.perform w die else s.turnAway w die))

/-! ## Dirty logs (17 R398, R399) -/

/-- The lines of the table entries that a walk for an address reads, acted on by their base dies (18 R404): `n` levels from
`level` on. -/
def State.repairWalk (die asid va : Nat) : Nat → Nat → Nat → Nat → State → State
  | 0, _, _, _, s => s
  | n + 1, level, page, idx, s =>
    let s := s.repair (hbmKey page (8 * idx)) 8
    match s.walkEntry die asid va level page idx with
    | .ok (some e, _) =>
      if entryLeaf e then s
      else State.repairWalk die asid va n (level + 1) (entryPage e) (if level = 0 then bits va 42 13 else if level = 1 then bits va 29 13 else bits va 16 13) s
    | _ => s

/-- Where the table entry of an address lies, whatever it holds: its level, page and index. -/
def State.tablePlace (s : State) (die asid va : Nat) : Option (Nat × Nat × Nat) :=
  let entry (level page idx : Nat) : Option Word := match s.walkEntry die asid va level page idx with
    | .ok (some e, _) => some e
    | _ => none
  do
    let e0 ← entry 0 (asid / 8192) (asid % 8192)
    let e1 ← entry 1 (entryPage e0) (bits va 42 13)
    let e2 ← entry 2 (entryPage e1) (bits va 29 13)
    if entryLeaf e2 then some (2, entryPage e1, bits va 29 13) else some (3, entryPage e2, bits va 16 13)

/-- Where the leaf of an address lies: page and index of its entry. -/
def State.leafPlace (s : State) (die asid va : Nat) : Option (Nat × Nat) := do
  let (level, page, idx) ← s.tablePlace die asid va
  match s.walkEntry die asid va level page idx with
  | .ok (some _, _) => some (page, idx)
  | _ => none

/-- One entry of a dirty log merged: an atomic OR at the table's home die. A walk that misses drops it. -/
def State.setDirty (s : State) (die : Nat) (e : Nat × Nat) : State :=
  let s := State.repairWalk die e.1 (e.2 * 65536) 4 0 (e.1 / 8192) (e.1 % 8192) s
  match s.leafPlace die e.1 (e.2 * 65536) with
  | none => s
  | some (page, idx) =>
    let addr := hbmKey page (idx * 8)
    let s := s.repair addr 8
    match s.readHbm (homeDie addr) 0 addr 8, s.keyGen (homeDie addr) 0 with
    | .ok (bs, poison, s), .ok gen => s.writeNow gen addr (leBytes 8 (leNat bs ||| 2 ^ 17)) poison
    | _, _ => s

def State.mergeDirty (s : State) (core : Nat) : State :=
  let log := (s.core core).dirty
  log.foldl (fun s e => s.setDirty (dieOf core) e) (s.modCore core fun c => { c with dirty := [] })

/-- DIRTY_LOG_MERGE. -/
def execDirtyLogMerge (core : Nat) (s : State) : Host.Outcome State Fault Refusal :=
  event s (if 512 ≤ (s.core core).dirty.length then some (s.mergeDirty core) else none)

/-! ## Answers (17 R392, R395, R396; 16 R377) -/

/-- Everything that joined a ticket tries again. -/
def State.replayTicket (s : State) (t : Ticket) : State :=
  let go (a : Act) : Act := if t.acts.contains a.aid && a.wait == .ticket t.num then { a with wait := .none } else a
  let free (e : Entry) : Entry := if e.ticket = some t.num then { e with ticket := none, waitSince := none } else e
  let cores := s.cores.map fun c => (c.1, ({ c.2 with queues := c.2.queues.map fun q => q.map free } : Core))
  let tails := s.wire.tails.map fun x => if x.ticket = some t.num then { x with ticket := none } else x
  let deferred := s.wire.deferred.map fun d => if d.ticket = some t.num then { d with ticket := none } else d
  { s with act := go s.act, acts := s.acts.map go, cores := cores, wire := { s.wire with tails := tails, deferred := deferred }
           xlat := { s.xlat with tickets := s.xlat.tickets.filter fun x => x.num != t.num } }

/-- The answer on a ticket: replay, or a kill of the named actor, the others replaying. A stale ticket is left. -/
def State.answer (s : State) (ticket : Nat) (outcome : Word) : State :=
  match s.xlat.tickets.find? fun t => t.num == ticket with
  | none => s
  | some t =>
    let s := s.replayTicket t
    let r := bits outcome.toNat 8 8
    if outcome.toNat % 256 = 1 then s.killAnyway t.actor (if 1 ≤ r ∧ r ≤ 20 then r else 1) else s

/-- FAULTREPLY: the answer reaches what waits. -/
def execFaultreply (flight : Nat) (s : State) : Host.Outcome State Fault Refusal :=
  event s (do
    let f ← s.wire.flights.find? fun f => f.id == flight
    match f.item with
    | .faultReply ticket outcome => if s.performed f.after (max f.scope 5) then some ((s.removeFlight f.id).answer ticket outcome) else none
    | _ => none)

end Sys2Proof.Machine
end

