-- ==== Sys2Proof/Machine/Experts.lean ====
section
/-! DEFINITION. The EXPERT group, expert residency, the expert pager and replication (12 R338 to R344; 13). A set is 0 for A
and 1 for B; pages of copies are numbered on their die. -/

namespace Sys2Proof.Machine

/-! ## Entries, models and what a message captures (13 R345 to R348) -/

def State.modEntry (s : State) (n : Nat) (f : ExpEntry → ExpEntry) : State :=
  { s with exp := { s.exp with entries := mapIf (fun e => e.num == n) f s.exp.entries } }
def State.modSet (s : State) (n k : Nat) (f : WSet → WSet) : State :=
  s.modEntry n fun e => { e with sets := vset e.sets k (f (vget e.sets k)) }

/-- An expert id operand. -/
def expertId (v : Word) : Chk Nat := if v.toNat < 65536 then .ok v.toNat else kill 3

def State.modelOf (s : State) (job model : Half) : Option ModelRec := s.exp.models.find? fun r => r.valid && r.job == job && r.model == model

/-- Epoch `p` is at or after epoch `q`: their signed difference. -/
def epochGe (p q : Word32) : Bool := !(p - q).msb

/-- The set that a message of an epoch captures. Of a model with no valid record it is the one that a fresh record, set A in
force from epoch 0 on, gives: the spec says nothing of it (DESIGN CHOICE, assumption 106). -/
def State.captured (s : State) (e : ExpEntry) (p : Word32) : Nat :=
  let r := (s.modelOf e.job e.model).getD { num := 0 }
  if epochGe p r.switch == r.force then 1 else 0

/-- The dies whose copies of a set are in force for an epoch. -/
def inForce (home : Nat) (w : WSet) (p : Word32) : BitVec 4 :=
  (List.range 4).foldl (fun m d =>
    if w.present.getLsbD d && (d == home || epochGe p (vget w.epoch d)) then m ||| (1#4 <<< d) else m) 0

/-- The epoch of messages that the running activation would release now. -/
def State.myEpoch (s : State) : Word32 :=
  let ph := msgPhase s.act.msg
  if ph = 0 then s.epochOf s.act.job
  else match s.dir.phases.find? fun p => p.job == s.act.job && p.id == ph with
    | some p => p.epoch
    | none => s.act.msg.epoch

def WSet.size (w : WSet) : Nat := w.pages + 1

/-! ## Placement of copies (R351) -/

/-- A cluster of a partition on a die in which every slot of every compute core is free. -/
def State.freeClusters (s : State) (part die : Nat) : Nat :=
  ((List.range 48).filter fun c =>
    (s.part part).spans.getLsbD (12 * die + spanOf c) &&
    !s.allActs.any fun a => dieOf a.core == die && clusterOf a.core == c && !isService a.core).length

/-- Messages in a pool's queue of a die. -/
def Pool.depth (p : Pool) (die : Nat) : Nat := ((p.queues.find? fun v => v.die == die).map fun v => v.msgs.length).getD 0

/-- The die whose pool queue takes a message from a die, or from none of this package's. -/
def State.chooseDie (s : State) (p : Pool) (part : Nat) (src : Option Nat) (mask : BitVec 4) : Nat :=
  let dies := (List.range 4).filter mask.getLsbD
  let free (d : Nat) : Bool := s.freeClusters part d != 0
  match (src.filter fun d => dies.contains d && free d).or (dies.find? free) with
    | some d => d
    | none => (dies.foldl (fun best d => match best with
      | none => some d
      | some b => if p.depth d < p.depth b then some d else best) none).getD 0

/-- A message enters a pool queue of its expert. -/
def State.queueExpert (s : State) (e : ExpEntry) (k : Nat) (q : QMsg) : State :=
  match s.dir.pools.find? fun p => p.job == e.job && p.index == e.pool && p.life == .live with
  | none => s
  | some p =>
    let w := vget e.sets k
    let die := s.chooseDie p (s.partOf e.job 0) q.src (inForce e.home.toNat w q.msg.epoch)
    s.acceptPool p (p.dieFor die) q.msg q.arrived q.deadline (some (e.num, k))

/-! ## Room in the weight area (13 R353 to R355; 16 R370, R371) -/

/-- A partition's weight area of a die: first page and pages. -/
def State.weightArea (s : State) (part die : Nat) : Nat × Nat :=
  let w := (s.part part).wt.toNat
  let n := bits w 48 16 + 1
  if bits w 0 39 = 0 then (0, 0) else (bits w 0 39 + die * n, n)

/-- The HBM page on its die, and the key id, behind a page of the weight area. -/
def State.areaPage (s : State) (part die k : Nat) : Option (Nat × Byte) :=
  match s.walk die (s.part part).asid.toNat (((s.weightArea part die).1 + k) * 65536) with
  | .ok (.leaf e, _) => if entryType e = 0 && entryPage e / 2 ^ 22 = die then some (entryPage e % 2 ^ 22, entryKey e) else none
  | _ => none

/-- Pages of a die that copies hold or are about to hold. -/
def State.takenPages (s : State) (die : Nat) : List (Nat × Nat) :=
  s.exp.entries.flatMap (fun e => [0, 1].filterMap fun k =>
    let w := vget e.sets k
    let coming := e.home.toNat == die && s.exp.fetches.any fun f => f.entry == e.num && f.set == k && f.started
    if w.present.getLsbD die || coming then some (vget w.page die, w.size) else none) ++
  s.exp.copies.filterMap fun c =>
    if c.2.2.1 = die then (s.expEntry c.1).map fun e => (c.2.2.2, (vget e.sets c.2.1).size) else none

def State.reservedPages (s : State) (die : Nat) : List (Nat × Nat) := (s.exp.reserved.filter fun r => r.die == die).map fun r => (r.first, r.pages)

/-- The key id under which a page of a weight area is written. -/
def State.pageKey (s : State) (part die page : Nat) : Byte :=
  ((List.range (s.weightArea part die).2).findSome? fun k => match s.areaPage part die k with
    | some (p, key) => if p = page then some key else none
    | none => none).getD 0

/-- The first run of `n` pages of a weight area that is free and that passes a test on its first page: with one key, and
adjacent in HBM. -/
def State.findPages (s : State) (part die n : Nat) (taken : List (Nat × Nat)) (ok : Nat → Bool) : Option (Nat × Byte) :=
  (List.range ((s.weightArea part die).2 + 1 - n)).findSome? fun k =>
    match s.areaPage part die k with
    | none => none
    | some (p, key) =>
      if ok p && !(taken.any fun t => numsMeet p n t.1 t.2) &&
        (List.range n).all (fun i => s.areaPage part die (k + i) == some (p + i, key)) then some (p, key) else none

/-! ## Windows (R352) -/

/-- The leaf of a window's page: the home copy with its replicas, read-only. -/
def windowLeaf (home page : Nat) (mask : BitVec 4) (key : Byte) : Word :=
  BitVec.ofNat 64 ((mask.toNat * 2 ^ 24 + home * 2 ^ 22 + page) * 2 ^ 18 + key.toNat * 256 + 5 * 32 + 16 + 2 + 1)

/-- A table entry of level 3 written; an address that the tables do not lead to has none. -/
def State.writeLeaf (s : State) (die asid va : Nat) (e : Word) : State :=
  match s.tablePlace die asid va with
  | some (3, page, idx) =>
    let addr := hbmKey page (idx * 8)
    (match s.keyGen (homeDie addr) 0 with
     | .ok gen => s.writeNow gen addr (leBytes 8 e.toNat) false
     | .error _ => s)
  | _ => s

/-- Slices no longer hold the pages of a range. -/
def State.dropCached (s : State) (asid first n : Nat) : State :=
  { s with xlat := { s.xlat with cached := s.xlat.cached.filter fun c => !(c.asid == asid && c.level == 4 && decide (first ≤ c.tag) && decide (c.tag < first + n)) } }

/-- The window of a set mapped on its copies, or with none its entries made invalid. -/
def State.mapWindow (s : State) (e : ExpEntry) (w : WSet) (key : Option Byte) : State :=
  let asid := s.asidOf e.job 0
  let home := e.home.toNat
  let leaf (i : Nat) : Word := match key with
    | some k => windowLeaf home (vget w.page home + i) w.present k
    | none => 0
  ((List.range w.size).foldl (fun s i => s.writeLeaf home asid ((w.window + i) * 65536) (leaf i)) s).dropCached asid w.window w.size

/-- The key id that a mapped window's leaves carry. -/
def State.windowKey (s : State) (e : ExpEntry) (w : WSet) : Byte :=
  match s.walk e.home.toNat (s.asidOf e.job 0) (w.window * 65536) with
  | .ok (.leaf l, _) => entryKey l
  | _ => 0

/-! ## Eviction (R353) -/

/-- A set that may be evicted. -/
def State.evictable (s : State) (part : Nat) (e : ExpEntry) (k : Nat) : Bool :=
  let w := vget e.sets k
  let held := some (e.num, k)
  e.valid && s.partOf e.job 0 == part && w.state == 0 && e.pins == 0 && w.waiting.isEmpty &&
  !(s.dir.pools.any fun p => p.queues.any fun v => v.msgs.any fun q => q.capture == held) && !s.allActs.any fun a => a.capture == held

/-- The set of a die that is evicted next: the oldest last dispatch, then the lower entry. -/
def State.evictNext (s : State) (part die : Nat) : Option (ExpEntry × Nat) :=
  let all := (s.exp.entries.filter fun e => e.home.toNat == die).flatMap fun e => ([0, 1].filter (s.evictable part e)).map fun k => (e, k)
  all.foldl (fun best t => match best with
    | none => some t
    | some b => if precedes t.1.last b.1.last || (t.1.last == b.1.last && decide (t.1.num < b.1.num)) then some t else best) none

/-- A die's fetches that have not started, oldest first. -/
def State.waitingFetches (s : State) (die : Nat) : List Fetch :=
  s.exp.fetches.filter fun f => !f.started && (s.expEntry f.entry).any fun e => e.home.toNat == die

/-- Room for a fetch in its home's weight area. -/
def State.fetchRoom (s : State) (f : Fetch) (avoid : List (Nat × Nat)) : Option (Nat × Byte) := do
  let e ← s.expEntry f.entry
  let die := e.home.toNat
  s.findPages (s.partOf e.job 0) die (vget e.sets f.set).size (s.takenPages die ++ avoid) fun _ => true

/-- Whether a fetch is of an entry's set. -/
def Fetch.isOf (f : Fetch) (entry set : Nat) : Bool := f.entry == entry && f.set == set
/-- A set whose source is none has nothing to fetch. -/
def State.noSource (s : State) (f : Fetch) : Bool := (s.expEntry f.entry).any fun e => (vget e.sets f.set).kind == 2
/-- Room that a fetch may take: not what is reserved for one of the fetches before it. -/
def State.roomBehind (s : State) (die : Nat) (older : List Fetch) (f : Fetch) : Option (Nat × Byte) :=
  s.fetchRoom f ((s.exp.reserved.filter fun r => r.die == die && older.any fun o => o.isOf r.entry r.set).map fun r => (r.first, r.pages))

/-- Pages that an entry's partition frees on a die are kept for the oldest waiting fetch into the same weight area that lacks
room (R354). -/
def State.reserve (s : State) (e : ExpEntry) (die first n : Nat) : State :=
  let part := s.partOf e.job 0
  let l := (s.waitingFetches die).filter fun f => !s.noSource f && (s.expEntry f.entry).any fun t => s.partOf t.job 0 == part
  match l.find? fun f => (s.roomBehind die (l.takeWhile fun t => t != f) f).isNone with
  | some f =>
    let r : Reserve := { die := die, first := first, pages := n, entry := f.entry, set := f.set }
    { s with exp := { s.exp with reserved := s.exp.reserved ++ [r] } }
  | none => s

/-- A set begins to be evicted: its window is unmapped and a replication of it abandoned. -/
def State.evict (s : State) (e : ExpEntry) (k : Nat) : State :=
  let s := (s.modSet e.num k fun w => { w with state := 3, owed := false }).mapWindow e (vget e.sets k) none
  let mine (c : Nat × Nat × Nat × Nat) : Bool := c.1 == e.num && c.2.1 == k
  let gone := s.exp.copies.filter mine
  gone.foldl (fun s c => s.reserve e c.2.2.1 c.2.2.2 (vget e.sets k).size)
    { s with exp := { s.exp with copies := s.exp.copies.filter fun c => !mine c } }

/-- EVICTION_COMPLETE (R349): every copy is freed. -/
def execEvictionComplete (entry set : Nat) (s : State) : Host.Outcome State Fault Refusal :=
  event s (do
    let e ← s.expEntry entry
    let w := vget e.sets set
    if !e.valid || 2 ≤ set || w.state != 3 then none
    else
      let dies := (List.range 4).filter w.present.getLsbD
      let s := dies.foldl (fun s d => s.reserve e d (vget w.page d) w.size) s
      let s := s.modSet entry set fun w => { w with state := 2, present := 0, epoch := Vector.replicate 4 0, page := Vector.replicate 4 0, owed := false }
      some (if w.owed then s.wantSet entry set else s))

/-! ## The expert pager (R354, R357) -/

/-- The read commands of a fetch from flash: at most 65,536 blocks each, whose pages follow one another in HBM. -/
def flashReads (e : ExpEntry) (set page : Nat) : List NvmeRead :=
  let w := vget e.sets set
  let blocks := 16 * w.size
  (List.range (ceilDiv blocks 65536)).map fun k =>
    { entry := e.num, set := set, queue := bits w.address 48 8, block := w.address % 2 ^ 48 + 65536 * k
      prps := (List.range (min 65536 (blocks - 65536 * k))).map fun i =>
        hbmKey (e.home.toNat * 2 ^ 22 + page) 0 + 4096 * (65536 * k + i) }

/-- A pager's reads of an entry's set are no more under way. -/
def State.dropReads (s : State) (e : ExpEntry) (k : Nat) : State :=
  { s with host := { s.host with nvme := s.host.nvme.filter fun c => !(c.entry == e.num && c.set == k)
                                 uio := s.host.uio.filter fun c => !(c.entry == e.num && c.set == k) } }

/-- A fetch's reads are sent (R354, 19 R438): fabric memory is read by unordered I/O, flash by commands in the pager's queue pair,
whose doorbell is then rung. -/
def State.sendReads (s : State) (e : ExpEntry) (set page : Nat) : State :=
  let w := vget e.sets set
  if w.kind = 0 then
    { s with host := { s.host with uio := s.host.uio ++ [{ entry := e.num, set := set, address := w.address % 2 ^ 50, len := 65536 * w.size }] } }
  else if w.kind = 1 then
    let cs := flashReads e set page
    let queue := bits w.address 48 8
    let tail := look 0 s.host.doorbells queue + cs.length
    { s with host := { s.host with nvme := s.host.nvme ++ cs, doorbells := put 0 queue tail s.host.doorbells } }
  else s

/-- EXPERT_FETCH_START: a waiting fetch starts, when no older one could; or the oldest, lacking room, has a set evicted for
it. -/
def execExpertFetchStart (die entry set : Nat) (s : State) : Host.Outcome State Fault Refusal :=
  event s (do
    let e ← s.expEntry entry
    let l := (s.waitingFetches die).filter fun f => !s.noSource f
    let f ← l.find? fun f => f.isOf entry set
    let older := l.takeWhile fun t => !t.isOf entry set
    let running := (s.exp.fetches.filter fun t => t.started && (s.expEntry t.entry).any fun e => e.home.toNat == die).length
    let passed := (List.range older.length).any fun i => (older[i]?).any fun t => (s.roomBehind die (older.take i) t).isSome
    if 8 ≤ running || passed then none
    else match s.roomBehind die older f with
      | some (page, _) =>
        let begin (t : Fetch) : Fetch := if t.isOf entry set then { t with started := true, since := s.env.time } else t
        let kept := s.exp.reserved.filter fun r => !(r.die == die && f.isOf r.entry r.set)
        let s := ({ s with exp := { s.exp with fetches := s.exp.fetches.map begin, reserved := kept } } : State).modSet entry set fun w =>
          { w with page := vset w.page die page }
        some (s.sendReads e set page)
      | none =>
        let busy := s.exp.entries.any fun t => t.home.toNat == die && t.sets.toList.any fun w => w.state == 3
        if !older.isEmpty || busy then none
        else
          let (v, k) ← s.evictNext (s.partOf e.job 0) die
          some (s.evict v k))

/-- Where a set's bytes come from: fabric memory behind the host port of the home die's half, or flash. -/
def sourceKey (home : Nat) (w : WSet) : Nat :=
  if w.kind = 0 then tierKey (home / 2) (w.address % 2 ^ 50) else flashKey (bits w.address 48 8) (w.address % 2 ^ 48 * 4096)

/-- Parked messages of a resident set, oldest first (R350): a pool that is not live takes none, and they stay in the wait
queue. -/
def State.drain (s : State) (entry set : Nat) : State :=
  match s.expEntry entry with
  | none => s
  | some e => if (vget e.sets set).state != 0 then s else (vget e.sets set).waiting.foldl (fun s q =>
    if s.dir.pools.any fun p => p.job == e.job && p.index == e.pool && p.life == .live then
      (s.modSet entry set fun w => { w with waiting := w.waiting.drop 1 }).queueExpert e set q
    else s) s

/-- A fetch is over: its reads are completed, and what was reserved for it is not (R354). -/
def State.fetchOver (s : State) (e : ExpEntry) (k : Nat) : State :=
  let fetches := s.exp.fetches.filter fun f => !f.isOf e.num k
  let reserved := s.exp.reserved.filter fun r => !(r.entry == e.num && r.set == k)
  State.dropReads { s with exp := { s.exp with fetches := fetches, reserved := reserved } } e k

/-- The pages that a fetch was to fill are scrubbed (R349). How much of them a failing fetch had brought is not known here:
all are (assumption 84). -/
def State.scrubFetch (s : State) (e : ExpEntry) (k : Nat) : State :=
  let w := vget e.sets k
  let home := e.home.toNat
  let page := vget w.page home
  if !s.exp.fetches.any fun f => f.isOf e.num k && f.started then s
  else match s.keyGen home (s.pageKey (s.partOf e.job 0) home page) with
    | .ok gen => s.writeNow gen (hbmKey (home * 2 ^ 22 + page) 0) (List.replicate (w.size * 65536) 0) false
    | .error _ => s

/-- A fetch that fails: what it had brought is scrubbed, the set is absent and the pool is killed. -/
def State.fetchFails (s : State) (e : ExpEntry) (k reason : Nat) : State :=
  let w := vget e.sets k
  let started := s.exp.fetches.any fun f => f.isOf e.num k && f.started
  let s := (s.scrubFetch e k).modSet e.num k fun w => { w with state := 2, page := Vector.replicate 4 0 }
  let s := s.fetchOver e k
  let s := if started then s.reserve e e.home.toNat (vget w.page e.home.toNat) w.size else s
  match s.dir.pools.find? fun p => p.job == e.job && p.index == e.pool with
  | some p => s.killActor p.name reason
  | none => s

/-- A set that becomes resident: the faults that its window took are answered, each to be replayed (R352). -/
def State.answerWindow (s : State) (e : ExpEntry) (w : WSet) : State :=
  let asid := s.asidOf e.job 0
  let pager := pagerName (s.partOf e.job 0)
  (s.xlat.tickets.filter fun t => t.asid == asid && decide (w.window ≤ t.page) && decide (t.page < w.window + w.size)).foldl (fun s t =>
    s.fly { id := 0, src := pager, dst := pager, die := e.home.toNat, item := .faultReply t.num 0 }) s

/-- A fetch's bytes land in the home copy, and the set is resident. -/
def State.fetchLands (s : State) (e : ExpEntry) (k gen : Nat) (key : Byte) (bs : List Byte) : State :=
  let home := e.home.toNat
  let w := vget e.sets k
  let s := s.writeNow gen (hbmKey (home * 2 ^ 22 + vget w.page home) 0) bs false
  let s := (s.modSet e.num k fun w => { w with state := 0, present := 1#4 <<< home }).fetchOver e k
  ((s.mapWindow e { w with present := 1#4 <<< home } (some key)).answerWindow e w).drain e.num k

/-- The domain's packages. -/
def domainPackages : List Nat := (List.range 64).filterMap Config.domain
/-- The packages of a job lie in more than one load-store domain (R357, 19 R437). -/
def spansDomains (job : Half) : Bool :=
  (Config.jobPackages job).any fun p => p != Config.packageNumber.toNat && !domainPackages.contains p

/-- The bytes of a set are those its manifest lists (R357): by their SHA-256, but for a job that spans domains, whose fetches are
not digested. -/
def State.digestOk (s : State) (e : ExpEntry) (k : Nat) (bs : List Byte) : Bool :=
  let m := (s.modelOf e.job e.model).getD { num := 0 }
  spansDomains e.job || sha256 bs == Config.manifestEntry (vget m.manifest k) e.expert

/-- EXPERT_FETCH_COMPLETE: the bytes have come, a read has come with poison, or one has not come within the request timeout. -/
def execExpertFetchComplete (entry set : Nat) (outcome : FetchEnd) (s : State) : Host.Outcome State Fault Refusal :=
  event s (do
    let e ← s.expEntry entry
    let f ← s.exp.fetches.find? fun f => f.entry == entry && f.set == set
    let w := vget e.sets set
    let home := e.home.toNat
    if w.kind = 2 then some (s.fetchFails e set 20).settleLevels
    else if !f.started then none
    else
      let n := w.size * 65536
      let src := sourceKey home w
      let r := s.readPlain home src n
      match (if outcome = .complete ∧ r.2 then .poisoned else outcome) with
      | .unanswered => if s.env.time ≤ f.since + s.links.rto.toNat * 1000 then none else some (s.fetchFails e set 7).settleLevels
      | .poisoned =>
        if f.retried then some (s.fetchFails e set 10).settleLevels
        else
          let again (t : Fetch) : Fetch := if t.isOf entry set then { t with retried := true, since := s.env.time } else t
          some ((({ s with exp := { s.exp with fetches := s.exp.fetches.map again } } : State).dropReads e set).sendReads e set (vget w.page home))
      | .complete =>
        if !s.digestOk e set r.1 then some (s.fetchFails e set 16).settleLevels
        else
          let key := s.pageKey (s.partOf e.job 0) home (vget w.page home)
          match s.keyGen home key with
          | .ok gen => some (s.fetchLands e set gen key r.1).settleLevels
          | .error _ => some (s.fetchFails e set 20).settleLevels)

/-! ## Load counters and replication (R355) -/

/-- The die that takes a copy: the most free clusters, then the lower number. -/
def State.copyTarget (s : State) (e : ExpEntry) (w : WSet) : Option (Nat × Nat) :=
  match s.dir.pools.find? fun p => p.job == e.job && p.index == e.pool with
  | none => none
  | some p =>
    let part := s.partOf e.job 0
    let room (d : Nat) : Option Nat :=
      if p.dies.getLsbD d && !w.present.getLsbD d && [0, 1, 2, 3, 4, 5, 6, 7, 8, 9, 10, 11].any (fun k => (s.part part).spans.getLsbD (12 * d + k)) then
        (s.findPages part d w.size (s.takenPages d ++ s.reservedPages d) fun q => q == vget w.page e.home.toNat).map (·.1)
      else none
    ((List.range 4).filterMap fun d => (room d).map fun q => (d, q)).foldl (fun best t => match best with
      | none => some t
      | some b => if s.freeClusters part b.1 < s.freeClusters part t.1 then some t else best) none

/-- A message is counted, and may start a copy of the set it captured. -/
def State.countLoad (s : State) (n k : Nat) : State :=
  let s := s.modEntry n fun e => { e with load := if e.load == 0xFFFFFFFF then e.load else e.load + 1 }
  match s.expEntry n with
  | none => s
  | some e =>
    let w := vget e.sets k
    let threshold := (s.part (s.partOf e.job 0)).repl
    if threshold = 0 || decide (e.load.toNat < threshold.toNat) || w.state != 0 || s.exp.copies.any (fun c => c.1 == n) then s
    else match s.copyTarget e w with
      | none => s
      | some (die, page) =>
        { s.modEntry n fun e => { e with load := e.load - threshold } with exp.copies := s.exp.copies ++ [(n, k, die, page)] }

/-- REPLICA_COPY_COMPLETE: the copy is in force from the next phase opening. -/
def execReplicaCopyComplete (entry set die : Nat) (s : State) : Host.Outcome State Fault Refusal :=
  event s (do
    let e ← s.expEntry entry
    let c ← s.exp.copies.find? fun c => c.1 == entry && c.2.1 == set && c.2.2.1 == die
    let w := vget e.sets set
    let home := e.home.toNat
    let key := s.windowKey e w
    let s := s.repair (hbmKey (home * 2 ^ 22 + vget w.page home) 0) (w.size * 65536)
    match s.readHbm die key (hbmKey (home * 2 ^ 22 + vget w.page home) 0) (w.size * 65536), s.keyGen die key with
    | .ok (bs, poison, s), .ok gen =>
      let s := s.writeNow gen (hbmKey (die * 2 ^ 22 + c.2.2.2) 0) bs poison
      let s := { s with exp := { s.exp with copies := s.exp.copies.filter fun t => t != c } }
      let full (w : WSet) : WSet :=
        { w with present := w.present ||| (1#4 <<< die), epoch := vset w.epoch die (s.epochOf e.job + 1), page := vset w.page die c.2.2.2 }
      some ((s.modSet entry set full).mapWindow e (full w) (some key))
    | _, _ => some { s with exp := { s.exp with copies := s.exp.copies.filter fun t => t != c } })

/-! ## Arrival (R349, R350) -/

/-- A message parks in its set's wait queue: past the quota, or with the spill area full, it kills the pool. -/
def State.park (s : State) (p : Pool) (e : ExpEntry) (k : Nat) (q : QMsg) : State :=
  let full := decide (p.image.quota < (vget e.sets k).waiting.length + 1) || !s.spillRoom p.job e.home.toNat
  let t := s.modSet e.num k fun w => { w with waiting := w.waiting ++ [q] }
  if full then t.killActor p.name 6 else t

/-- A message at an expert pool. -/
def State.expertArrive (s : State) (p : Pool) (src : Nat) (m : Msg) : State :=
  match s.exp.entries.find? fun e => e.valid && e.job == p.job && e.pool == p.index with
  | none => s
  | some e =>
    let k := s.captured e m.epoch
    let q : QMsg := { msg := m, seq := 0, arrived := s.env.time, deadline := s.effective p.job m, capture := some (e.num, k), src := s.senderDie src m }
    let resident := (vget e.sets k).state == 0 && (vget e.sets k).waiting.isEmpty
    let s := if resident then s.queueExpert e k q else (s.park p e k q).wantSet e.num k
    if s.killable p.name then s.countLoad e.num k else s

/-- EXPERT_MESSAGE_ARRIVAL. -/
def execExpertMessageArrival (flight : Nat) (s : State) : Host.Outcome State Fault Refusal :=
  event s (do
    let f ← s.wire.flights.find? fun f => f.id == flight
    let p ← s.poolOf f.to
    if !s.flightReady f || p.life != .live || !s.isExpertPool p || !incOk f.to p.inc then none
    else match f.item with
      | .msg m =>
        if !isHardware m && !reachable (nameJob f.src) m.w0 then none
        else some ((s.removeFlight f.id).expertArrive p f.die m).settleLevels
      | .launch m grid rec num next =>
        let total := bits grid.toNat 0 16 * bits grid.toNat 16 16 * bits grid.toNat 32 16
        let step (g : Flight) : Flight := if g.id == f.id then { g with item := .launch m grid rec num (next + 1) } else g
        let rest := if next + 1 < total then { s with wire := { s.wire with flights := s.wire.flights.map step } } else s.removeFlight f.id
        some (rest.expertArrive p f.die (pointMsg m grid rec num f.to next)).settleLevels
      | _ => none)

/-! ## The EXPERT group (12 R338 to R344) -/

/-- ROUTE's operands, checked at issue (R339). -/
def State.routeChecked (s : State) : Chk (Word × Word) := do
  let a := s.act
  let o0 ← a.ctlO 0
  let o1 ← a.ctlO 1
  let o2 ← a.ctlO 2
  let o3 ← a.ctlO 3
  let o4 ← a.ctlO 4
  let o5 ← a.ctlO 5
  let o6 ← a.ctlO 6
  need (bits o1.toNat 48 16 == 0 && bits o1.toNat 19 13 == 0) 3
  checkR36 o2 o3
  let table ← canonical o0
  aligned table 32
  need (table / 2 ^ 48 == 0x70) 20
  let r := routeOps o0 o1 o2 o3 o4 o5 o6 0 false
  let n := 8 * r.k * r.rows
  let _ ← (if n = 0 then .ok table else s.checkLocal s.me o0 n 32 .engineRead)
  let buffer ← canonical o4
  aligned buffer 1024
  need (nameKind o5 == 1 && nameInc o5 == 0) 3
  let _ ← s.slotHandle o6
  .ok (wordTwo o2 (msgPhase a.msg), o3)

/-- A ROUTE that has added its count releases its lists; done, it writes the count. -/
def State.routeGo (s : State) (d : BitVec 5) (n : Word) : Chk State :=
  let r := s.releaseStaged
  match r.2 with
  | none => .ok (r.1.result 4 d n)
  | some e => r.1.stopped (some e)

/-- ROUTE (R339, R340). -/
def execRoute (sc : BitVec 4) (a d : BitVec 5) (s : State) : Host.Outcome State Fault Refusal :=
  run s (
    match s.act.memo with
    | .value n _ => if d = 0 then s.routeGo d n else s.once 4 d fun s => s.routeGo d n
    | _ => do
      let mask ← s.maskX sc a
      let (w2, w3) ← s.routeChecked
      let o := s.act.getO
      let p6 := s.act.oPoison 7
      let go (s : State) : Chk State := do
        s.awaitFences
        let (n, effs, t) ← s.routeBegin s.act (routeOps (o 0) (o 1) w2 w3 (o 4) (o 5) (o 6) (o 7) p6) mask sc.toNat
        State.routeGo (t.modAct fun u => { u with staged := effs, memo := .value (BitVec.ofNat 64 n) false }) d (BitVec.ofNat 64 n)
      if d = 0 then
        if s.act.committed then (if s.act.run ≠ 0 then .ok (s.advance 4) else go s)
        else do
          let t ← s.stage (.route (o 0) (o 1) w2 w3 (o 4) (o 5) (o 6) (o 7) p6 mask sc.toNat)
          .ok (t.advance 4)
      else s.commits fun s => s.once 4 d go)

/-- ERQ's word (R341). -/
def State.expertWord (s : State) (e : ExpEntry) : Word :=
  let p := s.myEpoch
  let k := s.captured e p
  let w := vget e.sets k
  at_ e.load 32 ||| BitVec.ofNat 64 (min w.waiting.length 65535 * 2 ^ 16) ||| at_ (inForce e.home.toNat w p) 12 |||
  BitVec.ofNat 64 (k * 256) ||| flagAt (e.pins != 0) 2 ||| at_ w.state 0

/-- ERQ. -/
def execErq (a d : BitVec 5) (s : State) : Host.Outcome State Fault Refusal :=
  run s (do
    let v ← s.act.ctlX a
    let id ← expertId v
    let e ← s.entryOfId s.act.job id
    .ok (s.result 4 d (s.expertWord e)))

/-- EPIN (R342): the set that a message of the issuer's phase would capture is fetched if it is absent. -/
def execEpin (a : BitVec 5) (s : State) : Host.Outcome State Fault Refusal :=
  run s (do
    let v ← s.act.ctlX a
    let id ← expertId v
    let e ← s.entryOfId s.act.job id
    need (s.act.run != 0 || e.pins != 65535) 17
    s.commits fun s => s.once 4 0 fun s => do
      let e ← s.entryOfId s.act.job id
      need (e.pins != 65535) 17
      let t := s.modEntry e.num fun e => { e with pins := e.pins + 1 }
      .ok ((t.wantSet e.num (s.captured e s.myEpoch)).advance 4))

/-- EUNPIN (R342). -/
def execEunpin (a : BitVec 5) (s : State) : Host.Outcome State Fault Refusal :=
  run s (do
    let v ← s.act.ctlX a
    let id ← expertId v
    let _ ← s.entryOfId s.act.job id
    s.commits fun s => s.once 4 0 fun s => do
      let e ← s.entryOfId s.act.job id
      .ok ((s.modEntry e.num fun e => { e with pins := e.pins - 1 }).advance 4))

/-- A WSET takes effect (R356). -/
def State.weightSet (s : State) (m : ModelRec) (set : Bool) : Chk State :=
  if m.force == set then .ok s
  else do
    need ((if set then m.openB else m.openA) == 0) 17
    need (m.ver.getLsbD (if set then 1 else 0)) 16
    let mod (r : ModelRec) : ModelRec := { r with pending := true, pset := set }
    .ok { s with exp := { s.exp with models := mapIf (fun r => r.num == m.num) mod s.exp.models } }

/-- A job's model record; a model without one kills with 20. -/
def State.modelFor (s : State) (model : Half) : Chk ModelRec := match s.modelOf s.act.job model with
  | none => kill 20
  | some m => .ok m

/-- WSET (R343): the record and its verification are checked at issue, before anything is released (R311); what R356 says of the
set in force and of open phases holds at its commit. -/
def execWset (a : BitVec 5) (s : State) : Host.Outcome State Fault Refusal :=
  run s (do
    let v ← s.act.ctlX a
    need (bits v.toNat 32 32 == 0 && bits v.toNat 1 15 == 0) 3
    let set := v.getLsbD 0
    let model := v.extractLsb' 16 16
    let m ← s.modelFor model
    need (m.force == set || (if set then m.openB else m.openA) != 0 || m.ver.getLsbD (if set then 1 else 0)) 16
    s.commits fun s => s.once 4 0 fun s => do
      let m ← s.modelFor model
      let t ← s.weightSet m set
      .ok (t.advance 4))

/-- ELOADC (R344): with `.take` what was read is subtracted. -/
def execEloadc (t : BitVec 1) (a d : BitVec 5) (s : State) : Host.Outcome State Fault Refusal :=
  run s (do
    let v ← s.act.ctlX a
    let id ← expertId v
    let e ← s.entryOfId s.act.job id
    if t = 0 then .ok (s.result 4 d (at_ e.load 0))
    else
      s.commits fun s => s.once 4 d fun s => do
        let e ← s.entryOfId s.act.job id
        .ok ((s.modEntry e.num fun e => { e with load := 0 }).result 4 d (at_ e.load 0)))

/-! ## Tables that Calico writes (13 R345 to R347, R356) -/

/-- A set's two words: window and source; none when a reserved field or the kind is refused. -/
def parseSet (a b : Word) : Option WSet :=
  if bits a.toNat 39 9 ≠ 0 ∨ bits b.toNat 56 6 ≠ 0 ∨ bits b.toNat 62 2 = 3 ∨ (bits b.toNat 62 2 = 0 ∧ bits b.toNat 0 16 ≠ 0) then none
  else some { pages := bits a.toNat 48 16, window := bits a.toNat 0 39, kind := b.extractLsb' 62 2, address := bits b.toNat 0 56 }

/-- The entry that eight words, bytes 0 to 63, describe. -/
def parseEntry (n : Nat) (d : List Word) : Option ExpEntry :=
  let w (i : Nat) : Word := d.getD i 0
  if d.length ≠ 8 ∨ bits (w 0).toNat 60 3 ≠ 0 ∨ bits (w 0).toNat 16 14 ≠ 0 ∨ bits (w 1).toNat 6 10 ≠ 0 then none
  else do
    let a ← parseSet (w 4) (w 5)
    let b ← parseSet (w 6) (w 7)
    some { num := n, valid := (w 0).getLsbD 63, pool := bits (w 0).toNat 30 30, expert := (w 0).extractLsb' 0 16
           job := (w 1).extractLsb' 48 16, model := (w 1).extractLsb' 32 16, home := (w 1).extractLsb' 4 2, sets := #v[a, b] }

/-- A set whose window and source words may be rewritten. -/
def State.setFree (s : State) (e : ExpEntry) (k : Nat) : Bool :=
  if !e.valid then true
  else
    (vget e.sets k).state == 2 &&
    (match s.modelOf e.job e.model with
     | some m => m.force != decide (k = 1) && (if k = 1 then m.openB else m.openA) == 0
     | none => true)

/-- An entry written; none when the write is refused. -/
def State.writeEntry (s : State) (n : Nat) (d : List Word) : Option State :=
  let old := (s.expEntry n).getD { num := n }
  match parseEntry n d with
  | none => none
  | some e =>
    let same (k : Nat) : Bool :=
      let a := vget old.sets k
      let b := vget e.sets k
      a.pages == b.pages && a.window == b.window && a.kind == b.kind && a.address == b.address
    let head := old.valid == e.valid && old.pool == e.pool && old.expert == e.expert && old.job == e.job && old.model == e.model && old.home == e.home
    if 65536 ≤ n || (old.valid && !head) || !([0, 1].all fun k => same k || s.setFree old k) then none
    else
      let state (w : WSet) : BitVec 2 := if e.valid && !old.valid then 2 else w.state
      let set (k : Nat) : WSet :=
        let a := vget old.sets k
        let b := vget e.sets k
        { a with state := state a, pages := b.pages, window := b.window, kind := b.kind, address := b.address }
      let v : ExpEntry := { old with valid := e.valid, pool := e.pool, expert := e.expert, job := e.job, model := e.model, home := e.home
                                     sets := #v[set 0, set 1] }
      some { s with exp := { s.exp with entries := (s.exp.entries.takeWhile fun t => decide (t.num < n)) ++ [v] ++
                                     s.exp.entries.filter fun t => decide (n < t.num) } }

/-- A model record written; none when the write is refused. -/
def State.writeModel (s : State) (n : Nat) (d : List Word) : Option State :=
  let old := (s.exp.models.find? fun r => r.num == n).getD { num := n }
  let w := d.getD 0 0
  if 1024 ≤ n || d.length ≠ 2 || old.valid || bits w.toNat 48 15 ≠ 0 || bits w.toNat 7 9 ≠ 0 then none
  else
    let v : ModelRec := { old with valid := w.getLsbD 63, job := w.extractLsb' 32 16, model := w.extractLsb' 16 16 }
    some { s with exp := { s.exp with models := (s.exp.models.filter fun r => r.num != n) ++ [v] } }

/-- A job's range of entries: base and count. -/
def State.writeRange (s : State) (job : Half) (d : List Word) : Option State :=
  let base := (d.getD 0 0).toNat
  let count := (d.getD 1 0).toNat
  if d.length ≠ 2 || 65536 < base + count then none
  else some { s with exp := { s.exp with ranges := (s.exp.ranges.filter fun r => r.1 != job) ++ [(job, base, count)] } }

/-- What a request to write a table returns: done, or an error, with the table as it was (R346). -/
def State.tableAnswer (s : State) (r : Option State) : State :=
  let t := r.getD s
  { t with exp := { t.exp with answer := some r.isSome } }

/-- EXPERT_TABLE_WRITE: Calico's running activation writes; a refused write returns an error. -/
def execExpertTableWrite (target : TableTarget) (data : List Word) (s : State) : Host.Outcome State Fault Refusal :=
  if !s.calico then .next s
  else run s (.ok (s.tableAnswer (match target with
    | .entry n => s.writeEntry n data
    | .model n => s.writeModel n data
    | .range job => s.writeRange job data)))

end Sys2Proof.Machine
end

