-- ==== Sys2Proof/Machine/Placement.lean ====
section
/-! DEFINITION. Image descriptors, placement of actors, SPAWN and SUPV, and the restart engine's placements (03 R78, R79,
R83 to R85; 04 R88 to R90; 12 R313, R317; 16 R361; 02 R58, R40). -/

namespace Sys2Proof.Machine

/-! ## Reading records and initialisers (03 R83, 12 R317) -/

/-- What marks the requests of a reader that keeps its answers until it is done. -/
def keepEntry : Option (Nat × Nat) := some (0, 1)

/-- One piece of at most 32 bytes, of one sector: none when a request to another package has been made. -/
def State.readPiece (s : State) (w : Who) (acc : Access) (va n : Nat) : Chk (Option (List Byte × Bool) × State) := do
  let (a, spot) ← s.check w (BitVec.ofNat 64 va) n 1 acc
  match spot with
  | .pool core off _ _ =>
    s.awaitPorts core off n
    s.awaitOwn w (poolKey core off) n
    let r := s.readPlain w.die (poolKey core off) n
    .ok (some (s.overlayOwn w a (poolKey core off) r.1 r.2), s)
  | .far =>
    let (p, s) ← s.translate w.die w.asid a acc w.service
    s.awaitOwn w p.place n
    match p.type with
    | 1 =>
      match s.links.remote.find? fun r => r.aid == w.aid && r.actor == w.name && r.entry == keepEntry && r.va == a with
      | some r =>
        match r.answer with
        | some (bs, poison) => .ok (some (bs, poison || entryPoison p.leaf), s)
        | none => .error (.stall (.remote r.id))
      | none =>
        await !(s.storesTo w (place1 p))
        let (id, s) ← s.ask w p n false {} keepEntry fun id => .readRequest p.addr (entryKey p.leaf) n w.core id
        .ok (none, s.modAct fun t => if t.aid = w.aid then { t with wait := .remote id } else t)
    | 6 =>
      let v ← s.ioRead p.page p.off n
      .ok (some (leBytes n v.toNat, entryPoison p.leaf), s)
    | _ =>
      await !(s.replicaBehind w.core p)
      await ((s.ownEffects w).all fun t => p.type != 5 || t.1.all fun q => q / 65536 != p.addr / 65536)
      let (bs, poison, s) ← s.readPhys w.die p n
      .ok (some (s.overlayOwn w a p.place bs poison), s)

/-- Pieces read one after another. -/
def State.readPieces (w : Who) (acc : Access) : List (Nat × Nat) → State → Chk (Option (List (List Byte × Bool)) × State)
  | [], s => .ok (some [], s)
  | (va, n) :: l, s => do
    let (r, s) ← s.readPiece w acc va n
    match r with
    | none => .ok (none, s)
    | some p => do
      let (rest, s) ← State.readPieces w acc l s
      .ok (rest.map (p :: ·), s)

/-- The pieces of `n` bytes from `va`, in units that divide both. -/
def piecesOf (unit va n : Nat) : List (Nat × Nat) := (List.range (n / unit)).map fun k => (va + unit * k, unit)

/-- A record read as loads: poison on it kills. -/
def State.readRecord (s : State) (w : Who) (va n unit : Nat) : Chk (Option (List Byte) × State) := do
  let (r, s) ← State.readPieces w .load (piecesOf unit va n) s
  match r with
  | none => .ok (none, s)
  | some l => do
    need (!l.any (·.2)) 10
    .ok (some (l.flatMap (·.1)), s)

/-- Answers that a reader kept are dropped. -/
def State.dropKept (s : State) (w : Who) : State :=
  { s with links := { s.links with remote := s.links.remote.filter fun r => !(r.aid == w.aid && r.actor == w.name && r.entry == keepEntry) } }

/-! ## Image descriptors (03 R83) -/

/-- One initialiser's twelve bytes; none when a reserved field is nonzero or its class is 0b11, or its source is not 64-byte
aligned, which R83 asks for and does not list among what is malformed (assumption 80). -/
def parseInit (v : Nat) : Option RegInit :=
  let size := bits v 80 16 * 64
  if bits v 55 21 ≠ 0 ∨ bits v 78 2 = 3 ∨ (size = 0 ∧ v ≠ 0) ∨ bits v 0 55 % 64 ≠ 0 then none
  else some { size := size, cls := BitVec.ofNat 2 (bits v 78 2), w := v.testBit 77, r := v.testBit 76, source := bits v 0 55 }

/-- A descriptor; none when it is malformed. -/
def parseImage (va : Nat) (bs : List Byte) : Option Image :=
  let w (i : Nat) : Nat := leNat ((bs.drop (8 * i)).take 8)
  let inits := (List.range 8).map fun i => parseInit (leNat ((bs.drop (32 + 12 * i)).take 12))
  let regions := inits.filterMap id
  let units := ceilDiv ((regions.map (·.size)).sum) 65536
  let part := bits (w 1) 0 8
  let acc := bits part 0 5
  let reg := bits part 5 3
  let service := (w 2).testBit 32
  let left := if part = 0 then (if service then 15 else 31) else if service then 16 - reg else 32 - acc - reg
  if bits (w 0) 55 9 ≠ 0 ∨ w 0 % 2 ≠ 0 ∨ bits (w 1) 8 24 ≠ 0 ∨ bits (w 2) 37 27 ≠ 0 ∨ bits (w 2) 30 2 ≠ 0 ∨ w 3 ≠ 0 ∨
      5 ≤ bits (w 2) 33 3 ∨ inits.any Option.isNone ∨ left < units then none
  else some { va := va, entry := BitVec.ofNat 64 (w 0), quota := if bits (w 1) 32 32 = 0 then 1024 else bits (w 1) 32 32
              part := BitVec.ofNat 8 part, trapx := (w 2).testBit 36, die := bits (w 2) 33 3, service := service
              index := bits (w 2) 0 30, regions := regions }

/-- An image that Calico may be placed from: descriptor and initialisers in pages that Keystone measured (16 R361). -/
def Boot.measured (b : Boot) (img : Image) : Bool :=
  Config.calicoPage b.image.1 0 (img.va / 65536) &&
  img.regions.all fun r => r.source == 0 || (blocks 65536 r.source r.size).all fun p => Config.calicoPage b.image.1 0 p

/-- The image that an instruction names, read and checked: malformed, or not measured for Calico, kills with 3. An address that
is not 128-byte aligned kills with 5, SPAWN's by R313, and a supervision record's child's by this model's choice, since R78
and R83 give it no reason (assumption 80). -/
def State.readImage (s : State) (w : Who) (va : Nat) : Chk (Option Image × State) := do
  aligned va 128
  let (r, s) ← s.readRecord w va 128 32
  match r with
  | none => .ok (none, s)
  | some bs =>
    match parseImage va bs with
    | none => kill 3
    | some img => do
      need (!w.service || s.boot.measured img) 3
      .ok (some img, s)

/-! ## Finding room (03 R84, 04 R88, R90) -/

/-- Writes under way to a core's pool: its units are not assigned again before they have landed (04 R99). -/
def State.flying (s : State) (core : Nat) : List (Nat × Nat) :=
  let lo := poolKey core 0
  let inPool (k n : Nat) : Option (Nat × Nat) := if lo ≤ k ∧ k < lo + 2 ^ 24 then some (k - lo, n) else none
  s.wire.flights.filterMap (fun f => match f.item with
    | .pushrSector _ c off _ data _ _ => if c = core then some (off, data.length) else none
    | _ => none) ++
  (s.mem.pending.filter fun w => w.stream.isNone).filterMap (fun w => inPool w.addr w.bytes.length) ++
  (s.wire.deferred.filter fun d => d.eff.writes).filterMap fun d =>
    (s.placeOf d.who d.eff.span.1 d.eff.span.2).bind fun k => inPool k d.eff.span.2

/-- Pool bytes of a core that regions, places kept for a placement, and writes under way, take. -/
def State.taken (s : State) (core : Nat) : List (Nat × Nat) :=
  let of (v : Vector Region 8) : List (Nat × Nat) := (v.toList.filter fun r => r.state != .empty).map fun r => (r.offset, r.size)
  (s.residents core).flatMap (fun a => of a.regions) ++
  (s.dir.actors.filter resident).flatMap (fun a => (a.mirror.filter fun m => m.core == core).flatMap fun m => of m.regions) ++
  s.dir.pools.flatMap (fun p => (p.members.filter fun m => m.core == core).flatMap fun m => of m.regions) ++
  (s.kept core).flatMap (fun r => of r.regions) ++ s.flying core

/-- The 64-byte-aligned offsets at which a region fits against what lies below it, lowest first. Which free range a region
takes is this model's choice (assumption 81): the lowest, in the order of slots, that leaves room for the rest. -/
def fits (limit size : Nat) (taken : List (Nat × Nat)) : List Nat :=
  sortBy (fun a b => decide (a ≤ b)) (((0 :: taken.map fun t => ceilDiv (t.1 + t.2) 64 * 64).filter fun o =>
    decide (o + size ≤ limit) && !taken.any fun t => overlaps t.1 t.2 o size).eraseDups)

/-- Regions placed one after another, another offset tried where the rest then finds no room. -/
def fitAll (limit : Nat) : List RegInit → List (Nat × Nat) → Option (List Region)
  | [], _ => some []
  | r :: l, taken =>
    if r.size = 0 then (fitAll limit l taken).map ({} :: ·)
    else (fits limit r.size taken).findSome? fun o =>
      let v : Region := { state := .owned, cls := r.cls, w := r.w, r := r.r, size := r.size, offset := o }
      (fitAll limit l ((o, r.size) :: taken)).map (v :: ·)

def regionVector (l : List Region) : Vector Region 8 := l.zipIdx.foldl (fun v t => vset v t.2 t.1) (Vector.replicate 8 {})

/-- A partition word that placement does not refuse (04 R88). -/
def wordOk (core : Nat) (c : Core) : Bool :=
  decide (c.acc ≤ 16) && decide (1 ≤ c.reg) && decide (c.reg ≤ 4) && decide (c.acc + c.reg < if isService core then 16 else 32) &&
  (!isService core || c.acc == 0)

/-- How many actors a core may hold (01 R14). -/
def residentLimit (core : Nat) : Nat := if isService core then 1024 else 256

/-- Room on one core, if it has any. -/
def State.roomOn (s : State) (img : Image) (core : Nat) : Option Room :=
  let used := s.residentNumbers core
  if used.length < residentLimit core ∧ wordOk core (s.core core) ∧ (img.part = 0 ∨ img.part = (s.core core).word) then
    (fitAll (s.scratchBytes core) img.regions (s.taken core)).map fun l =>
      { core := core, resident := lowestFree used, regions := regionVector l }
  else none

/-- The cores that may hold an actor of a job: of its affinity, inside its partition; Calico's on any service core, and no
other (16 R361, assumption 98). Minimal mode has one core (20 R444). -/
def State.coresFor (s : State) (job : Half) (service : Bool) : List Nat :=
  let all := (List.range 48).flatMap fun k => if job == 0 || (match s.partOfJob job with
      | some p => (s.part p).spans.getLsbD k
      | none => false) then coresOfSpan (k / 12) (k % 12) else []
  all.filter fun c => isService c == service && (job != 0 || isService c) && !s.links.lostDies.getLsbD (dieOf c) && (!s.boot.minimal || c == 4)

/-- Of the cores of a die with room, the one with the fewest residents, ties to the lower logical core. -/
def State.bestOnDie (s : State) (img : Image) (cores : List Nat) (die : Nat) : Option Room :=
  (cores.filter fun c => dieOf c == die).foldl (fun best c =>
    match s.roomOn img c, best with
    | none, _ => best
    | some r, none => some r
    | some r, some b =>
      let n (x : Nat) : Nat := (s.residentNumbers x).length
      if n c < n b.core ∨ (n c = n b.core ∧ (s.core c).lcore.toNat < (s.core b.core).lcore.toNat) then some r else best) none

/-- Step 1 of R84: the previous die, then the hint, then the lowest die with room. -/
def State.findRoom (s : State) (img : Image) (cores : List Nat) (prev : Option Nat) : Option Room :=
  (prev.toList ++ [img.die] ++ List.range 4).findSome? fun d => s.bestOnDie img cores d

/-- The cores apart from others, as a mirrored child's runs must be: on another die, else span, else cluster (R85). -/
def apart (cores others : List Nat) : List Nat :=
  let byDie := cores.filter fun c => others.all fun o => dieOf o != dieOf c
  let bySpan := cores.filter fun c => others.all fun o => (dieOf o, spanOf (clusterOf o)) != (dieOf c, spanOf (clusterOf c))
  if (cores.map dieOf).eraseDups.length > others.length then byDie
  else if (cores.map fun c => (dieOf c, spanOf (clusterOf c))).eraseDups.length > others.length then bySpan
  else cores.filter fun c => others.all fun o => o / 8 != c / 8

/-! ## Filling regions and writing the directory (R84 steps 2 to 4) -/

/-- The initialisers' source bytes, by region: 32 bytes each. -/
def initPieces (img : Image) : List (Nat × Nat) := img.regions.flatMap fun r => if r.source = 0 then [] else piecesOf 32 r.source r.size

/-- A region's first bytes: its initialiser's, or zero. -/
def State.fillRegion (s : State) (core : Nat) (r : Region) (pieces : List (List Byte × Bool)) : State :=
  let s := s.zeroPool core r.offset r.size
  pieces.zipIdx.foldl (fun s p => { s with mem := s.mem.writePlain (poolKey core r.offset + 32 * p.2) p.1.1 p.1.2 }) s

/-- Every region of a place filled. -/
def State.fillRegions (core : Nat) : List (RegInit × Region) → List (List Byte × Bool) → State → State
  | [], _, s => s
  | (i, r) :: l, data, s =>
    let n := if i.source = 0 then 0 else i.size / 32
    State.fillRegions core l (data.drop n) (if i.size = 0 then s else s.fillRegion core r (data.take n))

def State.fillRoom (s : State) (img : Image) (room : Room) (data : List (List Byte × Bool)) : State :=
  State.fillRegions room.core (img.regions.zip room.regions.toList) data s

/-- The incarnation an index takes next (02 R33). -/
def State.nextInc (s : State) (job : Half) (service : Bool) (index : Nat) : Nat :=
  match s.dir.lastInc.find? fun t => t.1 == job && t.2.1 == service && t.2.2.1 == index with
  | some (_, _, _, n) => n % 65535 + 1
  | none => 1
def State.setInc (s : State) (job : Half) (service : Bool) (index inc : Nat) : State :=
  let rest := s.dir.lastInc.filter fun t => !(t.1 == job && t.2.1 == service && t.2.2.1 == index)
  { s with dir := { s.dir with lastInc := rest ++ [(job, service, index, inc)] } }

/-- A die of the package whose directory shard has room for one more entry, 262,144 in all (01 R14, R28). -/
def State.shardRoom (s : State) (name : Word) : Bool :=
  decide (s.dir.actors.length + s.dir.pools.length < 262144) ||
  decide (((s.dir.actors.map (·.name) ++ s.dir.pools.map (·.name)).filter fun (n : Word) =>
    Config.shard (n >>> 16) == Config.shard (name >>> 16)).length < 262144)

/-- The die that the last incarnation of an index ran on (03 R84). -/
def State.lastDieOf (s : State) (job : Half) (service : Bool) (index : Nat) : Option Nat :=
  (s.dir.lastDie.find? fun t => t.1 == job && t.2.1 == service && t.2.2.1 == index).map (·.2.2.2)
def State.setLastDie (s : State) (job : Half) (service : Bool) (index die : Nat) : State :=
  let rest := s.dir.lastDie.filter fun t => !(t.1 == job && t.2.1 == service && t.2.2.1 == index)
  { s with dir := { s.dir with lastDie := rest ++ [(job, service, index, die)] } }

/-- A directory entry written: it takes the place of the one for its index. -/
def State.putActor (s : State) (a : Actor) : State :=
  let same (t : Actor) : Bool := t.job == a.job && t.service == a.service && t.index == a.index
  let l := if s.dir.actors.any same then mapIf same (fun _ => a) s.dir.actors else s.dir.actors ++ [a]
  { s with dir := { s.dir with actors := l } }
def State.entryAt (s : State) (job : Half) (service : Bool) (index : Nat) : Option Actor :=
  s.dir.actors.find? fun t => t.job == job && t.service == service && t.index == index

/-- Steps 2 to 4 of R84: regions filled, the incarnation assigned, the entry written. A child of a Calico supervisor has kind 0b10,
as 16 R361 says of Calico actors, where R79 says 0b00 of every child (assumption 110). -/
def State.install (s : State) (job : Half) (img : Image) (rooms : List Room) (data : List (List Byte × Bool))
    (supervisor : Option (Word × Nat)) : Option (Actor × State) :=
  match rooms with
  | [] => none
  | room :: further =>
    let service := job == 0
    let inc := s.nextInc job service img.index
    let s := (room :: further).foldl (fun s r => s.fillRoom img r data) s
    let a : Actor :=
      { job := job, service := service, index := img.index, inc := inc, image := img, core := room.core, resident := room.resident
        regions := room.regions, trapx := img.trapx, supervisor := supervisor
        mirror := further.zipIdx.map fun t => { run := t.2 + 1, core := t.1.core, resident := t.1.resident, regions := t.1.regions, digest := none } }
    some (a, ((s.setInc job service img.index inc).setLastDie job service img.index (dieOf room.core)).putActor a)

/-! ## SPAWN (12 R313) -/

/-- Records outstanding for a pager are sent again to its new incarnation (17 R394). -/
def State.resendFaults (s : State) (a : Actor) : State :=
  if a.service && a.job == 0 then
    (s.xlat.tickets.filter fun t => sameIndex (pagerName t.part) a.name).foldl (fun s t => s.hardSend (t.num / 2 ^ 30) t.message) s
  else s

/-- SPAWN. The place it has chosen is kept while it copies (03 R84). -/
def execSpawn (t : BitVec 1) (a d : BitVec 5) (s : State) : Host.Outcome State Fault Refusal :=
  run s (do
    let va ← s.act.ctlX a
    let va ← canonical va
    let w := s.me
    let (img, s) ← s.readImage w va
    match img with
    | none => .ok s
    | some img =>
      s.commits fun s => s.once 4 d fun s => do
        let job := s.act.job
        let mine := s.linksOf w.name
        let name := mkName job (if job == 0 then 2 else 0) img.index 0
        let busy := (s.entryAt job (job == 0) img.index).isSome || (s.liveElsewhere name).isSome || (freeEntry mine).isNone || !s.shardRoom name
        match (if busy then none else s.act.room.or (s.findRoom img (s.coresFor job img.service) none)) with
        | none => if t = 1 then .ok (((s.dropKept w).modAct fun a => { a with room := none }).result 4 d 0) else kill 17
        | some room =>
          let keep (s : State) : State := s.modAct fun a => { a with room := some room }
          match State.readPieces w .restartRead (initPieces img) s with
          | .error e => (keep s).stopped (some e)
          | .ok (none, s) => .ok (keep s)
          | .ok (some data, s) =>
            match s.install job img [room] data none with
            | none => .ok s
            | some (c, s) =>
              let s := (s.modLinks w.name (addEntry c.name 0 .link)).modLinks c.name (addEntry w.name 0 .link)
              .ok ((((s.dropKept w).resendFaults c).modAct fun a => { a with room := none }).result 4 d c.name))

/-! ## The restart engine (03 R79, R84) -/

/-- What marks the requests of a child's placement: no activation has the number. -/
def engineAid (child : Nat) : Nat := 2 ^ 64 + child

/-- The reader of a supervisor's images: the supervisor itself. -/
def State.supervisorWho (s : State) (sup : Word) (child : Nat) : Who :=
  let core := match s.poolOf sup with
    | some p => ((p.members.head?).map (·.core)).getD 0
    | none => ((s.dir.actors.find? fun a => a.name == sup).map (·.core)).getD 0
  { aid := engineAid child, core := core, run := 0, name := sup, asid := s.asidOf (nameJob sup) core, part := s.partOf (nameJob sup) core }

def State.modRecord (s : State) (sup : Word) (f : SupRec → SupRec) : State :=
  (s.modActor sup fun a => { a with record := a.record.map f }).modPool sup fun p => { p with record := p.record.map f }
def State.modChild (s : State) (sup : Word) (i : Nat) (f : Child → Child) : State :=
  s.modRecord sup fun r => { r with children := r.children.zipIdx.map fun t => if t.2 = i then f t.1 else t.1 }

/-- An index marked restarting, so that its messages are held (02 R67, 03 R80), where its shard has room. An index that still
has an entry goes over when that leaves (`State.heir`). -/
def State.markRestarting (s : State) (job : Half) (img : Image) (sup : Word) (i : Nat) : State :=
  match s.entryAt job (job == 0) img.index with
  | some _ => s
  | none =>
    let a : Actor := { job := job, service := job == 0, index := img.index, inc := 0, life := .restarting 0, image := img
                       core := 0, supervisor := some (sup, i) }
    if s.shardRoom a.name then s.putActor a else s

/-- Held messages enter the new mailbox in their order (02 R67). -/
def State.admitHeld (name : Word) : List QMsg → State → State
  | [], s => s
  | q :: l, s =>
    match s.dir.actors.find? fun a => a.name == name with
    | some a => State.admitHeld name l (s.accept a q.msg)
    | none => s

/-- The rooms a child takes: one, or two apart for a mirrored child (R85). -/
def State.roomsFor (s : State) (job : Half) (c : Child) (prev : Option Nat) : Option (List Room) :=
  let cores := s.coresFor job c.image.service
  match s.findRoom c.image cores prev with
  | none => none
  | some r =>
    if c.mirror then (s.findRoom { c.image with die := 4 } (apart cores [r.core]) none).map fun m => [r, m]
    else some [r]

/-- The source under which a supervisor's restart engine sends: what it sends to the supervisor stays in order (14 R359). No
actor's name has kind 0b11. -/
def engineName (sup : Word) : Word := sup ||| 0x0000C00000000000

/-- How the copy of a child's initialisers ends. -/
inductive CopyEnd where
  | done
  /-- a request to another package has been made -/
  | asked
  | failed (e : Stop)
  deriving DecidableEq, Repr

/-- Pieces copied one after another: those copied before the copy stops, and why it stops. -/
def State.copyPieces (w : Who) : List (Nat × Nat) → State → List (List Byte × Bool) × CopyEnd × State
  | [], s => ([], .done, s)
  | (va, n) :: l, s => match s.readPiece w .restartRead va n with
    | .error e => ([], .failed e, s)
    | .ok (none, s) => ([], .asked, s)
    | .ok (some p, s) => let r := State.copyPieces w l s; (p :: r.1, r.2)

/-- The rooms a child's placement has chosen, or chooses now; a lost die's are chosen anew. -/
def State.childRooms (s : State) (job : Half) (c : Child) (prev : Option Nat) : Option (List Room) :=
  if c.rooms.isEmpty || c.rooms.any (fun r => s.links.lostDies.getLsbD (dieOf r.core)) then s.roomsFor job c prev else some c.rooms

/-- A placement that is owed, in the steps of R84, as far as it goes: none when it has to wait. The cores it has chosen are kept
until it is done, and its copy goes on from the first piece not yet copied (17 R396). A failing read of an initialiser kills
the supervisor (R83). -/
def State.tryPlace (s : State) (sup : Word) (i : Nat) : Option State :=
  match s.recordOf sup with
  | none => none
  | some r =>
    let c := r.children.getD i default
    let job := nameJob sup
    match c.owed with
    | none => none
    | some reason =>
      let old := s.entryAt job (job == 0) c.image.index
      let mine := old.any fun a => (match a.life with
        | .restarting _ => a.supervisor == some (sup, i)
        | _ => false)
      let prev := s.lastDieOf job (job == 0) c.image.index
      if !mine || s.xlat.tickets.any (fun t => t.restarts.contains (sup, i)) then none
      else
        match s.childRooms job c prev with
        | none => none
        | some rooms =>
          let w := s.supervisorWho sup i
          let fresh := c.rooms != rooms
          let (more, ending, s) := State.copyPieces w ((initPieces c.image).drop c.copied.length) s
          let s := s.modChild sup i fun c => { c with copied := c.copied ++ more, rooms := rooms }
          match ending with
          | .failed (.kill r n) =>
            let s := match n with
              | some n => s.note n
              | none => s
            some (s.killActor sup r)
          | .failed (.miss m) =>
            let core := ((rooms.head?).map (·.core)).getD 0
            let deadline : Word32 := 0
            some (s.raiseMiss w.die core w.part sup deadline m fun t => { t with restarts := t.restarts ++ [(sup, i)] }).2
          | .failed (.line l) => some (s.settleLine l)
          | .failed _ => if more.isEmpty && !fresh then none else some s
          | .asked => some s
          | .done =>
            let data := (c.copied ++ more).take (initPieces c.image).length
            let held := (old.map (·.held)).getD []
            let dropped := (old.map (·.heldDropped)).getD 0
            match s.install job c.image rooms data (some (sup, i)) with
            | none => none
            | some (a, s) =>
              let s := s.modChild sup i fun c => { c with owed := none, placed := true, copied := [], rooms := [] }
              let s := State.admitHeld a.name held (s.dropKept w)
              let m := s.stamped (hwMsg sup a.name 0xFF03 none (BitVec.ofNat 64 reason) (BitVec.ofNat 64 i) (BitVec.ofNat 64 dropped))
              some ((s.fly { id := 0, src := engineName sup, dst := sup, die := w.die, item := .msg m }).resendFaults a)

/-- Children are placed in record order: under group scope (R81), and under child scope behind one whose placement has begun
(R79, 14 R359). One for which no core has room waits alone. -/
def State.behindSibling (s : State) (sup : Word) (child : Nat) : Bool :=
  (s.recordOf sup).any fun r => (r.children.take child).any fun c => c.owed.isSome && (r.group || !c.rooms.isEmpty)

/-- A child's turn to be placed. -/
def State.placeChild (s : State) (sup : Word) (child : Nat) : Option State :=
  if s.behindSibling sup child then none else s.tryPlace sup child

/-- RESTART_PLACEMENT (R84). -/
def execRestartPlacement (sup : Word) (child : Nat) (s : State) : Host.Outcome State Fault Refusal :=
  event s (do
    let r ← s.recordOf sup
    let c ← r.children[child]?
    (if c.owed.isSome then s.markRestarting (nameJob sup) c.image sup child else s).placeChild sup child)

/-! ## SUPV (03 R78, R79; 12 R317) -/

/-- A record's head: count, intensity, scope, window; none when a field is refused. -/
def parseRecordHead (bs : List Byte) : Option (Nat × Nat × Bool × Nat) :=
  let a := leNat (bs.take 8)
  let b := leNat ((bs.drop 8).take 8)
  let n := bits a 32 8
  if bits a 40 24 ≠ 0 ∨ bits a 1 23 ≠ 0 ∨ bits b 32 32 ≠ 0 ∨ 32 < n ∨ (bits a 24 8 ≠ 0 ∧ bits b 0 32 = 0) then none
  else some (n, bits a 24 8, a.testBit 0, bits b 0 32)

/-- A record's children: image address, mirror bit and condition. -/
def parseChildren (bs : List Byte) (n : Nat) : Option (List (Nat × Bool × BitVec 2)) :=
  let one (i : Nat) : Option (Nat × Bool × BitVec 2) :=
    let a := leNat ((bs.drop (16 + 16 * i)).take 8)
    let b := leNat ((bs.drop (24 + 16 * i)).take 8)
    if bits a 55 9 ≠ 0 ∨ bits b 3 61 ≠ 0 ∨ bits b 0 2 = 3 then none else some (bits a 0 55, b.testBit 2, BitVec.ofNat 2 (bits b 0 2))
  let l := (List.range n).map one
  if l.any Option.isNone then none else some (l.filterMap id)

/-- Images read and checked one after another. -/
def State.readImages (w : Who) : List (Nat × Bool × BitVec 2) → State → Chk (Option (List Child) × State)
  | [], s => .ok (some [], s)
  | (va, mirror, cond) :: l, s => do
    let (img, s) ← s.readImage w va
    match img with
    | none => .ok (none, s)
    | some img => do
      let (rest, s) ← State.readImages w l s
      .ok (rest.map ({ image := img, mirror := mirror, cond := cond, owed := some 0 } :: ·), s)

/-- SUPV: each child is placed in record order, or has entered the restarting state. A child whose image asks for a partition
word that R88 refuses finds no core and stays restarting: no rule says who would take a reason 17 (assumption 82). -/
def execSupv (a : BitVec 5) (s : State) : Host.Outcome State Fault Refusal :=
  run s (do
    let va ← s.act.ctlX a
    let va ← canonical va
    aligned va 64
    let w := s.me
    let (head, s) ← s.readRecord w va 16 16
    match head with
    | none => .ok s
    | some head =>
      match parseRecordHead head with
      | none => kill 3
      | some (n, intensity, group, window) =>
        let (bs, s) ← s.readRecord w va (16 + 16 * n) 16
        match bs with
        | none => .ok s
        | some bs =>
          match s.recordOf w.name with
          | some old => do need (old.bytes == bs) 3; .ok ((s.dropKept w).advance 4)
          | none =>
            match parseChildren bs n with
            | none => kill 3
            | some specs =>
              let (children, s) ← State.readImages w specs s
              match children with
              | none => .ok s
              | some children =>
                let r : SupRec := { bytes := bs, intensity := intensity, window := window, group := group, children := children }
                let s := ((s.dropKept w).modActor w.name fun t => { t with record := some r }).modPool w.name fun p => { p with record := some r }
                let s := children.zipIdx.foldl (fun s t => s.markRestarting (nameJob w.name) t.1.image w.name t.2) (s.advance 4)
                .ok ((List.range n).foldl (fun s i => (s.placeChild w.name i).getD s) s))

/-! ## Pools and root actors, as Calico places them (02 R58, R40; 16 R361, R372) -/

/-- The lowest pool queue number that no live queue of a die holds. -/
def State.queueNumber (s : State) (die : Nat) : Nat :=
  lowestFree (s.dir.pools.flatMap fun p => (p.queues.filter fun q => q.die == die).map (·.num))

/-- Who reads for a job that has no actor yet: the job's address space, at the job's level (16 R361). -/
def State.calicoWho (s : State) (job : Half) : Who :=
  { aid := 0, core := 0, run := 0, name := mkName job 0 0 0, asid := s.asidOf job 0, part := s.partOf job 0 }

/-- An image that Calico reads for a job. -/
def State.calicoImage (s : State) (job : Half) (va : Word) : Option Image :=
  match s.readImage (s.calicoWho job) va.toNat with
  | .ok (some img, _) => some img
  | _ => none

/-- The initialiser bytes of an image, read under a job's address space. -/
def State.calicoData (s : State) (job : Half) (img : Image) : Option (List (List Byte × Bool)) :=
  match State.readPieces (s.calicoWho job) .restartRead (initPieces img) s with
  | .ok (some d, _) => some d
  | _ => none

/-- POOL_CREATION: a member on every compute core of the partition, on the dies it serves, that has room. -/
def execPoolCreation (job : Half) (image : Word) (dies : BitVec 4) (s : State) : Host.Outcome State Fault Refusal :=
  event s (do
    let j ← s.job? job
    let img ← s.calicoImage job image
    let data ← s.calicoData job img
    let served := (List.range 4).filter fun d => dies.getLsbD d
    let rooms := ((s.coresFor job false).filter fun c => served.contains (dieOf c)).filterMap fun c => s.roomOn img c
    if !j.valid || served.isEmpty || rooms.isEmpty || !s.shardRoom (mkName job 1 img.index 0) || (s.dir.pools.any fun p => p.job == job && p.index == img.index) then none
    else
      let inc := match s.dir.lastInc.find? fun t => t.1 == job && t.2.1 == false && t.2.2.1 == 2 ^ 30 + img.index with
        | some (_, _, _, n) => n % 65535 + 1
        | none => 1
      let queues := served.map fun d => ({ die := d, num := s.queueNumber d } : PoolQueue)
      let members := rooms.map fun r => ({ core := r.core, resident := r.resident, regions := r.regions } : Member)
      let s := rooms.foldl (fun s r => s.fillRoom img r data) s
      let s := s.setInc job false (2 ^ 30 + img.index) inc
      let p : Pool := { job := job, index := img.index, inc := inc, image := img, dies := dies, queues := queues, members := members, trapx := img.trapx }
      some { s with dir := { s.dir with pools := s.dir.pools ++ [p] } })

/-- ROOT_ACTOR_PLACEMENT: Calico places the first actor of a valid job (16 R372). -/
def execRootActorPlacement (job : Half) (image : Word) (s : State) : Host.Outcome State Fault Refusal :=
  event s (do
    let j ← s.job? job
    let img ← s.calicoImage job image
    let data ← s.calicoData job img
    if !j.valid || job == 0 || !s.runs job || (s.entryAt job false img.index).isSome || !s.shardRoom (mkName job 0 img.index 0) then none
    else
      let room ← s.findRoom img (s.coresFor job img.service) none
      let (a, s) ← s.install job img [room] data none
      some ((s.modActor a.name fun t => { t with root := true }).modJob job fun t => { t with started := true }))

end Sys2Proof.Machine
end

