-- ==== Sys2Proof/Machine/Life.lean ====
section
/-! DEFINITION. What happens to actors of itself: exits and their signals, restarts, mirrored children, timers, waits and
watchdogs, increments and completions that arrive, restored actors, effects that were waiting, and hardware errors that
strike (02 R51, R58, R66, R67, R451; 03 R72 to R86; 11 R307 to R309; 12 R318, R332; 16 R374, R375; 18 R401, R407, R413). -/

namespace Sys2Proof.Machine

/-! ## Exits (02 R66, 03 R72, R74) -/

/-- Every place where a name's regions lie: its own core, the further runs', or the members'. -/
def State.placesOf (s : State) (n : Word) : List (Nat × Vector Region 8) :=
  match s.poolOf n with
  | some p => p.members.map fun m => (m.core, m.regions)
  | none => (s.dir.actors.filter fun a => a.name == n).flatMap fun a => (a.core, a.regions) :: a.mirror.map fun m => (m.core, m.regions)

def State.scrub (s : State) (places : List (Nat × Vector Region 8)) : State :=
  places.foldl (fun s p => p.2.toList.foldl (fun s r => if r.state = .empty then s else s.zeroPool p.1 r.offset r.size) s) s

/-- The signals of an exited name, lowest entry first (R72); a link that ends with reason 0 is only removed. Where the exited
name watched another, that one's entry goes at once, since no signal goes to it (assumption 83). A signal carries its receiver's
job's epoch of now, when it is released (13 R348). -/
def State.exitSignals (s : State) (die : Nat) (name : Word) (reason : Nat) (dropped : Word) (l : List LinkEntry) : State :=
  let send (s : State) (dst : Word) (i : Item) : State :=
    s.fly { id := 0, src := name, dst := dst, die := die, item := i, epoch := s.epochOf (nameJob dst) }
  l.foldl (fun s e => match e.type with
    | .link => if reason = 0 then s.modLinks e.partner (dropEntry name .link none) else send s e.partner (.exitSignal reason dropped)
    | .monitored => send s e.partner (.down reason dropped e.ref)
    | .monitor => s.modLinks e.partner (dropEntry name .monitored (some e.ref))) s

/-- Held messages discarded, their senders told (02 R66). -/
def State.dropHeld (s : State) (die : Nat) (held : List QMsg) : State := held.foldl (fun s q => s.noActor die q.msg) s

/-- A directory entry removed: its aliases are freed with it (12 R322). -/
def State.removeActor (s : State) (a : Actor) : State :=
  let same (t : Actor) : Bool := t.job == a.job && t.service == a.service && t.index == a.index
  let aliases := if a.service then s.dir.aliases else s.dir.aliases.filter fun t => !(t.1 == a.job && t.2.2 == a.index)
  { s with dir := { s.dir with actors := s.dir.actors.filter fun t => !same t, aliases := aliases } }.dropHeld (dieOf a.core) a.held

/-- An exiting supervisor's children: those that live are killed with 13, those being restarted are given up (R82). -/
def State.orphans (s : State) (sup : Word) (r : Option SupRec) : State :=
  if r.isNone then s
  else
    let mine := s.dir.actors.filter fun a => a.supervisor.any fun t => t.1 == sup
    let s := mine.foldl (fun s a => match a.life with
      | .live | .saved => (s.modActor a.name fun t => { t with quiet := true }).killActor a.name 13
      | .restarting _ => s.removeActor a
      | .exiting _ => s) s
    let tickets := s.xlat.tickets.map fun t => { t with restarts := t.restarts.filter fun x => x.1 != sup }
    ({ s with xlat := { s.xlat with tickets := tickets } } : State).leaveTickets fun _ => false

/-- What a normal exit waits for: entries and effects that its activation left (02 R52). -/
def State.lingering (s : State) (name : Word) : Bool :=
  s.entries.any (fun e => e.actor == name) || s.wire.tails.any (fun t => t.act.name == name) || s.wire.deferred.any fun d => d.who.name == name

/-- The job's monitor hears of a mirrored child whose digests have all differed: a DOWN with reason 18, with the count of messages
dropped and reference 0, which the spec leaves open for a monitor that made no MON (03 R86, assumption 111). -/
def State.tellMonitor (s : State) (a : Actor) (dropped : Word) : State :=
  let monitor := ((s.job? a.job).map (·.monitor)).getD 0
  if !a.diverged || monitor = 0 then s else s.hardSend (dieOf a.core) (hwMsg monitor a.name 0xFF02 none 18 dropped 0)

/-- An actor's exit is carried out, with what its signals say was dropped: restarting, or gone. Messages that were held for
the exited incarnation by its number go (02 R33). -/
def State.exitAs (s : State) (a : Actor) (reason : Nat) (dropped : Word) : State :=
  let name := a.name
  let heir := s.heir a reason
  let s := (s.scrub (s.placesOf name)).dropPorts fun p => p.actor == name
  let s := match heir with
    | some (sup, img) =>
      -- held for the new incarnation, as many as its image's quota admits (02 R67)
      let kept := (a.held.filter fun (q : QMsg) => nameInc q.msg.w0 == 0).take img.quota
      let past := (a.held.filter fun (q : QMsg) => nameInc q.msg.w0 == 0).drop img.quota
      (s.modActor name fun t =>
        { t with life := .restarting reason, supervisor := some sup, image := img, regions := Vector.replicate 8 {}, links := [], timers := []
                 record := none, onCore := [], spill := [], mirror := [], digest := none, entryBytes := [], rerun := [], shared := []
                 held := kept, heldDropped := t.heldDropped + past.length, quiet := false, diverged := false, root := false, saved := {}
                 }).dropHeld (dieOf a.core) ((a.held.filter fun (q : QMsg) => nameInc q.msg.w0 != 0) ++ past)
    | none => s.removeActor a
  let s := s.exitSignals (dieOf a.core) name reason dropped a.links
  let s := match a.supervisor with
    | some (sup, i) =>
      if a.quiet then s else s.fly { id := 0, src := name, dst := sup, die := dieOf a.core, item := .supNotice i reason dropped }
    | none => s
  ((s.tellMonitor a dropped).orphans name a.record).settleLevels

/-- An actor's exit: the messages in its mailbox are dropped. -/
def State.exitActor (s : State) (a : Actor) (reason : Nat) : State :=
  s.exitAs a reason (BitVec.ofNat 64 (a.onCore.length + a.spill.length + a.again.length))

/-- The expert entries bound to a pool (13 R345). -/
def Pool.serves (p : Pool) (e : ExpEntry) : Bool := e.valid && e.job == p.job && e.pool == p.index

/-- A pool's exit is carried out: every queue and wait queue goes, with the regions on every core (02 R58). -/
def State.exitPoolAs (s : State) (p : Pool) (reason : Nat) (dropped : Word) : State :=
  let name := p.name
  let mine := p.serves
  let die := ((List.range 4).find? fun d => p.dies.getLsbD d).getD 0
  let entries := mapIf mine (fun e => { e with sets := e.sets.map fun w => { w with waiting := [] } }) s.exp.entries
  let s := (s.scrub (s.placesOf name)).dropPorts fun t => t.actor == name
  let aliases := s.dir.aliases.filter fun t => !(t.1 == p.job && t.2.2 == 2 ^ 30 + p.index)
  let s := { s with exp := { s.exp with entries := entries }
                    dir := { s.dir with pools := s.dir.pools.filter fun t => t.name != name, aliases := aliases } }
  (((s.dropHeld die p.held).exitSignals die name reason dropped p.links).orphans name p.record).settleLevels

/-- A pool's exit: the messages in its queues and its wait queues are dropped. -/
def State.exitPool (s : State) (p : Pool) (reason : Nat) : State :=
  let parked := (s.exp.entries.filter p.serves).foldl (fun n e => n + (e.sets.toList.map fun w => w.waiting.length).sum) 0
  s.exitPoolAs p reason (BitVec.ofNat 64 ((p.queues.map fun q => q.msgs.length).sum + parked))

/-- ACTOR_EXIT. -/
def execActorExit (name : Word) (s : State) : Host.Outcome State Fault Refusal :=
  event s (
    match s.dir.pools.find? fun p => p.name == name && nameKind name == 1 with
    | some p => match p.life with
      | .exiting r => if r = 0 && s.lingering name then none else some (s.exitPool p r)
      | _ => none
    | none =>
      match s.dir.actors.find? fun a => a.name == name with
      | some a => (match a.life with
        | .exiting r => if r = 0 && s.lingering name then none else some (s.exitActor a r)
        | _ => none)
      | none => none)

/-! ## Signals arriving (03 R71, R73; 12 R314) -/

/-- A message from a die that enters a receiver's mailbox or queue. -/
def State.receive (s : State) (n : Word) (die : Nat) (m : Msg) : State :=
  match s.poolOf n with
  | some p =>
    if p.name ≠ n then s else if p.life == .saved then s.holdPool p m die
    else if p.life == .live && s.isExpertPool p then s.expertArrive p die m
    else if p.life == .live then s.acceptPool p (p.dieFor die) m s.env.time (s.effective p.job m) none else s
  | none =>
    match s.dir.actors.find? fun a => a.name == n with
    | some a => if a.life == .live then s.accept a m else if a.life == .saved then s.hold a m die else s
    | none => s

def State.trapsExits (s : State) (n : Word) : Bool :=
  match s.poolOf n with
  | some p => p.trapx
  | none => s.dir.actors.any fun a => a.name == n && a.trapx

/-- The live name that a KILL finds (02 R33, R34). -/
def State.killTarget (s : State) (src n : Word) : Option Word :=
  if !reachable (nameJob src) n then none
  else match s.poolOf n with
  | some p => if incOk n p.inc then some p.name else none
  | none => match s.entryOf n with
    | some a => if incOk n a.inc then some a.name else none
    | none => none

/-- The hardware message that carries a signal to an actor on another package (19 R427, assumption 34). -/
def Item.abroad (src dst : Word) : Item → Option Msg
  | .exitSignal r dropped => some (hwMsg dst src 0xFF01 none (BitVec.ofNat 64 r) dropped 0)
  | .down r dropped ref => some (hwMsg dst src 0xFF02 none (BitVec.ofNat 64 r) dropped (ref.zeroExtend 64))
  | _ => none

/-- A signal at its receiver. -/
def State.takeSignal (s : State) (f : Flight) : Option State :=
  let t := s.removeFlight f.id
  match s.onward f.src f.dst, f.item.abroad f.src f.dst with
  | some pkg, some m => some (if s.lostPackage pkg then t else t.sendAbroad f.src pkg { m with epoch := f.epoch })
  | _, _ =>
  let holds (ty : LinkType) (ref : Option Word32) : Bool :=
    (t.linksOf f.dst).any fun e => e.partner == f.src && e.type == ty && (ref == none || ref == some e.ref)
  match f.item with
  | .exitSignal r dropped =>
    if !t.killable f.dst || !holds .link none then some t
    else
      let t := t.modLinks f.dst (dropEntry f.src .link none)
      some (if t.trapsExits f.dst then t.receive f.dst f.die { hwMsg f.dst f.src 0xFF01 none (BitVec.ofNat 64 r) dropped 0 with epoch := f.epoch }
        else t.killActor f.dst 13)
  | .down r dropped ref =>
    if !t.killable f.dst || !holds .monitor (some ref) then some t
    else
      let t := t.modLinks f.dst (dropEntry f.src .monitor (some ref))
      some (t.receive f.dst f.die { hwMsg f.dst f.src 0xFF02 none (BitVec.ofNat 64 r) dropped (ref.zeroExtend 64) with epoch := f.epoch })
  | .kill r => some (match t.killTarget f.src f.dst with
    | some n => t.killActor n r
    | none => t)
  | _ => none

/-- EXIT_SIGNAL_ARRIVAL. -/
def execExitSignalArrival (flight : Nat) (s : State) : Host.Outcome State Fault Refusal :=
  event s (do
    let f ← s.wire.flights.find? fun f => f.id == flight
    if s.flightReady f then (s.takeSignal f).map State.settleLevels else none)

/-! ## Restarts (03 R80 to R82) -/

/-- The DOWN of a child that is not restarted. -/
def State.childDown (s : State) (sup child : Word) (die reason : Nat) (dropped : Word) : State :=
  s.receive sup die (s.stamped (hwMsg sup child 0xFF02 none (BitVec.ofNat 64 reason) dropped 0))

/-- Restarts of a record that began within its window (R82). -/
def SupRec.recent (r : SupRec) (time : Nat) : Nat := (r.restarts.filter fun t => decide (time ≤ t + r.window * 1000)).length

/-- A child of a record that is to be placed again. -/
def State.owe (s : State) (sup : Word) (r : SupRec) (i reason : Nat) : State :=
  let c := r.children.getD i default
  let s := s.modChild sup i fun c => { c with owed := some (c.owed.getD reason), placed := false, copied := [], rooms := [] }
  s.markRestarting (nameJob sup) c.image sup i

/-- A group restart (R81): the siblings are killed without notice, and every restartable child is owed a placement. -/
def State.groupRestart (s : State) (sup : Word) (r : SupRec) (child reason : Nat) : State :=
  let ids := List.range r.children.length
  let s := ids.foldl (fun s i =>
    if i = child then s
    else match s.entryAt (nameJob sup) (nameJob sup == 0) (r.children.getD i default).image.index with
      | some a =>
        if a.supervisor == some (sup, i) && isLive a.life then (s.modActor a.name fun t => { t with quiet := true }).killActor a.name 1 else s
      | none => s) s
  ids.foldl (fun s i => if (r.children.getD i default).cond = 2 then s else s.owe sup r i (if i = child then reason else 1)) s

/-- A child's notice, from a die, at its supervisor's engine. One of an incarnation that a group restart has replaced in the
meantime, or is to replace, is of no account (R81); an index that another actor has taken by SPAWN is no such (R80). -/
def State.notice (s : State) (sup childName : Word) (die child reason : Nat) (dropped : Word) : State :=
  match s.recordOf sup with
  | none => s
  | some r =>
    let c := r.children.getD child default
    let replaced := (s.entryAt (nameJob sup) (nameJob sup == 0) c.image.index).any fun a =>
      a.inc != nameInc childName && a.supervisor == some (sup, child)
    if c.owed.isSome || replaced then s
    else if !callsRestart c reason then (s.modChild sup child fun c => { c with placed := false }).childDown sup childName die reason dropped
    else if r.intensity ≠ 0 ∧ r.intensity ≤ r.recent s.env.time then
      let s := match s.entryAt (nameJob sup) (nameJob sup == 0) c.image.index with
        | some a => (match a.life with
          | .restarting _ => s.removeActor a
          | _ => s)
        | none => s
      s.killActor sup 14
    else
      let s := s.modRecord sup fun r => { r with restarts := r.restarts ++ [s.env.time] }
      if r.group then s.groupRestart sup r child reason else s.owe sup r child reason

/-- RESTART_NOTICE. -/
def execRestartNotice (flight : Nat) (s : State) : Host.Outcome State Fault Refusal :=
  event s (do
    let f ← s.wire.flights.find? fun f => f.id == flight
    match f.item with
    | .supNotice child reason dropped =>
      if s.flightReady f then some ((s.removeFlight f.id).notice f.dst f.src f.die child reason dropped).settleLevels else none
    | _ => none)

/-! ## Mirrored children (03 R85, R86) -/

def State.runOf (s : State) (name : Word) (run : Nat) : Option Act := s.allActs.find? fun a => a.name == name && a.run == run

/-- The runs' digests agree: each of them releases. -/
def State.agree (s : State) (name : Word) : State :=
  let go (a : Act) : Act := if a.name == name && a.wait == .digest then { a with memo := .agreed, wait := .none } else a
  let s := { s with act := go s.act, acts := s.acts.map go }
  s.modActor name fun a => { a with digest := none, mirror := a.mirror.map fun m => { m with digest := none } }

/-- The bytes of one place's regions become those of another's. -/
def State.copyRegions (s : State) (src dst : Nat × Vector Region 8) : State :=
  (List.range 8).foldl (fun s i =>
    let a := vget src.2 i
    let b := vget dst.2 i
    if a.state = .empty ∨ b.state = .empty then s
    else
      let bs := (spanNats (poolKey src.1 a.offset) b.size).map fun k => look 0 s.mem.cells k
      let bad := (List.range (b.size / 32)).filter fun k => s.mem.poisonSectors.contains (poolKey src.1 a.offset / 32 + k)
      let t := s.zeroPool dst.1 b.offset b.size
      let mem := t.mem.writePlain (poolKey dst.1 b.offset) bs false
      { t with mem := { mem with poisonSectors := bad.foldl (fun l k => insertNat (poolKey dst.1 b.offset / 32 + k) l) mem.poisonSectors } }) s

/-- Region slots as another run has them, each at its own place (03 R86). -/
def takeStates (from_ own : Vector Region 8) : Vector Region 8 :=
  regionVector ((from_.toList.zip own.toList).map fun t => if t.2.state = .empty then t.2 else { t.1 with offset := t.2.offset })

/-- One run goes on as another: its activation and its regions, bytes and states, become the other's. -/
def State.followRun (s : State) (a : Actor) (src dst : Nat) : State :=
  let place (r : Nat) : Nat × Vector Region 8 :=
    if r = 0 then (a.core, a.regions) else ((a.mirror.find? fun m => m.run == r).map fun m => (m.core, m.regions)).getD (a.core, default)
  let s := s.copyRegions (place src) (place dst)
  let take (v : Vector Region 8) : Vector Region 8 := takeStates (place src).2 v
  let s := s.modActor a.name fun t =>
    if dst = 0 then { t with regions := take t.regions }
    else { t with mirror := t.mirror.map fun m => if m.run == dst then { m with regions := take m.regions } else m }
  match s.runOf a.name src with
  | none => s
  | some x =>
    let be (y : Act) : Act := if y.name == a.name && y.run == dst then { x with aid := y.aid, core := y.core, slot := y.slot, run := y.run } else y
    { s with act := be s.act, acts := s.acts.map be }

/-- The third run leaves. -/
def State.removeThird (s : State) (a : Actor) : State :=
  let third := a.mirror.filter fun m => m.run == 2
  let s := s.scrub (third.map fun m => (m.core, m.regions))
  let mine (t : Act) : Bool := t.name == a.name && t.run == 2
  let gone := (s.allActs.filter mine).map (·.aid)
  let s := (s.dropEntries fun e => gone.contains e.aid).dropActs mine
  (s.freeTiles gone.contains).modActor a.name fun t => { t with mirror := t.mirror.filter fun m => m.run != 2 }

/-- A third run, with the primary's persist and inbox bytes as they stood at entry, handles the same message. -/
def State.addThird (s : State) (a : Actor) : Option State := do
  let x ← s.runOf a.name 0
  let m ← a.mirror.head?
  let room ← s.findRoom { a.image with die := 4 } (apart (s.coresFor a.job a.image.service) [a.core, m.core]) none
  if (s.freeSlot room.core).isNone then none
  else
    let s := s.fillRoom a.image room []
    let s := a.entryBytes.foldl (fun s t =>
      let r := vget room.regions t.1
      let mem := s.mem.writePlain (poolKey room.core r.offset) (t.2.map (·.1)) false
      let bad := (List.range (t.2.length / 32)).filter fun k => (t.2.getD (32 * k) default).2
      { s with mem := { mem with poisonSectors := bad.foldl (fun l k => insertNat (poolKey room.core r.offset / 32 + k) l) mem.poisonSectors } }) s
    let s := s.modActor a.name fun t =>
      { t with mirror := t.mirror ++ [{ run := 2, core := room.core, resident := room.resident, regions := room.regions, digest := none }] }
    let q : QMsg := { msg := x.msg, seq := x.seq, arrived := x.arrived, deadline := x.deadline, landed := true, capture := x.capture }
    some (s.begin room.core 2 a.name a.image.entry q)

/-- Two or three digests compared. When all differ, the child is killed, and its job's monitor hears of it as it exits. -/
def State.compare (s : State) (a : Actor) : Option State := do
  let d0 ← a.digest
  let m1 ← a.mirror.find? fun m => m.run == 1
  let d1 ← m1.digest
  match a.mirror.find? fun m => m.run == 2 with
  | none => if d0 = d1 then some (s.agree a.name) else s.addThird a
  | some m2 =>
    let d2 ← m2.digest
    if d2 = d0 then some (((s.followRun a 0 1).removeThird a).agree a.name)
    else if d2 = d1 then some (((s.followRun a 1 0).removeThird a).agree a.name)
    else some ((s.modActor a.name fun t => { t with diverged := true }).killActor a.name 18)

/-- MIRROR_DIGEST_COMPARE. -/
def execMirrorDigestCompare (name : Word) (s : State) : Host.Outcome State Fault Refusal :=
  event s (do
    let a ← s.dir.actors.find? fun a => a.name == name && a.life == .live
    s.compare a)

/-! ## Time (02 R51, R451; 11 R308, R309; 12 R318) -/

/-- TIMEOUT: a timer that is due sends its message. -/
def execTimeout (name : Word) (ref : Word32) (s : State) : Host.Outcome State Fault Refusal :=
  event s (
    if s.killable name && (s.timersOf name).any fun t => t.ref == ref && decide (t.due ≤ s.env.time) then
      let t := s.modTimers name fun l => l.filter fun t => t.ref != ref
      let die := ((s.placesOf name).head?.map fun p => dieOf p.1).getD 0
      some (t.hardSend die (timeoutMsg name ref s.env.time))
    else none)


/-- WATCHDOG_EXPIRY. -/
def execWatchdogExpiry (aid : Nat) (s : State) : Host.Outcome State Fault Refusal :=
  event s (do
    let a ← s.allActs.find? fun a => a.aid == aid
    if a.committed && decide (a.commitAt + s.wdogOf a.job < s.env.time) then some (s.killActor a.name 7) else none)

/-- The waits that R451 bounds, of what an ended activation left: of an entry by its number; of a released store that waits on
a miss, by the number it was deferred under or by its activation's. Who waits, since when, and how long it may. -/
def State.boundedWait (s : State) (op : Nat) : Option (Word × Nat × Nat) :=
  let ended (aid : Nat) : Bool := !s.allActs.any fun a => a.aid == aid
  match s.entryById op with
  | some (core, _, e) =>
    if !ended e.aid || s.mayGoOn core e then none else e.waitSince.map fun t => (e.actor, t, s.wdogOf e.job)
  | none =>
    match s.wire.deferred.find? fun d => d.id == op && d.ticket.isSome && ended d.who.aid with
    | some d => some (d.who.name, d.since, s.wdogOf (nameJob d.who.name))
    | none =>
      (s.wire.tails.find? fun t => t.aid == op && t.ticket.isSome).map fun t => (t.act.name, t.since, s.wdogOf t.act.job)

/-- POST_ACTIVATION_WAIT_EXPIRY. -/
def execPostActivationWaitExpiry (op : Nat) (s : State) : Host.Outcome State Fault Refusal :=
  event s (do
    let (name, since, limit) ← s.boundedWait op
    if since + limit < s.env.time then some (s.killAnyway name 7) else none)

/-- The counter and the target that an activation waits for. -/
def Act.awaits (a : Act) : Option (Nat × Word32) := match a.wait with
  | .counter n t | .counterLimit n t _ _ => some (n, t)
  | _ => none

/-- WAITC_MET. -/
def execWaitcMet (aid : Nat) (s : State) : Host.Outcome State Fault Refusal :=
  event s (do
    let a ← s.allActs.find? fun a => a.aid == aid
    let (n, t) ← a.awaits
    let inTime := match a.waitLimit with
      | some l => decide (s.env.time ≤ l)
      | none => true
    if a.memo == .met || (inTime && reached ((s.core a.core).counter n) t) then
      some (s.modAid aid fun a => { a with memo := .met, wait := .none })
    else none)

/-- WAITCT_LIMIT_EXPIRY. -/
def execWaitctLimitExpiry (aid : Nat) (s : State) : Host.Outcome State Fault Refusal :=
  event s (do
    let a ← s.allActs.find? fun a => a.aid == aid
    let l ← a.waitLimit
    if a.memo != .met && decide (l < s.env.time) then some (s.modAid aid fun a => { a with memo := .expired, wait := .none }) else none)

/-! ## Increments and completions arriving (11 R307, 12 R332) -/

/-- The core where an actor is resident, for an increment: none while it is restarting, saved or exiting. -/
def State.cincTarget (s : State) (f : Flight) : Option (Option Nat) :=
  if !(f.aid == 0 || reachable (nameJob f.src) f.dst) then some none
  else match s.entryOf f.dst with
  | none => some none
  | some a => match a.life with
    | .live => some (if incOk f.dst a.inc then some a.core else none)
    | .restarting _ => if nameInc f.dst = 0 then none else some none
    | .saved => if incOk f.dst a.inc then none else some none
    | .exiting _ => none

/-- The cores of an actor: its own, and those of its further runs, which read what it reads (03 R85). -/
def State.runCores (s : State) (n : Word) : List Nat := match s.entryOf n with
  | some a => a.core :: a.mirror.map (·.core)
  | none => []
/-- An increment lands on the cores of an actor. -/
def State.addCounters (s : State) (cores : List Nat) (c : Nat) (v : Word32) : State := cores.foldl (fun s k => s.addCounter k c v) s

/-- GLOBAL_CINC_ARRIVAL. -/
def execGlobalCincArrival (flight : Nat) (s : State) : Host.Outcome State Fault Refusal :=
  event s (do
    let f ← s.wire.flights.find? fun f => f.id == flight
    match f.item with
    | .cinc c v =>
      if !s.flightReady f then none
      else match s.elsewhere f.dst with
      | some pkg => some ((s.removeFlight f.id).transmit pkg (.counterInc f.dst (BitVec.ofNat 6 c) v))
      | none =>
        let t ← s.cincTarget f
        some (match t with
          | some _ => (s.removeFlight f.id).addCounters (s.runCores f.dst) c v
          | none => (s.removeFlight f.id).noTarget f.die f.src f.dst)
    | _ => none)

/-- Where an issuer is resident, for its launch's completion (R332): an actor or a pool that lives. One whose partition is
cleared is waited for, as for an increment. Of a pool it is the pool actor that released it, on its core. -/
def State.issuerPlace (s : State) (name : Word) (core : Nat) : Option (List Nat) :=
  let life : Option Life := match s.poolOf name with
    | some p => if p.name == name then some p.life else none
    | none => (s.dir.actors.find? fun (a : Actor) => a.name == name).map Actor.life
  match life with
  | some .live =>
    let cores := (s.placesOf name).map Prod.fst
    some (if nameKind name = 1 then (if cores.contains core then [core] else cores.take 1) else s.runCores name)
  | some .saved => none
  | _ => some []

/-- LAUNCH_COMPLETION. -/
def execLaunchCompletion (flight : Nat) (s : State) : Host.Outcome State Fault Refusal :=
  event s (do
    let f ← s.wire.flights.find? fun f => f.id == flight
    match f.item with
    | .launchDone _ c core =>
      if !s.performed f.after (max f.scope 5) then none
      else
        let t := s.removeFlight f.id
        match s.elsewhere f.dst with
        | some pkg => some (t.transmit pkg (.launchDone f.dst (BitVec.ofNat 6 c)))
        | none => (s.issuerPlace f.dst core).map fun cores => t.addCounters cores c 1
    | _ => none)

/-! ## Restoring actors (16 R374, R375) -/

/-- The core that took a logical number in a job's partition. -/
def State.coreByNumber (s : State) (job : Half) (lcore : Half) : Option Nat :=
  ((s.coresFor job (lcore.getLsbD 15)).find? fun c => (s.core c).lcore == lcore)

/-- A core's saved counters, when the first actor on it is restored (16 R375): those that stand at zero. -/
def State.restoreCounters (s : State) (core : Nat) (saved : List (Nat × Word32)) : State :=
  if (s.core core).restored then s
  else
    let t := saved.foldl (fun s n => if (s.core core).counter n.1 = 0 then s.setCounter core n.1 n.2 else s) s
    t.modCore core fun c => { c with restored := true }

/-- One place restored: its core, its regions at their offsets with their bytes, counters, and ports. -/
def State.restorePlace (s : State) (saved : Saved) (i core : Nat) (lcore : Half) (regions : Vector Region 8) : State :=
  let s := (saved.bytes.filter fun b => b.1 == i).foldl (fun s b =>
    let r := vget regions b.2.1
    let mem := s.mem.writePlain (poolKey core r.offset) (b.2.2.map (·.1)) false
    let bad := (List.range (b.2.2.length / 32)).filter fun k => (b.2.2.getD (32 * k) default).2
    { s with mem := { mem with poisonSectors := bad.foldl (fun l k => insertNat (poolKey core r.offset / 32 + k) l) mem.poisonSectors } }) s
  let counters := (saved.counters.filter fun c => c.1 == lcore).flatMap (·.2)
  let ports := (saved.ports.filter fun p => p.1 == lcore).map (·.2)
  (s.restoreCounters core counters).modCore core fun c =>
    { c with ports := c.ports ++ ports.filter fun p => !c.ports.any fun q => q.num == p.num }

/-- A place's core in the new spans, with room for one more actor, its regions' bytes free there and the lowest free resident
number (01 R14, 02 R40). -/
def State.placeFor (s : State) (job : Half) (p : Half × Nat × Vector Region 8) : Option (Nat × Half × Nat × Vector Region 8) := do
  let core ← s.coreByNumber job p.1
  let free := p.2.2.toList.all fun r => r.state == .empty ||
    (decide (r.offset + r.size ≤ s.scratchBytes core) && !(s.taken core).any fun t => overlaps t.1 t.2 r.offset r.size)
  if free && decide ((s.residentNumbers core).length < residentLimit core) then some (core, p.1, lowestFree (s.residentNumbers core), p.2.2) else none

/-- Writes of a job are still to be applied somewhere: what came with a message that had arrived before the partition was cleared
is to be visible on whichever die handles it (05 R133). -/
def State.writing (s : State) (job : Half) : Bool := s.mem.pending.any fun w => nameJob w.actor == job

/-- ACTOR_RESTORE: Calico restores a saved actor, or pool, of a partition that runs again. -/
def execActorRestore (name : Word) (s : State) : Host.Outcome State Fault Refusal :=
  event s (
    if !s.runs (nameJob name) then none
    else match s.dir.pools.find? fun p => p.name == name && nameKind name == 1 with
    | some p =>
      if p.life != .saved || s.writing p.job then none
      else do
        let places ← p.saved.places.mapM (s.placeFor p.job)
        let s := places.zipIdx.foldl (fun s t => s.restorePlace p.saved t.2 t.1.1 t.1.2.1 t.1.2.2.2) s
        let dies := (List.range 4).filter fun d => places.any fun t => dieOf t.1 == d
        let first ← dies.head?
        let move (q : PoolQueue) (i : Nat) : PoolQueue := { q with die := dies.getD i (dies.getLastD first) }
        let queues := p.queues.zipIdx.map fun t => move t.1 t.2
        let merged := dies.map fun d =>
          let qs := queues.filter fun q => q.die == d
          let kept := (p.queues.find? fun q => q.die == d).map (·.num)
          ({ die := d, num := kept.getD (s.queueNumber d), msgs := qs.flatMap (·.msgs)
             nextSeq := qs.foldl (fun n q => max n q.nextSeq) 0 } : PoolQueue)
        let s := s.modPool name fun t =>
          { t with life := .live, dies := dies.foldl (fun m d => m ||| (1#4 <<< d)) 0, queues := merged, held := [], saved := {}
                   members := places.map fun t => { core := t.1, resident := t.2.2.1, regions := t.2.2.2 } }
        let s := (s.exp.entries.filter p.serves).foldl (fun s e => (s.drain e.num 0).drain e.num 1) s
        some (p.held.foldl (fun s q => s.receive name (q.src.getD 0) q.msg) s)
    | none => do
      let a ← s.dir.actors.find? fun a => a.name == name
      if a.life != .saved || s.writing a.job then none
      else
        let places ← a.saved.places.mapM (s.placeFor a.job)
        let main ← places.head?
        let s := places.zipIdx.foldl (fun s t => s.restorePlace a.saved t.2 t.1.1 t.1.2.1 t.1.2.2.2) s
        let s := s.modActor name fun t =>
          { t with life := .live, core := main.1, resident := main.2.2.1, regions := main.2.2.2, held := [], saved := {}
                   mirror := (t.mirror.zip (places.drop 1)).map fun x => { x.1 with core := x.2.1, resident := x.2.2.2.1, regions := x.2.2.2.2 } }
        some (State.admitHeld name a.held (s.setLastDie a.job a.service a.index (dieOf main.1))))

/-! ## Effects that were waiting (05 R132, 08 R191) -/

/-- A deferred write of an actor comes after its deferred writes before it (05 R115, R116, R119, R121). -/
def State.deferredFirst (s : State) (d : Deferred) : Bool :=
  !d.eff.writes || !(s.wire.deferred.takeWhile fun e => e.id != d.id).any fun e => e.eff.writes && sameActor d.who e.who.aid e.who.name

/-- A deferred effect whose operations are performed takes effect. What waits for it goes on waiting for the write it makes. -/
def State.releaseDeferred (s : State) (id : Nat) : Option State := do
  let d ← s.wire.deferred.find? fun d => d.id == id
  let rest := s.wire.deferred.filter fun d => d.id != id
  let t := { s with wire := { s.wire with deferred := rest } }
  if !s.performed d.after d.scope || d.ticket.isSome || !s.deferredFirst d then none
  else
    let w := d.who
    let tags := { d.tags with op := d.tags.opOf d.id }
    let r : Chk State := match d.eff with
      | .store va n v p | .strl va n v p _ _ => t.storeNow w va n v p tags d.id
      | .amo va op narrow b c p order _ scope => do let r ← t.amoNow w va op narrow b c p order scope tags false d.id; .ok r.2
      | .cinc none c v _ _ => .ok (t.addCounter w.core c v)
      | .depdec h _ _ => t.depDec w.core h
      | _ => .ok t
    match r with
    | .ok u => some u
    | .error (.kill r n) => some ((t.noteKill (nameJob w.name) w.core r n).killAnyway w.name r)
    | .error (.line l) => some (s.settleLine l)
    | .error (.miss m) =>
      let join (k : Ticket) : Ticket := if k.acts.contains w.aid then k else { k with acts := k.acts ++ [w.aid] }
      let (num, t) := s.raiseMiss w.die w.core w.part w.name d.deadline m join
      let held (e : Deferred) : Deferred := if e.id == id then { e with ticket := some num, since := s.env.time } else e
      -- the committed activation is blocked with it
      let block (a : Act) : Act := if a.wait = .none ∨ a.wait = .retry then { a with wait := .ticket num } else a
      some ({ t with wire := { t.wire with deferred := t.wire.deferred.map held } }.modAid w.aid block)
    | .error _ => none

/-- Effects released at DONE go on. -/
def State.releaseTail (s : State) (aid : Nat) : Option State := do
  let x ← s.wire.tails.find? fun x => x.aid == aid && x.ticket.isNone
  let (a, t, left, stop) := State.releaseAll x.act x.act.staged s
  let others (t : State) : List Tail := t.wire.tails.filter fun y => y.aid != aid
  let keep (t : State) (y : Tail) : State := { t with wire := { t.wire with tails := t.wire.tails.map fun z => if z.aid = aid then y else z } }
  let gone (t : State) : State := { t with wire := { t.wire with tails := others t } }
  let y := { x with act := { a with staged := left } }
  match stop with
  | none => some (((gone t).launchCovers a).releaseTiles aid).settleLevels
  | some (.kill r n) => some (((gone t).noteKill a.job a.core r n).killAnyway a.name r)
  | some (.line l) => some (keep (t.settleLine l) y)
  | some (.miss m) =>
    let (num, t) := t.raiseMiss (dieOf a.core) a.core (s.partOf a.job a.core) a.name a.deadline m fun k => { k with acts := k.acts ++ [aid] }
    some (keep t { y with ticket := some num, since := s.env.time })
  | some _ => if left.length < x.act.staged.length then some (keep t y) else none

/-! ## Errors that strike (18 R401, R407, R413; 10 R288) -/

/-- A replay of the timing detectors (R413). -/
def State.timingReplay (s : State) (core : Nat) (inArray : Bool) (aid : Nat) : State :=
  let die := dieOf core
  let s := s.countReplay core
  let s := if inArray then s.modAid aid fun a => { a with replays := if a.replays = 255 then 255 else a.replays + 1 } else s
  let l := vget s.logs die
  let recent := (l.replays.filter fun t => decide (s.env.time < t + 1000000)) ++ [s.env.time]
  let s := { s with logs := vset s.logs die { l with replays := recent } }
  if 1024 < recent.length then s.note { die := die, cls := 3, unit := 4, location := location (die * 512) } else s

/-- An uncorrectable word outside HBM is logged as class 1 (R407), for the core whose word it was; detail bit 10 says
whether its unit was poisoned before (R416). -/
def State.lost (s : State) (core unit : Nat) (part : Option Nat) (before : Bool) (reason : Half) (asid : Nat := 0) : State :=
  s.note { die := dieOf core, cls := 1, unit := unit, location := location core, part := part
           detail := if before then 0x400 else 0, reason := reason, asid := BitVec.ofNat 16 asid }
/-- A word of a job's actor on a core is lost. -/
def State.lostOf (s : State) (job : Half) (core unit : Nat) (before : Bool) (reason : Half) : State :=
  s.lost core unit (s.partOf? job core) before reason (s.asidOf job core)
/-- A word of an activation is lost. -/
def State.lostAct (s : State) (aid : Nat) (before : Act → Bool) : State :=
  match s.allActs.find? fun a => a.aid == aid with
  | some a => s.lostOf a.job a.core 3 (before a) 0
  | none => s
/-- A word of an actor, or of a pool, is lost. -/
def State.lostName (s : State) (name : Word) (unit : Nat) (before : Bool) (reason : Half) : State :=
  s.lostOf (nameJob name) (((s.dir.actors.find? fun a => a.name == name).map (·.core)).getD 0) unit before reason

/-- A message with a word of it poisoned, and whether it was. -/
def spoilMsg (m : Msg) (w : Nat) : Msg := { m with poison := m.poison ||| (1#8 <<< (w % 8)) }
def QMsg.spoilAt (l : List QMsg) (place w : Nat) : List QMsg :=
  l.zipIdx.map fun t => if t.2 = place then { t.1 with msg := spoilMsg t.1.msg w } else t.1
/-- What a flight carries, poisoned: a word of a message, or the bytes of a sector. -/
def Item.spoil (w : Nat) : Item → Item
  | .msg m => .msg (spoilMsg m w)
  | .launch m grid rec num next => .launch (spoilMsg m w) grid rec num next
  | .pushSector e c port off size actor data _ => .pushSector e c port off size actor data true
  | .pushrSector e c off va data _ post => .pushrSector e c off va data true post
  | i => i
def Item.spoiled (w : Nat) : Item → Bool
  | .msg m | .launch m _ _ _ _ => m.poison.getLsbD (w % 8)
  | .pushSector _ _ _ _ _ _ _ p | .pushrSector _ _ _ _ _ p _ => p
  | _ => false

def State.strike (s : State) : Strike → State
  | .line l e => { s with mem := { s.mem with lineErrs := put [] l (xorErr (look [] s.mem.lineErrs l) e) s.mem.lineErrs } }
  | .sector k =>
    -- a slice's sector is of an HBM line (18 R408)
    if isHbm (32 * k) then
      { s with mem := ({ s.mem with poisonLines := insertNat (k / 2) s.mem.poisonLines } : Mem).spoil [k / 2] }.lost (homeDie (32 * k) * 512) 2 none
        (s.mem.poisonLines.contains (k / 2)) 0
    else
    let core := if isPool (32 * k) then (32 * k - 2 ^ 45) / 2 ^ 24 else homeDie (32 * k) * 512
    { s with mem := { s.mem with poisonSectors := insertNat k s.mem.poisonSectors } }.lost core (if isPool (32 * k) then 3 else 2)
      (if isPool (32 * k) then (s.core core).part else none) (s.mem.poisonSectors.contains k) 0
  | .xreg aid r =>
    (s.lostAct aid fun a => a.xp.getLsbD (r % 32)).modAid aid fun a =>
      { a with xp := if r % 32 = 0 then a.xp else a.xp ||| (1#32 <<< (r % 32)) }
  | .oreg aid r => (s.lostAct aid fun a => a.op.getLsbD (r % 8)).modAid aid fun a => { a with op := a.op ||| (1#8 <<< (r % 8)) }
  | .ereg aid r lane =>
    (s.lostAct aid fun a => (vget a.ep (r % 32)).getLsbD (lane % 32)).modAid aid fun a =>
      { a with ep := vset a.ep (r % 32) (vget a.ep (r % 32) ||| (1#32 <<< (lane % 32))) }
  | .queue aid q place =>
    (s.lostAct aid fun a => ((vget a.q q)[place]?.map (·.2)).getD false).modAid aid fun a =>
      { a with q := vset a.q q ((vget a.q q).zipIdx.map fun t => if t.2 = place then (t.1.1, true) else t.1) }
  | .word name place w =>
    -- a pool's messages are numbered through its queues
    let hit (base : Nat) (l : List QMsg) : List QMsg := if place < base then l else QMsg.spoilAt l (place - base) w
    let hitAll (l : List PoolQueue) : List PoolQueue := l.zipIdx.map fun t =>
      { t.1 with msgs := hit ((l.take t.2).map (·.msgs.length)).sum t.1.msgs }
    let msgs := (s.dir.actors.filter fun a => a.name == name).flatMap (fun a => a.onCore ++ a.spill) ++
      (s.dir.pools.filter fun p => p.name == name).flatMap fun p => p.queues.flatMap (·.msgs)
    let before := (msgs[place]?.map fun q => q.msg.poison.getLsbD (w % 8)).getD false
    let s := s.modActor name fun a => { a with onCore := hit 0 a.onCore, spill := hit a.onCore.length a.spill }
    (s.modPool name fun p => { p with queues := hitAll p.queues }).lostName name 3 before 0
  | .heldWord name place w =>
    let held := (s.dir.actors.filter fun a => a.name == name).flatMap (·.held) ++ (s.dir.pools.filter fun p => p.name == name).flatMap (·.held)
    let t := s.modActor name fun a => { a with held := QMsg.spoilAt a.held place w }
    (t.modPool name fun p => { p with held := QMsg.spoilAt p.held place w }).lostName name 3
      ((held[place]?.map fun q => q.msg.poison.getLsbD (w % 8)).getD false) 0
  | .flight id w =>
    (match s.wire.flights.find? fun f => f.id == id with
     | none => s
     | some f =>
       let flights := mapIf (fun g => g.id == id) (fun g => { g with item := g.item.spoil w }) s.wire.flights
       { s with wire := { s.wire with flights := flights } }.lost (f.die * 512) 3 none (f.item.spoiled w) 0)
  | .slotWord h w =>
    let v := s.slot h
    (match v.held with
     | none => s
     | some p => (s.setSlot { v with held := some { p with msg := spoilMsg p.msg w } }).lost (v.die * 512) 8
         (s.partOf? (nameJob p.src) (v.die * 512)) (p.msg.poison.getLsbD (w % 8)) 0)
  | .parkedWord entry set place w =>
    (match s.expEntry entry with
     | none => s
     | some e =>
       let was := (((vget e.sets set).waiting[place]?).map fun q => q.msg.poison.getLsbD (w % 8)).getD false
       (s.modSet entry set fun v => { v with waiting := QMsg.spoilAt v.waiting place w }).lost (e.home.toNat * 512) 3 (some (s.partOf e.job 0)) was 0)
  | .tile core num k =>
    -- the eight elements of a 32-byte sector (18 R408)
    let before := (s.tile core num).any fun t => t.poison.contains (k / 8)
    (s.modTile core num fun t => { t with poison := insertNat (k / 8) t.poison }).lost core 3 (s.core core).part before 0
  | .corrected die unit core => s.note { die := die, cls := 0, unit := unit, location := location core }
  | .depSlot h =>
    let v := s.slot h
    let t := (s.setSlot { v with held := none }).lost (v.die * 512) 8 (v.held.bind fun h => s.partOf? (nameJob h.src) (v.die * 512)) false 10
    (match v.held with
      | some h => (t.cancelled 0 h.msg).killActor h.src 10
      | none => t).settleLevels
  | .directory name both => (s.lostName name 11 false (if both then 10 else 0)) |> fun t => if both then t.killActor name 10 else t
  | .control name => (s.lostName name 3 false 10).killActor name 10
  | .timing core inArray aid => s.timingReplay core inArray aid
  | .residue core times => s.modCore core fun c => { c with residue := times }
  | .dieSilent die => { s with links := { s.links with dieDown := (die, some s.env.time) :: s.links.dieDown } }
  | .dieFatal die => { s with links := { s.links with dieDown := (die, none) :: s.links.dieDown } }

end Sys2Proof.Machine
end

