-- ==== Sys2Proof/Machine/Boot.lean ====
section
/-! DEFINITION. Bring-up, resets, fatal errors, power and cooling, and the ordered stop that HALT shares with them (16 R381;
18 R417, R422; 20). Registers that the host reads answer in every mode while there is power. -/

namespace Sys2Proof.Machine

/-- The outcome of an event that a halted part still has (20 R446, R447, R449, R450): where its conditions do not hold nothing
happens (assumption 17). -/
def powered (s : State) (c : Option State) : Host.Outcome State Fault Refusal :=
  if !s.boot.powered then .fault .partStopped else .next (c.getD s)

/-! ## Attestation records (18 R422, R423; 16 R381) -/

/-- The error counts that a record's header holds: classes 0 to 12, then kills by reason. -/
def Part.errorCounts (p : Part) : List Nat :=
  (List.range 13).map (look 0 p.classes) ++ [4, 5, 6, 7, 10, 11, 16, 17, 18, 19, 20].map (look 0 p.kills)

/-- The header of a record: 128 bytes. -/
def Attest.header (r : Attest) : List Byte :=
  leBytes 8 (r.job.toNat * 2 ^ 48 + r.part * 2 ^ 42 + r.asid.toNat * 2 ^ 26 + bits r.keys.toNat 0 8 * 2 ^ 18 +
    bits r.keys.toNat 8 8 * 2 ^ 10 + r.halted.toNat * 2 + r.sealed.toNat) ++
  leBytes 8 r.start ++ leBytes 8 r.end_ ++ leBytes 4 r.entries.length ++ leBytes 4 0 ++ r.errors.flatMap (leBytes 4)
/-- Everything that precedes the signature. -/
def Attest.body (r : Attest) : List Byte := r.header ++ r.entries.flatMap fun e => leBytes 8 e.1 ++ e.2

/-- A signature has 16,224 bytes (20 R441). -/
def signatureBytes : Nat := 16224
/-- A record sealed: the message that is signed is its body's SHA-256 digest (20 R441). -/
def Attest.close (r : Attest) (counts : List Nat) (time : Nat) (halted : Bool) : Attest :=
  let r := { r with end_ := time, halted := halted, sealed := true, errors := counts }
  { r with signature := sized signatureBytes (Config.sign (sha256 r.body)) }

/-- The open record of a job sealed: the package keeps up to 1,024 sealed records, the latest. -/
def State.sealRecord (s : State) (job : Half) (halted : Bool) : State :=
  let close (r : Attest) : Attest :=
    if r.job == job && !r.sealed then r.close (s.part r.part).errorCounts s.env.time halted else r
  let l := s.key.records.map close
  let extra := (l.filter (·.sealed)).length - 1024
  let old := ((l.filter (·.sealed)).take extra)
  { s with key := { s.key with records := l.filter fun r => !(r.sealed && old.contains r) } }

/-- Every open record sealed. -/
def State.sealAll (s : State) (halted : Bool) : State :=
  ((s.key.records.filter fun r => !r.sealed).map (·.job)).foldl (fun s j => s.sealRecord j halted) s

/-! ## Resets (R447) -/

/-- What lies outside the package: host memory and the tier. -/
def outside (k : Nat) : Bool := 2 ^ 52 ≤ k

/-- Memory after a warm reset: HBM as ciphertext with no key bound, and what lies outside. -/
def Mem.warm (m : Mem) : Mem :=
  { cells := m.cells.filter fun c => isHbm c.1 || outside c.1
    poisonLines := m.poisonLines, lineErrs := m.lineErrs, lineKeys := m.lineKeys
    poisonSectors := m.poisonSectors.filter fun k => outside (k * 32) }
/-- Memory after a cold reset. -/
def Mem.cold (m : Mem) : Mem :=
  { cells := m.cells.filter fun c => outside c.1, poisonSectors := m.poisonSectors.filter fun k => outside (k * 32) }

/-- An error log as a warm reset keeps it: the ring and its counts. -/
def DieLog.kept (l : DieLog) : DieLog := { ring := l.ring, head := l.head, tail := l.tail, overflow := l.overflow }

/-- A reset of the package: non-volatile storage stays, and the model's own counters. What the package has sent to the host
stays sent. -/
def State.resetTo (s : State) (kind : BitVec 2) : State :=
  { env := s.env
    boot := { reset := kind, starts := s.boot.starts, reason := s.boot.reason, detail := s.boot.detail, newMain := s.boot.newMain }
    host := { msix := s.host.msix }
    key := { generation := s.key.generation } }

/-- A cold reset. -/
def State.coldReset (s : State) : State := { s.resetTo 0 with mem := s.mem.cold }

/-- A warm reset: the error logs, sealed records not yet read, and the power limit are kept. -/
def State.warmReset (s : State) : State :=
  let t := s.resetTo 1
  { t with mem := s.mem.warm, logs := s.logs.map DieLog.kept, boot := { t.boot with limit := s.boot.limit }
           key := { t.key with records := s.key.records.filter (·.sealed) } }

/-- A start that fails: its reason and detail are recorded, and a warm reset follows (R443, R445). -/
def State.failStart (s : State) (reason detail : Nat) : State :=
  { s with boot := { s.boot with reason := BitVec.ofNat 8 reason, detail := BitVec.ofNat 8 detail } }.warmReset

/-! ## The ordered stop (16 R381) and fatal errors (18 R417, 20 R448) -/

/-- The steps of HALT. -/
def State.haltSteps (s : State) : State :=
  let s := s.sealAll true
  { s with act := {}, acts := [], boot := { s.boot with halted := true, mode := 3 } }

/-- A class 12 entry. -/
def State.noteFatal (s : State) (die : Nat) : State := s.note { die := die, cls := 12, unit := 11, location := location (die * 512) }

/-- A size of the root image as a region has it: a multiple of 64 bytes (04 R90). -/
def wholeLines (n : Nat) : Nat := n / 64 * 64
/-- The root's image that an image's bytes hold (20 R442, R444). A class 0b11 never occurs (04 R90): such a region is one of class
0b00. -/
def rootImageOf (bs : List Byte) : Image :=
  { entry := Config.rootEntry bs, index := Config.rootIndex bs, quota := Config.rootQuota bs
    part := Config.rootPart bs, service := true
    regions := (Config.rootRegions bs).map fun r =>
      { size := wholeLines r.1, cls := if r.2.1 == 3#2 then 0#2 else r.2.1, w := r.2.2.1, r := r.2.2.2.1
        source := if r.2.2.2.2.isEmpty then 0 else 1 } }
/-- Its regions' first bytes, in pieces of 32. -/
def rootData (bs : List Byte) : List (List Byte × Bool) :=
  (Config.rootRegions bs).flatMap fun r => if r.2.2.2.2.isEmpty then [] else (List.range (wholeLines r.1 / 32)).map fun k =>
    let bs := (r.2.2.2.2.drop (32 * k)).take 32
    (bs ++ List.replicate (32 - bs.length) 0, false)

/-- Service cores that have no partition word get theirs (04 R87). -/
def State.serviceWords (s : State) : State :=
  (s.coresFor 0 true).foldl (fun s c => s.modCore c fun v => if v.word = 0 then { v with word := Config.serviceWord c } else v) s

/-- Keystone places the Calico root (16 R361); in minimal mode the recovery image's (20 R445). -/
def State.placeRoot (s : State) : Option State := do
  let s := s.serviceWords
  let img := rootImageOf s.boot.image.1
  if !s.shardRoom (mkName 0 2 img.index 0) then none
  let room ← s.findRoom img (s.coresFor 0 true) none
  let (a, t) ← s.install 0 img [room] (rootData s.boot.image.1) none
  some { t.modActor a.name fun x => { x with root := true } with key.calicoRoot := some a.name }

def State.rootLive (s : State) : Bool := match s.key.calicoRoot with
  | some n => s.dir.actors.any fun a => a.name == n && a.life == .live
  | none => false

/-- FATAL_ERROR: after phase 6 vector 0 is raised and Keystone responds; before it the start fails. A lost root is placed
again once. -/
def execFatalError (cause : FatalCause) (s : State) : Host.Outcome State Fault Refusal :=
  event s (
    let die := match cause with
      | .directoryLost d => d % 4
      | _ => 0
    if (match cause with
      | .rootLost => s.boot.steps < 7 || s.rootLive
      | _ => false) then none
    else
      let t := s.noteFatal die
      if s.boot.steps < 8 then some (t.failStart 6 0)
      else
        let t := { t with host := { t.host with msix := t.host.msix ++ [(0, 0)] } }
        match cause, s.key.rootRetried with
        | .rootLost, false => some (match t.placeRoot with
          | some u => { u with key := { u.key with rootRetried := true } }
          | none => t.haltSteps.warmReset)
        | _, _ => some t.haltSteps.warmReset)

/-! ## The start sequence (R442 to R445) -/

/-- The recovery image writes a replacement main image into storage (R444, assumption 14). -/
def State.storeImage (s : State) (image signature : List Byte) : State :=
  if s.boot.mode == 2 && s.rootLive then { s with boot := { s.boot with newMain := some (image, signature) } } else s

/-- The root directory's bytes zeroed: 65,536 entries from physical page 0 (17 R384). -/
def Mem.zeroRoot (m : Mem) : Mem :=
  { m with cells := m.cells.filter fun c => decide (524288 ≤ c.1), lineKeys := m.lineKeys.filter fun c => decide (8192 ≤ c.1)
           poisonLines := m.poisonLines.filter fun l => decide (8192 ≤ l), lineErrs := m.lineErrs.filter fun c => decide (8192 ≤ c.1) }

/-- Phase 3 done: key slots cleared but for Calico's own, the scrub period set, the root directory zeroed. -/
def State.trained (s : State) : State :=
  let g := s.key.generation + 1
  { s with mem := { s.mem.zeroRoot with keySlots := [(0, g)], scrubHours := if 1 ≤ Config.scrubHours ∧ Config.scrubHours ≤ 168 then Config.scrubHours else 24 }, key := { s.key with generation := g } }

/-- Links begin to train. -/
def State.beginTraining (s : State) : State :=
  { s with links := { s.links with links := s.links.links.map fun l => { l with state := 1 } } }

/-- Phase 1: the start counter read and the mode chosen. -/
def State.chooseMode (s : State) : State :=
  if 3 ≤ s.boot.starts.toNat then { s with boot := { s.boot with minimal := true } }
  else { s with boot := { s.boot with starts := s.boot.starts + 1 } }

def State.phaseDone (s : State) : State :=
  { s with boot := { s.boot with steps := s.boot.steps + 1, phase := BitVec.ofNat 4 s.boot.steps } }

/-- A step of the start completes. Phase 2 verifies the image that this start runs; phase 5 ends when every link has trained or
failed; a root for which there is no room never reports ready. -/
def State.bootStep (s : State) : Option State :=
  match s.boot.steps with
  | 0 => some s.phaseDone
  | 2 => some (if s.boot.imageOk then s.phaseDone else s.failStart 2 0)
  | 1 => some s.chooseMode.phaseDone
  | 3 => some { s.trained with boot.hbm := true }.phaseDone
  | 4 => some (if s.boot.minimal then s.phaseDone else s.phaseDone.beginTraining)
  | 5 => if s.links.links.toList.any fun l => l.state == 1 then none else some s.phaseDone
  | 6 => let t := s.placeRoot.getD s; some { t with boot := { t.boot with steps := 7, rootSince := t.env.time } }
  | _ => none

/-- A step of the start fails: reason and unit. A unit of phase 5 that fails is logged and stays down; minimal mode runs
without its HBM. -/
def State.bootFail (s : State) (unit : Nat) : Option State :=
  match s.boot.steps with
  | 0 => some (s.failStart 1 0)
  | 2 => if s.boot.imageOk then none else some (s.failStart 2 0)
  | 3 => if s.boot.minimal then some ({ s with boot.hbm := false }.phaseDone) else if unit < 12 then some (s.failStart 3 unit) else none
  | 4 => if s.boot.minimal || 4 ≤ unit then none else some (s.failStart 4 unit)
  | 5 =>
    if s.boot.minimal || 20 < unit then none
    else
      let die := if unit = 20 then 2 else unit / 5
      let t := s.note { die := die, cls := 10, unit := 7, location := location (die * 512) }
      some (if unit < 20 then t.modLink unit fun l => { l with state := 0 } else { t with boot := { t.boot with port1Down := true } })
  | _ => none

/-- BOOT_PHASE_COMPLETE. -/
def execBootPhaseComplete (failed : Option Nat) (s : State) : Host.Outcome State Fault Refusal :=
  event s (match failed with
    | none => s.bootStep
    | some unit => s.bootFail unit)

/-- ROOT_READY: phase 6 is complete. -/
def execRootReady (s : State) : Host.Outcome State Fault Refusal :=
  event s (
    if s.boot.steps = 7 ∧ s.env.time ≤ s.boot.rootSince + 10000000000 ∧ s.rootLive then
      let b := { s.boot with steps := 8, phase := 6, mode := if s.boot.minimal then 2 else 1 }
      some { s with boot := if b.minimal then b else { b with starts := 0, reason := 0, detail := 0 } }
    else none)

/-- ROOT_READY_TIMEOUT. -/
def execRootReadyTimeout (s : State) : Host.Outcome State Fault Refusal :=
  event s (if s.boot.steps = 7 ∧ s.boot.rootSince + 10000000000 < s.env.time then some (s.failStart 5 0) else none)

/-- POWER_ON: a cold reset; a part that has power takes none. -/
def execPowerOn (s : State) : Host.Outcome State Fault Refusal :=
  .next (if s.boot.powered then s else s.coldReset)

/-- POWER_LOSS: the start counter has already counted a start that is cut off. -/
def execPowerLoss (s : State) : Host.Outcome State Fault Refusal :=
  powered s (some { s with boot := { s.boot with powered := false } })

/-- PERST: PERST# or Hot Reset on port 0. -/
def execPerst (s : State) : Host.Outcome State Fault Refusal := powered s (some s.warmReset)

/-- A port that the part has in its mode (R444), and that has trained: port 1 with phase 5, unless it failed (R442). -/
def State.hasPort (s : State) (port : Nat) : Bool :=
  port == 0 || (port == 1 && !s.boot.minimal && !s.boot.port1Down && decide (6 ≤ s.boot.steps))

/-- FUNCTION_LEVEL_RESET: a port's configuration space, base addresses and MSI-X table, and the receive queues that name it. -/
def execFunctionLevelReset (port : Nat) (s : State) : Host.Outcome State Fault Refusal :=
  powered s (
    if !s.hasPort port then none
    else
      let h := { s.host with rxq := s.host.rxq.map fun q => if q.port == (port == 1) then ({} : Rxq) else q
                             ports := vset s.host.ports port {} }
      some { s with host := h, boot := { s.boot with limit := 2800 } })

/-- An answer to a host's request: its status and data (19 R438, 20 R442). -/
def State.respondHost (s : State) (status : Nat) (bs : List Byte) : State := { s with host := { s.host with response := (status, bs) } }

/-- BOOT_RETRY: boot.ctl written (R446); before phase 0 completes, Retry Status (R442). -/
def execBootRetry (port : Nat) (v : Word32) (s : State) : Host.Outcome State Fault Refusal :=
  powered s (
    if !s.hasPort port then none
    else if s.boot.steps = 0 then some (s.respondHost 2 [])
    else if v.getLsbD 0 && s.boot.mode == 2 then some { s with boot := { s.boot with starts := 0 } }.warmReset
    else some s)

/-- PWR_LIMIT_WRITE (R446). -/
def execPwrLimitWrite (port : Nat) (v : Word32) (s : State) : Host.Outcome State Fault Refusal :=
  powered s (
    if s.hasPort port && s.boot.steps == 0 then some (s.respondHost 2 [])
    else if s.hasPort port then some { s with boot := { s.boot with limit := BitVec.ofNat 12 (max 1200 (min 2800 (v.toNat % 4096))) } } else none)

/-- OPERATING_POINT_CHANGE (R449): Keystone chooses among the points on a halted part too. -/
def execOperatingPointChange (point : BitVec 2) (s : State) : Host.Outcome State Fault Refusal :=
  powered s (some { s with boot := { s.boot with point := point } })

/-- THERMAL_TRIP (R450): everything stops at once, with nothing sealed. A start fails with reason 7. A junction of a halted
part can reach the trip too; one that has tripped stays so. -/
def execThermalTrip (s : State) : Host.Outcome State Fault Refusal :=
  powered s (
    if s.boot.tripped then none else
    let t := s.noteFatal 0
    let b := { t.boot with tripped := true, mode := 3 }
    let t := if s.boot.steps < 8 then t else { t with host := { t.host with msix := t.host.msix ++ [(0, 0)] } }
    some { t with boot := if s.boot.steps < 8 then { b with reason := 7, detail := 0 } else b })

/-- THERMAL_RECOVERY: every junction is below 85 °C. -/
def execThermalRecovery (s : State) : Host.Outcome State Fault Refusal :=
  powered s (if s.boot.tripped then some s.warmReset else none)

end Sys2Proof.Machine
end

