-- ==== Sys2Proof/Machine/Integer.lean ====
section
/-! DEFINITION. Integer register operations, immediate operations and constants (08 R189, R192 to R197; 06 R159 to
R161). -/

namespace Sys2Proof.Machine

/-! ## Operations at a width (08 R194, R195) -/

/-- The width that `.w` selects. -/
def widthW (w : BitVec 1) : Nat := if w = 1 then 32 else 64

/-- A quotient (06 R160). -/
def divOp (signed : Bool) (n : Nat) (a b : Nat) : Int :=
  let x := intOf signed n a
  let y := intOf signed n b
  if y = 0 then (if signed then -1 else (2 ^ n : Nat) - 1) else x.tdiv y

/-- A remainder (06 R160), with the dividend's sign. -/
def remOp (signed : Bool) (n : Nat) (a b : Nat) : Int :=
  let x := intOf signed n a
  let y := intOf signed n b
  if y = 0 then x else x.tmod y

/-- Shifts by a whole amount (06 R161). -/
def shlOp (n a d : Nat) : Nat := if d < n then a <<< d % 2 ^ n else 0
def shrOp (n a d : Nat) : Nat := if d < n then a >>> d else 0
def sraOp (n a d : Nat) : Int :=
  let x := intOf true n a
  if d < n then x / (2 ^ d : Nat) else if x < 0 then -1 else 0

def popOp (n a : Nat) : Nat := ((List.range n).filter fun i => a.testBit i).length
def clzOp (n a : Nat) : Nat := if a = 0 then n else n - 1 - a.log2
def ctzOp (n a : Nat) : Nat := ((List.range n).find? fun i => a.testBit i).getD n

/-- BEXT and BINS (08 R195). -/
def bextOp (n v pos len : Nat) : Nat :=
  let t := if pos ≥ n then 0 else v >>> pos
  if len < n then t % 2 ^ len else t
def binsOp (n d v pos len : Nat) : Nat :=
  if pos ≥ n then d else
  let m := 2 ^ min len n - 1
  ((d &&& (2 ^ n - 1 - (m <<< pos) % 2 ^ n)) ||| ((v &&& m) <<< pos)) % 2 ^ n

/-- A result of width `n`, written as it is at 64 bits and sign-extended from 32 (06 R159). -/
def atWidth (w : BitVec 1) (v : Int) : Word := if w = 1 then sext 32 (wrapInt 32 v) else BitVec.ofNat 64 (wrapInt 64 v)

/-- An INT form of two sources: its operands at the width, poison from either (08 R192, R194). -/
def int2 (w : BitVec 1) (b a d : BitVec 5) (len : Nat) (s : State) (f : Nat → Nat → Nat → Int) : Chk State :=
  let n := widthW w
  let x := s.act
  .ok (s.result len d (atWidth w (f n ((x.getX a).toNat % 2 ^ n) ((x.getX b).toNat % 2 ^ n))) (x.xPoison a || x.xPoison b))

/-- A shift: the amount is the whole of xb (06 R161). -/
def intShift (w : BitVec 1) (b a d : BitVec 5) (s : State) (f : Nat → Nat → Nat → Int) : Chk State :=
  let n := widthW w
  let x := s.act
  .ok (s.result 4 d (atWidth w (f n ((x.getX a).toNat % 2 ^ n) (x.getX b).toNat)) (x.xPoison a || x.xPoison b))

/-- An INT form of one source. -/
def int1 (w : BitVec 1) (a d : BitVec 5) (s : State) (f : Nat → Nat → Nat) : Chk State :=
  let n := widthW w
  .ok (s.result 4 d (atWidth w (f n ((s.act.getX a).toNat % 2 ^ n))) (s.act.xPoison a))

/-- An INTI form, at 64 bits (08 R196). -/
def intImm (i : BitVec 12) (a d : BitVec 5) (len : Nat) (s : State) (f : Word → Word → Word) : Chk State :=
  .ok (s.result len d (f (s.act.getX a) (i.signExtend 64)) (s.act.xPoison a))

/-- A shift by an immediate (08 R196). -/
def intShiftImm (n : BitVec 6) (a d : BitVec 5) (len : Nat) (s : State) (f : Nat → Nat → Int) : Chk State :=
  .ok (s.result len d (atWidth 0 (f (s.act.getX a).toNat n.toNat)) (s.act.xPoison a))

def bit (c : Bool) : Int := if c then 1 else 0

/-! ## INT (08 R194) -/

/-- ADD: A + B. -/
def execAdd (w : BitVec 1) (b a d : BitVec 5) (s : State) : Host.Outcome State Fault Refusal :=
  run s (int2 w b a d 4 s fun _ x y => x + y)

/-- SUB: A - B. -/
def execSub (w : BitVec 1) (b a d : BitVec 5) (s : State) : Host.Outcome State Fault Refusal :=
  run s (int2 w b a d 4 s fun _ x y => (x : Int) - y)

/-- AND. -/
def execAnd (w : BitVec 1) (b a d : BitVec 5) (s : State) : Host.Outcome State Fault Refusal :=
  run s (int2 w b a d 4 s fun _ x y => (x &&& y : Nat))

/-- OR. -/
def execOr (w : BitVec 1) (b a d : BitVec 5) (s : State) : Host.Outcome State Fault Refusal :=
  run s (int2 w b a d 4 s fun _ x y => (x ||| y : Nat))

/-- XOR. -/
def execXor (w : BitVec 1) (b a d : BitVec 5) (s : State) : Host.Outcome State Fault Refusal :=
  run s (int2 w b a d 4 s fun _ x y => (x ^^^ y : Nat))

/-- SHL (R161). -/
def execShl (w : BitVec 1) (b a d : BitVec 5) (s : State) : Host.Outcome State Fault Refusal :=
  run s (intShift w b a d s fun n x y => (shlOp n x y : Nat))

/-- SHR (R161). -/
def execShr (w : BitVec 1) (b a d : BitVec 5) (s : State) : Host.Outcome State Fault Refusal :=
  run s (intShift w b a d s fun n x y => (shrOp n x y : Nat))

/-- SRA (R161). -/
def execSra (w : BitVec 1) (b a d : BitVec 5) (s : State) : Host.Outcome State Fault Refusal :=
  run s (intShift w b a d s fun n x y => sraOp n x y)

/-- MUL: the low half of the product. -/
def execMul (w : BitVec 1) (b a d : BitVec 5) (s : State) : Host.Outcome State Fault Refusal :=
  run s (int2 w b a d 4 s fun _ x y => x * y)

/-- MULH: the high half of the signed product. -/
def execMulh (w : BitVec 1) (b a d : BitVec 5) (s : State) : Host.Outcome State Fault Refusal :=
  run s (int2 w b a d 4 s fun n x y => intOf true n x * intOf true n y / (2 ^ n : Nat))

/-- MULHN: the high half of the unsigned product. -/
def execMulhn (w : BitVec 1) (b a d : BitVec 5) (s : State) : Host.Outcome State Fault Refusal :=
  run s (int2 w b a d 4 s fun n x y => (x * y / 2 ^ n : Nat))

/-- DIV (R160). -/
def execDiv (w : BitVec 1) (b a d : BitVec 5) (s : State) : Host.Outcome State Fault Refusal :=
  run s (int2 w b a d 4 s fun n x y => divOp true n x y)

/-- DIVN (R160). -/
def execDivn (w : BitVec 1) (b a d : BitVec 5) (s : State) : Host.Outcome State Fault Refusal :=
  run s (int2 w b a d 4 s fun n x y => divOp false n x y)

/-- REM (R160). -/
def execRem (w : BitVec 1) (b a d : BitVec 5) (s : State) : Host.Outcome State Fault Refusal :=
  run s (int2 w b a d 4 s fun n x y => remOp true n x y)

/-- REMN (R160). -/
def execRemn (w : BitVec 1) (b a d : BitVec 5) (s : State) : Host.Outcome State Fault Refusal :=
  run s (int2 w b a d 4 s fun n x y => remOp false n x y)

/-- MIN, signed. -/
def execMin (w : BitVec 1) (b a d : BitVec 5) (s : State) : Host.Outcome State Fault Refusal :=
  run s (int2 w b a d 4 s fun n x y => if intOf true n x ≤ intOf true n y then x else y)

/-- MAX, signed. -/
def execMax (w : BitVec 1) (b a d : BitVec 5) (s : State) : Host.Outcome State Fault Refusal :=
  run s (int2 w b a d 4 s fun n x y => if intOf true n x ≤ intOf true n y then y else x)

/-- MINN, unsigned. -/
def execMinn (w : BitVec 1) (b a d : BitVec 5) (s : State) : Host.Outcome State Fault Refusal :=
  run s (int2 w b a d 4 s fun _ x y => (Nat.min x y : Nat))

/-- MAXN, unsigned. -/
def execMaxn (w : BitVec 1) (b a d : BitVec 5) (s : State) : Host.Outcome State Fault Refusal :=
  run s (int2 w b a d 4 s fun _ x y => (Nat.max x y : Nat))

/-- SLT: 1 if A < B, signed. -/
def execSlt (w : BitVec 1) (b a d : BitVec 5) (s : State) : Host.Outcome State Fault Refusal :=
  run s (int2 w b a d 4 s fun n x y => bit (intOf true n x < intOf true n y))

/-- SLTN: 1 if A < B, unsigned. -/
def execSltn (w : BitVec 1) (b a d : BitVec 5) (s : State) : Host.Outcome State Fault Refusal :=
  run s (int2 w b a d 4 s fun _ x y => bit (x < y))

/-- SEQ: 1 if A = B. -/
def execSeq (w : BitVec 1) (b a d : BitVec 5) (s : State) : Host.Outcome State Fault Refusal :=
  run s (int2 w b a d 4 s fun _ x y => bit (x == y))

/-- CLZ: leading zero bits. -/
def execClz (w : BitVec 1) (a d : BitVec 5) (s : State) : Host.Outcome State Fault Refusal := run s (int1 w a d s clzOp)

/-- CTZ: trailing zero bits. -/
def execCtz (w : BitVec 1) (a d : BitVec 5) (s : State) : Host.Outcome State Fault Refusal := run s (int1 w a d s ctzOp)

/-- POPC: one bits. -/
def execPopc (w : BitVec 1) (a d : BitVec 5) (s : State) : Host.Outcome State Fault Refusal := run s (int1 w a d s popOp)

/-- ANDN: A AND NOT B. -/
def execAndn (w : BitVec 1) (b a d : BitVec 5) (s : State) : Host.Outcome State Fault Refusal :=
  run s (int2 w b a d 4 s fun n x y => (x &&& (2 ^ n - 1 - y) : Nat))

/-- BEXT: a field of xa at xb[31:0] of length xb[63:32] (R195). -/
def execBext (w : BitVec 1) (b a d : BitVec 5) (s : State) : Host.Outcome State Fault Refusal :=
  run s (intShift w b a d s fun n x y => (bextOp n x (y % 2 ^ 32) (y / 2 ^ 32) : Nat))

/-- BINS: a field of xd replaced by low bits of xa; xd is a source too (R195). -/
def execBins (w : BitVec 1) (b a d : BitVec 5) (s : State) : Host.Outcome State Fault Refusal :=
  let n := widthW w
  let x := s.act
  let y := (x.getX b).toNat
  let t := binsOp n ((x.getX d).toNat % 2 ^ n) ((x.getX a).toNat % 2 ^ n) (y % 2 ^ 32) (y / 2 ^ 32)
  run s (.ok (s.result 4 d (atWidth w t) (x.xPoison a || x.xPoison b || x.xPoison d)))

/-! ## INTI (08 R196) -/

/-- ADDI: xa + I. -/
def execAddi (i : BitVec 12) (a d : BitVec 5) (s : State) : Host.Outcome State Fault Refusal := run s (intImm i a d 4 s (· + ·))

/-- ANDI. -/
def execAndi (i : BitVec 12) (a d : BitVec 5) (s : State) : Host.Outcome State Fault Refusal := run s (intImm i a d 4 s (· &&& ·))

/-- ORI. -/
def execOri (i : BitVec 12) (a d : BitVec 5) (s : State) : Host.Outcome State Fault Refusal := run s (intImm i a d 4 s (· ||| ·))

/-- XORI. -/
def execXori (i : BitVec 12) (a d : BitVec 5) (s : State) : Host.Outcome State Fault Refusal := run s (intImm i a d 4 s (· ^^^ ·))

/-- SHLI (R161). -/
def execShli (n : BitVec 6) (a d : BitVec 5) (s : State) : Host.Outcome State Fault Refusal :=
  run s (intShiftImm n a d 4 s (fun x n => (shlOp 64 x n : Nat)))

/-- SHRI (R161). -/
def execShri (n : BitVec 6) (a d : BitVec 5) (s : State) : Host.Outcome State Fault Refusal :=
  run s (intShiftImm n a d 4 s (fun x n => (shrOp 64 x n : Nat)))

/-- SRAI (R161). -/
def execSrai (n : BitVec 6) (a d : BitVec 5) (s : State) : Host.Outcome State Fault Refusal :=
  run s (intShiftImm n a d 4 s (sraOp 64))

/-- SLTI: 1 if xa < I, signed. -/
def execSlti (i : BitVec 12) (a d : BitVec 5) (s : State) : Host.Outcome State Fault Refusal :=
  run s (intImm i a d 4 s fun x y => if x.slt y then 1 else 0)

/-! ## Constants (08 R197) -/

/-- LIH: the immediate in bits [31:12], sign-extended. -/
def execLih (i : BitVec 20) (d : BitVec 5) (s : State) : Host.Outcome State Fault Refusal :=
  run s (.ok (s.result 4 d (sext 32 (i.toNat <<< 12))))

/-- ADDPC: the pc of the instruction itself added. -/
def execAddpc (i : BitVec 20) (d : BitVec 5) (s : State) : Host.Outcome State Fault Refusal :=
  run s (.ok (s.result 4 d (s.act.pc + sext 32 (i.toNat <<< 12))))

end Sys2Proof.Machine
end

