-- ==== Sys2Proof/Machine/Compressed.lean ====
section
/-! DEFINITION. The compressed forms: each is its 32-bit instruction, two bytes long (07 R175). -/

namespace Sys2Proof.Machine

/-- The register a primed field names. -/
def primed (r : BitVec 3) : BitVec 5 := 8 + r.zeroExtend 5
/-- An unsigned offset in units of `n` bytes. -/
def offUnits {k : Nat} (o : BitVec k) (n : Nat) : Word := BitVec.ofNat 64 (o.toNat * n)

/-- C.MV: add xd, xa, x0. -/
def execCMv (d a : BitVec 5) (s : State) : Host.Outcome State Fault Refusal := run s (int2 0 0 a d 2 s fun _ x y => x + y)
/-- C.ADDI: addi xd, xd, imm6. -/
def execCAddi (d : BitVec 5) (i : BitVec 6) (s : State) : Host.Outcome State Fault Refusal :=
  run s (intImm (i.signExtend 12) d d 2 s (· + ·))
/-- C.LDD. -/
def execCLdd (d a : BitVec 3) (o : BitVec 5) (s : State) : Host.Outcome State Fault Refusal :=
  run s (loadInto 8 true (offUnits o 8) (primed a) (primed d) 2 s)
/-- C.STD. -/
def execCStd (b a : BitVec 3) (o : BitVec 5) (s : State) : Host.Outcome State Fault Refusal :=
  run s (storeFrom 8 (offUnits o 8) (primed a) (primed b) 2 s)
/-- C.LDW. -/
def execCLdw (d a : BitVec 3) (o : BitVec 5) (s : State) : Host.Outcome State Fault Refusal :=
  run s (loadInto 4 true (offUnits o 4) (primed a) (primed d) 2 s)
/-- C.STW. -/
def execCStw (b a : BitVec 3) (o : BitVec 5) (s : State) : Host.Outcome State Fault Refusal :=
  run s (storeFrom 4 (offUnits o 4) (primed a) (primed b) 2 s)
/-- C.ADD: add xd, xd, xa. -/
def execCAdd (d a : BitVec 5) (s : State) : Host.Outcome State Fault Refusal := run s (int2 0 a d d 2 s fun _ x y => x + y)
/-- C.SUB: sub xd, xd, xa. -/
def execCSub (d a : BitVec 5) (s : State) : Host.Outcome State Fault Refusal := run s (int2 0 a d d 2 s fun _ x y => (x : Int) - y)
/-- C.J: jal x0, off11. -/
def execCJ (o : BitVec 11) (s : State) : Host.Outcome State Fault Refusal := run s (jumpLink (s.act.pc + halfwords o) 0 2 s)
/-- C.BEQZ. -/
def execCBeqz (a : BitVec 3) (o : BitVec 8) (s : State) : Host.Outcome State Fault Refusal := run s (branchIf o 0 (primed a) 2 s (· == ·))
/-- C.BNEZ. -/
def execCBnez (a : BitVec 3) (o : BitVec 8) (s : State) : Host.Outcome State Fault Refusal := run s (branchIf o 0 (primed a) 2 s (· != ·))
/-- C.LI: addi xd, x0, imm6. -/
def execCLi (d : BitVec 5) (i : BitVec 6) (s : State) : Host.Outcome State Fault Refusal :=
  run s (intImm (i.signExtend 12) 0 d 2 s (· + ·))
/-- C.SHLI: shli xd, xd, sh6. -/
def execCShli (d : BitVec 5) (n : BitVec 6) (s : State) : Host.Outcome State Fault Refusal :=
  run s (intShiftImm n d d 2 s (fun x n => (shlOp 64 x n : Nat)))
/-- C.ANDI: andi xd, xd, imm6. -/
def execCAndi (d : BitVec 5) (i : BitVec 6) (s : State) : Host.Outcome State Fault Refusal :=
  run s (intImm (i.signExtend 12) d d 2 s (· &&& ·))
/-- C.QPUT. -/
def execCQput (q : BitVec 2) (a : BitVec 5) (s : State) : Host.Outcome State Fault Refusal := run s (qputOp q.toNat a 2 s)
/-- C.QGET. -/
def execCQget (d : BitVec 5) (q : BitVec 1) (s : State) : Host.Outcome State Fault Refusal := run s (qgetOp (4 + q.toNat) d 2 s)
/-- C.SEND. -/
def execCSend (a : BitVec 5) (sc : BitVec 4) (s : State) : Host.Outcome State Fault Refusal := run s (sendOp sc a 2 s)
/-- C.DONE. -/
def execCDone (s : State) : Host.Outcome State Fault Refusal := run s (doneOp s)
/-- C.COMMIT. -/
def execCCommit (s : State) : Host.Outcome State Fault Refusal := run s (commitOp 2 s)
/-- C.WAITC: waitc.scope cc, xa, x0. -/
def execCWaitc (c : BitVec 5) (a : BitVec 3) (sc : BitVec 3) (s : State) : Host.Outcome State Fault Refusal :=
  run s (waitcOp c.toNat (sc.zeroExtend 4) 0 (primed a) 2 s)
/-- C.CINC: cinc.scope cc, xa, x0. -/
def execCCinc (c : BitVec 5) (a : BitVec 3) (sc : BitVec 3) (s : State) : Host.Outcome State Fault Refusal :=
  run s (cincOp c.toNat (sc.zeroExtend 4) 0 (primed a) 2 s)
/-- C.VFMA: vfma.f32 ed, ea, eb; e0 to e15, e16 to e31, e0 to e7. What the E-stream takes is the 32-bit form. -/
def execCVfma (d a : BitVec 4) (b : BitVec 3) (s : State) : Host.Outcome State Fault Refusal :=
  let ed : BitVec 5 := d.zeroExtend 5
  let ea : BitVec 5 := 16 + a.zeroExtend 5
  let eb : BitVec 5 := b.zeroExtend 5
  run s (estream (.vfma 0 0 eb ea ed) 2 (vfmaOp 0 0 eb ea ed) s)
/-- C.VMOV: vmov.f32 ed, ea. -/
def execCVmov (d a : BitVec 5) (s : State) : Host.Outcome State Fault Refusal :=
  run s (estream (.vmov 0 a d) 2 (vmovOp 0 a d) s)
/-- C.NOP: addi x0, x0, 0. -/
def execCNop (s : State) : Host.Outcome State Fault Refusal := run s (intImm 0 0 0 2 s (· + ·))

end Sys2Proof.Machine
end

