-- ==== Sys2Proof/Machine/Keystone.lean ====
section
/-! DEFINITION. Keystone's mailbox and what it serves: KEYREQ, ATTEST and the requests' events (16 R365 to R367; 13 R357; 18
R420, R422, R423; 19 R429). Requests are served in the order in which they arrived. -/

namespace Sys2Proof.Machine

/-! ## Handing a request over (16 R365, R367) -/

/-- A request record's address: in the local window, in one owned region with R and W. -/
def State.requestRecord (s : State) (va : Word) : Chk Nat := do
  let a ← s.checkLocal s.me va 64 64 .atomic
  s.awaitPorts s.act.core (a % 2 ^ 48) 64
  .ok (a % 2 ^ 48)

/-- The record at `va` handed over, and the wait. A full mailbox stalls. -/
def State.handOver (s : State) (va : Word) (attest : Bool) : Chk State := do
  let off ← s.requestRecord va
  let key := poolKey s.act.core off
  let (bs, poison) := s.readPlain (dieOf s.act.core) key 64
  need (!poison) 10
  await (decide (s.key.mailbox.length < 64))
  let (id, s) := s.fresh
  let r : KReq := { id := id, aid := s.act.aid, who := s.me, core := s.act.core, record := key, bytes := bs, attest := attest }
  .ok ({ s with key := { s.key with mailbox := s.key.mailbox ++ [r] } }.modAct fun t => { t with wait := .keystone id })

/-- Whether a request is Keystone's to do once for all the runs of a mirrored child: all but the reading of the identity,
whose response is written into each run's own record. -/
def State.onceOnly (s : State) (off : Nat) (attest : Bool) : Bool :=
  attest || leNat ((s.readPlain (dieOf s.act.core) (poolKey s.act.core off) 2).1) != 6

/-- KEYREQ and ATTEST: the record is handed over and its answer awaited. -/
def State.keystone (s : State) (a d : BitVec 5) (attest : Bool) : Chk State := do
  s.service
  let va ← s.act.ctlX a
  match s.act.memo, s.act.wait with
  | .value v _, _ => if s.onceOnly (va.toNat % 2 ^ 48) attest then s.once 4 d fun s => .ok (s.result 4 d v) else .ok (s.result 4 d v)
  | _, .keystone id => .error (.stall (.keystone id))
  | _, _ => do
    let off ← s.requestRecord va
    s.commits fun s =>
      if s.onceOnly off attest then s.once 4 d fun s => s.handOver va attest else s.handOver va attest

/-- KEYREQ. -/
def execKeyreq (a d : BitVec 5) (s : State) : Host.Outcome State Fault Refusal := run s (s.keystone a d false)
/-- ATTEST. -/
def execAttest (a d : BitVec 5) (s : State) : Host.Outcome State Fault Refusal := run s (s.keystone a d true)

/-! ## Serving a request -/

/-- A request's doublewords, code and argument. -/
def KReq.word (r : KReq) (i : Nat) : Nat := leNat ((r.bytes.drop (8 * i)).take 8)
def KReq.code (r : KReq) : Nat := bits (r.word 0) 0 16
def KReq.arg (r : KReq) : Nat := bits (r.word 0) 32 32
/-- A request of the KEYREQ format whose reserved bits are zero. -/
def KReq.formed (r : KReq) : Bool := bits (r.word 0) 16 16 == 0

/-- The answer to the request at the head: status, result 0, and bytes written into the record. A requester that has
gone gets none. -/
def State.respond (s : State) (r : KReq) (status : Nat) (out : Option (Nat × List Byte) := none) : State :=
  let waits := s.allActs.any fun a => a.aid == r.aid && a.wait == .keystone r.id
  let s := { s with key := { s.key with mailbox := s.key.mailbox.filter fun t => t.id != r.id } }
  if !waits then s
  else
    let s := match out with
      | some (off, bs) => s.writeNow 0 (r.record + off) bs false
      | none => s
    s.modAid r.aid fun a => { a with memo := .value (BitVec.ofNat 64 status) false, wait := .none }

/-- The head of the mailbox, when it is a KEYREQ of a code. -/
def State.request (s : State) (code : Nat) : Option KReq := do
  let r ← s.key.mailbox.head?
  if !r.attest && r.code == code then some r else none

/-! ## Link keys (19 R429, R430) -/

/-- The slot of a direction that is not live, when one is. -/
def idleSlot (v : Vector (BitVec 2) 2) : Option Nat := if vget v 0 = 2 then some 1 else if vget v 1 = 2 then some 0 else none

/-- A slot of a direction made pending: none when it is already, or when no key may be installed. -/
def Link.install (l : Link) (receive : Bool) : Option Link := do
  if l.state ≠ 2 then none
  else
    let v := if receive then l.rx else l.tx
    let k ← idleSlot v
    if vget v k ≠ 0 then none
    else some (if receive then { l with rx := vset l.rx k 1 } else { l with tx := vset l.tx k 1, keywait := false })

/-- A key that a sender asks for itself: this side's at its threshold, else a partner's for its own direction. -/
def State.ownInstall (s : State) : Option State :=
  let links := List.range 20
  match links.findSome? fun n => if (s.link n).keywait then ((s.link n).install false).map fun l => (n, l) else none with
  | some (n, l) => some (s.modLink n fun _ => l)
  | none => (links.findSome? fun n => ((s.link n).install true).map fun l => (n, l)).map fun t => s.modLink t.1 fun _ => t.2

/-- INSTALL_LINK_KEY: a KEYREQ of code 1, or a request of a sender's own. -/
def execInstallLinkKey (s : State) : Host.Outcome State Fault Refusal :=
  event s (
    match s.request 1 with
    | none => s.ownInstall
    | some r =>
      let n := bits r.arg 0 5
      some (if !r.formed || bits r.arg 6 26 != 0 || 20 ≤ n then s.respond r 2
        else match (s.link n).install (r.arg.testBit 5) with
          | some l => (s.modLink n fun _ => l).respond r 0
          | none => s.respond r 1))

/-! ## Memory keys (18 R419, R420) -/

/-- A key request's key id: status 2 for an argument out of range, 1 for a key outside its partition's range. -/
def State.keyArg (s : State) (r : KReq) : Nat ⊕ Nat :=
  let key := bits r.arg 0 8
  let p := bits r.arg 8 6
  let first := bits (s.part p).keys.toNat 0 8
  let count := bits (s.part p).keys.toNat 8 8
  if !r.formed || bits r.arg 14 18 != 0 || 48 ≤ p then .inl 2
  else if key < first ∨ first + count ≤ key then .inl 1
  else .inr key

/-- BIND_MEMORY_KEY: a fresh key, unless the slot is bound. -/
def execBindMemoryKey (s : State) : Host.Outcome State Fault Refusal :=
  event s (do
    let r ← s.request 2
    some (match s.keyArg r with
      | .inl status => s.respond r status
      | .inr key =>
        if (look? s.mem.keySlots key).isSome then s.respond r 1
        else
          let g := s.key.generation + 1
          { s with mem := { s.mem with keySlots := put? key g s.mem.keySlots }, key := { s.key with generation := g } }.respond r 0))

/-- Accesses under a key id that have still to be performed. -/
def State.keyBusy (s : State) (key : Nat) : Bool := s.mem.pending.any fun w => w.key.toNat == key && isHbm w.addr

/-- RETIRE_MEMORY_KEY: once the accesses under it are performed. -/
def execRetireMemoryKey (s : State) : Host.Outcome State Fault Refusal :=
  event s (do
    let r ← s.request 3
    match s.keyArg r with
    | .inl status => some (s.respond r status)
    | .inr key =>
      if (look? s.mem.keySlots key).isNone then some (s.respond r 1)
      else if s.keyBusy key then none
      else some ({ s with mem := { s.mem with keySlots := del? key s.mem.keySlots } }.respond r 0))

/-! ## Weight-set signatures (13 R357) -/

/-- A model record whose set is verified: by a manifest of a given SHA-256. -/
def ModelRec.verified (m : ModelRec) (set : Nat) (ingress : Bool) (manifest : List Byte) : ModelRec :=
  { m with ver := m.ver ||| (1#2 <<< set), ingress := if ingress then m.ingress ||| (1#2 <<< set) else m.ingress
           manifest := vset m.manifest set manifest }

/-- The package at which a set enters the pod has verified it, and sets the bits of this package's record of the job
(assumption 96). -/
def State.ingress (s : State) (num set : Nat) (manifest : List Byte) : State :=
  let hit (m : ModelRec) : Bool := m.num == num && m.valid && spansDomains m.job
  if 2 ≤ set then s
  else { s with exp := { s.exp with models := mapIf hit (fun m => m.verified set true manifest) s.exp.models } }

/-- VERIFY_WEIGHT_SET_SIGNATURE, served though the requester may have been killed. A failed signature has status 1, and kills
the loader with 16 where the job lies in one domain (assumption 85). -/
def execVerifyWeightSetSignature (s : State) : Host.Outcome State Fault Refusal :=
  event s (do
    let r ← s.request 4
    let job := BitVec.ofNat 16 r.arg
    let digest := (r.bytes.drop 24).take 32
    let set := bits (r.word 1) 0 1
    if !r.formed || bits r.arg 16 16 != 0 || bits (r.word 1) 1 15 != 0 || bits (r.word 1) 32 32 != 0 then some (s.respond r 2)
    else
      let w := r.who
      match s.modelOf job (BitVec.ofNat 16 (bits (r.word 1) 16 16)) with
      | some m =>
        (match s.readRecord w (r.word 2) 16224 32 with
         | .ok (some sig, t) =>
           if Config.verifies digest sig then
             let t := t.dropKept w
             let models := mapIf (fun x => x.num == m.num) (fun x => x.verified set (spansDomains job) digest) t.exp.models
             some ({ t with exp := { t.exp with models := models }, key := { t.key with verified := t.key.verified ++ [(job, digest)] } }.respond r 0)
           else
             let t := (t.dropKept w).respond r 1
             some (if spansDomains job then t else t.killActor w.name 16)
         | .ok (none, t) => some t
         | .error (.line l) => some (s.settleLine l)
         | .error _ => some (s.respond r 1))
      | none => some (s.respond r 1))

/-! ## Records (18 R422, R423; 16 R367) -/

def State.openRecord (s : State) (job : Half) : Option Attest := s.key.records.find? fun t => t.job == job && !t.sealed

/-- SEAL_ATTESTATION_RECORD. -/
def execSealAttestationRecord (s : State) : Host.Outcome State Fault Refusal :=
  event s (do
    let r ← s.request 5
    let job := BitVec.ofNat 16 r.arg
    some (if !r.formed || bits r.arg 16 16 != 0 then s.respond r 2
      else if (s.openRecord job).isNone then s.respond r 1
      else (s.sealRecord job false).respond r 0))

/-- READ_IDENTITY: code 6; and every code that is none, which is malformed. -/
def execReadIdentity (s : State) : Host.Outcome State Fault Refusal :=
  event s (do
    let r ← s.key.mailbox.head?
    if r.attest || (1 ≤ r.code && r.code ≤ 5) then none
    else if r.code ≠ 6 || !r.formed then some (s.respond r 2)
    else some (s.respond r 0 (some (16, (List.range 32).map fun k => Config.identityDigest.getD k 0))))

/-- APPEND_MEASUREMENT: what ATTEST asks for. -/
def execAppendMeasurement (s : State) : Host.Outcome State Fault Refusal :=
  event s (do
    let r ← s.key.mailbox.head?
    if !r.attest then none
    else
      let job := BitVec.ofNat 16 (r.word 0)
      let kind := bits (r.word 0) 16 4
      let digest := (r.bytes.drop 8).take 32
      some (if bits (r.word 0) 20 44 != 0 || ((r.bytes.drop 40).take 24).any (· != 0) then s.respond r 2
        else match s.openRecord job with
          | none => s.respond r 1
          | some rec =>
            if !(kind == 2 || kind == 3 || kind == 4) || (kind == 3 && !s.key.verified.contains (job, digest)) || 4096 ≤ rec.entries.length then
              s.respond r 1
            else
              let add (t : Attest) : Attest := if t.job == job && !t.sealed then { t with entries := t.entries ++ [(kind, digest)] } else t
              { s with key := { s.key with records := s.key.records.map add } }.respond r 0))

/-- ATTESTATION_RECORD_READ: the host reads a job's sealed record, which is then no longer kept. -/
def execAttestationRecordRead (job : Half) (s : State) : Host.Outcome State Fault Refusal :=
  event s (do
    let r ← s.key.records.find? fun t => t.job == job && t.sealed
    some { s with key := { s.key with records := s.key.records.erase r }, host := { s.host with response := (0, r.body ++ r.signature) } })

end Sys2Proof.Machine
end

