-- ==== Sys2Proof/Machine/Sys.lean ====
section
/-! DEFINITION. The SYS group: TRAP, UDF and the privileged forms but KEYREQ and ATTEST; partitions stopped, cleared and
resumed; the diagnostic service's flips and the patrol scrubber (08 R223, R224; 15 R360; 16 R364 to R381; 18 R406). -/

namespace Sys2Proof.Machine

/-! ## TRAP and UDF (08 R223, R224) -/

/-- TRAP. -/
def execTrap (b a : BitVec 5) (s : State) : Host.Outcome State Fault Refusal :=
  run s (do
    let v ← s.act.ctlX a
    let r ← s.act.ctlX b
    if v = 0 then .ok (s.advance 4) else kill (if 1 ≤ r.toNat ∧ r.toNat ≤ 20 then r.toNat else 1))

/-- UDF. -/
def execUdf (_ : BitVec 5) (_ : BitVec 15) (s : State) : Host.Outcome State Fault Refusal := run s (kill 3)

/-! ## Slices and tickets (16 R376, R377, R378) -/

/-- Sectors of engine entries that were translated and have not left for their package, on those bytes, are translated again:
they have written nothing (17 R397). -/
def State.unpack (s : State) (asid lo hi : Nat) : State :=
  let drop (core : Nat) (e : Entry) : Entry :=
    if e.packed.isEmpty || s.asidOf e.job core != asid then e
    else { e with packed := e.packed.filter fun t => !overlaps t.2.1 32 lo (hi - lo) }
  { s with cores := s.cores.map fun c => (c.1, { c.2 with queues := c.2.queues.map fun q => q.map (drop c.1) }) }

/-- Entries that overlap bytes `lo` to `hi - 1` of an address-space id dropped from every slice. -/
def State.invalidate (s : State) (asid lo hi : Nat) : State :=
  let hit (c : Cached) : Bool := c.asid == asid && overlaps (c.tag * reachOf c.level) (reachOf c.level) lo (hi - lo)
  let s := s.unpack asid lo hi
  { s with xlat := { s.xlat with cached := s.xlat.cached.filter fun c => !hit c } }

/-- Accesses issued before number `mark` on those bytes that are not performed at package scope: writes, requests to other
packages, and sectors of a PUSHR under way. -/
def State.unperformed (s : State) (asid lo hi mark : Nat) : Bool :=
  let meets (va n : Nat) : Bool := overlaps va n lo (hi - lo)
  s.mem.pending.any (fun w => decide (w.id < mark) && w.stream.isNone && w.asid == asid && meets w.va w.bytes.length) ||
  s.wire.deferred.any (fun d => decide (d.id < mark) && sameActor s.me d.who.aid d.who.name && d.eff.writes) ||
  s.links.remote.any (fun r =>
    decide (r.id < mark) && r.answer.isNone && s.asidOf (nameJob r.actor) r.core == asid && meets r.va r.len) ||
  s.wire.flights.any fun f => match f.item with
    | .pushrSector id _ _ va _ _ _ =>
      decide (f.id < mark) && meets va 32 && (s.entryById id).any fun t => s.asidOf t.2.2.job t.1 == asid
    | _ => false

/-- Writes of Calico's issued before a number that its die has seen, the change of the entry among them, and that some die has
not: its walks may still find the old entry (17 R390). -/
def State.oldEntrySeen (s : State) (mark : Nat) : Bool :=
  s.mem.pending.any fun w => decide (w.id < mark) && w.stream.isNone && w.asid == 0 && w.applied.contains (dieOf s.act.core)

/-- SINV: the entries are dropped, and the accesses that used them awaited. While a die's walks may still find the old entry,
what they let through is awaited too. -/
def execSinv (l : BitVec 1) (b a : BitVec 5) (s : State) : Host.Outcome State Fault Refusal :=
  run s (do
    s.service
    let o ← s.act.ctlO 0
    need (decide (o.toNat < 65536)) 3
    let va ← s.act.ctlX a
    let n ← s.act.ctlX b
    need (l == 1 || (decide (va.toNat < 2 ^ 55) && decide (va.toNat + n.toNat ≤ 2 ^ 55))) 20
    let lo := if l = 1 then 0 else va.toNat
    let hi := if l = 1 then 2 ^ 55 else va.toNat + n.toNat
    if hi ≤ lo then .ok (s.advance 4)
    else
      let mark := match s.act.memo with
        | .value v _ => v.toNat
        | _ => s.env.nextId
      let t := s.invalidate o.toNat lo hi
      let again (mark : Nat) : State := t.modAct fun a => { a with wait := .retry, memo := .value (BitVec.ofNat 64 mark) false }
      if t.oldEntrySeen mark then .ok (again s.env.nextId)
      else if t.unperformed o.toNat lo hi mark then .ok (again mark)
      else .ok (t.advance 4))

/-- FRPLY: the answer follows everything that the pager's activation issued, at package scope (17 R395). -/
def execFrply (b a : BitVec 5) (s : State) : Host.Outcome State Fault Refusal :=
  run s (do
    s.service
    let t ← s.act.ctlX a
    let v ← s.act.ctlX b
    need (decide (t.toNat < 2 ^ 32)) 3
    need (bits v.toNat 0 8 == 1 || v == 0) 3
    need (decide (v.toNat < 65536)) 3
    s.commits fun s => do
      s.awaitFences
      let after := s.waitsFor s.act (BitVec.allOnes 17) 5
      .ok ((s.fly { id := 0, src := s.act.name, dst := s.act.name, die := dieOf s.act.core, item := .faultReply t.toNat v
                    after := after, scope := 5, aid := s.act.aid }).advance 4))

/-- The cores of a partition. -/
def State.coresOf (s : State) (p : Nat) : List Nat :=
  ((List.range 48).filter (s.part p).spans.getLsbD).flatMap fun k => coresOfSpan (k / 12) (k % 12)

/-- DLOGH (R378): a merge is one step. -/
def execDlogh (a : BitVec 5) (s : State) : Host.Outcome State Fault Refusal :=
  run s (do
    s.service
    let v ← s.act.ctlX a
    need (decide (v.toNat < 64)) 3
    .ok (((s.coresOf v.toNat).foldl (fun s c => s.mergeDirty c) s).advance 4))

/-! ## INJ (R379) -/

/-- The indexes a unit has: stacks, links or bridges; others have one. -/
def unitIndexes (unit : Nat) : Nat := match unit with
  | 0 | 1 => 3
  | 6 => 2
  | 7 => 5
  | _ => 1

/-- A unit armed for a count of checks; 0 disarms it. -/
def State.arm (s : State) (unit index : Nat) (loc count : Word32) : State :=
  let die := bits loc.toNat 18 2
  let l := vget s.logs die
  let rest := l.armed.filter fun t => !(t.1 == unit && t.2.1 == index && t.2.2.1 == loc)
  { s with logs := vset s.logs die { l with armed := if count = 0 then rest else rest ++ [(unit, index, loc, count)] } }

/-- INJ. -/
def execInj (b a : BitVec 5) (s : State) : Host.Outcome State Fault Refusal :=
  run s (do
    s.service
    let u ← s.act.ctlX a
    let n ← s.act.ctlX b
    let unit := bits u.toNat 0 4
    let index := bits u.toNat 4 3
    need (bits u.toNat 7 25 == 0 && decide (unit < 8) && decide (index < unitIndexes unit) && decide (n.toNat < 2 ^ 32)) 3
    s.once 4 0 fun s => .ok ((s.arm unit index (u.extractLsb' 32 32) (n.setWidth 32)).advance 4))

/-! ## MFLIP (R380) and the diagnostic service (15 R360) -/

/-- A flip specification's reserved bits are zero. -/
def flipFormed (v : Word) : Bool := bits v.toNat 29 35 == 0 && !v.getLsbD 23 && !v.getLsbD 15 && bits v.toNat 4 4 == 0

/-- The compute core that a location word names, on this package. -/
def locatedCore (w : Word) : Option Nat :=
  let core := bits w.toNat 9 11
  if bits w.toNat 20 44 = Config.packageNumber.toNat ∧ bits w.toNat 0 9 = 0 ∧ clusterOf core < 48 ∧ coreNo core < 4 then some core else none

/-- MFLIP. -/
def execMflip (a d : BitVec 5) (s : State) : Host.Outcome State Fault Refusal :=
  run s (do
    s.service
    match s.act.memo, s.act.wait with
    | .value v _, _ => s.once 4 d fun s => .ok (s.result 4 d v)
    | _, .flip id => .error (.stall (.flip id))
    | _, _ => do
      let v ← s.act.ctlX a
      let w ← s.act.ctlO 0
      let target ← s.act.ctlO 1
      need (flipFormed v) 3
      s.commits fun s => s.once 4 d fun s =>
        match locatedCore w with
        | none => .ok (s.result 4 d 0)
        | some core => do
          await (s.room core 4)
          let (id, s) := s.fresh
          let e : Entry := { id := id, aid := s.act.aid, actor := s.act.name, job := 0, op := .mflip v target s.act.aid }
          .ok ((s.enqueue core 4 e).modAct fun t => { t with wait := .flip id }))

/-- The diagnostic service. -/
def diagnosticName : Word := mkName 0 2 3 0

/-- A flip request that the service accepts: its sender. One from a pool, or from an actor that is resident on no core, names no
single core, and is discarded as any request that is not accepted; no rule says so (assumption 114). -/
def State.flipFrom (s : State) (m : Msg) : Option Actor :=
  if (s.job? (nameJob m.w1)).any (fun j => j.valid && j.diag) && flipFormed m.w4 && decide (m.w5.toNat < 64) then (if nameKind m.w1 == 1 then none else s.resolve m.w1) else none

/-- FLIP_REQUEST: the request at the head of the service's mailbox. -/
def execFlipRequest (core : Nat) (s : State) : Host.Outcome State Fault Refusal :=
  event s (do
    let a ← s.resolve diagnosticName
    let q ← (a.onCore ++ a.spill).head?
    if a.core ≠ core || msgKind q.msg ≠ 0x0100 || s.allActs.any (fun t => t.name == a.name) then none
    else
      let t := s.pop (.mailbox a.name q)
      match s.flipFrom q.msg with
      | none => some (t.noActor (dieOf core) q.msg).settleLevels
      | some r =>
        let c := (q.msg.w5.toNat)
        if isService r.core then
          some (t.fly { id := 0, src := a.name, dst := r.name, die := dieOf core, item := .cinc c 1, after := [], scope := 2 }).settleLevels
        else if !s.room r.core 4 then none
        else
          let (id, t) := t.fresh
          some (t.enqueue r.core 4 { id := id, aid := 0, actor := a.name, job := 0, op := .mflip q.msg.w4 r.name 0, post := some c }).settleLevels)

/-! ## Partitions (R368, R373 to R375) -/

/-- A set-up that is valid for resume (R371). Minimal mode has no partition (20 R444). -/
def State.setUp (s : State) (p : Nat) : Bool :=
  let t := s.part p
  t.spans != 0 && t.asid != 0 && bits t.spill.toNat 0 39 != 0 && !s.boot.minimal && decide (p < 48)

/-- A logical core number given to each core (01 R18). -/
def numbered (l : List Nat) (base : Nat) : List (Nat × Half) := l.zipIdx.map fun t => (t.1, BitVec.ofNat 16 (base + t.2))

/-- A core's counters are zeroed; what waits on them examines the zero too (11 R305). -/
def State.zeroCounters (s : State) (core : Nat) : State :=
  (s.core core).counters.foldl (fun s c => s.setCounter core c.1 0) s

/-- The cores of a free partition are made its own. -/
def State.takeCores (s : State) (p : Nat) : State :=
  let l := s.coresOf p
  let own := numbered (l.filter fun c => !isService c) 0 ++ numbered (l.filter isService) 0x8000
  own.foldl (fun s t =>
    let word (c : Core) : BitVec 8 :=
      if (s.residentNumbers t.1).isEmpty then Config.partitionWord (s.part p).asid.toNat t.2.toNat else c.word
    (s.zeroCounters t.1).modCore t.1 fun c => { c with part := some p, lcore := t.2, word := word c, restored := false }) s

/-- PREEMPT resume: the state, and xd. -/
def State.resumePart (s : State) (p : Nat) : State × Word :=
  let run (s : State) : State := s.modPart p fun t => { t with state := 1 }
  if s.boot.minimal then (s, 1)
  else if (s.part p).state = 3 then (run s, 0)
  else if (s.part p).state = 0 && s.setUp p then (run (s.takeCores p), 0)
  else (s, 1)

/-- PREEMPT_RESUME. -/
def execPreemptResume (a d : BitVec 5) (s : State) : Host.Outcome State Fault Refusal :=
  run s (do
    s.service
    let v ← s.act.ctlX a
    need (decide (v.toNat < 64)) 3
    s.commits fun s => s.once 4 d fun s =>
      let r := s.resumePart v.toNat
      .ok (r.1.result 4 d r.2))

/-- Jobs of a partition. -/
def State.inPart (s : State) (job : Half) (p : Nat) : Bool := s.partOfJob job == some p

/-- The partition's pre-commit activations, but for a mirrored child's runs that have agreed (03 R86). -/
def State.stoppable (s : State) (p : Nat) : List Act :=
  s.allActs.filter fun a => s.inPart a.job p && !a.committed && a.memo != .agreed

/-- Step 2 of a stop: pre-commit activations are pre-empted. -/
def State.stopActs (s : State) (p : Nat) : State :=
  (s.stoppable p).foldl (fun s a => match s.allActs.find? fun t => t.aid == a.aid with
    | some v => s.preempt v
    | none => s) s

/-- The entries at the heads of the queues of a partition's cores, each with its core. -/
def State.headsOf (s : State) (p : Nat) : List (Nat × Entry) :=
  (s.coresOf p).flatMap fun c => (List.range 7).filterMap fun q => (s.head c q).map fun e => (c, e)
/-- An MMAS that waits for a rendezvous which has not formed. -/
def State.waitsForOthers (s : State) (core : Nat) (e : Entry) : Bool := e.op.span.isSome && !e.started && !s.mayGoOn core e
/-- Step 4, once step 3 is over and nothing is left at the heads but such MMAS entries: they are removed (10 R277). -/
def State.dropWaiting (s : State) (p : Nat) : State :=
  let ids := ((s.headsOf p).filter fun t => s.waitsForOthers t.1 t.2).map (·.2.id)
  (s.dropEntries fun e => ids.contains e.id).sweepTiles

/-- PREEMPT_STOP: the A-stream waits for the last step. -/
def execPreemptStop (a d : BitVec 5) (s : State) : Host.Outcome State Fault Refusal :=
  run s (do
    s.service
    match s.act.memo, s.act.wait with
    | .value v _, _ => s.once 4 d fun s => .ok (s.result 4 d v)
    | _, .stop p => .error (.stall (.stop p))
    | _, _ => do
      let v ← s.act.ctlX a
      need (decide (v.toNat < 64)) 3
      s.commits fun s => s.once 4 d fun s =>
        let p := v.toNat
        if (s.part p).state ≠ 1 then .ok (s.result 4 d 1)
        else
          let t := (s.modPart p fun t => { t with state := 2, stoppers := [s.act.aid] }).stopActs p
          .ok (t.modAct fun a => { a with wait := .stop p }))

/-- What a stop still waits for: activations, entries, effects and pieces on their way. -/
def State.busy (s : State) (p : Nat) : Bool :=
  let mine (n : Word) : Bool := s.inPart (nameJob n) p
  s.allActs.any (fun a => mine a.name) || (s.coresOf p).any (fun c => !(s.queued c).isEmpty) || s.wire.tails.any (fun t => mine t.act.name) ||
  s.wire.deferred.any (fun d => mine d.who.name) ||
  s.wire.flights.any fun f => (match f.item with
    | .pushSector _ _ _ _ _ _ _ _ | .pushrSector _ _ _ _ _ _ _ => mine f.src
    | _ => false)

/-- The last step of a stop: dirty logs are merged (17 R399) and those that wait are answered. -/
def State.stopDone (s : State) (p : Nat) : State :=
  let s := (s.coresOf p).foldl (fun s c => s.mergeDirty c) s
  let waiting := (s.part p).stoppers
  let s := s.modPart p fun t => { t with state := 3, stoppers := [] }
  waiting.foldl (fun s aid => s.modAid aid fun a => if a.wait == .stop p then { a with memo := .value 0 false, wait := .none } else a) s

/-- PARTITION_STOP_COMPLETE: an activation that can now be pre-empted is; MMAS entries left waiting are removed; or the last
step. -/
def execPartitionStopComplete (part : Nat) (s : State) : Host.Outcome State Fault Refusal :=
  event s (
    if (s.part part).state ≠ 2 then none
    else if !(s.stoppable part).isEmpty then some (s.stopActs part)
    else if !s.allActs.any (fun a => s.inPart a.job part) && !(s.headsOf part).isEmpty &&
        (s.headsOf part).all (fun t => s.waitsForOthers t.1 t.2) then some (s.dropWaiting part)
    else if s.busy part then none
    else some (s.stopDone part))

/-! ### Clearing -/

/-- The bytes and poison of a place's regions. -/
def State.regionBytes (s : State) (i core : Nat) (regions : Vector Region 8) : List (Nat × Nat × List (Byte × Bool)) :=
  ((List.range 8).filter fun k => (vget regions k).state != .empty).map fun k =>
    let r := vget regions k
    (i, k, (spanNats (poolKey core r.offset) r.size).map fun x => (look 0 s.mem.cells x, s.mem.poisonSectors.contains (x / 32)))

/-- What Calico keeps of places (R375): logical cores, region slots and bytes, counters and armed ports. -/
def State.save (s : State) (name : Word) (places : List (Nat × Nat × Vector Region 8)) : Saved :=
  let num (c : Nat) : Half := (s.core c).lcore
  { places := places.map fun t => (num t.1, t.2.1, t.2.2)
    bytes := places.zipIdx.flatMap fun t => s.regionBytes t.2 t.1.1 t.1.2.2
    counters := places.map fun t => (num t.1, (s.core t.1).counters)
    ports := places.flatMap fun t => ((s.core t.1).ports.filter fun p => p.actor == name).map fun p => (num t.1, p) }

/-- Places kept for children lie on cores that are taken away: they are chosen anew. -/
def SupRec.letGo (r : SupRec) : SupRec := { r with children := r.children.map fun c => { c with rooms := [], copied := [] } }

/-- An actor saved and taken off its cores. -/
def State.saveActor (s : State) (a : Actor) : Actor :=
  let places := (a.core, a.resident, a.regions) :: a.mirror.map fun m => (m.core, m.resident, m.regions)
  { a with life := .saved, saved := s.save a.name places, record := a.record.map SupRec.letGo, regions := Vector.replicate 8 {}, onCore := [], spill := a.onCore ++ a.spill
           mirror := a.mirror.map fun m => { m with regions := Vector.replicate 8 {} } }
def State.savePool (s : State) (p : Pool) : Pool :=
  { p with life := .saved, saved := s.save p.name (p.members.map fun m => (m.core, m.resident, m.regions)), members := []
           record := p.record.map SupRec.letGo }

/-- A core of a cleared partition: its pool, counters, ports, weight buffers and on-core mailbox storage are zero, whoever had
them (assumption 103). -/
def State.clearCore (s : State) (core : Nat) : State :=
  let lo := poolKey core 0
  let mine (k : Nat) : Bool := decide (lo ≤ k) && decide (k < lo + 2 ^ 24)
  let m := { s.mem with cells := s.mem.cells.filter fun c => !mine c.1, poisonSectors := s.mem.poisonSectors.filter fun k => !mine (k * 32) }
  let used := !(s.regionsAt 0 core).isEmpty
  let boxes := mapIf (fun a : Actor => a.core == core && a.life != .saved) (fun a => { a with onCore := [] }) s.dir.actors
  ({ s with mem := m, dir := { s.dir with actors := boxes } }.zeroCounters core).modCore core fun c =>
    { c with restored := false, ports := [], bufs := [], part := none, lcore := 0, word := if used then c.word else 0 }

/-- PREEMPT clear: the state, and xd. The count of p.replays begins again (R370). -/
def State.clearPart (s : State) (p : Nat) : State × Word :=
  if (s.part p).state ≠ 3 then (s, 1)
  else
    let actors := mapIf (fun a => s.inPart a.job p && a.life == .live) s.saveActor s.dir.actors
    let pools := mapIf (fun q => s.inPart q.job p && q.life == .live) s.savePool s.dir.pools
    let t := { s with dir := { s.dir with actors := actors, pools := pools } }
    let t := (s.coresOf p).foldl State.clearCore t
    (t.modPart p fun v => { v with state := 0, replays := 0 }, 0)

/-- PREEMPT_CLEAR. -/
def execPreemptClear (a d : BitVec 5) (s : State) : Host.Outcome State Fault Refusal :=
  run s (do
    s.service
    let v ← s.act.ctlX a
    need (decide (v.toNat < 64)) 3
    s.commits fun s => s.once 4 d fun s =>
      let r := s.clearPart v.toNat
      .ok (r.1.result 4 d r.2))

/-! ## HALT (R381) -/

/-- HALT: the ordered stop, and on request a warm reset. -/
def execHalt (a : BitVec 5) (s : State) : Host.Outcome State Fault Refusal :=
  run s (do
    s.service
    let v ← s.act.ctlX a
    need (decide (v.toNat < 2)) 3
    .ok (if v = 1 then s.haltSteps.warmReset else s.haltSteps))

/-! ## The patrol scrubber (18 R406) -/

/-- Lines of a stack: 64 × 10^9 bytes (00 R6). -/
def stackLines : Nat := 1000000000

/-- A pass of the scrubber takes its period: the next begins when the last one's is over. -/
def Mem.passDue (m : Mem) (k time : Nat) : Bool :=
  decide (look 0 m.scrub k ≠ 0) || (match look? m.scrubStart k with
    | some t => decide (t + m.scrubHours * 3600000000000 ≤ time)
    | none => true)

/-- PATROL_SCRUB_READ: the next line of a stack is read. -/
def execPatrolScrubRead (die stack : Nat) (s : State) : Host.Outcome State Fault Refusal :=
  event s (
    let k := die * 3 + stack
    if 4 ≤ die || 3 ≤ stack || s.boot.steps < 4 || (s.boot.minimal && !(die == 0 && stack == 0 && s.boot.hbm)) || !s.mem.passDue k s.env.time then none
    else
      let pos := look 0 s.mem.scrub k
      let line := (die * 4 + stack) * 2 ^ 30 + pos
      let t := s.settle (line * 64) 64
      let start := if pos = 0 then put? k s.env.time t.mem.scrubStart else t.mem.scrubStart
      some { t with mem := { t.mem with scrub := put 0 k ((pos + 1) % stackLines) t.mem.scrub, scrubStart := start } })

end Sys2Proof.Machine
end

