-- ==== Sys2Proof/Machine/Links.lean ====
section
/-! DEFINITION. Traox links: sending, receiving, replay, liveness, what transactions do at the other end, lost dies and
packages, and requests left unanswered (03 R76, R77; 19 R424 to R437). -/

namespace Sys2Proof.Machine

def linkDie (n : Nat) : Nat := n / 5

/-! ## Transactions delivered (19 R427, R428) -/

/-- An access under a key id with no key bound (18 R420). -/
def State.keyFault (s : State) (die : Nat) : State :=
  s.note { die := die, cls := 8, unit := 10, location := location (die * 512), reason := 20 }

/-- A sector of a write merged at the home die of its line, bit by bit. -/
def State.mergeSector (s : State) (gen addr : Nat) (w : WSector) : State :=
  let old := (spanNats addr w.bytes.length).map (s.mem.plain (homeDie addr) gen)
  let bs := (w.bytes.zip old).zipIdx.map fun t =>
    let m := w.mask.extractLsb' (8 * t.2) 8
    (t.1.1 &&& m) ||| (t.1.2 &&& ~~~m)
  if w.mask = BitVec.allOnes 256 ∧ w.bytes.length = 32 then s.writeNow gen addr w.bytes w.poison
  else
    -- bytes before the first and after the last that are written keep their places
    let lead := ((List.range bs.length).find? fun k => w.mask.extractLsb' (8 * k) 8 != 0).getD bs.length
    let tail := ((List.range bs.length).reverse.find? fun k => w.mask.extractLsb' (8 * k) 8 != 0).map (· + 1)
    s.writeNow gen (addr + lead) ((bs.take (tail.getD 0)).drop lead) w.poison

/-- A sector of a write, of an operation of a number: both halves of a line written whole and clean leave it clean (18 R405,
R412). -/
def State.putSector (s : State) (gen addr op : Nat) (w : WSector) : State :=
  let t := s.mergeSector gen addr w
  if w.mask = BitVec.allOnes 256 ∧ w.bytes.length = 32 ∧ w.poison = false then { t with mem := t.mem.wholeHalf addr op } else t

/-- A remote write from a package performed here, and acknowledged. -/
def State.remoteWrite (s : State) (pkg addr : Nat) (key : Byte) (sectors : List WSector) (src seq : Nat) : State :=
  match s.keyGen (homeDie addr) key with
  | .error _ => (s.keyFault (homeDie addr)).transmit pkg (.denied 6 src seq)
  | .ok gen =>
    let (op, s) := s.fresh
    (sectors.zipIdx.foldl (fun s t => (s.repair (addr + 32 * t.2) 32).putSector gen (addr + 32 * t.2) op t.1) s).transmit pkg (.ack [(src, seq)])

/-- A remote read served. -/
def State.remoteRead (s : State) (pkg addr : Nat) (key : Byte) (len src seq : Nat) : State :=
  match (s.repair addr len).readHbm (homeDie addr) key addr len with
  | .ok (bs, poison, t) => t.transmit pkg (.readResponse src seq bs poison)
  | .error _ => (s.keyFault (homeDie addr)).transmit pkg (.denied 3 src seq)

/-- A remote atomic performed at its home die. A CAS that finds poison writes nothing. -/
def State.remoteAtomic (s : State) (pkg addr : Nat) (key : Byte) (op : BitVec 3) (narrow : Bool) (v c : Word) (src seq : Nat) : State :=
  let w := if narrow then 32 else 64
  let s := s.repair addr (w / 8)
  match s.readHbm (homeDie addr) key addr (w / 8), s.keyGen (homeDie addr) key with
  | .ok (bs, poison, t), .ok gen =>
    let old := leNat bs
    let t := match amoValue op w old (v.toNat % 2 ^ w) (c.toNat % 2 ^ w) with
      | some new => if op = 7 && poison then t else t.writeNow gen addr (leBytes (w / 8) new) (poison && op != 0)
      | none => t
    t.transmit pkg (if poison then .readResponse src seq (leBytes (w / 8) old) true else .atomicResponse src seq (BitVec.ofNat 64 old))
  | _, _ => (s.keyFault (homeDie addr)).transmit pkg (.denied 5 src seq)

/-- A CAS whose answer says that it wrote is logged then (17 R398). -/
def State.logAnswer (s : State) (r : RemoteReq) (bs : List Byte) : State :=
  match r.logs with
  | some e => if r.answer.isNone && (r.compare.all fun c => leNat (bs.take r.len) == c) then s.appendDirty r.core e else s
  | none => s

/-- A request that found no key bound where it went: its issuer is killed with 20 (18 R420). A load performed ahead is made again
when its turn comes. -/
def State.denied (s : State) (seq : Nat) : State :=
  match s.links.remote.find? fun r => r.id == seq with
  | none => s
  | some r => if r.entry == earlyEntry then s.dropRemote seq else (s.dropRemote seq).killAnyway r.actor 20

/-- An answer for a request that waits; a late one is discarded (19 R425). -/
def State.answered (s : State) (seq : Nat) (bs : List Byte) (poison : Bool) : State :=
  match s.links.remote.find? fun r => r.id == seq with
  | none => s
  | some r =>
    let s := s.logAnswer r bs
    if r.store && r.entry.isNone then
      let job := nameJob r.actor
      let poisoned : Note := { die := dieOf r.core, cls := 2, unit := 3, location := location r.core, reason := 10
                               part := s.partOf? job r.core, asid := BitVec.ofNat 16 (s.asidOf job r.core) }
      if r.cas && poison then ((s.dropRemote seq).note poisoned).killAnyway r.actor 10 else s.dropRemote seq
    else
      let set (t : RemoteReq) : RemoteReq := if t.id == seq && t.answer.isNone then { t with answer := some (bs, poison) } else t
      { s with links := { s.links with remote := s.links.remote.map set } }

/-- A heartbeat of a peer that is not lost. -/
def State.heard (s : State) (pkg : Nat) : State :=
  if s.lostPackage pkg then s
  else { s with links := { s.links with peers := (s.links.peers.filter fun p => p.1 != pkg) ++ [(pkg, s.env.time, false)] } }

/-- What a message from another package is here: EXIT and DOWN carry signals (assumption 34). -/
def arrived (m : Msg) : Item :=
  if msgKind m = 0xFF01 then .exitSignal (m.w4.toNat % 65536) m.w5
  else if msgKind m = 0xFF02 ∧ m.w6 ≠ 0 then .down (m.w4.toNat % 65536) m.w5 (m.w6.setWidth 32)
  else .msg m

/-- A transaction of a package delivered on a link. -/
def State.deliverTx (s : State) (n pkg : Nat) : Transaction → State
  | .write addr key sectors src seq => s.remoteWrite pkg addr key sectors src seq
  | .readRequest addr key len src seq => s.remoteRead pkg addr key len src seq
  | .readResponse _ seq bs poison => s.answered seq bs poison
  | .atomic addr key op narrow v c _ _ src seq => s.remoteAtomic pkg addr key op narrow v c src seq
  | .atomicResponse _ seq old => s.answered seq (leBytes 8 old.toNat) false
  | .ack ws => ws.foldl (fun s w => s.answered w.2 [] false) s
  | .messages ms => ms.foldl (fun s m => s.fly { id := 0, src := m.w1, dst := m.w0, die := linkDie n, item := arrived m, epoch := m.epoch }) s
  | .counterInc name c v => s.fly { id := 0, src := name, dst := name, die := linkDie n, item := .cinc c.toNat v }
  | .launchDone name c => s.fly { id := 0, src := name, dst := name, die := linkDie n, item := .launchDone 0 c.toNat 0 }
  | .heartbeat p _ => s.heard p
  | .denied _ _ seq => s.denied seq
  | .never => s

/-! ## Flits (19 R426, R427) -/

/-- The kind that a transaction's header names in bits [63:60]. -/
def txKind : Transaction → Nat
  | .write _ _ _ _ _ => 1
  | .readRequest _ _ _ _ _ => 2
  | .readResponse _ _ _ _ => 3
  | .atomic _ _ _ _ _ _ _ _ _ _ => 4
  | .atomicResponse _ _ _ => 5
  | .ack _ => 6
  | .messages _ => 7
  | .counterInc _ _ _ | .launchDone _ _ => 8
  | .heartbeat _ _ => 9
  | .denied k _ _ => k
  | .never => 0

def sectorFields (w : WSector) : List Nat := w.bytes.map (·.toNat) ++ [w.mask.toNat, w.poison.toNat]
/-- A message's words and poison, its phase epoch, its launch identity and its grant. -/
def msgFields (m : Msg) : List Nat :=
  [m.w0, m.w1, m.w2, m.w3, m.w4, m.w5, m.w6, m.w7].map (·.toNat) ++ [m.poison.toNat, m.epoch.toNat] ++
  (match m.launch with
   | none => []
   | some i => [i.num.toNat, i.x.toNat, i.y.toNat, i.z.toNat, i.gx.toNat, i.gy.toNat, i.gz.toNat, i.extM.toNat, i.extN.toNat, i.extK.toNat]) ++
  (match m.grant with
   | none => []
   | some g => g.bytes.map (·.toNat) ++ g.poison)
/-- What a transaction carries, one field after another (R427); the sending die lays the fields out. -/
def txFields : Transaction → List Nat
  | .write a k ws src seq => [a, k.toNat, src, seq] ++ ws.flatMap sectorFields
  | .readRequest a k len src seq => [a, k.toNat, len, src, seq]
  | .readResponse src seq bs p => [src, seq, p.toNat] ++ bs.map (·.toNat)
  | .atomic a k op narrow v c order scope src seq => [a, k.toNat, op.toNat, narrow.toNat, v.toNat, c.toNat, order.toNat, scope, src, seq]
  | .atomicResponse src seq old => [src, seq, old.toNat]
  | .ack ws => ws.flatMap fun w => [w.1, w.2]
  | .messages ms => ms.flatMap msgFields
  | .counterInc n c v => [n.toNat, c.toNat, v.toNat]
  | .launchDone n c => [n.toNat, c.toNat]
  | .heartbeat p time => [p, time]
  | .denied k src seq => [k, src, seq]
  | .never => []

/-- The 232 bytes of a flit's plaintext. -/
def plainBytes : Plain → List Byte
  | .zero => List.replicate 232 0
  | .marker slot => sized 232 (leBytes 1 slot.toNat)
  | .data src dst t =>
    let fields := [src, dst] ++ txFields t
    leBytes 8 (txKind t * 2 ^ 60 + Config.txHeader fields % 2 ^ 60) ++ sized 224 (Config.txBytes fields)

/-- A flit's header of 8 bytes, in clear. -/
def flitHeader (f : Flit) : Word :=
  at_ f.seq 48 ||| at_ f.ack 32 ||| at_ f.nak 16 ||| flagAt f.nakv 15 ||| flagAt f.slot 14 ||| at_ f.type 11

/-- The 256 bytes that leave: header, ciphertext and tag, under the link's key and the IV of salt and counter (assumption 51). -/
def SentFlit.bytes (f : SentFlit) (link : Nat) : List Byte :=
  let head := leBytes 8 (flitHeader f.flit).toNat
  let key := (sized 32 (Config.linkKey link f.salt f.generation)).map (·.toNat)
  let iv := ((leBytes 4 f.salt.toNat).reverse ++ (leBytes 8 f.counter.toNat).reverse).map (·.toNat)
  head ++ (gcmSeal key iv (head.map (·.toNat)) ((plainBytes f.flit.plain).map (·.toNat))).map (BitVec.ofNat 8)

/-! ## Sending (19 R426, R430, R431) -/

/-- The live slot of the transmit direction. -/
def Link.live (l : Link) : Bool := vget l.tx 1 == 2

/-- A flit as a link sends it now. -/
def Link.flit (l : Link) (seq : Half) (type : BitVec 3) (plain : Plain) : Flit :=
  { seq := seq, ack := l.rxnext, nak := 0, nakv := false, slot := l.live, type := type, plain := plain, authentic := true }

/-- A flit leaves: it takes the invocation counter. -/
def Link.send (l : Link) (f : Flit) (time : Nat) : Link :=
  { l with last := some { flit := f, counter := l.txctr, salt := l.txsalt, generation := l.txgen }, txctr := l.txctr + 1, lastSent := time }
/-- A control flit: the acknowledgement alone, or with a NAK of the lowest number missing; its sequence number is txnext. -/
def Link.control (l : Link) (nakv : Bool) : Flit := { l.flit l.txnext 2 .zero with nakv := nakv, nak := if nakv then l.rxnext else 0 }

/-- At the threshold: the marker goes out and the pending slot becomes live; or, with none pending, the link waits for its
key. With a full replay buffer no marker is sent yet. -/
def Link.rekey (l : Link) (time : Nat) : Link :=
  let k := if l.live then 0 else 1
  if vget l.tx k ≠ 1 then { l with keywait := true }
  else if 512 ≤ l.replay.length then l
  else
    let f := l.flit l.txnext 1 (.marker (k == 1))
    let u := l.send f time
    { u with replay := u.replay ++ [f], txnext := u.txnext + 1, tx := vset (vset u.tx k 2) (1 - k) 0, txgen := u.txgen + 1, txctr := 0 }

def Link.due (l : Link) : Bool := decide (l.thr.toNat ≤ l.txctr.toNat)
/-- The threshold is reached, and the marker that is due cannot leave yet. -/
def Link.markerStalls (l : Link) : Bool := decide (512 ≤ l.replay.length) && vget l.tx (if l.live then 0 else 1) == 1

/-- FLIT_TRANSMIT: the oldest waiting transaction leaves, or first the marker. When none can, a control flit leaves, which waits
for no key (R430; assumption 51). -/
def execFlitTransmit (link : Nat) (s : State) : Host.Outcome State Fault Refusal :=
  event s (
    let l := s.link link
    let ackOnly := some (s.modLink link fun l => l.send (l.control false) s.env.time)
    if 20 ≤ link || l.state ≠ 2 then none
    else match l.out with
    | [] => ackOnly
    | (pkg, t) :: rest =>
      if l.keywait then ackOnly
      else if l.due then (if l.markerStalls then ackOnly else some (s.modLink link fun l => l.rekey s.env.time))
      else if 512 ≤ l.replay.length then ackOnly
      else some ((s.firstSent t).modLink link fun l =>
        let f := l.flit l.txnext 0 (.data Config.packageNumber.toNat pkg t)
        { l.send f s.env.time with replay := l.replay ++ [f], txnext := l.txnext + 1, out := rest }))

/-- IDLE_FLIT_TIMER: an idle flit after 100 µs without any. -/
def execIdleFlitTimer (link : Nat) (s : State) : Host.Outcome State Fault Refusal :=
  event s (
    let l := s.link link
    if 20 ≤ link || l.state ≠ 2 || l.keywait || s.env.time < l.lastSent + 100000 then none
    else if l.due then (if l.markerStalls then none else some (s.modLink link fun l => l.rekey s.env.time))
    else some (s.modLink link fun l => l.send (l.flit l.txnext 3 .zero) s.env.time))

/-! ## A link down (19 R433) -/

/-- What a link still owes: transactions not acknowledged, in sequence order, and those still to leave. -/
def Link.owed (l : Link) : List (Nat × Transaction) :=
  (l.replay.filterMap fun f => match f.plain with
    | .data _ dst t => some (dst, t)
    | _ => none) ++ l.out

/-- A link goes down: its slots and replay buffer are cleared, and each transaction it owes leaves on another link that reaches
the same package, or waits for one. -/
def State.linkDown (s : State) (n : Nat) : State :=
  let owed := (s.link n).owed
  let s := s.note { die := linkDie n, cls := 10, unit := 7, location := location (linkDie n * 512) }
  let s := s.modLink n fun l =>
    { l with state := 0, keywait := false, tx := Vector.replicate 2 0, rx := Vector.replicate 2 0, replay := [], held := [], out := [] }
  owed.foldl (fun s t => s.transmit t.1 t.2) s

/-- LINK_VERIFY_TIMEOUT: no flit has verified for 300 µs. -/
def execLinkVerifyTimeout (link : Nat) (s : State) : Host.Outcome State Fault Refusal :=
  event s (
    if link < 20 ∧ (s.link link).state = 2 ∧ (s.link link).lastVerified + 300000 ≤ s.env.time then some (s.linkDown link) else none)

/-- Transactions that waited for a route are sent, where there is one now. -/
def State.sendWaiting (s : State) : State :=
  s.links.waiting.foldl (fun s t => s.transmit t.1 t.2) { s with links := { s.links with waiting := [] } }

/-- LINK_TRAINING_COMPLETE: generation 0 keys and the new salts; the package at the other end has rejoined. -/
def execLinkTrainingComplete (link pkg : Nat) (txsalt rxsalt : Word32) (s : State) : Host.Outcome State Fault Refusal :=
  event s (
    let l := s.link link
    if 20 ≤ link || l.state == 2 || s.boot.minimal || s.boot.steps < 5 then none
    else
      let peer := if pkg < 4096 then some pkg else none
      let up : Link := { state := 2, err := l.err, thr := l.thr, tx := #v[2, 0], rx := #v[2, 0], failTotal := l.failTotal, rxsalt := rxsalt
                         txsalt := txsalt, out := l.out, peer := peer, lastSent := s.env.time, lastVerified := s.env.time }
      let s := s.modLink link fun _ => up
      let heard (p : Nat) : List (Nat × Nat × Bool) := (s.links.peers.filter fun t => t.1 != p) ++ [(p, s.env.time, false)]
      let s := match peer with
        | some p => { s with links := { s.links with peers := heard p } }
        | none => s
      some s.sendWaiting)

/-! ## Receiving (19 R429, R432) -/

/-- A sequence number's place against the next that is missing. -/
def ahead (seq rxnext : Half) : Nat := (seq - rxnext).toNat
def inWindow (f : Flit) (rxnext : Half) : Bool :=
  f.type == 3 || decide (ahead f.seq rxnext < 512) || decide (2 ^ 16 - 512 ≤ ahead f.seq rxnext) || (f.type == 2 && ahead f.seq rxnext == 512)

/-- A flit that fails at the receiver. -/
def Link.refuses (l : Link) (f : Flit) : Bool :=
  vget l.rx f.slot.toNat == 0 || !f.authentic || decide (4 ≤ f.type.toNat) || !inWindow f l.rxnext ||
  (match f.type.toNat, f.plain with
   | 0, .data _ _ .never => true
   | 0, .data _ _ _ => false
   | 0, _ => true
   | 1, .marker _ => false
   | 1, _ => true
   | _, _ => false)

/-- A failure counted. -/
def Link.fails (l : Link) : Link :=
  { l with failTotal := if l.failTotal = 0xFFFFFFFF then l.failTotal else l.failTotal + 1
           failRun := if 8 ≤ l.failRun.toNat then l.failRun else l.failRun + 1 }
/-- A flit that fails: counted, and where the link is up answered with a NAK of the lowest number missing; the eighth in a row
takes it down. -/
def State.flitFails (s : State) (n : Nat) : State :=
  let s := s.note { die := linkDie n, cls := 9, unit := 7, location := location (linkDie n * 512) }
  let s := s.modLink n Link.fails
  if (s.link n).state ≠ 2 then s
  else
    let s := s.modLink n fun l => l.send (l.control true) s.env.time
    if (s.link n).failRun = 8 then s.linkDown n else s

/-- A verified flit's slot, acknowledgement and NAK: the named flit is sent again with its own number. -/
def Link.accepts (l : Link) (f : Flit) (time : Nat) : Link :=
  let k := f.slot.toNat
  let l := { l with failRun := 0, lastVerified := time }
  let l := if vget l.rx k = 1 then { l with rx := vset (vset l.rx k 2) (1 - k) 0, rxgen := l.rxgen + 1 } else l
  let covered := (f.ack - l.txold).toNat
  let l := if covered ≤ (l.txnext - l.txold).toNat then { l with txold := f.ack, replay := l.replay.drop covered } else l
  if f.nakv then
    match l.replay.find? fun g => g.seq == f.nak with
    | some g => l.send { g with ack := l.rxnext, slot := l.live } time
    | none => l
  else l

/-- Held flits delivered while they are consecutive. -/
def State.deliverHeld (n : Nat) : Nat → State → State
  | 0, s => s
  | fuel + 1, s =>
    let l := s.link n
    match l.held.find? fun f => f.seq == l.rxnext with
    | none => s
    | some f =>
      let s := s.modLink n fun l => { l with rxnext := l.rxnext + 1, held := l.held.filter fun g => g.seq != f.seq }
      let s := match f.plain with
        | .data src _ t => if s.lostPackage src then s else s.deliverTx n src t
        | _ => s
      State.deliverHeld n fuel s

/-- A flit at the receiver (R432). A fenced link discards it (R434); on one that is not up both slots are empty, and it fails. -/
def State.takeFlit (s : State) (n : Nat) (f : Flit) : Option State :=
  if 20 ≤ n then none
  else if (s.link n).state = 3 then some s
  else
    if (s.link n).state ≠ 2 || (s.link n).refuses f then some (s.flitFails n)
    else
      let s := s.inject (linkDie n * 512) 7 (n % 5)
      let s := s.modLink n fun l => l.accepts f s.env.time
      let l := s.link n
      let fresh := (f.type == 0 || f.type == 1) && decide (ahead f.seq l.rxnext < 512) && !l.held.any fun g => g.seq == f.seq
      let s := if fresh then s.modLink n fun l => { l with held := l.held ++ [f] } else s
      some (State.deliverHeld n (s.link n).held.length s)

/-- DATA_FLIT; and flits of the types that are never sent, which fail. -/
def execDataFlit (link : Nat) (f : Flit) (s : State) : Host.Outcome State Fault Refusal :=
  event s (if f.type == 0 || decide (4 ≤ f.type.toNat) then s.takeFlit link f else none)
/-- MARKER. -/
def execMarker (link : Nat) (f : Flit) (s : State) : Host.Outcome State Fault Refusal :=
  event s (if f.type == 1 then s.takeFlit link f else none)
/-- CONTROL_FLIT. -/
def execControlFlit (link : Nat) (f : Flit) (s : State) : Host.Outcome State Fault Refusal :=
  event s (if f.type == 2 then s.takeFlit link f else none)
/-- IDLE_FLIT. -/
def execIdleFlit (link : Nat) (f : Flit) (s : State) : Host.Outcome State Fault Refusal :=
  event s (if f.type == 3 then s.takeFlit link f else none)

/-! ## Liveness (19 R434) -/

/-- The packages that exchange heartbeats with this one. -/
def State.peersOf (s : State) : List Nat :=
  (domainPackages ++ (s.parts.jobs.filter (·.valid)).flatMap fun j => Config.jobPackages j.id).eraseDups.filter fun p =>
    p != Config.packageNumber.toNat

/-- HEARTBEAT_SEND: every 100 µs. -/
def execHeartbeatSend (pkg : Nat) (s : State) : Host.Outcome State Fault Refusal :=
  event s (
    let due := match s.links.lastBeat.find? fun t => t.1 == pkg with
      | some t => decide (t.2 + 100000 ≤ s.env.time)
      | none => true
    if !s.peersOf.contains pkg || !due then none
    else
      let beats := (s.links.lastBeat.filter fun t => t.1 != pkg) ++ [(pkg, s.env.time)]
      -- a peer that has not been heard yet is missed from its first heartbeat's time on
      let peers := if s.links.peers.any fun t => t.1 == pkg then s.links.peers else s.links.peers ++ [(pkg, s.env.time, false)]
      some ({ s with links := { s.links with lastBeat := beats, peers := peers } }.transmit pkg (.heartbeat Config.packageNumber.toNat s.env.time)))

/-- The signals of every link and monitor entry here that points at an actor of a lost package (03 R77): its exit, with reason
8 and an unknown dropped count. Entries of watchers there are removed. -/
def State.signalLost (s : State) (pkg : Nat) (owner : Word) (die : Nat) (l : List LinkEntry) : State :=
  (l.filter fun e => s.elsewhere e.partner == some pkg).foldl (fun s e =>
    let send (i : Item) : State := s.fly { id := 0, src := e.partner, dst := owner, die := die, item := i }
    match e.type with
    | .link => send (.exitSignal 8 0xFFFFFFFFFFFFFFFF)
    | .monitor => send (.down 8 0xFFFFFFFFFFFFFFFF e.ref)
    | .monitored => s.modLinks owner (dropEntry e.partner .monitored (some e.ref))) s

/-- Messages for a lost package are discarded, with NOACTOR to each sender that asked for it (03 R77). -/
def State.discardTx (s : State) (l : List Transaction) : State :=
  l.foldl (fun s t => match t with
    | .messages ms => ms.foldl (fun s m => s.noActor 0 m) s
    | _ => s) s

/-- What waits to leave for a lost package, and what links to it have not had acknowledged, is discarded. Links that reach it
directly are fenced, whatever their state (19 R434). -/
def State.cutOff (s : State) (pkg : Nat) : State :=
  let owed := (s.links.links.toList.flatMap Link.owed ++ s.links.waiting).filter fun (t : Nat × Transaction) => t.1 == pkg
  let cut (l : Link) : Link :=
    let l := { l with out := l.out.filter fun t => t.1 != pkg }
    if l.peer == some pkg then { l with state := 3, keywait := false, out := [], replay := [], held := [] } else l
  let links := { s.links with links := s.links.links.map cut, waiting := s.links.waiting.filter fun t => t.1 != pkg }
  ({ s with links := links } : State).discardTx (owed.map (·.2))

/-- What the shard had learnt of a lost package: names located there lead to their homes again, with what was held for them
discarded; what waited for its confirmation leaves (19 R435, R436). -/
def State.forget (s : State) (pkg : Nat) : State :=
  let there := s.dir.remote.filter fun t => t.pkg == pkg
  let due := s.dir.remote.filter fun t => t.pkg != pkg && t.from_ == some pkg
  let s := { s with dir := { s.dir with remote := s.dir.remote.filter fun t => t.pkg != pkg } }
  let s := due.foldl (fun s t => s.confirm (mkName t.job 0 t.index 0)) s
  s.discardTx (there.map fun t => .messages t.held)

/-- What a package's loss means here: its actors are treated as having exited with reason 8 (03 R75, R77). -/
def State.losePackage (s : State) (pkg : Nat) : State :=
  let s := s.dir.actors.foldl (fun s a => s.signalLost pkg a.name (dieOf a.core) a.links) s
  let s := s.dir.pools.foldl (fun s p => s.signalLost pkg p.name (((p.members.head?).map fun m => dieOf m.core).getD 0) p.links) s
  (s.cutOff pkg).forget pkg

/-- PACKAGE_HEARTBEAT_LOSS: three heartbeats missed. -/
def execPackageHeartbeatLoss (pkg : Nat) (s : State) : Host.Outcome State Fault Refusal :=
  event s (do
    let p ← s.links.peers.find? fun p => p.1 == pkg
    if p.2.2 || s.env.time < p.2.1 + 300000 then none
    else
      let s := s.losePackage pkg
      some { s with links := { s.links with peers := s.links.peers.map fun t => if t.1 == pkg then (pkg, t.2.1, true) else t } })

/-! ## Lost dies (03 R76, R77) -/

/-- An actor on a lost die is treated as having exited with reason 9; how many messages it loses is unknown. -/
def State.loseActor (s : State) (a : Actor) : State :=
  match s.dir.actors.find? fun t => t.name == a.name with
  | none => s
  | some a => (s.takeDown a.name 9).exitAs a 9 0xFFFFFFFFFFFFFFFF

/-- A pool goes on without its members, and its queue, of a lost die; with no member left it exits. -/
def State.losePool (s : State) (die : Nat) (p : Pool) : State :=
  let members := p.members.filter fun m => dieOf m.core != die
  let s := s.modPool p.name fun q => { q with members := members, queues := q.queues.filter fun v => v.die != die, dies := q.dies &&& ~~~(1#4 <<< die) }
  if members.isEmpty && !p.members.isEmpty then
    let s := s.takeDown p.name 9
    match s.dir.pools.find? fun t => t.name == p.name with
    | some q => s.exitPoolAs q 9 0xFFFFFFFFFFFFFFFF
    | none => s
  else s

/-- What runs on a lost die stops there. -/
def State.dropDie (s : State) (die : Nat) : State :=
  let gone := (s.allActs.filter fun a => dieOf a.core == die).map (·.aid)
  let s := s.abandon fun e => gone.contains e.aid
  let s := (s.dropActs fun a => dieOf a.core == die).leaveTickets gone.contains
  { s with cores := s.cores.filter fun c => dieOf c.1 != die
           wire := { s.wire with tails := s.wire.tails.filter fun t => dieOf t.act.core != die }
           xlat := { s.xlat with cached := s.xlat.cached.filter fun c => c.die != die } }

/-- A die declared lost: every actor on it exits, a mirrored child with either of its runs (03 R77, R86). -/
def State.loseDie (s : State) (die : Nat) : State :=
  let s := s.note { die := die ^^^ 1, cls := 11, unit := 6, location := location (die * 512) }
  let s := { s with links := { s.links with lostDies := s.links.lostDies ||| (1#4 <<< die) } }
  let held (l : Life) : Bool := match l with
    | .live | .exiting _ => true
    | _ => false
  let there (a : Actor) : Bool := dieOf a.core == die || a.mirror.any fun m => dieOf m.core == die
  let s := (s.dir.actors.filter fun a => held a.life && there a).foldl State.loseActor s
  let s := s.dir.pools.foldl (fun s p => s.losePool die p) s
  (s.dropDie die).settleLevels

/-- A die is to be declared lost: three heartbeats of 100 µs missed, or a fatal error reported for it
(assumption 94). -/
def State.dieGone (s : State) (die : Nat) : Bool := s.links.dieDown.any fun t => t.1 == die && (match t.2 with
  | some at_ => decide (at_ + 300000 ≤ s.env.time)
  | none => true)

/-- BRIDGE_HEARTBEAT_LOSS. -/
def execBridgeHeartbeatLoss (die : Nat) (s : State) : Host.Outcome State Fault Refusal :=
  event s (
    if 4 ≤ die || s.links.lostDies.getLsbD die || s.boot.minimal || s.boot.steps < 5 || !s.dieGone die then none
    else some (s.loseDie die))

/-! ## Requests left unanswered (19 R425; 03 R75, R77) -/

/-- REMOTE_REQUEST_TIMEOUT: the issuer is killed with reason 7; a late answer is discarded. -/
def execRemoteRequestTimeout (req : Nat) (s : State) : Host.Outcome State Fault Refusal :=
  event s (do
    let r ← s.links.remote.find? fun r => r.id == req
    if r.answer.isSome || s.unsent r || s.env.time < r.sentAt + s.links.rto.toNat * 1000 then none
    else if r.entry == earlyEntry then some (s.dropRemote req)
    else some ((s.dropRemote req).killAnyway r.actor 7))

/-! ## The link page and the error log, written as events of their own (19 R424, R425; 18 R416) -/

/-- LINK_THR_WRITE. -/
def execLinkThrWrite (link : Nat) (v : Word) (s : State) : Host.Outcome State Fault Refusal :=
  if s.calico ∧ link < 20 then run s (.ok (s.writeThr link v)) else .next s
/-- LINK_RTO_WRITE. -/
def execLinkRtoWrite (v : Word) (s : State) : Host.Outcome State Fault Refusal :=
  if s.calico then run s (.ok (s.writeRto v)) else .next s
/-- ERROR_LOG_HEAD_WRITE. -/
def execErrorLogHeadWrite (die : Nat) (v : Word) (s : State) : Host.Outcome State Fault Refusal :=
  if s.calico ∧ die < 4 then run s (.ok { s with logs := vset s.logs die ((vget s.logs die).setHead (v.setWidth 32)) })
  else .next s

end Sys2Proof.Machine
end

