-- ==== Sys2Proof/Machine/HostPorts.lean ====
section
/-! DEFINITION. The host ports: the message gateway, receive queues, CXL.mem, configuration space and the registers written
from outside (00 R7, R13; 19 R438 to R440; 20 R442, R446). -/

namespace Sys2Proof.Machine

/-! ## The gateway (19 R439) -/

/-- The message that 64 bytes hold. -/
def msgOfBytes (bs : List Byte) : Msg :=
  let w (i : Nat) : Word := BitVec.ofNat 64 (leNat ((bs.drop (8 * i)).take 8))
  { w0 := w 0, w1 := w 1, w2 := w 2, w3 := w 3, w4 := w 4, w5 := w 5, w6 := w 6, w7 := w 7 }
def bytesOfMsg (m : Msg) : List Byte := [m.w0, m.w1, m.w2, m.w3, m.w4, m.w5, m.w6, m.w7].flatMap fun w => leBytes 8 w.toNat

/-- The host name of a slot for a job. -/
def hostName (job : Half) (slot : Nat) : Word := mkName job 2 (0x3FFFFFC0 + slot) 0

/-- Why a gateway page takes no message to a destination. -/
def State.gatewayTakes (s : State) (page : Nat) (m : Msg) : Bool :=
  !isHardware m && m.w2 &&& 0x00000000011C0000 == 0 &&
  (if page = 48 then nameKind m.w0 == 2 && nameJob m.w0 == 0
   else (s.job? (nameJob m.w0)).any fun j => j.valid && j.part == page)

/-- GATEWAY_SLOT_WRITE: one message, or a counted error. Its sender's die is die 0, that of port 0 (assumption 105). -/
def execGatewaySlotWrite (page offset : Nat) (data : List Byte) (s : State) : Host.Outcome State Fault Refusal :=
  event s (
    let m := msgOfBytes data
    if 48 < page || s.boot.steps < 8 then none
    else if data.length = 64 ∧ offset % 64 = 0 ∧ offset < 4096 ∧ s.gatewayTakes page m then
      let name := hostName (nameJob m.w0) (offset / 64)
      let m := { m with w1 := name, w2 := (m.w2 &&& ~~~0x00000000FEE00000) ||| 0x100000, w3 := m.w3 &&& 0xFFFFFFFF }
      let (epoch, t) := s.openPhase (msgJob m) (msgPhase m)
      some (t.fly { id := 0, src := name, dst := m.w0, die := 0, item := .msg { m with epoch := epoch } })
    else some (s.modPart page fun p => { p with gatewayErrors := p.gatewayErrors + 1 }))

/-! ## Receive queues (R440) -/

def State.rxq (s : State) (p : Nat) : Rxq := vget s.host.rxq p
def State.modRxq (s : State) (p : Nat) (f : Rxq → Rxq) : State :=
  { s with host := { s.host with rxq := vset s.host.rxq p (f (s.rxq p)) } }

/-- The receive-queue registers answer once an image runs on the service cores, and the clocks run (20 R444, R450; assumption
53). -/
def State.queuesAnswer (s : State) (part : Nat) : Bool := decide (part < 48) && decide (3 ≤ s.boot.steps) && !s.boot.tripped

/-- A ring that is not set up counts as full. -/
def Rxq.full (q : Rxq) : Bool := q.size == 0 || decide (q.size.toNat ≤ (q.tail - q.head).toNat)

def State.raiseVector (s : State) (p : Nat) : State :=
  { s with host := { s.host with msix := s.host.msix ++ [((s.rxq p).port.toNat, 1 + p)] } }

/-- A message written at tail, tail advanced, and the vector raised, at the whole 64-bit host address. -/
def State.enterRing (s : State) (p : Nat) (m : Msg) : State :=
  let q := s.rxq p
  let addr := (q.base.toNat + 64 * (q.tail.toNat % q.size.toNat)) % 2 ^ 64
  ((s.writeNow 0 (hostKey q.port.toNat addr) (bytesOfMsg m) false).modRxq p fun q => { q with tail := q.tail + 1 }).raiseVector p

/-- Waiting messages enter the ring while it has room. -/
def State.drainRing (p : Nat) : List Msg → State → State
  | [], s => s.modPart p fun t => { t with hostSpill := [] }
  | m :: l, s => if (s.rxq p).full then s.modPart p fun t => { t with hostSpill := m :: l } else State.drainRing p l (s.enterRing p m)
def State.refillRing (s : State) (p : Nat) : State := State.drainRing p (s.part p).hostSpill s

/-- A message for a host name: into the ring, or behind those that wait; past 1,024 of them it is discarded. -/
def State.toHost (s : State) (die p : Nat) (m : Msg) : State :=
  let waiting := (s.part p).hostSpill
  if waiting.isEmpty && !(s.rxq p).full then s.enterRing p m
  else if waiting.length < 1024 then s.modPart p fun t => { t with hostSpill := t.hostSpill ++ [m] }
  else ((s.modRxq p fun q => { q with overflow := q.overflow + 1 }).raiseVector p).noActor die m

/-- HOST_MESSAGE_DELIVERY. -/
def execHostMessageDelivery (flight : Nat) (s : State) : Host.Outcome State Fault Refusal :=
  event s (do
    let f ← s.wire.flights.find? fun f => f.id == flight
    match f.item with
    | .msg m =>
      if !isHostName m.w0 || !s.flightReady f then none
      else
        let t := s.removeFlight f.id
        if !isHardware m && !reachable (nameJob f.src) m.w0 then some (t.noActor f.die m).settleLevels
        else match s.partOfJob (nameJob m.w0) with
          | some p => some (t.toHost f.die p m).settleLevels
          | none => some (t.noActor f.die m).settleLevels
    | _ => none)

/-- A store to base: 4 KiB aligned, or ignored. -/
def execRxqBaseWrite (part : Nat) (v : Word) (s : State) : Host.Outcome State Fault Refusal :=
  powered s (
    if !s.queuesAnswer part then none
    else some (if v.toNat % 4096 = 0 then s.modRxq part fun q => { q with base := v } else s))

/-- A size that a ring may have. -/
def ringSize (n : Nat) : Bool := (List.range 11).any fun k => n == 64 * 2 ^ k

/-- A store to size: a power of two from 64 to 65,536, or ignored. The ring is then in use. -/
def execRxqSizeWrite (part : Nat) (v : Word) (s : State) : Host.Outcome State Fault Refusal :=
  powered s (
    if !s.queuesAnswer part then none
    else some (if ringSize v.toNat then (s.modRxq part fun q => { q with size := v }).refillRing part else s))

/-- A store to head. -/
def execRxqHeadWrite (part : Nat) (v : Word) (s : State) : Host.Outcome State Fault Refusal :=
  powered s (if !s.queuesAnswer part then none else some ((s.modRxq part fun q => { q with head := v }).refillRing part))

/-- A register of a partition's receive-queue page as the host reads it (00 R7). -/
def Rxq.read (q : Rxq) : Nat → Option Word
  | 0x00 => some q.base
  | 0x08 => some q.size
  | 0x10 => some q.head
  | 0x18 => some q.tail
  | 0x20 => some (flagAt q.port 0)
  | 0x28 => some q.overflow
  | _ => none

/-! ## Registers without a row of their own (00 R7) -/

/-- REGISTER_WRITE: RO ignores it, RW takes it, W1C clears what is written 1. -/
def execRegisterWrite (reg : HostReg) (v : Word) (s : State) : Host.Outcome State Fault Refusal :=
  powered s (match reg with
    | .rxqTail p => if s.queuesAnswer p then some s else none
    | .rxqPort p => if s.queuesAnswer p then some (s.modRxq p fun q => { q with port := v.getLsbD 0 }) else none
    | .rxqOverflow p => if s.queuesAnswer p then some (s.modRxq p fun q => { q with overflow := q.overflow &&& ~~~v }) else none
    | .bootStatus port => if s.hasPort port then some s else none
    | .linkCtl n => if s.calico ∧ n < 20 then some (s.writeLinkReg n 0 v) else none
    | .linkReadOnly n off =>
      if s.calico && decide (n < 20) && off != 0 && off != 0x08 && off != 0x38 && (s.linkReg n off).isSome then some (s.writeLinkReg n off v) else none)

/-! ## Requests of the host (R438, R13; 20 R442, R446) -/

/-- The host reads eight bytes of a page of BAR0, by a turn of the agenda (assumption 96): a gateway page reads zero (19
R439), page 64 + p holds the registers of partition p's receive queue (19 R440). -/
def State.hostRead (s : State) (page off : Nat) : State :=
  if s.boot.tripped then s
  else if page ≤ 48 then (if off % 8 = 0 ∧ off < 65536 then s.respondHost 0 (leBytes 8 0) else s)
  else if 64 ≤ page ∧ s.queuesAnswer (page - 64) then
    match (s.rxq (page - 64)).read off with
    | some v => s.respondHost 0 (leBytes 8 v.toNat)
    | none => s
  else s

/-- UNSUPPORTED_REQUEST: the standard's own response. -/
def execUnsupportedRequest (port : Nat) (s : State) : Host.Outcome State Fault Refusal :=
  powered s (if s.hasPort port then some (s.respondHost 1 []) else none)

/-- boot.status (R446). -/
def Boot.status (b : Boot) : Nat :=
  b.detail.toNat * 2 ^ 24 + b.reason.toNat * 2 ^ 16 + b.starts.toNat * 2 ^ 12 + b.phase.toNat * 2 ^ 8 + b.reset.toNat * 2 ^ 4 + b.mode.toNat
def Boot.pwr (b : Boot) : Nat := b.point.toNat * 2 ^ 12 + b.limit.toNat

/-- A word of a port's configuration space, by its offset from the capability's start (R446): the extended capability's header
(id 0x0023, version 1), the two headers of a designated vendor-specific one of 0x18 bytes, and the three registers. The rest of
the space is the standards' (assumption 53). -/
def State.configRead (s : State) (port offset : Nat) : Nat := match offset with
  | 0x00 => 0x0023 + 2 ^ 16 + (Config.nextCapability port).toNat * 2 ^ 20
  | 0x04 => Config.vendorId.toNat + Config.dvsecRevision.toNat * 2 ^ 16 + 0x18 * 2 ^ 20
  | 0x08 => 0x0001
  | 0x0C => s.boot.status
  | 0x10 => 0
  | 0x14 => s.boot.pwr
  | _ => (Config.configWord port offset).toNat

/-- CONFIGURATION_REQUEST: a read of the port's configuration space. Before phase 0 it is answered with Retry Status. -/
def execConfigurationRequest (port offset : Nat) (s : State) : Host.Outcome State Fault Refusal :=
  powered s (
    if !s.hasPort port then none
    else if s.boot.steps = 0 then some (s.respondHost 2 [])
    else some (s.respondHost 0 (leBytes 4 (s.configRead port offset))))

/-- A line of a port's window onto HBM, under Calico's key id. An address outside it has no such memory. -/
def State.windowAccess (s : State) (port offset : Nat) (w : Nat × Nat) (write : Option (List Byte)) : Option State :=
    let addr := w.1 + offset
    if !s.hasPort port || offset % 64 != 0 || s.boot.steps < 8 then none
    else if w.2 < offset + 64 ∨ !isHbm addr ∨ !s.hbmHere addr then some (s.respondHost 1 [])
    else match write with
      | some bs =>
        (match s.keyGen (homeDie addr) 0 with
         | .ok gen => if bs.length = 64 then some ((s.writeNow gen addr bs false).respondHost 0 []) else none
         | .error _ => some (s.keyFault (homeDie addr)))
      | none =>
        (match (s.repair addr 64).readHbm (homeDie addr) 0 addr 64 with
         | .ok (bs, poison, t) => some (t.respondHost (if poison then 3 else 0) bs)
         | .error _ => some (s.keyFault (homeDie addr)))

/-- CXL_MEM_ACCESS: a line of the port's window of up to 64 GB (00 R6). -/
def execCxlMemAccess (port offset : Nat) (write : Option (List Byte)) (s : State) : Host.Outcome State Fault Refusal :=
  event s (s.windowAccess port offset ((Config.cxlWindow port).1, min (Config.cxlWindow port).2 64000000000) write)

/-! ## Turns of the host ports (R438; 20 R447) -/

/-- An NVMe device's transfer through BAR2, under the port's window. -/
def State.peer (s : State) (port off : Nat) (write : Option (List Byte)) : State :=
  (s.windowAccess port off (Config.bar2Window port) write).getD s

def State.modPort (s : State) (port : Nat) (f : PortConfig → PortConfig) : State :=
  if s.hasPort port then { s with host := { s.host with ports := vset s.host.ports port (f (vget s.host.ports port)) } } else s

/-- A base address written: BAR0 spans 1 MiB, and its low bits are fixed. -/
def State.barWrite (s : State) (port bar : Nat) (v : Word) : State :=
  s.modPort port fun c => if bar = 0 then { c with bar0 := v &&& ~~~0xFFFFF } else if bar = 2 then { c with bar2 := v &&& ~~~0xF } else c
/-- An entry of the MSI-X table written: 64 vectors. -/
def State.msixWrite (s : State) (port vector : Nat) (e : MsixEntry) : State :=
  if 64 ≤ vector then s else s.modPort port fun c => { c with msix := put {} vector e c.msix }
/-- Calico raises one of its vectors, 49 to 63. -/
def State.calicoVector (s : State) (port vector : Nat) : State :=
  if s.hasPort port && s.rootLive && decide (49 ≤ vector) && decide (vector < 64) then
    { s with host := { s.host with msix := s.host.msix ++ [(port, vector)] } }
  else s

end Sys2Proof.Machine
end

