-- ==== Sys2Proof/Machine/Dispatch.lean ====
section
/-! DEFINITION. The meaning of each instruction and event: one arm for each constructor of the syntax. -/

namespace Sys2Proof.Machine

/-- The outcome of an instruction or event at a state. -/
def exec (i : Instr) (s : State) : Host.Outcome State Fault Refusal :=
  match i with
  | .add w b a d => Sys2Proof.Machine.execAdd w b a d s
  | .sub w b a d => Sys2Proof.Machine.execSub w b a d s
  | .and w b a d => Sys2Proof.Machine.execAnd w b a d s
  | .or w b a d => Sys2Proof.Machine.execOr w b a d s
  | .xor w b a d => Sys2Proof.Machine.execXor w b a d s
  | .shl w b a d => Sys2Proof.Machine.execShl w b a d s
  | .shr w b a d => Sys2Proof.Machine.execShr w b a d s
  | .sra w b a d => Sys2Proof.Machine.execSra w b a d s
  | .mul w b a d => Sys2Proof.Machine.execMul w b a d s
  | .mulh w b a d => Sys2Proof.Machine.execMulh w b a d s
  | .mulhn w b a d => Sys2Proof.Machine.execMulhn w b a d s
  | .div w b a d => Sys2Proof.Machine.execDiv w b a d s
  | .divn w b a d => Sys2Proof.Machine.execDivn w b a d s
  | .rem w b a d => Sys2Proof.Machine.execRem w b a d s
  | .remn w b a d => Sys2Proof.Machine.execRemn w b a d s
  | .min w b a d => Sys2Proof.Machine.execMin w b a d s
  | .max w b a d => Sys2Proof.Machine.execMax w b a d s
  | .minn w b a d => Sys2Proof.Machine.execMinn w b a d s
  | .maxn w b a d => Sys2Proof.Machine.execMaxn w b a d s
  | .slt w b a d => Sys2Proof.Machine.execSlt w b a d s
  | .sltn w b a d => Sys2Proof.Machine.execSltn w b a d s
  | .seq w b a d => Sys2Proof.Machine.execSeq w b a d s
  | .clz w a d => Sys2Proof.Machine.execClz w a d s
  | .ctz w a d => Sys2Proof.Machine.execCtz w a d s
  | .popc w a d => Sys2Proof.Machine.execPopc w a d s
  | .andn w b a d => Sys2Proof.Machine.execAndn w b a d s
  | .bext w b a d => Sys2Proof.Machine.execBext w b a d s
  | .bins w b a d => Sys2Proof.Machine.execBins w b a d s
  | .addi imm a d => Sys2Proof.Machine.execAddi imm a d s
  | .andi imm a d => Sys2Proof.Machine.execAndi imm a d s
  | .ori imm a d => Sys2Proof.Machine.execOri imm a d s
  | .xori imm a d => Sys2Proof.Machine.execXori imm a d s
  | .shli sc a d => Sys2Proof.Machine.execShli sc a d s
  | .shri sc a d => Sys2Proof.Machine.execShri sc a d s
  | .srai sc a d => Sys2Proof.Machine.execSrai sc a d s
  | .slti imm a d => Sys2Proof.Machine.execSlti imm a d s
  | .lih imm d => Sys2Proof.Machine.execLih imm d s
  | .addpc imm d => Sys2Proof.Machine.execAddpc imm d s
  | .ldb imm a d => Sys2Proof.Machine.execLdb imm a d s
  | .ldh imm a d => Sys2Proof.Machine.execLdh imm a d s
  | .ldw imm a d => Sys2Proof.Machine.execLdw imm a d s
  | .ldd imm a d => Sys2Proof.Machine.execLdd imm a d s
  | .ldbn imm a d => Sys2Proof.Machine.execLdbn imm a d s
  | .ldhn imm a d => Sys2Proof.Machine.execLdhn imm a d s
  | .ldwn imm a d => Sys2Proof.Machine.execLdwn imm a d s
  | .stb imm a d => Sys2Proof.Machine.execStb imm a d s
  | .sth imm a d => Sys2Proof.Machine.execSth imm a d s
  | .stw imm a d => Sys2Proof.Machine.execStw imm a d s
  | .std imm a d => Sys2Proof.Machine.execStd imm a d s
  | .beq o b a => Sys2Proof.Machine.execBeq o b a s
  | .bne o b a => Sys2Proof.Machine.execBne o b a s
  | .blt o b a => Sys2Proof.Machine.execBlt o b a s
  | .bge o b a => Sys2Proof.Machine.execBge o b a s
  | .bltn o b a => Sys2Proof.Machine.execBltn o b a s
  | .bgen o b a => Sys2Proof.Machine.execBgen o b a s
  | .bqt o => Sys2Proof.Machine.execBqt o s
  | .bqf o => Sys2Proof.Machine.execBqf o s
  | .jal o d => Sys2Proof.Machine.execJal o d s
  | .jalr imm a d => Sys2Proof.Machine.execJalr imm a d s
  | .amoSwap w sc o b a d => Sys2Proof.Machine.execAmoSwap w sc o b a d s
  | .amoAdd w sc o b a d => Sys2Proof.Machine.execAmoAdd w sc o b a d s
  | .amoAnd w sc o b a d => Sys2Proof.Machine.execAmoAnd w sc o b a d s
  | .amoOr w sc o b a d => Sys2Proof.Machine.execAmoOr w sc o b a d s
  | .amoXor w sc o b a d => Sys2Proof.Machine.execAmoXor w sc o b a d s
  | .amoMax w sc o b a d => Sys2Proof.Machine.execAmoMax w sc o b a d s
  | .amoMin w sc o b a d => Sys2Proof.Machine.execAmoMin w sc o b a d s
  | .amoCas w sc o b a d => Sys2Proof.Machine.execAmoCas w sc o b a d s
  | .fenceRel m r sc => Sys2Proof.Machine.execFenceRel m r sc s
  | .fenceAcq m r sc => Sys2Proof.Machine.execFenceAcq m r sc s
  | .fenceFull m r sc => Sys2Proof.Machine.execFenceFull m r sc s
  | .qfence q => Sys2Proof.Machine.execQfence q s
  | .rdef b a d => Sys2Proof.Machine.execRdef b a d s
  | .hdef a d => Sys2Proof.Machine.execHdef a d s
  | .rclr d => Sys2Proof.Machine.execRclr d s
  | .ldaq w sc b a d => Sys2Proof.Machine.execLdaq w sc b a d s
  | .strl w sc b a d => Sys2Proof.Machine.execStrl w sc b a d s
  | .rstat a d => Sys2Proof.Machine.execRstat a d s
  | .qput a q => Sys2Proof.Machine.execQput a q s
  | .qget q d => Sys2Proof.Machine.execQget q d s
  | .scfg sc => Sys2Proof.Machine.execScfg sc s
  | .sbind sc => Sys2Proof.Machine.execSbind sc s
  | .sunb sc => Sys2Proof.Machine.execSunb sc s
  | .swait sc => Sys2Proof.Machine.execSwait sc s
  | .mfs n d => Sys2Proof.Machine.execMfs n d s
  | .mts n a => Sys2Proof.Machine.execMts n a s
  | .lox o d => Sys2Proof.Machine.execLox o d s
  | .mox o a => Sys2Proof.Machine.execMox o a s
  | .spawn t a d => Sys2Proof.Machine.execSpawn t a d s
  | .kill b a => Sys2Proof.Machine.execKill b a s
  | .exit a => Sys2Proof.Machine.execExit a s
  | .link a => Sys2Proof.Machine.execLink a s
  | .unlink a => Sys2Proof.Machine.execUnlink a s
  | .mon a d => Sys2Proof.Machine.execMon a d s
  | .demon a => Sys2Proof.Machine.execDemon a s
  | .trapx a => Sys2Proof.Machine.execTrapx a s
  | .supv a => Sys2Proof.Machine.execSupv a s
  | .timer a d => Sys2Proof.Machine.execTimer a d s
  | .tcan a d => Sys2Proof.Machine.execTcan a d s
  | .commit => Sys2Proof.Machine.execCommit s
  | .done => Sys2Proof.Machine.execDone s
  | .cancel b a => Sys2Proof.Machine.execCancel b a s
  | .lvl b a d => Sys2Proof.Machine.execLvl b a d s
  | .namereg a d => Sys2Proof.Machine.execNamereg a d s
  | .whereIs a d => Sys2Proof.Machine.execWhereIs a d s
  | .part b a d => Sys2Proof.Machine.execPart b a d s
  | .rnew n => Sys2Proof.Machine.execRnew n s
  | .send sc a => Sys2Proof.Machine.execSend sc a s
  | .sendn sc b a d => Sys2Proof.Machine.execSendn sc b a d s
  | .reply sc a => Sys2Proof.Machine.execReply sc a s
  | .give sc m a n => Sys2Proof.Machine.execGive sc m a n s
  | .sendd sc b a => Sys2Proof.Machine.execSendd sc b a s
  | .depset b a => Sys2Proof.Machine.execDepset b a s
  | .depdec sc b a => Sys2Proof.Machine.execDepdec sc b a s
  | .tload q b a d => Sys2Proof.Machine.execTload q b a d s
  | .tstore q b a d => Sys2Proof.Machine.execTstore q b a d s
  | .push q b a d => Sys2Proof.Machine.execPush q b a d s
  | .pushr q b a => Sys2Proof.Machine.execPushr q b a s
  | .gather b a d => Sys2Proof.Machine.execGather b a d s
  | .scatter b a d => Sys2Proof.Machine.execScatter b a d s
  | .arm a d => Sys2Proof.Machine.execArm a d s
  | .disarm d => Sys2Proof.Machine.execDisarm d s
  | .cset h a c => Sys2Proof.Machine.execCset h a c s
  | .cinc h sc b a c => Sys2Proof.Machine.execCinc h sc b a c s
  | .crd h d c => Sys2Proof.Machine.execCrd h d c s
  | .waitc h sc b a c => Sys2Proof.Machine.execWaitc h sc b a c s
  | .waitct h sc d a c => Sys2Proof.Machine.execWaitct h sc d a c s
  | .caddl h a c => Sys2Proof.Machine.execCaddl h a c s
  | .route sc a d => Sys2Proof.Machine.execRoute sc a d s
  | .erq a d => Sys2Proof.Machine.execErq a d s
  | .epin a => Sys2Proof.Machine.execEpin a s
  | .eunpin a => Sys2Proof.Machine.execEunpin a s
  | .wset a => Sys2Proof.Machine.execWset a s
  | .eloadc t a d => Sys2Proof.Machine.execEloadc t a d s
  | .vadd p t b a d => Sys2Proof.Machine.execVadd p t b a d s
  | .vsub p t b a d => Sys2Proof.Machine.execVsub p t b a d s
  | .vmul p t b a d => Sys2Proof.Machine.execVmul p t b a d s
  | .vfma p t b a d => Sys2Proof.Machine.execVfma p t b a d s
  | .vfms p t b a d => Sys2Proof.Machine.execVfms p t b a d s
  | .vmin p t b a d => Sys2Proof.Machine.execVmin p t b a d s
  | .vmax p t b a d => Sys2Proof.Machine.execVmax p t b a d s
  | .vabs p t a d => Sys2Proof.Machine.execVabs p t a d s
  | .vneg p t a d => Sys2Proof.Machine.execVneg p t a d s
  | .vcmpeq p t b a d => Sys2Proof.Machine.execVcmpeq p t b a d s
  | .vcmplt p t b a d => Sys2Proof.Machine.execVcmplt p t b a d s
  | .vcmple p t b a d => Sys2Proof.Machine.execVcmple p t b a d s
  | .vsel b a d => Sys2Proof.Machine.execVsel b a d s
  | .vscalb p t b a d => Sys2Proof.Machine.execVscalb p t b a d s
  | .vmaxm p t b a d => Sys2Proof.Machine.execVmaxm p t b a d s
  | .vclass p t a d => Sys2Proof.Machine.execVclass p t a d s
  | .vbcast p n a d => Sys2Proof.Machine.execVbcast p n a d s
  | .vmov p a d => Sys2Proof.Machine.execVmov p a d s
  | .viadd p t b a d => Sys2Proof.Machine.execViadd p t b a d s
  | .visub p t b a d => Sys2Proof.Machine.execVisub p t b a d s
  | .vimul p t b a d => Sys2Proof.Machine.execVimul p t b a d s
  | .vimulh p t b a d => Sys2Proof.Machine.execVimulh p t b a d s
  | .vand p t b a d => Sys2Proof.Machine.execVand p t b a d s
  | .vor p t b a d => Sys2Proof.Machine.execVor p t b a d s
  | .vxor p t b a d => Sys2Proof.Machine.execVxor p t b a d s
  | .vshl p t b a d => Sys2Proof.Machine.execVshl p t b a d s
  | .vshr p t b a d => Sys2Proof.Machine.execVshr p t b a d s
  | .vsra p t b a d => Sys2Proof.Machine.execVsra p t b a d s
  | .vimin p t b a d => Sys2Proof.Machine.execVimin p t b a d s
  | .vimax p t b a d => Sys2Proof.Machine.execVimax p t b a d s
  | .viminn p t b a d => Sys2Proof.Machine.execViminn p t b a d s
  | .vimaxn p t b a d => Sys2Proof.Machine.execVimaxn p t b a d s
  | .vicmpeq p t b a d => Sys2Proof.Machine.execVicmpeq p t b a d s
  | .vicmplt p t b a d => Sys2Proof.Machine.execVicmplt p t b a d s
  | .vpopc p t a d => Sys2Proof.Machine.execVpopc p t a d s
  | .vclz p t a d => Sys2Proof.Machine.execVclz p t a d s
  | .viadds p t b a d => Sys2Proof.Machine.execViadds p t b a d s
  | .visubs p t b a d => Sys2Proof.Machine.execVisubs p t b a d s
  | .vcvt p t r a d => Sys2Proof.Machine.execVcvt p t r a d s
  | .vcvtWide p t r a d => Sys2Proof.Machine.execVcvtWide p t r a d s
  | .vcvts p t b a d => Sys2Proof.Machine.execVcvts p t b a d s
  | .vmxq t b a d => Sys2Proof.Machine.execVmxq t b a d s
  | .vmxd t b a d => Sys2Proof.Machine.execVmxd t b a d s
  | .vpack p t a d => Sys2Proof.Machine.execVpack p t a d s
  | .vunpk p t a d => Sys2Proof.Machine.execVunpk p t a d s
  | .vexp2 p t a d => Sys2Proof.Machine.execVexp2 p t a d s
  | .vlog2 p t a d => Sys2Proof.Machine.execVlog2 p t a d s
  | .vrcp p t a d => Sys2Proof.Machine.execVrcp p t a d s
  | .vrsq p t a d => Sys2Proof.Machine.execVrsq p t a d s
  | .vtanh p t a d => Sys2Proof.Machine.execVtanh p t a d s
  | .vrsum p t a d => Sys2Proof.Machine.execVrsum p t a d s
  | .vrmax p t a d => Sys2Proof.Machine.execVrmax p t a d s
  | .vrmin p t a d => Sys2Proof.Machine.execVrmin p t a d s
  | .vperm p t b a d => Sys2Proof.Machine.execVperm p t b a d s
  | .vshuf p t b a d => Sys2Proof.Machine.execVshuf p t b a d s
  | .vslide p sc a d => Sys2Proof.Machine.execVslide p sc a d s
  | .vtoq w a q => Sys2Proof.Machine.execVtoq w a q s
  | .vfromq q d => Sys2Proof.Machine.execVfromq q d s
  | .vfromqWord w q d => Sys2Proof.Machine.execVfromqWord w q d s
  | .pand b a d => Sys2Proof.Machine.execPand b a d s
  | .por b a d => Sys2Proof.Machine.execPor b a d s
  | .pnot a d => Sys2Proof.Machine.execPnot a d s
  | .pmov a d => Sys2Proof.Machine.execPmov a d s
  | .ptobq l a => Sys2Proof.Machine.execPtobq l a s
  | .eloop n m => Sys2Proof.Machine.execEloop n m s
  | .eloopq q m => Sys2Proof.Machine.execEloopq q m s
  | .eflags k q => Sys2Proof.Machine.execEflags k q s
  | .erm e r => Sys2Proof.Machine.execErm e r s
  | .mldw f a w => Sys2Proof.Machine.execMldw f a w s
  | .mma f w a d => Sys2Proof.Machine.execMma f w a d s
  | .mmac f w a d => Sys2Proof.Machine.execMmac f w a d s
  | .mzero d => Sys2Proof.Machine.execMzero d s
  | .mstore f a d => Sys2Proof.Machine.execMstore f a d s
  | .mmas f a d => Sys2Proof.Machine.execMmas f a d s
  | .mtopk b a d => Sys2Proof.Machine.execMtopk b a d s
  | .mtkr a d => Sys2Proof.Machine.execMtkr a d s
  | .mscl r a d => Sys2Proof.Machine.execMscl r a d s
  | .mstat c b d => Sys2Proof.Machine.execMstat c b d s
  | .mchk d => Sys2Proof.Machine.execMchk d s
  | .mcorr d => Sys2Proof.Machine.execMcorr d s
  | .macc b d => Sys2Proof.Machine.execMacc b d s
  | .mlda f a d => Sys2Proof.Machine.execMlda f a d s
  | .fadd r b a d => Sys2Proof.Machine.execFadd r b a d s
  | .fsub r b a d => Sys2Proof.Machine.execFsub r b a d s
  | .fmul r b a d => Sys2Proof.Machine.execFmul r b a d s
  | .fdiv r b a d => Sys2Proof.Machine.execFdiv r b a d s
  | .fsqrt r a d => Sys2Proof.Machine.execFsqrt r a d s
  | .fmin b a d => Sys2Proof.Machine.execFmin b a d s
  | .fmax b a d => Sys2Proof.Machine.execFmax b a d s
  | .fcmplt b a d => Sys2Proof.Machine.execFcmplt b a d s
  | .fcmpeq b a d => Sys2Proof.Machine.execFcmpeq b a d s
  | .fcvti w u r a d => Sys2Proof.Machine.execFcvti w u r a d s
  | .fcvtf w u r a d => Sys2Proof.Machine.execFcvtf w u r a d s
  | .ffma r b a d => Sys2Proof.Machine.execFfma r b a d s
  | .trap b a => Sys2Proof.Machine.execTrap b a s
  | .udf imm j => Sys2Proof.Machine.execUdf imm j s
  | .sinv l b a => Sys2Proof.Machine.execSinv l b a s
  | .frply b a => Sys2Proof.Machine.execFrply b a s
  | .inj b a => Sys2Proof.Machine.execInj b a s
  | .mflip a d => Sys2Proof.Machine.execMflip a d s
  | .keyreq a d => Sys2Proof.Machine.execKeyreq a d s
  | .attest a d => Sys2Proof.Machine.execAttest a d s
  | .preemptStop a d => Sys2Proof.Machine.execPreemptStop a d s
  | .preemptResume a d => Sys2Proof.Machine.execPreemptResume a d s
  | .preemptClear a d => Sys2Proof.Machine.execPreemptClear a d s
  | .halt a => Sys2Proof.Machine.execHalt a s
  | .dlogh a => Sys2Proof.Machine.execDlogh a s
  | .cMv d a => Sys2Proof.Machine.execCMv d a s
  | .cAddi d imm => Sys2Proof.Machine.execCAddi d imm s
  | .cLdd d a o => Sys2Proof.Machine.execCLdd d a o s
  | .cStd b a o => Sys2Proof.Machine.execCStd b a o s
  | .cLdw d a o => Sys2Proof.Machine.execCLdw d a o s
  | .cStw b a o => Sys2Proof.Machine.execCStw b a o s
  | .cAdd d a => Sys2Proof.Machine.execCAdd d a s
  | .cSub d a => Sys2Proof.Machine.execCSub d a s
  | .cJ o => Sys2Proof.Machine.execCJ o s
  | .cBeqz a o => Sys2Proof.Machine.execCBeqz a o s
  | .cBnez a o => Sys2Proof.Machine.execCBnez a o s
  | .cLi d imm => Sys2Proof.Machine.execCLi d imm s
  | .cShli d sc => Sys2Proof.Machine.execCShli d sc s
  | .cAndi d imm => Sys2Proof.Machine.execCAndi d imm s
  | .cQput q a => Sys2Proof.Machine.execCQput q a s
  | .cQget d q => Sys2Proof.Machine.execCQget d q s
  | .cSend a sc => Sys2Proof.Machine.execCSend a sc s
  | .cDone => Sys2Proof.Machine.execCDone s
  | .cCommit => Sys2Proof.Machine.execCCommit s
  | .cWaitc c a sc => Sys2Proof.Machine.execCWaitc c a sc s
  | .cCinc c a sc => Sys2Proof.Machine.execCCinc c a sc s
  | .cVfma d a b => Sys2Proof.Machine.execCVfma d a b s
  | .cVmov d a => Sys2Proof.Machine.execCVmov d a s
  | .cNop => Sys2Proof.Machine.execCNop s
  | .messageArrival flight => Sys2Proof.Machine.execMessageArrival flight s
  | .mailboxRefill core => Sys2Proof.Machine.execMailboxRefill core s
  | .dispatch core => Sys2Proof.Machine.execDispatch core s
  | .watchdogExpiry aid => Sys2Proof.Machine.execWatchdogExpiry aid s
  | .postActivationWaitExpiry op => Sys2Proof.Machine.execPostActivationWaitExpiry op s
  | .actorExit name => Sys2Proof.Machine.execActorExit name s
  | .exitSignalArrival flight => Sys2Proof.Machine.execExitSignalArrival flight s
  | .restartNotice flight => Sys2Proof.Machine.execRestartNotice flight s
  | .restartPlacement sup child => Sys2Proof.Machine.execRestartPlacement sup child s
  | .mirrorDigestCompare name => Sys2Proof.Machine.execMirrorDigestCompare name s
  | .timeout name ref => Sys2Proof.Machine.execTimeout name ref s
  | .waitctLimitExpiry aid => Sys2Proof.Machine.execWaitctLimitExpiry aid s
  | .waitcMet aid => Sys2Proof.Machine.execWaitcMet aid s
  | .engineEntryPerform core queue => Sys2Proof.Machine.execEngineEntryPerform core queue s
  | .engineSectorComplete core queue sector => Sys2Proof.Machine.execEngineSectorComplete core queue sector s
  | .mmacGateMet core => Sys2Proof.Machine.execMmacGateMet core s
  | .mmasRendezvous die span tag => Sys2Proof.Machine.execMmasRendezvous die span tag s
  | .pushSectorArrival flight => Sys2Proof.Machine.execPushSectorArrival flight s
  | .pushrSectorLanding flight => Sys2Proof.Machine.execPushrSectorLanding flight s
  | .globalCincArrival flight => Sys2Proof.Machine.execGlobalCincArrival flight s
  | .launchCompletion flight => Sys2Proof.Machine.execLaunchCompletion flight s
  | .sfuRequestService cluster => Sys2Proof.Machine.execSfuRequestService cluster s
  | .faultreply flight => Sys2Proof.Machine.execFaultreply flight s
  | .dirtyLogMerge core => Sys2Proof.Machine.execDirtyLogMerge core s
  | .expertMessageArrival flight => Sys2Proof.Machine.execExpertMessageArrival flight s
  | .replicaCopyComplete entry set die => Sys2Proof.Machine.execReplicaCopyComplete entry set die s
  | .expertFetchStart die entry set => Sys2Proof.Machine.execExpertFetchStart die entry set s
  | .evictionComplete entry set => Sys2Proof.Machine.execEvictionComplete entry set s
  | .expertFetchComplete entry set outcome => Sys2Proof.Machine.execExpertFetchComplete entry set outcome s
  | .partitionStopComplete part => Sys2Proof.Machine.execPartitionStopComplete part s
  | .installLinkKey => Sys2Proof.Machine.execInstallLinkKey s
  | .bindMemoryKey => Sys2Proof.Machine.execBindMemoryKey s
  | .retireMemoryKey => Sys2Proof.Machine.execRetireMemoryKey s
  | .verifyWeightSetSignature => Sys2Proof.Machine.execVerifyWeightSetSignature s
  | .sealAttestationRecord => Sys2Proof.Machine.execSealAttestationRecord s
  | .readIdentity => Sys2Proof.Machine.execReadIdentity s
  | .appendMeasurement => Sys2Proof.Machine.execAppendMeasurement s
  | .flipRequest core => Sys2Proof.Machine.execFlipRequest core s
  | .patrolScrubRead die stack => Sys2Proof.Machine.execPatrolScrubRead die stack s
  | .bridgeHeartbeatLoss die => Sys2Proof.Machine.execBridgeHeartbeatLoss die s
  | .packageHeartbeatLoss pkg => Sys2Proof.Machine.execPackageHeartbeatLoss pkg s
  | .heartbeatSend pkg => Sys2Proof.Machine.execHeartbeatSend pkg s
  | .remoteRequestTimeout req => Sys2Proof.Machine.execRemoteRequestTimeout req s
  | .flitTransmit link => Sys2Proof.Machine.execFlitTransmit link s
  | .idleFlitTimer link => Sys2Proof.Machine.execIdleFlitTimer link s
  | .dataFlit link f => Sys2Proof.Machine.execDataFlit link f s
  | .marker link f => Sys2Proof.Machine.execMarker link f s
  | .controlFlit link f => Sys2Proof.Machine.execControlFlit link f s
  | .idleFlit link f => Sys2Proof.Machine.execIdleFlit link f s
  | .linkVerifyTimeout link => Sys2Proof.Machine.execLinkVerifyTimeout link s
  | .linkThrWrite link v => Sys2Proof.Machine.execLinkThrWrite link v s
  | .linkRtoWrite v => Sys2Proof.Machine.execLinkRtoWrite v s
  | .errorLogHeadWrite die v => Sys2Proof.Machine.execErrorLogHeadWrite die v s
  | .gatewaySlotWrite page offset data => Sys2Proof.Machine.execGatewaySlotWrite page offset data s
  | .rxqBaseWrite part v => Sys2Proof.Machine.execRxqBaseWrite part v s
  | .rxqSizeWrite part v => Sys2Proof.Machine.execRxqSizeWrite part v s
  | .rxqHeadWrite part v => Sys2Proof.Machine.execRxqHeadWrite part v s
  | .hostMessageDelivery flight => Sys2Proof.Machine.execHostMessageDelivery flight s
  | .cxlMemAccess port offset write => Sys2Proof.Machine.execCxlMemAccess port offset write s
  | .unsupportedRequest port => Sys2Proof.Machine.execUnsupportedRequest port s
  | .configurationRequest port offset => Sys2Proof.Machine.execConfigurationRequest port offset s
  | .jobCtlWrite v => Sys2Proof.Machine.execJobCtlWrite v s
  | .pWdogWrite v => Sys2Proof.Machine.execPWdogWrite v s
  | .registerWrite reg v => Sys2Proof.Machine.execRegisterWrite reg v s
  | .bootRetry port v => Sys2Proof.Machine.execBootRetry port v s
  | .pwrLimitWrite port v => Sys2Proof.Machine.execPwrLimitWrite port v s
  | .powerOn => Sys2Proof.Machine.execPowerOn s
  | .perst => Sys2Proof.Machine.execPerst s
  | .functionLevelReset port => Sys2Proof.Machine.execFunctionLevelReset port s
  | .bootPhaseComplete failed => Sys2Proof.Machine.execBootPhaseComplete failed s
  | .rootReady => Sys2Proof.Machine.execRootReady s
  | .rootReadyTimeout => Sys2Proof.Machine.execRootReadyTimeout s
  | .operatingPointChange point => Sys2Proof.Machine.execOperatingPointChange point s
  | .thermalTrip => Sys2Proof.Machine.execThermalTrip s
  | .thermalRecovery => Sys2Proof.Machine.execThermalRecovery s
  | .fatalError cause => Sys2Proof.Machine.execFatalError cause s
  | .linkTrainingComplete link pkg txsalt rxsalt => Sys2Proof.Machine.execLinkTrainingComplete link pkg txsalt rxsalt s
  | .powerLoss => Sys2Proof.Machine.execPowerLoss s
  | .writePerformed write die => Sys2Proof.Machine.execWritePerformed write die s
  | .expertTableWrite target data => Sys2Proof.Machine.execExpertTableWrite target data s
  | .poolCreation job image dies => Sys2Proof.Machine.execPoolCreation job image dies s
  | .actorRestore name => Sys2Proof.Machine.execActorRestore name s
  | .rootActorPlacement job image => Sys2Proof.Machine.execRootActorPlacement job image s
  | .attestationRecordRead job => Sys2Proof.Machine.execAttestationRecordRead job s

end Sys2Proof.Machine
end

