-- ==== Sys2Proof/Machine/Turns.lean ====
section
/-! DEFINITION. What one step of the package can be (assumption 5): an event, a turn of a stream of the running
activation, a change of which activation runs, or something that waited and goes on. `step` calls these. -/

namespace Sys2Proof.Machine

/-- A turn that changes nothing but what it names, on a part that runs. -/
def onPart (s : State) (t : State) : Host.Outcome State Fault Refusal :=
  if s.boot.halted || s.boot.tripped || !s.boot.powered then .fault .partStopped else .next t

/-- The step's own passing of time (00 R12): each step takes some time, free but not negative. -/
def State.tick (s : State) : State :=
  { s with env := { s.env with time := s.env.time + Config.elapsed s.env.free, free := s.env.free + 1 } }

/-- An activation blocked at a miss does not try again before its ticket is answered (17 R393). -/
def State.blocked (s : State) : Bool := match s.act.wait with
  | .ticket n => s.xlat.tickets.any fun t => t.num == n && t.acts.contains s.act.aid
  | _ => false

/-- The bytes of the instruction at the pc decoded and executed (07 R176). -/
noncomputable def State.runBytes (s : State) (bs : List Byte) : Host.Outcome State Fault Refusal :=
  match decode bs with
  | .ok (i, _) => exec i s
  | .error r => run s (kill (rejectReason s.act.service bs r))

/-- The instruction at the pc: fetched, decoded and executed (07 R164 to R166, R176). An activation that waits executes
the instruction it has fetched again, which waits again until it need not. -/
noncomputable def State.aTurn (s : State) : Host.Outcome State Fault Refusal :=
  if !s.act.live || s.blocked then .next s
  else match s.act.issued with
    | some bs => s.runBytes bs
    | none => match s.fetch with
      | .error e => run s (.error e)
      | .ok (none, t) => .next t
      | .ok (some bs, t) => (t.fetched bs).runBytes bs

/-- An E-stream instruction only waited: it was delivered again, and made no request of the SFU (09 R257). -/
def State.waited (s t : State) : Bool :=
  t.act.live && t.act.aid == s.act.aid && !t.act.eseq.pending.isEmpty && t.act.ewait == s.act.ewait

/-- What the E-stream does next, when it can (07 R167; 09 R236 to R238): a loop begins, or its next instruction
executes. One that waits is left where it is, though a line it was to read may have been rewritten (18 R404). -/
def State.eTurn? (s : State) : Option (Host.Outcome State Fault Refusal) :=
  if !s.act.live then none
  else match s.act.eseq.next with
    | none => none
    | some i =>
      if (loopBody i).isSome then (s.beginLoop i).map (run s)
      else match exec i s.forE with
        | .next t =>
          if !s.waited t then some (.next (s.afterE t))
          else if t.mem.lineErrs.length = s.mem.lineErrs.length then none
          else some (.next { t with act := s.act })
        | o => some o

def State.eTurn (s : State) : Host.Outcome State Fault Refusal := s.eTurn?.getD (.next s)

/-- Another slot's activation becomes the one that runs; the one that ran keeps its slot. -/
def State.switchTo (s : State) (aid : Nat) : State :=
  match s.acts.find? fun a => a.aid == aid with
  | none => s
  | some a =>
    let kept : List Act := if s.act.live then [s.act] else []
    { s with act := a, acts := (s.acts.filter fun b => b.aid != aid) ++ kept }

/-- A slice drops an entry it caches: the leaf of a page, or a pointer that the page's walks use. -/
def State.sliceDrop (s : State) (die asid page level : Nat) : State :=
  let hit (c : Cached) : Bool := c.die == die && c.slice == sliceOf (page * 65536) && c.asid == asid && c.level == level &&
    c.tag == tagOf level (page * 65536)
  { s with xlat := { s.xlat with cached := s.xlat.cached.filter fun c => !hit c } }

/-- A slice caches an entry that a walk for a page finds, of its own accord (17 R389): its leaf, or a root entry or pointer on
the way. An invalid entry is not cached. -/
def State.sliceFill (s : State) (die asid page level : Nat) : State :=
  let va := page * 65536
  let keep (e : Word) : State :=
    let t := s.sliceDrop die asid page level
    let c : Cached := { die := die, slice := sliceOf va, asid := asid, level := level, tag := tagOf level va, entry := e }
    { t with xlat := { t.xlat with cached := c :: t.xlat.cached } }
  if level = 4 then (match s.walk die asid va with
    | .ok (.leaf e, _) => keep e
    | _ => s)
  else if level < 3 then ((s.pointerAt die asid va level).map keep).getD s
  else s

/-- The step when nothing is chosen: the E-stream if it can, else the A-stream; with no activation running, another
slot's; with none at all, time passes. -/
noncomputable def State.ownTurn (s : State) : Host.Outcome State Fault Refusal :=
  if s.act.live then (match s.eTurn? with
    | some o => o
    | none => s.aTurn)
  else match s.acts with
    | a :: _ => .next (s.switchTo a.aid)
    | [] => .next s

/-- An event of the agenda: an encoded instruction is none, and nothing happens. -/
def State.eventTurn (s : State) (i : Instr) : Host.Outcome State Fault Refusal :=
  if length i = 0 then exec i s else .next s

/-- A choice of the agenda, once it has been taken from it. -/
noncomputable def State.take (s : State) : Turn → Host.Outcome State Fault Refusal
  | .event i => s.eventTurn i
  | .aStream => if s.boot.halted || s.boot.tripped || !s.boot.powered then .fault .partStopped else s.aTurn
  | .eStream => if s.boot.halted || s.boot.tripped || !s.boot.powered then .fault .partStopped else s.eTurn
  | .switch aid => onPart s (s.switchTo aid)
  | .release id => onPart s ((s.releaseDeferred id).getD s)
  | .tail aid => onPart s ((s.releaseTail aid).getD s)
  | .sliceFill die asid page level => onPart s (s.sliceFill die asid page level)
  | .sliceDrop die asid page level => onPart s (s.sliceDrop die asid page level)
  | .early va n => onPart s (s.readEarly va n)
  | .ahead va => onPart s (s.readCode va)
  | .reuse va k => onPart s (s.reuseCode va k)
  | .strike e => onPart s (s.strike e)
  | .hostRead page off => onPart s (s.hostRead page off)
  | .ingress num set manifest => onPart s (s.ingress num set manifest)
  | .calicoVector port vector => onPart s (s.calicoVector port vector)
  | .peer port off write => onPart s (s.peer port off write)
  | .barWrite port bar v => powered s (some (s.barWrite port bar v))
  | .msixWrite port vector e => powered s (some (s.msixWrite port vector e))
  | .storeImage image signature => onPart s (s.storeImage image signature)
  | .learn name pkg => onPart s (s.learn name pkg)
  | .confirm name => onPart s (s.confirm name)
  | .pointsDone job num n => onPart s (s.pointsDone job num n)

/-! ## A place to run an instruction from -/

/-- Little-endian bytes of a table entry put in a table. -/
def tableWord (page idx v : Nat) (t : List Host.Cell) : List Host.Cell := putN (hbmKey page (8 * idx)) (leBytes 8 v) t

/-- Memory with a page of code at address 0x10000 of an address space: the four levels of its tables in pages 0 to 3 of
stack 0 of die 0, the code in page 4, all under key id 0 (17 R384 to R387). -/
def codeMemory (asid : Nat) (code : List Byte) (m : Mem) : Mem :=
  let cells := tableWord 0 asid (1 + 1 * 2 ^ 18) (tableWord 1 0 (1 + 2 * 2 ^ 18) (tableWord 2 0 (1 + 3 * 2 ^ 18)
    (tableWord 3 1 (1 + 8 + 16 + 4 * 2 ^ 18) (putN (hbmKey 4 0) code m.cells))))
  { cells := cells, clocks := m.clocks, keySlots := put? 0 1 m.keySlots, scrub := m.scrub, scrubHours := m.scrubHours
    poisonSectors := m.poisonSectors }

/-- A state that runs the code as the first instruction of an activation: of job 0 on the service core of cluster 0 of die
0, or of a job 1 on its core 0. -/
def State.placeCode (s : State) (service : Bool) (code : List Byte) : State :=
  let core := if service then 4 else 0
  let job : Half := if service then 0 else 1
  let name := mkName job (if service then 2 else 0) 1 1
  let a : Actor := { job := job, service := service, index := 1, inc := 1, core := core, resident := 0 }
  let (aid, s) := s.fresh
  let s := s.modPart 0 fun p => if service then p else { p with state := 1, asid := 1, keys := 0x0100 }
  let s := if service then s else s.modJob 1 fun j => { j with valid := true, part := 0 }
  let s := s.modCore core fun c => { c with part := if service then c.part else some 0 }
  { s with env := { s.env with agenda := [] }
           act := { live := true, aid := aid, core := core, name := name, pc := 0x10000 }
           mem := codeMemory (if service then 0 else 1) code s.mem
           dir := { s.dir with actors := [a] }
           xlat := { s.xlat with cached := [], tickets := [] }
           boot := { s.boot with steps := 8, phase := 6, mode := 1, halted := false, tripped := false, powered := true } }

end Sys2Proof.Machine
end

