-- ==== Sys2Proof/Machine/Step.lean ====
section
/-! DEFINITION. One step of the package, and a state that runs a given instruction next. -/

namespace Sys2Proof.Machine

/-- Time passes with a step that was taken. -/
def timed (o : Host.Outcome State Fault Refusal) : Host.Outcome State Fault Refusal :=
  match o with
  | .next t => .next t.tick
  | .fault f => .fault f
  | .refused r => .refused r

/-- One step: what the head of the agenda chooses, or with nothing chosen the machine's own next turn. -/
noncomputable def step (s : State) : Host.Outcome State Fault Refusal :=
  timed (match s.env.agenda with
    | t :: rest => State.take { s with env := { s.env with agenda := rest } } t
    | [] => if s.boot.halted || s.boot.tripped || !s.boot.powered then .fault .partStopped else s.ownTurn)

/-- The state with an instruction, whose bits are numbered as the opcode table numbers them, where the next step fetches.
Matrix-group forms run on a compute core, since a service core has no array; the others at service level. -/
def State.withFetchWord (s : State) (nbits w : Nat) : State :=
  s.placeCode (!decide (w % 128 = 0x63)) (tableBytes nbits w)

end Sys2Proof.Machine
end

