-- ==== Sys2Proof/Safety.lean ====
section
/-! DEFINITION. What counts as a safe run: memory in its canonical form, and steps that take place; and the terms in which
claims say what an instruction does and leaves alone. -/

namespace Sys2Proof.Safety

open Sys2Proof.Machine

/-- The part runs: it has power, has not been halted, and has not tripped (16 R381, 20 R443, R450). -/
def Running (s : State) : Prop := s.boot.powered = true ∧ s.boot.halted = false ∧ s.boot.tripped = false

/-- An instruction that completes with its own effect at a state: the next state, of which `p` holds. -/
def Completes (i : Instr) (s : State) (p : State → Prop) : Prop := ∃ t, exec i s = .next t ∧ p t

/-- Memory is in its canonical form. -/
def MemCanonical (s : State) : Prop := Memory.wf s.mem = true

/-- Every observer's byte at a physical key: what the homes hold, and what each die sees of it. -/
def SameBytes (s t : State) (k : Nat) : Prop :=
  look 0 t.mem.cells k = look 0 s.mem.cells k ∧ ∀ die, t.mem.byteAt die k = s.mem.byteAt die k

/-! ## Results of register forms -/

/-- A two-source integer form at the width `.w` selects (08 R194): the 32-bit result is sign-extended. -/
def atW (w : BitVec 1) (f : (n : Nat) → BitVec n → BitVec n → BitVec n) (A B : Word) : Word :=
  if w = 1 then (f 32 (A.setWidth 32) (B.setWidth 32)).signExtend 64 else f 64 A B

/-- A one-source form whose second operand is the whole of a register (06 R161, 08 R195). -/
def atW1 (w : BitVec 1) (f : (n : Nat) → BitVec n → BitVec n) (A : Word) : Word :=
  if w = 1 then (f 32 (A.setWidth 32)).signExtend 64 else f 64 A

/-- The outcome of an instruction that writes xd and does nothing else but move on. -/
def Writes (i : Instr) (s : State) (len : Nat) (d : BitVec 5) (v : Word) (poison : Bool) : Prop :=
  exec i s = .next (s.result len d v poison)

/-- The pc set to a target; nothing else changes but the record of what the instruction waited for. -/
def goTo (s : State) (target : Word) : State :=
  s.modAct fun a => { a with pc := target, wait := .none, memo := .none, issued := none }

/-- An x register without poison, as a control operand must be (18 R409). -/
def Clean (s : State) (r : BitVec 5) : Prop := s.act.xPoison r = false
/-- An o register without poison. -/
def CleanO (s : State) (i : Nat) : Prop := s.act.oPoison i = false

/-! ## Accesses -/

/-- No detector of the running activation's die is armed to report an injected error (16 R379). -/
def Unarmed (s : State) : Prop := (vget s.logs (dieOf s.act.core)).armed = []

/-- An access that the local window takes: aligned, within the scratchpad, and in one region with the right (04 R95,
R97, R103); and no injected error is reported there. -/
def LocalOk (s : State) (va : Word) (n al : Nat) (acc : Access) : Prop :=
  Unarmed s ∧ va.toNat / 2 ^ 48 = 0x70 ∧ va.toNat % al = 0 ∧ va.toNat % 2 ^ 48 + n ≤ s.scratchBytes s.act.core ∧
  ∃ r ∈ (s.regionsOf s.act.name s.act.run s.act.core).toList, r.allows acc (va.toNat % 2 ^ 48) n = true

/-- The physical key of a local address. -/
def localKey (s : State) (va : Word) : Nat := poolKey s.act.core (va.toNat % 2 ^ 48)

/-- No acquire event is waited for, and nothing was read ahead of its place (01 R30, 05 R130). -/
def InOrder (s : State) : Prop := s.act.acquires = [] ∧ s.act.early = [] ∧ ∀ a ∈ s.acts, a.early = []

/-- No store or atomic of the actor's own is still to be performed, and no push of its earlier activations (02 R47, 05 R114). -/
def Unwritten (s : State) : Prop :=
  s.ownEffects s.me = [] ∧ (s.mem.pending.any fun p => p.stale s.me.aid s.me.name) = false ∧ ∀ va place, s.ownByte s.me [] va place = none

/-- Nothing that the package counts is outstanding, nothing released at DONE is on its way, and no release fence is waited for
(05 R127, R129). -/
def Quiet (s : State) : Prop := s.counted = [] ∧ s.act.fences = [] ∧ s.wire.tails = [] ∧ InOrder s

/-- Staged instructions, of which 256 fit (02 R48); recorded fences are none. -/
def stagedCount (s : State) : Nat :=
  s.act.staged.countP fun e => match e with
    | .fence _ _ => false
    | _ => true

/-- An activation before its COMMIT with room to stage, and with no fence or acquiring atomic to wait for (05 R129, R130). -/
def MayStage (s : State) : Prop :=
  s.act.live = true ∧ s.act.committed = false ∧ stagedCount s < 256 ∧ s.fencesMet s.act = true

/-- The running activation is no run of a mirrored child (03 R85). -/
def Solo (s : State) : Prop := s.mirrorOf s.act.name = none

/-- The outcome of an instruction that only stages an effect and moves on. -/
def Stages (i : Instr) (s : State) (len : Nat) (e : Eff) : Prop :=
  exec i s = .next ((s.modAct fun a => { a with staged := a.staged ++ [e] }).advance len)

/-- A guard mask in a register (07 R163). -/
def MaskOk (s : State) (r : BitVec 5) : Prop := Clean s r ∧ (s.act.getX r).toNat < 2 ^ 17
def maskIn (s : State) (r : BitVec 5) : BitVec 17 := (s.act.getX r).setWidth 17

/-- The operands of a message pass their checks (02 R34, R36). -/
def MsgOk (s : State) : Prop :=
  CleanO s 0 ∧ CleanO s 2 ∧ CleanO s 3 ∧ nameKind (s.act.getO 0) ≠ 3 ∧ (s.act.getO 2).toNat % 65536 < 0xFF00 ∧
  s.act.getO 2 &&& 0x0000000001000000 = 0 ∧ s.act.getO 2 &&& 0x00000000001C0000 = 0 ∧ (s.act.getO 3).toNat < 2 ^ 32

/-- The message built from o0 and o2 to o7 (12 R327): word 1 is filled at release, and phase 0 stands for the sender's. -/
def builtMsg (s : State) : Msg :=
  { w0 := s.act.getO 0, w1 := 0, w2 := wordTwo (s.act.getO 2) (msgPhase s.act.msg), w3 := s.act.getO 3
    w4 := s.act.getO 4, w5 := s.act.getO 5, w6 := s.act.getO 6, w7 := s.act.getO 7, poison := s.act.op &&& 0xF0 }

/-! ## Engine entries -/

/-- A queue of the activation's core has room, and the counters of its guard slots can count the ranges (05 R124, R128). -/
def MayQueue (s : State) (q : Nat) (ranges : List (Bool × Nat × Nat)) : Prop :=
  (vget (s.core s.act.core).queues q).length < 16 ∧ s.awaitCounts (s.act.tagsFor ranges) = .ok ()

/-- The outcome of an instruction that puts one entry at the tail of a queue of its core, and changes nothing else there but
the tiles and buffers it claims; `a` is the activation after it. -/
def Queues (i : Instr) (s : State) (q : Nat) (op : EOp) (post : Option Nat) (a : Act) : Prop :=
  Completes i s fun t =>
    t.act = a ∧ t.mem = s.mem ∧ t.acts = s.acts ∧ t.dir = s.dir ∧ t.wire = s.wire ∧
    (∃ e, vget (t.core s.act.core).queues q = vget (s.core s.act.core).queues q ++ [e] ∧
      e.op = op ∧ e.post = post ∧ e.aid = s.act.aid ∧ e.actor = s.act.name ∧ e.started = false) ∧
    (∀ n, n ≠ q → vget (t.core s.act.core).queues n = vget (s.core s.act.core).queues n) ∧
    (t.core s.act.core).counters = (s.core s.act.core).counters ∧
    ∀ c, c ≠ s.act.core → t.core c = s.core c

/-- A matrix form may use the tiles it names: the core has an array and the tiles, and no other slot claims one (01 R25;
10 R265). -/
def MayClaim (s : State) (tiles : List Nat) : Prop :=
  isService s.act.core = false ∧
  ∀ n ∈ tiles, n < (s.core s.act.core).acc ∧ ∀ x, s.tile s.act.core n = some x → x.owner = s.act.aid

/-- A matrix form that enters queue 4 having claimed its tiles. -/
def MatrixEntry (i : Instr) (s : State) (op : EOp) (tiles : List Nat) : Prop :=
  Queues i s 4 op none (s.advance 4).act ∧
  Completes i s fun t => ∀ n ∈ tiles, ∃ x, t.tile s.act.core n = some x ∧ x.owner = s.act.aid

/-! ## The E-stream -/

/-- The E-stream executes an instruction as it is delivered, and the e registers named are bound to no stream. -/
def EReady (s : State) (regs : List (BitVec 5)) : Prop :=
  s.act.live = true ∧ s.act.eseq.idle = true ∧ ∀ r ∈ regs, s.boundTo r.toNat = none

/-- Element `j` of an e register, of `w` bits. -/
def elem (s : State) (r : BitVec 5) (w j : Nat) : Nat := elemAt (vget s.act.e r.toNat) w j

/-- What an E-stream instruction of `len` bytes may change: e registers, the flags and the draw counter by `draws`; and it
moves on. -/
def EChanges (s t : State) (len draws : Nat) : Prop :=
  t = { s with act := { s.act with
          e := t.act.e, ep := t.act.ep, fflags := t.act.fflags, eflags := t.act.eflags
          srctr := s.act.srctr + BitVec.ofNat 64 draws
          pc := s.act.pc + BitVec.ofNat 64 len, wait := .none, memo := .none, issued := none } }

/-- A flag is set when it was, or when an active element among the first `n` raises it (09 R239, R243). -/
def EFlagged (s t : State) (n : Nat) (act : Nat → Bool) (f : Nat → Flags) : Prop :=
  ∀ k, t.act.fflags.getLsbD k = (s.act.fflags.getLsbD k || (List.range n).any fun j => act j && (f j).getLsbD k) ∧
    t.act.eflags.getLsbD k = (s.act.eflags.getLsbD k || (List.range n).any fun j => act j && (f j).getLsbD k)

/-- The outcome of a form that writes one e register: each active element has a new value, every other element and register
its old one. -/
def LaneOutcome (s : State) (len : Nat) (d : BitVec 5) (w : Nat) (act : Nat → Bool) (draws : Nat) (f : Nat → Nat × Flags)
    (t : State) : Prop :=
  EChanges s t len draws ∧
  (∀ j < eCount w, elem t d w j = if act j then (f j).1 % 2 ^ w else elem s d w j) ∧
  (∀ r : BitVec 5, r ≠ d → vget t.act.e r.toNat = vget s.act.e r.toNat ∧ vget t.act.ep r.toNat = vget s.act.ep r.toNat) ∧
  EFlagged s t (eCount w) act fun j => (f j).2

/-- An E-stream form that writes one e register. -/
def LaneForm (i : Instr) (s : State) (len : Nat) (d : BitVec 5) (w : Nat) (act : Nat → Bool) (draws : Nat)
    (f : Nat → Nat × Flags) : Prop := Completes i s (LaneOutcome s len d w act draws f)

/-- An E-stream form that writes the lanes of `n` registers from `d` on; lane `m` is lane `m mod 32` of register `m / 32`. -/
def GroupForm (i : Instr) (s : State) (d n : Nat) (act : Nat → Bool) (draws : Nat) (f : Nat → Nat × Flags) : Prop :=
  Completes i s fun t =>
    EChanges s t 4 draws ∧
    (∀ m < 32 * n, elemAt (vget t.act.e (d + m / 32)) 32 (m % 32) =
      if act m then (f m).1 % 2 ^ 32 else elemAt (vget s.act.e (d + m / 32)) 32 (m % 32)) ∧
    (∀ r, ¬(d ≤ r ∧ r < d + n) → vget t.act.e r = vget s.act.e r ∧ vget t.act.ep r = vget s.act.ep r) ∧
    EFlagged s t (32 * n) act fun j => (f j).2

/-- A vector compare: each active element's bits of a p register say whether the comparison holds, every other bit and register
stands (09 R247). -/
def PredForm (i : Instr) (s : State) (d : BitVec 3) (w : Nat) (act : Nat → Bool) (f : Nat → Bool × Flags) : Prop :=
  Completes i s fun t =>
    t = { s with act := { s.act with
            p := t.act.p, pp := t.act.pp, fflags := t.act.fflags, eflags := t.act.eflags
            pc := s.act.pc + 4, wait := .none, memo := .none, issued := none } } ∧
    (∀ m < 128, (vget t.act.p d.toNat).getLsbD m = if act (8 * m / w) then (f (8 * m / w)).1 else (vget s.act.p d.toNat).getLsbD m) ∧
    (∀ r : BitVec 3, r ≠ d → vget t.act.p r.toNat = vget s.act.p r.toNat ∧ vget t.act.pp r.toNat = vget s.act.pp r.toNat) ∧
    EFlagged s t (eCount w) act fun j => (f j).2

/-- No stream is bound to any of `n` registers from `e` on. -/
def FreeRegs (s : State) (e n : Nat) : Prop := ∀ k < n, s.boundTo (e + k) = none

/-! ## Events -/

/-- A flight that may arrive now: what its release waits for is performed, and nothing of its sender to the same name is before
it (02 R39, 05 R113). -/
def Arrives (s : State) (f : Flight) : Prop := s.wire.flights.find? (fun g => g.id == f.id) = some f ∧ s.flightReady f = true

/-- The actor that bears a name, which is the name of an actor and not of a pool. -/
def Bears (s : State) (n : Word) (a : Actor) : Prop := nameKind n ≠ 1 ∧ s.dir.actors.find? (fun x => x.name == n) = some a

/-- A live actor whose mailbox takes a message at once (02 R41). -/
def TakesMail (s : State) (a : Actor) : Prop := a.life = .live ∧ a.spill = [] ∧ s.mailUsed a.core < mailSlots a.core

/-- The mailbox has taken a message, and its actor is otherwise as before. -/
def HasMail (s t : State) (a : Actor) (m : Msg) : Prop :=
  Bears t a.name { a with
    onCore := a.onCore ++ [{ msg := m, seq := a.nextSeq, arrived := s.env.time, deadline := s.effective a.job m }]
    nextSeq := (a.nextSeq + 1) % 2 ^ 44 }

/-- Neither the running activation nor memory has changed. -/
def Aside (s t : State) : Prop := t.act = s.act ∧ t.mem = s.mem

/-- One flight more is on its way. -/
def Sends (s t : State) (p : Flight → Prop) : Prop := ∃ f : Flight, t.wire.flights = s.wire.flights ++ [f] ∧ p f

end Sys2Proof.Safety
end

