-- ==== Sys2Proof/Certificates/Slice0/Obligations.lean ====
section
/-! DEFINITION. The statements for the provers. -/

open Sys2Proof Sys2Proof.Machine Sys2Proof.Safety

/-- Memory has its canonical form after reset. It rests on the model's reading in assumption 1. -/
def Obligations.ResetMemoryCanonical : Prop := MemCanonical State.reset

/-- 16 R369, R370, 18 R416, 19 R424, R440, 20 R446, R447: the reset values that the spec gives, at power-on and after a cold
or warm reset: the partition, job and link registers, the receive queues, the error logs, and the start's registers; a warm
reset keeps the logs and the power limit. An activation's psel and jsel are 0 at entry. -/
def Obligations.ResetValues : Prop :=
  let registers (s : State) : Prop :=
    (∀ p < 48, let t := s.part p
      t.state = 0 ∧ t.spans = 0 ∧ t.asid = 0 ∧ t.keys = 0 ∧ t.dep = 0 ∧ t.spill = 0 ∧ t.wt = 0 ∧ t.slack = 10000 ∧ t.margin = 2000 ∧
      t.wdog = 200000 ∧ t.repl = 4096 ∧ t.replays = 0 ∧ t.mchk = 0) ∧
    s.act.psel = 0 ∧ s.act.jsel = 0 ∧ s.parts.jobs = [] ∧
    (∀ n < 20, s.linkReg n 0x08 = some 0x1000000000 ∧ s.linkReg n 0x38 = (if n = 0 then some 50 else none) ∧
      ∀ off ∈ [0x00, 0x10, 0x18, 0x20, 0x28, 0x30], s.linkReg n off = some 0) ∧
    (∀ p < 48, ∀ off ∈ [0x00, 0x08, 0x10, 0x18, 0x20, 0x28], (s.rxq p).read off = some 0) ∧
    s.boot.phase = 0 ∧ s.boot.mode = 0 ∧ s.boot.point = 0
  let logs (s : State) : Prop := (∀ l ∈ s.logs.toList, l.head = 0 ∧ l.tail = 0 ∧ l.overflow = 0) ∧ s.boot.limit = 2800
  (registers State.reset ∧ logs State.reset ∧ State.reset.boot.reset = 0) ∧
  (∀ s : State, registers s.coldReset ∧ logs s.coldReset ∧ s.coldReset.boot.reset = 0 ∧ registers s.warmReset ∧ s.warmReset.boot.reset = 1 ∧
    s.warmReset.boot.limit = s.boot.limit ∧
    ∀ k < 4, let l := vget s.logs k
      let t := vget s.warmReset.logs k
      t.ring = l.ring ∧ t.head = l.head ∧ t.tail = l.tail ∧ t.overflow = l.overflow) ∧
  ∀ aid core slot run name entry q, (entryState aid core slot run name entry q).psel = 0 ∧ (entryState aid core slot run name entry q).jsel = 0

/-- 07 R164, R166, R167, 00 R12: with nothing chosen, the E-stream has its turn when it can execute; else the instruction at
the pc, decoded from the bytes fetched, is executed, and time passes with the step; one that has waited is executed again from
the bytes it was fetched as. An event that heads the agenda is executed the same way, whatever runs. Turns and their choice
are the model's (assumption 5); a part that does not run takes no step. -/
def Obligations.StepRunsDecoded : Prop :=
  (∀ (s : State) (bs rest : List Byte) (u : State) (i : Instr), s.env.agenda = [] → Running s → s.act.live = true →
    s.blocked = false → s.eTurn? = none → s.act.issued = none → s.fetch = .ok (some bs, u) → decode bs = .ok (i, rest) →
    step s = timed (exec i (u.fetched bs))) ∧
  (∀ (s : State) (bs rest : List Byte) (i : Instr), s.env.agenda = [] → Running s → s.act.live = true →
    s.blocked = false → s.eTurn? = none → s.act.issued = some bs → decode bs = .ok (i, rest) → step s = timed (exec i s)) ∧
  (∀ (s : State) (o : Host.Outcome State Fault Refusal), s.env.agenda = [] → Running s → s.act.live = true →
    s.eTurn? = some o → step s = timed o) ∧
  (∀ (s : State) (i : Instr) (rest : List Turn), s.env.agenda = .event i :: rest → length i = 0 →
    step s = timed (exec i { s with env := { s.env with agenda := rest } })) ∧
  (∀ (s : State), s.env.agenda = [] → ¬Running s → step s = .fault .partStopped)

/-- 07 R176, R177: bytes that are no instruction kill with reason 3, and with 19 when they are a privileged form at actor
level whose major and minor are in the map. -/
def Obligations.IllegalEncodingKills : Prop :=
  ∀ (s : State) (bs : List Byte) (u : State) (r : Reject), s.env.agenda = [] → Running s → s.act.live = true →
    s.blocked = false → s.eTurn? = none → s.act.issued = none → s.fetch = .ok (some bs, u) → decode bs = .error r →
    let v := u.fetched bs
    (s.act.service = true → step s = timed (.next (v.raise 3 none))) ∧
    (r = .short ∨ r = .compressed ∨ r = .major ∨ r = .minor → step s = timed (.next (v.raise 3 none))) ∧
    (r = .field ∨ r = .value → s.act.service = false →
      step s = timed (.next (v.raise (if privilegedWord (BitVec.ofNat 32 (leNat bs)) then 19 else 3) none)))

/-- 07 R164, R171 to R175: decoding the bytes of a well-formed encoded instruction gives it back, and leaves what follows. -/
def Obligations.DecodeOfEncode : Prop :=
  ∀ i : Instr, WellFormed i = true → length i ≠ 0 →
    ∃ bs, encode i = some bs ∧ bs.length = length i ∧ ∀ rest, decode (bs ++ rest) = .ok (i, rest)

/-- 07 R164, R176: what is decoded is well formed and is the encoding of the instruction decoded: no two encodings share an
instruction, and no bit is ignored. -/
def Obligations.EncodeOfDecode : Prop :=
  ∀ (bs rest : List Byte) (i : Instr), decode bs = .ok (i, rest) →
    WellFormed i = true ∧ ∃ hd, encode i = some hd ∧ bs = hd ++ rest

/-- 07 R171 to R175: words written out field by field from the encoding tables, and the spec's own three examples, decode to
the instructions they stand for; 0x0000 and major 31 to none. -/
def Obligations.SpecWordsDecode : Prop :=
  let w32 (w : BitVec 32) : List Byte := [w.extractLsb' 0 8, w.extractLsb' 8 8, w.extractLsb' 16 8, w.extractLsb' 24 8]
  let w16 (w : BitVec 16) : List Byte := [w.extractLsb' 0 8, w.extractLsb' 8 8]
  (decode [0x83, 0x62, 0x0E, 0x00]).toOption = some (.add 0 7 6 5, []) ∧
  (decode (w32 0x224620A7)).toOption = some (.amoAdd 0 4 1 3 2 1, []) ∧
  (decode (w32 0x0000C2AB)).toOption = some (.fenceRel 3 0 5, []) ∧
  (decode (w32 ((1#5 ++ 8#5 ++ 12#5 ++ 11#5 ++ 13#5) ++ 0x03#7))).toOption = some (.mul 1 12 11 13, []) ∧
  (decode (w32 ((16#12 ++ 3#3 ++ 22#5 ++ 13#5) ++ 0x13#7))).toOption = some (.ldd 16 22 13, []) ∧
  (decode (w32 ((8#12 ++ 3#3 ++ 22#5 ++ 13#5) ++ 0x17#7))).toOption = some (.std 8 22 13, []) ∧
  (decode (w32 ((0xFFE#12 ++ 1#3 ++ 9#5 ++ 8#5) ++ 0x1B#7))).toOption = some (.bne 0xFFE 9 8, []) ∧
  (decode (w32 ((17#5 ++ 3#5 ++ 3#5 ++ 2#5 ++ 1#5) ++ 0x4F#7))).toOption = some (.vfma 1 1 3 2 1, []) ∧
  (decode (w32 ((0#5 ++ 8#5 ++ 0#5 ++ 11#5 ++ 10#5) ++ 0x6B#7))).toOption = some (.preemptStop 11 10, []) ∧
  (decode (w16 (7#3 ++ 0#11 ++ 2#2))).toOption = some (.cNop, []) ∧
  (decode (w16 (3#3 ++ 9#5 ++ 0x3F#6 ++ 1#2))).toOption = some (.cLi 9 0x3F, []) ∧
  (decode (w16 0)).toOption = none ∧
  (decode (w32 0xFFFFFFFF)).toOption = none

/-- 05, 18, 20: every step keeps memory in its canonical form: keys rise, and nothing listed equals what an unlisted byte
reads as. What an unlisted byte reads as is the model's choice (assumption 1). -/
def Obligations.MemoryStaysCanonical : Prop := ∀ s t : State, MemCanonical s → step s = .next t → MemCanonical t

/-- 02 R38: deadlines and times are compared as signed 32-bit differences of units of 256 ns, so two that lie more than 2^31
units apart compare the other way round. -/
def Obligations.DeadlineOrder : Prop :=
  (∀ t : Nat, unitsOf t = BitVec.ofNat 32 (t >>> 8)) ∧
  (∀ d1 d2 : Word32, precedes d1 d2 = decide ((d1 - d2).toInt < 0)) ∧
  (∀ t1 t2 : Nat, t1 / 256 < t2 / 256 →
    (t2 / 256 - t1 / 256 < 2 ^ 31 → precedes (unitsOf t1) (unitsOf t2) = true ∧ precedes (unitsOf t2) (unitsOf t1) = false) ∧
    (2 ^ 31 < t2 / 256 - t1 / 256 → t2 / 256 - t1 / 256 < 2 ^ 32 →
      precedes (unitsOf t1) (unitsOf t2) = false ∧ precedes (unitsOf t2) (unitsOf t1) = true))

/-- 07 R162, 08 R194 to R222: what register forms leave alone, whenever they give a next state: memory; and in an activation
that goes on, every register but xd, and all else that it holds but the pc, the flags, the draw counter and the queues of a
QGET or of a branch on bq. 08 R198, R199: what a load leaves alone, whenever it gives a next state, with no line of memory in
error: every byte; and in an activation that goes on, every register but xd, and all else that it holds but the pc and its
record of what it read ahead and of acquire events. -/
def Obligations.FormsFrame : Prop :=
  (∀ (s t : State) (w u h : BitVec 1) (r : BitVec 3) (n6 : BitVec 6) (n12 : BitVec 12) (o8 : BitVec 8) (o11 : BitVec 11) (n20 : BitVec 20)
    (o : BitVec 3) (c : BitVec 3) (b a d : BitVec 5),
    let frame (i : Instr) (dst : BitVec 5) : Prop := exec i s = .next t →
      (∀ k, SameBytes s t k) ∧ t.acts.length ≤ s.acts.length ∧
      (t.act.live = true →
        (∀ x, x ≠ dst → t.act.getX x = s.act.getX x ∧ t.act.xPoison x = s.act.xPoison x) ∧
        t.act = { s.act with
          x := t.act.x, xp := t.act.xp, pc := t.act.pc, wait := t.act.wait, memo := t.act.memo, issued := t.act.issued
          fflags := t.act.fflags, srctr := t.act.srctr, q := t.act.q, bq := t.act.bq })
    let still (i : Instr) : Prop := exec i s = .next t → t.act.live = true → t.act.fflags = s.act.fflags ∧ t.act.srctr = s.act.srctr
    (∀ i ∈ [Instr.add w b a d, .sub w b a d, .and w b a d, .or w b a d, .xor w b a d, .shl w b a d, .shr w b a d, .sra w b a d,
        .mul w b a d, .mulh w b a d, .mulhn w b a d, .div w b a d, .divn w b a d, .rem w b a d, .remn w b a d, .min w b a d,
        .max w b a d, .minn w b a d, .maxn w b a d, .slt w b a d, .sltn w b a d, .seq w b a d, .clz w a d, .ctz w a d, .popc w a d,
        .andn w b a d, .bext w b a d, .bins w b a d, .addi n12 a d, .andi n12 a d, .ori n12 a d, .xori n12 a d, .shli n6 a d,
        .shri n6 a d, .srai n6 a d, .slti n12 a d, .lih n20 d, .addpc n20 d, .jal n20 d, .jalr n12 a d, .cMv d a, .cAddi d n6,
        .cAdd d a, .cSub d a, .cLi d n6, .cShli d n6, .cAndi d n6, .lox o d, .mfs n12 d, .rstat a d], frame i d ∧ still i) ∧
    (∀ i ∈ [Instr.beq n12 b a, .bne n12 b a, .blt n12 b a, .bge n12 b a, .bltn n12 b a, .bgen n12 b a, .bqt n12, .bqf n12, .cJ o11,
        .cBeqz c o8, .cBnez c o8, .cNop], frame i 0 ∧ still i) ∧
    (∀ i ∈ [Instr.qget h d, .cQget d h], frame i d ∧ still i) ∧
    (∀ i ∈ [Instr.fadd r b a d, .fsub r b a d, .fmul r b a d, .fdiv r b a d, .fsqrt r a d, .ffma r b a d, .fmin b a d, .fmax b a d,
        .fcmplt b a d, .fcmpeq b a d, .fcvti w u r a d, .fcvtf w u r a d], frame i d)) ∧
  (∀ (s t : State) (n : BitVec 12) (w : BitVec 1) (sc : BitVec 4) (o : BitVec 5) (ca cd : BitVec 3) (b a d : BitVec 5),
    s.mem.lineErrs = [] →
    let frame (i : Instr) (dst : BitVec 5) : Prop := exec i s = .next t →
      (∀ k, SameBytes s t k) ∧
      (t.act.live = true →
        (∀ x, x ≠ dst → t.act.getX x = s.act.getX x ∧ t.act.xPoison x = s.act.xPoison x) ∧
        t.act = { s.act with
          x := t.act.x, xp := t.act.xp, pc := t.act.pc, wait := t.act.wait, memo := t.act.memo, issued := t.act.issued
          early := t.act.early, acquires := t.act.acquires })
    frame (.ldb n a d) d ∧ frame (.ldh n a d) d ∧ frame (.ldw n a d) d ∧ frame (.ldd n a d) d ∧ frame (.ldbn n a d) d ∧
    frame (.ldhn n a d) d ∧ frame (.ldwn n a d) d ∧ frame (.ldaq w sc b a d) d ∧
    frame (.cLdd cd ca o) (8 + cd.zeroExtend 5) ∧ frame (.cLdw cd ca o) (8 + cd.zeroExtend 5))

/-- 08 R198, R200, R191, 04 R97, R100: what a store or an atomic leaves alone, whenever it gives a next state. The bytes it
may write lie at its address: in the local window and in the cluster window the pool's, elsewhere those the leaf of its page
names, and before COMMIT none outside the own core's scratchpad (an atomic with a destination first commits: 02 R48). All
other bytes are as before, but that a line is written again whole where a store under another key's generation is the first to
reach it (18 R421). -/
def Obligations.StoresFrame : Prop :=
  ∀ (s t : State) (i : BitVec 12) (w : BitVec 1) (sc : BitVec 4) (o : BitVec 5) (ca cd : BitVec 3) (b a d : BitVec 5) (od : BitVec 2),
    let frame (j : Instr) (va : Word) (n : Nat) (acc : Access) (dst : BitVec 5) : Prop := exec j s = .next t →
      (va.toNat / 2 ^ 48 = 0x70 → ∀ k, ¬(localKey s va ≤ k ∧ k < localKey s va + n) → SameBytes s t k) ∧
      (s.mem.lineErrs = [] → isLocal s.act.core va.toNat = false → s.act.committed = false → dst = 0 → ∀ k, SameBytes s t k) ∧
      (va.toNat / 2 ^ 48 = 0x71 →
        let at0 := poolKey (s.act.core / 8 * 8 + va.toNat % 2 ^ 48 / 2 ^ 24) (va.toNat % 2 ^ 24)
        ∀ k, ¬(at0 ≤ k ∧ k < at0 + n) → SameBytes s t k) ∧
      (s.mem.lineErrs = [] → va.toNat / 2 ^ 48 ≠ 0x70 → va.toNat / 2 ^ 48 ≠ 0x71 →
        ∀ p u, s.translate s.me.die s.me.asid va.toNat acc s.me.service = .ok (p, u) → p.type ≠ 6 →
        ∀ k, ¬(p.addr ≤ k ∧ k < p.addr + n) →
        (k / 64 = p.addr / 64 → look 0 s.mem.lineKeys (k / 64) = 0 ∨
          some (look 0 s.mem.lineKeys (k / 64)) = look? s.mem.keySlots (entryKey p.leaf).toNat) → SameBytes s t k) ∧
      (t.act.live = true →
        (∀ x, x ≠ dst → t.act.getX x = s.act.getX x ∧ t.act.xPoison x = s.act.xPoison x) ∧
        t.act = { s.act with
          x := t.act.x, xp := t.act.xp, pc := t.act.pc, wait := t.act.wait, memo := t.act.memo, issued := t.act.issued
          staged := t.act.staged, early := t.act.early, acquires := t.act.acquires, nth := t.act.nth })
    let A := s.act.getX a
    let I : Word := i.signExtend 64
    let nw := if w = 1 then 4 else 8
    frame (.stb i a d) (A + I) 1 .store 0 ∧ frame (.sth i a d) (A + I) 2 .store 0 ∧ frame (.stw i a d) (A + I) 4 .store 0 ∧
    frame (.std i a d) (A + I) 8 .store 0 ∧ frame (.strl w sc b a d) A nw .store 0 ∧
    frame (.cStd cd ca o) (s.act.getX (8 + ca.zeroExtend 5) + BitVec.ofNat 64 (8 * o.toNat)) 8 .store 0 ∧
    frame (.cStw cd ca o) (s.act.getX (8 + ca.zeroExtend 5) + BitVec.ofNat 64 (4 * o.toNat)) 4 .store 0 ∧
    (d = 0 ∨ s.act.released = true → ∀ j ∈ [Instr.amoSwap w sc od b a d, .amoAdd w sc od b a d, .amoAnd w sc od b a d, .amoOr w sc od b a d, .amoXor w sc od b a d,
      .amoMax w sc od b a d, .amoMin w sc od b a d, .amoCas w sc od b a d], frame j A nw .atomic d)

/-- 04 R95, R97, R102, R103, 18 R409: the order of an access's checks. The first that fails decides the reason of the kill:
poison on the base 10; bits [63:55] 20; alignment 5; an offset beyond the scratchpad 20; no owned region with the right 2. -/
def Obligations.AccessExceptions : Prop :=
  ∀ (s : State) (i : BitVec 12) (a d : BitVec 5), s.act.live = true →
    let va := (s.act.getX a + i.signExtend 64).toNat
    let off := va % 2 ^ 48
    let kills (j : Instr) (n : Nat) (acc : Access) : Prop :=
      let killed (reason : Nat) : Prop := exec j s = .next (s.raise reason none)
      (¬Clean s a → killed 10) ∧
      (Clean s a → 2 ^ 55 ≤ va → killed 20) ∧
      (Clean s a → va < 2 ^ 55 → va % n ≠ 0 → killed 5) ∧
      (Clean s a → va / 2 ^ 48 = 0x70 → va % n = 0 →
        (s.scratchBytes s.act.core < off + n → killed 20) ∧
        (off + n ≤ s.scratchBytes s.act.core →
          (∀ r ∈ (s.regionsOf s.act.name s.act.run s.act.core).toList, r.allows acc off n = false) → killed 2))
    kills (.ldb i a d) 1 .load ∧ kills (.ldh i a d) 2 .load ∧ kills (.ldw i a d) 4 .load ∧ kills (.ldd i a d) 8 .load ∧
    kills (.ldbn i a d) 1 .load ∧ kills (.ldhn i a d) 2 .load ∧ kills (.ldwn i a d) 4 .load ∧
    kills (.stb i a d) 1 .store ∧ kills (.sth i a d) 2 .store ∧ kills (.stw i a d) 4 .store ∧ kills (.std i a d) 8 .store

/-- 08 R194, 06 R159, R160, R161: the two-source integer forms. 06 R161, 08 R195: shifts by the whole of xb, and the bit-field
forms. 08 R194: the counting forms. -/
def Obligations.IntegerResults : Prop :=
  (∀ (s : State) (w : BitVec 1) (b a d : BitVec 5), s.act.live = true →
    let A := s.act.getX a
    let B := s.act.getX b
    let p := s.act.xPoison a || s.act.xPoison b
    let W (i : Instr) (f : (n : Nat) → BitVec n → BitVec n → BitVec n) : Prop := Writes i s 4 d (atW w f A B) p
    W (.add w b a d) (fun _ x y => x + y) ∧
    W (.sub w b a d) (fun _ x y => x - y) ∧
    W (.and w b a d) (fun _ x y => x &&& y) ∧
    W (.or w b a d) (fun _ x y => x ||| y) ∧
    W (.xor w b a d) (fun _ x y => x ^^^ y) ∧
    W (.andn w b a d) (fun _ x y => x &&& ~~~y) ∧
    W (.mul w b a d) (fun _ x y => x * y) ∧
    W (.mulh w b a d) (fun n x y => (x.signExtend (2 * n) * y.signExtend (2 * n)).extractLsb' n n) ∧
    W (.mulhn w b a d) (fun n x y => (x.zeroExtend (2 * n) * y.zeroExtend (2 * n)).extractLsb' n n) ∧
    W (.div w b a d) (fun n x y => if y = 0 then BitVec.allOnes n else x.sdiv y) ∧
    W (.divn w b a d) (fun n x y => if y = 0 then BitVec.allOnes n else x.udiv y) ∧
    W (.rem w b a d) (fun _ x y => if y = 0 then x else x.srem y) ∧
    W (.remn w b a d) (fun _ x y => if y = 0 then x else x.umod y) ∧
    W (.min w b a d) (fun _ x y => if x.slt y then x else y) ∧
    W (.max w b a d) (fun _ x y => if x.slt y then y else x) ∧
    W (.minn w b a d) (fun _ x y => if x.ult y then x else y) ∧
    W (.maxn w b a d) (fun _ x y => if x.ult y then y else x) ∧
    W (.slt w b a d) (fun _ x y => if x.slt y then 1 else 0) ∧
    W (.sltn w b a d) (fun _ x y => if x.ult y then 1 else 0) ∧
    W (.seq w b a d) (fun _ x y => if x = y then 1 else 0)) ∧
  (∀ (s : State) (w : BitVec 1) (b a d : BitVec 5), s.act.live = true →
    let A := s.act.getX a
    let B := (s.act.getX b).toNat
    let pos := B % 2 ^ 32
    let len := B / 2 ^ 32
    let p := s.act.xPoison a || s.act.xPoison b
    Writes (.shl w b a d) s 4 d (atW1 w (fun _ x => x <<< B) A) p ∧
    Writes (.shr w b a d) s 4 d (atW1 w (fun _ x => x >>> B) A) p ∧
    Writes (.sra w b a d) s 4 d (atW1 w (fun _ x => x.sshiftRight B) A) p ∧
    Writes (.bext w b a d) s 4 d (atW1 w (fun n x => if len < n then BitVec.ofNat n ((x >>> pos).toNat % 2 ^ len) else x >>> pos) A) p ∧
    Writes (.bins w b a d) s 4 d
      (atW w (fun n x y => let m := BitVec.ofNat n (2 ^ min len n - 1); (y &&& ~~~(m <<< pos)) ||| ((x &&& m) <<< pos)) A (s.act.getX d))
      (p || s.act.xPoison d)) ∧
  (∀ (s : State) (w : BitVec 1) (a d : BitVec 5), s.act.live = true →
    let n := if w = 1 then 32 else 64
    let A := (s.act.getX a).toNat % 2 ^ n
    let p := s.act.xPoison a
    (∃ k, Writes (.clz w a d) s 4 d (BitVec.ofNat 64 k) p ∧ k ≤ n ∧ A < 2 ^ (n - k) ∧ (k < n → 2 ^ (n - k - 1) ≤ A)) ∧
    (∃ k, Writes (.ctz w a d) s 4 d (BitVec.ofNat 64 k) p ∧ k ≤ n ∧ 2 ^ k ∣ A ∧ (k < n → A.testBit k = true) ∧ (k = n → A = 0)) ∧
    Writes (.popc w a d) s 4 d (BitVec.ofNat 64 ((List.range n).countP fun i => A.testBit i)) p)

/-- 08 R196, R197: the immediate forms and constants. 07 R175: the compressed register forms are their 32-bit instructions,
two bytes long. -/
def Obligations.ImmediateAndCompressedResults : Prop :=
  (∀ (s : State) (i : BitVec 12) (n : BitVec 6) (j : BitVec 20) (a d : BitVec 5), s.act.live = true →
    let A := s.act.getX a
    let I : Word := i.signExtend 64
    let J : Word := (j ++ 0#12).signExtend 64
    let p := s.act.xPoison a
    Writes (.addi i a d) s 4 d (A + I) p ∧
    Writes (.andi i a d) s 4 d (A &&& I) p ∧
    Writes (.ori i a d) s 4 d (A ||| I) p ∧
    Writes (.xori i a d) s 4 d (A ^^^ I) p ∧
    Writes (.shli n a d) s 4 d (A <<< n.toNat) p ∧
    Writes (.shri n a d) s 4 d (A >>> n.toNat) p ∧
    Writes (.srai n a d) s 4 d (A.sshiftRight n.toNat) p ∧
    Writes (.slti i a d) s 4 d (if A.slt I then 1 else 0) p ∧
    Writes (.lih j d) s 4 d J false ∧
    Writes (.addpc j d) s 4 d (s.act.pc + J) false) ∧
  (∀ (s : State) (i n : BitVec 6) (a d : BitVec 5), s.act.live = true →
    let A := s.act.getX a
    let D := s.act.getX d
    let I : Word := i.signExtend 64
    let p := s.act.xPoison d
    Writes (.cMv d a) s 2 d A (s.act.xPoison a) ∧
    Writes (.cAddi d i) s 2 d (D + I) p ∧
    Writes (.cAdd d a) s 2 d (D + A) (p || s.act.xPoison a) ∧
    Writes (.cSub d a) s 2 d (D - A) (p || s.act.xPoison a) ∧
    Writes (.cLi d i) s 2 d I false ∧
    Writes (.cShli d n) s 2 d (D <<< n.toNat) p ∧
    Writes (.cAndi d i) s 2 d (D &&& I) p ∧
    exec .cNop s = .next (s.advance 2))

/-- 07 R162, R163: register 0 reads zero and is clean, a write to it is ignored, and a write to another register changes that
register alone. -/
def Obligations.RegisterFile : Prop :=
  (∀ (a : Act), a.getX 0 = 0 ∧ a.xPoison 0 = false) ∧
  (∀ (a : Act) (v : Word) (p : Bool), a.setX 0 v p = a) ∧
  (∀ (a : Act) (d : BitVec 5) (v : Word) (p : Bool), d ≠ 0 →
    (a.setX d v p).getX d = v ∧ (a.setX d v p).xPoison d = p ∧
    ∀ r, r ≠ d → (a.setX d v p).getX r = a.getX r ∧ (a.setX d v p).xPoison r = a.xPoison r) ∧
  (∀ (s : State) (w : BitVec 1) (b a : BitVec 5) (i : BitVec 12), s.act.live = true →
    exec (.add w b a 0) s = .next (s.advance 4) ∧ exec (.addi i a 0) s = .next (s.advance 4))

/-- 08 R201, R202: branches and jumps, from an even pc. 08 R201: BQT and BQF pop the bit at the head of bq, and take the
branch on 1 and on 0. -/
def Obligations.BranchesAndJumps : Prop :=
  (∀ (s : State) (o i : BitVec 12) (o8 : BitVec 8) (o11 : BitVec 11) (o20 : BitVec 20) (c : BitVec 3) (b a d : BitVec 5),
    s.act.live = true → s.act.pc.toNat % 2 = 0 → Clean s a → Clean s b → Clean s (8 + c.zeroExtend 5) →
    let A := s.act.getX a
    let B := s.act.getX b
    let C := s.act.getX (8 + c.zeroExtend 5)
    let pc := s.act.pc
    let go (j : Instr) (taken : Bool) : Prop :=
      exec j s = .next (if taken then goTo s (pc + o.signExtend 64 * 2) else s.advance 4)
    let go2 (j : Instr) (taken : Bool) : Prop :=
      exec j s = .next (if taken then goTo s (pc + o8.signExtend 64 * 2) else s.advance 2)
    go (.beq o b a) (A == B) ∧ go (.bne o b a) (A != B) ∧
    go (.blt o b a) (A.slt B) ∧ go (.bge o b a) (!A.slt B) ∧
    go (.bltn o b a) (A.ult B) ∧ go (.bgen o b a) (!A.ult B) ∧
    go2 (.cBeqz c o8) (C == 0) ∧ go2 (.cBnez c o8) (C != 0) ∧
    exec (.jal o20 d) s = .next ((goTo s (pc + o20.signExtend 64 * 2)).modAct fun x => x.setX d (pc + 4)) ∧
    exec (.cJ o11) s = .next (goTo s (pc + o11.signExtend 64 * 2)) ∧
    ((A + i.signExtend 64).toNat % 2 = 0 →
      exec (.jalr i a d) s = .next ((goTo s (A + i.signExtend 64)).modAct fun x => x.setX d (pc + 4)))) ∧
  (∀ (s : State) (o : BitVec 12) (v : Bool) (rest : List (Bool × Bool)),
    s.act.live = true → s.act.pc.toNat % 2 = 0 → s.act.bq = (v, false) :: rest →
    let u := s.modAct fun a => { a with bq := rest }
    let go (j : Instr) (taken : Bool) : Prop :=
      exec j s = .next (if taken then goTo u (s.act.pc + o.signExtend 64 * 2) else u.advance 4)
    go (.bqt o) v ∧ go (.bqf o) (!v))

/-- 08 R198, R199, 04 R95: loads from the local window of bytes that no armed port guards and no store of the actor's own
still holds, with no acquire event to wait for. 08 R198, R200, R212, 04 R95: stores to the local window with nothing
outstanding are performed at once. It rests on the model's readings in assumptions 26, 74. -/
def Obligations.LocalLoadsAndStores : Prop :=
  (∀ (s : State) (i : BitVec 12) (w : BitVec 1) (sc : BitVec 4) (o : BitVec 5) (ca cd : BitVec 3) (b a d : BitVec 5),
    s.act.live = true → (s.core s.act.core).ports = [] → InOrder s → Unwritten s →
    let load (j : Instr) (len : Nat) (base : BitVec 5) (off : Word) (n : Nat) (dst : BitVec 5) (signed : Bool) : Prop :=
      Clean s base → LocalOk s (s.act.getX base + off) n n .load →
      let r := s.readPlain (dieOf s.act.core) (localKey s (s.act.getX base + off)) n
      let v := leNat r.1
      Writes j s len dst (if signed then (BitVec.ofNat (8 * n) v).signExtend 64 else BitVec.ofNat 64 v) r.2
    let p3 (r : BitVec 3) : BitVec 5 := 8 + r.zeroExtend 5
    load (.ldb i a d) 4 a (i.signExtend 64) 1 d true ∧
    load (.ldh i a d) 4 a (i.signExtend 64) 2 d true ∧
    load (.ldw i a d) 4 a (i.signExtend 64) 4 d true ∧
    load (.ldd i a d) 4 a (i.signExtend 64) 8 d true ∧
    load (.ldbn i a d) 4 a (i.signExtend 64) 1 d false ∧
    load (.ldhn i a d) 4 a (i.signExtend 64) 2 d false ∧
    load (.ldwn i a d) 4 a (i.signExtend 64) 4 d false ∧
    load (.cLdd cd ca o) 2 (p3 ca) (BitVec.ofNat 64 (8 * o.toNat)) 8 (p3 cd) true ∧
    load (.cLdw cd ca o) 2 (p3 ca) (BitVec.ofNat 64 (4 * o.toNat)) 4 (p3 cd) true ∧
    (sc.toNat ≤ 10 → MaskOk s b → load (.ldaq w sc b a d) 4 a 0 (if w = 1 then 4 else 8) d true)) ∧
  (∀ (s : State) (i : BitVec 12) (w : BitVec 1) (sc : BitVec 4) (o : BitVec 5) (ca cd : BitVec 3) (b a d : BitVec 5),
    s.act.live = true → Quiet s →
    let store (j : Instr) (len : Nat) (base : BitVec 5) (off : Word) (n : Nat) (src : BitVec 5) : Prop :=
      Clean s base → LocalOk s (s.act.getX base + off) n n .store →
      exec j s = .next ((s.writeNow 0 (localKey s (s.act.getX base + off)) (leBytes n (s.act.getX src).toNat)
        (s.act.xPoison src)).advance len)
    let p3 (r : BitVec 3) : BitVec 5 := 8 + r.zeroExtend 5
    store (.stb i a d) 4 a (i.signExtend 64) 1 d ∧
    store (.sth i a d) 4 a (i.signExtend 64) 2 d ∧
    store (.stw i a d) 4 a (i.signExtend 64) 4 d ∧
    store (.std i a d) 4 a (i.signExtend 64) 8 d ∧
    store (.cStd cd ca o) 2 (p3 ca) (BitVec.ofNat 64 (8 * o.toNat)) 8 (p3 cd) ∧
    store (.cStw cd ca o) 2 (p3 ca) (BitVec.ofNat 64 (4 * o.toNat)) 4 (p3 cd) ∧
    (sc.toNat ≤ 10 → MaskOk s b → store (.strl w sc b a d) 4 a 0 (if w = 1 then 4 else 8) d))

/-- 08 R204, R205: an atomic with a destination, on a committed activation, in the local window: it writes xd with the old
value, sign-extended, and memory with the new. -/
def Obligations.LocalAtomics : Prop :=
  ∀ (s : State) (w : BitVec 1) (sc : BitVec 4) (b a d : BitVec 5),
    s.act.live = true → s.act.released = true → Quiet s → sc.toNat ≤ 10 → d ≠ 0 →
    Clean s a → Clean s b → CleanO s 0 →
    let n := if w = 1 then 4 else 8
    LocalOk s (s.act.getX a) n n .atomic →
    let k := localKey s (s.act.getX a)
    let r := s.readPlain (dieOf s.act.core) k n
    r.2 = false →
    let old := leNat r.1
    let v := (s.act.getX b).toNat % 2 ^ (8 * n)
    let cmp := (s.act.getO 0).toNat % 2 ^ (8 * n)
    let int (x : Nat) : Int := (BitVec.ofNat (8 * n) x).toInt
    let answer (t : State) : State := t.result 4 d ((BitVec.ofNat (8 * n) old).signExtend 64) false
    let amo (j : Instr) (new : Nat) : Prop := exec j s = .next (answer (s.writeNow 0 k (leBytes n new) false))
    amo (.amoSwap w sc 0 b a d) v ∧
    amo (.amoAdd w sc 0 b a d) ((old + v) % 2 ^ (8 * n)) ∧
    amo (.amoAnd w sc 0 b a d) (old &&& v) ∧
    amo (.amoOr w sc 0 b a d) (old ||| v) ∧
    amo (.amoXor w sc 0 b a d) (old ^^^ v) ∧
    amo (.amoMax w sc 0 b a d) (if int old < int v then v else old) ∧
    amo (.amoMin w sc 0 b a d) (if int v < int old then v else old) ∧
    exec (.amoCas w sc 0 b a d) s = .next (answer (if old = cmp then s.writeNow 0 k (leBytes n v) false else s))

/-- 08 R206, R208 to R213, 05 R125: fences and guard slots with nothing outstanding. 08 R210, 04 R104: HDEF reads a descriptor
of 64 bytes from the local window and keeps the handle in its slot. -/
def Obligations.FencesAndGuards : Prop :=
  (∀ (s : State) (m : BitVec 16) (r : BitVec 1) (sc : BitVec 4) (g : BitVec 4) (b a d : BitVec 5),
    s.act.live = true → s.counted = [] → InOrder s →
    (sc.toNat ≤ 10 →
      let u := (if s.act.committed then s else s.modAct fun x => { x with staged := x.staged ++ [.fence (r ++ m) sc.toNat] }).advance 4
      exec (.fenceRel m r sc) s = .next u ∧ exec (.fenceFull m r sc) s = .next u ∧ exec (.fenceAcq m r sc) s = .next (s.advance 4)) ∧
    (Clean s a → Clean s b → (s.act.getX a).toNat + (s.act.getX b).toNat ≤ 2 ^ 55 → (s.act.getX a).toNat < 2 ^ 55 →
      exec (.rdef b a g) s = .next ((s.setGuard g (if s.act.getX b = 0 then .empty
        else .range (s.act.getX a).toNat (s.act.getX b).toNat)).advance 4)) ∧
    exec (.rclr g) s = .next ((s.setGuard g .empty).advance 4) ∧
    (a.toNat ≤ 16 →
      let kind : Nat := if a = 16 then 3 else match vget s.act.guards a.toNat with
        | .empty => 0
        | .range _ _ => 1
        | .handle _ => 2
      Writes (.rstat a d) s 4 d (BitVec.ofNat 64 (kind * 2 ^ 32)) false)) ∧
  (∀ (s : State) (g : BitVec 4) (a : BitVec 5) (bs : List Byte) (t : Tensor),
    s.act.live = true → s.counted = [] → (s.core s.act.core).ports = [] → InOrder s → Unwritten s →
    Clean s a → LocalOk s (s.act.getX a) 64 64 .load →
    s.readPlain (dieOf s.act.core) (localKey s (s.act.getX a)) 64 = (bs, false) → parseTensor bs = .ok t →
    exec (.hdef a g) s = .next ((s.setGuard g (.handle t)).advance 4))

/-- 05 R125: QFENCE puts one join, all of one number, at the tail of each queue named that the core has. 09 R225: the queues
between the streams: eight entries deep, an entry leaves in the order it came, with its poison. -/
def Obligations.QueueFenceAndMoves : Prop :=
  (∀ (s : State) (q : BitVec 7), s.act.live = true →
    let has (n : Nat) : Bool := q.getLsbD n && !(n == 4 && isService s.act.core)
    (∀ n < 7, has n = true → (vget (s.core s.act.core).queues n).length < 16) →
    Completes (.qfence q) s fun t =>
      t.act = (s.advance 4).act ∧ t.mem = s.mem ∧
      (∃ id, ∀ n < 7,
        (has n = false → vget (t.core s.act.core).queues n = vget (s.core s.act.core).queues n) ∧
        (has n = true → ∃ e, vget (t.core s.act.core).queues n = vget (s.core s.act.core).queues n ++ [e] ∧
          e.op = .join id ∧ e.aid = s.act.aid)) ∧
      ∀ c, c ≠ s.act.core → t.core c = s.core c) ∧
  (∀ (s : State) (a d : BitVec 5) (q : BitVec 2) (h : BitVec 1), s.act.live = true →
    ((s.act.queue q.toNat).length < 8 →
      let u := s.modAct fun x => x.setQueue q.toNat (s.act.queue q.toNat ++ [(s.act.getX a, s.act.xPoison a)])
      exec (.qput a q) s = .next (u.advance 4) ∧ exec (.cQput q a) s = .next (u.advance 2)) ∧
    (∀ v p rest, s.act.queue (4 + h.toNat) = (v, p) :: rest →
      let u := s.modAct fun x => x.setQueue (4 + h.toNat) rest
      exec (.qget h d) s = .next (u.result 4 d v p) ∧ exec (.cQget d h) s = .next (u.result 2 d v p)))

/-- 08 R214, R216, R218: the o registers, and special registers read. 08 R214, R215, 16 R370: special registers written: the
flags, the rounding mode and the tolerance by an actor; the selectors and a partition's registers at service level. -/
def Obligations.SpecialRegisters : Prop :=
  (∀ (s : State) (n : BitVec 12) (o : BitVec 3) (a d : BitVec 5), s.act.live = true →
    Writes (.lox o d) s 4 d (s.act.getO o.toNat) (s.act.oPoison o.toNat) ∧
    (Clean s a → exec (.mox o a) s = .next
      ((s.modAct fun x => { x with o := vset x.o o.toNat (s.act.getX a), op := x.op &&& ~~~(1#8 <<< o.toNat) }).advance 4)) ∧
    Writes (.mfs 0x000 d) s 4 d s.act.name false ∧
    Writes (.mfs 0x010 d) s 4 d (BitVec.ofNat 64 s.env.time) false ∧
    (s.act.eseq.idle = true → Writes (.mfs 0x012 d) s 4 d (s.act.fflags.zeroExtend 64) false ∧
      Writes (.mfs 0x013 d) s 4 d (s.act.frm.zeroExtend 64) false ∧ Writes (.mfs 0x014 d) s 4 d s.act.srctr false) ∧
    (n.toNat < 0x800 → s.act.eseq.idle = true → ∀ v, s.readUser n.toNat = some v → Writes (.mfs n d) s 4 d v false) ∧
    (0x800 ≤ n.toNat → s.act.service = true → ∀ v, s.readPrivileged n.toNat = some v → Writes (.mfs n d) s 4 d v false)) ∧
  (∀ (s : State) (a : BitVec 5), s.act.live = true → Clean s a →
    let v := s.act.getX a
    (s.act.eseq.idle = true →
      exec (.mts 0x012 a) s = .next ((s.modAct fun x => { x with fflags := v.setWidth 5 }).advance 4) ∧
      (v.toNat % 8 ≤ 4 → exec (.mts 0x013 a) s = .next ((s.modAct fun x => { x with frm := v.setWidth 4 }).advance 4))) ∧
    exec (.mts 0x015 a) s = .next ((s.modAct fun x => { x with tol := v.setWidth 32 }).advance 4) ∧
    (s.act.service = true →
      (v.toNat ≤ 47 → exec (.mts 0x800 a) s = .next ((s.modAct fun x => { x with psel := v.setWidth 6 }).advance 4)) ∧
      (v.toNat < 2 ^ 16 → v ≠ 0 → exec (.mts 0x820 a) s = .next ((s.modAct fun x => { x with jsel := v.setWidth 16 }).advance 4)) ∧
      (v.toNat < 2 ^ 32 → exec (.mts 0x817 a) s = .next
        ((s.modPart s.act.psel.toNat fun t => { t with slack := v.setWidth 32 }).advance 4)) ∧
      (v.toNat < 2 ^ 16 → (s.part s.act.psel.toNat).state = 0 → exec (.mts 0x812 a) s = .next
        ((s.modPart s.act.psel.toNat fun t => { t with asid := v.setWidth 16 }).advance 4))))

/-- 08 R223, R224: TRAP with a zero condition only moves on, and with another takes its reason's exception; UDF takes the
exception of an illegal instruction. 08 R214, 16 R362: what a special register's privilege and kind forbid kills the actor
with 19. 16 R362: at user level a privileged instruction takes the exception with reason 19. -/
def Obligations.TrapsAndPrivilege : Prop :=
  (∀ (s : State) (i : BitVec 15) (b a : BitVec 5), s.act.live = true →
    let r := (s.act.getX b).toNat
    (Clean s a → Clean s b →
      exec (.trap b a) s = .next (if s.act.getX a = 0 then s.advance 4 else s.raise (if 1 ≤ r ∧ r ≤ 20 then r else 1) none)) ∧
    exec (.udf b i) s = .next (s.raise 3 none)) ∧
  (∀ (s : State) (n : BitVec 12) (a d : BitVec 5), s.act.live = true →
    (0x800 ≤ n.toNat → s.act.service = false →
      exec (.mfs n d) s = .next (s.raise 19 none) ∧ exec (.mts n a) s = .next (s.raise 19 none)) ∧
    (Clean s a → exec (.mts 0x000 a) s = .next (s.raise 19 none) ∧ exec (.mts 0x010 a) s = .next (s.raise 19 none))) ∧
  (∀ (s : State) (l : BitVec 1) (b a d : BitVec 5), s.act.live = true → s.act.service = false →
    ∀ i ∈ [Instr.sinv l b a, .frply b a, .dlogh a, .inj b a, .keyreq a d, .attest a d, .mflip a d, .preemptResume a d, .preemptStop a d,
        .preemptClear a d, .halt a],
      exec i s = .next (s.raise 19 none))

/-- 08 R220 to R222, 06 R147 to R154: scalar floating point. Each result is the exact one rounded once to FP32 in the mode
selected, the upper half of xd zero; a conversion to an integer saturates. -/
def Obligations.ScalarFloatResults : Prop :=
  ∀ (s : State) (w u : BitVec 1) (r : BitVec 3) (b a d : BitVec 5) (mode : Nat),
    s.act.live = true → (if r = 7 then s.act.frm.toNat % 8 else r.toNat) = mode → mode ≤ 4 →
    let A := s.act.fpX a
    let B := s.act.fpX b
    let D := s.act.fpX d
    let rdn := decide (mode = 3)
    let pa := s.act.xPoison a
    let pb := s.act.xPoison b
    let done (t : State) (f : Flags) (v : Word) (p : Bool) : State := (t.modAct fun x => { x with fflags := x.fflags ||| f }).result 4 d v p
    let drawn := if mode = 4 then s.modAct fun x => { x with srctr := x.srctr + 1 } else s
    let rnd := drawAt (s.seedOf s.act.job) (s.lcoreOf s.act) s.act.srctr
    let round (j : Instr) (x : FV × Flags) (p : Bool) : Prop :=
      let c := round32 mode rnd x.1
      exec j s = .next (done drawn (x.2 ||| c.2) (BitVec.ofNat 64 (c.1 % 2 ^ 32)) p)
    let plain (j : Instr) (v : Nat) (f : Flags) : Prop := exec j s = .next (done s f (BitVec.ofNat 64 (v % 2 ^ 32)) (pa || pb))
    let lo (x : BitVec 5) : Nat := (s.act.getX x).toNat % 2 ^ 32
    round (.fadd r b a d) (A.add rdn B) (pa || pb) ∧
    round (.fsub r b a d) (A.add rdn B.neg) (pa || pb) ∧
    round (.fmul r b a d) (A.mul B) (pa || pb) ∧
    round (.fdiv r b a d) (A.div B) (pa || pb) ∧
    round (.fsqrt r a d) A.sqrt pa ∧
    round (.ffma r b a d) (FV.fma rdn A B D) (pa || pb || s.act.xPoison d) ∧
    round (.fcvtf w u r a d) (FV.ofInt (intOf (u == 0) (if w = 1 then 32 else 64) (s.act.getX a).toNat), 0) pa ∧
    plain (.fmin b a d) (fp32.minMax false (lo a) (lo b)).1 (fp32.minMax false (lo a) (lo b)).2 ∧
    plain (.fmax b a d) (fp32.minMax true (lo a) (lo b)).1 (fp32.minMax true (lo a) (lo b)).2 ∧
    plain (.fcmplt b a d) (if A.isNan || B.isNan then 0 else if A.cmp B < 0 then 1 else 0) (if A.isNan || B.isNan then flagNV else 0) ∧
    plain (.fcmpeq b a d) (if A.isNan || B.isNan then 0 else if A.cmp B = 0 then 1 else 0)
      (if A.isSignalling || B.isSignalling then flagNV else 0) ∧
    (let n := if w = 1 then 32 else 64
     let v := A.toInt mode rnd (u == 0) n
     exec (.fcvti w u r a d) s = .next (done drawn v.2
       (if w = 1 ∧ u = 0 then (BitVec.ofInt 32 v.1).signExtend 64 else BitVec.ofNat 64 (v.1 % (2 ^ n : Nat)).toNat) pa))

/-- 12 R311, R327, R328, 02 R47: before COMMIT, messages are built at issue and staged. 11 R307: before COMMIT an addition to
a counter is staged, with the global counter's owner from o0. 12 R340, R339: before COMMIT a ROUTE without a destination is
staged with its operands. It rests on the model's reading in assumption 35. -/
def Obligations.EffectsAreStaged : Prop :=
  (∀ (s : State) (sc : BitVec 4) (a b : BitVec 5), MayStage s → sc.toNat ≤ 10 → MaskOk s a → MsgOk s →
    Stages (.send sc a) s 4 (.send (builtMsg s) none (maskIn s a) sc.toNat) ∧
    Stages (.cSend a sc) s 2 (.send (builtMsg s) none (maskIn s a) sc.toNat) ∧
    Stages (.reply sc a) s 4
      (.send { builtMsg s with
          w0 := s.act.msg.w1
          w2 := wordTwo ((s.act.getO 2 &&& ~~~0x0000FFFF00000000) ||| (s.act.msg.w2 &&& 0x0000FFFF00000000)) (msgPhase s.act.msg) }
        none (maskIn s a) sc.toNat) ∧
    (Clean s b → (s.act.getX b).toNat < 2 ^ 48 → nameKind (s.act.getO 0) ≠ 2 → nameKind (s.act.getO 0) ≠ 0 →
      Stages (.sendn sc b a 0) s 4 (.sendn (builtMsg s) (s.act.getX b) none (maskIn s a) sc.toNat)) ∧
    (∀ slot, Clean s b → s.slotHandle (s.act.getX b) = .ok slot →
      Stages (.sendd sc b a) s 4
        (.sendd { builtMsg s with
            w2 := (builtMsg s).w2 ||| 0x80000
            w3 := (builtMsg s).w3 ||| BitVec.ofNat 64 ((slot % 65536 + 1) * 2 ^ 48) }
          slot (maskIn s a) sc.toNat))) ∧
  (∀ (s : State) (h : BitVec 1) (sc : BitVec 4) (s3 : BitVec 3) (c3 : BitVec 3) (a b c : BitVec 5), MayStage s →
    let n := c.toNat + 32 * h.toNat
    (sc.toNat ≤ 10 → MaskOk s b → Clean s a → (s.act.getX a).toNat < 2 ^ 32 →
      Stages (.cinc h sc b a c) s 4 (.cinc none n ((s.act.getX a).setWidth 32) (maskIn s b) sc.toNat)) ∧
    (sc.toNat ≤ 10 → MaskOk s b → Clean s a → (s.act.getX a).toNat / 2 ^ 32 = 1 → CleanO s 0 → nameKind (s.act.getO 0) = 0 →
      Stages (.cinc h sc b a c) s 4 (.cinc (some (s.act.getO 0)) n ((s.act.getX a).setWidth 32) (maskIn s b) sc.toNat)) ∧
    (let r : BitVec 5 := 8 + c3.zeroExtend 5
     Clean s r → (s.act.getX r).toNat < 2 ^ 32 →
      Stages (.cCinc c c3 s3) s 2 (.cinc none c.toNat ((s.act.getX r).setWidth 32) 0 s3.toNat))) ∧
  (∀ (s : State) (sc : BitVec 4) (a : BitVec 5) (w2 w3 : Word), MayStage s → sc.toNat ≤ 10 → MaskOk s a →
    s.act.memo = .none → s.routeChecked = .ok (w2, w3) →
    let o := s.act.getO
    Stages (.route sc a 0) s 4 (.route (o 0) (o 1) w2 w3 (o 4) (o 5) (o 6) (o 7) (s.act.oPoison 7) (maskIn s a) sc.toNat))

/-- 02 R36: a send whose kind is 0xFF00 or above, or that sets REDELIVERED, FROM_HOST, HAS_GRANT or HAS_DEP, or whose word 3
has an upper half, kills its actor with reason 3 at issue, and nothing is staged or sent; GIVE and SENDD as well. -/
def Obligations.RefusedSends : Prop :=
  ∀ (s : State) (sc : BitVec 4) (a b : BitVec 5) (m n : BitVec 3), s.act.live = true → sc.toNat ≤ 10 → MaskOk s a →
    CleanO s 0 → CleanO s 2 → CleanO s 3 → nameKind (s.act.getO 0) ≠ 3 →
    let w2 := s.act.getO 2
    let refused (i : Instr) : Prop := exec i s = .next (s.raise 3 none)
    (0xFF00 ≤ (w2.extractLsb' 0 16).toNat ∨ w2.getLsbD 24 ∨ w2.getLsbD 20 ∨ w2.getLsbD 19 ∨ w2.getLsbD 18 ∨
      (s.act.getO 3).extractLsb' 32 32 ≠ 0) →
    refused (.send sc a) ∧ refused (.cSend a sc) ∧ refused (.reply sc a) ∧
    (Clean s b → (s.act.getX b).toNat < 2 ^ 48 → ∀ d, refused (.sendn sc b a d)) ∧
    ((s.myRegion n.toNat).state = .owned → refused (.give sc m a n)) ∧
    (Clean s b → refused (.sendd sc b a)) ∧
    (s.raise 3 none).wire.flights = s.wire.flights ∧ (s.raise 3 none).dir.slots = s.dir.slots ∧ (s.raise 3 none).mem = s.mem ∧
    ∀ x ∈ s.act :: s.acts, x.name = s.act.name → s.killable s.act.name = true → x ∉ (s.raise 3 none).acts

/-- 12 R329, 04 R92, R94: with no entry of the core and no store of the actor's own still to write the region, and no acquire
event awaited that covers it, GIVE captures the bytes of an owned region at issue, marks the region given, and stages the
message with the grant. -/
def Obligations.GiveCapturesRegion : Prop :=
  ∀ (s : State) (sc : BitVec 4) (m n : BitVec 3) (a : BitVec 5), MayStage s → sc.toNat ≤ 10 → MaskOk s a → MsgOk s →
    (s.myRegion n.toNat).state = .owned → s.awaitRegion (s.myRegion n.toNat) = .ok () →
    s.act.mayRead (localVa (s.myRegion n.toNat).offset) (s.myRegion n.toNat).size = true →
    Completes (.give sc m a n) s fun t =>
      (∃ g : Grant, g.bytes = (s.readPlain (dieOf s.act.core) (poolKey s.act.core (s.myRegion n.toNat).offset) (s.myRegion n.toNat).size).1 ∧
        t.act.staged = s.act.staged ++ [.send { builtMsg s with
            w2 := (builtMsg s).w2 ||| 0x40000
            w3 := (builtMsg s).w3 ||| BitVec.ofNat 64 ((m.toNat + 1) * 2 ^ 32), grant := some g }
          (some n.toNat) (maskIn s a) sc.toNat]) ∧
      (s.poolOf s.act.name = none → s.act.run = 0 → (t.myRegion n.toNat).state = .given) ∧
      t.act.pc = s.act.pc + 4 ∧ t.act.x = s.act.x ∧ t.act.o = s.act.o ∧ t.mem = s.mem ∧ t.wire = s.wire

/-- 11 R306, R308, R309: counters of the activation's own core, for a run of a mirrored child but for reading them (03 R85),
and waits that are met, which acquire for what they cover (05 R130). 11 R297: ARM records a port on an owned, writable region,
with its counter's value and the expected count; DISARM removes the actor's own. -/
def Obligations.CountersAndPorts : Prop :=
  (∀ (s : State) (h : BitVec 1) (sc : BitVec 4) (s3 c3 : BitVec 3) (a b c d : BitVec 5), s.act.live = true →
    let n := c.toNat + 32 * h.toNat
    let now (k : Nat) : Word32 := (s.core s.act.core).counter k
    let met (k : Nat) (target : Word32) : Prop := (now k - target).msb = false
    (Solo s → Writes (.crd h d c) s 4 d ((now n).zeroExtend 64) false) ∧
    (Clean s a → (s.act.getX a).toNat < 2 ^ 32 →
      let v : Word32 := (s.act.getX a).setWidth 32
      Completes (.cset h a c) s (fun t => (t.core s.act.core).counter n = v ∧ t.act.pc = s.act.pc + 4 ∧ t.act.x = s.act.x ∧ t.mem = s.mem ∧
        ∀ k, k ≠ n → (t.core s.act.core).counter k = now k) ∧
      Completes (.caddl h a c) s (fun t => (t.core s.act.core).counter n = now n + v ∧ t.act.pc = s.act.pc + 4 ∧ t.act.x = s.act.x ∧ t.mem = s.mem ∧
        ∀ k, k ≠ n → (t.core s.act.core).counter k = now k) ∧
      (sc.toNat ≤ 10 → MaskOk s b → met n v → exec (.waitc h sc b a c) s = .next ((s.modAct (·.acquired (maskIn s b))).advance 4))) ∧
    (sc.toNat ≤ 10 → CleanO s 7 → (s.act.getO 7).toNat < 2 ^ 17 → Clean s a → s.act.memo = .none → s.act.wait = .none →
      met n ((s.act.getX a).setWidth 32) → exec (.waitct h sc d a c) s = .next ((s.modAct (·.acquired ((s.act.getO 7).setWidth 17))).result 4 d 1)) ∧
    (let r : BitVec 5 := 8 + c3.zeroExtend 5
     Clean s r → (s.act.getX r).toNat < 2 ^ 32 → met c.toNat ((s.act.getX r).setWidth 32) →
      exec (.cWaitc c c3 s3) s = .next ((s.modAct (·.acquired 0)).advance 2))) ∧
  (∀ (s : State) (a : BitVec 5) (d : BitVec 4), s.act.live = true →
    (let v := s.act.getX a
     Clean s a → v.extractLsb' 14 18 = 0 → v.extractLsb' 3 5 = 0 →
     (s.myRegion (v.extractLsb' 0 3).toNat).state = .owned → (s.myRegion (v.extractLsb' 0 3).toNat).w = true →
     (∀ p ∈ (s.core s.act.core).ports, p.num = d.toNat → p.actor = s.act.name) →
     let k := (v.extractLsb' 8 6).toNat
     Completes (.arm a d) s fun t => t.act = (s.advance 4).act ∧ t.mem = s.mem ∧
       (t.core s.act.core).port d.toNat = some
         { num := d.toNat, actor := s.act.name, region := (v.extractLsb' 0 3).toNat, counter := k
           expected := (s.core s.act.core).counter k + v.extractLsb' 32 32, aid := s.act.aid, run := s.act.run } ∧
       (t.core s.act.core).counters = (s.core s.act.core).counters) ∧
    Completes (.disarm d) s fun t => t.act = (s.advance 4).act ∧ t.mem = s.mem ∧
      ∀ p, p ∈ (t.core s.act.core).ports ↔ p ∈ (s.core s.act.core).ports ∧ ¬(p.num = d.toNat ∧ p.actor = s.act.name))

/-- 02 R47, R48, 12 R319: COMMIT commits, with nothing staged at once; on a committed activation that has released everything
it only moves on. 02 R47, R48: COMMIT releases what was staged in program order: an addition to an own counter, then a
message. It rests on the model's reading in assumption 36. -/
def Obligations.CommitForms : Prop :=
  (∀ (s : State), s.act.live = true → s.act.eseq.idle = true → s.act.staged = [] →
    (s.act.committed = false → s.mirrored s.act = false →
      let done (i : Instr) (len : Nat) : Prop := Completes i s fun t =>
        t.act.committed = true ∧ t.act.commitAt = s.env.time ∧ t.act.posts = [] ∧ t.act.staged = [] ∧
        t.act.pc = s.act.pc + BitVec.ofNat 64 len ∧ t.act.x = s.act.x ∧ t.act.e = s.act.e ∧ t.mem = s.mem ∧ t.dir = s.dir
      done .commit 4 ∧ done .cCommit 2) ∧
    (s.act.committed = true → exec .commit s = .next (s.advance 4) ∧ exec .cCommit s = .next (s.advance 2))) ∧
  (∀ (s : State) (n : Nat) (v : Word32) (m : Msg) (sc : Nat),
    s.act.live = true → s.act.eseq.idle = true → s.act.committed = false → s.mirrored s.act = false → s.act.run = 0 →
    s.act.fences = [] → InOrder s → s.wire.tails = [] → s.awaitMissed s.act = .ok () → msgPhase m = 0 → m.poison = 0 → m.grant = none →
    s.act.staged = [.cinc none n v 0 0, .send m none 0 sc] →
    Completes .commit s fun t =>
      t.act.committed = true ∧ t.act.staged = [] ∧ t.act.pc = s.act.pc + 4 ∧
      (t.core s.act.core).counter n = (s.core s.act.core).counter n + v ∧
      ∃ f : Flight, t.wire.flights = s.wire.flights ++ [f] ∧ f.dst = m.w0 ∧ f.src = s.act.name ∧
        ∃ epoch, f.item = .msg { m with w1 := s.act.name, epoch := epoch })

/-- 02 R52, 12 R319: DONE ends the activation and frees its slot; what it had staged is released, here nothing. 12 R315, 02
R66: EXIT with 0 ends the activation as DONE does and the actor exits with 0; with another reason the activation is discarded
with what it staged, and a reason above 20 counts as 1. A further run of a mirrored child waits, for the actor exits when the
primary does (03 R86), and exits by itself only with a reason, when the primary runs no more or holds a release that is never
compared (the model's choice, log entry 108). It rests on the model's readings in assumptions 36, 108. -/
def Obligations.EndingForms : Prop :=
  (∀ (s : State), s.act.live = true → s.act.eseq.idle = true → s.act.staged = [] → (s.act.committed = true ∨ s.mirrored s.act = false) →
    let ended (i : Instr) : Prop := Completes i s fun t =>
      t.act = {} ∧ t.acts = s.acts ∧ t.mem = s.mem ∧ t.dir.actors = s.dir.actors ∧ t.dir.pools = s.dir.pools ∧ t.parts = s.parts
    ended .done ∧ ended .cDone) ∧
  ((∀ (s : State) (a : BitVec 5), s.act.live = true → s.act.run ≠ 0 → s.act.eseq.idle = true → Clean s a →
    (s.act.getX a ≠ 0 ∧ s.exitsAlone = false) ∨ (s.act.getX a = 0 ∧ s.act.committed = true) → exec (.exit a) s = .next (s.modAct fun x => { x with wait := .retry })) ∧
  ∀ (s : State) (a : BitVec 5) (me : Actor),
    s.act.live = true → s.act.run = 0 ∨ (s.act.getX a ≠ 0 ∧ s.exitsAlone = true) → s.act.eseq.idle = true → Clean s a →
    s.act.staged = [] →
    (s.act.committed = true ∨ s.mirrored s.act = false) → nameKind s.act.name ≠ 1 → s.dir.actors.find? (fun x => x.name == s.act.name) = some me → me.life = .live →
    let v := (s.act.getX a).toNat
    Completes (.exit a) s fun t =>
      t.act.live = false ∧ t.mem = s.mem ∧
      ∃ me', t.dir.actors.find? (fun x => x.name == s.act.name) = some me' ∧
        me'.life = .exiting (if v ≤ 20 then v else 1))

/-- 12 R316, 03 R68 to R71: links, monitors and the trap flag, of an actor and another live one of its job. 12 R316: DEMON
removes the monitor whose reference it names; a reference that names none does nothing. TRAPX sets or clears the trap flag. 03
R85, R86: for what is done once for all runs (log entry 99 says which), a run of a mirrored child takes the answer that its
actor's primary run has had, in the order of their instructions; a further run that has come ahead waits. It rests on the
model's readings in assumptions 15, 34, 76, 99, 109. -/
def Obligations.LinksAndMonitors : Prop :=
  (∀ (s : State) (a d : BitVec 5) (me you : Actor),
    s.act.live = true → Solo s → Clean s a → nameKind s.act.name = 0 →
    s.dir.actors.find? (fun x => x.name == s.act.name) = some me → s.linkTarget (s.act.getX a) = some (you.name, you.links) →
    nameKind (s.act.getX a) = 0 → you.name ≠ s.act.name → nameKind you.name = 0 →
    s.dir.actors.find? (fun x => x.name == you.name) = some you →
    (freeEntry me.links).isSome → (freeEntry you.links).isSome → me.links.length ≤ 64 →
    let me' (t : State) (e : LinkEntry) : Prop := e ∈ t.linksOf s.act.name
    let you' (t : State) (e : LinkEntry) : Prop := e ∈ t.linksOf you.name
    ((∀ e ∈ me.links, ¬(e.partner = you.name ∧ e.type = .link)) →
      Completes (.link a) s fun t => t.act = (s.advance 4).act ∧ t.mem = s.mem ∧
        (∃ i, me' t ⟨i, you.name, 0, .link⟩) ∧ ∃ i, you' t ⟨i, s.act.name, 0, .link⟩) ∧
    ((∀ e ∈ me.links, ¬(e.partner = you.name ∧ e.type = .monitor)) →
      Completes (.mon a d) s fun t => ∃ ref : Word32, ref ≠ 0 ∧
        t.act = (s.result 4 d (ref.zeroExtend 64)).act ∧ t.mem = s.mem ∧
        (∃ i, me' t ⟨i, you.name, ref, .monitor⟩) ∧ ∃ i, you' t ⟨i, s.act.name, ref, .monitored⟩) ∧
    (∀ e, me.links.find? (fun e => e.type == .link && sameIndex e.partner (s.act.getX a) && incOk (s.act.getX a) (nameInc e.partner)) = some e →
      e.partner = you.name →
      Completes (.unlink a) s fun t => t.act = (s.advance 4).act ∧ t.mem = s.mem ∧
        (∀ e, me' t e → ¬(e.partner = you.name ∧ e.type = .link)) ∧ ∀ e, you' t e → ¬(e.partner = s.act.name ∧ e.type = .link))) ∧
  (∀ (s : State) (a : BitVec 5) (me : Actor),
    s.act.live = true → Solo s → Clean s a → nameKind s.act.name = 0 → s.dir.actors.find? (fun x => x.name == s.act.name) = some me →
    ((s.act.getX a).toNat < 2 ^ 32 →
      Completes (.demon a) s fun t => t.act = (s.advance 4).act ∧ t.mem = s.mem ∧
        ((∀ e ∈ me.links, ¬(e.type = .monitor ∧ e.ref = (s.act.getX a).setWidth 32)) → t = s.advance 4) ∧
        ∀ e, me.links.find? (fun e => e.type == .monitor && e.ref == (s.act.getX a).setWidth 32) = some e →
          ∀ e' ∈ t.linksOf s.act.name, ¬(e'.partner = e.partner ∧ e'.type = .monitor ∧ e'.ref = e.ref)) ∧
    ((s.act.getX a).toNat ≤ 1 →
      Completes (.trapx a) s fun t => t.act = (s.advance 4).act ∧ t.mem = s.mem ∧
        ∃ me', t.dir.actors.find? (fun x => x.name == s.act.name) = some me' ∧ me'.trapx = (s.act.getX a == 1))) ∧
  (∀ (s : State) (h : BitVec 1) (a d c : BitVec 5) (me : Actor),
    s.act.live = true → Clean s a → nameKind (s.act.getX a) = 0 → (s.act.getX a).toNat < 2 ^ 32 → s.mirrorOf s.act.name = some me →
    (∀ v p, me.shared[s.act.nth]? = some (v, p) →
      let u := s.modAct fun x => { x with nth := x.nth + 1 }
      (∀ i ∈ [Instr.link a, .unlink a, .demon a], exec i s = .next (u.result 4 0 v p)) ∧
      ∀ i ∈ [Instr.mon a d, .tcan a d, .crd h d c], exec i s = .next (u.result 4 d v p)) ∧
    (me.shared[s.act.nth]? = none → s.act.run ≠ 0 → ∀ i ∈ [Instr.link a, .unlink a, .demon a, .mon a d, .tcan a d, .crd h d c],
      exec i s = .next (s.modAct fun x => { x with wait := .retry })))

/-- 12 R318: a timer whose time is to come is kept with its reference, and TCAN takes it back. 12 R314, 02 R39, 03 R73: KILL
of another actor sends the reason in its channel; a reason outside 1 to 20 counts as 1. An actor that kills itself begins to
exit. 02 R66, 03 R73, 02 R49: taking a kill discards the activation and its staged effects, and the actor begins to exit with
the reason; its timers, links and mailbox stand until it has exited. It rests on the model's readings in assumptions 15, 31,
99. -/
def Obligations.TimersAndKills : Prop :=
  (∀ (s : State) (a d : BitVec 5) (me : Actor),
    s.act.live = true → s.act.released = true → Solo s → Clean s a → nameKind s.act.name = 0 →
    s.dir.actors.find? (fun x => x.name == s.act.name) = some me →
    let v := (s.act.getX a).toNat
    (0 < v → v < 2 ^ 32 → me.timers.length < 16 →
      Completes (.timer a d) s fun t => ∃ ref : Word32, ref ≠ 0 ∧ (∀ x ∈ me.timers, x.ref ≠ ref) ∧
        t.act = (s.result 4 d (ref.zeroExtend 64)).act ∧ t.mem = s.mem ∧
        t.timersOf s.act.name = me.timers ++ [⟨ref, s.env.time + 256 * v⟩]) ∧
    (v < 2 ^ 32 →
      Completes (.tcan a d) s fun t =>
        let found := me.timers.any fun x => x.ref.toNat == v
        t.act = (s.result 4 d (if found then 1 else 0)).act ∧ t.mem = s.mem ∧
        t.timersOf s.act.name = me.timers.filter fun x => x.ref.toNat != v)) ∧
  (∀ (s : State) (b a : BitVec 5),
    s.act.live = true → s.act.released = true → Solo s → s.fencesMet s.act = true → Clean s a → Clean s b →
    nameKind (s.act.getX a) ≠ 2 → nameKind (s.act.getX a) ≠ 3 →
    let v := (s.act.getX b).toNat
    let r := if 1 ≤ v ∧ v ≤ 20 then v else 1
    (sameIndex (s.act.getX a) s.act.name = false →
      Completes (.kill b a) s fun t => t.act = (s.advance 4).act ∧ t.mem = s.mem ∧ t.dir = s.dir ∧
        ∃ f : Flight, t.wire.flights = s.wire.flights ++ [f] ∧ f.src = s.act.name ∧ f.dst = s.act.getX a ∧ f.item = .kill r) ∧
    (s.act.getX a = s.act.name → exec (.kill b a) s = .next (s.killActor s.act.name r))) ∧
  (∀ (s : State) (r : Nat) (n : Option Note) (me : Actor), s.act.live = true → s.poolOf s.act.name = none →
    s.dir.actors.find? (fun x => x.name == s.act.name) = some me → me.life = .live →
    (s.raise r n).act = {} ∧ (s.raise r n).mem = s.mem ∧
    (∀ a ∈ (s.raise r n).acts, a.name ≠ s.act.name) ∧ (∀ e ∈ (s.raise r n).entries, e.actor ≠ s.act.name) ∧
    ∃ me', (s.raise r n).dir.actors.find? (fun x => x.name == s.act.name) = some me' ∧ me'.life = .exiting r ∧
      me'.onCore = me.onCore ∧ me'.spill = me.spill ∧ me'.links = me.links ∧ me'.timers = me.timers ∧ me'.regions = me.regions)

/-- 12 R322 to R325: aliases, locations, shares of a launch and regions renewed. -/
def Obligations.NamesSharesAndRegions : Prop :=
  ∀ (s : State) (n : BitVec 3) (b a d : BitVec 5), s.act.live = true → Clean s a →
    let A := s.act.getX a
    (s.act.released = true → A.toNat < 0x3FFFFFC0 → s.act.job ≠ 0 → nameKind s.act.name = 0 → s.alias? s.act.job A.toNat = none →
      Completes (.namereg a d) s fun t => t.act = (s.result 4 d 1).act ∧ t.mem = s.mem ∧
        t.alias? s.act.job A.toNat = some (nameIndex s.act.name)) ∧
    (s.act.released = true → A.toNat < 0x3FFFFFC0 → s.act.job ≠ 0 → nameKind s.act.name = 1 → s.alias? s.act.job A.toNat = none →
      Completes (.namereg a d) s fun t => t.act = (s.result 4 d 1).act ∧ t.mem = s.mem ∧
        t.alias? s.act.job A.toNat = some (2 ^ 30 + nameIndex s.act.name)) ∧
    (s.act.released = true → A.toNat < 2 ^ 30 → ∀ i, s.alias? s.act.job A.toNat = some i →
      i ≠ (if nameKind s.act.name = 1 then 2 ^ 30 + nameIndex s.act.name else nameIndex s.act.name) →
      exec (.namereg a d) s = .next (s.result 4 d 0)) ∧
    (A = 0 → exec (.whereIs a d) s = .next (s.result 4 d ((location s.act.core).zeroExtend 64))) ∧
    (∀ x, A ≠ 0 → reachable s.act.job A = true → s.resolve A = some x → x.name ≠ s.act.name →
      exec (.whereIs a d) s = .next (s.result 4 d ((location x.core).zeroExtend 64))) ∧
    (A ≠ 0 → s.resolve A = none → nameKind A ≠ 0 ∨ nameJob A ≠ s.act.job ∨ s.liveElsewhere A = none →
      exec (.whereIs a d) s = .next (s.result 4 d 0xFFFFFFFFFFFFFFFF)) ∧
    (∀ x, A ≠ 0 → s.resolve A = none → nameKind A = 0 → nameJob A = s.act.job → s.liveElsewhere A = some x →
      ∃ w : Word, exec (.whereIs a d) s = .next (s.result 4 d w) ∧ w.toNat / 2 ^ 20 = x.1 % 4096) ∧
    (Clean s b → A.toNat < 2 ^ 32 → (s.act.getX b).toNat < 2 ^ 18 → ∀ k, (s.act.getX b).toNat / 2 ^ 16 = k → k ≤ 2 → ∀ l, s.act.msg.launch = some l →
      let t := (s.act.getX b).toNat % 2 ^ 16
      let c := (if k = 0 then l.x else if k = 1 then l.y else l.z).toNat
      exec (.part b a d) s = .next (s.result 4 d (BitVec.ofNat 64 (min t (A.toNat - c * t) * 2 ^ 32 + c * t)))) ∧
    (let r := s.myRegion n.toNat
     r.state ≠ .empty → s.awaitRegion r = .ok () → s.poolOf s.act.name = none → s.act.run = 0 →
      (∃ me, s.dir.actors.find? (fun x => x.name == s.act.name) = some me) →
      Completes (.rnew n) s fun t => t.act = (s.advance 4).act ∧
        (t.myRegion n.toNat).state = .owned ∧ (t.myRegion n.toNat).offset = r.offset ∧ (t.myRegion n.toNat).size = r.size ∧
        ∀ k, poolKey s.act.core r.offset ≤ k → k < poolKey s.act.core r.offset + r.size → look 0 t.mem.cells k = 0)

/-- 02 R60, 12 R320, R321: LVL reads a level, here a launch's count of outstanding messages; CANCEL of an activation kills its
actor with 15. 12 R333 to R336: a dependence slot set, and counted down; a slot that reaches zero lets its held message go. It
rests on the model's reading in assumption 56. -/
def Obligations.LevelsAndDependences : Prop :=
  (∀ (s : State) (b a d : BitVec 5), s.act.live = true → Clean s a → Clean s b →
    (s.act.getX b = 1 → Solo s → (s.act.getX a).toNat < 2 ^ 32 →
      Completes (.lvl b a d) s fun t =>
        let num : Word32 := (s.act.getX a).setWidth 32
        let open' := s.settleLevels.dir.launches.any fun l => l.job == s.act.job && l.num == num
        let count := if open' then s.settleLevels.launchCount s.act.job num else 0
        t = s.settleLevels.result 4 d (BitVec.ofNat 64 (min count (2 ^ 32 - 1)) |||
          (if count = 0 then 0x4000000000000000 else 0) ||| 0x8000000000000000)) ∧
    (s.act.getX b = 0 → s.act.released = true → Solo s → s.fencesMet s.act = true → s.killable s.act.name = true →
      exec (.cancel b a) s = .next (s.killActor s.act.name 15))) ∧
  (∀ (s : State) (sc : BitVec 4) (b a : BitVec 5) (h : Nat),
    s.act.live = true → s.act.released = true → s.fencesMet s.act = true → Solo s → s.act.run = 0 → Clean s a → Clean s b →
    s.slotHandle (s.act.getX a) = .ok h →
    ((s.act.getX b).toNat < 2 ^ 32 → (s.act.getX b) ≠ 0 →
      Completes (.depset b a) s fun t => t.act = (s.advance 4).act ∧ t.mem = s.mem ∧ (t.slot h).count = (s.act.getX b).toNat ∧
        (t.slot h).held = (s.slot h).held ∧ t.wire = s.wire) ∧
    (sc.toNat ≤ 10 → (s.act.getX b).toNat < 2 ^ 17 → s.counted = [] → s.wire.tails = [] → 1 < (s.slot h).count →
      Completes (.depdec sc b a) s fun t => t.act = (s.advance 4).act ∧ t.mem = s.mem ∧ (t.slot h).count = (s.slot h).count - 1 ∧
        (t.slot h).held = (s.slot h).held ∧ t.wire = s.wire) ∧
    (sc.toNat ≤ 10 → (s.act.getX b).toNat < 2 ^ 17 → s.counted = [] → s.wire.tails = [] → (s.slot h).count = 1 →
      ∀ p, (s.slot h).held = some p →
      Completes (.depdec sc b a) s fun t => (t.slot h).count = 0 ∧ (t.slot h).held = none ∧
        ∃ f : Flight, t.wire.flights = s.wire.flights ++ [f] ∧ f.item = .msg p.msg ∧ f.dst = p.msg.w0 ∧ f.src = p.src ∧ f.die = p.die))

/-- 12 R313, 03 R84: SPAWN of an image already read, whose regions have no initialiser, on a core with room, or that it has
chosen before: xd is the child's name, the child is live there, and the two are linked. 12 R317, 03 R78: SUPV keeps a copy of
its record, moves on, and makes its children restarting and places them, in the record's order, as the restart engine does. It
rests on the model's readings in assumptions 34, 79, 81, 82, 99. -/
def Obligations.ChildrenPlaced : Prop :=
  (∀ (s : State) (t : BitVec 1) (a d : BitVec 5) (img : Image) (room : Room) (me : Actor),
    s.act.live = true → s.act.released = true → Solo s → Clean s a → s.act.job ≠ 0 → nameKind s.act.name = 0 → (s.act.getX a).toNat < 2 ^ 55 →
    s.dir.actors.find? (fun x => x.name == s.act.name) = some me → (freeEntry me.links).isSome →
    s.readImage s.me (s.act.getX a).toNat = .ok (some img, s) → initPieces img = [] →
    s.entryAt s.act.job false img.index = none → s.liveElsewhere (mkName s.act.job 0 img.index 0) = none → s.shardRoom (mkName s.act.job 0 img.index 0) = true →
    s.act.room.or (s.findRoom img (s.coresFor s.act.job img.service) none) = some room →
    let child := mkName s.act.job 0 img.index (s.nextInc s.act.job false img.index)
    child ≠ s.act.name → s.dir.actors.find? (fun x => x.name == child) = none →
    Completes (.spawn t a d) s fun u =>
      (d ≠ 0 → u.act.getX d = child) ∧ u.act.pc = s.act.pc + 4 ∧
      (∃ c, u.dir.actors.find? (fun x => x.name == child) = some c ∧ c.life = .live ∧ c.core = room.core ∧ c.resident = room.resident ∧
        c.regions = room.regions ∧ c.image = img ∧ c.onCore = [] ∧ c.spill = []) ∧
      (∃ i, (⟨i, child, 0, .link⟩ : LinkEntry) ∈ u.linksOf s.act.name) ∧ ∃ i, (⟨i, s.act.name, 0, .link⟩ : LinkEntry) ∈ u.linksOf child) ∧
  (∀ (s : State) (a : BitVec 5) (head bs : List Byte) (n intensity window : Nat) (group : Bool)
    (specs : List (Nat × Bool × BitVec 2)) (children : List Child),
    s.act.live = true → Clean s a → (s.act.getX a).toNat < 2 ^ 55 → (s.act.getX a).toNat % 64 = 0 → s.recordOf s.act.name = none →
    s.readRecord s.me (s.act.getX a).toNat 16 16 = .ok (some head, s) → parseRecordHead head = some (n, intensity, group, window) →
    s.readRecord s.me (s.act.getX a).toNat (16 + 16 * n) 16 = .ok (some bs, s) → parseChildren bs n = some specs →
    State.readImages s.me specs s = .ok (some children, s) →
    let r : SupRec := { bytes := bs, intensity := intensity, window := window, group := group, children := children }
    let u := ((((s.dropKept s.me).modActor s.act.name fun x => { x with record := some r }).modPool s.act.name fun p =>
      { p with record := some r })).advance 4
    let v := children.zipIdx.foldl (fun v t => v.markRestarting s.act.job t.1.image s.act.name t.2) u
    exec (.supv a) s = .next ((List.range n).foldl (fun v i => (v.placeChild s.act.name i).getD v) v))

/-- 12 R341 to R344, 13 R349, R356: the expert registers and instructions of a job, on an id that its range gives an entry. -/
def Obligations.ExpertForms : Prop :=
  ∀ (s : State) (a d : BitVec 5) (e : ExpEntry),
    s.act.live = true → s.act.released = true → Solo s → Clean s a →
    ((s.act.getX a).toNat < 65536 → s.entryOfId s.act.job (s.act.getX a).toNat = .ok e →
      Writes (.erq a d) s 4 d (s.expertWord e) false ∧
      Writes (.eloadc 0 a d) s 4 d (e.load.zeroExtend 64) false ∧
      (Completes (.eloadc 1 a d) s fun t => t.act = (s.result 4 d (e.load.zeroExtend 64)).act ∧
        ∀ x ∈ t.exp.entries, x.num = e.num → x.load = 0) ∧
      (e.pins ≠ 65535 → Completes (.epin a) s fun t => t.act = (s.advance 4).act ∧
        ∀ x, s.expEntry e.num = some x → ∃ y, t.expEntry e.num = some y ∧ y.pins = x.pins + 1 ∧ y.load = x.load) ∧
      (Completes (.eunpin a) s fun t => t.act = (s.advance 4).act ∧
        ∀ x, s.expEntry e.num = some x → ∃ y, t.expEntry e.num = some y ∧ y.pins = x.pins - 1 ∧ y.load = x.load)) ∧
    (∀ m, (s.act.getX a).toNat / 2 ^ 32 = 0 → (s.act.getX a).toNat % 2 ^ 16 ≤ 1 →
      s.modelOf s.act.job ((s.act.getX a).extractLsb' 16 16) = some m →
      let set := (s.act.getX a).getLsbD 0
      (if set then m.openB else m.openA) = 0 → m.ver.getLsbD (if set then 1 else 0) = true → m.force ≠ set →
      Completes (.wset a) s fun t => t.act = (s.advance 4).act ∧ t.mem = s.mem ∧
        ∀ x ∈ t.exp.models, x.num = m.num → x.pending = true ∧ x.pset = set)

/-- 11 R294, R300, R292: TLOAD and GATHER enter their queue at issue, with what they read then. 11 R292, R295, R298 to R300:
TSTORE, PUSH, PUSHR and SCATTER are staged before COMMIT with what they read at issue. It rests on the model's readings in
assumptions 10, 91, 102. -/
def Obligations.CopyEntries : Prop :=
  (∀ (s : State) (q : BitVec 2) (b a : BitVec 5) (d : BitVec 4) (c : EngineCtl) (t : Tensor),
    s.act.live = true → MaskOk s b → (maskIn s b ≠ 0 → s.fencesMet s.act = true) → Clean s a → CleanO s 6 →
    engineCtl false false (s.act.getO 6) = .ok c → s.handle d = .ok t →
    let pad := (s.act.getX a).toNat
    (∀ v : Tile5, s.act.tile t = .ok v →
      s.checkUses (padUse (s.act.getX a) (tileSize t.format v) .engineWrite) [] (tileUse t v .engineRead) = .ok () →
      let op := EOp.tload t pad v.origin v.shape
      MayQueue s q.toNat op.counted → Queues (.tload q b a d) s q.toNat op c.target (s.advance 4).act) ∧
    (∀ r : RowOps, s.act.rows t = .ok r →
      s.checkUses (padUse (s.act.getX a) (r.n * (r.t0 * widthOf t.format / 8)) .engineWrite ++
        padUse r.list (4 * r.n) .engineRead) [] (rowsUse t .engineRead) = .ok () →
      let op := EOp.gather t pad r.list.toNat r.n r.t0 r.org
      MayQueue s 5 op.counted → Queues (.gather b a d) s 5 op c.target (s.advance 4).act)) ∧
  (∀ (s : State) (q : BitVec 2) (q3 : BitVec 3) (b a : BitVec 5) (d : BitVec 4) (c : EngineCtl),
    s.act.live = true → s.act.committed = false → stagedCount s < 256 → MaskOk s b → (maskIn s b ≠ 0 → s.fencesMet s.act = true) →
    Clean s a → CleanO s 6 →
    let pad := (s.act.getX a).toNat
    let staged (i : Instr) (queue : Nat) (op : EOp) : Prop := Stages i s 4 (.engine queue op c.target (maskIn s b) c.scope op.ranges)
    (engineCtl true false (s.act.getO 6) = .ok c → ∀ t, s.handle d = .ok t → (c.conv = true → t.format ≤ 9) →
      let conv := if c.conv then some (c.sfmt, c.rm) else none
      (∀ v : Tile5, s.act.tile t = .ok v →
        s.checkUses (padUse (s.act.getX a) (storeBytes t v c) .engineRead) [] (tileUse t v .engineWrite) = .ok () →
        staged (.tstore q b a d) q.toNat (.tstore t pad v.origin v.shape conv (s.act.frm.getLsbD 3))) ∧
      (∀ r : RowOps, s.act.rows t = .ok r →
        s.checkUses (padUse (s.act.getX a) (r.n * (r.t0 * srcWidth t conv / 8)) .engineRead ++
          padUse r.list (4 * r.n) .engineRead) [] (rowsUse t .engineWrite) = .ok () →
        staged (.scatter b a d) 5 (.scatter t pad r.list.toNat r.n r.t0 r.org conv (s.act.frm.getLsbD 3)))) ∧
    (engineCtl true true (s.act.getO 6) = .ok c → CleanO s 0 →
      let conv := if c.conv then some (c.sfmt, c.dfmt, c.rm) else none
      (let o := s.act.getO 0
       let len := (o.extractLsb' 8 24).toNat
       let off := (o.extractLsb' 32 24).toNat
       o.extractLsb' 56 8 = 0 → o.extractLsb' 5 3 = 0 → o.extractLsb' 0 5 ≠ 0 → pushLength c len = .ok () →
       s.checkUses (padUse (s.act.getX a) len .engineRead) [{ va := off, n := 0, align := 32 }] [] = .ok () →
       staged (.push q3 b a d) q3.toNat (.push d.toNat pad len off (o.setWidth 5) conv (s.act.frm.getLsbD 3))) ∧
      (CleanO s 1 →
       let dst := (s.act.getO 0).toNat
       let len := (s.act.getO 1).toNat
       len < 2 ^ 32 → pushLength c len = .ok () →
       s.checkUses (padUse (s.act.getX a) len .engineRead) [{ va := dst, n := delivered conv len, align := 32 }] [] = .ok () →
       staged (.pushr q3 b a) q3.toNat (.pushr dst pad len conv (s.act.frm.getLsbD 3)))))

/-- 10 R263 to R287: each matrix form on a core with an array claims the tiles it names and enters queue 4 with what it read
at issue; MSTAT reads a tile's status. It rests on the model's readings in assumptions 10, 63, 102. -/
def Obligations.MatrixEntriesQueued : Prop :=
  ∀ (s : State) (f a : BitVec 5) (f1 : BitVec 1) (b d : BitVec 4), s.act.live = true → Clean s a → CleanO s 2 → CleanO s 3 →
    let v := s.act.getX a
    let base := s.act.getO 2
    let m := (v.extractLsb' 0 7).toNat + 1
    let n := (v.extractLsb' 8 7).toNat + 1
    let entry (i : Instr) (op : EOp) (tiles : List Nat) : Prop := MayClaim s tiles → MayQueue s 4 op.counted → MatrixEntry i s op tiles
    entry (.mzero d) (.mzero d.toNat) [d.toNat] ∧
    entry (.mchk d) (.mchk d.toNat s.act.tol) [d.toNat] ∧
    entry (.mcorr d) (.mcorr d.toNat) [d.toNat] ∧
    entry (.macc b d) (.macc d.toNat b.toNat) [d.toNat, b.toNat] ∧
    (v.toNat < 2 ^ 32 → entry (.mscl 0 a d) (.mscl d.toNat (.inl (v.setWidth 32))) [d.toNat]) ∧
    (s.checkOperands (operandUse v 0 [(v.toNat, 512)] .engineRead true) = .ok () → entry (.mscl 1 a d) (.mscl d.toNat (.inr v.toNat)) [d.toNat]) ∧
    (onlyBits v 0xFFFF00007F7F = .ok () → (v.extractLsb' 32 16).toNat + n - 1 ≤ 65535 →
      entry (.mtopk b a d) (.mtopk d.toNat b.toNat m n (v.extractLsb' 32 16).toNat) [d.toNat, b.toNat]) ∧
    (∀ spitch pitch, layoutOf (s.act.getO 3) false = .ok (spitch, pitch) →
      (onlyBits v 0xF007F = .ok () → let k := (v.extractLsb' 16 4).toNat
        1 ≤ k → k ≤ 8 → s.checkOperands (operandUse base pitch [(base.toNat, (m - 1) * pitch + 8 * k)] .engineWrite false) = .ok () →
        entry (.mtkr a d) (.mtkr d.toNat m k base.toNat pitch) [d.toNat]) ∧
      (onlyBits v 0x7F7F = .ok () →
        s.checkOperands (operandUse base pitch (operandRanges f1.toNat n m base.toNat pitch 0 false) .engineRead true) = .ok () →
        entry (.mlda f1 a d) (.mlda d.toNat f1.toNat m n base.toNat pitch) [d.toNat]) ∧
      (∀ rm, onlyBits v 0xFF7F7F = .ok () → (v.extractLsb' 19 3).toNat ≤ 5 → modeFor (s.act.frm.setWidth 3) (v.extractLsb' 16 3) = .ok rm →
        let bias : Option Word := if v.getLsbD 23 then some (s.act.getO 4) else none
        let scale : Option Word32 := if v.getLsbD 22 then some ((s.act.getO 5).setWidth 32) else none
        (v.getLsbD 23 = true → CleanO s 4) →
        (v.getLsbD 22 = true → CleanO s 5 ∧ (s.act.getO 5).toNat < 2 ^ 32) →
        wholeLine f.toNat n = .ok () →
        s.checkOperands (operandUse base pitch (operandRanges f.toNat n m base.toNat pitch 0 false) .engineWrite false ++
          (if v.getLsbD 23 then operandUse (s.act.getO 4) 0 [((s.act.getO 4).toNat, 4 * n)] .engineRead true else [])) = .ok () →
        let op := EOp.mstore d.toNat f.toNat m n base.toNat pitch (bias.map (·.toNat)) scale (v.extractLsb' 19 3).toNat rm (s.act.frm.getLsbD 3) s.act.mdraw
        MayClaim s [d.toNat] → MayQueue s 4 op.counted → Queues (.mstore f a d) s 4 op none
          { (s.advance 4).act with mdraw := if rm = 4 then s.act.mdraw + BitVec.ofNat 64 (m * n) else s.act.mdraw })) ∧
    (let mine (x : Tile) : Bool := x.num == d.toNat && x.owner == s.act.aid
     isService s.act.core = false → d.toNat < (s.core s.act.core).acc →
     (∀ e ∈ vget (s.core s.act.core).queues 4, e.aid = s.act.aid → e.op.isJoin = true) →
     Writes (.mstat 0 d a) s 4 a ((((s.core s.act.core).tiles.find? mine).map Tile.status).getD 0 |||
       (s.act.replays.zeroExtend 64 <<< 52) ||| s.act.mflags.zeroExtend 64) false)

/-- 10 R269 to R276: the matrix forms with operands in scratchpad: weights loaded, products, products gated by a counter,
whose acquire event is to come (05 R130), and products shared by a span. It rests on the model's readings in assumptions 10,
63, 102. -/
def Obligations.MatrixOperandsQueued : Prop :=
  ∀ (s : State) (f a : BitVec 5) (w : BitVec 1) (d : BitVec 4) (spitch pitch : Nat),
    s.act.live = true → Clean s a → CleanO s 2 → CleanO s 3 → isService s.act.core = false →
    let v := s.act.getX a
    let base := s.act.getO 2
    let m := (v.extractLsb' 0 7).toNat + 1
    let n := (v.extractLsb' 8 7).toNat + 1
    layoutOf (s.act.getO 3) (10 ≤ f.toNat) = .ok (spitch, pitch) →
    (let op := EOp.mldw w.toNat f.toNat m n base.toNat pitch spitch
     onlyBits v 0x7F7F = .ok () → wholeLine f.toNat m = .ok () →
     s.checkOperands (operandUse base pitch (operandRanges f.toNat m n base.toNat pitch spitch true) .engineRead true) = .ok () →
     (∀ x ∈ (s.core s.act.core).bufs, x.num = w.toNat → x.owner = s.act.aid) → MayQueue s 4 op.counted →
     Queues (.mldw f a w) s 4 op none (s.advance 4).act ∧
     Completes (.mldw f a w) s fun t => ∃ x ∈ (t.core s.act.core).bufs, x.num = w.toNat ∧ x.owner = s.act.aid ∧ x.issued = (f.toNat, m, n)) ∧
    (∀ x, s.loadedBuf w.toNat = .ok x → onlyBits v 0x7F = .ok () → mayPair f.toNat x.issued.1 = true → wholeLine f.toNat x.issued.2.1 = .ok () →
      s.checkOperands (operandUse base pitch (operandRanges f.toNat x.issued.2.1 m base.toNat pitch spitch false) .engineRead true) = .ok () →
      MayClaim s [d.toNat] →
      let op g := EOp.mma d.toNat w.toNat f.toNat x.issued.2.1 m base.toNat pitch spitch g
      (MayQueue s 4 (op none).counted → MatrixEntry (.mma f w a d) s (op none) [d.toNat]) ∧
      (∀ g : Gate, s.gate = .ok (some g) → MayQueue s 4 (op (some (g.1, g.2.1))).counted →
        let pos := if s.act.committed then 0 else s.act.staged.length
        Queues (.mmac f w a d) s 4 (op (some (g.1, g.2.1))) none
          { (s.advance 4).act with
            acquires := s.act.acquires ++ [{ op := s.env.nextId, mask := g.2.2, atomic := false, pos := pos }] } ∧
        Completes (.mmac f w a d) s fun t => ∃ x, t.tile s.act.core d.toNat = some x ∧ x.owner = s.act.aid)) ∧
    (∀ bSpitch bPitch, CleanO s 4 → CleanO s 5 → onlyBits v 0x1FFF7F01FF01FF = .ok () →
      let wf := (v.extractLsb' 48 5).toNat
      let ks := (v.extractLsb' 32 7).toNat + 1
      let rows := (v.extractLsb' 0 9).toNat
      let cols := (v.extractLsb' 16 9).toNat
      let bBase := s.act.getO 4
      layoutOf (s.act.getO 5) (10 ≤ wf) = .ok (bSpitch, bPitch) → rows ≤ 256 → cols ≤ 256 → mayPair f.toNat wf = true →
      wholeLine f.toNat ks = .ok () → wholeLine wf ks = .ok () →
      let tiles := [d.toNat, d.toNat + 1, d.toNat + 2, d.toNat + 3]
      let op := EOp.mmas d.toNat f.toNat wf (v.extractLsb' 40 8).toNat ks rows cols base.toNat pitch spitch bBase.toNat bPitch bSpitch
      let aRanges := operandRanges f.toNat ks rows base.toNat pitch spitch false
      s.checkOperands (operandUse base pitch aRanges .engineRead false ++
        operandUse bBase bPitch ((op.ranges.map (·.2)).drop aRanges.length) .engineRead false) = .ok () →
      MayClaim s tiles → MayQueue s 4 op.counted → MatrixEntry (.mmas f a d) s op tiles)

/-- 09 R245, R246, R249, 06 R148 to R153: vector floating point, element by element under p0: exact results rounded once, in
the mode of frm or the override. 09 R245, R246, R249: the forms that select or mark an element without rounding. 07 R175, 09
R245: C.VFMA is VFMA in FP32 on e0 to e15, e16 to e31 and e0 to e7. -/
def Obligations.VectorFloatResults : Prop :=
  (∀ (s : State) (p : BitVec 1) (t : BitVec 4) (b a d : BitVec 5) (mode : Nat),
    t.toNat ≤ 4 → EReady s [b, a, d] → s.act.eMode 7 = .ok mode →
    let f := vecFmt t
    let w := f.width
    let act := s.act.active p w
    let A (j : Nat) : FV := vecIn f (elem s a w j)
    let B (j : Nat) : FV := vecIn f (elem s b w j)
    let D (j : Nat) : FV := vecIn f (elem s d w j)
    let rdn := decide (mode = 3)
    let rounds (i : Instr) (g : Nat → FV × Flags) : Prop :=
      LaneForm i s 4 d w act (if mode = 4 then eCount w else 0) fun j =>
        let r := f.deliver mode (f.deliverAs s.act.e5inf (f != fp32)) (s.nextDraw j) (g j).1
        (r.1, (g j).2 ||| r.2)
    rounds (.vadd p t b a d) (fun j => (A j).add rdn (B j)) ∧
    rounds (.vsub p t b a d) (fun j => (A j).add rdn (B j).neg) ∧
    rounds (.vmul p t b a d) (fun j => (A j).mul (B j)) ∧
    rounds (.vfma p t b a d) (fun j => FV.fma rdn (A j) (B j) (D j)) ∧
    rounds (.vfms p t b a d) (fun j => FV.fma rdn (A j).neg (B j) (D j)) ∧
    rounds (.vscalb p t b a d) (fun j => ((A j).scale (intOf true w (elem s b w j)), sigFlag [A j]))) ∧
  (∀ (s : State) (p : BitVec 1) (t : BitVec 4) (b a d : BitVec 5), t.toNat ≤ 4 → EReady s [b, a, d] →
    let f := vecFmt t
    let w := f.width
    let lanes (i : Instr) (g : Nat → Nat × Flags) : Prop := LaneForm i s 4 d w (s.act.active p w) 0 g
    let A (j : Nat) : Nat := elem s a w j
    let B (j : Nat) : Nat := elem s b w j
    lanes (.vmin p t b a d) (fun j => f.minMax false (flushIn f (A j)) (flushIn f (B j))) ∧
    lanes (.vmax p t b a d) (fun j => f.minMax true (flushIn f (A j)) (flushIn f (B j))) ∧
    lanes (.vmaxm p t b a d) (fun j => vecMaxMag f (A j) (B j)) ∧
    lanes (.vabs p t a d) (fun j => vecSign f false (A j)) ∧
    lanes (.vneg p t a d) (fun j => vecSign f true (A j)) ∧
    lanes (.vclass p t a d) (fun j => (vecClass f (A j), 0))) ∧
  (∀ (s : State) (d a : BitVec 4) (b : BitVec 3) (mode : Nat),
    let ed : BitVec 5 := d.zeroExtend 5
    let ea : BitVec 5 := 16 + a.zeroExtend 5
    let eb : BitVec 5 := b.zeroExtend 5
    EReady s [eb, ea, ed] → s.act.eMode 7 = .ok mode →
    LaneForm (.cVfma d a b) s 2 ed 32 (fun _ => true) (if mode = 4 then 32 else 0) fun j =>
      let v := FV.fma (decide (mode = 3)) (fp32.decode (elem s ea 32 j)) (fp32.decode (elem s eb 32 j)) (fp32.decode (elem s ed 32 j))
      let r := round32 mode (s.nextDraw j) v.1
      (r.1, v.2 ||| r.2))

/-- 09 R247, R250: vector compares write a p register. It rests on the model's reading in assumption 59. -/
def Obligations.VectorCompares : Prop :=
  ∀ (s : State) (p : BitVec 1) (t : BitVec 4) (b a : BitVec 5) (d : BitVec 3), EReady s [b, a] →
    (t.toNat ≤ 4 →
      let f := vecFmt t
      let w := f.width
      let A (j : Nat) : FV := vecIn f (elem s a w j)
      let B (j : Nat) : FV := vecIn f (elem s b w j)
      let cmp (i : Instr) (g : FV → FV → Bool × Flags) : Prop := PredForm i s d w (s.act.active p w) fun j => g (A j) (B j)
      cmp (.vcmpeq p t b a d) FV.eq ∧ cmp (.vcmplt p t b a d) FV.lt ∧ cmp (.vcmple p t b a d) FV.le) ∧
    (5 ≤ t.toNat → t.toNat ≤ 10 →
      let w := typeWidth t.toNat
      PredForm (.vicmpeq p t b a d) s d w (s.act.active p w) (fun j => (elem s a w j == elem s b w j, 0)) ∧
      PredForm (.vicmplt p t b a d) s d w (s.act.active p w) (fun j =>
        (if t.toNat ≤ 7 then (BitVec.ofNat w (elem s a w j)).slt (BitVec.ofNat w (elem s b w j))
         else decide (elem s a w j < elem s b w j), 0)))

/-- 09 R245, R248: bytes selected by p0, a lane broadcast and a register moved. 09 R259 to R261: permutes, slides, and moves
between the e registers and the queues. It rests on the model's reading in assumption 59. -/
def Obligations.VectorMovesAndPermutes : Prop :=
  (∀ (s : State) (p : BitVec 1) (n b a d : BitVec 5), EReady s [b, a, d] →
    LaneForm (.vsel b a d) s 4 d 8 (fun _ => true) 0
      (fun m => (if (vget s.act.p 0).getLsbD m then elem s a 8 m else elem s b 8 m, 0)) ∧
    LaneForm (.vbcast p n a d) s 4 d 32 (s.act.active p 32) 0 (fun _ => (elem s a 32 n.toNat, 0)) ∧
    LaneForm (.vmov p a d) s 4 d 32 (s.act.active p 32) 0 (fun j => (elem s a 32 j, 0)) ∧
    LaneForm (.cVmov d a) s 2 d 32 (fun _ => true) 0 (fun j => (elem s a 32 j, 0))) ∧
  (∀ (s : State) (p : BitVec 1) (t : BitVec 4) (sh b a d : BitVec 5), EReady s [b, a, d] →
    (5 ≤ t.toNat → t.toNat ≤ 10 →
      let w := typeWidth t.toNat
      let n := eCount w
      LaneForm (.vperm p t b a d) s 4 d w (s.act.active p w) 0 (fun j =>
        (if elem s b w j < n then elem s a w (elem s b w j) else 0, 0)) ∧
      LaneForm (.vshuf p t b a d) s 4 d w (s.act.active p w) 0 (fun j =>
        let i := elem s d w j
        (if i < n then elem s a w i else if i < 2 * n then elem s b w (i - n) else 0, 0))) ∧
    LaneForm (.vslide p sh a d) s 4 d 32 (s.act.active p 32) 0 (fun j =>
      (if j + sh.toNat < 32 then elem s a 32 (j + sh.toNat) else elem s d 32 (j + sh.toNat - 32), 0)))

/-- 09 R250: vector integers, element by element under p0: results wrap at the width, and no flag is set. -/
def Obligations.VectorIntegerResults : Prop :=
  ∀ (s : State) (p : BitVec 1) (t : BitVec 4) (b a d : BitVec 5), 5 ≤ t.toNat → t.toNat ≤ 10 → EReady s [b, a, d] →
    let w := typeWidth t.toNat
    let signed := decide (t.toNat ≤ 7)
    let A (j : Nat) : Nat := elem s a w j
    let B (j : Nat) : Nat := elem s b w j
    let int (x : Nat) : Int := (BitVec.ofNat w x).toInt
    let val (x : Nat) : Int := if signed then int x else x
    let lo : Int := if signed then -2 ^ (w - 1) else 0
    let hi : Int := if signed then 2 ^ (w - 1) - 1 else 2 ^ w - 1
    let nat (i : Instr) (g : Nat → Nat) : Prop := LaneForm i s 4 d w (s.act.active p w) 0 fun j => (g j, 0)
    let wrap (i : Instr) (g : Nat → Int) : Prop := nat i fun j => (g j % 2 ^ w).toNat
    wrap (.viadd p t b a d) (fun j => A j + B j) ∧
    wrap (.visub p t b a d) (fun j => A j - B j) ∧
    wrap (.vimul p t b a d) (fun j => A j * B j) ∧
    wrap (.vimulh p t b a d) (fun j => val (A j) * val (B j) / 2 ^ w) ∧
    nat (.vand p t b a d) (fun j => A j &&& B j) ∧
    nat (.vor p t b a d) (fun j => A j ||| B j) ∧
    nat (.vxor p t b a d) (fun j => A j ^^^ B j) ∧
    nat (.vshl p t b a d) (fun j => (BitVec.ofNat w (A j) <<< B j).toNat) ∧
    nat (.vshr p t b a d) (fun j => (BitVec.ofNat w (A j) >>> B j).toNat) ∧
    nat (.vsra p t b a d) (fun j => ((BitVec.ofNat w (A j)).sshiftRight (B j)).toNat) ∧
    nat (.vimin p t b a d) (fun j => if int (A j) ≤ int (B j) then A j else B j) ∧
    nat (.vimax p t b a d) (fun j => if int (A j) ≤ int (B j) then B j else A j) ∧
    nat (.viminn p t b a d) (fun j => if A j ≤ B j then A j else B j) ∧
    nat (.vimaxn p t b a d) (fun j => if A j ≤ B j then B j else A j) ∧
    nat (.vpopc p t a d) (fun j => (List.range w).countP fun k => (A j).testBit k) ∧
    nat (.vclz p t a d) (fun j => w - (if A j = 0 then 0 else (A j).log2 + 1)) ∧
    wrap (.viadds p t b a d) (fun j => max lo (min hi (val (A j) + val (B j)))) ∧
    wrap (.visubs p t b a d) (fun j => max lo (min hi (val (A j) - val (B j))))

/-- 09 R251, R252, R255: conversions between FP32 or 32-bit lanes of a register group and the elements of one register. 09
R253, R254: quantising into an MX format, with a scale for each block, and back. -/
def Obligations.VectorConversions : Prop :=
  (∀ (s : State) (p : BitVec 1) (t : BitVec 4) (r : BitVec 3) (b a d : BitVec 5) (mode : Nat),
    t ≠ 0 → t ≠ 15 → EReady s [b, a, d] →
    let w := typeWidth t.toNat
    let n := 32 / w
    let lane (m : Nat) : Nat := elemAt (vget s.act.e (a.toNat + m / 32)) 32 (m % 32)
    let active (m : Nat) : Bool := s.act.active p w m
    let draws := if mode = 4 then eCount w else 0
    let narrow (i : Instr) (k : Nat) (g : Nat → Nat × Flags) : Prop :=
      groupOk t a = true → FreeRegs s a.toNat n → LaneForm i s 4 d w active k g
    let widen (i : Instr) (k : Nat) (g : Nat → Nat × Flags) : Prop :=
      groupOk t d = true → FreeRegs s d.toNat n → GroupForm i s d.toNat n active k g
    (s.act.eMode r = .ok mode →
      narrow (.vcvt p t r a d) draws (fun m => (cvtType t).narrow mode s.act.e5inf (s.nextDraw m) (fp32.decode (lane m))) ∧
      widen (.vcvtWide p t r a d) draws (fun m =>
        let v := round32 mode (s.nextDraw m) ((cvtType t).value (elem s a w m))
        match cvtType t with
        | .float _ => (v.1, 0)
        | .int _ _ => v)) ∧
    (s.act.eMode 7 = .ok mode →
      narrow (.vcvts p t b a d) draws (fun m =>
        let v := scaledLane (fp32.decode (lane m)) (fp32.decode (elem s b 32 (m % 32)))
        let c := (cvtType t).narrow mode s.act.e5inf (s.nextDraw m) v.1
        (c.1, v.2 ||| c.2))) ∧
    ([6, 7, 9, 10, 14].contains t.toNat = true →
      narrow (.vpack p t a d) 0 (fun m => (wrapInt w (clampInt (intSigned t) w (intOf (intSigned t) 32 (lane m))), 0)) ∧
      widen (.vunpk p t a d) 0 (fun m => (wrapInt 32 (intOf (intSigned t) w (elem s a w m)), 0)))) ∧
  (∀ (s : State) (t : BitVec 4) (b a d : BitVec 5) (mode : Nat),
    mxTypeOk t = true → EReady s [b, a, d] → s.act.eMode 7 = .ok mode →
    let w := typeWidth t.toNat
    let n := 32 / w
    let draws := if mode = 4 then eCount w else 0
    (groupOk t d = true → FreeRegs s d.toNat n →
      GroupForm (.vmxd t b a d) s d.toNat n (fun _ => true) draws fun m =>
        let c := elem s b 8 (m / 32)
        if c = 0xFF then (fp32.nanCode, 0)
        else round32 mode (s.nextDraw m) (((cvtType t).value (elem s a w m)).scale ((c : Int) - 127 - (if t = 7 then 6 else 0)))) ∧
    (groupOk t a = true → FreeRegs s a.toNat n → d ≠ b →
      let lane (m : Nat) : FV := fp32.decode (elemAt (vget s.act.e (a.toNat + m / 32)) 32 (m % 32))
      let exp (k : Nat) : Option Int := mxExp t ((List.range 32).map fun j => lane (32 * k + j))
      Completes (.vmxq t b a d) s fun u =>
        EChanges s u 4 draws ∧
        (∀ m < 32 * n, elem u d w m = match exp (m / 32) with
          | some x => (mxElem t mode s.act.e5inf (s.nextDraw m) x (lane m)).1 % 2 ^ w
          | none => 0) ∧
        (∀ k < 128, elem u b 8 k = if k < n then (match exp k with
          | some x => (x + 127).toNat % 256
          | none => 0xFF) else 0) ∧
        ∀ r : BitVec 5, r ≠ d → r ≠ b → vget u.act.e r.toNat = vget s.act.e r.toNat))

/-- 09 R256, R257, R234: the shared SFU. An idle E-stream makes its request, with the destination's stream as it is then; once
it is served, the result is the function's value rounded once. It rests on the model's readings in assumptions 13, 101. -/
def Obligations.SharedFunctionUnit : Prop :=
  ∀ (s : State) (p : BitVec 1) (t : BitVec 4) (a d : BitVec 5) (v : ERow) (q : ERow) (mode : Nat),
    t.toNat ≤ 2 → EReady s [a, d] → s.act.ewait = .none → s.act.eMode 7 = .ok mode →
    let f := vecFmt t
    let w := f.width
    let forms : List (Instr × (FV → FV × Flags)) :=
      [(.vexp2 p t a d, FV.exp2), (.vlog2 p t a d, FV.log2), (.vrcp p t a d, FV.rcp), (.vrsq p t a d, FV.rsq), (.vtanh p t a d, FV.tanh)]
    ∀ x ∈ forms,
      (s.act.ememo = [v, q] → s.act.edst.bound = false → Completes x.1 s
        (LaneOutcome (s.modAct fun y => { y with ememo := [], edst := {} }) 4 d w (s.act.active p w) (if mode = 4 then eCount w else 0) fun j =>
          let g := x.2 (vecIn f (elemAt v w j))
          let r := f.deliver mode (f.deliverAs s.act.e5inf (f != fp32)) (s.nextDraw j) g.1
          (r.1, g.2 ||| r.2))) ∧
      (s.act.ememo = [] → s.act.eseq.pending.length + s.act.eseq.body.length < 16 → Completes x.1 s fun u =>
        ∃ id, u.act.ewait = .sfu id ∧ u.act.edst = s.streamOfReg d.toNat ∧ u.act.e = s.act.e ∧ u.act.pc = s.act.pc + 4 ∧
          look [] u.sfu (s.act.core / 8) = look [] s.sfu (s.act.core / 8) ++ [(s.act.aid, id, x.1)])

/-- 09 R258: reductions of the active elements into element 0; the others are written zero. It rests on the model's readings
in assumptions 60, 86, 113. -/
def Obligations.VectorReductions : Prop :=
  ∀ (s : State) (p : BitVec 1) (t : BitVec 4) (a d : BitVec 5) (mode : Nat), EReady s [a, d] →
    let first (i : Instr) (w draws : Nat) (g : List Nat → Nat × Flags) : Prop :=
      LaneForm i s 4 d w (fun _ => true) draws fun j =>
        if j = 0 then g (((List.range (eCount w)).filter (s.act.active p w)).map (elem s a w)) else (0, 0)
    (t.toNat ≤ 2 → s.act.eMode 7 = .ok mode →
      let f := vecFmt t
      first (.vrsum p t a d) f.width (if mode = 4 then eCount f.width else 0) (fun l =>
        let x := FV.sum (decide (mode = 3)) (l.map (vecIn f))
        let r := f.deliver mode (f.deliverAs s.act.e5inf (f != fp32)) (s.nextDraw 0) x.1
        (r.1, x.2 ||| r.2)) ∧
      first (.vrmax p t a d) f.width 0 (fun l => f.extreme true (l.map (flushIn f))) ∧
      first (.vrmin p t a d) f.width 0 (fun l => f.extreme false (l.map (flushIn f)))) ∧
    (5 ≤ t.toNat → t.toNat ≤ 10 →
      let w := typeWidth t.toNat
      first (.vrsum p t a d) w 0 (fun l => (l.sum % 2 ^ w, 0)) ∧
      first (.vrmax p t a d) w 0 (fun l => (intExtreme true (intSigned t) w l, 0)) ∧
      first (.vrmin p t a d) w 0 (fun l => (intExtreme false (intSigned t) w l, 0)))

/-- 09 R261, R262: words to and from the queues, and the predicate registers. It rests on the model's reading in assumption
59. -/
def Obligations.QueuesAndPredicates : Prop :=
  ∀ (s : State) (w4 : BitVec 4) (q1 l1 : BitVec 1) (q2 : BitVec 2) (a d : BitVec 5) (pb pa pd : BitVec 3), EReady s [a, d] →
    ((s.act.queue (4 + q1.toNat)).length < 8 →
      Completes (.vtoq w4 a q1) s fun t => ∃ poison,
        t = (s.modAct fun x => x.setQueue (4 + q1.toNat) (s.act.queue (4 + q1.toNat) ++ [(BitVec.ofNat 64 (elem s a 64 w4.toNat), poison)])).advance 4) ∧
    (∀ v q rest, s.act.queue q2.toNat = (v, q) :: rest →
      let u := s.modAct fun x => x.setQueue q2.toNat rest
      Completes (.vfromq q2 d) s (LaneOutcome u 4 d 64 (fun _ => true) 0 fun _ => (v.toNat, 0)) ∧
      Completes (.vfromqWord w4 q2 d) s (LaneOutcome u 4 d 64 (fun j => j == w4.toNat) 0 fun _ => (v.toNat, 0))) ∧
    (let P (r : BitVec 3) : PRow := vget s.act.p r.toNat
     let Q (r : BitVec 3) : PRow := vget s.act.pp r.toNat
     let sets (i : Instr) (v q : PRow) : Prop := exec i s = .next ((s.modAct fun x =>
       { x with p := vset x.p pd.toNat v, pp := vset x.pp pd.toNat q }).advance 4)
     sets (.pand pb pa pd) (P pa &&& P pb) (Q pa ||| Q pb) ∧
     sets (.por pb pa pd) (P pa ||| P pb) (Q pa ||| Q pb) ∧
     sets (.pnot pa pd) (~~~P pa) (Q pa) ∧
     sets (.pmov pa pd) (P pa) (Q pa) ∧
     (s.act.bq.length < 16 → exec (.ptobq l1 pa) s = .next ((s.modAct fun x =>
       { x with bq := x.bq ++ [(if l1 = 1 then P pa == BitVec.allOnes 128 else P pa != 0, Q pa != 0)] }).advance 4)))

/-- 09 R237 to R239, 07 R167: the sequencer takes loops, and what a busy E-stream is delivered waits in it, or joins the body
of a loop that has begun; EFLAGS and ERM. 09 R226 to R229, R233: streams configured, bound, unbound and waited for. It rests
on the model's readings in assumptions 8, 61. -/
def Obligations.SequencerAndStreams : Prop :=
  (∀ (s : State) (n : BitVec 11) (m k : BitVec 5) (q2 : BitVec 2) (q1 e : BitVec 1) (r : BitVec 3) (t : BitVec 4) (b a d : BitVec 5),
    s.act.live = true →
    let room := s.act.eseq.pending.length + s.act.eseq.body.length < 16
    let delivered (i : Instr) (need : Nat) : State :=
      (s.modAct fun x => { x with eseq := { x.eseq with pending := x.eseq.pending ++ [i], need := need } }).advance 4
    (room → s.act.eseq.need = 0 → s.act.eseq.begun = false →
      exec (.eloop n m) s = .next (delivered (.eloop n m) m.toNat) ∧ exec (.eloopq q2 m) s = .next (delivered (.eloopq q2 m) m.toNat)) ∧
    (room → s.act.eseq.idle = false → s.act.eseq.begun = false →
      exec (.vadd 0 t b a d) s = .next (delivered (.vadd 0 t b a d) (s.act.eseq.need - 1))) ∧
    (room → s.act.eseq.begun = true → s.act.eseq.need ≠ 0 → s.act.eseq.left ≠ 0 →
      exec (.vadd 0 t b a d) s = .next ((s.modAct fun x => { x with eseq := { x.eseq with
        body := x.eseq.body ++ [.vadd 0 t b a d], need := x.eseq.need - 1, begun := decide (x.eseq.need ≠ 1) } }).advance 4)) ∧
    (s.act.eseq.idle = true →
      (s.act.queue (4 + q1.toNat)).length < 8 →
      exec (.eflags k q1) s = .next ((s.modAct fun x =>
        { x.setQueue (4 + q1.toNat) (s.act.queue (4 + q1.toNat) ++ [(s.act.eflags.zeroExtend 64, false)]) with
            eflags := s.act.eflags &&& ~~~k }).advance 4)) ∧
    (s.act.eseq.idle = true →
      exec (.erm e r) s = .next ((s.modAct fun x => { x with erm := if r = 7 then none else some (r, e == 1) }).advance 4))) ∧
  (∀ (s : State) (n : BitVec 2), s.act.live = true →
    (let t := streamOf (s.act.getO 0) (s.act.getO 1) (s.act.getO 2) (s.act.getO 3)
     CleanO s 0 → CleanO s 1 → CleanO s 2 → CleanO s 3 →
     (s.act.getO 0).toNat / 2 ^ 48 = 0x70 → (s.act.getO 2).toNat < 2 ^ 56 → (s.act.getO 3).toNat < 4 →
     t.len ≠ 0 → t.n1 ≠ 0 → t.n2 ≠ 0 → (s.act.getO 0).toNat % 32 = 0 → t.stride1 % 32 = 0 → t.stride2 % 32 = 0 → t.len % 32 = 0 →
     0 ≤ t.bounds.1 → t.bounds.2 ≤ s.scratchBytes s.act.core →
     (∃ g ∈ (s.regionsOf s.act.name s.act.run s.act.core).toList, g.allows t.access t.bounds.1.toNat (t.bounds.2 - t.bounds.1).toNat = true) →
     exec (.scfg n) s = .next ((s.setStream n.toNat { t with bound := (s.stream n.toNat).bound }).advance 4)) ∧
    ((s.stream n.toNat).configured = true →
      exec (.sbind n) s = .next ((s.setStream n.toNat { s.stream n.toNat with bound := true }).advance 4)) ∧
    ((s.stream n.toNat).bound = true →
      exec (.sunb n) s = .next (((s.setStream n.toNat { s.stream n.toNat with bound := false }).modAct fun x =>
        { x with e := vset x.e (28 + n.toNat) 0, ep := vset x.ep (28 + n.toNat) 0 }).advance 4)) ∧
    ((s.stream n.toNat).bound = false → exec (.sunb n) s = .next (s.advance 4)) ∧
    ((∀ w ∈ s.mem.pending, ¬(w.aid = s.act.aid ∧ w.stream = some n.toNat)) → exec (.swait n) s = .next (s.advance 4)))

/-- 16 R376 to R379, R395: SINV drops the slices' entries of a range, FRPLY sends a ticket's answer, DLOGH merges the dirty
logs of a partition's cores, and INJ arms or disarms a unit. 16 R365, R367, R380: KEYREQ and ATTEST hand their record over and
wait, MFLIP its specification; each writes xd with the answer that has come. It rests on the model's readings in assumptions
48, 49. -/
def Obligations.ServiceAndRequestForms : Prop :=
  (∀ (s : State) (l : BitVec 1) (b a : BitVec 5), s.act.live = true → s.act.service = true → Solo s → Clean s a → Clean s b →
    let A := s.act.getX a
    let B := s.act.getX b
    let moved (t : State) : Prop := t.act = (s.advance 4).act
    (CleanO s 0 → (s.act.getO 0).toNat < 65536 → s.act.memo = .none → s.counted = [] →
      (l = 1 ∨ (A.toNat < 2 ^ 55 ∧ A.toNat + B.toNat ≤ 2 ^ 55 ∧ B ≠ 0)) →
      Completes (.sinv l b a) s fun t => moved t ∧ t.mem = s.mem ∧
        ∀ c, c ∈ t.xlat.cached ↔ c ∈ s.xlat.cached ∧ ¬(c.asid = (s.act.getO 0).toNat ∧
          overlaps (c.tag * reachOf c.level) (reachOf c.level) (if l = 1 then 0 else A.toNat) (if l = 1 then 2 ^ 55 else B.toNat) = true)) ∧
    (A.toNat < 2 ^ 32 → (B.toNat % 256 = 1 ∨ B = 0) → B.toNat < 65536 → s.act.released = true → s.fencesMet s.act = true →
      Completes (.frply b a) s fun t => moved t ∧ t.mem = s.mem ∧
        ∃ f : Flight, t.wire.flights = s.wire.flights ++ [f] ∧ f.item = .faultReply A.toNat B) ∧
    (A.toNat < 64 →
      Completes (.dlogh a) s fun t => moved t ∧ (∀ c ∈ s.coresOf A.toNat, (t.core c).dirty = []) ∧
        ∀ c, c ∉ s.coresOf A.toNat → t.core c = s.core c) ∧
    (let unit := A.toNat % 16
     let index := A.toNat / 16 % 8
     let loc := A.extractLsb' 32 32
     let die := loc.toNat / 2 ^ 18 % 4
     A.toNat / 2 ^ 7 % 2 ^ 25 = 0 → unit < 8 → index < unitIndexes unit → B.toNat < 2 ^ 32 →
      Completes (.inj b a) s fun t => moved t ∧ t.mem = s.mem ∧
        (B ≠ 0 → (unit, index, loc, B.setWidth 32) ∈ (vget t.logs die).armed) ∧
        (B = 0 → ∀ x ∈ (vget t.logs die).armed, ¬(x.1 = unit ∧ x.2.1 = index ∧ x.2.2.1 = loc)))) ∧
  (∀ (s : State) (a d : BitVec 5), s.act.live = true → s.act.service = true → Solo s → Clean s a →
    (∀ v p, s.act.memo = .value v p →
      exec (.keyreq a d) s = .next (s.result 4 d v) ∧ exec (.attest a d) s = .next (s.result 4 d v) ∧
      exec (.mflip a d) s = .next (s.result 4 d v)) ∧
    (s.act.memo = .none → s.act.wait = .none → s.act.released = true →
      (LocalOk s (s.act.getX a) 64 64 .atomic → (s.core s.act.core).ports = [] → s.key.mailbox.length < 64 →
        ∀ bs, s.readPlain (dieOf s.act.core) (localKey s (s.act.getX a)) 64 = (bs, false) →
        let asks (i : Instr) (attest : Bool) : Prop := Completes i s fun t => ∃ r : KReq,
          t.key.mailbox = s.key.mailbox ++ [r] ∧ r.attest = attest ∧ r.bytes = bs ∧ r.who = s.me ∧ r.record = localKey s (s.act.getX a) ∧
          t.act.wait = .keystone r.id ∧ t.act.pc = s.act.pc ∧ t.mem = s.mem
        asks (.keyreq a d) false ∧ asks (.attest a d) true) ∧
      (flipFormed (s.act.getX a) = true → CleanO s 0 → CleanO s 1 →
        (locatedCore (s.act.getO 0) = none → exec (.mflip a d) s = .next (s.result 4 d 0)) ∧
        ∀ core, locatedCore (s.act.getO 0) = some core → (vget (s.core core).queues 4).length < 16 →
          Completes (.mflip a d) s fun t => ∃ e, vget (t.core core).queues 4 = vget (s.core core).queues 4 ++ [e] ∧
            e.op = .mflip (s.act.getX a) (s.act.getO 1) s.act.aid ∧ t.act.wait = .flip e.id ∧ t.act.pc = s.act.pc ∧ t.mem = s.mem)))

/-- 16 R368, R373 to R375, R381: PREEMPT resumes, stops and clears a partition, answering 1 in a state that does not allow it
or without a set-up that is valid; a clear leaves the pools, counters, ports and weight buffers of the cores zeroed. HALT
seals every record and stops the part. It rests on the model's readings in assumptions 47, 103. -/
def Obligations.PartitionForms : Prop :=
  ∀ (s : State) (a d : BitVec 5), s.act.live = true → s.act.service = true → Solo s → Clean s a →
    let v := (s.act.getX a).toNat
    let answers (t : State) (n : Word) : Prop := t.act = (s.result 4 d n).act
    (v < 64 → s.act.released = true →
      (s.boot.minimal = false → (s.part v).state = 3 →
        Completes (.preemptResume a d) s fun t => answers t 0 ∧ (t.part v).state = 1 ∧ t.mem = s.mem) ∧
      ((s.part v).state = 0 → s.setUp v = true →
        Completes (.preemptResume a d) s fun t => answers t 0 ∧ (t.part v).state = 1 ∧ t.mem = s.mem ∧
          ∀ c ∈ s.coresOf v, (t.core c).part = some v) ∧
      ((s.part v).state = 1 ∨ (s.part v).state = 2 ∨ s.boot.minimal = true ∨ ((s.part v).state = 0 ∧ s.setUp v = false) →
        exec (.preemptResume a d) s = .next (s.result 4 d 1)) ∧
      ((s.part v).state ≠ 3 → exec (.preemptClear a d) s = .next (s.result 4 d 1)) ∧
      ((s.part v).state = 3 →
        Completes (.preemptClear a d) s fun t => answers t 0 ∧ (t.part v).state = 0 ∧
          (∀ c ∈ s.coresOf v, (t.core c).part = none ∧ (t.core c).ports = [] ∧ (t.core c).bufs = [] ∧
            (∀ n, (t.core c).counter n = 0) ∧
            ∀ k, poolKey c 0 ≤ k → k < poolKey c 0 + 2 ^ 24 → look 0 t.mem.cells k = 0 ∧ ¬(k / 32 ∈ t.mem.poisonSectors)) ∧
          ∀ x ∈ t.dir.actors, s.inPart x.job v = true → x.life ≠ .live) ∧
      (s.act.memo = .none → s.act.wait = .none →
        ((s.part v).state ≠ 1 → exec (.preemptStop a d) s = .next (s.result 4 d 1)) ∧
        ((s.part v).state = 1 → (∀ x ∈ s.acts, s.inPart x.job v = false) →
          Completes (.preemptStop a d) s fun t => (t.part v).state = 2 ∧ t.act = { s.act with wait := .stop v } ∧ t.mem = s.mem))) ∧
    (∀ n p, s.act.memo = .value n p → exec (.preemptStop a d) s = .next (s.result 4 d n)) ∧
    (v = 0 →
      Completes (.halt a) s fun t => t.act = {} ∧ t.acts = [] ∧ t.boot.halted = true ∧ t.boot.mode = 3 ∧ t.mem = s.mem ∧
        ∀ r ∈ t.key.records, r.sealed = true) ∧
    (v = 1 → Completes (.halt a) s fun t => t.act = {} ∧ t.acts = [] ∧ t.boot.reset = 1 ∧ t.boot.steps = 0 ∧ t.boot.halted = false)

/-- 02 R39 to R46, R55, R56: a message whose name nothing bears is dropped, and one for a live actor with room joins its
mailbox; a refill moves the oldest spilled message; a dispatch starts an activation at its entry in the lowest free slot, and
a late head goes. It rests on the model's readings in assumptions 21, 70, 77, 78, 90. -/
def Obligations.MessageEvents : Prop :=
  ∀ (s : State), Running s →
    (∀ f m a, Arrives s f → f.item = .msg m → isHostName m.w0 = false → s.elsewhere m.w0 = none →
      (isHardware m = true ∨ (reachable (nameJob f.src) m.w0 = true ∧ (calicoOnly m.w0 = true → nameJob f.src = 0))) →
      s.poolOf m.w0 = none → s.entryOf m.w0 = some a → incOk m.w0 a.inc = true →
      Bears s a.name a → TakesMail s a →
      Completes (.messageArrival f.id) s fun t => Aside s t ∧ HasMail s t a m) ∧
    (∀ f m, Arrives s f → f.item = .msg m → isHostName m.w0 = false → s.elsewhere m.w0 = none →
      s.poolOf m.w0 = none → s.entryOf m.w0 = none → msgFlag m 1 = false →
      exec (.messageArrival f.id) s = .next (s.removeFlight f.id).settleLevels) ∧
    (∀ core a q rest, s.mailUsed core < mailSlots core → s.refillFrom core = some a → Bears s a.name a → a.spill = q :: rest →
      Completes (.mailboxRefill core) s fun t => Aside s t ∧ Bears t a.name { a with onCore := a.onCore ++ [q], spill := rest }) ∧
    (∀ core k a q rest, s.choose core = some (.mailbox a.name q) → s.lateDrop (.mailbox a.name q) = false → s.freeSlot core = some k →
      q.msg.grant = none → a.mirror = [] → a.onCore = q :: rest → Bears s a.name a →
      Completes (.dispatch core) s fun t => Aside s t ∧ Bears t a.name { a with onCore := rest } ∧
        ∃ x, t.acts = s.acts ++ [x] ∧ x.live = true ∧ x.core = core ∧ x.slot = k ∧ x.name = a.name ∧ x.pc = a.image.entry ∧
          x.msg = q.msg ∧ x.committed = false ∧ x.staged = [] ∧ x.getX 3 = a.name ∧ x.getX 4 = q.msg.w1 ∧ x.getX 5 = q.msg.w2 ∧
          x.getX 6 = q.msg.w3 ∧ x.getX 7 = q.msg.w4 ∧ x.getX 8 = q.msg.w5 ∧ x.getX 9 = q.msg.w6 ∧ x.getX 10 = q.msg.w7) ∧
    (∀ core a q rest, s.choose core = some (.mailbox a.name q) → s.lateDrop (.mailbox a.name q) = true → a.onCore = q :: rest → Bears s a.name a →
      Completes (.dispatch core) s fun t => Aside s t ∧ t.acts = s.acts ∧ Bears t a.name { a with onCore := rest })

/-- 02 R66, 03 R71 to R84: an exit frees the actor's regions, zeroed, and its name; a kill or an unguarded exit signal makes
its receiver exit, and a trapped one becomes a message; a notice makes a child restarting, and its placement makes it live. It
rests on the model's readings in assumptions 30, 32, 34, 57, 79, 81, 83. -/
def Obligations.ExitAndRestartEvents : Prop :=
  ∀ (s : State), Running s →
    (∀ a r, Bears s a.name a → a.life = .exiting r → (r ≠ 0 ∨ s.lingering a.name = false) → s.poolOf a.name = none →
      s.heir a r = none → a.record = none →
      Completes (.actorExit a.name) s fun t => t.act = s.act ∧
        (∀ x ∈ t.dir.actors, ¬(x.job = a.job ∧ x.service = a.service ∧ x.index = a.index)) ∧
        ∀ g ∈ a.regions.toList, g.state ≠ .empty → ∀ k, poolKey a.core g.offset ≤ k → k < poolKey a.core g.offset + g.size →
          look 0 t.mem.cells k = 0) ∧
    (∀ f me r, Arrives s f → Bears s me.name me → s.poolOf me.name = none → me.life = .live → f.item = .kill r → s.killTarget f.src f.dst = some me.name →
      Completes (.exitSignalArrival f.id) s fun t => ∃ me', Bears t me.name me' ∧ me'.life = .exiting r) ∧
    (∀ f me r dropped, Arrives s f → Bears s f.dst me → s.poolOf f.dst = none → s.elsewhere f.dst = none →
      f.item = .exitSignal r dropped → me.life = .live →
      (∃ e ∈ me.links, e.partner = f.src ∧ e.type = .link) →
      (s.trapsExits f.dst = false →
        Completes (.exitSignalArrival f.id) s fun t => ∃ me', Bears t f.dst me' ∧ me'.life = .exiting 13) ∧
      (s.trapsExits f.dst = true → TakesMail s me →
        Completes (.exitSignalArrival f.id) s fun t => Aside s t ∧
          HasMail s t { me with links := dropEntry f.src .link none me.links }
            { hwMsg f.dst f.src 0xFF01 none (BitVec.ofNat 64 r) dropped 0 with epoch := f.epoch })) ∧
    (∀ f me rec child reason dropped, Arrives s f → Bears s f.dst me → s.poolOf f.dst = none → me.life = .live → me.record = some rec → rec.group = false →
      f.item = .supNotice child reason dropped → child < rec.children.length →
      let c := rec.children.getD child default
      (∀ a, s.entryAt (nameJob f.dst) (nameJob f.dst == 0) c.image.index = some a → a.inc = nameInc f.src) →
      c.owed = none → callsRestart c reason = true → (rec.intensity = 0 ∨ rec.recent s.env.time < rec.intensity) →
      Completes (.restartNotice f.id) s fun t => Aside s t ∧ ∃ me' rec', Bears t f.dst me' ∧ me'.record = some rec' ∧
        rec'.restarts = rec.restarts ++ [s.env.time] ∧ rec'.children.getD child default = 
          { c with owed := some reason, placed := false, copied := [], rooms := [] }) ∧
    (∀ sup child rec reason a how room, s.recordOf sup = some rec → child < rec.children.length → nameJob sup ≠ 0 →
      let c := rec.children.getD child default
      c.owed = some reason → s.behindSibling sup child = false → c.mirror = false → c.rooms = [] → initPieces c.image = [] →
      s.entryAt (nameJob sup) false c.image.index = some a →
      a.life = .restarting how → a.supervisor = some (sup, child) → a.held = [] →
      s.xlat.tickets.any (fun t => t.restarts.contains (sup, child)) = false →
      s.findRoom c.image (s.coresFor (nameJob sup) c.image.service) (s.lastDieOf (nameJob sup) false c.image.index) = some room →
      Completes (.restartPlacement sup child) s fun t => t.act = s.act ∧
        (∃ b, t.entryAt (nameJob sup) false c.image.index = some b ∧ b.life = .live ∧ b.core = room.core ∧ b.resident = room.resident ∧
          b.regions = room.regions ∧ b.onCore = [] ∧ b.inc = s.nextInc (nameJob sup) false c.image.index) ∧
        Sends s t fun f => f.dst = sup ∧ ∃ m, f.item = .msg m ∧ msgKind m = 0xFF03) ∧
    (∀ a m d, Bears s a.name a → a.life = .live → a.digest = some d → a.mirror.find? (fun x => x.run == 1) = some m → m.digest = some d →
      a.mirror.find? (fun x => x.run == 2) = none →
      Completes (.mirrorDigestCompare a.name) s fun t => t.mem = s.mem ∧
        t.act = (if s.act.name = a.name ∧ s.act.wait = .digest then { s.act with memo := .agreed, wait := .none } else s.act) ∧
        ∃ b, Bears t a.name b ∧ b.digest = none ∧ ∀ x ∈ b.mirror, x.digest = none)

/-- 02 R51, R451, 11 R307 to R309, 12 R318, R332, 17 R395: what time and other releases bring: timers, watchdogs, waits met or
run out, additions to counters, completed launches and answers to faults. It rests on the model's readings in assumptions 55,
66. -/
def Obligations.TimeAndCounterEvents : Prop :=
  ∀ (s : State), Running s →
    (∀ me ref, Bears s me.name me → s.poolOf me.name = none → me.life = .live → (∃ x ∈ me.timers, x.ref = ref ∧ x.due ≤ s.env.time) →
      Completes (.timeout me.name ref) s fun t => Aside s t ∧ Bears t me.name { me with timers := me.timers.filter fun x => x.ref != ref } ∧
        Sends s t fun f => f.dst = me.name ∧ f.item = .msg (s.stamped (timeoutMsg me.name ref s.env.time))) ∧
    (∀ aid a, s.allActs.find? (fun a => a.aid == aid) = some a → a.committed = true → a.commitAt + s.wdogOf a.job < s.env.time →
      exec (.watchdogExpiry aid) s = .next (s.killActor a.name 7)) ∧
    (∀ op core q e since, s.entryById op = some (core, q, e) → s.allActs.any (fun a => a.aid == e.aid) = false →
      s.mayGoOn core e = false → e.waitSince = some since → since + s.wdogOf e.job < s.env.time →
      exec (.postActivationWaitExpiry op) s = .next (s.killAnyway e.actor 7)) ∧
    (∀ op d, s.entryById op = none →
      s.wire.deferred.find? (fun d => d.id == op && d.ticket.isSome && !s.allActs.any fun a => a.aid == d.who.aid) = some d →
      d.since + s.wdogOf (nameJob d.who.name) < s.env.time →
      exec (.postActivationWaitExpiry op) s = .next (s.killAnyway d.who.name 7)) ∧
    (∀ aid a n target, s.allActs.find? (fun a => a.aid == aid) = some a →
      (a.wait = .counter n target → ((s.core a.core).counter n - target).msb = false →
        exec (.waitcMet aid) s = .next (s.modAid aid fun x => { x with memo := .met, wait := .none })) ∧
      (∀ limit ex, a.wait = .counterLimit n target limit ex → a.memo ≠ .met → limit < s.env.time →
        exec (.waitctLimitExpiry aid) s = .next (s.modAid aid fun x => { x with memo := .expired, wait := .none }))) ∧
    (∀ f a n v, Arrives s f → f.item = .cinc n v → s.elsewhere f.dst = none → reachable (nameJob f.src) f.dst = true →
      s.entryOf f.dst = some a → a.life = .live → incOk f.dst a.inc = true → (s.runCores f.dst).Nodup →
      Completes (.globalCincArrival f.id) s fun t => t.mem = s.mem ∧ t.dir = s.dir ∧ a.core ∈ s.runCores f.dst ∧
        ∀ c ∈ s.runCores f.dst, (t.core c).counter n = (s.core c).counter n + v ∧ ∀ k, k ≠ n → (t.core c).counter k = (s.core c).counter k) ∧
    (∀ f a num n core, Arrives s f → f.item = .launchDone num n core → f.after = [] → s.elsewhere f.dst = none → s.poolOf f.dst = none → Bears s f.dst a →
      a.life = .live → (s.runCores f.dst).Nodup →
      Completes (.launchCompletion f.id) s fun t => t.mem = s.mem ∧ t.dir = s.dir ∧
        ∀ c ∈ s.runCores f.dst, (t.core c).counter n = (s.core c).counter n + 1) ∧
    (∀ f ticket outcome k, s.wire.flights.find? (fun g => g.id == f.id) = some f → f.after = [] → f.item = .faultReply ticket outcome →
      s.xlat.tickets.find? (fun x => x.num == ticket) = some k → outcome.toNat % 256 ≠ 1 →
      Completes (.faultreply f.id) s fun t => t.mem = s.mem ∧ t.dir = s.dir ∧ t.xlat.tickets = s.xlat.tickets.filter (fun x => x.num != ticket) ∧
        t.act = (if k.acts.contains s.act.aid ∧ s.act.wait = .ticket ticket then { s.act with wait := .none } else s.act))

/-- 10 R263 to R276, 11 R292, R298, 02 R451: the head of a queue performed or begun, a sector of a PUSH sent to the cores it
names, a gate that its counter meets, and the rendezvous of a span's MMAS. It rests on the model's reading in assumption 10.
-/
def Obligations.EngineEvents : Prop :=
  ∀ (s : State), Running s →
    (∀ core e rest tile x, vget (s.core core).queues 4 = e :: rest → e.op = .mzero tile → s.mayStart core e = true →
      s.act.live = true → s.act.aid = e.aid → s.tile core tile = some x →
      Completes (.engineEntryPerform core 4) s fun t => Aside s t ∧ t.tile core tile = some { num := x.num, owner := x.owner } ∧
        (vget (t.core core).queues 4).length = rest.length) ∧
    (∀ core q e rest, vget (s.core core).queues q = e :: rest → e.op.moves = true → e.op.list = none → e.op.pieces [] ≠ [] →
      e.started = false → s.mayStart core e = true →
      Completes (.engineEntryPerform core q) s fun t => Aside s t ∧ vget (t.core core).queues q = { e with started := true, index := [] } :: rest) ∧
    (∀ core q e rest k port pad len off cores inf, vget (s.core core).queues q = e :: rest → e.op = .push port pad len off cores none inf →
      e.started = true → e.ticket = none → k ∉ e.done → k < len / 32 → (pad + 32 * k) / 2 ^ 48 = 0x70 → pad % 32 = 0 →
      Completes (.engineSectorComplete core q k) s fun t => t.mem = s.mem ∧
        let r := s.padRead core (pad + 32 * k) 32
        let to_ := (List.range 5).filter fun c => cores.getLsbD c
        ∃ l : List Flight, t.wire.flights = s.wire.flights ++ l ∧
          l.map (·.item) = to_.map fun c => .pushSector e.id (core / 8 * 8 + c) port (off + 32 * k) len (s.armedBy (core / 8 * 8 + c) port) r.1 r.2) ∧
    (∀ core e rest tile buf fmt kk m base pitch spitch n target, vget (s.core core).queues 4 = e :: rest → e.started = false →
      e.op = .mma tile buf fmt kk m base pitch spitch (some (n, target)) → ((s.core core).counter n - target).msb = false →
      Completes (.mmacGateMet core) s fun t => Aside s t ∧ vget (t.core core).queues 4 = { e with started := true, waitSince := none } :: rest) ∧
    (∀ die span tag job fmt wfmt ks, ∀ (ent : Nat → Entry) (rows cols : Nat → Nat), span < 12 →
      (∀ c ∈ spanGrid die span, s.mmasAt tag c = some (ent c) ∧ (ent c).job = job ∧ (ent c).started = false ∧ s.mayStart c (ent c) = true ∧
        (ent c).op.span = some (fmt, wfmt, tag, ks, rows ((spanGrid die span).idxOf c / 4), cols ((spanGrid die span).idxOf c % 4))) →
      Completes (.mmasRendezvous die span tag) s fun t => Aside s t ∧
        ∀ c ∈ spanGrid die span, t.head c 4 = some { ent c with started := true, waitSince := none })

/-- 11 R298, R299, 05 R117, 09 R257, 17 R399: what lands: sectors of PUSH and PUSHR with their additions, a write of the
package applied at a die, an SFU request served, and a full dirty log merged. It rests on the model's readings in assumptions
9, 10. -/
def Obligations.LandingEvents : Prop :=
  ∀ (s : State), Running s →
    (∀ f id core port off size actor data poison src q e p pad len o cores conv inf, s.wire.flights.find? (fun g => g.id == f.id) = some f →
      f.item = .pushSector id core port off size actor data poison → s.entryById id = some (src, q, e) → e.op = .push port pad len o cores conv inf →
      (s.core core).ports.find? (fun p => p.num == port && nameJob p.actor == e.job && (actor == 0 || p.actor == actor)) = some p →
      (s.portRegion core p).state = .owned → o + size ≤ (s.portRegion core p).size →
      Completes (.pushSectorArrival f.id) s fun t =>
        t.mem = (s.writeNow 0 (poolKey core ((s.portRegion core p).offset + off)) data poison).mem ∧
        (t.core core).counter p.counter = (s.core core).counter p.counter + 32) ∧
    (∀ f id core off va data poison n src q e, s.wire.flights.find? (fun g => g.id == f.id) = some f →
      f.item = .pushrSector id core off va data poison (some n) → s.entryById id = some (src, q, e) →
      s.pushrLands src core off e = true →
      Completes (.pushrSectorLanding f.id) s fun t =>
        t.mem = (s.writeNow 0 (poolKey core off) data poison).mem ∧ (t.core core).counter n = (s.core core).counter n + 32) ∧
    (∀ w die, s.mem.pending.find? (fun p => p.id == w.id) = some w → die < 4 → w.die < 4 → w.stream = none → w.replicas = none →
      s.applicable w die = true → s.landsAt w die = true →
      Completes (.writePerformed w.id die) s fun t => t.act = { s.act with early := t.act.early } ∧
        (t.mem.clock die).getD w.die 0 = w.stamp.getD w.die 0 ∧ (∀ p ∈ t.mem.pending, p.id = w.id → die ∈ p.applied) ∧
        (die = w.home → ∀ i < w.bytes.length, look 0 t.mem.cells (w.addr + i) = w.bytes.getD i 0) ∧
        (die ≠ w.home → isPool w.addr = false → s.retired { w with applied := die :: w.applied } = false →
          ∀ i < w.bytes.length, s.covered? w die (w.addr + i) = false → t.mem.byteAt die (w.addr + i) = w.bytes.getD i 0)) ∧
    (∀ cluster aid id i rest, look [] s.sfu cluster = (aid, id, i) :: rest →
      Completes (.sfuRequestService cluster) s fun t => t.mem = s.mem ∧ look [] t.sfu cluster = rest ∧
        t.act = (if s.act.aid = aid ∧ s.act.ewait = .sfu id then { s.act with ewait := .none } else s.act)) ∧
    (∀ core, 512 ≤ (s.core core).dirty.length →
      Completes (.dirtyLogMerge core) s fun t => t.act = s.act ∧ (t.core core).dirty = [] ∧ ∀ c, c ≠ core → t.core c = s.core c)

/-- 13 R345 to R357: a message for an absent set waits and has it fetched; a fetch starts, completes or fails; copies and
evictions complete; and Calico writes the tables. It rests on the model's readings in assumptions 37, 38, 39, 40. -/
def Obligations.ExpertEvents : Prop :=
  ∀ (s : State),
    (Running s →
      (∀ f m p e, Arrives s f → f.item = .msg m → isHardware m = false → reachable (nameJob f.src) m.w0 = true → s.poolOf m.w0 = some p →
        f.dst = m.w0 → p.life = .live → incOk m.w0 p.inc = true → s.killable p.name = true →
        s.exp.entries.find? (fun x => x.valid && x.job == p.job && x.pool == p.index) = some e → s.expEntry e.num = some e →
        let k := s.captured e m.epoch
        (vget e.sets k).state = 2 → (vget e.sets k).waiting.length < p.image.quota → s.spillRoom p.job e.home.toNat = true →
        Completes (.expertMessageArrival f.id) s fun t => Aside s t ∧ ∃ x q, t.expEntry e.num = some x ∧
          (vget x.sets k).waiting = (vget e.sets k).waiting ++ [q] ∧ q.msg = m ∧ q.capture = some (e.num, k) ∧ q.src = s.senderDie f.die m ∧
          (vget x.sets k).state = 1 ∧ x.load = (if e.load = 0xFFFFFFFF then e.load else e.load + 1) ∧
          ∃ y ∈ t.exp.fetches, y.entry = e.num ∧ y.set = k) ∧
      (∀ die e set f page key, s.expEntry e.num = some e → die < 4 → set < 2 →
        let l := (s.waitingFetches die).filter fun x => !s.noSource x
        let older := l.takeWhile fun x => !x.isOf e.num set
        l.find? (fun x => x.isOf e.num set) = some f →
        (∀ i < older.length, ∀ x, older[i]? = some x → s.roomBehind die (older.take i) x = none) →
        (s.exp.fetches.filter fun x => x.started && (s.expEntry x.entry).any fun y => y.home.toNat == die).length < 8 →
        s.roomBehind die older f = some (page, key) →
        Completes (.expertFetchStart die e.num set) s fun t => Aside s t ∧
          (∃ x, t.expEntry e.num = some x ∧ vget (vget x.sets set).page die = page) ∧
          ∃ y ∈ t.exp.fetches, y.entry = e.num ∧ y.set = set ∧ y.started = true) ∧
      (∀ e set, s.expEntry e.num = some e → e.valid = true → set < 2 → (vget e.sets set).state = 3 →
        Completes (.evictionComplete e.num set) s fun t => Aside s t ∧ ∃ x, t.expEntry e.num = some x ∧
          (vget x.sets set).state = (if (vget e.sets set).owed then 1 else 2) ∧ (vget x.sets set).present = 0) ∧
      (∀ e set f, s.expEntry e.num = some e → set < 2 → s.exp.fetches.find? (fun x => x.entry == e.num && x.set == set) = some f →
        ((vget e.sets set).kind = 2 ∨ (f.started = true ∧ f.since + s.links.rto.toNat * 1000 < s.env.time)) →
        Completes (.expertFetchComplete e.num set .unanswered) s fun t =>
          (∃ x, t.expEntry e.num = some x ∧ (vget x.sets set).state = 2) ∧ ∀ y ∈ t.exp.fetches, ¬(y.entry = e.num ∧ y.set = set)) ∧
      (∀ e set f, s.expEntry e.num = some e → set < 2 → s.exp.fetches.find? (fun x => x.entry == e.num && x.set == set) = some f →
        (vget e.sets set).kind ≠ 2 → f.started = true →
        (let r := s.readPlain e.home.toNat (sourceKey e.home.toNat (vget e.sets set)) ((vget e.sets set).size * 65536)
         r.2 = false ∧ s.digestOk e set r.1 = true) →
        (∀ key, ∃ gen, s.keyGen e.home.toNat key = .ok gen) →
        Completes (.expertFetchComplete e.num set .complete) s fun t =>
          (∃ x, t.expEntry e.num = some x ∧ (vget x.sets set).state = 0 ∧ (vget x.sets set).present = 1#4 <<< e.home.toNat) ∧
          ∀ y ∈ t.exp.fetches, ¬(y.entry = e.num ∧ y.set = set)) ∧
      (∀ e set die c, s.expEntry e.num = some e → s.exp.copies.find? (fun x => x.1 == e.num && x.2.1 == set && x.2.2.1 == die) = some c →
        Completes (.replicaCopyComplete e.num set die) s fun t => t.act = s.act ∧ c ∉ t.exp.copies)) ∧
    (s.calico = true →
      (∀ job base count, base.toNat + count.toNat ≤ 65536 →
        Completes (.expertTableWrite (.range job) [base, count]) s fun t => Aside s t ∧ t.exp.answer = some true ∧ t.exp.entries = s.exp.entries ∧
          t.exp.ranges.find? (fun r => r.1 == job) = some (job, base.toNat, count.toNat)) ∧
      (∀ job base count, 65536 < base.toNat + count.toNat → Completes (.expertTableWrite (.range job) [base, count]) s fun t => Aside s t ∧
        t.exp = { s.exp with answer := some false }) ∧
      (∀ n a b, n < 1024 → s.exp.models.find? (fun r => r.num == n) = none → a.toNat / 2 ^ 48 % 2 ^ 15 = 0 → a.toNat / 2 ^ 7 % 2 ^ 9 = 0 →
        Completes (.expertTableWrite (.model n) [a, b]) s fun t => Aside s t ∧ ∃ r, t.exp.models.find? (fun r => r.num == n) = some r ∧
          r.valid = a.getLsbD 63 ∧ r.job = a.extractLsb' 32 16 ∧ r.model = a.extractLsb' 16 16 ∧ r.force = false ∧ r.ver = 0) ∧
      (∀ n d e, n < 65536 → s.expEntry n = none → parseEntry n d = some e → e.valid = true →
        Completes (.expertTableWrite (.entry n) d) s fun t => Aside s t ∧ ∃ x, t.expEntry n = some x ∧ x.valid = true ∧ x.pool = e.pool ∧
          x.expert = e.expert ∧ x.job = e.job ∧ x.model = e.model ∧ x.home = e.home ∧ x.pins = 0 ∧ x.load = 0 ∧
          ∀ k < 2, (vget x.sets k).state = 2 ∧ (vget x.sets k).window = (vget e.sets k).window ∧ (vget x.sets k).address = (vget e.sets k).address))

/-- 02 R40, R58, 16 R361, R372, R374: Calico creates a pool, places a job's first actor, and restores a saved one, where there
is room. It rests on the model's readings in assumptions 41, 47, 79, 81. -/
def Obligations.PlacementEvents : Prop :=
  ∀ (s : State), Running s →
    (∀ job image dies img j, s.job? job = some j → j.valid = true → s.calicoImage job image = some img → initPieces img = [] → dies ≠ 0 →
      s.shardRoom (mkName job 1 img.index 0) = true → s.dir.pools.any (fun p => p.job == job && p.index == img.index) = false →
      let rooms := ((s.coresFor job false).filter fun c => dies.getLsbD (dieOf c)).filterMap fun c => s.roomOn img c
      rooms ≠ [] →
      Completes (.poolCreation job image dies) s fun t => t.act = s.act ∧ ∃ p, t.dir.pools = s.dir.pools ++ [p] ∧ p.job = job ∧
        p.index = img.index ∧ p.life = .live ∧ p.dies = dies ∧ p.members.map (·.core) = rooms.map (·.core) ∧
        p.queues.map (·.die) = (List.range 4).filter (fun d => dies.getLsbD d) ∧ ∀ q ∈ p.queues, q.msgs = []) ∧
    (∀ job image img j room, s.job? job = some j → j.valid = true → job ≠ 0 → s.runs job = true → s.calicoImage job image = some img →
      initPieces img = [] → s.shardRoom (mkName job 0 img.index 0) = true → s.entryAt job false img.index = none → s.findRoom img (s.coresFor job img.service) none = some room →
      Completes (.rootActorPlacement job image) s fun t => t.act = s.act ∧
        (∃ a, t.entryAt job false img.index = some a ∧ a.life = .live ∧ a.root = true ∧ a.core = room.core ∧ a.resident = room.resident ∧
          a.regions = room.regions ∧ a.image = img ∧ a.onCore = [] ∧ a.inc = s.nextInc job false img.index) ∧
        ∃ k, t.job? job = some k ∧ k.started = true) ∧
    (∀ a lcore resident core number regions, Bears s a.name a → a.life = .saved → s.runs a.job = true → s.writing a.job = false → a.held = [] →
      a.saved.places = [(lcore, resident, regions)] → s.placeFor a.job (lcore, resident, regions) = some (core, lcore, number, regions) →
      Completes (.actorRestore a.name) s fun t => t.act = { s.act with memo := t.act.memo } ∧
        ∃ b, Bears t a.name b ∧ b.life = .live ∧ b.core = core ∧ b.resident = number ∧ b.regions = regions ∧ b.spill = a.spill)

/-- 16 R374, R365, 13 R357, 18 R406, R419, R420, R422, R423, 19 R429, 15 R360: what Keystone, the scrubber, the diagnostic
service and a partition's stop do of themselves; a request is answered in xd's memo and leaves the mailbox. It rests on the
model's readings in assumptions 14, 42, 43, 44, 65, 85, 114. -/
def Obligations.KeystoneEvents : Prop :=
  ∀ (s : State), Running s →
    (∀ r rest, s.key.mailbox = r :: rest → (∀ x ∈ rest, x.id ≠ r.id) →
      s.act.live = true → s.act.aid = r.aid → s.act.wait = .keystone r.id →
      let answered (i : Instr) (status : Nat) (p : State → Prop) : Prop := Completes i s fun t =>
        t.act = { s.act with memo := .value (BitVec.ofNat 64 status) false, wait := .none } ∧ t.key.mailbox = rest ∧ p t
      (r.attest = false → r.formed = true →
        (r.code = 1 → r.arg / 2 ^ 6 % 2 ^ 26 = 0 → r.arg % 2 ^ 5 < 20 → ∀ l, (s.link (r.arg % 2 ^ 5)).install (r.arg.testBit 5) = some l →
          answered .installLinkKey 0 fun t => t.link (r.arg % 2 ^ 5) = l ∧ t.mem = s.mem) ∧
        (∀ key, s.keyArg r = .inr key →
          (r.code = 2 → look? s.mem.keySlots key = none → answered .bindMemoryKey 0 fun t =>
            t.mem = { s.mem with keySlots := t.mem.keySlots } ∧ look? t.mem.keySlots key = some (s.key.generation + 1) ∧
            t.key.generation = s.key.generation + 1) ∧
          (r.code = 2 → (look? s.mem.keySlots key).isSome = true → answered .bindMemoryKey 1 fun t => t.mem = s.mem) ∧
          (r.code = 3 → (look? s.mem.keySlots key).isSome = true → s.keyBusy key = false → answered .retireMemoryKey 0 fun t =>
            t.mem = { s.mem with keySlots := t.mem.keySlots } ∧ look? t.mem.keySlots key = none)) ∧
        (r.code = 4 → r.arg / 2 ^ 16 = 0 → r.word 1 / 2 % 2 ^ 15 = 0 → r.word 1 / 2 ^ 32 = 0 →
          ∀ m sig u, s.modelOf (BitVec.ofNat 16 r.arg) (BitVec.ofNat 16 (r.word 1 / 2 ^ 16 % 2 ^ 16)) = some m →
          s.readRecord r.who (r.word 2) 16224 32 = .ok (some sig, u) → u.act = s.act → u.acts = s.acts → u.key = s.key → u.exp = s.exp →
          Completes .verifyWeightSetSignature s fun t => t.key.mailbox = rest ∧
            (Config.verifies ((r.bytes.drop 24).take 32) sig = true → t.act.memo = .value 0 false ∧
              ∃ x ∈ t.exp.models, x.num = m.num ∧ x.ver.getLsbD (r.word 1 % 2) = true ∧
                vget x.manifest (r.word 1 % 2) = (r.bytes.drop 24).take 32) ∧
            (Config.verifies ((r.bytes.drop 24).take 32) sig = false → t.exp.models = s.exp.models ∧
              (spansDomains (BitVec.ofNat 16 r.arg) = true → t.act.memo = .value 1 false))) ∧
        (r.code = 5 → r.arg / 2 ^ 16 = 0 → (s.openRecord (BitVec.ofNat 16 r.arg)).isSome = true → answered .sealAttestationRecord 0 fun t =>
          t.mem = s.mem ∧ t.openRecord (BitVec.ofNat 16 r.arg) = none) ∧
        (r.code = 6 → isHbm r.record = false → answered .readIdentity 0 fun t => ∀ i < 32,
          look 0 t.mem.cells (r.record + 16 + i) = Config.identityDigest.getD i 0)) ∧
      (∀ rec, r.attest = true → r.word 0 / 2 ^ 16 = 2 → (∀ b ∈ (r.bytes.drop 40).take 24, b = 0) →
        s.openRecord (BitVec.ofNat 16 (r.word 0)) = some rec → rec.entries.length < 4096 →
        answered .appendMeasurement 0 fun t => t.mem = s.mem ∧ t.openRecord (BitVec.ofNat 16 (r.word 0)) =
          some { rec with entries := rec.entries ++ [(2, (r.bytes.drop 8).take 32)] })) ∧
    (∀ job r, s.key.records.find? (fun t => t.job == job && t.sealed) = some r →
      Completes (.attestationRecordRead job) s fun t => Aside s t ∧ t.host.response = (0, r.body ++ r.signature) ∧
        t.key.records = s.key.records.erase r) ∧
    (∀ die stack, die < 4 → stack < 3 → 4 ≤ s.boot.steps →
      (s.boot.minimal = false ∨ (die = 0 ∧ stack = 0 ∧ s.boot.hbm = true)) → s.mem.passDue (die * 3 + stack) s.env.time = true →
      Completes (.patrolScrubRead die stack) s fun t => t.act = s.act ∧
        look 0 t.mem.scrub (die * 3 + stack) = (look 0 s.mem.scrub (die * 3 + stack) + 1) % stackLines) ∧
    (∀ core a q rest r, s.resolve diagnosticName = some a → a.core = core → a.onCore = q :: rest → msgKind q.msg = 0x0100 →
      s.allActs.any (fun t => t.name == a.name) = false → s.flipFrom q.msg = some r → isService r.core = false →
      (vget (s.core r.core).queues 4).length < 16 →
      Completes (.flipRequest core) s fun t => Aside s t ∧ ∃ e, vget (t.core r.core).queues 4 = vget (s.core r.core).queues 4 ++ [e] ∧
        e.op = .mflip q.msg.w4 r.name 0 ∧ e.post = some q.msg.w5.toNat) ∧
    (∀ p, (s.part p).state = 2 → s.stoppable p = [] → s.busy p = false →
      Completes (.partitionStopComplete p) s fun t => (t.part p).state = 3 ∧ ∀ c ∈ s.coresOf p, (t.core c).dirty = [])

/-- 16 R381, 18 R417, 20 R441 to R450: power, resets, the start's steps, fatal errors and the cooling's events. It rests on
the model's readings in assumptions 45, 46. -/
def Obligations.StartEvents : Prop :=
  ∀ (s : State) (port point : Nat) (v : Word32),
    let fresh (t : State) (kind : BitVec 2) : Prop := t.act = {} ∧ t.acts = [] ∧ t.dir = {} ∧ t.cores = [] ∧ t.boot.reset = kind ∧
      t.boot.steps = 0 ∧ t.boot.halted = false ∧ t.boot.tripped = false ∧ t.boot.powered = true
    let warm (t : State) : Prop := fresh t 1 ∧ t.mem.cells = s.mem.cells.filter (fun c => isHbm c.1 || outside c.1) ∧ t.mem.keySlots = []
    let only (t : State) (b : Boot) : Prop := t = { s with boot := b }
    (s.boot.powered = false → Completes .powerOn s fun t => fresh t 0 ∧ t.logs = State.reset.logs) ∧
    (s.boot.powered = true →
      Completes .powerLoss s (fun t => only t { s.boot with powered := false }) ∧
      Completes .perst s warm ∧
      (s.boot.tripped = true → Completes .thermalRecovery s warm) ∧
      (s.hasPort port = true →
        Completes (.functionLevelReset port) s (fun t => t.boot = { s.boot with limit := 2800 } ∧ Aside s t ∧ t.dir = s.dir ∧
          vget t.host.ports port = {} ∧ ∀ p, t.rxq p = (if (s.rxq p).port = (port == 1) then {} else s.rxq p)) ∧
        (s.boot.steps = 0 →
          Completes (.bootRetry port v) s (fun t => Aside s t ∧ t.boot = s.boot ∧ t.host.response = (2, [])) ∧
          Completes (.pwrLimitWrite port v) s fun t => Aside s t ∧ t.boot = s.boot ∧ t.host.response = (2, [])) ∧
        (s.boot.steps ≠ 0 →
          (v.getLsbD 0 = true → s.boot.mode = 2 → Completes (.bootRetry port v) s fun t => warm t ∧ t.boot.starts = 0) ∧
          (s.boot.mode ≠ 2 → exec (.bootRetry port v) s = .next s) ∧
          Completes (.pwrLimitWrite port v) s fun t => only t { s.boot with
            limit := BitVec.ofNat 12 (max 1200 (min 2800 (v.toNat % 4096))) })) ∧
      Completes (.operatingPointChange (BitVec.ofNat 2 point)) s (fun t => only t { s.boot with point := BitVec.ofNat 2 point }) ∧
      (s.boot.tripped = false →
        Completes .thermalTrip s fun t => Aside s t ∧ t.boot.tripped = true ∧ t.boot.mode = 3 ∧ t.key = s.key)) ∧
    (Running s →
      (s.boot.steps < 8 → Completes (.fatalError .controllerFault) s fun t => warm t ∧ t.boot.reason = 6) ∧
      (8 ≤ s.boot.steps → Completes (.fatalError .controllerFault) s fun t => warm t ∧ (0, 0) ∈ t.host.msix ∧
        ∀ r ∈ t.key.records, r.sealed = true) ∧
      ((s.boot.steps = 0 ∨ (s.boot.steps = 2 ∧ s.boot.imageOk = true) ∨ (s.boot.steps = 5 ∧ ∀ k < 20, (s.link k).state ≠ 1)) →
        Completes (.bootPhaseComplete none) s fun t => only t { s.boot with steps := s.boot.steps + 1, phase := BitVec.ofNat 4 s.boot.steps }) ∧
      (s.boot.steps = 1 → s.boot.starts.toNat < 3 → Completes (.bootPhaseComplete none) s fun t => only t { s.boot with
        steps := 2, phase := 1, starts := s.boot.starts + 1 }) ∧
      (s.boot.steps = 2 → s.boot.imageOk = false →
        ∀ failed, Completes (.bootPhaseComplete failed) s fun t => warm t ∧ t.boot.reason = 2) ∧
      (s.boot.steps = 6 → Completes (.bootPhaseComplete none) s fun t => t.boot.steps = 7 ∧ t.boot.rootSince = s.env.time) ∧
      (s.boot.steps = 7 → s.env.time ≤ s.boot.rootSince + 10000000000 → s.rootLive = true → s.boot.minimal = false →
        Completes .rootReady s fun t => only t { s.boot with steps := 8, phase := 6, mode := 1, starts := 0, reason := 0, detail := 0 }) ∧
      (s.boot.steps = 7 → s.boot.rootSince + 10000000000 < s.env.time → Completes .rootReadyTimeout s fun t => warm t ∧ t.boot.reason = 5))

/-- 00 R7, R13, 16 R371, R372, 18 R416, 19 R424, R425, R438 to R440, 20 R446: registers and requests of the host, its messages
both ways, and the registers that Calico writes. It rests on the model's readings in assumptions 22, 53, 54, 95. -/
def Obligations.HostAndRegisterEvents : Prop :=
  ∀ (s : State) (v : Word) (p port offset : Nat),
    (s.boot.powered = true → s.boot.tripped = false → 3 ≤ s.boot.steps → p < 48 →
      (v.toNat % 4096 = 0 → exec (.rxqBaseWrite p v) s = .next (s.modRxq p fun q => { q with base := v })) ∧
      (v.toNat % 4096 ≠ 0 → exec (.rxqBaseWrite p v) s = .next s) ∧
      ((s.part p).hostSpill = [] →
        (ringSize v.toNat = true → Completes (.rxqSizeWrite p v) s fun t => Aside s t ∧ t.rxq p = { s.rxq p with size := v }) ∧
        Completes (.rxqHeadWrite p v) s fun t => Aside s t ∧ t.rxq p = { s.rxq p with head := v }) ∧
      exec (.registerWrite (.rxqTail p) v) s = .next s ∧
      exec (.registerWrite (.rxqOverflow p) v) s = .next (s.modRxq p fun q => { q with overflow := q.overflow &&& ~~~v })) ∧
    (s.boot.powered = true → s.hasPort port = true →
      Completes (.unsupportedRequest port) s (fun t => Aside s t ∧ t.host.response = (1, [])) ∧
      (s.boot.steps = 0 → ∀ k, Completes (.configurationRequest port k) s fun t => Aside s t ∧ t.host.response = (2, [])) ∧
      (s.boot.steps ≠ 0 →
        Completes (.configurationRequest port 0x0C) s (fun t => Aside s t ∧ t.host.response = (0, leBytes 4 s.boot.status)) ∧
        Completes (.configurationRequest port 0x14) s fun t => Aside s t ∧ t.host.response = (0, leBytes 4 s.boot.pwr))) ∧
    (Running s → 8 ≤ s.boot.steps →
      (s.hasPort port = true → offset % 64 = 0 → ∀ gen, look? s.mem.keySlots 0 = some gen → ∀ bs : List Byte, bs.length = 64 →
        let w := ((Config.cxlWindow port).1, min (Config.cxlWindow port).2 64000000000)
        let inside := offset + 64 ≤ w.2 ∧ isHbm (w.1 + offset) = true ∧ s.hbmHere (w.1 + offset) = true
        Completes (.cxlMemAccess port offset (some bs)) s fun t => t.act = s.act ∧
          (inside → t.host.response = (0, []) ∧ t.mem = (s.writeNow gen (w.1 + offset) bs false).mem) ∧
          (¬inside → t.host.response = (1, []) ∧ t.mem = s.mem)) ∧
      (∀ data : List Byte, data.length = 64 → p ≤ 48 → offset % 64 = 0 → offset < 4096 → s.gatewayTakes p (msgOfBytes data) = true →
        Completes (.gatewaySlotWrite p offset data) s fun t => Aside s t ∧ Sends s t fun f => f.dst = (msgOfBytes data).w0 ∧
          f.src = hostName (nameJob (msgOfBytes data).w0) (offset / 64) ∧ ∃ m, f.item = .msg m ∧ m.w1 = f.src ∧ m.w4 = (msgOfBytes data).w4) ∧
      (∀ data : List Byte, data.length ≠ 64 → p ≤ 48 →
        exec (.gatewaySlotWrite p offset data) s = .next (s.modPart p fun x => { x with gatewayErrors := x.gatewayErrors + 1 }))) ∧
    (Running s → ∀ f m, Arrives s f → f.item = .msg m → isHostName m.w0 = true → isHardware m = false → reachable (nameJob f.src) m.w0 = true →
      s.partOfJob (nameJob m.w0) = some p → p < 48 → (s.part p).hostSpill = [] → (s.rxq p).full = false →
      Completes (.hostMessageDelivery f.id) s fun t => t.act = s.act ∧ t.rxq p = { s.rxq p with tail := (s.rxq p).tail + 1 } ∧
        t.host.msix = s.host.msix ++ [((s.rxq p).port.toNat, 1 + p)]) ∧
    (s.calico = true →
      (p < 20 → Completes (.linkThrWrite p v) s fun t => Aside s t ∧ t.link p = (if 1 ≤ v.toNat ∧ v.toNat ≤ 2 ^ 40
        then { s.link p with thr := v.setWidth 41 } else { s.link p with err := true })) ∧
      Completes (.linkRtoWrite v) s (fun t => Aside s t ∧
        (10 ≤ v.toNat → v.toNat ≤ 10000 → t.links.rto = v.setWidth 32) ∧ (10000 < v.toNat → (t.link 0).err = true ∧ t.links.rto = s.links.rto)) ∧
      (p < 4 → ((v.setWidth 32) - (vget s.logs p).head).toNat ≤ ((vget s.logs p).tail - (vget s.logs p).head).toNat →
        Completes (.errorLogHeadWrite p v) s fun t => Aside s t ∧ vget t.logs p = { vget s.logs p with head := v.setWidth 32 }) ∧
      (s.act.jsel ≠ 0 → v = 1 ||| BitVec.ofNat 64 (256 * (p % 64)) → p < 48 → (s.part p).state = 1 →
        (s.parts.jobs.filter (·.valid)).length < 1024 → s.job? s.act.jsel = none →
        Completes (.jobCtlWrite v) s fun t => Aside s t ∧ (∃ j, t.job? s.act.jsel = some j ∧ j.valid = true ∧ j.diag = false ∧ j.part = p) ∧
          ∃ r, t.key.records = s.key.records ++ [r] ∧ r.job = s.act.jsel ∧ r.part = p ∧ r.sealed = false ∧
            ∀ d ∈ t.dir.slots, (s.part p).depends d.num = false) ∧
      (1000 ≤ v.toNat → v.toNat < 2 ^ 32 → s.act.psel.toNat < 48 → (s.modPart s.act.psel.toNat fun t => { t with wdog := v.setWidth 32 }).overdue s.act.psel.toNat = [] →
        exec (.pWdogWrite v) s = .next (s.modPart s.act.psel.toNat fun t => { t with wdog := v.setWidth 32 })))

/-- 03 R76, R77, 19 R425 to R434: links that send, receive, time out and train; heartbeats; lost dies and packages; requests
left unanswered. It rests on the model's readings in assumptions 50, 51, 52, 94. -/
def Obligations.LinkEvents : Prop :=
  ∀ (s : State) (n : Nat), Running s →
    let l := s.link n
    let alone (t : State) (m : Link) : Prop := Aside s t ∧ t.link n = m ∧ ∀ k, k ≠ n → t.link k = s.link k
    (n < 20 → l.state = 2 →
      (∀ pkg x rest, l.keywait = false → l.out = (pkg, x) :: rest → l.txctr.toNat < l.thr.toNat → l.replay.length < 512 →
        let f := l.flit l.txnext 0 (.data Config.packageNumber.toNat pkg x)
        Completes (.flitTransmit n) s fun t =>
          alone t { l.send f s.env.time with replay := l.replay ++ [f], txnext := l.txnext + 1, out := rest } ∧
          ∀ r ∈ s.links.remote, txNumber x = some r.id → r.sent = false → { r with sentAt := s.env.time, sent := true } ∈ t.links.remote) ∧
      (l.out = [] → Completes (.flitTransmit n) s fun t => alone t (l.send (l.control false) s.env.time)) ∧
      (l.keywait = false → l.lastSent + 100000 ≤ s.env.time → l.txctr.toNat < l.thr.toNat →
        Completes (.idleFlitTimer n) s fun t => alone t (l.send (l.flit l.txnext 3 .zero) s.env.time)) ∧
      (l.lastVerified + 300000 ≤ s.env.time →
        Completes (.linkVerifyTimeout n) s fun t => Aside s t ∧ (t.link n).state = 0 ∧ (t.link n).replay = [] ∧ (t.link n).out = []) ∧
      (∀ f : Flit, (vget s.logs (n / 5)).armed = [] → l.held = [] → vget l.rx f.slot.toNat = 2 → f.authentic = true → f.nakv = false →
        f.ack = l.txold →
        (f.type = 3 → Completes (.idleFlit n f) s fun t => alone t { l with failRun := 0, lastVerified := s.env.time }) ∧
        (f.type = 2 → f.seq = l.rxnext → Completes (.controlFlit n f) s fun t => alone t { l with failRun := 0, lastVerified := s.env.time }) ∧
        (f.seq = l.rxnext →
          (∀ b, f.type = 1 → f.plain = .marker b →
            Completes (.marker n f) s fun t => alone t { l with failRun := 0, lastVerified := s.env.time, rxnext := l.rxnext + 1 }) ∧
          (∀ src dst pkg at_, f.type = 0 → f.plain = .data src dst (.heartbeat pkg at_) → s.lostPackage src = false → s.lostPackage pkg = false →
            Completes (.dataFlit n f) s fun t => alone t { l with failRun := 0, lastVerified := s.env.time, rxnext := l.rxnext + 1 } ∧
              (pkg, s.env.time, false) ∈ t.links.peers)))) ∧
    (n < 20 → l.state ≠ 2 → s.boot.minimal = false → 5 ≤ s.boot.steps → ∀ pkg txsalt rxsalt,
      Completes (.linkTrainingComplete n pkg txsalt rxsalt) s fun t => Aside s t ∧ (t.link n).state = 2 ∧ (t.link n).txsalt = txsalt ∧
        (t.link n).rxsalt = rxsalt ∧ (t.link n).txctr = 0 ∧ (t.link n).txgen = 0 ∧ (t.link n).peer = (if pkg < 4096 then some pkg else none)) ∧
    (s.peersOf.contains n = true → (s.links.lastBeat.find? (fun t => t.1 == n) = none ∨
        ∃ x, s.links.lastBeat.find? (fun t => t.1 == n) = some x ∧ x.2 + 100000 ≤ s.env.time) →
      Completes (.heartbeatSend n) s fun t => Aside s t ∧ (n, s.env.time) ∈ t.links.lastBeat) ∧
    (∀ since, s.links.peers.find? (fun p => p.1 == n) = some (n, since, false) → since + 300000 ≤ s.env.time →
      Completes (.packageHeartbeatLoss n) s fun t => Aside s t ∧ t.lostPackage n = true ∧
        (∀ a ∈ s.dir.actors, ∀ e ∈ a.links, e.type = .link → s.elsewhere e.partner = some n →
          ∃ f ∈ t.wire.flights, f.src = e.partner ∧ f.dst = a.name ∧ f.item = .exitSignal 8 0xFFFFFFFFFFFFFFFF) ∧
        ∀ k < 20, (s.link k).peer = some n → (t.link k).state = 3) ∧
    (n < 4 → s.links.lostDies.getLsbD n = false → s.boot.minimal = false → 5 ≤ s.boot.steps → s.dieGone n = true →
      Completes (.bridgeHeartbeatLoss n) s fun t => t.links.lostDies.getLsbD n = true ∧ (∀ a ∈ t.acts, dieOf a.core ≠ n) ∧
        (t.act.live = true → dieOf t.act.core ≠ n)) ∧
    (∀ r, s.links.remote.find? (fun r => r.id == n) = some r → r.answer = none → s.unsent r = false → r.sentAt + s.links.rto.toNat * 1000 ≤ s.env.time → r.entry ≠ earlyEntry →
      exec (.remoteRequestTimeout n) s = .next ((s.dropRemote n).killAnyway r.actor 7))
end

