-- ==== Sys2Proof/Laws/State.lean ====
section
/-! SUPPORT. What each update of the state does to each of its fields, one lemma per field per update. -/

namespace Sys2Proof.Machine

/-! ## The running activation changed -/

@[simp] theorem State.modAct_act (s : State) (f : Act → Act) : (s.modAct f).act = f s.act := rfl
@[simp] theorem State.modAct_acts (s : State) (f : Act → Act) : (s.modAct f).acts = s.acts := rfl
@[simp] theorem State.modAct_env (s : State) (f : Act → Act) : (s.modAct f).env = s.env := rfl
@[simp] theorem State.modAct_cores (s : State) (f : Act → Act) : (s.modAct f).cores = s.cores := rfl
@[simp] theorem State.modAct_sfu (s : State) (f : Act → Act) : (s.modAct f).sfu = s.sfu := rfl
@[simp] theorem State.modAct_mem (s : State) (f : Act → Act) : (s.modAct f).mem = s.mem := rfl
@[simp] theorem State.modAct_dir (s : State) (f : Act → Act) : (s.modAct f).dir = s.dir := rfl
@[simp] theorem State.modAct_wire (s : State) (f : Act → Act) : (s.modAct f).wire = s.wire := rfl
@[simp] theorem State.modAct_xlat (s : State) (f : Act → Act) : (s.modAct f).xlat = s.xlat := rfl
@[simp] theorem State.modAct_exp (s : State) (f : Act → Act) : (s.modAct f).exp = s.exp := rfl
@[simp] theorem State.modAct_parts (s : State) (f : Act → Act) : (s.modAct f).parts = s.parts := rfl
@[simp] theorem State.modAct_links (s : State) (f : Act → Act) : (s.modAct f).links = s.links := rfl
@[simp] theorem State.modAct_host (s : State) (f : Act → Act) : (s.modAct f).host = s.host := rfl
@[simp] theorem State.modAct_key (s : State) (f : Act → Act) : (s.modAct f).key = s.key := rfl
@[simp] theorem State.modAct_logs (s : State) (f : Act → Act) : (s.modAct f).logs = s.logs := rfl
@[simp] theorem State.modAct_boot (s : State) (f : Act → Act) : (s.modAct f).boot = s.boot := rfl

/-! ## The pc moved on, and a result written -/

@[simp] theorem State.advance_env (s : State) (n : Nat) : (s.advance n).env = s.env := rfl
@[simp] theorem State.advance_acts (s : State) (n : Nat) : (s.advance n).acts = s.acts := rfl
@[simp] theorem State.advance_cores (s : State) (n : Nat) : (s.advance n).cores = s.cores := rfl
@[simp] theorem State.advance_sfu (s : State) (n : Nat) : (s.advance n).sfu = s.sfu := rfl
@[simp] theorem State.advance_mem (s : State) (n : Nat) : (s.advance n).mem = s.mem := rfl
@[simp] theorem State.advance_dir (s : State) (n : Nat) : (s.advance n).dir = s.dir := rfl
@[simp] theorem State.advance_wire (s : State) (n : Nat) : (s.advance n).wire = s.wire := rfl
@[simp] theorem State.advance_xlat (s : State) (n : Nat) : (s.advance n).xlat = s.xlat := rfl
@[simp] theorem State.advance_exp (s : State) (n : Nat) : (s.advance n).exp = s.exp := rfl
@[simp] theorem State.advance_parts (s : State) (n : Nat) : (s.advance n).parts = s.parts := rfl
@[simp] theorem State.advance_links (s : State) (n : Nat) : (s.advance n).links = s.links := rfl
@[simp] theorem State.advance_host (s : State) (n : Nat) : (s.advance n).host = s.host := rfl
@[simp] theorem State.advance_key (s : State) (n : Nat) : (s.advance n).key = s.key := rfl
@[simp] theorem State.advance_logs (s : State) (n : Nat) : (s.advance n).logs = s.logs := rfl
@[simp] theorem State.advance_boot (s : State) (n : Nat) : (s.advance n).boot = s.boot := rfl
@[simp] theorem State.advance_live (s : State) (n : Nat) : (s.advance n).act.live = s.act.live := rfl
@[simp] theorem State.advance_aid (s : State) (n : Nat) : (s.advance n).act.aid = s.act.aid := rfl
@[simp] theorem State.advance_core (s : State) (n : Nat) : (s.advance n).act.core = s.act.core := rfl
@[simp] theorem State.advance_name (s : State) (n : Nat) : (s.advance n).act.name = s.act.name := rfl
@[simp] theorem State.advance_x (s : State) (n : Nat) : (s.advance n).act.x = s.act.x := rfl
@[simp] theorem State.advance_xp (s : State) (n : Nat) : (s.advance n).act.xp = s.act.xp := rfl
@[simp] theorem State.advance_p (s : State) (n : Nat) : (s.advance n).act.p = s.act.p := rfl
@[simp] theorem State.advance_e (s : State) (n : Nat) : (s.advance n).act.e = s.act.e := rfl
@[simp] theorem State.advance_ep (s : State) (n : Nat) : (s.advance n).act.ep = s.act.ep := rfl
@[simp] theorem State.advance_o (s : State) (n : Nat) : (s.advance n).act.o = s.act.o := rfl
@[simp] theorem State.advance_op (s : State) (n : Nat) : (s.advance n).act.op = s.act.op := rfl
@[simp] theorem State.advance_q (s : State) (n : Nat) : (s.advance n).act.q = s.act.q := rfl
@[simp] theorem State.advance_bq (s : State) (n : Nat) : (s.advance n).act.bq = s.act.bq := rfl
@[simp] theorem State.advance_streams (s : State) (n : Nat) : (s.advance n).act.streams = s.act.streams := rfl
@[simp] theorem State.advance_guards (s : State) (n : Nat) : (s.advance n).act.guards = s.act.guards := rfl
@[simp] theorem State.advance_staged (s : State) (n : Nat) : (s.advance n).act.staged = s.act.staged := rfl
@[simp] theorem State.advance_committed (s : State) (n : Nat) : (s.advance n).act.committed = s.act.committed := rfl
@[simp] theorem State.advance_fflags (s : State) (n : Nat) : (s.advance n).act.fflags = s.act.fflags := rfl
@[simp] theorem State.advance_eflags (s : State) (n : Nat) : (s.advance n).act.eflags = s.act.eflags := rfl
@[simp] theorem State.advance_srctr (s : State) (n : Nat) : (s.advance n).act.srctr = s.act.srctr := rfl
@[simp] theorem State.advance_run (s : State) (n : Nat) : (s.advance n).act.run = s.act.run := rfl
@[simp] theorem State.advance_nth (s : State) (n : Nat) : (s.advance n).act.nth = s.act.nth := rfl
@[simp] theorem State.advance_early (s : State) (n : Nat) : (s.advance n).act.early = s.act.early := rfl
@[simp] theorem State.advance_ahead (s : State) (n : Nat) : (s.advance n).act.ahead = s.act.ahead := rfl
@[simp] theorem State.advance_acquires (s : State) (n : Nat) : (s.advance n).act.acquires = s.act.acquires := rfl
@[simp] theorem State.advance_fences (s : State) (n : Nat) : (s.advance n).act.fences = s.act.fences := rfl
@[simp] theorem State.advance_outs (s : State) (n : Nat) : (s.advance n).act.outs = s.act.outs := rfl
@[simp] theorem State.advance_eseq (s : State) (n : Nat) : (s.advance n).act.eseq = s.act.eseq := rfl
@[simp] theorem State.advance_ewait (s : State) (n : Nat) : (s.advance n).act.ewait = s.act.ewait := rfl
@[simp] theorem State.advance_ememo (s : State) (n : Nat) : (s.advance n).act.ememo = s.act.ememo := rfl
@[simp] theorem State.advance_edst (s : State) (n : Nat) : (s.advance n).act.edst = s.act.edst := rfl
@[simp] theorem State.advance_pc (s : State) (n : Nat) : (s.advance n).act.pc = s.act.pc + BitVec.ofNat 64 n := rfl
@[simp] theorem State.advance_wait (s : State) (n : Nat) : (s.advance n).act.wait = .none := rfl
@[simp] theorem State.advance_issued (s : State) (n : Nat) : (s.advance n).act.issued = none := rfl
@[simp] theorem State.advance_memo (s : State) (n : Nat) : (s.advance n).act.memo = .none := rfl

@[simp] theorem State.result_env (s : State) (n : Nat) (d : BitVec 5) (v : Word) (p : Bool) : (s.result n d v p).env = s.env := rfl
@[simp] theorem State.result_acts (s : State) (n : Nat) (d : BitVec 5) (v : Word) (p : Bool) : (s.result n d v p).acts = s.acts := rfl
@[simp] theorem State.result_cores (s : State) (n : Nat) (d : BitVec 5) (v : Word) (p : Bool) : (s.result n d v p).cores = s.cores := rfl
@[simp] theorem State.result_mem (s : State) (n : Nat) (d : BitVec 5) (v : Word) (p : Bool) : (s.result n d v p).mem = s.mem := rfl
@[simp] theorem State.result_dir (s : State) (n : Nat) (d : BitVec 5) (v : Word) (p : Bool) : (s.result n d v p).dir = s.dir := rfl
@[simp] theorem State.result_wire (s : State) (n : Nat) (d : BitVec 5) (v : Word) (p : Bool) : (s.result n d v p).wire = s.wire := rfl
@[simp] theorem State.result_xlat (s : State) (n : Nat) (d : BitVec 5) (v : Word) (p : Bool) : (s.result n d v p).xlat = s.xlat := rfl
@[simp] theorem State.result_exp (s : State) (n : Nat) (d : BitVec 5) (v : Word) (p : Bool) : (s.result n d v p).exp = s.exp := rfl
@[simp] theorem State.result_parts (s : State) (n : Nat) (d : BitVec 5) (v : Word) (p : Bool) : (s.result n d v p).parts = s.parts := rfl
@[simp] theorem State.result_links (s : State) (n : Nat) (d : BitVec 5) (v : Word) (p : Bool) : (s.result n d v p).links = s.links := rfl
@[simp] theorem State.result_sfu (s : State) (n : Nat) (d : BitVec 5) (v : Word) (p : Bool) : (s.result n d v p).sfu = s.sfu := rfl
@[simp] theorem State.result_host (s : State) (n : Nat) (d : BitVec 5) (v : Word) (p : Bool) : (s.result n d v p).host = s.host := rfl
@[simp] theorem State.result_logs (s : State) (n : Nat) (d : BitVec 5) (v : Word) (p : Bool) : (s.result n d v p).logs = s.logs := rfl
@[simp] theorem State.result_key (s : State) (n : Nat) (d : BitVec 5) (v : Word) (p : Bool) : (s.result n d v p).key = s.key := rfl
@[simp] theorem State.result_boot (s : State) (n : Nat) (d : BitVec 5) (v : Word) (p : Bool) : (s.result n d v p).boot = s.boot := rfl
theorem State.result_act (s : State) (n : Nat) (d : BitVec 5) (v : Word) (p : Bool) :
    (s.result n d v p).act = { s.act.setX d v p with pc := (s.act.setX d v p).pc + BitVec.ofNat 64 n, wait := .none, memo := .none, issued := none } := rfl
@[simp] theorem State.result_zero (s : State) (n : Nat) (v : Word) (p : Bool) : s.result n (0#5) v p = s.advance n := by
  simp [State.result, Act.setX]

/-! ## Registers (07 R162, R163) -/

@[simp] theorem Act.getX_zero (a : Act) : a.getX (0#5) = 0#64 := rfl
@[simp] theorem Act.xPoison_zero (a : Act) : a.xPoison (0#5) = false := rfl
@[simp] theorem Act.setX_zero (a : Act) (v : Word) (p : Bool) : a.setX (0#5) v p = a := rfl
@[simp] theorem Act.setX_pc (a : Act) (d : BitVec 5) (v : Word) (p : Bool) : (a.setX d v p).pc = a.pc := by
  unfold Act.setX; split <;> rfl
@[simp] theorem Act.setX_live (a : Act) (d : BitVec 5) (v : Word) (p : Bool) : (a.setX d v p).live = a.live := by
  unfold Act.setX; split <;> rfl

theorem getElem_of_toNat (m : BitVec 32) (r : BitVec 5) : m[r.toNat]'r.isLt = m.getLsbD r.toNat :=
  (BitVec.getLsbD_eq_getElem r.isLt).symm

theorem Act.setX_of_ne (a : Act) {d : BitVec 5} (v : Word) (p : Bool) (h : d ≠ 0) :
    a.setX d v p = { a with x := a.x.set d.toNat v
                            xp := if p then a.xp ||| (1#32 <<< d.toNat) else a.xp &&& ~~~(1#32 <<< d.toNat) } := if_neg h
theorem Act.getX_of_ne (a : Act) {r : BitVec 5} (h : r ≠ 0) : a.getX r = a.x[r.toNat] := if_neg h
theorem Act.xPoison_of_ne (a : Act) {r : BitVec 5} (h : r ≠ 0) : a.xPoison r = a.xp.getLsbD r.toNat :=
  (if_neg h).trans (getElem_of_toNat _ _)

/-- What a register written holds, and that the others keep theirs. -/
theorem Act.getX_setX_self (a : Act) {d : BitVec 5} (v : Word) (p : Bool) (h : d ≠ 0) : (a.setX d v p).getX d = v := by
  rw [Act.setX_of_ne a v p h, Act.getX_of_ne _ h]; simp
theorem Act.getX_setX_ne (a : Act) {d r : BitVec 5} (v : Word) (p : Bool) (h : r ≠ d) : (a.setX d v p).getX r = a.getX r := by
  by_cases h0 : d = 0
  · rw [h0]; rfl
  by_cases hr : r = 0
  · rw [hr]; rfl
  rw [Act.setX_of_ne a v p h0, Act.getX_of_ne _ hr, Act.getX_of_ne _ hr]
  exact Vector.getElem_set_ne d.isLt r.isLt fun e => h (BitVec.eq_of_toNat_eq e.symm)

theorem bit_shift (d r : BitVec 5) : (1#32 <<< d.toNat).getLsbD r.toNat = decide (r = d) := by
  have hlt : r.toNat < 32 := r.isLt
  rw [BitVec.getLsbD_shiftLeft, BitVec.getLsbD_one]
  by_cases h : r = d
  · subst h; simp [hlt]
  · have : r.toNat ≠ d.toNat := fun e => h (BitVec.eq_of_toNat_eq e)
    simp [h, hlt]; omega

theorem Act.xPoison_setX_self (a : Act) {d : BitVec 5} (v : Word) (p : Bool) (h : d ≠ 0) : (a.setX d v p).xPoison d = p := by
  have hlt : d.toNat < 32 := d.isLt
  rw [Act.setX_of_ne a v p h, Act.xPoison_of_ne _ h]
  cases p <;> simp only [if_true, Bool.false_eq_true, if_false, BitVec.getLsbD_or, BitVec.getLsbD_and, BitVec.getLsbD_not, bit_shift] <;> simp
theorem Act.xPoison_setX_ne (a : Act) {d r : BitVec 5} (v : Word) (p : Bool) (h : r ≠ d) : (a.setX d v p).xPoison r = a.xPoison r := by
  by_cases h0 : d = 0
  · rw [h0]; rfl
  by_cases hr : r = 0
  · rw [hr]; rfl
  have hlt : r.toNat < 32 := r.isLt
  rw [Act.setX_of_ne a v p h0, Act.xPoison_of_ne _ hr, Act.xPoison_of_ne _ hr]
  cases p <;>
    simp only [if_true, Bool.false_eq_true, if_false, BitVec.getLsbD_or, BitVec.getLsbD_and, BitVec.getLsbD_not, bit_shift, h, decide_false, hlt, decide_true] <;> simp

end Sys2Proof.Machine
end

