-- ==== Sys2Proof/Laws/Access.lean ====
section
/-! SUPPORT. What the shared operations answer: `run`, the checks, and loads, stores and atomics in the local window. -/

namespace Sys2Proof.Machine

open Sys2Proof.Safety

/-! ## Outcomes -/

theorem run_ok {s t : State} (h : s.act.live = true) : run s (.ok t) = .next t := by simp [run, h]
theorem run_kill {s : State} {r : Nat} {n : Option Note} (h : s.act.live = true) :
    run s (.error (.kill r n)) = .next (s.raise r n) := by simp [run, h]
theorem run_stall {s : State} {w : Wait} (h : s.act.live = true) :
    run s (.error (.stall w)) = .next (s.modAct fun a => { a with wait := w }) := by simp [run, h]
theorem run_miss {s : State} {m : Miss} (h : s.act.live = true) : run s (.error (.miss m)) = .next (s.missAct m) := by simp [run, h]
/-- A running activation's instruction always gives a next state, unless its meaning faults or refuses by name. -/
theorem run_dead {s : State} {c : Chk State} (h : s.act.live = false) : run s c = .fault .noActivation := by simp [run, h]

@[simp] theorem bind_ok {α β : Type} (a : α) (f : α → Chk β) : (Except.ok a >>= f : Chk β) = f a := rfl
@[simp] theorem bind_error {α β : Type} (e : Stop) (f : α → Chk β) : (Except.error e >>= f : Chk β) = .error e := rfl
@[simp] theorem need_true (r : Nat) : need true r = .ok () := rfl
@[simp] theorem need_false (r : Nat) : need false r = kill r := rfl
@[simp] theorem await_true : await true = .ok () := rfl
@[simp] theorem await_false : await false = stall := rfl
theorem need_of {c : Bool} {r : Nat} (h : c = true) : need c r = .ok () := by simp [h]
theorem await_of {c : Bool} (h : c = true) : await c = .ok () := by simp [h]
theorem ctlX_clean {s : State} {r : BitVec 5} (h : Clean s r) : s.act.ctlX r = .ok (s.act.getX r) := by
  unfold Clean at h; simp [Act.ctlX, h]
theorem ctlO_clean {s : State} {i : Nat} (h : CleanO s i) : s.act.ctlO i = .ok (s.act.getO i) := by
  unfold CleanO at h; simp [Act.ctlO, h]
theorem maskOf_small {w : Word} (h : w.toNat < 2 ^ 17) : maskOf w = .ok (w.setWidth 17) := if_pos h

/-! ## What commits first, and what runs of a mirrored child do once (02 R47; 03 R85, R86) -/

theorem commits_released {s : State} {f : State → Chk State} (h : s.act.released = true) : s.commits f = f s := if_pos h
theorem commits_waiting {s : State} {f : State → Chk State} (h : s.act.released = false) : s.commits f = s.commitStep := by
  simp [State.commits, h]
theorem once_solo {s : State} {len : Nat} {d : BitVec 5} {f : State → Chk State} (h : Solo s) : s.once len d f = f s := by
  unfold Solo at h; simp [State.once, h]
theorem once_shared {s : State} {len : Nat} {d : BitVec 5} {f : State → Chk State} {t : Actor} {v : Word} {p : Bool}
    (h : s.mirrorOf s.act.name = some t) (hn : t.shared[s.act.nth]? = some (v, p)) :
    s.once len d f = .ok ((s.modAct fun a => { a with nth := a.nth + 1 }).result len d v p) := by
  simp only [State.once, h, hn]; rfl
theorem once_ahead {s : State} {len : Nat} {d : BitVec 5} {f : State → Chk State} {t : Actor}
    (h : s.mirrorOf s.act.name = some t) (hn : t.shared[s.act.nth]? = none) (hr : s.act.run ≠ 0) : s.once len d f = stall := by
  simp [State.once, h, hn, hr]
theorem awaitFences_met {s : State} (h : s.fencesMet s.act = true) : s.awaitFences = .ok () := await_of h

/-! ## Checks in the local window (04 R103) -/

theorem check_local {s : State} {va : Word} {n al : Nat} {acc : Access} (h : LocalOk s va n al acc) :
    s.check s.me va n al acc = .ok (va.toNat, .pool s.act.core (va.toNat % 2 ^ 48) true true) := by
  obtain ⟨-, hw, ha, hb, r, hr, hok⟩ := h
  have hc : va.toNat < 2 ^ 55 := by omega
  have h4 : ((s.regionsOf s.act.name s.act.run s.act.core).toList.any fun r => r.allows acc (va.toNat % 2 ^ 48) n) = true :=
    List.any_eq_true.mpr ⟨r, hr, hok⟩
  have h2 : aligned va.toNat al = .ok () := need_of (by simp [ha])
  have h3 : s.spot s.act.core va.toNat n = .ok (.pool s.act.core (va.toNat % 2 ^ 48) true true) := by
    unfold State.spot; rw [if_pos hw]; exact if_pos hb
  have h5 : s.regionCheck s.me (.pool s.act.core (va.toNat % 2 ^ 48) true true) acc n = .ok () := need_of h4
  have h1 : canonical va = .ok va.toNat := if_pos hc
  simp only [State.check, State.me, State.whoOf] at *
  simp only [h1, h2, h3, h5, bind_ok]

theorem checkLocal_local {s : State} {va : Word} {n al : Nat} {acc : Access} (h : LocalOk s va n al acc) :
    s.checkLocal s.me va n al acc = .ok va.toNat := by
  obtain ⟨-, hw, ha, hb, r, hr, hok⟩ := h
  have hc : va.toNat < 2 ^ 55 := by omega
  have h4 : ((s.regionsOf s.act.name s.act.run s.act.core).toList.any fun r => r.allows acc (va.toNat % 2 ^ 48) n) = true :=
    List.any_eq_true.mpr ⟨r, hr, hok⟩
  have h2 : aligned va.toNat al = .ok () := need_of (by simp [ha])
  have h3 : s.spot s.act.core va.toNat n = .ok (.pool s.act.core (va.toNat % 2 ^ 48) true true) := by
    unfold State.spot; rw [if_pos hw]; exact if_pos hb
  have h5 : s.regionCheck s.me (.pool s.act.core (va.toNat % 2 ^ 48) true true) acc n = .ok () := need_of h4
  have h1 : canonical va = .ok va.toNat := if_pos hc
  have h6 : need (va.toNat / 2 ^ 48 == 0x70) 20 = .ok () := need_of (beq_iff_eq.mpr hw)
  simp only [State.checkLocal, State.me, State.whoOf] at *
  simp only [h1, h2, h3, h5, h6, bind_ok]

/-! ## Loads (08 R198, R199) -/

theorem awaitPorts_none {s : State} {core off n : Nat} (h : (s.core core).ports = []) : s.awaitPorts core off n = .ok () := by
  simp [State.awaitPorts, h]

theorem readPlain_length (s : State) (die a n : Nat) : (s.readPlain die a n).1.length = n := by
  simp [State.readPlain, spanNats]

theorem overlayOwn_none {s : State} {w : Who} {va place : Nat} {bs : List Byte} {p : Bool} (ho : s.ownEffects w = [])
    (h : ∀ va place, s.ownByte w [] va place = none) : s.overlayOwn w va place bs p = (bs, p) := by
  have e : ((List.range bs.length).map fun i => s.ownByte w [] (va + i) (place + i)) = List.replicate bs.length none := by
    apply List.eq_replicate_iff.mpr
    refine ⟨by simp, fun b hb => ?_⟩
    obtain ⟨k, -, rfl⟩ := List.mem_map.mp hb
    exact h _ _
  have z : ∀ l : List Byte, ((List.replicate l.length (none : Option (Byte × Bool))).zip l).map
      (fun t => (t.1.map (·.1)).getD t.2) = l := by
    intro l; induction l with
    | nil => rfl
    | cons b l ih => simp only [List.length_cons, List.replicate_succ, List.zip_cons_cons, List.map_cons, ih]; rfl
  simp only [State.overlayOwn, ho, e, z]
  cases bs <;> simp

theorem settleAcquires_none {s : State} (h : s.act.acquires = []) : s.settleAcquires = s := by simp [State.settleAcquires, h]
theorem awaitAcquires_none {s : State} (h : s.act.acquires = []) (va n : Nat) : s.awaitAcquires va n = .ok () := by
  simp [State.awaitAcquires, Act.mayRead, h]
theorem awaitPushes_none {s : State} {w : Who} (h : (s.mem.pending.any fun p => p.stale w.aid w.name) = false) (place n : Nat) :
    s.awaitPushes w place n = .ok () := by
  refine await_of ?_
  rw [List.any_eq_false] at h
  simp only [Bool.not_eq_eq_eq_not, Bool.not_true, List.any_eq_false, Bool.and_eq_true, not_and]
  exact fun p hp hs => absurd hs (h p hp)
theorem early?_none {s : State} (h : s.act.early = []) (w : Who) (va n place : Nat) : s.early? w va n place = none := by
  simp [State.early?, h]
/-- With no injection armed on its die, a check of a unit reports nothing (16 R379). -/
theorem inject_unarmed {s : State} {core : Nat} (unit index : Nat) (h : (vget s.logs (dieOf core)).armed = []) :
    s.inject core unit index = s := by
  simp [State.inject, h]
theorem checkPool_unarmed {s : State} {core : Nat} (h : (vget s.logs (dieOf core)).armed = []) : s.checkPool core = s := inject_unarmed 3 0 h
theorem awaitOwn_none {s : State} {w : Who} (h : s.ownEffects w = []) (place n : Nat) : s.awaitOwn w place n = .ok () := by
  simp [State.awaitOwn, h]
/-- With nothing read ahead, no write is noted. -/
theorem noteStore_none {s : State} (h : s.act.early = []) (h' : ∀ a ∈ s.acts, a.early = []) (core addr n : Nat) :
    s.noteStore core addr n = s := by
  have e : ∀ f : Act → Act, (∀ a : Act, a.early = [] → f a = a) → s.acts.map f = s.acts := by
    intro f hf
    conv_rhs => rw [← List.map_id s.acts]
    exact List.map_congr_left fun a ha => hf a (h' a ha)
  unfold State.noteStore State.noteWrite
  dsimp only
  rw [e _ fun a ha => by simp [ha]]
  simp [h]
/-- A state in which nothing was read ahead is left as it is. -/
theorem passEarly_none {s : State} (h : s.act.early = []) (h' : ∀ a ∈ s.acts, a.early = []) (aid place n : Nat) :
    s.passEarly aid place n = s := by
  have e : s.acts.map (fun a : Act => if (a.early.isEmpty || a.aid != aid) = true then a
      else { a with early := a.early.filter fun e => !(overlaps e.place e.len place n || e.outdated place n) }) = s.acts := by
    conv_rhs => rw [← List.map_id s.acts]
    apply List.map_congr_left
    intro a ha
    simp [h' a ha]
  simp only [State.passEarly, h, List.isEmpty_nil, Bool.true_or, if_true, e]

theorem loadBytes_local {s : State} {va : Word} {n al : Nat} (h : LocalOk s va n al .load)
    (hp : (s.core s.act.core).ports = []) (hi : InOrder s) (ho : Unwritten s) :
    s.loadBytes s.me va n al = .ok (some (s.readPlain (dieOf s.act.core) (localKey s va) n), s) := by
  simp only [State.loadBytes, check_local h, bind_ok, settleAcquires_none hi.1, awaitAcquires_none hi.1, awaitPorts_none hp,
    awaitPushes_none ho.2.1, awaitOwn_none ho.1, early?_none hi.2.1, passEarly_none hi.2.1 hi.2.2, checkPool_unarmed h.1]
  rw [overlayOwn_none ho.1 ho.2.2]; rfl

theorem loadInto_local {s : State} {n : Nat} {signed : Bool} {off : Word} {a d : BitVec 5} {len : Nat} (hc : Clean s a)
    (h : LocalOk s (s.act.getX a + off) n n .load) (hp : (s.core s.act.core).ports = []) (hi : InOrder s) (ho : Unwritten s) :
    loadInto n signed off a d len s =
      (let r := s.readPlain (dieOf s.act.core) (localKey s (s.act.getX a + off)) n
       .ok (s.result len d (if signed then sext (8 * n) (leNat r.1) else BitVec.ofNat 64 (leNat r.1)) r.2)) := by
  simp only [loadInto, ctlX_clean hc, loadBytes_local h hp hi ho, bind_ok]

/-! ## Nothing outstanding (05 R127, R128) -/

theorem outstanding_quiet {s : State} (h : s.counted = []) (aid slot : Nat) (w : Bool) : s.outstanding aid slot w = 0 := by
  simp [State.outstanding, h]
theorem covered_quiet {s : State} (h : s.counted = []) (a : Act) (m : BitVec 17) : s.covered a m = [] := by
  simp [State.covered, h]
theorem pending_quiet {s : State} (h : s.counted = []) : s.mem.pending = [] := by
  simp only [State.counted, List.append_eq_nil_iff, List.map_eq_nil_iff] at h; exact h.1.1.1
theorem entries_quiet {s : State} (h : s.counted = []) : s.entries = [] := by
  simp only [State.counted, List.append_eq_nil_iff, List.map_eq_nil_iff] at h; exact h.1.1.2
theorem deferred_quiet {s : State} (h : s.counted = []) : s.wire.deferred = [] := by
  simp only [State.counted, List.append_eq_nil_iff, List.map_eq_nil_iff] at h; exact h.1.2
theorem remote_quiet {s : State} (h : s.counted = []) : s.links.remote = [] := by
  simp only [State.counted, List.append_eq_nil_iff, List.map_eq_nil_iff] at h; exact h.2
theorem waitsFor_quiet {s : State} (h : s.counted = []) (a : Act) (m : BitVec 17) (sc : Nat) : s.waitsFor a m sc = [] := by
  simp [State.waitsFor, covered_quiet h, State.coveredBefore, pending_quiet h, remote_quiet h, deferred_quiet h]
theorem gates_none {s : State} {a : Act} (h : a.acquires = []) : s.gates a = [] := by simp [State.gates, h]
theorem carries_quiet {s : State} (h : s.counted = []) {a : Act} (ha : a.acquires = []) (m : BitVec 17) (sc : Nat) :
    s.carries a m sc = [] := by
  simp [State.carries, gates_none ha, waitsFor_quiet h, State.seenBefore, pending_quiet h]
theorem behind_quiet {s : State} (h : s.counted = []) (w : Who) : s.behind w = false := by
  simp [State.behind, deferred_quiet h]
theorem awaitEarlier_quiet {s : State} (h : s.counted = []) (ht : s.wire.tails = []) (w : Who) : s.awaitEarlier w = .ok () := by
  simp [State.awaitEarlier, State.replicated, pending_quiet h, ht]

theorem look_mem {α : Type} (d : α) (l : List (Nat × α)) (k : Nat) : look d l k = d ∨ (k, look d l k) ∈ l := by
  induction l with
  | nil => left; rfl
  | cons t l ih =>
    obtain ⟨a, b⟩ := t
    by_cases e : k = a
    · right; simp [look, e]
    · simp only [look, e, if_false]
      rcases ih with h | h
      · left; exact h
      · right; exact List.mem_cons_of_mem _ h

theorem queued_quiet {s : State} (h : s.counted = []) (core : Nat) : s.queued core = [] := by
  have e := entries_quiet h
  rcases look_mem ({} : Core) s.cores core with hd | hm
  · simp only [State.queued, State.core, hd]; rfl
  · simp only [State.entries, List.flatMap_eq_nil_iff] at e
    exact e _ hm

theorem awaitCounts_quiet {s : State} (h : s.counted = []) (a : Act) (va n : Nat) (w : Bool) :
    s.awaitCounts (a.tagsFor [(w, va, n)]) = .ok () := by
  apply await_of
  simp only [List.all_eq_true]
  intro i _ b _
  simp only [outstanding_quiet h, Act.tagsFor, Nat.zero_add, decide_eq_true_eq]
  refine le_trans (List.length_filter_le _ _) ?_
  simp only [List.length_map]
  exact le_trans (List.length_filter_le _ _) (by simp)

theorem awaitBoard_quiet {s : State} (h : s.counted = []) (core va n b : Nat) : s.awaitBoard core va n b = .ok () := by
  simp [State.awaitBoard, queued_quiet h]
theorem awaitFences_quiet {s : State} (h : s.act.fences = []) (ha : s.act.acquires = []) : s.awaitFences = .ok () := by
  simp [State.awaitFences, State.fencesMet, h, ha]

/-! ## Stores (08 R198, R200) -/

theorem whoOf_act (s : State) : s.whoOf s.act = s.me := rfl
theorem word_toNat (va : Word) : BitVec.ofNat 64 va.toNat = va := by simp

theorem writeNow_pool (s : State) (gen core off : Nat) (bs : List Byte) (p : Bool) :
    (s.writeNow gen (poolKey core off) bs p).act = s.act ∧ (s.writeNow gen (poolKey core off) bs p).acts = s.acts ∧
    (s.writeNow gen (poolKey core off) bs p).logs = s.logs := by
  have h : isHbm (poolKey core off) = false := by
    unfold isHbm poolKey; exact decide_eq_false (by omega)
  unfold State.writeNow
  rw [h]
  exact ⟨rfl, rfl, rfl⟩

theorem isGlobal_local {core va : Nat} (h : va / 2 ^ 48 = 0x70) : isGlobal core va = false := by
  unfold isGlobal isLocal; rw [beq_iff_eq.mpr h]; rfl

theorem effectStore_local {s : State} {eff : Eff} {va : Word} {n : Nat} {v : Word} {p : Bool} {m : BitVec 17} {sc : Nat}
    (h : LocalOk s va n n .store) (q : Quiet s) :
    s.effectStore s.act eff va.toNat n v p m sc =
      .ok (s.writeNow 0 (localKey s va) (leBytes n v.toNat) p) := by
  have hg : isGlobal s.act.core va.toNat = false := isGlobal_local h.2.1
  have he := q.2.2.2.2
  simp only [State.effectStore, hg, Bool.and_false, Bool.false_eq_true, if_false, awaitCounts_quiet q.1, bind_ok, waitsFor_quiet q.1,
    whoOf_act, awaitEarlier_quiet q.1 q.2.2.1, behind_quiet q.1, List.filter_nil, List.isEmpty_nil, Bool.not_false, Bool.and_true,
    if_true, State.storeNow, word_toNat, check_local h, awaitBoard_quiet q.1, gates_none q.2.2.2.1, List.append_nil]
  obtain ⟨h1, h2, h3⟩ := writeNow_pool s 0 s.act.core (va.toNat % 2 ^ 48) (leBytes n v.toNat) p
  have e1 : (s.writeNow 0 (poolKey s.act.core (va.toNat % 2 ^ 48)) (leBytes n v.toNat) p).act.early = [] := by rw [h1]; exact he.1
  have e2 : ∀ a ∈ (s.writeNow 0 (poolKey s.act.core (va.toNat % 2 ^ 48)) (leBytes n v.toNat) p).acts, a.early = [] := by
    rw [h2]; exact he.2
  have e3 : (vget (s.writeNow 0 (poolKey s.act.core (va.toNat % 2 ^ 48)) (leBytes n v.toNat) p).logs (dieOf s.act.core)).armed = [] := by
    rw [h3]; exact h.1
  show Except.ok (((State.noteStore _ s.me.core _ n).passEarly _ _ n).checkPool s.act.core) = _
  rw [noteStore_none e1 e2, passEarly_none e1 e2, checkPool_unarmed e3]; rfl

theorem issueStore_local {s : State} {eff : Eff} {va : Word} {n : Nat} {v : Word} {p : Bool} {m : BitVec 17} {sc : Nat}
    (h : LocalOk s va n n .store) (q : Quiet s) :
    s.issueStore eff va n v p m sc = .ok (s.writeNow 0 (localKey s va) (leBytes n v.toNat) p) := by
  have hg : isGlobal s.act.core va.toNat = false := isGlobal_local h.2.1
  simp only [State.issueStore, check_local h, bind_ok, awaitFences_quiet q.2.1 q.2.2.2.1, hg, Bool.false_and, Bool.false_eq_true, if_false,
    effectStore_local h q]

theorem storeFrom_local {s : State} {n : Nat} {off : Word} {a d : BitVec 5} {len : Nat} (hc : Clean s a)
    (h : LocalOk s (s.act.getX a + off) n n .store) (q : Quiet s) :
    storeFrom n off a d len s = .ok ((s.writeNow 0 (localKey s (s.act.getX a + off)) (leBytes n (s.act.getX d).toNat)
      (s.act.xPoison d)).advance len) := by
  simp only [storeFrom, ctlX_clean hc, bind_ok, issueStore_local h q]

end Sys2Proof.Machine
end

