-- ==== Sys2Proof/Laws/Store.lean ====
section
/-! SUPPORT. Sparse tables: read after write, and the canonical form kept. -/

namespace Sys2Proof.Machine

variable {α : Type}

/-! ## Read after write -/

theorem look_del_self (d : α) (n : Nat) (t : List (Nat × α)) : look d (del? n t) n = d := by
  induction t with
  | nil => rfl
  | cons c t ih =>
    obtain ⟨k, u⟩ := c
    by_cases h : k = n
    · subst h; simpa [del?] using ih
    · have : n ≠ k := fun e => h e.symm
      simpa [del?, h, look, this] using ih

theorem look_del_ne (d : α) {n m : Nat} (t : List (Nat × α)) (h : m ≠ n) : look d (del? n t) m = look d t m := by
  induction t with
  | nil => rfl
  | cons c t ih =>
    obtain ⟨k, u⟩ := c
    by_cases e : k = n
    · subst e; simpa [del?, look, h] using ih
    · by_cases e' : m = k
      · subst e'; simp [del?, e, look]
      · simpa [del?, e, look, e'] using ih

theorem look_insert_self (d : α) (n : Nat) (v : α) (t : List (Nat × α)) (h : ∀ c ∈ t, c.1 ≠ n) : look d (insertKey n v t) n = v := by
  induction t with
  | nil => simp [insertKey, look]
  | cons c t ih =>
    obtain ⟨k, u⟩ := c
    have hk : n ≠ k := fun e => h (k, u) (by simp) e.symm
    by_cases e : n < k
    · simp [insertKey, e, look]
    · simp only [insertKey, e, if_false, look, hk]
      exact ih fun c hc => h c (by simp [hc])

theorem look_insert_ne (d : α) {n m : Nat} (v : α) (t : List (Nat × α)) (h : m ≠ n) : look d (insertKey n v t) m = look d t m := by
  induction t with
  | nil => simp [insertKey, look, h]
  | cons c t ih =>
    obtain ⟨k, u⟩ := c
    by_cases e : n < k
    · simp [insertKey, e, look, h]
    · simp only [insertKey, e, if_false, look, ih]

theorem del_not_mem (n : Nat) (t : List (Nat × α)) : ∀ c ∈ del? n t, c.1 ≠ n := by
  intro c hc; simpa [del?] using (List.mem_filter.mp hc).2

variable [DecidableEq α]

@[simp] theorem look_put_self (d : α) (n : Nat) (v : α) (t : List (Nat × α)) : look d (put d n v t) n = v := by
  unfold put
  split
  · rename_i h; rw [look_del_self, h]
  · exact look_insert_self d n v _ (del_not_mem n t)

theorem look_put_ne (d : α) {n m : Nat} (v : α) (t : List (Nat × α)) (h : m ≠ n) : look d (put d n v t) m = look d t m := by
  unfold put
  split
  · exact look_del_ne d t h
  · rw [put?, look_insert_ne d v _ h, look_del_ne d t h]

theorem look_put (d : α) (n m : Nat) (v : α) (t : List (Nat × α)) :
    look d (put d n v t) m = if m = n then v else look d t m := by
  split
  · rename_i h; rw [h, look_put_self]
  · rename_i h; exact look_put_ne d v t h

omit [DecidableEq α] in
theorem look?_eq (t : List (Nat × α)) (n : Nat) : look? t n = look none (t.map fun c => (c.1, some c.2)) n := by
  induction t with
  | nil => rfl
  | cons c t ih =>
    obtain ⟨k, u⟩ := c
    by_cases h : n = k <;> simp [look?, look, h, ih]

omit [DecidableEq α] in
theorem map_del (n : Nat) (t : List (Nat × α)) : (del? n t).map (fun c => (c.1, some c.2)) = del? n (t.map fun c => (c.1, some c.2)) := by
  simp [del?, List.filter_map, Function.comp_def]
omit [DecidableEq α] in
theorem map_insert (n : Nat) (v : α) (t : List (Nat × α)) :
    (insertKey n v t).map (fun c => (c.1, some c.2)) = insertKey n (some v) (t.map fun c => (c.1, some c.2)) := by
  induction t with
  | nil => rfl
  | cons c t ih =>
    obtain ⟨k, u⟩ := c
    by_cases e : n < k <;> simp [insertKey, e, ih]

omit [DecidableEq α] in
@[simp] theorem look?_put?_self (n : Nat) (v : α) (t : List (Nat × α)) : look? (put? n v t) n = some v := by
  rw [look?_eq, put?, map_insert, map_del]
  exact look_insert_self none n (some v) _ (del_not_mem n _)
omit [DecidableEq α] in
theorem look?_put?_ne {n m : Nat} (v : α) (t : List (Nat × α)) (h : m ≠ n) : look? (put? n v t) m = look? t m := by
  rw [look?_eq, look?_eq, put?, map_insert, map_del, look_insert_ne none _ _ h, look_del_ne none _ h]
omit [DecidableEq α] in
@[simp] theorem look?_del_self (n : Nat) (t : List (Nat × α)) : look? (del? n t) n = none := by
  rw [look?_eq, map_del, look_del_self]
omit [DecidableEq α] in
theorem look?_del_ne {n m : Nat} (t : List (Nat × α)) (h : m ≠ n) : look? (del? n t) m = look? t m := by
  rw [look?_eq, look?_eq, map_del, look_del_ne none _ h]

/-- Bytes written are read back; every other byte keeps its value. -/
theorem look_putN (a : Nat) (bs : List Byte) (t : List Host.Cell) (k : Nat) :
    look 0 (putN a bs t) k = if a ≤ k ∧ k < a + bs.length then bs.getD (k - a) 0 else look 0 t k := by
  induction bs generalizing a t with
  | nil => simp only [putN, List.length_nil, Nat.add_zero]; rw [if_neg (by omega)]
  | cons b bs ih =>
    rw [putN, ih]
    by_cases h : a + 1 ≤ k ∧ k < a + 1 + bs.length
    · have h' : a ≤ k ∧ k < a + (b :: bs).length := by simp; omega
      have e : k - a = (k - (a + 1)) + 1 := by omega
      rw [if_pos h, if_pos h', e]; rfl
    · rw [if_neg h, look_put]
      by_cases e : k = a
      · subst e; simp
      · rw [if_neg e, if_neg]; simp only [List.length_cons]; omega

/-! ## The canonical form -/

omit [DecidableEq α] in
theorem rising_mono {lo lo' : Nat} {t : List (Nat × α)} (h : rising lo t = true) (hl : lo' ≤ lo) : rising lo' t = true := by
  cases t with
  | nil => rfl
  | cons c t => simp only [rising, Bool.and_eq_true, decide_eq_true_eq] at *; exact ⟨by omega, h.2⟩

theorem wfFrom_rising {d : α} {lo : Nat} {t : List (Nat × α)} : wfFrom d lo t = true ↔ rising lo t = true ∧ ∀ c ∈ t, c.2 ≠ d := by
  induction t generalizing lo with
  | nil => simp [wfFrom, rising]
  | cons c t ih =>
    obtain ⟨k, v⟩ := c
    simp only [wfFrom, rising, Bool.and_eq_true, decide_eq_true_eq, ih, List.mem_cons, forall_eq_or_imp]
    tauto

theorem wf_iff {d : α} {t : List (Nat × α)} : wf d t = true ↔ rising 0 t = true ∧ ∀ c ∈ t, c.2 ≠ d := wfFrom_rising

omit [DecidableEq α] in
theorem rising_filter {lo : Nat} {t : List (Nat × α)} (p : Nat × α → Bool) (h : rising lo t = true) : rising lo (t.filter p) = true := by
  induction t generalizing lo with
  | nil => rfl
  | cons c t ih =>
    obtain ⟨k, v⟩ := c
    simp only [rising, Bool.and_eq_true, decide_eq_true_eq] at h
    by_cases e : p (k, v) = true
    · rw [List.filter_cons_of_pos e]; simp [rising, h.1, ih h.2]
    · rw [List.filter_cons_of_neg e]; exact rising_mono (ih h.2) (by omega)

omit [DecidableEq α] in
theorem rising_insert {lo n : Nat} {v : α} {t : List (Nat × α)} (h : rising lo t = true) (hn : ∀ c ∈ t, c.1 ≠ n) (hl : lo ≤ n) :
    rising lo (insertKey n v t) = true := by
  induction t generalizing lo with
  | nil => simp [insertKey, rising, hl]
  | cons c t ih =>
    obtain ⟨k, u⟩ := c
    simp only [rising, Bool.and_eq_true, decide_eq_true_eq] at h
    have hk : k ≠ n := hn (k, u) (by simp)
    by_cases e : n < k
    · simp only [insertKey, e, if_true, rising, Bool.and_eq_true, decide_eq_true_eq]; exact ⟨hl, by omega, h.2⟩
    · simp only [insertKey, e, if_false, rising, Bool.and_eq_true, decide_eq_true_eq]
      exact ⟨h.1, ih h.2 (fun c hc => hn c (by simp [hc])) (by omega)⟩

omit [DecidableEq α] in
theorem mem_insert {n : Nat} {v : α} {t : List (Nat × α)} {c : Nat × α} (h : c ∈ insertKey n v t) : c = (n, v) ∨ c ∈ t := by
  induction t with
  | nil => simpa [insertKey] using h
  | cons b t ih =>
    obtain ⟨k, u⟩ := b
    by_cases e : n < k
    · simpa [insertKey, e] using h
    · simp only [insertKey, e, if_false, List.mem_cons] at h ⊢
      rcases h with h | h
      · exact .inr (.inl h)
      · rcases ih h with h | h
        · exact .inl h
        · exact .inr (.inr h)

omit [DecidableEq α] in
theorem rising_put? {lo n : Nat} {v : α} {t : List (Nat × α)} (h : rising lo t = true) (hl : lo ≤ n) : rising lo (put? n v t) = true :=
  rising_insert (rising_filter _ h) (del_not_mem n t) hl
omit [DecidableEq α] in
theorem rising_del {lo n : Nat} {t : List (Nat × α)} (h : rising lo t = true) : rising lo (del? n t) = true := rising_filter _ h

/-- A filter of a canonical table is canonical. -/
theorem wf_filter {d : α} {t : List (Nat × α)} (p : Nat × α → Bool) (h : wf d t = true) : wf d (t.filter p) = true := by
  rw [wf_iff] at *
  exact ⟨rising_filter p h.1, fun c hc => h.2 c (List.mem_of_mem_filter hc)⟩

/-- A write keeps the canonical form. -/
theorem wf_put {d : α} {n : Nat} {v : α} {t : List (Nat × α)} (h : wf d t = true) : wf d (put d n v t) = true := by
  unfold put
  split
  · exact wf_filter _ h
  · rename_i hv
    rw [wf_iff] at *
    refine ⟨rising_put? h.1 (Nat.zero_le n), fun c hc => ?_⟩
    rcases mem_insert hc with e | e
    · rw [e]; exact hv
    · exact h.2 c (List.mem_of_mem_filter e)

theorem wf_putN {a : Nat} {bs : List Byte} {t : List Host.Cell} (h : wf 0 t = true) : wf 0 (putN a bs t) = true := by
  induction bs generalizing a t with
  | nil => exact h
  | cons b bs ih => exact ih (wf_put h)

/-! ## Bytes -/

theorem leBytes_length (n v : Nat) : (leBytes n v).length = n := by
  induction n generalizing v with
  | zero => rfl
  | succ n ih => simp [leBytes, ih]

theorem leNat_lt (bs : List Byte) : leNat bs < 256 ^ bs.length := by
  induction bs with
  | nil => simp [leNat]
  | cons b bs ih =>
    have hb : b.toNat < 256 := b.isLt
    simp only [leNat, List.length_cons, pow_succ]; omega

theorem leNat_leBytes (n v : Nat) : leNat (leBytes n v) = v % 256 ^ n := by
  induction n generalizing v with
  | zero => simp [leNat, leBytes, Nat.mod_one]
  | succ n ih =>
    have e : v % 256 ^ (n + 1) = v % 256 + 256 * (v / 256 % 256 ^ n) := by rw [pow_succ', Nat.mod_mul]
    simp only [leBytes, leNat, ih, BitVec.toNat_ofNat, e]

theorem leBytes_leNat (bs : List Byte) : leBytes bs.length (leNat bs) = bs := by
  induction bs with
  | nil => rfl
  | cons b bs ih =>
    have hb : b.toNat < 256 := b.isLt
    simp only [List.length_cons, leBytes, leNat]
    have e : (b.toNat + 256 * leNat bs) / 256 = leNat bs := by omega
    rw [e, ih]
    congr 1
    apply BitVec.eq_of_toNat_eq
    simp only [BitVec.toNat_ofNat]; omega

end Sys2Proof.Machine
end

