-- ==== Sys2Proof/Laws/Lanes.lean ====
section
/-! SUPPORT. What the general forms of the vector instructions do to the elements of the registers they write. -/

namespace Sys2Proof.Machine
open Sys2Proof.Safety

theorem bits_testBit (v lo n i : Nat) : (bits v lo n).testBit i = (decide (i < n) && v.testBit (lo + i)) := by
  simp [bits, Nat.testBit_mod_two_pow, Nat.testBit_shiftRight]

theorem packElems_testBit (w : Nat) (hw : 0 < w) : ∀ (l : List Nat) (j i : Nat), i < w →
    (packElems w l).testBit (w * j + i) = (l.getD j 0).testBit i
  | [], j, i, _ => by simp [packElems]
  | v :: l, 0, i, h => by
    simp only [packElems, Nat.mul_zero, Nat.zero_add, List.getD_cons_zero]
    rw [Nat.add_comm, Nat.testBit_two_pow_mul_add _ (Nat.mod_lt _ (Nat.two_pow_pos w))]
    simp [h, Nat.testBit_mod_two_pow]
  | v :: l, j + 1, i, h => by
    simp only [packElems, List.getD_cons_succ]
    rw [Nat.add_comm, Nat.testBit_two_pow_mul_add _ (Nat.mod_lt _ (Nat.two_pow_pos w))]
    have h1 : ¬ (w * (j + 1) + i < w) := by rw [Nat.mul_add]; omega
    have h2 : w * (j + 1) + i - w = w * j + i := by rw [Nat.mul_add]; omega
    simp only [h1, if_false, h2]
    exact packElems_testBit w hw l j i h

/-- An element of a row packed from elements. -/
theorem elemAt_pack (w : Nat) (hw : 0 < w) (l : List Nat) (j : Nat) (h : w * j + w ≤ 1024) :
    elemAt (BitVec.ofNat 1024 (packElems w l)) w j = l.getD j 0 % 2 ^ w := by
  apply Nat.eq_of_testBit_eq; intro i
  rw [elemAt, bits_testBit, Nat.testBit_mod_two_pow]
  by_cases hi : i < w
  · have : w * j + i < 1024 := by omega
    rw [BitVec.toNat_ofNat, Nat.testBit_mod_two_pow, packElems_testBit w hw l j i hi]
    simp [this]
  · simp [hi]

theorem leNat_testBit : ∀ (l : List Byte) (k i : Nat), i < 8 → (leNat l).testBit (8 * k + i) = (l.getD k 0).getLsbD i
  | [], k, i, _ => by simp [leNat]
  | b :: l, 0, i, h => by
    simp only [leNat]
    rw [Nat.add_comm, show (256 : Nat) = 2 ^ 8 from rfl, Nat.testBit_two_pow_mul_add _ b.isLt]
    simp [h, BitVec.getLsbD]
  | b :: l, k + 1, i, h => by
    simp only [leNat]
    rw [Nat.add_comm, show (256 : Nat) = 2 ^ 8 from rfl, Nat.testBit_two_pow_mul_add _ b.isLt]
    have h1 : ¬ (8 * (k + 1) + i < 8) := by omega
    have h2 : 8 * (k + 1) + i - 8 = 8 * k + i := by omega
    simp only [h1, if_false, h2, List.getD_cons_succ]
    exact leNat_testBit l k i h

/-- The bits of a byte mask. -/
theorem byteMask_getLsbD (mask : PRow) (n : Nat) (h : n < 1024) :
    (BitVec.ofNat 1024 (leNat ((List.range 128).map fun i => if mask.getLsbD i then (0xFF : Byte) else 0))).getLsbD n = mask.getLsbD (n / 8) := by
  have e : n = 8 * (n / 8) + n % 8 := by omega
  rw [BitVec.getLsbD_ofNat]
  rw [show (leNat ((List.range 128).map fun i => if mask.getLsbD i then (0xFF : Byte) else 0)).testBit n =
    (leNat ((List.range 128).map fun i => if mask.getLsbD i then (0xFF : Byte) else 0)).testBit (8 * (n / 8) + n % 8) from by rw [← e]]
  rw [leNat_testBit _ _ _ (by omega)]
  have : n / 8 < 128 := by omega
  simp [h, List.getD, this]
  have h8 : n % 8 < 8 := by omega
  generalize n % 8 = i at h8
  by_cases hb : mask[n / 8] = true
  · simp only [hb, if_true]; interval_cases i <;> rfl
  · simp only [hb]; interval_cases i <;> rfl

/-- The byte mask that active elements make. -/
theorem actMask_getLsbD (w n : Nat) (act : Nat → Bool) (k : Nat) (hk : k < 128) :
    ((List.range n).foldl (fun (m : PRow) j =>
      if act j then m ||| (BitVec.ofNat 128 (2 ^ (max 1 (w / 8)) - 1) <<< (j * w / 8)) else m) 0).getLsbD k =
    (List.range n).any fun j => act j && decide (j * w / 8 ≤ k) && decide (k < j * w / 8 + max 1 (w / 8)) := by
  suffices H : ∀ (l : List Nat) (m : PRow), (l.foldl (fun (m : PRow) j =>
      if act j then m ||| (BitVec.ofNat 128 (2 ^ (max 1 (w / 8)) - 1) <<< (j * w / 8)) else m) m).getLsbD k =
      (m.getLsbD k || l.any fun j => act j && decide (j * w / 8 ≤ k) && decide (k < j * w / 8 + max 1 (w / 8))) by
    rw [H]; simp
  intro l
  induction l with
  | nil => simp
  | cons j l ih =>
    intro m
    rw [List.foldl_cons, ih, List.any_cons]
    by_cases ha : act j
    · simp only [ha, if_true, BitVec.getLsbD_or, BitVec.getLsbD_shiftLeft, BitVec.getLsbD_ofNat, Nat.testBit_two_pow_sub_one, Bool.true_and, Bool.or_assoc]
      congr 1
      congr 1
      by_cases h1 : j * w / 8 ≤ k
      · have : ¬ k < j * w / 8 := by omega
        have h2 : k - j * w / 8 < 128 := by omega
        have h3 : (k - j * w / 8 < max 1 (w / 8)) ↔ (k < j * w / 8 + max 1 (w / 8)) := by omega
        simp only [hk, this, h1, h2, h3, decide_true, decide_false, Bool.not_false, Bool.true_and, Bool.and_true]
      · have : k < j * w / 8 := by omega
        simp [this, h1]
    · simp [ha]


/-- Widths of elements, each a whole number of which fills a register. -/
def laneWidth (w : Nat) : Prop := w = 4 ∨ w = 8 ∨ w = 16 ∨ w = 32 ∨ w = 64

theorem actMask_at (w : Nat) (hw : laneWidth w) (act : Nat → Bool) (hact : ∀ i j, i * w / 8 = j * w / 8 → act i = act j)
    (j i : Nat) (hi : i < w) (hj : j < eCount w) :
    ((List.range (eCount w)).foldl (fun (m : PRow) j =>
      if act j then m ||| (BitVec.ofNat 128 (2 ^ (max 1 (w / 8)) - 1) <<< (j * w / 8)) else m) 0).getLsbD ((w * j + i) / 8) = act j := by
  have hk : (w * j + i) / 8 < 128 := by
    rcases hw with h | h | h | h | h <;> subst h <;> simp [eCount] at hj <;> omega
  rw [actMask_getLsbD _ _ _ _ hk, Bool.eq_iff_iff, List.any_eq_true]
  constructor
  · rintro ⟨m, hm, h⟩
    simp only [Bool.and_eq_true, decide_eq_true_eq] at h
    rw [← hact m j ?_]
    · exact h.1.1
    · rcases hw with h' | h' | h' | h' | h' <;> subst h' <;> simp [eCount] at hm <;> omega
  · intro h
    refine ⟨j, by simpa using hj, ?_⟩
    simp only [h, Bool.true_and, Bool.and_eq_true, decide_eq_true_eq]
    rcases hw with h' | h' | h' | h' | h' <;> subst h' <;> omega

/-- Elements of a register after the bytes of the active elements have been replaced. -/
theorem elemAt_write (w : Nat) (hw : laneWidth w) (act : Nat → Bool) (hact : ∀ i j, i * w / 8 = j * w / 8 → act i = act j)
    (v old : ERow) (j : Nat) (hj : j < eCount w) :
    let mask : PRow := (List.range (eCount w)).foldl (fun (m : PRow) j =>
      if act j then m ||| (BitVec.ofNat 128 (2 ^ (max 1 (w / 8)) - 1) <<< (j * w / 8)) else m) 0
    let m : ERow := BitVec.ofNat 1024 (leNat ((List.range 128).map fun i => if mask.getLsbD i then (0xFF : Byte) else 0))
    elemAt ((v &&& m) ||| (old &&& ~~~m)) w j = if act j then elemAt v w j else elemAt old w j := by
  intro mask m
  apply Nat.eq_of_testBit_eq; intro i
  rw [elemAt, bits_testBit]
  by_cases hi : i < w
  · have hn : w * j + i < 1024 := by
      rcases hw with h | h | h | h | h <;> subst h <;> simp [eCount] at hj <;> omega
    have hm : m.getLsbD (w * j + i) = act j := by
      rw [show m.getLsbD (w * j + i) = mask.getLsbD ((w * j + i) / 8) from byteMask_getLsbD mask _ hn]
      exact actMask_at w hw act hact j i hi hj
    have : ((v &&& m) ||| (old &&& ~~~m)).toNat.testBit (w * j + i) = ((v &&& m) ||| (old &&& ~~~m)).getLsbD (w * j + i) := rfl
    rw [this]
    simp only [BitVec.getLsbD_or, BitVec.getLsbD_and, BitVec.getLsbD_not, hm, hi, hn, decide_true, Bool.true_and]
    cases act j <;> simp [elemAt, bits_testBit, hi, BitVec.getLsbD]
  · cases act j <;> simp [elemAt, bits_testBit, hi]

theorem vget_vset_self {α : Type} {n : Nat} [Inhabited α] (v : Vector α n) (i : Nat) (a : α) (h : i < n) : vget (vset v i a) i = a := by
  simp [vget, vset, h]
theorem vget_vset_ne {α : Type} {n : Nat} [Inhabited α] (v : Vector α n) (i j : Nat) (a : α) (h : i ≠ j) : vget (vset v i a) j = vget v j := by
  unfold vget vset
  by_cases h1 : i < n <;> by_cases h2 : j < n <;> simp [h1, h2]
  rw [Vector.getElem_set_ne _ _ h]

/-- What writing a register that no stream is bound to does. -/
theorem writeElems_free (s : State) (d w : Nat) (act mp : Nat → Bool) (l : List EElem) (hw : laneWidth w)
    (hact : ∀ i j, i * w / 8 = j * w / 8 → act i = act j) (hl : l.length = eCount w) (hb : s.boundTo d = none) :
    ∃ r q, s.writeElems d w act mp l = .ok (s.modAct fun a => { a with e := vset a.e d r, ep := vset a.ep d q }) ∧
      ∀ j < eCount w, elemAt r w j = if act j then (l.map (·.v)).getD j 0 % 2 ^ w else elemAt (vget s.act.e d) w j := by
  unfold State.writeElems State.writeRow
  rw [hb]
  refine ⟨_, _, rfl, ?_⟩
  intro j hj
  have h1 := elemAt_write w hw act hact (BitVec.ofNat 1024 (packElems w (l.map (·.v)))) (vget s.act.e d) j hj
  have h0 : 0 < w ∧ w * j + w ≤ 1024 := by
    rcases hw with h | h | h | h | h <;> subst h <;> simp [eCount] at hj <;> omega
  rw [elemAt_pack w h0.1 _ _ h0.2] at h1
  exact h1


theorem mem_insertNat (n m : Nat) : ∀ l : List Nat, m ∈ insertNat n l ↔ m = n ∨ m ∈ l
  | [] => by simp [insertNat]
  | k :: t => by
    unfold insertNat
    split
    · simp
    · split
      · subst_vars; simp
      · simp [mem_insertNat n m t]; tauto

theorem mem_sources (m : Nat) : ∀ l : List Nat, m ∈ l.foldr insertNat [] ↔ m ∈ l
  | [] => by simp
  | k :: t => by simp [mem_insertNat, mem_sources m t]

theorem popAll_free (s : State) : ∀ l : List Nat, (∀ r ∈ l, s.boundTo r = none) →
    State.popAll l s = .ok (l.map fun r => (r, vget s.act.e r, vget s.act.ep r), s)
  | [], _ => rfl
  | r :: l, h => by
    have h1 := h r (by simp)
    have h2 := popAll_free s l fun x hx => h x (by simp [hx])
    simp only [State.popAll, h1]
    show (do let (rest, s) ← State.popAll l s; Except.ok _) = _
    rw [h2]; rfl

/-- The sources of an instruction on registers bound to no stream. -/
theorem sources_free (s : State) (srcs dsts : List Nat) (h : ∀ r ∈ srcs ++ dsts, s.boundTo r = none) :
    s.sources srcs dsts = .ok ((srcs.foldr insertNat []).map fun r => (r, vget s.act.e r, vget s.act.ep r), s) := by
  unfold State.sources State.checkBound
  have h1 : (srcs.all fun r => (s.boundTo r).all fun t => !t.2.write) = true := by
    rw [List.all_eq_true]; intro r hr; rw [h r (by simp [hr])]; rfl
  have h2 : (dsts.all fun r => (s.boundTo r).all fun t => t.2.write) = true := by
    rw [List.all_eq_true]; intro r hr; rw [h r (by simp [hr])]; rfl
  rw [h1, h2]
  show State.popAll _ s = _
  exact popAll_free s _ fun r hr => h r (by simp [(mem_sources r srcs).1 hr])

theorem find_map_key {β : Type} (f : Nat → β) (r : Nat) : ∀ l : List Nat, r ∈ l → (l.map fun x => (x, f x)).find? (fun t => t.1 == r) = some (r, f r)
  | x :: l, h => by
    by_cases e : x = r
    · simp [e]
    · have : r ∈ l := by simpa [Ne.symm e] using h
      simp [e, find_map_key f r l this]

/-- What a source on a free register held. -/
theorem valueOf_free (s : State) (srcs : List Nat) (r : Nat) (h : r ∈ srcs) :
    valueOf ((srcs.foldr insertNat []).map fun r => (r, vget s.act.e r, vget s.act.ep r)) r = vget s.act.e r := by
  unfold valueOf
  rw [find_map_key (fun r => (vget s.act.e r, vget s.act.ep r)) r _ ((mem_sources r srcs).2 h)]; rfl

theorem elemFlags_getLsbD (act : Nat → Bool) (l : List EElem) (k : Nat) :
    (elemFlags act l).getLsbD k = (List.range l.length).any fun j => act j && (l.getD j default).f.getLsbD k := by
  unfold elemFlags
  suffices H : ∀ (l : List EElem) (n : Nat) (f : Flags), ((l.zipIdx n).foldl (fun f e => if act e.2 then f ||| e.1.f else f) f).getLsbD k =
      (f.getLsbD k || (List.range l.length).any fun j => act (n + j) && (l.getD j default).f.getLsbD k) by
    have := H l 0 0; simpa using this
  intro l
  induction l with
  | nil => simp
  | cons e l ih =>
    intro n f
    rw [List.zipIdx_cons, List.foldl_cons, ih, List.length_cons, List.range_succ_eq_map, List.any_cons, List.any_map]
    have : ((fun j => act (n + j) && ((e :: l).getD j default).f.getLsbD k) ∘ Nat.succ) = fun j => act (n + 1 + j) && (l.getD j default).f.getLsbD k := by
      funext j; simp [Nat.add_assoc, Nat.add_comm 1]
    rw [this, ← Bool.or_assoc]
    congr 1
    by_cases h : act n <;> simp [h]


/-- What the sources of an instruction on free registers hold. -/
def heldBy (s : State) (srcs : List Nat) : List (Nat × ERow × BitVec 32) :=
  (srcs.foldr insertNat []).map fun r => (r, vget s.act.e r, vget s.act.ep r)

/-- A state after a vector instruction: one register written, flags set, and draws taken. -/
def laned (s : State) (d : Nat) (r : ERow) (q : BitVec 32) (g : Flags) (n : Nat) : State :=
  { s with act := { s.act with
      e := vset s.act.e d r, ep := vset s.act.ep d q, fflags := s.act.fflags ||| g, eflags := s.act.eflags ||| g
      srctr := s.act.srctr + BitVec.ofNat 64 n } }

/-- The general form on free registers, with one destination. -/
theorem vectorOp_one (s : State) (srcs : List Nat) (d w mode draws : Nat) (act mp : Act → Nat → Nat → Bool)
    (res : Act → List (Nat × ERow × BitVec 32) → (Nat → Nat) → Nat → List EElem)
    (hfree : ∀ r ∈ srcs ++ [d], s.boundTo r = none) (hw : laneWidth w)
    (hact : ∀ i j, i * w / 8 = j * w / 8 → act s.act 0 i = act s.act 0 j)
    (hlen : (res s.act (heldBy s srcs) s.nextDraw 0).length = eCount w) :
    ∃ r q, vectorOp s srcs [d] w mode draws act mp res =
        .ok (laned s d r q (elemFlags (act s.act 0) (res s.act (heldBy s srcs) s.nextDraw 0)) (if mode = 4 then draws else 0)) ∧
      ∀ j < eCount w, elemAt r w j = if act s.act 0 j then
        ((res s.act (heldBy s srcs) s.nextDraw 0).map (·.v)).getD j 0 % 2 ^ w else elemAt (vget s.act.e d) w j := by
  obtain ⟨r, q, h1, h2⟩ := writeElems_free s d w (act s.act 0) (mp s.act 0) (res s.act (heldBy s srcs) s.nextDraw 0) hw hact hlen
    (hfree d (by simp))
  refine ⟨r, q, ?_, h2⟩
  unfold vectorOp
  rw [sources_free s srcs [d] hfree]
  have h3 : (do
      let t ← State.writeElems s d w (act s.act 0) (mp s.act 0) (res s.act (heldBy s srcs) s.nextDraw 0)
      Except.ok ((t.drawn mode draws).setEFlags (elemFlags (act s.act 0) (res s.act (heldBy s srcs) s.nextDraw 0)) : State) : Chk State) =
      .ok (laned s d r q (elemFlags (act s.act 0) (res s.act (heldBy s srcs) s.nextDraw 0)) (if mode = 4 then draws else 0)) := by
    rw [h1]
    simp only [bind, Except.bind, laned, State.drawn, State.setEFlags, State.modAct]
    by_cases hm : mode = 4 <;> simp [hm]
  rw [← h3]
  simp only [bind, Except.bind, List.zipIdx, List.map, List.foldlM, pure, Except.pure, List.foldl, heldBy]
  rw [show (fun k => s.nextDraw k) = s.nextDraw from rfl]
  generalize State.writeElems s d w (act s.act 0) (mp s.act 0)
    (res s.act (List.map (fun r => (r, vget s.act.e r, vget s.act.ep r)) (List.foldr insertNat [] srcs)) s.nextDraw 0) = x
  cases x <;> simp

theorem active_spread (a : Act) (p : BitVec 1) (w i j : Nat) (h : i * w / 8 = j * w / 8) : a.active p w i = a.active p w j := by
  simp [Act.active, h]

theorem getD_map_range {α : Type} (f : Nat → α) (n j : Nat) (d : α) (h : j < n) : ((List.range n).map f).getD j d = f j := by
  simp [h]

/-- An E-stream instruction that the idle E-stream executes. -/
theorem estream_idle (i : Instr) (len : Nat) (f : State → Chk State) (s t : State) (h : s.act.eseq.idle = true) (hf : f s = .ok t) :
    estream i len f s = .ok (t.advance len) := by
  simp [estream, h, hf]

/-- A vector instruction with one destination register, from its general form. -/
theorem laneForm_of {i i' : Instr} (s : State) (len : Nat) (srcs : List Nat) (d : BitVec 5) (w mode draws : Nat)
    (act mp : Act → Nat → Nat → Bool) (res : Act → List (Nat × ERow × BitVec 32) → (Nat → Nat) → Nat → List EElem)
    (g : State → Chk State) (f : Nat → Nat × Flags) (l : List EElem)
    (hi : exec i s = run s (estream i' len g s)) (hg : g s = vectorOp s srcs [d.toNat] w mode draws act mp res)
    (hl : s.act.live = true) (hs : s.act.eseq.idle = true)
    (hfree : ∀ r ∈ srcs ++ [d.toNat], s.boundTo r = none) (hw : laneWidth w)
    (hact : ∀ i j, i * w / 8 = j * w / 8 → act s.act 0 i = act s.act 0 j)
    (e1 : res s.act (heldBy s srcs) s.nextDraw 0 = l) (e2 : l.length = eCount w)
    (e3 : ∀ j < eCount w, (l.getD j default).v = (f j).1 ∧ (l.getD j default).f = (f j).2) :
    LaneForm i s len d w (act s.act 0) (if mode = 4 then draws else 0) f := by
  obtain ⟨r, q, h1, h2⟩ := vectorOp_one s srcs d.toNat w mode draws act mp res hfree hw hact (by rw [e1, e2])
  rw [e1] at h1 h2
  have hv : ∀ j < eCount w, (l.map (·.v)).getD j 0 = (f j).1 := by
    intro j hj
    rw [← (e3 j hj).1]; simp [e2, hj]
  have hf : ∀ k, (elemFlags (act s.act 0) l).getLsbD k = (List.range (eCount w)).any fun j => act s.act 0 j && ((f j).2).getLsbD k := by
    intro k
    rw [elemFlags_getLsbD, e2]
    apply Bool.eq_iff_iff.2
    simp only [List.any_eq_true, List.mem_range]
    constructor <;> rintro ⟨j, hj, h⟩ <;> refine ⟨j, hj, ?_⟩
    · rwa [← (e3 j hj).2]
    · rwa [(e3 j hj).2]
  have hx : exec i s = .next ((laned s d.toNat r q (elemFlags (act s.act 0) l) (if mode = 4 then draws else 0)).advance len) := by
    rw [hi, estream_idle i' len g s _ hs (hg.trans h1)]; simp [run, hl]
  refine ⟨_, hx, rfl, ?_, ?_, ?_⟩
  · intro j hj
    show elemAt (vget (vset s.act.e d.toNat r) d.toNat) w j = _
    rw [vget_vset_self _ _ _ d.isLt, h2 j hj, hv j hj]; rfl
  · intro x hx
    have : d.toNat ≠ x.toNat := fun h => hx (BitVec.eq_of_toNat_eq h).symm
    exact ⟨vget_vset_ne _ _ _ _ this, vget_vset_ne _ _ _ _ this⟩
  · intro k
    exact ⟨by show (_ ||| _ : Flags).getLsbD k = _; rw [BitVec.getLsbD_or, hf],
      by show (_ ||| _ : Flags).getLsbD k = _; rw [BitVec.getLsbD_or, hf]⟩


/-- An instruction each of whose elements comes from the elements at its own place. -/
theorem lanewise_form {i i' : Instr} (s : State) (len : Nat) (w : Nat) (p : BitVec 1) (mode draws : Nat) (srcs : List (BitVec 5)) (d : BitVec 5)
    (f : Nat → List Nat → Nat → Nat × Flags) (g : State → Chk State)
    (hi : exec i s = run s (estream i' len g s)) (hg : g s = lanewise w p mode draws srcs d f s)
    (hl : s.act.live = true) (hs : s.act.eseq.idle = true) (hfree : ∀ r ∈ srcs ++ [d], s.boundTo r.toNat = none) (hw : laneWidth w) :
    LaneForm i s len d w (s.act.active p w) (if mode = 4 then draws else 0)
      fun j => f j (srcs.map fun r => elem s r w j) (s.nextDraw j) := by
  refine laneForm_of s len (srcs.map (·.toNat)) d w mode draws (fun a _ j => a.active p w j) (fun a _ j => a.maskPoison p w j) _ g _ _
    hi (hg.trans rfl) hl hs ?_ hw (fun i j h => active_spread _ _ _ _ _ h) rfl (by simp) ?_
  · intro r hr
    simp only [List.mem_append, List.mem_map, List.mem_singleton] at hr
    rcases hr with ⟨x, hx, rfl⟩ | rfl
    · exact hfree x (by simp [hx])
    · exact hfree d (by simp)
  · intro j hj
    simp only [getD_map_range _ _ _ _ hj]
    have : (srcs.map fun r => elemAt (valueOf (heldBy s (srcs.map (·.toNat))) r.toNat) w j) = srcs.map fun r => elem s r w j := by
      apply List.map_congr_left; intro r hr
      rw [show valueOf (heldBy s (srcs.map (·.toNat))) r.toNat = _ from valueOf_free s _ _ (List.mem_map_of_mem hr)]; rfl
    rw [this]; exact ⟨rfl, rfl⟩


/-- A floating form of vectors: exact results rounded once. -/
theorem vfp_form {i i' : Instr} (s : State) (len : Nat) (t : BitVec 4) (p : BitVec 1) (mode : Nat) (srcs : List (BitVec 5)) (d : BitVec 5)
    (f : Bool → List FV → List Nat → FV × Flags) (hi : exec i s = run s (estream i' len (vfp t p srcs d f) s)) (hm : s.act.eMode 7 = .ok mode)
    (hl : s.act.live = true) (hs : s.act.eseq.idle = true) (hfree : ∀ r ∈ srcs ++ [d], s.boundTo r.toNat = none)
    (hw : laneWidth (vecFmt t).width) :
    LaneForm i s len d (vecFmt t).width (s.act.active p (vecFmt t).width) (if mode = 4 then eCount (vecFmt t).width else 0) fun j =>
      let l := srcs.map fun r => elem s r (vecFmt t).width j
      let x := f (decide (mode = 3)) (l.map (vecIn (vecFmt t))) l
      let r := (vecFmt t).deliver mode ((vecFmt t).deliverAs s.act.e5inf (vecFmt t != fp32)) (s.nextDraw j) x.1
      (r.1, x.2 ||| r.2) :=
  lanewise_form s len (vecFmt t).width p mode (eCount (vecFmt t).width) srcs d (fun _ l rnd =>
    let x := f (mode == 3) (l.map (vecIn (vecFmt t))) l
    let r := (vecFmt t).deliver mode ((vecFmt t).deliverAs s.act.e5inf (vecFmt t != fp32)) rnd x.1
    (r.1, x.2 ||| r.2)) (vfp t p srcs d f) hi (by simp only [vfp, hm, bind, Except.bind]) hl hs hfree hw

/-- A form of vectors that rounds nothing. -/
theorem vraw_form {i i' : Instr} (s : State) (len : Nat) (t : BitVec 4) (p : BitVec 1) (srcs : List (BitVec 5)) (d : BitVec 5)
    (f : List Nat → Nat × Flags) (hi : exec i s = run s (estream i' len (vraw t p srcs d f) s))
    (hl : s.act.live = true) (hs : s.act.eseq.idle = true) (hfree : ∀ r ∈ srcs ++ [d], s.boundTo r.toNat = none)
    (hw : laneWidth (vecFmt t).width) :
    LaneForm i s len d (vecFmt t).width (s.act.active p (vecFmt t).width) 0 fun j => f (srcs.map fun r => elem s r (vecFmt t).width j) :=
  lanewise_form s len (vecFmt t).width p 0 0 srcs d (fun _ l _ => f l) (vraw t p srcs d f) hi rfl hl hs hfree hw

/-- An integer form of vectors. -/
theorem vint_form {i i' : Instr} (s : State) (len : Nat) (t : BitVec 4) (p : BitVec 1) (srcs : List (BitVec 5)) (d : BitVec 5)
    (f : Nat → List Nat → Int) (hi : exec i s = run s (estream i' len (vint t p srcs d f) s))
    (hl : s.act.live = true) (hs : s.act.eseq.idle = true) (hfree : ∀ r ∈ srcs ++ [d], s.boundTo r.toNat = none)
    (hw : laneWidth (intWidth t)) :
    LaneForm i s len d (intWidth t) (s.act.active p (intWidth t)) 0 fun j =>
      (wrapInt (intWidth t) (f (intWidth t) (srcs.map fun r => elem s r (intWidth t) j)), 0) :=
  lanewise_form s len (intWidth t) p 0 0 srcs d (fun _ l _ => (wrapInt (intWidth t) (f (intWidth t) l), 0)) (vint t p srcs d f) hi rfl hl hs hfree hw


/-! ## Groups of registers -/

/-- A state with other e registers. -/
def withE (s : State) (e : Vector ERow 32) (q : Vector (BitVec 32) 32) : State := { s with act := { s.act with e := e, ep := q } }
@[simp] theorem withE_boundTo (s : State) (e : Vector ERow 32) (q : Vector (BitVec 32) 32) (r : Nat) : (withE s e q).boundTo r = s.boundTo r := rfl
@[simp] theorem withE_withE (s : State) (e f : Vector ERow 32) (q h : Vector (BitVec 32) 32) : withE (withE s e q) f h = withE s f h := rfl
@[simp] theorem withE_e (s : State) (e : Vector ERow 32) (q : Vector (BitVec 32) 32) : (withE s e q).act.e = e := rfl
@[simp] theorem withE_ep (s : State) (e : Vector ERow 32) (q : Vector (BitVec 32) 32) : (withE s e q).act.ep = q := rfl

/-- Registers of a group written one after another. -/
theorem writeGroup_free (act mp : Nat → Nat → Bool) (res : Nat → List EElem) (d : Nat) (hlen : ∀ k, (res k).length = 32)
    (hact : ∀ k i j, i * 32 / 8 = j * 32 / 8 → act k i = act k j) :
    ∀ (n : Nat) (l : List Nat) (lo : Nat) (s : State), l = List.range' lo n → d + lo + n ≤ 32 → (∀ k < n, s.boundTo (d + (lo + k)) = none) →
    ∃ e q, l.foldlM (fun (t : State) k => t.writeElems (d + k) 32 (act k) (mp k) (res k)) s = (.ok (withE s e q) : Chk State) ∧
      (∀ r, ¬(d + lo ≤ r ∧ r < d + lo + n) → vget e r = vget s.act.e r ∧ vget q r = vget s.act.ep r) ∧
      ∀ k, lo ≤ k → k < lo + n → ∀ j < 32, elemAt (vget e (d + k)) 32 j =
        if act k j then ((res k).map (·.v)).getD j 0 % 2 ^ 32 else elemAt (vget s.act.e (d + k)) 32 j
  | 0, l, lo, s, hl, _, _ => ⟨s.act.e, s.act.ep, by subst hl; rfl, fun r _ => ⟨rfl, rfl⟩, fun k h1 h2 => by omega⟩
  | n + 1, l, lo, s, hl, hn, hb => by
    obtain ⟨r0, q0, h1, h2⟩ := writeElems_free s (d + lo) 32 (act lo) (mp lo) (res lo) (by simp [laneWidth]) (hact lo) (by simp [hlen, eCount])
      (hb 0 (by omega))
    obtain ⟨e, q, h3, h4, h5⟩ := writeGroup_free act mp res d hlen hact n (List.range' (lo + 1) n) (lo + 1)
      (withE s (vset s.act.e (d + lo) r0) (vset s.act.ep (d + lo) q0)) rfl (by omega)
      (fun k hk => by rw [withE_boundTo, show lo + 1 + k = lo + (k + 1) by omega]; exact hb (k + 1) (by omega))
    refine ⟨e, q, ?_, ?_, ?_⟩
    · subst hl
      rw [List.range'_succ, List.foldlM_cons]
      rw [h1]
      exact h3
    · intro r hr
      obtain ⟨h6, h7⟩ := h4 r (by omega)
      exact ⟨h6.trans (vget_vset_ne _ _ _ _ (by omega)), h7.trans (vget_vset_ne _ _ _ _ (by omega))⟩
    · intro k hk hk' j hj
      by_cases hkl : k = lo
      · subst hkl
        rw [(h4 (d + k) (by omega)).1]
        rw [withE_e, vget_vset_self _ _ _ (by omega)]
        exact h2 j (by simpa [eCount] using hj)
      · rw [h5 k (by omega) (by omega) j hj, withE_e, vget_vset_ne _ _ _ _ (by omega)]

/-- The general form on free registers, with a group of destinations written lane by lane. -/
theorem vectorOp_group (s : State) (srcs : List Nat) (d n mode draws : Nat) (act mp : Act → Nat → Nat → Bool)
    (res : Act → List (Nat × ERow × BitVec 32) → (Nat → Nat) → Nat → List EElem)
    (hfree : ∀ r ∈ srcs ++ (List.range n).map (d + ·), s.boundTo r = none) (hd : d + n ≤ 32)
    (hact : ∀ k i j, i * 32 / 8 = j * 32 / 8 → act s.act k i = act s.act k j)
    (hlen : ∀ k, (res s.act (heldBy s srcs) s.nextDraw k).length = 32) :
    ∃ e q, vectorOp s srcs ((List.range n).map (d + ·)) 32 mode draws act mp res =
        .ok { s with act := { s.act with
          e := e, ep := q
          fflags := s.act.fflags ||| (List.range n).foldl (fun f k => f ||| elemFlags (act s.act k) (res s.act (heldBy s srcs) s.nextDraw k)) 0
          eflags := s.act.eflags ||| (List.range n).foldl (fun f k => f ||| elemFlags (act s.act k) (res s.act (heldBy s srcs) s.nextDraw k)) 0
          srctr := s.act.srctr + BitVec.ofNat 64 (if mode = 4 then draws else 0) } } ∧
      (∀ r, ¬(d ≤ r ∧ r < d + n) → vget e r = vget s.act.e r ∧ vget q r = vget s.act.ep r) ∧
      ∀ k < n, ∀ j < 32, elemAt (vget e (d + k)) 32 j =
        if act s.act k j then ((res s.act (heldBy s srcs) s.nextDraw k).map (·.v)).getD j 0 % 2 ^ 32 else elemAt (vget s.act.e (d + k)) 32 j := by
  obtain ⟨e, q, h1, h2, h3⟩ := writeGroup_free (act s.act) (mp s.act) (res s.act (heldBy s srcs) s.nextDraw) d hlen hact n (List.range n) 0 s
    List.range_eq_range' (by omega) (fun k hk => hfree _ (by simp; right; exact hk))
  refine ⟨e, q, ?_, by simpa using h2, fun k hk j hj => h3 k (by omega) (by omega) j hj⟩
  have hz : ((List.range n).map (d + ·)).zipIdx.map (fun d => (d.1, d.2, res s.act (heldBy s srcs) s.nextDraw d.2)) =
      (List.range n).map fun k => (d + k, k, res s.act (heldBy s srcs) s.nextDraw k) := by
    apply List.ext_getElem
    · simp
    · intro i h4 h5; simp
  unfold vectorOp
  rw [sources_free s srcs _ hfree]
  simp only [bind, Except.bind]
  rw [show ((List.range n).map (d + ·)).zipIdx.map (fun d_1 => (d_1.1, d_1.2, res s.act
      (List.map (fun r => (r, vget s.act.e r, vget s.act.ep r)) (List.foldr insertNat [] srcs)) (fun k => s.nextDraw k) d_1.2)) = _ from hz]
  rw [List.foldlM_map, List.foldl_map]
  dsimp only
  rw [h1]
  by_cases hm : mode = 4 <;> simp [hm, withE, State.drawn, State.setEFlags, State.modAct]


theorem any_group (n : Nat) (P : Nat → Bool) :
    ((List.range n).any fun k => (List.range 32).any fun j => P (32 * k + j)) = (List.range (32 * n)).any P := by
  apply Bool.eq_iff_iff.2
  simp only [List.any_eq_true, List.mem_range]
  constructor
  · rintro ⟨k, hk, j, hj, h⟩; exact ⟨32 * k + j, by omega, h⟩
  · rintro ⟨m, hm, h⟩; exact ⟨m / 32, by omega, m % 32, by omega, by rwa [Nat.div_add_mod]⟩

theorem foldl_flags (n : Nat) (F : Nat → Flags) (b : Nat) :
    ((List.range n).foldl (fun f k => f ||| F k) 0).getLsbD b = (List.range n).any fun k => (F k).getLsbD b := by
  suffices H : ∀ (l : List Nat) (f : Flags), (l.foldl (fun f k => f ||| F k) f).getLsbD b = (f.getLsbD b || l.any fun k => (F k).getLsbD b) by
    rw [H]; simp
  intro l
  induction l with
  | nil => simp
  | cons k l ih => intro f; rw [List.foldl_cons, ih]; simp [Bool.or_assoc]

/-- A vector instruction with a group of destination registers, from its general form. -/
theorem groupForm_of {i i' : Instr} (s : State) (srcs : List Nat) (d n mode draws : Nat)
    (act mp : Act → Nat → Nat → Bool) (res : Act → List (Nat × ERow × BitVec 32) → (Nat → Nat) → Nat → List EElem)
    (g : State → Chk State) (f : Nat → Nat × Flags) (A : Nat → Bool)
    (hi : exec i s = run s (estream i' 4 g s)) (hg : g s = vectorOp s srcs ((List.range n).map (d + ·)) 32 mode draws act mp res)
    (hl : s.act.live = true) (hs : s.act.eseq.idle = true) (hd : d + n ≤ 32)
    (hfree : ∀ r ∈ srcs ++ (List.range n).map (d + ·), s.boundTo r = none)
    (hA : ∀ k j, j < 32 → act s.act k j = A (32 * k + j)) (hact : ∀ k i j, i * 32 / 8 = j * 32 / 8 → act s.act k i = act s.act k j)
    (hlen : ∀ k, (res s.act (heldBy s srcs) s.nextDraw k).length = 32)
    (hres : ∀ k j, j < 32 → ((res s.act (heldBy s srcs) s.nextDraw k).getD j default).v = (f (32 * k + j)).1 ∧
      ((res s.act (heldBy s srcs) s.nextDraw k).getD j default).f = (f (32 * k + j)).2) :
    GroupForm i s d n A (if mode = 4 then draws else 0) f := by
  obtain ⟨e, q, h1, h2, h3⟩ := vectorOp_group s srcs d n mode draws act mp res hfree hd hact hlen
  have hf : ∀ b, ((List.range n).foldl (fun f k => f ||| elemFlags (act s.act k) (res s.act (heldBy s srcs) s.nextDraw k)) 0).getLsbD b =
      (List.range (32 * n)).any fun j => A j && ((f j).2).getLsbD b := by
    intro b
    rw [foldl_flags, ← any_group]
    apply Bool.eq_iff_iff.2
    simp only [List.any_eq_true, List.mem_range, elemFlags_getLsbD, hlen]
    constructor <;> rintro ⟨k, hk, j, hj, h⟩ <;> refine ⟨k, hk, j, hj, ?_⟩
    · rwa [← hA k j hj, ← (hres k j hj).2]
    · rwa [hA k j hj, (hres k j hj).2]
  have hx := hi.trans (congrArg (run s) (estream_idle i' 4 g s _ hs (hg.trans h1)))
  have hr : ∀ t, run s (.ok t) = .next t := fun t => by simp [run, hl]
  rw [hr] at hx
  refine ⟨_, hx, rfl, ?_, h2, ?_⟩
  · intro m hm
    have h4 := h3 (m / 32) (by omega) (m % 32) (Nat.mod_lt _ (by omega))
    rw [hA _ _ (Nat.mod_lt _ (by omega)), Nat.div_add_mod] at h4
    have h5 := (hres (m / 32) (m % 32) (Nat.mod_lt _ (by omega))).1
    rw [Nat.div_add_mod] at h5
    refine Eq.trans h4 ?_
    rw [← h5]
    have : ((res s.act (heldBy s srcs) s.nextDraw (m / 32)).map (·.v)).getD (m % 32) 0 = ((res s.act (heldBy s srcs) s.nextDraw (m / 32)).getD (m % 32) default).v := by
      simp [hlen, Nat.mod_lt]
    rw [this]
  · intro b
    exact ⟨by show (_ ||| _ : Flags).getLsbD b = _; rw [BitVec.getLsbD_or, hf],
      by show (_ ||| _ : Flags).getLsbD b = _; rw [BitVec.getLsbD_or, hf]⟩

/-- A narrowing (09 R251 to R255). -/
theorem narrowing_form {i i' : Instr} (s : State) (t : BitVec 4) (p : BitVec 1) (mode draws : Nat) (a d : BitVec 5) (more : List Nat)
    (f : List (Nat × ERow × BitVec 32) → Nat → Nat → Nat → EElem) (g : State → Chk State)
    (hi : exec i s = run s (estream i' 4 g s)) (hg : g s = narrowing t p mode draws a d more f s)
    (hl : s.act.live = true) (hs : s.act.eseq.idle = true) (hw : laneWidth (typeWidth t.toNat)) (hwd : typeWidth t.toNat ≤ 32)
    (hfree : ∀ r ∈ (group a (groupOf t) ++ more) ++ [d.toNat], s.boundTo r = none) :
    LaneForm i s 4 d (typeWidth t.toNat) (s.act.active p (typeWidth t.toNat)) (if mode = 4 then draws else 0) fun m =>
      let e := f (heldBy s (group a (groupOf t) ++ more)) m (elemAt (vget s.act.e (a.toNat + m / 32)) 32 (m % 32)) (s.nextDraw m)
      (e.v, e.f) := by
  unfold narrowing at hg
  refine laneForm_of s 4 (group a (groupOf t) ++ more) d (typeWidth t.toNat) mode draws (fun x _ j => x.active p (typeWidth t.toNat) j)
    (fun x _ j => x.maskPoison p (typeWidth t.toNat) j) _ g _ _ hi hg hl hs hfree hw (fun i j h => active_spread _ _ _ _ _ h) rfl (by simp) ?_
  intro m hm
  simp only [getD_map_range _ _ _ _ hm]
  have : a.toNat + m / 32 ∈ group a (groupOf t) ++ more := by
    simp only [List.mem_append, group, List.mem_map, List.mem_range]
    left
    refine ⟨m / 32, ?_, rfl⟩
    have : eCount (typeWidth t.toNat) = 32 * groupOf t := by
      rcases hw with h | h | h | h | h <;> rw [groupOf, eCount, h] ; first | rfl | omega
    omega
  rw [show valueOf (heldBy s (group a (groupOf t) ++ more)) (a.toNat + m / 32) = _ from valueOf_free s _ _ this]
  exact ⟨rfl, rfl⟩

/-- A widening (09 R251 to R255). -/
theorem widening_form {i i' : Instr} (s : State) (t : BitVec 4) (p : BitVec 1) (mode draws : Nat) (a d : BitVec 5) (more : List Nat)
    (f : List (Nat × ERow × BitVec 32) → Nat → Nat → Nat → EElem) (g : State → Chk State)
    (hi : exec i s = run s (estream i' 4 g s)) (hg : g s = widening t p mode draws a d more f s)
    (hl : s.act.live = true) (hs : s.act.eseq.idle = true)
    (hgr : groupOk t d = true) (hfree : ∀ r ∈ (a.toNat :: more) ++ group d (groupOf t), s.boundTo r = none) :
    GroupForm i s d.toNat (groupOf t) (s.act.active p (typeWidth t.toNat)) (if mode = 4 then draws else 0) fun m =>
      let e := f (heldBy s (a.toNat :: more)) m (elem s a (typeWidth t.toNat) m) (s.nextDraw m)
      (e.v, e.f) := by
  unfold widening at hg
  refine groupForm_of s (a.toNat :: more) d.toNat (groupOf t) mode draws (fun x k j => x.active p (typeWidth t.toNat) (32 * k + j))
    (fun x k j => x.maskPoison p (typeWidth t.toNat) (32 * k + j)) _ g _ _ hi hg hl hs ?_ hfree (fun k j _ => rfl) ?_ (fun k => by simp) ?_
  · simpa [groupOk, groupOf] using hgr
  · intro k i j h
    have : i = j := by omega
    rw [this]
  · intro k j hj
    simp only [getD_map_range _ _ _ _ hj]
    rw [show valueOf (heldBy s (a.toNat :: more)) a.toNat = _ from valueOf_free s _ _ (by simp)]
    exact ⟨rfl, rfl⟩

end Sys2Proof.Machine
end

