-- ==== Sys2Proof/Laws/Memory.lean ====
section
/-! SUPPORT. Memory: its canonical form is kept by every operation that writes it, and which bytes a write leaves alone. -/

namespace Sys2Proof.Machine

open Sys2Proof.Safety

/-! ## The canonical form -/

/-- A table of each die's entries is in its form. -/
def EachRising {α : Type} [DecidableEq α] (t : List (Nat × List (Nat × α))) : Prop := wf [] t = true ∧ ∀ v ∈ t, rising 0 v.2 = true

theorem wf_memory {m : Mem} : Memory.wf m = true ↔ wf 0 m.cells = true ∧ EachRising m.views ∧ EachRising m.viewPoison := by
  simp [Memory.wf, EachRising, and_assoc]

/-- The form only concerns the cells and the views. -/
theorem wf_congr {m n : Mem} (hc : n.cells = m.cells) (hv : n.views = m.views) (hp : n.viewPoison = m.viewPoison)
    (h : Memory.wf m = true) : Memory.wf n = true := by
  rw [wf_memory] at *; rw [hc, hv, hp]; exact h

theorem wf_cells {m n : Mem} (hc : wf 0 n.cells = true) (hv : n.views = m.views) (hp : n.viewPoison = m.viewPoison)
    (h : Memory.wf m = true) : Memory.wf n = true := by
  rw [wf_memory] at *; rw [hv, hp]; exact ⟨hc, h.2⟩

theorem look_rising {α : Type} [DecidableEq α] {t : List (Nat × List (Nat × α))} (h : EachRising t) (die : Nat) :
    rising 0 (look [] t die) = true := by
  have h3 := h.2
  clear h
  induction t with
  | nil => rfl
  | cons c t ih =>
    obtain ⟨k, v⟩ := c
    unfold look
    split
    · exact h3 (k, v) (by simp)
    · exact ih fun x hx => h3 x (by simp [hx])
theorem view_rising {m : Mem} (h : Memory.wf m = true) (die : Nat) : rising 0 (m.view die) = true := look_rising (wf_memory.1 h).2.1 die
theorem marks_rising {m : Mem} (h : Memory.wf m = true) (die : Nat) : rising 0 (m.marks die) = true := look_rising (wf_memory.1 h).2.2 die

theorem mem_put {α : Type} [DecidableEq α] {d : α} {n : Nat} {v : α} {t : List (Nat × α)} {c : Nat × α} (h : c ∈ put d n v t) :
    c = (n, v) ∨ c ∈ t := by
  unfold put at h
  split at h
  · exact Or.inr (List.mem_of_mem_filter h)
  · rcases mem_insert h with h | h
    · exact Or.inl h
    · exact Or.inr (List.mem_of_mem_filter h)

theorem rising_putEach {α : Type} [DecidableEq α] {t : List (Nat × List (Nat × α))} (die : Nat) {v : List (Nat × α)}
    (hv : rising 0 v = true) (h : EachRising t) : EachRising (put [] die v t) := by
  refine ⟨wf_put h.1, fun c hc => ?_⟩
  rcases mem_put hc with rfl | hc
  · exact hv
  · exact h.2 c hc

theorem wf_setView {m : Mem} (die : Nat) {v : List Host.Cell} (hv : rising 0 v = true) (h : Memory.wf m = true) : Memory.wf (m.setView die v) = true := by
  rw [wf_memory] at *
  exact ⟨h.1, rising_putEach die hv h.2.1, h.2.2⟩
theorem wf_setMarks {m : Mem} (die : Nat) {v : List (Nat × Bool)} (hv : rising 0 v = true) (h : Memory.wf m = true) : Memory.wf (m.setMarks die v) = true := by
  rw [wf_memory] at *
  exact ⟨h.1, h.2.1, rising_putEach die hv h.2.2⟩

theorem rising_puts {α : Type} {v : List (Nat × α)} (l : List (Nat × α)) (h : rising 0 v = true) :
    rising 0 (l.foldl (fun v t => put? t.1 t.2 v) v) = true := by
  induction l generalizing v with
  | nil => exact h
  | cons t l ih => exact ih (rising_put? h (Nat.zero_le _))
theorem rising_dels {α : Type} {v : List (Nat × α)} (l : List Nat) (h : rising 0 v = true) : rising 0 (l.foldl (fun v k => del? k v) v) = true := by
  induction l generalizing v with
  | nil => exact h
  | cons t l ih => exact ih (rising_del h)

theorem wf_overlay {m : Mem} (die : Nat) (l : List (Nat × Byte)) (marks : List (Nat × Bool)) (h : Memory.wf m = true) :
    Memory.wf (m.overlay die l marks) = true :=
  wf_setMarks die (rising_puts _ (marks_rising h die)) (wf_setView die (rising_puts _ (view_rising h die)) h)

theorem wf_unview {m : Mem} (die : Nat) (ks : List Nat) (h : Memory.wf m = true) : Memory.wf (m.unview die ks) = true := by
  refine wf_setMarks die ?_ (wf_setView die (rising_dels _ (view_rising h die)) h)
  have := marks_rising h die
  generalize m.marks die = v at this
  generalize ks.map (fun k => k / unitOf k) = l
  induction l generalizing v with
  | nil => exact this
  | cons t l ih =>
    rw [List.foldl_cons]
    refine ih _ ?_
    split
    · exact rising_del this
    · exact this

theorem wf_keep {m : Mem} (a n die : Nat) (h : Memory.wf m = true) : Memory.wf (m.keep a n die) = true := wf_overlay _ _ _ h

theorem wf_unviews {m : Mem} (ks : Nat → List Nat) (h : Memory.wf m = true) :
    Memory.wf ((List.range 4).foldl (fun m d => if (m.view d).isEmpty then m else m.unview d (ks d)) m) = true := by
  generalize List.range 4 = l
  induction l generalizing m with
  | nil => exact h
  | cons d l ih =>
    rw [List.foldl_cons]
    refine ih ?_
    split
    · exact h
    · exact wf_unview d _ h

theorem wf_writeLine {m : Mem} (gen line a : Nat) (bs : List Byte) (poison : Bool) (h : Memory.wf m = true) :
    Memory.wf (m.writeLine gen line a bs poison) = true := by
  refine wf_cells (m := m) ?_ rfl rfl h
  rw [wf_memory] at h
  refine wf_putN ?_
  split
  · exact h.1
  · exact wf_putN h.1

theorem wf_writePlain {m : Mem} (a : Nat) (bs : List Byte) (poison : Bool) (h : Memory.wf m = true) :
    Memory.wf (m.writePlain a bs poison) = true :=
  wf_cells (m := m) (wf_putN (wf_memory.1 h).1) rfl rfl h

theorem wf_garbleLine (gen line : Nat) (left : LineErr) (cells : List Host.Cell) (h : wf 0 cells = true) :
    wf 0 (garbleLine gen line left cells) = true := by
  have H : ∀ (l : List Nat) (c : List Host.Cell), wf 0 c = true → wf 0 (l.foldl (fun c b => putN (line * 64 + b * 16)
      (recode gen gen (line * 64 + b * 16) ((List.range 16).map fun i => look 0 cells (line * 64 + b * 16 + i)) (blockErr left b)) c) c) = true := by
    intro l
    induction l with
    | nil => exact fun _ h => h
    | cons b l ih => exact fun c hc => ih _ (wf_putN hc)
  exact H _ _ h

/-- Poisoning what dies see changes no byte. -/
theorem spoil_same (m : Mem) (bs : List Nat) : (m.spoil bs).cells = m.cells ∧ (m.spoil bs).views = m.views ∧ (m.spoil bs).pending = m.pending := by
  unfold Mem.spoil
  dsimp only
  generalize List.range 4 = l
  induction l generalizing m with
  | nil => exact ⟨rfl, rfl, rfl⟩
  | cons d l ih => exact ih _

theorem wf_spoil {m : Mem} (bs : List Nat) (h : Memory.wf m = true) : Memory.wf (m.spoil bs) = true := by
  have R : ∀ v : List (Nat × Bool), rising 0 v = true →
      rising 0 (bs.foldl (fun v b => if (look? v b).isSome then put? b true v else v) v) = true := by
    induction bs with
    | nil => exact fun _ hv => hv
    | cons b bs ih =>
      refine fun v hv => ih _ ?_
      dsimp only
      split
      · exact rising_put? hv (Nat.zero_le _)
      · exact hv
  unfold Mem.spoil
  dsimp only
  generalize List.range 4 = l
  induction l generalizing m with
  | nil => exact h
  | cons d l ih =>
    refine ih ?_
    rw [wf_memory] at *
    exact ⟨h.1, h.2.1, rising_putEach d (R _ (look_rising h.2.2 d)) h.2.2⟩

theorem byteAt_spoil (m : Mem) (bs : List Nat) (d k : Nat) : (m.spoil bs).byteAt d k = m.byteAt d k := by
  obtain ⟨h1, h2, -⟩ := spoil_same m bs
  unfold Mem.byteAt Mem.view
  rw [h1, h2]

theorem note_mem (s : State) (n : Note) (i : Bool) : (s.note n i).mem = s.mem := by
  unfold State.note State.modPart
  dsimp only
  split
  · split
    · rfl
    · split <;> rfl
  · rfl

theorem inject_mem (s : State) (die unit index : Nat) : (s.inject die unit index).mem = s.mem := by
  unfold State.inject
  dsimp only
  split
  · rw [note_mem]
  · rfl

theorem wf_settleLine (s : State) (line : Nat) (h : Memory.wf s.mem = true) : Memory.wf (s.settleLine line).mem = true := by
  unfold State.settleLine
  split
  · exact h
  · rename_i e he
    have hg : ∀ g l left, wf 0 (garbleLine g l left s.mem.cells) = true := fun g l left => wf_garbleLine _ _ _ _ (wf_memory.1 h).1
    dsimp only
    have W : ∀ (c : Bool) (m : Mem), Memory.wf m = true → Memory.wf (if c then m.spoil [line] else m) = true := by
      intro c m hm
      split
      · exact wf_spoil _ hm
      · exact hm
    generalize decideLine (s.mem.poisonLines.contains line) e = out
    cases out with
    | clean l => exact W _ _ (wf_cells (m := s.mem) (hg _ _ _) rfl rfl h)
    | corrected q l => dsimp only; rw [note_mem]; exact W _ _ (wf_cells (m := s.mem) (hg _ _ _) rfl rfl h)
    | poisoned l => exact W _ _ (wf_cells (m := s.mem) (hg _ _ _) rfl rfl h)
    | poisonCorrected q l => dsimp only; rw [note_mem]; exact W _ _ (wf_cells (m := s.mem) (hg _ _ _) rfl rfl h)
    | uncorrectable l => dsimp only; rw [note_mem]; exact W _ _ (wf_cells (m := s.mem) (hg _ _ _) rfl rfl h)

theorem wf_checkLine (s : State) (line : Nat) (h : Memory.wf s.mem = true) : Memory.wf (s.checkLine line).mem = true := by
  unfold State.checkLine
  split
  · exact wf_settleLine s line h
  · rw [inject_mem, inject_mem]; exact h

theorem wf_settle (s : State) (a n : Nat) (h : Memory.wf s.mem = true) : Memory.wf (s.settle a n).mem = true := by
  unfold State.settle
  generalize blocks 64 a n = l
  induction l generalizing s with
  | nil => exact h
  | cons b l ih => exact ih _ (wf_checkLine s b h)

theorem wf_writeHbm (s : State) (gen a : Nat) (bs : List Byte) (poison : Bool) (h : Memory.wf s.mem = true) :
    Memory.wf (s.writeHbm gen a bs poison).mem = true := by
  unfold State.writeHbm
  dsimp only
  have H : ∀ (l : List Nat) (m : Mem), Memory.wf m = true →
      Memory.wf (l.foldl (fun m l => m.writeLine gen l (slice 64 l a bs).1 (slice 64 l a bs).2 poison) m) = true := by
    intro l
    induction l with
    | nil => exact fun _ h => h
    | cons b l ih => exact fun m hm => ih _ (wf_writeLine _ _ _ _ _ hm)
  refine H _ _ ?_
  split
  · exact h
  · exact wf_settle s _ _ h

theorem wf_writeNow (s : State) (gen a : Nat) (bs : List Byte) (poison : Bool) (h : Memory.wf s.mem = true) :
    Memory.wf (s.writeNow gen a bs poison).mem = true := by
  have h' : Memory.wf (if isHbm a then s.writeHbm gen a bs poison else { s with mem := s.mem.writePlain a bs poison }).mem = true := by
    split
    · exact wf_writeHbm s gen a bs poison h
    · exact wf_writePlain a bs poison h
  unfold State.writeNow
  generalize (if isHbm a then s.writeHbm gen a bs poison else { s with mem := s.mem.writePlain a bs poison }) = u at h'
  have hm : Memory.wf { u.mem with pending := u.mem.pending.map (PendWrite.cover a bs.length none) } = true := wf_congr rfl rfl rfl h'
  have hs : Memory.wf (if poison then ({ u.mem with pending := u.mem.pending.map (PendWrite.cover a bs.length none) } : Mem).spoil
      (poisonBlocks a bs.length) else { u.mem with pending := u.mem.pending.map (PendWrite.cover a bs.length none) }) = true := by
    split
    · exact wf_spoil _ hm
    · exact hm
  exact wf_unviews (fun d => (spanNats a bs.length).filter fun k => !u.mem.pending.any fun w =>
    w.place.isNone && w.applied.contains d && decide (w.addr ≤ k) && decide (k < w.addr + w.bytes.length)) hs

theorem wf_applyHome (s : State) (w : PendWrite) (h : Memory.wf s.mem = true) : Memory.wf (s.applyHome w).mem = true := by
  unfold State.applyHome
  dsimp only
  split
  · exact wf_writeHbm _ _ _ _ _ h
  · exact wf_writePlain _ _ _ h

theorem wf_applyPlace (s : State) (w : PendWrite) (h : Memory.wf s.mem = true) : Memory.wf (s.applyPlace w).mem = true := by
  unfold State.applyPlace
  refine wf_congr (m := (State.applyHome _ w).mem) rfl rfl rfl (wf_applyHome _ w ?_)
  generalize (if isPool w.addr = true then [] else _ : List Nat) = l
  show Memory.wf (l.foldl (fun m d => m.keep w.addr w.bytes.length d) s.mem) = true
  generalize s.mem = m at h
  induction l generalizing m with
  | nil => exact h
  | cons d l ih => exact ih _ (wf_keep _ _ d h)

theorem wf_applyAway (s : State) (w : PendWrite) (die : Nat) (h : Memory.wf s.mem = true) : Memory.wf (s.applyAway w die).mem = true :=
  wf_overlay die _ _ h

theorem noteSeen_mem (s : State) (w : PendWrite) (die : Nat) : (s.noteSeen w die).mem = s.mem := rfl
theorem noteSeens_mem (s : State) (w : PendWrite) (l : List Nat) : (l.foldl (fun s d => s.noteSeen w d) s).mem = s.mem := by
  induction l generalizing s with
  | nil => rfl
  | cons d l ih => exact (ih _).trans (noteSeen_mem s w d)

theorem wf_applyAt (s : State) (w : PendWrite) (die : Nat) (h : Memory.wf s.mem = true) : Memory.wf (s.applyAt w die).mem = true := by
  unfold State.applyAt
  split
  · rw [noteSeens_mem]; exact wf_writeHbm _ _ _ _ _ h
  · rw [noteSeen_mem]
    split
    · exact wf_applyPlace s w h
    · split
      · exact h
      · exact wf_applyAway s w die h

theorem ticks_same (m : Mem) (w : PendWrite) (l : List Nat) :
    Memory.wf (l.foldl (fun m d => m.tick d w.die (w.stamp.getD w.die 0)) m) = Memory.wf m := by
  induction l generalizing m with
  | nil => rfl
  | cons d l ih => exact (ih _).trans rfl

theorem wf_issueWrite (s : State) (w : PendWrite) (h : Memory.wf s.mem = true) : Memory.wf (s.issueWrite w).mem = true := by
  unfold State.issueWrite
  dsimp only
  split
  · exact wf_congr (m := s.mem) rfl rfl rfl h
  · exact wf_applyAt _ _ _ (wf_congr (m := s.mem) rfl rfl rfl h)

theorem wf_retire (s : State) (w : PendWrite) (h : Memory.wf s.mem = true) : Memory.wf (s.retire w).mem = true := by
  have hm : ∀ l, Memory.wf { s.mem with pending := l } = true := fun _ => wf_congr (m := s.mem) rfl rfl rfl h
  have hu := fun l ks => wf_unviews ks (hm l)
  unfold State.retire
  dsimp only
  split
  · generalize (s.mem.pending.filter fun p => p.id != w.id) = l
    generalize (List.filter _ (spanNats w.addr w.bytes.length)) = ks
    exact hu l fun _ => ks
  · exact h

theorem wf_perform (s : State) (w : PendWrite) (die : Nat) (h : Memory.wf s.mem = true) : Memory.wf (s.perform w die).mem = true := by
  unfold State.perform
  refine wf_retire _ _ ?_
  rw [inject_mem]
  exact (ticks_same _ w _).trans (wf_applyAt s w die h)

theorem wf_writePush {m : Mem} (w : PendWrite) (h : Memory.wf m = true) : Memory.wf (m.writePush w) = true :=
  wf_cells (m := m) (wf_putN (wf_memory.1 h).1) rfl rfl h

theorem wf_performPush (s : State) (w : PendWrite) (h : Memory.wf s.mem = true) : Memory.wf (s.performPush w).mem = true := by
  unfold State.performPush State.checkPool
  rw [inject_mem]
  exact wf_congr (m := s.mem.writePush w) rfl rfl rfl (wf_writePush w h)

theorem wf_zeroPool (s : State) (core off n : Nat) (h : Memory.wf s.mem = true) : Memory.wf (s.zeroPool core off n).mem = true :=
  wf_cells (m := s.mem) (wf_filter _ (wf_memory.1 h).1) rfl rfl h

theorem wf_cold {m : Mem} (h : Memory.wf m = true) : Memory.wf m.cold = true := by
  rw [wf_memory] at *; exact ⟨wf_filter _ h.1, ⟨rfl, by simp [Mem.cold]⟩, ⟨rfl, by simp [Mem.cold]⟩⟩

theorem wf_warm {m : Mem} (h : Memory.wf m = true) : Memory.wf m.warm = true := by
  rw [wf_memory] at *; exact ⟨wf_filter _ h.1, ⟨rfl, by simp [Mem.warm]⟩, ⟨rfl, by simp [Mem.warm]⟩⟩

theorem wf_zeroRoot {m : Mem} (h : Memory.wf m = true) : Memory.wf m.zeroRoot = true :=
  wf_cells (m := m) (wf_filter _ (wf_memory.1 h).1) rfl rfl h

/-- Reading leaves the form. -/
theorem wf_readHbm (s : State) (die : Nat) (key : Byte) (a n : Nat) (r : List Byte × Bool × State) (h : Memory.wf s.mem = true)
    (hr : s.readHbm die key a n = .ok r) : Memory.wf r.2.2.mem = true := by
  unfold State.readHbm at hr
  cases hk : s.keyGen (homeDie a) key with
  | error e => rw [hk] at hr; cases hr
  | ok g =>
    rw [hk] at hr
    cases hl : s.awaitLines a n with
    | error e => simp only [bind, Except.bind, hl] at hr; cases hr
    | ok u => simp only [bind, Except.bind, hl] at hr; cases hr; exact wf_settle s a n h

/-! ## Bytes that a write leaves alone -/

theorem look?_overlay (v : List Host.Cell) (l : List (Nat × Byte)) (k : Nat) (hk : ∀ t ∈ l, t.1 ≠ k) :
    look? (l.foldl (fun v t => put? t.1 t.2 v) v) k = look? v k := by
  induction l generalizing v with
  | nil => rfl
  | cons t l ih =>
    rw [List.foldl_cons, ih _ fun x hx => hk x (by simp [hx])]
    exact look?_put?_ne _ _ (Ne.symm (hk t (by simp)))

theorem look?_unview (v : List Host.Cell) (ks : List Nat) (k : Nat) (hk : k ∉ ks) : look? (ks.foldl (fun v k => del? k v) v) k = look? v k := by
  induction ks generalizing v with
  | nil => rfl
  | cons t l ih =>
    rw [List.foldl_cons, ih _ fun h => hk (by simp [h])]
    exact look?_del_ne _ (fun h => hk (by simp [h]))

theorem view_setView (m : Mem) (die d : Nat) (v : List Host.Cell) : (m.setView die v).view d = if d = die then v else m.view d := by
  simp [Mem.view, Mem.setView, look_put]

theorem byteAt_unview (m : Mem) (die d : Nat) (ks : List Nat) (k : Nat) (hk : k ∉ ks) : (m.unview die ks).byteAt d k = m.byteAt d k := by
  show (look? ((m.setView die (ks.foldl (fun v k => del? k v) (m.view die))).view d) k).getD (look 0 m.cells k) = _
  rw [view_setView]
  split
  · subst_vars; rw [look?_unview _ _ _ hk]; rfl
  · rfl

theorem cells_unview (m : Mem) (die : Nat) (ks : List Nat) : (m.unview die ks).cells = m.cells := rfl

/-- What dies see stands but for the bytes that are taken from their views. -/
theorem unviews_same (m : Mem) (ks : Nat → List Nat) :
    ((List.range 4).foldl (fun m d => if (m.view d).isEmpty then m else m.unview d (ks d)) m).cells = m.cells ∧
    ∀ d k, (∀ e, k ∉ ks e) →
      ((List.range 4).foldl (fun m d => if (m.view d).isEmpty then m else m.unview d (ks d)) m).byteAt d k = m.byteAt d k := by
  generalize List.range 4 = l
  induction l generalizing m with
  | nil => exact ⟨rfl, fun _ _ _ => rfl⟩
  | cons e l ih =>
    rw [List.foldl_cons]
    obtain ⟨h1, h2⟩ := ih (if (m.view e).isEmpty then m else m.unview e (ks e))
    refine ⟨h1.trans (by split <;> rfl), fun d k hk => (h2 d k hk).trans ?_⟩
    split
    · rfl
    · exact byteAt_unview m e d (ks e) k (hk e)

theorem byteAt_writePlain (m : Mem) (a : Nat) (bs : List Byte) (p : Bool) (d k : Nat) (hk : ¬(a ≤ k ∧ k < a + bs.length)) :
    (m.writePlain a bs p).byteAt d k = m.byteAt d k := by
  show (look? (m.view d) k).getD (look 0 (putN a bs m.cells) k) = _
  rw [look_putN, if_neg hk]; rfl

/-- A write of a pool, of host memory or of the tier, performed for every observer, leaves every other byte alone. -/
theorem sameBytes_writeNow (s : State) (gen a : Nat) (bs : List Byte) (p : Bool) (k : Nat) (ha : isHbm a = false)
    (hk : ¬(a ≤ k ∧ k < a + bs.length)) : SameBytes s (s.writeNow gen a bs p) k := by
  have hn : k ∉ spanNats a bs.length := by
    simp only [spanNats, List.mem_map, List.mem_range, not_exists, not_and]; intro x hx he; omega
  unfold State.writeNow
  rw [ha]
  generalize (fun d k => s.mem.pending.any _ : Nat → Nat → Bool) = later
  have hs : ∀ m : Mem, (if p then m.spoil (poisonBlocks a bs.length) else m).cells = m.cells ∧
      ∀ d k, (if p then m.spoil (poisonBlocks a bs.length) else m).byteAt d k = m.byteAt d k := by
    intro m
    split
    · exact ⟨(spoil_same m _).1, byteAt_spoil m _⟩
    · exact ⟨rfl, fun _ _ => rfl⟩
  obtain ⟨g1, g2⟩ := hs { s.mem.writePlain a bs p with pending := (s.mem.writePlain a bs p).pending.map (PendWrite.cover a bs.length none) }
  obtain ⟨h1, h2⟩ := unviews_same
    (if p then ({ s.mem.writePlain a bs p with pending := (s.mem.writePlain a bs p).pending.map (PendWrite.cover a bs.length none) } : Mem).spoil
      (poisonBlocks a bs.length) else { s.mem.writePlain a bs p with pending := (s.mem.writePlain a bs p).pending.map (PendWrite.cover a bs.length none) })
    fun d => (spanNats a bs.length).filter fun k => !(s.mem.writePlain a bs p).pending.any fun w =>
      w.place.isNone && w.applied.contains d && decide (w.addr ≤ k) && decide (k < w.addr + w.bytes.length)
  refine ⟨?_, fun d => (h2 d k fun e h => hn (List.mem_of_mem_filter h)).trans ((g2 d k).trans (byteAt_writePlain s.mem a bs p d k hk))⟩
  refine (congrArg (fun c => look 0 c k) (h1.trans g1)).trans ?_
  show look 0 (putN a bs s.mem.cells) k = _
  rw [look_putN, if_neg hk]

/-- Bytes put in a die's view leave every other byte alone. -/
theorem byteAt_overlay (m : Mem) (die d : Nat) (l : List (Nat × Byte)) (marks : List (Nat × Bool)) (k : Nat) (hk : ∀ t ∈ l, t.1 ≠ k) :
    (m.overlay die l marks).byteAt d k = m.byteAt d k := by
  show (look? ((m.setView die (l.foldl (fun v t => put? t.1 t.2 v) (m.view die))).view d) k).getD (look 0 m.cells k) = _
  rw [view_setView]
  split
  · subst_vars
    rw [look?_overlay _ _ _ hk]; rfl
  · rfl

/-- With no line in error, reading settles nothing. -/
theorem settle_mem (s : State) (a n : Nat) (h : s.mem.lineErrs = []) : (s.settle a n).mem = s.mem := by
  unfold State.settle
  generalize blocks 64 a n = l
  suffices H : ∀ t : State, t.mem = s.mem → (l.foldl State.checkLine t).mem = s.mem from H s rfl
  induction l with
  | nil => exact fun t ht => ht
  | cons b l ih =>
    intro t ht
    refine ih _ ?_
    unfold State.checkLine
    rw [ht, h]
    simpa [look?, inject_mem] using ht

theorem readHbm_mem (s : State) (die : Nat) (key : Byte) (a n : Nat) (r : List Byte × Bool × State) (h : s.mem.lineErrs = [])
    (hr : s.readHbm die key a n = .ok r) : r.2.2.mem = s.mem := by
  unfold State.readHbm at hr
  cases hk : s.keyGen (homeDie a) key with
  | error e => rw [hk] at hr; cases hr
  | ok g =>
    rw [hk] at hr
    cases hl : s.awaitLines a n with
    | error e => simp only [bind, Except.bind, hl] at hr; cases hr
    | ok u => simp only [bind, Except.bind, hl] at hr; cases hr; exact settle_mem s a n h

end Sys2Proof.Machine
end

