-- ==== Sys2Proof/Laws/PerInstr.lean ====
section
/-! SUPPORT. The encoding of each instruction, one lemma per constructor: the word of a form is parsed back to the form, its
fields at any value (07 R164, R171 to R175). The length of a form is told by the low two bits of its first halfword. -/

set_option linter.unusedSimpArgs false
set_option linter.unreachableTactic false
set_option linter.unusedTactic false
set_option linter.unnecessarySeqFocus false

namespace Sys2Proof.Laws.Encodes

set_option Elab.async false

/-- The words of the instruction have the low bits of their length and are parsed to it; an event has none. -/
def Statement (i : Instr) : Prop :=
  (∀ w, encode32 i = some w → fld w 0 2 = 3#2 ∧ parse32 w = .ok i) ∧
  (∀ h, encode16 i = some h → fld h 0 2 ≠ 3#2 ∧ parse16 h = .ok i)

/-- A field inside the low part of a joined word is a field of that part. -/
theorem fld_lo {m n : Nat} (k : Nat) (x : BitVec m) (y : BitVec n) (lo len : Nat) (h : lo + len ≤ n) (hk : n ≤ k) :
    fld (cat k x y) lo len = fld y lo len := by
  apply BitVec.eq_of_getLsbD_eq; intro i hi
  simp only [fld, cat, BitVec.getLsbD_extractLsb', BitVec.getLsbD_setWidth, BitVec.getLsbD_append]
  have h1 : lo + i < k := by omega
  have h2 : lo + i < n := by omega
  simp [h1, h2]

/-- A field above the low part of a joined word is a field of the high part. -/
theorem fld_hi {m n : Nat} (k : Nat) (x : BitVec m) (y : BitVec n) (lo len : Nat) (h : n ≤ lo) (hk : lo + len ≤ k) :
    fld (cat k x y) lo len = fld x (lo - n) len := by
  apply BitVec.eq_of_getLsbD_eq; intro i hi
  simp only [fld, cat, BitVec.getLsbD_extractLsb', BitVec.getLsbD_setWidth, BitVec.getLsbD_append]
  have h1 : lo + i < k := by omega
  have h2 : ¬ lo + i < n := by omega
  have h3 : lo + i - n = lo - n + i := by omega
  simp [h1, h2, h3]

/-- The field that is all of a vector is the vector. -/
theorem fld_all {m : Nat} (x : BitVec m) : fld x 0 m = x := by simp [fld]

/-- A field of a literal. -/
theorem fld_lit (n v lo len : Nat) : fld (BitVec.ofNat n v) lo len = BitVec.ofNat len ((v % 2 ^ n) >>> lo) := by
  apply BitVec.eq_of_toNat_eq; simp [fld, BitVec.extractLsb'_toNat]

/-- A word of major 0. -/
theorem major0 (w : BitVec 32) (h : (fld w 2 5).toNat = 0) : parse32 w = parseMajor0 w := by
  unfold parse32; rw [h]; rfl

/-- A word of major 1. -/
theorem major1 (w : BitVec 32) (h : (fld w 2 5).toNat = 1) : parse32 w = parseMajor1 w := by
  unfold parse32; rw [h]; rfl

/-- A word of major 2. -/
theorem major2 (w : BitVec 32) (h : (fld w 2 5).toNat = 2) : parse32 w = parseMajor2 w := by
  unfold parse32; rw [h]; rfl

/-- A word of major 3. -/
theorem major3 (w : BitVec 32) (h : (fld w 2 5).toNat = 3) : parse32 w = parseMajor3 w := by
  unfold parse32; rw [h]; rfl

/-- A word of major 4. -/
theorem major4 (w : BitVec 32) (h : (fld w 2 5).toNat = 4) : parse32 w = parseMajor4 w := by
  unfold parse32; rw [h]; rfl

/-- A word of major 5. -/
theorem major5 (w : BitVec 32) (h : (fld w 2 5).toNat = 5) : parse32 w = parseMajor5 w := by
  unfold parse32; rw [h]; rfl

/-- A word of major 6. -/
theorem major6 (w : BitVec 32) (h : (fld w 2 5).toNat = 6) : parse32 w = parseMajor6 w := by
  unfold parse32; rw [h]; rfl

/-- A word of major 7. -/
theorem major7 (w : BitVec 32) (h : (fld w 2 5).toNat = 7) : parse32 w = parseMajor7 w := by
  unfold parse32; rw [h]; rfl

/-- A word of major 8. -/
theorem major8 (w : BitVec 32) (h : (fld w 2 5).toNat = 8) : parse32 w = parseMajor8 w := by
  unfold parse32; rw [h]; rfl

/-- A word of major 9. -/
theorem major9 (w : BitVec 32) (h : (fld w 2 5).toNat = 9) : parse32 w = parseMajor9 w := by
  unfold parse32; rw [h]; rfl

/-- A word of major 10. -/
theorem major10 (w : BitVec 32) (h : (fld w 2 5).toNat = 10) : parse32 w = parseMajor10 w := by
  unfold parse32; rw [h]; rfl

/-- A word of major 11. -/
theorem major11 (w : BitVec 32) (h : (fld w 2 5).toNat = 11) : parse32 w = parseMajor11 w := by
  unfold parse32; rw [h]; rfl

/-- A word of major 12. -/
theorem major12 (w : BitVec 32) (h : (fld w 2 5).toNat = 12) : parse32 w = parseMajor12 w := by
  unfold parse32; rw [h]; rfl

/-- A word of major 13. -/
theorem major13 (w : BitVec 32) (h : (fld w 2 5).toNat = 13) : parse32 w = parseMajor13 w := by
  unfold parse32; rw [h]; rfl

/-- A word of major 14. -/
theorem major14 (w : BitVec 32) (h : (fld w 2 5).toNat = 14) : parse32 w = parseMajor14 w := by
  unfold parse32; rw [h]; rfl

/-- A word of major 15. -/
theorem major15 (w : BitVec 32) (h : (fld w 2 5).toNat = 15) : parse32 w = parseMajor15 w := by
  unfold parse32; rw [h]; rfl

/-- A word of major 16. -/
theorem major16 (w : BitVec 32) (h : (fld w 2 5).toNat = 16) : parse32 w = parseMajor16 w := by
  unfold parse32; rw [h]; rfl

/-- A word of major 17. -/
theorem major17 (w : BitVec 32) (h : (fld w 2 5).toNat = 17) : parse32 w = parseMajor17 w := by
  unfold parse32; rw [h]; rfl

/-- A word of major 18. -/
theorem major18 (w : BitVec 32) (h : (fld w 2 5).toNat = 18) : parse32 w = parseMajor18 w := by
  unfold parse32; rw [h]; rfl

/-- A word of major 19. -/
theorem major19 (w : BitVec 32) (h : (fld w 2 5).toNat = 19) : parse32 w = parseMajor19 w := by
  unfold parse32; rw [h]; rfl

/-- A word of major 20. -/
theorem major20 (w : BitVec 32) (h : (fld w 2 5).toNat = 20) : parse32 w = parseMajor20 w := by
  unfold parse32; rw [h]; rfl

/-- A word of major 21. -/
theorem major21 (w : BitVec 32) (h : (fld w 2 5).toNat = 21) : parse32 w = parseMajor21 w := by
  unfold parse32; rw [h]; rfl

/-- A word of major 22. -/
theorem major22 (w : BitVec 32) (h : (fld w 2 5).toNat = 22) : parse32 w = parseMajor22 w := by
  unfold parse32; rw [h]; rfl

/-- A word of major 23. -/
theorem major23 (w : BitVec 32) (h : (fld w 2 5).toNat = 23) : parse32 w = parseMajor23 w := by
  unfold parse32; rw [h]; rfl

/-- A word of major 24. -/
theorem major24 (w : BitVec 32) (h : (fld w 2 5).toNat = 24) : parse32 w = parseMajor24 w := by
  unfold parse32; rw [h]; rfl

/-- A word of major 25. -/
theorem major25 (w : BitVec 32) (h : (fld w 2 5).toNat = 25) : parse32 w = parseMajor25 w := by
  unfold parse32; rw [h]; rfl

/-- A word of major 26. -/
theorem major26 (w : BitVec 32) (h : (fld w 2 5).toNat = 26) : parse32 w = parseMajor26 w := by
  unfold parse32; rw [h]; rfl

theorem add (w : BitVec 1) (b : BitVec 5) (a : BitVec 5) (d : BitVec 5) : Statement (.add w b a d) := by
  refine ⟨fun w e => ?_, fun h e => (nomatch e)⟩
  cases e
  refine ⟨by simp (disch := decide) only [fld_lo, fld_hi, fld_all, fld_lit, Nat.reduceSub] <;> rfl, ?_⟩
  rw [major0 _ (by simp (disch := decide) only [fld_lo, fld_hi, fld_all, fld_lit, Nat.reduceSub]; rfl)]
  unfold parseMajor0
  rw [show BitVec.toNat (fld (cat 32 (cat 25 (cat 20 (cat 15 (cat 10 (cat 5 0#4 w) 0#5) b) a) d) 3#7) 22 5) = 0 by simp (disch := decide) only [fld_lo, fld_hi, fld_all, fld_lit, Nat.reduceSub]; rfl]
  simp (disch := decide) only [fld_lo, fld_hi, fld_all, fld_lit, Nat.reduceSub] <;> rfl

theorem sub (w : BitVec 1) (b : BitVec 5) (a : BitVec 5) (d : BitVec 5) : Statement (.sub w b a d) := by
  refine ⟨fun w e => ?_, fun h e => (nomatch e)⟩
  cases e
  refine ⟨by simp (disch := decide) only [fld_lo, fld_hi, fld_all, fld_lit, Nat.reduceSub] <;> rfl, ?_⟩
  rw [major0 _ (by simp (disch := decide) only [fld_lo, fld_hi, fld_all, fld_lit, Nat.reduceSub]; rfl)]
  unfold parseMajor0
  rw [show BitVec.toNat (fld (cat 32 (cat 25 (cat 20 (cat 15 (cat 10 (cat 5 0#4 w) 1#5) b) a) d) 3#7) 22 5) = 1 by simp (disch := decide) only [fld_lo, fld_hi, fld_all, fld_lit, Nat.reduceSub]; rfl]
  simp (disch := decide) only [fld_lo, fld_hi, fld_all, fld_lit, Nat.reduceSub] <;> rfl

theorem and (w : BitVec 1) (b : BitVec 5) (a : BitVec 5) (d : BitVec 5) : Statement (.and w b a d) := by
  refine ⟨fun w e => ?_, fun h e => (nomatch e)⟩
  cases e
  refine ⟨by simp (disch := decide) only [fld_lo, fld_hi, fld_all, fld_lit, Nat.reduceSub] <;> rfl, ?_⟩
  rw [major0 _ (by simp (disch := decide) only [fld_lo, fld_hi, fld_all, fld_lit, Nat.reduceSub]; rfl)]
  unfold parseMajor0
  rw [show BitVec.toNat (fld (cat 32 (cat 25 (cat 20 (cat 15 (cat 10 (cat 5 0#4 w) 2#5) b) a) d) 3#7) 22 5) = 2 by simp (disch := decide) only [fld_lo, fld_hi, fld_all, fld_lit, Nat.reduceSub]; rfl]
  simp (disch := decide) only [fld_lo, fld_hi, fld_all, fld_lit, Nat.reduceSub] <;> rfl

theorem or (w : BitVec 1) (b : BitVec 5) (a : BitVec 5) (d : BitVec 5) : Statement (.or w b a d) := by
  refine ⟨fun w e => ?_, fun h e => (nomatch e)⟩
  cases e
  refine ⟨by simp (disch := decide) only [fld_lo, fld_hi, fld_all, fld_lit, Nat.reduceSub] <;> rfl, ?_⟩
  rw [major0 _ (by simp (disch := decide) only [fld_lo, fld_hi, fld_all, fld_lit, Nat.reduceSub]; rfl)]
  unfold parseMajor0
  rw [show BitVec.toNat (fld (cat 32 (cat 25 (cat 20 (cat 15 (cat 10 (cat 5 0#4 w) 3#5) b) a) d) 3#7) 22 5) = 3 by simp (disch := decide) only [fld_lo, fld_hi, fld_all, fld_lit, Nat.reduceSub]; rfl]
  simp (disch := decide) only [fld_lo, fld_hi, fld_all, fld_lit, Nat.reduceSub] <;> rfl

theorem xor (w : BitVec 1) (b : BitVec 5) (a : BitVec 5) (d : BitVec 5) : Statement (.xor w b a d) := by
  refine ⟨fun w e => ?_, fun h e => (nomatch e)⟩
  cases e
  refine ⟨by simp (disch := decide) only [fld_lo, fld_hi, fld_all, fld_lit, Nat.reduceSub] <;> rfl, ?_⟩
  rw [major0 _ (by simp (disch := decide) only [fld_lo, fld_hi, fld_all, fld_lit, Nat.reduceSub]; rfl)]
  unfold parseMajor0
  rw [show BitVec.toNat (fld (cat 32 (cat 25 (cat 20 (cat 15 (cat 10 (cat 5 0#4 w) 4#5) b) a) d) 3#7) 22 5) = 4 by simp (disch := decide) only [fld_lo, fld_hi, fld_all, fld_lit, Nat.reduceSub]; rfl]
  simp (disch := decide) only [fld_lo, fld_hi, fld_all, fld_lit, Nat.reduceSub] <;> rfl

theorem shl (w : BitVec 1) (b : BitVec 5) (a : BitVec 5) (d : BitVec 5) : Statement (.shl w b a d) := by
  refine ⟨fun w e => ?_, fun h e => (nomatch e)⟩
  cases e
  refine ⟨by simp (disch := decide) only [fld_lo, fld_hi, fld_all, fld_lit, Nat.reduceSub] <;> rfl, ?_⟩
  rw [major0 _ (by simp (disch := decide) only [fld_lo, fld_hi, fld_all, fld_lit, Nat.reduceSub]; rfl)]
  unfold parseMajor0
  rw [show BitVec.toNat (fld (cat 32 (cat 25 (cat 20 (cat 15 (cat 10 (cat 5 0#4 w) 5#5) b) a) d) 3#7) 22 5) = 5 by simp (disch := decide) only [fld_lo, fld_hi, fld_all, fld_lit, Nat.reduceSub]; rfl]
  simp (disch := decide) only [fld_lo, fld_hi, fld_all, fld_lit, Nat.reduceSub] <;> rfl

theorem shr (w : BitVec 1) (b : BitVec 5) (a : BitVec 5) (d : BitVec 5) : Statement (.shr w b a d) := by
  refine ⟨fun w e => ?_, fun h e => (nomatch e)⟩
  cases e
  refine ⟨by simp (disch := decide) only [fld_lo, fld_hi, fld_all, fld_lit, Nat.reduceSub] <;> rfl, ?_⟩
  rw [major0 _ (by simp (disch := decide) only [fld_lo, fld_hi, fld_all, fld_lit, Nat.reduceSub]; rfl)]
  unfold parseMajor0
  rw [show BitVec.toNat (fld (cat 32 (cat 25 (cat 20 (cat 15 (cat 10 (cat 5 0#4 w) 6#5) b) a) d) 3#7) 22 5) = 6 by simp (disch := decide) only [fld_lo, fld_hi, fld_all, fld_lit, Nat.reduceSub]; rfl]
  simp (disch := decide) only [fld_lo, fld_hi, fld_all, fld_lit, Nat.reduceSub] <;> rfl

theorem sra (w : BitVec 1) (b : BitVec 5) (a : BitVec 5) (d : BitVec 5) : Statement (.sra w b a d) := by
  refine ⟨fun w e => ?_, fun h e => (nomatch e)⟩
  cases e
  refine ⟨by simp (disch := decide) only [fld_lo, fld_hi, fld_all, fld_lit, Nat.reduceSub] <;> rfl, ?_⟩
  rw [major0 _ (by simp (disch := decide) only [fld_lo, fld_hi, fld_all, fld_lit, Nat.reduceSub]; rfl)]
  unfold parseMajor0
  rw [show BitVec.toNat (fld (cat 32 (cat 25 (cat 20 (cat 15 (cat 10 (cat 5 0#4 w) 7#5) b) a) d) 3#7) 22 5) = 7 by simp (disch := decide) only [fld_lo, fld_hi, fld_all, fld_lit, Nat.reduceSub]; rfl]
  simp (disch := decide) only [fld_lo, fld_hi, fld_all, fld_lit, Nat.reduceSub] <;> rfl

theorem mul (w : BitVec 1) (b : BitVec 5) (a : BitVec 5) (d : BitVec 5) : Statement (.mul w b a d) := by
  refine ⟨fun w e => ?_, fun h e => (nomatch e)⟩
  cases e
  refine ⟨by simp (disch := decide) only [fld_lo, fld_hi, fld_all, fld_lit, Nat.reduceSub] <;> rfl, ?_⟩
  rw [major0 _ (by simp (disch := decide) only [fld_lo, fld_hi, fld_all, fld_lit, Nat.reduceSub]; rfl)]
  unfold parseMajor0
  rw [show BitVec.toNat (fld (cat 32 (cat 25 (cat 20 (cat 15 (cat 10 (cat 5 0#4 w) 8#5) b) a) d) 3#7) 22 5) = 8 by simp (disch := decide) only [fld_lo, fld_hi, fld_all, fld_lit, Nat.reduceSub]; rfl]
  simp (disch := decide) only [fld_lo, fld_hi, fld_all, fld_lit, Nat.reduceSub] <;> rfl

theorem mulh (w : BitVec 1) (b : BitVec 5) (a : BitVec 5) (d : BitVec 5) : Statement (.mulh w b a d) := by
  refine ⟨fun w e => ?_, fun h e => (nomatch e)⟩
  cases e
  refine ⟨by simp (disch := decide) only [fld_lo, fld_hi, fld_all, fld_lit, Nat.reduceSub] <;> rfl, ?_⟩
  rw [major0 _ (by simp (disch := decide) only [fld_lo, fld_hi, fld_all, fld_lit, Nat.reduceSub]; rfl)]
  unfold parseMajor0
  rw [show BitVec.toNat (fld (cat 32 (cat 25 (cat 20 (cat 15 (cat 10 (cat 5 0#4 w) 9#5) b) a) d) 3#7) 22 5) = 9 by simp (disch := decide) only [fld_lo, fld_hi, fld_all, fld_lit, Nat.reduceSub]; rfl]
  simp (disch := decide) only [fld_lo, fld_hi, fld_all, fld_lit, Nat.reduceSub] <;> rfl

theorem mulhn (w : BitVec 1) (b : BitVec 5) (a : BitVec 5) (d : BitVec 5) : Statement (.mulhn w b a d) := by
  refine ⟨fun w e => ?_, fun h e => (nomatch e)⟩
  cases e
  refine ⟨by simp (disch := decide) only [fld_lo, fld_hi, fld_all, fld_lit, Nat.reduceSub] <;> rfl, ?_⟩
  rw [major0 _ (by simp (disch := decide) only [fld_lo, fld_hi, fld_all, fld_lit, Nat.reduceSub]; rfl)]
  unfold parseMajor0
  rw [show BitVec.toNat (fld (cat 32 (cat 25 (cat 20 (cat 15 (cat 10 (cat 5 0#4 w) 10#5) b) a) d) 3#7) 22 5) = 10 by simp (disch := decide) only [fld_lo, fld_hi, fld_all, fld_lit, Nat.reduceSub]; rfl]
  simp (disch := decide) only [fld_lo, fld_hi, fld_all, fld_lit, Nat.reduceSub] <;> rfl

theorem div (w : BitVec 1) (b : BitVec 5) (a : BitVec 5) (d : BitVec 5) : Statement (.div w b a d) := by
  refine ⟨fun w e => ?_, fun h e => (nomatch e)⟩
  cases e
  refine ⟨by simp (disch := decide) only [fld_lo, fld_hi, fld_all, fld_lit, Nat.reduceSub] <;> rfl, ?_⟩
  rw [major0 _ (by simp (disch := decide) only [fld_lo, fld_hi, fld_all, fld_lit, Nat.reduceSub]; rfl)]
  unfold parseMajor0
  rw [show BitVec.toNat (fld (cat 32 (cat 25 (cat 20 (cat 15 (cat 10 (cat 5 0#4 w) 11#5) b) a) d) 3#7) 22 5) = 11 by simp (disch := decide) only [fld_lo, fld_hi, fld_all, fld_lit, Nat.reduceSub]; rfl]
  simp (disch := decide) only [fld_lo, fld_hi, fld_all, fld_lit, Nat.reduceSub] <;> rfl

theorem divn (w : BitVec 1) (b : BitVec 5) (a : BitVec 5) (d : BitVec 5) : Statement (.divn w b a d) := by
  refine ⟨fun w e => ?_, fun h e => (nomatch e)⟩
  cases e
  refine ⟨by simp (disch := decide) only [fld_lo, fld_hi, fld_all, fld_lit, Nat.reduceSub] <;> rfl, ?_⟩
  rw [major0 _ (by simp (disch := decide) only [fld_lo, fld_hi, fld_all, fld_lit, Nat.reduceSub]; rfl)]
  unfold parseMajor0
  rw [show BitVec.toNat (fld (cat 32 (cat 25 (cat 20 (cat 15 (cat 10 (cat 5 0#4 w) 12#5) b) a) d) 3#7) 22 5) = 12 by simp (disch := decide) only [fld_lo, fld_hi, fld_all, fld_lit, Nat.reduceSub]; rfl]
  simp (disch := decide) only [fld_lo, fld_hi, fld_all, fld_lit, Nat.reduceSub] <;> rfl

theorem rem (w : BitVec 1) (b : BitVec 5) (a : BitVec 5) (d : BitVec 5) : Statement (.rem w b a d) := by
  refine ⟨fun w e => ?_, fun h e => (nomatch e)⟩
  cases e
  refine ⟨by simp (disch := decide) only [fld_lo, fld_hi, fld_all, fld_lit, Nat.reduceSub] <;> rfl, ?_⟩
  rw [major0 _ (by simp (disch := decide) only [fld_lo, fld_hi, fld_all, fld_lit, Nat.reduceSub]; rfl)]
  unfold parseMajor0
  rw [show BitVec.toNat (fld (cat 32 (cat 25 (cat 20 (cat 15 (cat 10 (cat 5 0#4 w) 13#5) b) a) d) 3#7) 22 5) = 13 by simp (disch := decide) only [fld_lo, fld_hi, fld_all, fld_lit, Nat.reduceSub]; rfl]
  simp (disch := decide) only [fld_lo, fld_hi, fld_all, fld_lit, Nat.reduceSub] <;> rfl

theorem remn (w : BitVec 1) (b : BitVec 5) (a : BitVec 5) (d : BitVec 5) : Statement (.remn w b a d) := by
  refine ⟨fun w e => ?_, fun h e => (nomatch e)⟩
  cases e
  refine ⟨by simp (disch := decide) only [fld_lo, fld_hi, fld_all, fld_lit, Nat.reduceSub] <;> rfl, ?_⟩
  rw [major0 _ (by simp (disch := decide) only [fld_lo, fld_hi, fld_all, fld_lit, Nat.reduceSub]; rfl)]
  unfold parseMajor0
  rw [show BitVec.toNat (fld (cat 32 (cat 25 (cat 20 (cat 15 (cat 10 (cat 5 0#4 w) 14#5) b) a) d) 3#7) 22 5) = 14 by simp (disch := decide) only [fld_lo, fld_hi, fld_all, fld_lit, Nat.reduceSub]; rfl]
  simp (disch := decide) only [fld_lo, fld_hi, fld_all, fld_lit, Nat.reduceSub] <;> rfl

theorem min (w : BitVec 1) (b : BitVec 5) (a : BitVec 5) (d : BitVec 5) : Statement (.min w b a d) := by
  refine ⟨fun w e => ?_, fun h e => (nomatch e)⟩
  cases e
  refine ⟨by simp (disch := decide) only [fld_lo, fld_hi, fld_all, fld_lit, Nat.reduceSub] <;> rfl, ?_⟩
  rw [major0 _ (by simp (disch := decide) only [fld_lo, fld_hi, fld_all, fld_lit, Nat.reduceSub]; rfl)]
  unfold parseMajor0
  rw [show BitVec.toNat (fld (cat 32 (cat 25 (cat 20 (cat 15 (cat 10 (cat 5 0#4 w) 15#5) b) a) d) 3#7) 22 5) = 15 by simp (disch := decide) only [fld_lo, fld_hi, fld_all, fld_lit, Nat.reduceSub]; rfl]
  simp (disch := decide) only [fld_lo, fld_hi, fld_all, fld_lit, Nat.reduceSub] <;> rfl

theorem max (w : BitVec 1) (b : BitVec 5) (a : BitVec 5) (d : BitVec 5) : Statement (.max w b a d) := by
  refine ⟨fun w e => ?_, fun h e => (nomatch e)⟩
  cases e
  refine ⟨by simp (disch := decide) only [fld_lo, fld_hi, fld_all, fld_lit, Nat.reduceSub] <;> rfl, ?_⟩
  rw [major0 _ (by simp (disch := decide) only [fld_lo, fld_hi, fld_all, fld_lit, Nat.reduceSub]; rfl)]
  unfold parseMajor0
  rw [show BitVec.toNat (fld (cat 32 (cat 25 (cat 20 (cat 15 (cat 10 (cat 5 0#4 w) 16#5) b) a) d) 3#7) 22 5) = 16 by simp (disch := decide) only [fld_lo, fld_hi, fld_all, fld_lit, Nat.reduceSub]; rfl]
  simp (disch := decide) only [fld_lo, fld_hi, fld_all, fld_lit, Nat.reduceSub] <;> rfl

theorem minn (w : BitVec 1) (b : BitVec 5) (a : BitVec 5) (d : BitVec 5) : Statement (.minn w b a d) := by
  refine ⟨fun w e => ?_, fun h e => (nomatch e)⟩
  cases e
  refine ⟨by simp (disch := decide) only [fld_lo, fld_hi, fld_all, fld_lit, Nat.reduceSub] <;> rfl, ?_⟩
  rw [major0 _ (by simp (disch := decide) only [fld_lo, fld_hi, fld_all, fld_lit, Nat.reduceSub]; rfl)]
  unfold parseMajor0
  rw [show BitVec.toNat (fld (cat 32 (cat 25 (cat 20 (cat 15 (cat 10 (cat 5 0#4 w) 17#5) b) a) d) 3#7) 22 5) = 17 by simp (disch := decide) only [fld_lo, fld_hi, fld_all, fld_lit, Nat.reduceSub]; rfl]
  simp (disch := decide) only [fld_lo, fld_hi, fld_all, fld_lit, Nat.reduceSub] <;> rfl

theorem maxn (w : BitVec 1) (b : BitVec 5) (a : BitVec 5) (d : BitVec 5) : Statement (.maxn w b a d) := by
  refine ⟨fun w e => ?_, fun h e => (nomatch e)⟩
  cases e
  refine ⟨by simp (disch := decide) only [fld_lo, fld_hi, fld_all, fld_lit, Nat.reduceSub] <;> rfl, ?_⟩
  rw [major0 _ (by simp (disch := decide) only [fld_lo, fld_hi, fld_all, fld_lit, Nat.reduceSub]; rfl)]
  unfold parseMajor0
  rw [show BitVec.toNat (fld (cat 32 (cat 25 (cat 20 (cat 15 (cat 10 (cat 5 0#4 w) 18#5) b) a) d) 3#7) 22 5) = 18 by simp (disch := decide) only [fld_lo, fld_hi, fld_all, fld_lit, Nat.reduceSub]; rfl]
  simp (disch := decide) only [fld_lo, fld_hi, fld_all, fld_lit, Nat.reduceSub] <;> rfl

theorem slt (w : BitVec 1) (b : BitVec 5) (a : BitVec 5) (d : BitVec 5) : Statement (.slt w b a d) := by
  refine ⟨fun w e => ?_, fun h e => (nomatch e)⟩
  cases e
  refine ⟨by simp (disch := decide) only [fld_lo, fld_hi, fld_all, fld_lit, Nat.reduceSub] <;> rfl, ?_⟩
  rw [major0 _ (by simp (disch := decide) only [fld_lo, fld_hi, fld_all, fld_lit, Nat.reduceSub]; rfl)]
  unfold parseMajor0
  rw [show BitVec.toNat (fld (cat 32 (cat 25 (cat 20 (cat 15 (cat 10 (cat 5 0#4 w) 19#5) b) a) d) 3#7) 22 5) = 19 by simp (disch := decide) only [fld_lo, fld_hi, fld_all, fld_lit, Nat.reduceSub]; rfl]
  simp (disch := decide) only [fld_lo, fld_hi, fld_all, fld_lit, Nat.reduceSub] <;> rfl

theorem sltn (w : BitVec 1) (b : BitVec 5) (a : BitVec 5) (d : BitVec 5) : Statement (.sltn w b a d) := by
  refine ⟨fun w e => ?_, fun h e => (nomatch e)⟩
  cases e
  refine ⟨by simp (disch := decide) only [fld_lo, fld_hi, fld_all, fld_lit, Nat.reduceSub] <;> rfl, ?_⟩
  rw [major0 _ (by simp (disch := decide) only [fld_lo, fld_hi, fld_all, fld_lit, Nat.reduceSub]; rfl)]
  unfold parseMajor0
  rw [show BitVec.toNat (fld (cat 32 (cat 25 (cat 20 (cat 15 (cat 10 (cat 5 0#4 w) 20#5) b) a) d) 3#7) 22 5) = 20 by simp (disch := decide) only [fld_lo, fld_hi, fld_all, fld_lit, Nat.reduceSub]; rfl]
  simp (disch := decide) only [fld_lo, fld_hi, fld_all, fld_lit, Nat.reduceSub] <;> rfl

theorem seq (w : BitVec 1) (b : BitVec 5) (a : BitVec 5) (d : BitVec 5) : Statement (.seq w b a d) := by
  refine ⟨fun w e => ?_, fun h e => (nomatch e)⟩
  cases e
  refine ⟨by simp (disch := decide) only [fld_lo, fld_hi, fld_all, fld_lit, Nat.reduceSub] <;> rfl, ?_⟩
  rw [major0 _ (by simp (disch := decide) only [fld_lo, fld_hi, fld_all, fld_lit, Nat.reduceSub]; rfl)]
  unfold parseMajor0
  rw [show BitVec.toNat (fld (cat 32 (cat 25 (cat 20 (cat 15 (cat 10 (cat 5 0#4 w) 21#5) b) a) d) 3#7) 22 5) = 21 by simp (disch := decide) only [fld_lo, fld_hi, fld_all, fld_lit, Nat.reduceSub]; rfl]
  simp (disch := decide) only [fld_lo, fld_hi, fld_all, fld_lit, Nat.reduceSub] <;> rfl

theorem clz (w : BitVec 1) (a : BitVec 5) (d : BitVec 5) : Statement (.clz w a d) := by
  refine ⟨fun w e => ?_, fun h e => (nomatch e)⟩
  cases e
  refine ⟨by simp (disch := decide) only [fld_lo, fld_hi, fld_all, fld_lit, Nat.reduceSub] <;> rfl, ?_⟩
  rw [major0 _ (by simp (disch := decide) only [fld_lo, fld_hi, fld_all, fld_lit, Nat.reduceSub]; rfl)]
  unfold parseMajor0
  rw [show BitVec.toNat (fld (cat 32 (cat 25 (cat 20 (cat 15 (cat 5 0#4 w) 704#10) a) d) 3#7) 22 5) = 22 by simp (disch := decide) only [fld_lo, fld_hi, fld_all, fld_lit, Nat.reduceSub]; rfl]
  simp (disch := decide) only [fld_lo, fld_hi, fld_all, fld_lit, Nat.reduceSub] <;> rfl

theorem ctz (w : BitVec 1) (a : BitVec 5) (d : BitVec 5) : Statement (.ctz w a d) := by
  refine ⟨fun w e => ?_, fun h e => (nomatch e)⟩
  cases e
  refine ⟨by simp (disch := decide) only [fld_lo, fld_hi, fld_all, fld_lit, Nat.reduceSub] <;> rfl, ?_⟩
  rw [major0 _ (by simp (disch := decide) only [fld_lo, fld_hi, fld_all, fld_lit, Nat.reduceSub]; rfl)]
  unfold parseMajor0
  rw [show BitVec.toNat (fld (cat 32 (cat 25 (cat 20 (cat 15 (cat 5 0#4 w) 736#10) a) d) 3#7) 22 5) = 23 by simp (disch := decide) only [fld_lo, fld_hi, fld_all, fld_lit, Nat.reduceSub]; rfl]
  simp (disch := decide) only [fld_lo, fld_hi, fld_all, fld_lit, Nat.reduceSub] <;> rfl

theorem popc (w : BitVec 1) (a : BitVec 5) (d : BitVec 5) : Statement (.popc w a d) := by
  refine ⟨fun w e => ?_, fun h e => (nomatch e)⟩
  cases e
  refine ⟨by simp (disch := decide) only [fld_lo, fld_hi, fld_all, fld_lit, Nat.reduceSub] <;> rfl, ?_⟩
  rw [major0 _ (by simp (disch := decide) only [fld_lo, fld_hi, fld_all, fld_lit, Nat.reduceSub]; rfl)]
  unfold parseMajor0
  rw [show BitVec.toNat (fld (cat 32 (cat 25 (cat 20 (cat 15 (cat 5 0#4 w) 768#10) a) d) 3#7) 22 5) = 24 by simp (disch := decide) only [fld_lo, fld_hi, fld_all, fld_lit, Nat.reduceSub]; rfl]
  simp (disch := decide) only [fld_lo, fld_hi, fld_all, fld_lit, Nat.reduceSub] <;> rfl

theorem andn (w : BitVec 1) (b : BitVec 5) (a : BitVec 5) (d : BitVec 5) : Statement (.andn w b a d) := by
  refine ⟨fun w e => ?_, fun h e => (nomatch e)⟩
  cases e
  refine ⟨by simp (disch := decide) only [fld_lo, fld_hi, fld_all, fld_lit, Nat.reduceSub] <;> rfl, ?_⟩
  rw [major0 _ (by simp (disch := decide) only [fld_lo, fld_hi, fld_all, fld_lit, Nat.reduceSub]; rfl)]
  unfold parseMajor0
  rw [show BitVec.toNat (fld (cat 32 (cat 25 (cat 20 (cat 15 (cat 10 (cat 5 0#4 w) 25#5) b) a) d) 3#7) 22 5) = 25 by simp (disch := decide) only [fld_lo, fld_hi, fld_all, fld_lit, Nat.reduceSub]; rfl]
  simp (disch := decide) only [fld_lo, fld_hi, fld_all, fld_lit, Nat.reduceSub] <;> rfl

theorem bext (w : BitVec 1) (b : BitVec 5) (a : BitVec 5) (d : BitVec 5) : Statement (.bext w b a d) := by
  refine ⟨fun w e => ?_, fun h e => (nomatch e)⟩
  cases e
  refine ⟨by simp (disch := decide) only [fld_lo, fld_hi, fld_all, fld_lit, Nat.reduceSub] <;> rfl, ?_⟩
  rw [major0 _ (by simp (disch := decide) only [fld_lo, fld_hi, fld_all, fld_lit, Nat.reduceSub]; rfl)]
  unfold parseMajor0
  rw [show BitVec.toNat (fld (cat 32 (cat 25 (cat 20 (cat 15 (cat 10 (cat 5 0#4 w) 26#5) b) a) d) 3#7) 22 5) = 26 by simp (disch := decide) only [fld_lo, fld_hi, fld_all, fld_lit, Nat.reduceSub]; rfl]
  simp (disch := decide) only [fld_lo, fld_hi, fld_all, fld_lit, Nat.reduceSub] <;> rfl

theorem bins (w : BitVec 1) (b : BitVec 5) (a : BitVec 5) (d : BitVec 5) : Statement (.bins w b a d) := by
  refine ⟨fun w e => ?_, fun h e => (nomatch e)⟩
  cases e
  refine ⟨by simp (disch := decide) only [fld_lo, fld_hi, fld_all, fld_lit, Nat.reduceSub] <;> rfl, ?_⟩
  rw [major0 _ (by simp (disch := decide) only [fld_lo, fld_hi, fld_all, fld_lit, Nat.reduceSub]; rfl)]
  unfold parseMajor0
  rw [show BitVec.toNat (fld (cat 32 (cat 25 (cat 20 (cat 15 (cat 10 (cat 5 0#4 w) 27#5) b) a) d) 3#7) 22 5) = 27 by simp (disch := decide) only [fld_lo, fld_hi, fld_all, fld_lit, Nat.reduceSub]; rfl]
  simp (disch := decide) only [fld_lo, fld_hi, fld_all, fld_lit, Nat.reduceSub] <;> rfl

theorem addi (i : BitVec 12) (a : BitVec 5) (d : BitVec 5) : Statement (.addi i a d) := by
  refine ⟨fun w e => ?_, fun h e => (nomatch e)⟩
  cases e
  refine ⟨by simp (disch := decide) only [fld_lo, fld_hi, fld_all, fld_lit, Nat.reduceSub] <;> rfl, ?_⟩
  rw [major1 _ (by simp (disch := decide) only [fld_lo, fld_hi, fld_all, fld_lit, Nat.reduceSub]; rfl)]
  unfold parseMajor1
  rw [show BitVec.toNat (fld (cat 32 (cat 25 (cat 20 (cat 15 i 0#3) a) d) 7#7) 17 3) = 0 by simp (disch := decide) only [fld_lo, fld_hi, fld_all, fld_lit, Nat.reduceSub]; rfl]
  simp (disch := decide) only [fld_lo, fld_hi, fld_all, fld_lit, Nat.reduceSub] <;> rfl

theorem andi (i : BitVec 12) (a : BitVec 5) (d : BitVec 5) : Statement (.andi i a d) := by
  refine ⟨fun w e => ?_, fun h e => (nomatch e)⟩
  cases e
  refine ⟨by simp (disch := decide) only [fld_lo, fld_hi, fld_all, fld_lit, Nat.reduceSub] <;> rfl, ?_⟩
  rw [major1 _ (by simp (disch := decide) only [fld_lo, fld_hi, fld_all, fld_lit, Nat.reduceSub]; rfl)]
  unfold parseMajor1
  rw [show BitVec.toNat (fld (cat 32 (cat 25 (cat 20 (cat 15 i 1#3) a) d) 7#7) 17 3) = 1 by simp (disch := decide) only [fld_lo, fld_hi, fld_all, fld_lit, Nat.reduceSub]; rfl]
  simp (disch := decide) only [fld_lo, fld_hi, fld_all, fld_lit, Nat.reduceSub] <;> rfl

theorem ori (i : BitVec 12) (a : BitVec 5) (d : BitVec 5) : Statement (.ori i a d) := by
  refine ⟨fun w e => ?_, fun h e => (nomatch e)⟩
  cases e
  refine ⟨by simp (disch := decide) only [fld_lo, fld_hi, fld_all, fld_lit, Nat.reduceSub] <;> rfl, ?_⟩
  rw [major1 _ (by simp (disch := decide) only [fld_lo, fld_hi, fld_all, fld_lit, Nat.reduceSub]; rfl)]
  unfold parseMajor1
  rw [show BitVec.toNat (fld (cat 32 (cat 25 (cat 20 (cat 15 i 2#3) a) d) 7#7) 17 3) = 2 by simp (disch := decide) only [fld_lo, fld_hi, fld_all, fld_lit, Nat.reduceSub]; rfl]
  simp (disch := decide) only [fld_lo, fld_hi, fld_all, fld_lit, Nat.reduceSub] <;> rfl

theorem xori (i : BitVec 12) (a : BitVec 5) (d : BitVec 5) : Statement (.xori i a d) := by
  refine ⟨fun w e => ?_, fun h e => (nomatch e)⟩
  cases e
  refine ⟨by simp (disch := decide) only [fld_lo, fld_hi, fld_all, fld_lit, Nat.reduceSub] <;> rfl, ?_⟩
  rw [major1 _ (by simp (disch := decide) only [fld_lo, fld_hi, fld_all, fld_lit, Nat.reduceSub]; rfl)]
  unfold parseMajor1
  rw [show BitVec.toNat (fld (cat 32 (cat 25 (cat 20 (cat 15 i 3#3) a) d) 7#7) 17 3) = 3 by simp (disch := decide) only [fld_lo, fld_hi, fld_all, fld_lit, Nat.reduceSub]; rfl]
  simp (disch := decide) only [fld_lo, fld_hi, fld_all, fld_lit, Nat.reduceSub] <;> rfl

theorem shli (s : BitVec 6) (a : BitVec 5) (d : BitVec 5) : Statement (.shli s a d) := by
  refine ⟨fun w e => ?_, fun h e => (nomatch e)⟩
  cases e
  refine ⟨by simp (disch := decide) only [fld_lo, fld_hi, fld_all, fld_lit, Nat.reduceSub] <;> rfl, ?_⟩
  rw [major1 _ (by simp (disch := decide) only [fld_lo, fld_hi, fld_all, fld_lit, Nat.reduceSub]; rfl)]
  unfold parseMajor1
  rw [show BitVec.toNat (fld (cat 32 (cat 25 (cat 20 (cat 15 (cat 12 0#6 s) 4#3) a) d) 7#7) 17 3) = 4 by simp (disch := decide) only [fld_lo, fld_hi, fld_all, fld_lit, Nat.reduceSub]; rfl]
  simp (disch := decide) only [fld_lo, fld_hi, fld_all, fld_lit, Nat.reduceSub] <;> rfl

theorem shri (s : BitVec 6) (a : BitVec 5) (d : BitVec 5) : Statement (.shri s a d) := by
  refine ⟨fun w e => ?_, fun h e => (nomatch e)⟩
  cases e
  refine ⟨by simp (disch := decide) only [fld_lo, fld_hi, fld_all, fld_lit, Nat.reduceSub] <;> rfl, ?_⟩
  rw [major1 _ (by simp (disch := decide) only [fld_lo, fld_hi, fld_all, fld_lit, Nat.reduceSub]; rfl)]
  unfold parseMajor1
  rw [show BitVec.toNat (fld (cat 32 (cat 25 (cat 20 (cat 15 (cat 12 0#6 s) 5#3) a) d) 7#7) 17 3) = 5 by simp (disch := decide) only [fld_lo, fld_hi, fld_all, fld_lit, Nat.reduceSub]; rfl]
  simp (disch := decide) only [fld_lo, fld_hi, fld_all, fld_lit, Nat.reduceSub] <;> rfl

theorem srai (s : BitVec 6) (a : BitVec 5) (d : BitVec 5) : Statement (.srai s a d) := by
  refine ⟨fun w e => ?_, fun h e => (nomatch e)⟩
  cases e
  refine ⟨by simp (disch := decide) only [fld_lo, fld_hi, fld_all, fld_lit, Nat.reduceSub] <;> rfl, ?_⟩
  rw [major1 _ (by simp (disch := decide) only [fld_lo, fld_hi, fld_all, fld_lit, Nat.reduceSub]; rfl)]
  unfold parseMajor1
  rw [show BitVec.toNat (fld (cat 32 (cat 25 (cat 20 (cat 15 (cat 12 0#6 s) 6#3) a) d) 7#7) 17 3) = 6 by simp (disch := decide) only [fld_lo, fld_hi, fld_all, fld_lit, Nat.reduceSub]; rfl]
  simp (disch := decide) only [fld_lo, fld_hi, fld_all, fld_lit, Nat.reduceSub] <;> rfl

theorem slti (i : BitVec 12) (a : BitVec 5) (d : BitVec 5) : Statement (.slti i a d) := by
  refine ⟨fun w e => ?_, fun h e => (nomatch e)⟩
  cases e
  refine ⟨by simp (disch := decide) only [fld_lo, fld_hi, fld_all, fld_lit, Nat.reduceSub] <;> rfl, ?_⟩
  rw [major1 _ (by simp (disch := decide) only [fld_lo, fld_hi, fld_all, fld_lit, Nat.reduceSub]; rfl)]
  unfold parseMajor1
  rw [show BitVec.toNat (fld (cat 32 (cat 25 (cat 20 (cat 15 i 7#3) a) d) 7#7) 17 3) = 7 by simp (disch := decide) only [fld_lo, fld_hi, fld_all, fld_lit, Nat.reduceSub]; rfl]
  simp (disch := decide) only [fld_lo, fld_hi, fld_all, fld_lit, Nat.reduceSub] <;> rfl

theorem lih (i : BitVec 20) (d : BitVec 5) : Statement (.lih i d) := by
  refine ⟨fun w e => ?_, fun h e => (nomatch e)⟩
  cases e
  refine ⟨by simp (disch := decide) only [fld_lo, fld_hi, fld_all, fld_lit, Nat.reduceSub] <;> rfl, ?_⟩
  rw [major2 _ (by simp (disch := decide) only [fld_lo, fld_hi, fld_all, fld_lit, Nat.reduceSub]; rfl)]
  unfold parseMajor2
  simp (disch := decide) only [fld_lo, fld_hi, fld_all, fld_lit, Nat.reduceSub] <;> rfl

theorem addpc (i : BitVec 20) (d : BitVec 5) : Statement (.addpc i d) := by
  refine ⟨fun w e => ?_, fun h e => (nomatch e)⟩
  cases e
  refine ⟨by simp (disch := decide) only [fld_lo, fld_hi, fld_all, fld_lit, Nat.reduceSub] <;> rfl, ?_⟩
  rw [major3 _ (by simp (disch := decide) only [fld_lo, fld_hi, fld_all, fld_lit, Nat.reduceSub]; rfl)]
  unfold parseMajor3
  simp (disch := decide) only [fld_lo, fld_hi, fld_all, fld_lit, Nat.reduceSub] <;> rfl

theorem ldb (i : BitVec 12) (a : BitVec 5) (d : BitVec 5) : Statement (.ldb i a d) := by
  refine ⟨fun w e => ?_, fun h e => (nomatch e)⟩
  cases e
  refine ⟨by simp (disch := decide) only [fld_lo, fld_hi, fld_all, fld_lit, Nat.reduceSub] <;> rfl, ?_⟩
  rw [major4 _ (by simp (disch := decide) only [fld_lo, fld_hi, fld_all, fld_lit, Nat.reduceSub]; rfl)]
  unfold parseMajor4
  rw [show BitVec.toNat (fld (cat 32 (cat 25 (cat 20 (cat 15 i 0#3) a) d) 19#7) 17 3) = 0 by simp (disch := decide) only [fld_lo, fld_hi, fld_all, fld_lit, Nat.reduceSub]; rfl]
  simp (disch := decide) only [fld_lo, fld_hi, fld_all, fld_lit, Nat.reduceSub] <;> rfl

theorem ldh (i : BitVec 12) (a : BitVec 5) (d : BitVec 5) : Statement (.ldh i a d) := by
  refine ⟨fun w e => ?_, fun h e => (nomatch e)⟩
  cases e
  refine ⟨by simp (disch := decide) only [fld_lo, fld_hi, fld_all, fld_lit, Nat.reduceSub] <;> rfl, ?_⟩
  rw [major4 _ (by simp (disch := decide) only [fld_lo, fld_hi, fld_all, fld_lit, Nat.reduceSub]; rfl)]
  unfold parseMajor4
  rw [show BitVec.toNat (fld (cat 32 (cat 25 (cat 20 (cat 15 i 1#3) a) d) 19#7) 17 3) = 1 by simp (disch := decide) only [fld_lo, fld_hi, fld_all, fld_lit, Nat.reduceSub]; rfl]
  simp (disch := decide) only [fld_lo, fld_hi, fld_all, fld_lit, Nat.reduceSub] <;> rfl

theorem ldw (i : BitVec 12) (a : BitVec 5) (d : BitVec 5) : Statement (.ldw i a d) := by
  refine ⟨fun w e => ?_, fun h e => (nomatch e)⟩
  cases e
  refine ⟨by simp (disch := decide) only [fld_lo, fld_hi, fld_all, fld_lit, Nat.reduceSub] <;> rfl, ?_⟩
  rw [major4 _ (by simp (disch := decide) only [fld_lo, fld_hi, fld_all, fld_lit, Nat.reduceSub]; rfl)]
  unfold parseMajor4
  rw [show BitVec.toNat (fld (cat 32 (cat 25 (cat 20 (cat 15 i 2#3) a) d) 19#7) 17 3) = 2 by simp (disch := decide) only [fld_lo, fld_hi, fld_all, fld_lit, Nat.reduceSub]; rfl]
  simp (disch := decide) only [fld_lo, fld_hi, fld_all, fld_lit, Nat.reduceSub] <;> rfl

theorem ldd (i : BitVec 12) (a : BitVec 5) (d : BitVec 5) : Statement (.ldd i a d) := by
  refine ⟨fun w e => ?_, fun h e => (nomatch e)⟩
  cases e
  refine ⟨by simp (disch := decide) only [fld_lo, fld_hi, fld_all, fld_lit, Nat.reduceSub] <;> rfl, ?_⟩
  rw [major4 _ (by simp (disch := decide) only [fld_lo, fld_hi, fld_all, fld_lit, Nat.reduceSub]; rfl)]
  unfold parseMajor4
  rw [show BitVec.toNat (fld (cat 32 (cat 25 (cat 20 (cat 15 i 3#3) a) d) 19#7) 17 3) = 3 by simp (disch := decide) only [fld_lo, fld_hi, fld_all, fld_lit, Nat.reduceSub]; rfl]
  simp (disch := decide) only [fld_lo, fld_hi, fld_all, fld_lit, Nat.reduceSub] <;> rfl

theorem ldbn (i : BitVec 12) (a : BitVec 5) (d : BitVec 5) : Statement (.ldbn i a d) := by
  refine ⟨fun w e => ?_, fun h e => (nomatch e)⟩
  cases e
  refine ⟨by simp (disch := decide) only [fld_lo, fld_hi, fld_all, fld_lit, Nat.reduceSub] <;> rfl, ?_⟩
  rw [major4 _ (by simp (disch := decide) only [fld_lo, fld_hi, fld_all, fld_lit, Nat.reduceSub]; rfl)]
  unfold parseMajor4
  rw [show BitVec.toNat (fld (cat 32 (cat 25 (cat 20 (cat 15 i 4#3) a) d) 19#7) 17 3) = 4 by simp (disch := decide) only [fld_lo, fld_hi, fld_all, fld_lit, Nat.reduceSub]; rfl]
  simp (disch := decide) only [fld_lo, fld_hi, fld_all, fld_lit, Nat.reduceSub] <;> rfl

theorem ldhn (i : BitVec 12) (a : BitVec 5) (d : BitVec 5) : Statement (.ldhn i a d) := by
  refine ⟨fun w e => ?_, fun h e => (nomatch e)⟩
  cases e
  refine ⟨by simp (disch := decide) only [fld_lo, fld_hi, fld_all, fld_lit, Nat.reduceSub] <;> rfl, ?_⟩
  rw [major4 _ (by simp (disch := decide) only [fld_lo, fld_hi, fld_all, fld_lit, Nat.reduceSub]; rfl)]
  unfold parseMajor4
  rw [show BitVec.toNat (fld (cat 32 (cat 25 (cat 20 (cat 15 i 5#3) a) d) 19#7) 17 3) = 5 by simp (disch := decide) only [fld_lo, fld_hi, fld_all, fld_lit, Nat.reduceSub]; rfl]
  simp (disch := decide) only [fld_lo, fld_hi, fld_all, fld_lit, Nat.reduceSub] <;> rfl

theorem ldwn (i : BitVec 12) (a : BitVec 5) (d : BitVec 5) : Statement (.ldwn i a d) := by
  refine ⟨fun w e => ?_, fun h e => (nomatch e)⟩
  cases e
  refine ⟨by simp (disch := decide) only [fld_lo, fld_hi, fld_all, fld_lit, Nat.reduceSub] <;> rfl, ?_⟩
  rw [major4 _ (by simp (disch := decide) only [fld_lo, fld_hi, fld_all, fld_lit, Nat.reduceSub]; rfl)]
  unfold parseMajor4
  rw [show BitVec.toNat (fld (cat 32 (cat 25 (cat 20 (cat 15 i 6#3) a) d) 19#7) 17 3) = 6 by simp (disch := decide) only [fld_lo, fld_hi, fld_all, fld_lit, Nat.reduceSub]; rfl]
  simp (disch := decide) only [fld_lo, fld_hi, fld_all, fld_lit, Nat.reduceSub] <;> rfl

theorem stb (i : BitVec 12) (a : BitVec 5) (d : BitVec 5) : Statement (.stb i a d) := by
  refine ⟨fun w e => ?_, fun h e => (nomatch e)⟩
  cases e
  refine ⟨by simp (disch := decide) only [fld_lo, fld_hi, fld_all, fld_lit, Nat.reduceSub] <;> rfl, ?_⟩
  rw [major5 _ (by simp (disch := decide) only [fld_lo, fld_hi, fld_all, fld_lit, Nat.reduceSub]; rfl)]
  unfold parseMajor5
  rw [show BitVec.toNat (fld (cat 32 (cat 25 (cat 20 (cat 15 i 0#3) a) d) 23#7) 17 3) = 0 by simp (disch := decide) only [fld_lo, fld_hi, fld_all, fld_lit, Nat.reduceSub]; rfl]
  simp (disch := decide) only [fld_lo, fld_hi, fld_all, fld_lit, Nat.reduceSub] <;> rfl

theorem sth (i : BitVec 12) (a : BitVec 5) (d : BitVec 5) : Statement (.sth i a d) := by
  refine ⟨fun w e => ?_, fun h e => (nomatch e)⟩
  cases e
  refine ⟨by simp (disch := decide) only [fld_lo, fld_hi, fld_all, fld_lit, Nat.reduceSub] <;> rfl, ?_⟩
  rw [major5 _ (by simp (disch := decide) only [fld_lo, fld_hi, fld_all, fld_lit, Nat.reduceSub]; rfl)]
  unfold parseMajor5
  rw [show BitVec.toNat (fld (cat 32 (cat 25 (cat 20 (cat 15 i 1#3) a) d) 23#7) 17 3) = 1 by simp (disch := decide) only [fld_lo, fld_hi, fld_all, fld_lit, Nat.reduceSub]; rfl]
  simp (disch := decide) only [fld_lo, fld_hi, fld_all, fld_lit, Nat.reduceSub] <;> rfl

theorem stw (i : BitVec 12) (a : BitVec 5) (d : BitVec 5) : Statement (.stw i a d) := by
  refine ⟨fun w e => ?_, fun h e => (nomatch e)⟩
  cases e
  refine ⟨by simp (disch := decide) only [fld_lo, fld_hi, fld_all, fld_lit, Nat.reduceSub] <;> rfl, ?_⟩
  rw [major5 _ (by simp (disch := decide) only [fld_lo, fld_hi, fld_all, fld_lit, Nat.reduceSub]; rfl)]
  unfold parseMajor5
  rw [show BitVec.toNat (fld (cat 32 (cat 25 (cat 20 (cat 15 i 2#3) a) d) 23#7) 17 3) = 2 by simp (disch := decide) only [fld_lo, fld_hi, fld_all, fld_lit, Nat.reduceSub]; rfl]
  simp (disch := decide) only [fld_lo, fld_hi, fld_all, fld_lit, Nat.reduceSub] <;> rfl

theorem std (i : BitVec 12) (a : BitVec 5) (d : BitVec 5) : Statement (.std i a d) := by
  refine ⟨fun w e => ?_, fun h e => (nomatch e)⟩
  cases e
  refine ⟨by simp (disch := decide) only [fld_lo, fld_hi, fld_all, fld_lit, Nat.reduceSub] <;> rfl, ?_⟩
  rw [major5 _ (by simp (disch := decide) only [fld_lo, fld_hi, fld_all, fld_lit, Nat.reduceSub]; rfl)]
  unfold parseMajor5
  rw [show BitVec.toNat (fld (cat 32 (cat 25 (cat 20 (cat 15 i 3#3) a) d) 23#7) 17 3) = 3 by simp (disch := decide) only [fld_lo, fld_hi, fld_all, fld_lit, Nat.reduceSub]; rfl]
  simp (disch := decide) only [fld_lo, fld_hi, fld_all, fld_lit, Nat.reduceSub] <;> rfl

theorem beq (o : BitVec 12) (b : BitVec 5) (a : BitVec 5) : Statement (.beq o b a) := by
  refine ⟨fun w e => ?_, fun h e => (nomatch e)⟩
  cases e
  refine ⟨by simp (disch := decide) only [fld_lo, fld_hi, fld_all, fld_lit, Nat.reduceSub] <;> rfl, ?_⟩
  rw [major6 _ (by simp (disch := decide) only [fld_lo, fld_hi, fld_all, fld_lit, Nat.reduceSub]; rfl)]
  unfold parseMajor6
  rw [show BitVec.toNat (fld (cat 32 (cat 25 (cat 20 (cat 15 o 0#3) b) a) 27#7) 17 3) = 0 by simp (disch := decide) only [fld_lo, fld_hi, fld_all, fld_lit, Nat.reduceSub]; rfl]
  simp (disch := decide) only [fld_lo, fld_hi, fld_all, fld_lit, Nat.reduceSub] <;> rfl

theorem bne (o : BitVec 12) (b : BitVec 5) (a : BitVec 5) : Statement (.bne o b a) := by
  refine ⟨fun w e => ?_, fun h e => (nomatch e)⟩
  cases e
  refine ⟨by simp (disch := decide) only [fld_lo, fld_hi, fld_all, fld_lit, Nat.reduceSub] <;> rfl, ?_⟩
  rw [major6 _ (by simp (disch := decide) only [fld_lo, fld_hi, fld_all, fld_lit, Nat.reduceSub]; rfl)]
  unfold parseMajor6
  rw [show BitVec.toNat (fld (cat 32 (cat 25 (cat 20 (cat 15 o 1#3) b) a) 27#7) 17 3) = 1 by simp (disch := decide) only [fld_lo, fld_hi, fld_all, fld_lit, Nat.reduceSub]; rfl]
  simp (disch := decide) only [fld_lo, fld_hi, fld_all, fld_lit, Nat.reduceSub] <;> rfl

theorem blt (o : BitVec 12) (b : BitVec 5) (a : BitVec 5) : Statement (.blt o b a) := by
  refine ⟨fun w e => ?_, fun h e => (nomatch e)⟩
  cases e
  refine ⟨by simp (disch := decide) only [fld_lo, fld_hi, fld_all, fld_lit, Nat.reduceSub] <;> rfl, ?_⟩
  rw [major6 _ (by simp (disch := decide) only [fld_lo, fld_hi, fld_all, fld_lit, Nat.reduceSub]; rfl)]
  unfold parseMajor6
  rw [show BitVec.toNat (fld (cat 32 (cat 25 (cat 20 (cat 15 o 2#3) b) a) 27#7) 17 3) = 2 by simp (disch := decide) only [fld_lo, fld_hi, fld_all, fld_lit, Nat.reduceSub]; rfl]
  simp (disch := decide) only [fld_lo, fld_hi, fld_all, fld_lit, Nat.reduceSub] <;> rfl

theorem bge (o : BitVec 12) (b : BitVec 5) (a : BitVec 5) : Statement (.bge o b a) := by
  refine ⟨fun w e => ?_, fun h e => (nomatch e)⟩
  cases e
  refine ⟨by simp (disch := decide) only [fld_lo, fld_hi, fld_all, fld_lit, Nat.reduceSub] <;> rfl, ?_⟩
  rw [major6 _ (by simp (disch := decide) only [fld_lo, fld_hi, fld_all, fld_lit, Nat.reduceSub]; rfl)]
  unfold parseMajor6
  rw [show BitVec.toNat (fld (cat 32 (cat 25 (cat 20 (cat 15 o 3#3) b) a) 27#7) 17 3) = 3 by simp (disch := decide) only [fld_lo, fld_hi, fld_all, fld_lit, Nat.reduceSub]; rfl]
  simp (disch := decide) only [fld_lo, fld_hi, fld_all, fld_lit, Nat.reduceSub] <;> rfl

theorem bltn (o : BitVec 12) (b : BitVec 5) (a : BitVec 5) : Statement (.bltn o b a) := by
  refine ⟨fun w e => ?_, fun h e => (nomatch e)⟩
  cases e
  refine ⟨by simp (disch := decide) only [fld_lo, fld_hi, fld_all, fld_lit, Nat.reduceSub] <;> rfl, ?_⟩
  rw [major6 _ (by simp (disch := decide) only [fld_lo, fld_hi, fld_all, fld_lit, Nat.reduceSub]; rfl)]
  unfold parseMajor6
  rw [show BitVec.toNat (fld (cat 32 (cat 25 (cat 20 (cat 15 o 4#3) b) a) 27#7) 17 3) = 4 by simp (disch := decide) only [fld_lo, fld_hi, fld_all, fld_lit, Nat.reduceSub]; rfl]
  simp (disch := decide) only [fld_lo, fld_hi, fld_all, fld_lit, Nat.reduceSub] <;> rfl

theorem bgen (o : BitVec 12) (b : BitVec 5) (a : BitVec 5) : Statement (.bgen o b a) := by
  refine ⟨fun w e => ?_, fun h e => (nomatch e)⟩
  cases e
  refine ⟨by simp (disch := decide) only [fld_lo, fld_hi, fld_all, fld_lit, Nat.reduceSub] <;> rfl, ?_⟩
  rw [major6 _ (by simp (disch := decide) only [fld_lo, fld_hi, fld_all, fld_lit, Nat.reduceSub]; rfl)]
  unfold parseMajor6
  rw [show BitVec.toNat (fld (cat 32 (cat 25 (cat 20 (cat 15 o 5#3) b) a) 27#7) 17 3) = 5 by simp (disch := decide) only [fld_lo, fld_hi, fld_all, fld_lit, Nat.reduceSub]; rfl]
  simp (disch := decide) only [fld_lo, fld_hi, fld_all, fld_lit, Nat.reduceSub] <;> rfl

theorem bqt (o : BitVec 12) : Statement (.bqt o) := by
  refine ⟨fun w e => ?_, fun h e => (nomatch e)⟩
  cases e
  refine ⟨by simp (disch := decide) only [fld_lo, fld_hi, fld_all, fld_lit, Nat.reduceSub] <;> rfl, ?_⟩
  rw [major6 _ (by simp (disch := decide) only [fld_lo, fld_hi, fld_all, fld_lit, Nat.reduceSub]; rfl)]
  unfold parseMajor6
  rw [show BitVec.toNat (fld (cat 32 o 786459#20) 17 3) = 6 by simp (disch := decide) only [fld_lo, fld_hi, fld_all, fld_lit, Nat.reduceSub]; rfl]
  simp (disch := decide) only [fld_lo, fld_hi, fld_all, fld_lit, Nat.reduceSub] <;> rfl

theorem bqf (o : BitVec 12) : Statement (.bqf o) := by
  refine ⟨fun w e => ?_, fun h e => (nomatch e)⟩
  cases e
  refine ⟨by simp (disch := decide) only [fld_lo, fld_hi, fld_all, fld_lit, Nat.reduceSub] <;> rfl, ?_⟩
  rw [major6 _ (by simp (disch := decide) only [fld_lo, fld_hi, fld_all, fld_lit, Nat.reduceSub]; rfl)]
  unfold parseMajor6
  rw [show BitVec.toNat (fld (cat 32 o 917531#20) 17 3) = 7 by simp (disch := decide) only [fld_lo, fld_hi, fld_all, fld_lit, Nat.reduceSub]; rfl]
  simp (disch := decide) only [fld_lo, fld_hi, fld_all, fld_lit, Nat.reduceSub] <;> rfl

theorem jal (o : BitVec 20) (d : BitVec 5) : Statement (.jal o d) := by
  refine ⟨fun w e => ?_, fun h e => (nomatch e)⟩
  cases e
  refine ⟨by simp (disch := decide) only [fld_lo, fld_hi, fld_all, fld_lit, Nat.reduceSub] <;> rfl, ?_⟩
  rw [major7 _ (by simp (disch := decide) only [fld_lo, fld_hi, fld_all, fld_lit, Nat.reduceSub]; rfl)]
  unfold parseMajor7
  simp (disch := decide) only [fld_lo, fld_hi, fld_all, fld_lit, Nat.reduceSub] <;> rfl

theorem jalr (i : BitVec 12) (a : BitVec 5) (d : BitVec 5) : Statement (.jalr i a d) := by
  refine ⟨fun w e => ?_, fun h e => (nomatch e)⟩
  cases e
  refine ⟨by simp (disch := decide) only [fld_lo, fld_hi, fld_all, fld_lit, Nat.reduceSub] <;> rfl, ?_⟩
  rw [major8 _ (by simp (disch := decide) only [fld_lo, fld_hi, fld_all, fld_lit, Nat.reduceSub]; rfl)]
  unfold parseMajor8
  rw [show BitVec.toNat (fld (cat 32 (cat 25 (cat 20 (cat 15 i 0#3) a) d) 35#7) 17 3) = 0 by simp (disch := decide) only [fld_lo, fld_hi, fld_all, fld_lit, Nat.reduceSub]; rfl]
  simp (disch := decide) only [fld_lo, fld_hi, fld_all, fld_lit, Nat.reduceSub] <;> rfl

theorem amoSwap (w : BitVec 1) (s : BitVec 4) (o : BitVec 2) (b : BitVec 5) (a : BitVec 5) (d : BitVec 5) : Statement (.amoSwap w s o b a d) := by
  refine ⟨fun w e => ?_, fun h e => (nomatch e)⟩
  cases e
  refine ⟨by simp (disch := decide) only [fld_lo, fld_hi, fld_all, fld_lit, Nat.reduceSub] <;> rfl, ?_⟩
  rw [major9 _ (by simp (disch := decide) only [fld_lo, fld_hi, fld_all, fld_lit, Nat.reduceSub]; rfl)]
  unfold parseMajor9
  rw [show BitVec.toNat (fld (cat 32 (cat 25 (cat 20 (cat 15 (cat 10 (cat 7 (cat 5 w s) o) 0#3) b) a) d) 39#7) 22 3) = 0 by simp (disch := decide) only [fld_lo, fld_hi, fld_all, fld_lit, Nat.reduceSub]; rfl]
  simp (disch := decide) only [fld_lo, fld_hi, fld_all, fld_lit, Nat.reduceSub] <;> rfl

theorem amoAdd (w : BitVec 1) (s : BitVec 4) (o : BitVec 2) (b : BitVec 5) (a : BitVec 5) (d : BitVec 5) : Statement (.amoAdd w s o b a d) := by
  refine ⟨fun w e => ?_, fun h e => (nomatch e)⟩
  cases e
  refine ⟨by simp (disch := decide) only [fld_lo, fld_hi, fld_all, fld_lit, Nat.reduceSub] <;> rfl, ?_⟩
  rw [major9 _ (by simp (disch := decide) only [fld_lo, fld_hi, fld_all, fld_lit, Nat.reduceSub]; rfl)]
  unfold parseMajor9
  rw [show BitVec.toNat (fld (cat 32 (cat 25 (cat 20 (cat 15 (cat 10 (cat 7 (cat 5 w s) o) 1#3) b) a) d) 39#7) 22 3) = 1 by simp (disch := decide) only [fld_lo, fld_hi, fld_all, fld_lit, Nat.reduceSub]; rfl]
  simp (disch := decide) only [fld_lo, fld_hi, fld_all, fld_lit, Nat.reduceSub] <;> rfl

theorem amoAnd (w : BitVec 1) (s : BitVec 4) (o : BitVec 2) (b : BitVec 5) (a : BitVec 5) (d : BitVec 5) : Statement (.amoAnd w s o b a d) := by
  refine ⟨fun w e => ?_, fun h e => (nomatch e)⟩
  cases e
  refine ⟨by simp (disch := decide) only [fld_lo, fld_hi, fld_all, fld_lit, Nat.reduceSub] <;> rfl, ?_⟩
  rw [major9 _ (by simp (disch := decide) only [fld_lo, fld_hi, fld_all, fld_lit, Nat.reduceSub]; rfl)]
  unfold parseMajor9
  rw [show BitVec.toNat (fld (cat 32 (cat 25 (cat 20 (cat 15 (cat 10 (cat 7 (cat 5 w s) o) 2#3) b) a) d) 39#7) 22 3) = 2 by simp (disch := decide) only [fld_lo, fld_hi, fld_all, fld_lit, Nat.reduceSub]; rfl]
  simp (disch := decide) only [fld_lo, fld_hi, fld_all, fld_lit, Nat.reduceSub] <;> rfl

theorem amoOr (w : BitVec 1) (s : BitVec 4) (o : BitVec 2) (b : BitVec 5) (a : BitVec 5) (d : BitVec 5) : Statement (.amoOr w s o b a d) := by
  refine ⟨fun w e => ?_, fun h e => (nomatch e)⟩
  cases e
  refine ⟨by simp (disch := decide) only [fld_lo, fld_hi, fld_all, fld_lit, Nat.reduceSub] <;> rfl, ?_⟩
  rw [major9 _ (by simp (disch := decide) only [fld_lo, fld_hi, fld_all, fld_lit, Nat.reduceSub]; rfl)]
  unfold parseMajor9
  rw [show BitVec.toNat (fld (cat 32 (cat 25 (cat 20 (cat 15 (cat 10 (cat 7 (cat 5 w s) o) 3#3) b) a) d) 39#7) 22 3) = 3 by simp (disch := decide) only [fld_lo, fld_hi, fld_all, fld_lit, Nat.reduceSub]; rfl]
  simp (disch := decide) only [fld_lo, fld_hi, fld_all, fld_lit, Nat.reduceSub] <;> rfl

theorem amoXor (w : BitVec 1) (s : BitVec 4) (o : BitVec 2) (b : BitVec 5) (a : BitVec 5) (d : BitVec 5) : Statement (.amoXor w s o b a d) := by
  refine ⟨fun w e => ?_, fun h e => (nomatch e)⟩
  cases e
  refine ⟨by simp (disch := decide) only [fld_lo, fld_hi, fld_all, fld_lit, Nat.reduceSub] <;> rfl, ?_⟩
  rw [major9 _ (by simp (disch := decide) only [fld_lo, fld_hi, fld_all, fld_lit, Nat.reduceSub]; rfl)]
  unfold parseMajor9
  rw [show BitVec.toNat (fld (cat 32 (cat 25 (cat 20 (cat 15 (cat 10 (cat 7 (cat 5 w s) o) 4#3) b) a) d) 39#7) 22 3) = 4 by simp (disch := decide) only [fld_lo, fld_hi, fld_all, fld_lit, Nat.reduceSub]; rfl]
  simp (disch := decide) only [fld_lo, fld_hi, fld_all, fld_lit, Nat.reduceSub] <;> rfl

theorem amoMax (w : BitVec 1) (s : BitVec 4) (o : BitVec 2) (b : BitVec 5) (a : BitVec 5) (d : BitVec 5) : Statement (.amoMax w s o b a d) := by
  refine ⟨fun w e => ?_, fun h e => (nomatch e)⟩
  cases e
  refine ⟨by simp (disch := decide) only [fld_lo, fld_hi, fld_all, fld_lit, Nat.reduceSub] <;> rfl, ?_⟩
  rw [major9 _ (by simp (disch := decide) only [fld_lo, fld_hi, fld_all, fld_lit, Nat.reduceSub]; rfl)]
  unfold parseMajor9
  rw [show BitVec.toNat (fld (cat 32 (cat 25 (cat 20 (cat 15 (cat 10 (cat 7 (cat 5 w s) o) 5#3) b) a) d) 39#7) 22 3) = 5 by simp (disch := decide) only [fld_lo, fld_hi, fld_all, fld_lit, Nat.reduceSub]; rfl]
  simp (disch := decide) only [fld_lo, fld_hi, fld_all, fld_lit, Nat.reduceSub] <;> rfl

theorem amoMin (w : BitVec 1) (s : BitVec 4) (o : BitVec 2) (b : BitVec 5) (a : BitVec 5) (d : BitVec 5) : Statement (.amoMin w s o b a d) := by
  refine ⟨fun w e => ?_, fun h e => (nomatch e)⟩
  cases e
  refine ⟨by simp (disch := decide) only [fld_lo, fld_hi, fld_all, fld_lit, Nat.reduceSub] <;> rfl, ?_⟩
  rw [major9 _ (by simp (disch := decide) only [fld_lo, fld_hi, fld_all, fld_lit, Nat.reduceSub]; rfl)]
  unfold parseMajor9
  rw [show BitVec.toNat (fld (cat 32 (cat 25 (cat 20 (cat 15 (cat 10 (cat 7 (cat 5 w s) o) 6#3) b) a) d) 39#7) 22 3) = 6 by simp (disch := decide) only [fld_lo, fld_hi, fld_all, fld_lit, Nat.reduceSub]; rfl]
  simp (disch := decide) only [fld_lo, fld_hi, fld_all, fld_lit, Nat.reduceSub] <;> rfl

theorem amoCas (w : BitVec 1) (s : BitVec 4) (o : BitVec 2) (b : BitVec 5) (a : BitVec 5) (d : BitVec 5) : Statement (.amoCas w s o b a d) := by
  refine ⟨fun w e => ?_, fun h e => (nomatch e)⟩
  cases e
  refine ⟨by simp (disch := decide) only [fld_lo, fld_hi, fld_all, fld_lit, Nat.reduceSub] <;> rfl, ?_⟩
  rw [major9 _ (by simp (disch := decide) only [fld_lo, fld_hi, fld_all, fld_lit, Nat.reduceSub]; rfl)]
  unfold parseMajor9
  rw [show BitVec.toNat (fld (cat 32 (cat 25 (cat 20 (cat 15 (cat 10 (cat 7 (cat 5 w s) o) 7#3) b) a) d) 39#7) 22 3) = 7 by simp (disch := decide) only [fld_lo, fld_hi, fld_all, fld_lit, Nat.reduceSub]; rfl]
  simp (disch := decide) only [fld_lo, fld_hi, fld_all, fld_lit, Nat.reduceSub] <;> rfl

theorem fenceRel (m : BitVec 16) (r : BitVec 1) (s : BitVec 4) : Statement (.fenceRel m r s) := by
  refine ⟨fun w e => ?_, fun h e => (nomatch e)⟩
  cases e
  refine ⟨by simp (disch := decide) only [fld_lo, fld_hi, fld_all, fld_lit, Nat.reduceSub] <;> rfl, ?_⟩
  rw [major10 _ (by simp (disch := decide) only [fld_lo, fld_hi, fld_all, fld_lit, Nat.reduceSub]; rfl)]
  unfold parseMajor10
  rw [show BitVec.toNat (fld (cat 32 (cat 25 (cat 21 (cat 19 (cat 18 0#2 m) r) 0#2) s) 43#7) 11 2) = 0 by simp (disch := decide) only [fld_lo, fld_hi, fld_all, fld_lit, Nat.reduceSub]; rfl]
  simp (disch := decide) only [fld_lo, fld_hi, fld_all, fld_lit, Nat.reduceSub] <;> rfl

theorem fenceAcq (m : BitVec 16) (r : BitVec 1) (s : BitVec 4) : Statement (.fenceAcq m r s) := by
  refine ⟨fun w e => ?_, fun h e => (nomatch e)⟩
  cases e
  refine ⟨by simp (disch := decide) only [fld_lo, fld_hi, fld_all, fld_lit, Nat.reduceSub] <;> rfl, ?_⟩
  rw [major10 _ (by simp (disch := decide) only [fld_lo, fld_hi, fld_all, fld_lit, Nat.reduceSub]; rfl)]
  unfold parseMajor10
  rw [show BitVec.toNat (fld (cat 32 (cat 25 (cat 21 (cat 19 (cat 18 0#2 m) r) 1#2) s) 43#7) 11 2) = 1 by simp (disch := decide) only [fld_lo, fld_hi, fld_all, fld_lit, Nat.reduceSub]; rfl]
  simp (disch := decide) only [fld_lo, fld_hi, fld_all, fld_lit, Nat.reduceSub] <;> rfl

theorem fenceFull (m : BitVec 16) (r : BitVec 1) (s : BitVec 4) : Statement (.fenceFull m r s) := by
  refine ⟨fun w e => ?_, fun h e => (nomatch e)⟩
  cases e
  refine ⟨by simp (disch := decide) only [fld_lo, fld_hi, fld_all, fld_lit, Nat.reduceSub] <;> rfl, ?_⟩
  rw [major10 _ (by simp (disch := decide) only [fld_lo, fld_hi, fld_all, fld_lit, Nat.reduceSub]; rfl)]
  unfold parseMajor10
  rw [show BitVec.toNat (fld (cat 32 (cat 25 (cat 21 (cat 19 (cat 18 0#2 m) r) 2#2) s) 43#7) 11 2) = 2 by simp (disch := decide) only [fld_lo, fld_hi, fld_all, fld_lit, Nat.reduceSub]; rfl]
  simp (disch := decide) only [fld_lo, fld_hi, fld_all, fld_lit, Nat.reduceSub] <;> rfl

theorem qfence (q : BitVec 7) : Statement (.qfence q) := by
  refine ⟨fun w e => ?_, fun h e => (nomatch e)⟩
  cases e
  refine ⟨by simp (disch := decide) only [fld_lo, fld_hi, fld_all, fld_lit, Nat.reduceSub] <;> rfl, ?_⟩
  rw [major10 _ (by simp (disch := decide) only [fld_lo, fld_hi, fld_all, fld_lit, Nat.reduceSub]; rfl)]
  unfold parseMajor10
  rw [show BitVec.toNat (fld (cat 32 (cat 18 0#11 q) 6187#14) 11 2) = 3 by simp (disch := decide) only [fld_lo, fld_hi, fld_all, fld_lit, Nat.reduceSub]; rfl]
  simp (disch := decide) only [fld_lo, fld_hi, fld_all, fld_lit, Nat.reduceSub] <;> rfl

theorem rdef (b : BitVec 5) (a : BitVec 5) (d : BitVec 4) : Statement (.rdef b a d) := by
  refine ⟨fun w e => ?_, fun h e => (nomatch e)⟩
  cases e
  refine ⟨by simp (disch := decide) only [fld_lo, fld_hi, fld_all, fld_lit, Nat.reduceSub] <;> rfl, ?_⟩
  rw [major11 _ (by simp (disch := decide) only [fld_lo, fld_hi, fld_all, fld_lit, Nat.reduceSub]; rfl)]
  unfold parseMajor11
  rw [show BitVec.toNat (fld (cat 32 (cat 25 (cat 21 (cat 20 (cat 15 0#10 b) a) 0#1) d) 47#7) 22 5) = 0 by simp (disch := decide) only [fld_lo, fld_hi, fld_all, fld_lit, Nat.reduceSub]; rfl]
  simp (disch := decide) only [fld_lo, fld_hi, fld_all, fld_lit, Nat.reduceSub] <;> rfl

theorem hdef (a : BitVec 5) (d : BitVec 4) : Statement (.hdef a d) := by
  refine ⟨fun w e => ?_, fun h e => (nomatch e)⟩
  cases e
  refine ⟨by simp (disch := decide) only [fld_lo, fld_hi, fld_all, fld_lit, Nat.reduceSub] <;> rfl, ?_⟩
  rw [major11 _ (by simp (disch := decide) only [fld_lo, fld_hi, fld_all, fld_lit, Nat.reduceSub]; rfl)]
  unfold parseMajor11
  rw [show BitVec.toNat (fld (cat 32 (cat 25 (cat 21 (cat 20 32#15 a) 0#1) d) 47#7) 22 5) = 1 by simp (disch := decide) only [fld_lo, fld_hi, fld_all, fld_lit, Nat.reduceSub]; rfl]
  simp (disch := decide) only [fld_lo, fld_hi, fld_all, fld_lit, Nat.reduceSub] <;> rfl

theorem rclr (d : BitVec 4) : Statement (.rclr d) := by
  refine ⟨fun w e => ?_, fun h e => (nomatch e)⟩
  cases e
  refine ⟨by simp (disch := decide) only [fld_lo, fld_hi, fld_all, fld_lit, Nat.reduceSub] <;> rfl, ?_⟩
  rw [major11 _ (by simp (disch := decide) only [fld_lo, fld_hi, fld_all, fld_lit, Nat.reduceSub]; rfl)]
  unfold parseMajor11
  rw [show BitVec.toNat (fld (cat 32 (cat 25 4096#21 d) 47#7) 22 5) = 2 by simp (disch := decide) only [fld_lo, fld_hi, fld_all, fld_lit, Nat.reduceSub]; rfl]
  simp (disch := decide) only [fld_lo, fld_hi, fld_all, fld_lit, Nat.reduceSub] <;> rfl

theorem ldaq (w : BitVec 1) (s : BitVec 4) (b : BitVec 5) (a : BitVec 5) (d : BitVec 5) : Statement (.ldaq w s b a d) := by
  refine ⟨fun w e => ?_, fun h e => (nomatch e)⟩
  cases e
  refine ⟨by simp (disch := decide) only [fld_lo, fld_hi, fld_all, fld_lit, Nat.reduceSub] <;> rfl, ?_⟩
  rw [major11 _ (by simp (disch := decide) only [fld_lo, fld_hi, fld_all, fld_lit, Nat.reduceSub]; rfl)]
  unfold parseMajor11
  rw [show BitVec.toNat (fld (cat 32 (cat 25 (cat 20 (cat 15 (cat 10 (cat 5 w s) 3#5) b) a) d) 47#7) 22 5) = 3 by simp (disch := decide) only [fld_lo, fld_hi, fld_all, fld_lit, Nat.reduceSub]; rfl]
  simp (disch := decide) only [fld_lo, fld_hi, fld_all, fld_lit, Nat.reduceSub] <;> rfl

theorem strl (w : BitVec 1) (s : BitVec 4) (b : BitVec 5) (a : BitVec 5) (d : BitVec 5) : Statement (.strl w s b a d) := by
  refine ⟨fun w e => ?_, fun h e => (nomatch e)⟩
  cases e
  refine ⟨by simp (disch := decide) only [fld_lo, fld_hi, fld_all, fld_lit, Nat.reduceSub] <;> rfl, ?_⟩
  rw [major11 _ (by simp (disch := decide) only [fld_lo, fld_hi, fld_all, fld_lit, Nat.reduceSub]; rfl)]
  unfold parseMajor11
  rw [show BitVec.toNat (fld (cat 32 (cat 25 (cat 20 (cat 15 (cat 10 (cat 5 w s) 4#5) b) a) d) 47#7) 22 5) = 4 by simp (disch := decide) only [fld_lo, fld_hi, fld_all, fld_lit, Nat.reduceSub]; rfl]
  simp (disch := decide) only [fld_lo, fld_hi, fld_all, fld_lit, Nat.reduceSub] <;> rfl

theorem rstat (a : BitVec 5) (d : BitVec 5) : Statement (.rstat a d) := by
  refine ⟨fun w e => ?_, fun h e => (nomatch e)⟩
  cases e
  refine ⟨by simp (disch := decide) only [fld_lo, fld_hi, fld_all, fld_lit, Nat.reduceSub] <;> rfl, ?_⟩
  rw [major11 _ (by simp (disch := decide) only [fld_lo, fld_hi, fld_all, fld_lit, Nat.reduceSub]; rfl)]
  unfold parseMajor11
  rw [show BitVec.toNat (fld (cat 32 (cat 25 (cat 20 160#15 a) d) 47#7) 22 5) = 5 by simp (disch := decide) only [fld_lo, fld_hi, fld_all, fld_lit, Nat.reduceSub]; rfl]
  simp (disch := decide) only [fld_lo, fld_hi, fld_all, fld_lit, Nat.reduceSub] <;> rfl

theorem qput (a : BitVec 5) (q : BitVec 2) : Statement (.qput a q) := by
  refine ⟨fun w e => ?_, fun h e => (nomatch e)⟩
  cases e
  refine ⟨by simp (disch := decide) only [fld_lo, fld_hi, fld_all, fld_lit, Nat.reduceSub] <;> rfl, ?_⟩
  rw [major12 _ (by simp (disch := decide) only [fld_lo, fld_hi, fld_all, fld_lit, Nat.reduceSub]; rfl)]
  unfold parseMajor12
  rw [show BitVec.toNat (fld (cat 32 (cat 25 (cat 23 (cat 20 0#15 a) 0#3) q) 51#7) 22 5) = 0 by simp (disch := decide) only [fld_lo, fld_hi, fld_all, fld_lit, Nat.reduceSub]; rfl]
  simp (disch := decide) only [fld_lo, fld_hi, fld_all, fld_lit, Nat.reduceSub] <;> rfl

theorem qget (q : BitVec 1) (d : BitVec 5) : Statement (.qget q d) := by
  refine ⟨fun w e => ?_, fun h e => (nomatch e)⟩
  cases e
  refine ⟨by simp (disch := decide) only [fld_lo, fld_hi, fld_all, fld_lit, Nat.reduceSub] <;> rfl, ?_⟩
  rw [major12 _ (by simp (disch := decide) only [fld_lo, fld_hi, fld_all, fld_lit, Nat.reduceSub]; rfl)]
  unfold parseMajor12
  rw [show BitVec.toNat (fld (cat 32 (cat 25 (cat 20 514#19 q) d) 51#7) 22 5) = 1 by simp (disch := decide) only [fld_lo, fld_hi, fld_all, fld_lit, Nat.reduceSub]; rfl]
  simp (disch := decide) only [fld_lo, fld_hi, fld_all, fld_lit, Nat.reduceSub] <;> rfl

theorem scfg (s : BitVec 2) : Statement (.scfg s) := by
  refine ⟨fun w e => ?_, fun h e => (nomatch e)⟩
  cases e
  refine ⟨by simp (disch := decide) only [fld_lo, fld_hi, fld_all, fld_lit, Nat.reduceSub] <;> rfl, ?_⟩
  rw [major12 _ (by simp (disch := decide) only [fld_lo, fld_hi, fld_all, fld_lit, Nat.reduceSub]; rfl)]
  unfold parseMajor12
  rw [show BitVec.toNat (fld (cat 32 (cat 25 16384#23 s) 51#7) 22 5) = 2 by simp (disch := decide) only [fld_lo, fld_hi, fld_all, fld_lit, Nat.reduceSub]; rfl]
  simp (disch := decide) only [fld_lo, fld_hi, fld_all, fld_lit, Nat.reduceSub] <;> rfl

theorem sbind (s : BitVec 2) : Statement (.sbind s) := by
  refine ⟨fun w e => ?_, fun h e => (nomatch e)⟩
  cases e
  refine ⟨by simp (disch := decide) only [fld_lo, fld_hi, fld_all, fld_lit, Nat.reduceSub] <;> rfl, ?_⟩
  rw [major12 _ (by simp (disch := decide) only [fld_lo, fld_hi, fld_all, fld_lit, Nat.reduceSub]; rfl)]
  unfold parseMajor12
  rw [show BitVec.toNat (fld (cat 32 (cat 25 24576#23 s) 51#7) 22 5) = 3 by simp (disch := decide) only [fld_lo, fld_hi, fld_all, fld_lit, Nat.reduceSub]; rfl]
  simp (disch := decide) only [fld_lo, fld_hi, fld_all, fld_lit, Nat.reduceSub] <;> rfl

theorem sunb (s : BitVec 2) : Statement (.sunb s) := by
  refine ⟨fun w e => ?_, fun h e => (nomatch e)⟩
  cases e
  refine ⟨by simp (disch := decide) only [fld_lo, fld_hi, fld_all, fld_lit, Nat.reduceSub] <;> rfl, ?_⟩
  rw [major12 _ (by simp (disch := decide) only [fld_lo, fld_hi, fld_all, fld_lit, Nat.reduceSub]; rfl)]
  unfold parseMajor12
  rw [show BitVec.toNat (fld (cat 32 (cat 25 32768#23 s) 51#7) 22 5) = 4 by simp (disch := decide) only [fld_lo, fld_hi, fld_all, fld_lit, Nat.reduceSub]; rfl]
  simp (disch := decide) only [fld_lo, fld_hi, fld_all, fld_lit, Nat.reduceSub] <;> rfl

theorem swait (s : BitVec 2) : Statement (.swait s) := by
  refine ⟨fun w e => ?_, fun h e => (nomatch e)⟩
  cases e
  refine ⟨by simp (disch := decide) only [fld_lo, fld_hi, fld_all, fld_lit, Nat.reduceSub] <;> rfl, ?_⟩
  rw [major12 _ (by simp (disch := decide) only [fld_lo, fld_hi, fld_all, fld_lit, Nat.reduceSub]; rfl)]
  unfold parseMajor12
  rw [show BitVec.toNat (fld (cat 32 (cat 25 40960#23 s) 51#7) 22 5) = 5 by simp (disch := decide) only [fld_lo, fld_hi, fld_all, fld_lit, Nat.reduceSub]; rfl]
  simp (disch := decide) only [fld_lo, fld_hi, fld_all, fld_lit, Nat.reduceSub] <;> rfl

theorem mfs (n : BitVec 12) (d : BitVec 5) : Statement (.mfs n d) := by
  refine ⟨fun w e => ?_, fun h e => (nomatch e)⟩
  cases e
  refine ⟨by simp (disch := decide) only [fld_lo, fld_hi, fld_all, fld_lit, Nat.reduceSub] <;> rfl, ?_⟩
  rw [major13 _ (by simp (disch := decide) only [fld_lo, fld_hi, fld_all, fld_lit, Nat.reduceSub]; rfl)]
  unfold parseMajor13
  rw [show BitVec.toNat (fld (cat 32 (cat 25 (cat 20 n 0#8) d) 55#7) 17 3) = 0 by simp (disch := decide) only [fld_lo, fld_hi, fld_all, fld_lit, Nat.reduceSub]; rfl]
  simp (disch := decide) only [fld_lo, fld_hi, fld_all, fld_lit, Nat.reduceSub] <;> rfl

theorem mts (n : BitVec 12) (a : BitVec 5) : Statement (.mts n a) := by
  refine ⟨fun w e => ?_, fun h e => (nomatch e)⟩
  cases e
  refine ⟨by simp (disch := decide) only [fld_lo, fld_hi, fld_all, fld_lit, Nat.reduceSub] <;> rfl, ?_⟩
  rw [major13 _ (by simp (disch := decide) only [fld_lo, fld_hi, fld_all, fld_lit, Nat.reduceSub]; rfl)]
  unfold parseMajor13
  rw [show BitVec.toNat (fld (cat 32 (cat 20 (cat 15 n 1#3) a) 55#12) 17 3) = 1 by simp (disch := decide) only [fld_lo, fld_hi, fld_all, fld_lit, Nat.reduceSub]; rfl]
  simp (disch := decide) only [fld_lo, fld_hi, fld_all, fld_lit, Nat.reduceSub] <;> rfl

theorem lox (o : BitVec 3) (d : BitVec 5) : Statement (.lox o d) := by
  refine ⟨fun w e => ?_, fun h e => (nomatch e)⟩
  cases e
  refine ⟨by simp (disch := decide) only [fld_lo, fld_hi, fld_all, fld_lit, Nat.reduceSub] <;> rfl, ?_⟩
  rw [major13 _ (by simp (disch := decide) only [fld_lo, fld_hi, fld_all, fld_lit, Nat.reduceSub]; rfl)]
  unfold parseMajor13
  rw [show BitVec.toNat (fld (cat 32 (cat 25 (cat 20 (cat 12 0#9 o) 64#8) d) 55#7) 17 3) = 2 by simp (disch := decide) only [fld_lo, fld_hi, fld_all, fld_lit, Nat.reduceSub]; rfl]
  simp (disch := decide) only [fld_lo, fld_hi, fld_all, fld_lit, Nat.reduceSub] <;> rfl

theorem mox (o : BitVec 3) (a : BitVec 5) : Statement (.mox o a) := by
  refine ⟨fun w e => ?_, fun h e => (nomatch e)⟩
  cases e
  refine ⟨by simp (disch := decide) only [fld_lo, fld_hi, fld_all, fld_lit, Nat.reduceSub] <;> rfl, ?_⟩
  rw [major13 _ (by simp (disch := decide) only [fld_lo, fld_hi, fld_all, fld_lit, Nat.reduceSub]; rfl)]
  unfold parseMajor13
  rw [show BitVec.toNat (fld (cat 32 (cat 20 (cat 15 (cat 12 0#9 o) 3#3) a) 55#12) 17 3) = 3 by simp (disch := decide) only [fld_lo, fld_hi, fld_all, fld_lit, Nat.reduceSub]; rfl]
  simp (disch := decide) only [fld_lo, fld_hi, fld_all, fld_lit, Nat.reduceSub] <;> rfl

theorem spawn (t : BitVec 1) (a : BitVec 5) (d : BitVec 5) : Statement (.spawn t a d) := by
  refine ⟨fun w e => ?_, fun h e => (nomatch e)⟩
  cases e
  refine ⟨by simp (disch := decide) only [fld_lo, fld_hi, fld_all, fld_lit, Nat.reduceSub] <;> rfl, ?_⟩
  rw [major14 _ (by simp (disch := decide) only [fld_lo, fld_hi, fld_all, fld_lit, Nat.reduceSub]; rfl)]
  unfold parseMajor14
  rw [show BitVec.toNat (fld (cat 32 (cat 25 (cat 20 (cat 15 (cat 5 0#4 t) 0#10) a) d) 59#7) 22 5) = 0 by simp (disch := decide) only [fld_lo, fld_hi, fld_all, fld_lit, Nat.reduceSub]; rfl]
  simp (disch := decide) only [fld_lo, fld_hi, fld_all, fld_lit, Nat.reduceSub] <;> rfl

theorem kill (b : BitVec 5) (a : BitVec 5) : Statement (.kill b a) := by
  refine ⟨fun w e => ?_, fun h e => (nomatch e)⟩
  cases e
  refine ⟨by simp (disch := decide) only [fld_lo, fld_hi, fld_all, fld_lit, Nat.reduceSub] <;> rfl, ?_⟩
  rw [major14 _ (by simp (disch := decide) only [fld_lo, fld_hi, fld_all, fld_lit, Nat.reduceSub]; rfl)]
  unfold parseMajor14
  rw [show BitVec.toNat (fld (cat 32 (cat 20 (cat 15 1#10 b) a) 59#12) 22 5) = 1 by simp (disch := decide) only [fld_lo, fld_hi, fld_all, fld_lit, Nat.reduceSub]; rfl]
  simp (disch := decide) only [fld_lo, fld_hi, fld_all, fld_lit, Nat.reduceSub] <;> rfl

theorem exit (a : BitVec 5) : Statement (.exit a) := by
  refine ⟨fun w e => ?_, fun h e => (nomatch e)⟩
  cases e
  refine ⟨by simp (disch := decide) only [fld_lo, fld_hi, fld_all, fld_lit, Nat.reduceSub] <;> rfl, ?_⟩
  rw [major14 _ (by simp (disch := decide) only [fld_lo, fld_hi, fld_all, fld_lit, Nat.reduceSub]; rfl)]
  unfold parseMajor14
  rw [show BitVec.toNat (fld (cat 32 (cat 20 64#15 a) 59#12) 22 5) = 2 by simp (disch := decide) only [fld_lo, fld_hi, fld_all, fld_lit, Nat.reduceSub]; rfl]
  simp (disch := decide) only [fld_lo, fld_hi, fld_all, fld_lit, Nat.reduceSub] <;> rfl

theorem link (a : BitVec 5) : Statement (.link a) := by
  refine ⟨fun w e => ?_, fun h e => (nomatch e)⟩
  cases e
  refine ⟨by simp (disch := decide) only [fld_lo, fld_hi, fld_all, fld_lit, Nat.reduceSub] <;> rfl, ?_⟩
  rw [major14 _ (by simp (disch := decide) only [fld_lo, fld_hi, fld_all, fld_lit, Nat.reduceSub]; rfl)]
  unfold parseMajor14
  rw [show BitVec.toNat (fld (cat 32 (cat 20 96#15 a) 59#12) 22 5) = 3 by simp (disch := decide) only [fld_lo, fld_hi, fld_all, fld_lit, Nat.reduceSub]; rfl]
  simp (disch := decide) only [fld_lo, fld_hi, fld_all, fld_lit, Nat.reduceSub] <;> rfl

theorem unlink (a : BitVec 5) : Statement (.unlink a) := by
  refine ⟨fun w e => ?_, fun h e => (nomatch e)⟩
  cases e
  refine ⟨by simp (disch := decide) only [fld_lo, fld_hi, fld_all, fld_lit, Nat.reduceSub] <;> rfl, ?_⟩
  rw [major14 _ (by simp (disch := decide) only [fld_lo, fld_hi, fld_all, fld_lit, Nat.reduceSub]; rfl)]
  unfold parseMajor14
  rw [show BitVec.toNat (fld (cat 32 (cat 20 128#15 a) 59#12) 22 5) = 4 by simp (disch := decide) only [fld_lo, fld_hi, fld_all, fld_lit, Nat.reduceSub]; rfl]
  simp (disch := decide) only [fld_lo, fld_hi, fld_all, fld_lit, Nat.reduceSub] <;> rfl

theorem mon (a : BitVec 5) (d : BitVec 5) : Statement (.mon a d) := by
  refine ⟨fun w e => ?_, fun h e => (nomatch e)⟩
  cases e
  refine ⟨by simp (disch := decide) only [fld_lo, fld_hi, fld_all, fld_lit, Nat.reduceSub] <;> rfl, ?_⟩
  rw [major14 _ (by simp (disch := decide) only [fld_lo, fld_hi, fld_all, fld_lit, Nat.reduceSub]; rfl)]
  unfold parseMajor14
  rw [show BitVec.toNat (fld (cat 32 (cat 25 (cat 20 160#15 a) d) 59#7) 22 5) = 5 by simp (disch := decide) only [fld_lo, fld_hi, fld_all, fld_lit, Nat.reduceSub]; rfl]
  simp (disch := decide) only [fld_lo, fld_hi, fld_all, fld_lit, Nat.reduceSub] <;> rfl

theorem demon (a : BitVec 5) : Statement (.demon a) := by
  refine ⟨fun w e => ?_, fun h e => (nomatch e)⟩
  cases e
  refine ⟨by simp (disch := decide) only [fld_lo, fld_hi, fld_all, fld_lit, Nat.reduceSub] <;> rfl, ?_⟩
  rw [major14 _ (by simp (disch := decide) only [fld_lo, fld_hi, fld_all, fld_lit, Nat.reduceSub]; rfl)]
  unfold parseMajor14
  rw [show BitVec.toNat (fld (cat 32 (cat 20 192#15 a) 59#12) 22 5) = 6 by simp (disch := decide) only [fld_lo, fld_hi, fld_all, fld_lit, Nat.reduceSub]; rfl]
  simp (disch := decide) only [fld_lo, fld_hi, fld_all, fld_lit, Nat.reduceSub] <;> rfl

theorem trapx (a : BitVec 5) : Statement (.trapx a) := by
  refine ⟨fun w e => ?_, fun h e => (nomatch e)⟩
  cases e
  refine ⟨by simp (disch := decide) only [fld_lo, fld_hi, fld_all, fld_lit, Nat.reduceSub] <;> rfl, ?_⟩
  rw [major14 _ (by simp (disch := decide) only [fld_lo, fld_hi, fld_all, fld_lit, Nat.reduceSub]; rfl)]
  unfold parseMajor14
  rw [show BitVec.toNat (fld (cat 32 (cat 20 224#15 a) 59#12) 22 5) = 7 by simp (disch := decide) only [fld_lo, fld_hi, fld_all, fld_lit, Nat.reduceSub]; rfl]
  simp (disch := decide) only [fld_lo, fld_hi, fld_all, fld_lit, Nat.reduceSub] <;> rfl

theorem supv (a : BitVec 5) : Statement (.supv a) := by
  refine ⟨fun w e => ?_, fun h e => (nomatch e)⟩
  cases e
  refine ⟨by simp (disch := decide) only [fld_lo, fld_hi, fld_all, fld_lit, Nat.reduceSub] <;> rfl, ?_⟩
  rw [major14 _ (by simp (disch := decide) only [fld_lo, fld_hi, fld_all, fld_lit, Nat.reduceSub]; rfl)]
  unfold parseMajor14
  rw [show BitVec.toNat (fld (cat 32 (cat 20 256#15 a) 59#12) 22 5) = 8 by simp (disch := decide) only [fld_lo, fld_hi, fld_all, fld_lit, Nat.reduceSub]; rfl]
  simp (disch := decide) only [fld_lo, fld_hi, fld_all, fld_lit, Nat.reduceSub] <;> rfl

theorem timer (a : BitVec 5) (d : BitVec 5) : Statement (.timer a d) := by
  refine ⟨fun w e => ?_, fun h e => (nomatch e)⟩
  cases e
  refine ⟨by simp (disch := decide) only [fld_lo, fld_hi, fld_all, fld_lit, Nat.reduceSub] <;> rfl, ?_⟩
  rw [major14 _ (by simp (disch := decide) only [fld_lo, fld_hi, fld_all, fld_lit, Nat.reduceSub]; rfl)]
  unfold parseMajor14
  rw [show BitVec.toNat (fld (cat 32 (cat 25 (cat 20 288#15 a) d) 59#7) 22 5) = 9 by simp (disch := decide) only [fld_lo, fld_hi, fld_all, fld_lit, Nat.reduceSub]; rfl]
  simp (disch := decide) only [fld_lo, fld_hi, fld_all, fld_lit, Nat.reduceSub] <;> rfl

theorem tcan (a : BitVec 5) (d : BitVec 5) : Statement (.tcan a d) := by
  refine ⟨fun w e => ?_, fun h e => (nomatch e)⟩
  cases e
  refine ⟨by simp (disch := decide) only [fld_lo, fld_hi, fld_all, fld_lit, Nat.reduceSub] <;> rfl, ?_⟩
  rw [major14 _ (by simp (disch := decide) only [fld_lo, fld_hi, fld_all, fld_lit, Nat.reduceSub]; rfl)]
  unfold parseMajor14
  rw [show BitVec.toNat (fld (cat 32 (cat 25 (cat 20 320#15 a) d) 59#7) 22 5) = 10 by simp (disch := decide) only [fld_lo, fld_hi, fld_all, fld_lit, Nat.reduceSub]; rfl]
  simp (disch := decide) only [fld_lo, fld_hi, fld_all, fld_lit, Nat.reduceSub] <;> rfl

theorem commit : Statement (.commit) := by
  refine ⟨fun w e => ?_, fun h e => (nomatch e)⟩
  cases e
  refine ⟨by simp (disch := decide) only [fld_lo, fld_hi, fld_all, fld_lit, Nat.reduceSub] <;> rfl, ?_⟩
  rw [major14 _ (by simp (disch := decide) only [fld_lo, fld_hi, fld_all, fld_lit, Nat.reduceSub]; rfl)]
  unfold parseMajor14
  rw [show BitVec.toNat (fld (46137403#32) 22 5) = 11 by simp (disch := decide) only [fld_lo, fld_hi, fld_all, fld_lit, Nat.reduceSub]; rfl]
  simp (disch := decide) only [fld_lo, fld_hi, fld_all, fld_lit, Nat.reduceSub] <;> rfl

theorem done : Statement (.done) := by
  refine ⟨fun w e => ?_, fun h e => (nomatch e)⟩
  cases e
  refine ⟨by simp (disch := decide) only [fld_lo, fld_hi, fld_all, fld_lit, Nat.reduceSub] <;> rfl, ?_⟩
  rw [major14 _ (by simp (disch := decide) only [fld_lo, fld_hi, fld_all, fld_lit, Nat.reduceSub]; rfl)]
  unfold parseMajor14
  rw [show BitVec.toNat (fld (50331707#32) 22 5) = 12 by simp (disch := decide) only [fld_lo, fld_hi, fld_all, fld_lit, Nat.reduceSub]; rfl]
  simp (disch := decide) only [fld_lo, fld_hi, fld_all, fld_lit, Nat.reduceSub] <;> rfl

theorem cancel (b : BitVec 5) (a : BitVec 5) : Statement (.cancel b a) := by
  refine ⟨fun w e => ?_, fun h e => (nomatch e)⟩
  cases e
  refine ⟨by simp (disch := decide) only [fld_lo, fld_hi, fld_all, fld_lit, Nat.reduceSub] <;> rfl, ?_⟩
  rw [major14 _ (by simp (disch := decide) only [fld_lo, fld_hi, fld_all, fld_lit, Nat.reduceSub]; rfl)]
  unfold parseMajor14
  rw [show BitVec.toNat (fld (cat 32 (cat 20 (cat 15 13#10 b) a) 59#12) 22 5) = 13 by simp (disch := decide) only [fld_lo, fld_hi, fld_all, fld_lit, Nat.reduceSub]; rfl]
  simp (disch := decide) only [fld_lo, fld_hi, fld_all, fld_lit, Nat.reduceSub] <;> rfl

theorem lvl (b : BitVec 5) (a : BitVec 5) (d : BitVec 5) : Statement (.lvl b a d) := by
  refine ⟨fun w e => ?_, fun h e => (nomatch e)⟩
  cases e
  refine ⟨by simp (disch := decide) only [fld_lo, fld_hi, fld_all, fld_lit, Nat.reduceSub] <;> rfl, ?_⟩
  rw [major14 _ (by simp (disch := decide) only [fld_lo, fld_hi, fld_all, fld_lit, Nat.reduceSub]; rfl)]
  unfold parseMajor14
  rw [show BitVec.toNat (fld (cat 32 (cat 25 (cat 20 (cat 15 14#10 b) a) d) 59#7) 22 5) = 14 by simp (disch := decide) only [fld_lo, fld_hi, fld_all, fld_lit, Nat.reduceSub]; rfl]
  simp (disch := decide) only [fld_lo, fld_hi, fld_all, fld_lit, Nat.reduceSub] <;> rfl

theorem namereg (a : BitVec 5) (d : BitVec 5) : Statement (.namereg a d) := by
  refine ⟨fun w e => ?_, fun h e => (nomatch e)⟩
  cases e
  refine ⟨by simp (disch := decide) only [fld_lo, fld_hi, fld_all, fld_lit, Nat.reduceSub] <;> rfl, ?_⟩
  rw [major14 _ (by simp (disch := decide) only [fld_lo, fld_hi, fld_all, fld_lit, Nat.reduceSub]; rfl)]
  unfold parseMajor14
  rw [show BitVec.toNat (fld (cat 32 (cat 25 (cat 20 480#15 a) d) 59#7) 22 5) = 15 by simp (disch := decide) only [fld_lo, fld_hi, fld_all, fld_lit, Nat.reduceSub]; rfl]
  simp (disch := decide) only [fld_lo, fld_hi, fld_all, fld_lit, Nat.reduceSub] <;> rfl

theorem whereIs (a : BitVec 5) (d : BitVec 5) : Statement (.whereIs a d) := by
  refine ⟨fun w e => ?_, fun h e => (nomatch e)⟩
  cases e
  refine ⟨by simp (disch := decide) only [fld_lo, fld_hi, fld_all, fld_lit, Nat.reduceSub] <;> rfl, ?_⟩
  rw [major14 _ (by simp (disch := decide) only [fld_lo, fld_hi, fld_all, fld_lit, Nat.reduceSub]; rfl)]
  unfold parseMajor14
  rw [show BitVec.toNat (fld (cat 32 (cat 25 (cat 20 512#15 a) d) 59#7) 22 5) = 16 by simp (disch := decide) only [fld_lo, fld_hi, fld_all, fld_lit, Nat.reduceSub]; rfl]
  simp (disch := decide) only [fld_lo, fld_hi, fld_all, fld_lit, Nat.reduceSub] <;> rfl

theorem part (b : BitVec 5) (a : BitVec 5) (d : BitVec 5) : Statement (.part b a d) := by
  refine ⟨fun w e => ?_, fun h e => (nomatch e)⟩
  cases e
  refine ⟨by simp (disch := decide) only [fld_lo, fld_hi, fld_all, fld_lit, Nat.reduceSub] <;> rfl, ?_⟩
  rw [major14 _ (by simp (disch := decide) only [fld_lo, fld_hi, fld_all, fld_lit, Nat.reduceSub]; rfl)]
  unfold parseMajor14
  rw [show BitVec.toNat (fld (cat 32 (cat 25 (cat 20 (cat 15 17#10 b) a) d) 59#7) 22 5) = 17 by simp (disch := decide) only [fld_lo, fld_hi, fld_all, fld_lit, Nat.reduceSub]; rfl]
  simp (disch := decide) only [fld_lo, fld_hi, fld_all, fld_lit, Nat.reduceSub] <;> rfl

theorem rnew (n : BitVec 3) : Statement (.rnew n) := by
  refine ⟨fun w e => ?_, fun h e => (nomatch e)⟩
  cases e
  refine ⟨by simp (disch := decide) only [fld_lo, fld_hi, fld_all, fld_lit, Nat.reduceSub] <;> rfl, ?_⟩
  rw [major14 _ (by simp (disch := decide) only [fld_lo, fld_hi, fld_all, fld_lit, Nat.reduceSub]; rfl)]
  unfold parseMajor14
  rw [show BitVec.toNat (fld (cat 32 (cat 25 73728#22 n) 59#7) 22 5) = 18 by simp (disch := decide) only [fld_lo, fld_hi, fld_all, fld_lit, Nat.reduceSub]; rfl]
  simp (disch := decide) only [fld_lo, fld_hi, fld_all, fld_lit, Nat.reduceSub] <;> rfl

theorem send (s : BitVec 4) (a : BitVec 5) : Statement (.send s a) := by
  refine ⟨fun w e => ?_, fun h e => (nomatch e)⟩
  cases e
  refine ⟨by simp (disch := decide) only [fld_lo, fld_hi, fld_all, fld_lit, Nat.reduceSub] <;> rfl, ?_⟩
  rw [major15 _ (by simp (disch := decide) only [fld_lo, fld_hi, fld_all, fld_lit, Nat.reduceSub]; rfl)]
  unfold parseMajor15
  rw [show BitVec.toNat (fld (cat 32 (cat 20 (cat 15 (cat 5 0#1 s) 0#10) a) 63#12) 22 5) = 0 by simp (disch := decide) only [fld_lo, fld_hi, fld_all, fld_lit, Nat.reduceSub]; rfl]
  simp (disch := decide) only [fld_lo, fld_hi, fld_all, fld_lit, Nat.reduceSub] <;> rfl

theorem sendn (s : BitVec 4) (b : BitVec 5) (a : BitVec 5) (d : BitVec 5) : Statement (.sendn s b a d) := by
  refine ⟨fun w e => ?_, fun h e => (nomatch e)⟩
  cases e
  refine ⟨by simp (disch := decide) only [fld_lo, fld_hi, fld_all, fld_lit, Nat.reduceSub] <;> rfl, ?_⟩
  rw [major15 _ (by simp (disch := decide) only [fld_lo, fld_hi, fld_all, fld_lit, Nat.reduceSub]; rfl)]
  unfold parseMajor15
  rw [show BitVec.toNat (fld (cat 32 (cat 25 (cat 20 (cat 15 (cat 10 (cat 5 0#1 s) 1#5) b) a) d) 63#7) 22 5) = 1 by simp (disch := decide) only [fld_lo, fld_hi, fld_all, fld_lit, Nat.reduceSub]; rfl]
  simp (disch := decide) only [fld_lo, fld_hi, fld_all, fld_lit, Nat.reduceSub] <;> rfl

theorem reply (s : BitVec 4) (a : BitVec 5) : Statement (.reply s a) := by
  refine ⟨fun w e => ?_, fun h e => (nomatch e)⟩
  cases e
  refine ⟨by simp (disch := decide) only [fld_lo, fld_hi, fld_all, fld_lit, Nat.reduceSub] <;> rfl, ?_⟩
  rw [major15 _ (by simp (disch := decide) only [fld_lo, fld_hi, fld_all, fld_lit, Nat.reduceSub]; rfl)]
  unfold parseMajor15
  rw [show BitVec.toNat (fld (cat 32 (cat 20 (cat 15 (cat 5 0#1 s) 64#10) a) 63#12) 22 5) = 2 by simp (disch := decide) only [fld_lo, fld_hi, fld_all, fld_lit, Nat.reduceSub]; rfl]
  simp (disch := decide) only [fld_lo, fld_hi, fld_all, fld_lit, Nat.reduceSub] <;> rfl

theorem give (s : BitVec 4) (m : BitVec 3) (a : BitVec 5) (n : BitVec 3) : Statement (.give s m a n) := by
  refine ⟨fun w e => ?_, fun h e => (nomatch e)⟩
  cases e
  refine ⟨by simp (disch := decide) only [fld_lo, fld_hi, fld_all, fld_lit, Nat.reduceSub] <;> rfl, ?_⟩
  rw [major15 _ (by simp (disch := decide) only [fld_lo, fld_hi, fld_all, fld_lit, Nat.reduceSub]; rfl)]
  unfold parseMajor15
  rw [show BitVec.toNat (fld (cat 32 (cat 25 (cat 22 (cat 20 (cat 15 (cat 12 (cat 5 0#1 s) 12#7) m) a) 0#2) n) 63#7) 22 5) = 3 by simp (disch := decide) only [fld_lo, fld_hi, fld_all, fld_lit, Nat.reduceSub]; rfl]
  simp (disch := decide) only [fld_lo, fld_hi, fld_all, fld_lit, Nat.reduceSub] <;> rfl

theorem sendd (s : BitVec 4) (b : BitVec 5) (a : BitVec 5) : Statement (.sendd s b a) := by
  refine ⟨fun w e => ?_, fun h e => (nomatch e)⟩
  cases e
  refine ⟨by simp (disch := decide) only [fld_lo, fld_hi, fld_all, fld_lit, Nat.reduceSub] <;> rfl, ?_⟩
  rw [major15 _ (by simp (disch := decide) only [fld_lo, fld_hi, fld_all, fld_lit, Nat.reduceSub]; rfl)]
  unfold parseMajor15
  rw [show BitVec.toNat (fld (cat 32 (cat 20 (cat 15 (cat 10 (cat 5 0#1 s) 4#5) b) a) 63#12) 22 5) = 4 by simp (disch := decide) only [fld_lo, fld_hi, fld_all, fld_lit, Nat.reduceSub]; rfl]
  simp (disch := decide) only [fld_lo, fld_hi, fld_all, fld_lit, Nat.reduceSub] <;> rfl

theorem depset (b : BitVec 5) (a : BitVec 5) : Statement (.depset b a) := by
  refine ⟨fun w e => ?_, fun h e => (nomatch e)⟩
  cases e
  refine ⟨by simp (disch := decide) only [fld_lo, fld_hi, fld_all, fld_lit, Nat.reduceSub] <;> rfl, ?_⟩
  rw [major15 _ (by simp (disch := decide) only [fld_lo, fld_hi, fld_all, fld_lit, Nat.reduceSub]; rfl)]
  unfold parseMajor15
  rw [show BitVec.toNat (fld (cat 32 (cat 20 (cat 15 5#10 b) a) 63#12) 22 5) = 5 by simp (disch := decide) only [fld_lo, fld_hi, fld_all, fld_lit, Nat.reduceSub]; rfl]
  simp (disch := decide) only [fld_lo, fld_hi, fld_all, fld_lit, Nat.reduceSub] <;> rfl

theorem depdec (s : BitVec 4) (b : BitVec 5) (a : BitVec 5) : Statement (.depdec s b a) := by
  refine ⟨fun w e => ?_, fun h e => (nomatch e)⟩
  cases e
  refine ⟨by simp (disch := decide) only [fld_lo, fld_hi, fld_all, fld_lit, Nat.reduceSub] <;> rfl, ?_⟩
  rw [major15 _ (by simp (disch := decide) only [fld_lo, fld_hi, fld_all, fld_lit, Nat.reduceSub]; rfl)]
  unfold parseMajor15
  rw [show BitVec.toNat (fld (cat 32 (cat 20 (cat 15 (cat 10 (cat 5 0#1 s) 6#5) b) a) 63#12) 22 5) = 6 by simp (disch := decide) only [fld_lo, fld_hi, fld_all, fld_lit, Nat.reduceSub]; rfl]
  simp (disch := decide) only [fld_lo, fld_hi, fld_all, fld_lit, Nat.reduceSub] <;> rfl

theorem tload (q : BitVec 2) (b : BitVec 5) (a : BitVec 5) (d : BitVec 4) : Statement (.tload q b a d) := by
  refine ⟨fun w e => ?_, fun h e => (nomatch e)⟩
  cases e
  refine ⟨by simp (disch := decide) only [fld_lo, fld_hi, fld_all, fld_lit, Nat.reduceSub] <;> rfl, ?_⟩
  rw [major16 _ (by simp (disch := decide) only [fld_lo, fld_hi, fld_all, fld_lit, Nat.reduceSub]; rfl)]
  unfold parseMajor16
  rw [show BitVec.toNat (fld (cat 32 (cat 25 (cat 21 (cat 20 (cat 15 (cat 10 (cat 5 0#3 q) 0#5) b) a) 0#1) d) 67#7) 22 5) = 0 by simp (disch := decide) only [fld_lo, fld_hi, fld_all, fld_lit, Nat.reduceSub]; rfl]
  simp (disch := decide) only [fld_lo, fld_hi, fld_all, fld_lit, Nat.reduceSub] <;> rfl

theorem tstore (q : BitVec 2) (b : BitVec 5) (a : BitVec 5) (d : BitVec 4) : Statement (.tstore q b a d) := by
  refine ⟨fun w e => ?_, fun h e => (nomatch e)⟩
  cases e
  refine ⟨by simp (disch := decide) only [fld_lo, fld_hi, fld_all, fld_lit, Nat.reduceSub] <;> rfl, ?_⟩
  rw [major16 _ (by simp (disch := decide) only [fld_lo, fld_hi, fld_all, fld_lit, Nat.reduceSub]; rfl)]
  unfold parseMajor16
  rw [show BitVec.toNat (fld (cat 32 (cat 25 (cat 21 (cat 20 (cat 15 (cat 10 (cat 5 0#3 q) 1#5) b) a) 0#1) d) 67#7) 22 5) = 1 by simp (disch := decide) only [fld_lo, fld_hi, fld_all, fld_lit, Nat.reduceSub]; rfl]
  simp (disch := decide) only [fld_lo, fld_hi, fld_all, fld_lit, Nat.reduceSub] <;> rfl

theorem push (q : BitVec 3) (b : BitVec 5) (a : BitVec 5) (d : BitVec 4) : Statement (.push q b a d) := by
  refine ⟨fun w e => ?_, fun h e => (nomatch e)⟩
  cases e
  refine ⟨by simp (disch := decide) only [fld_lo, fld_hi, fld_all, fld_lit, Nat.reduceSub] <;> rfl, ?_⟩
  rw [major16 _ (by simp (disch := decide) only [fld_lo, fld_hi, fld_all, fld_lit, Nat.reduceSub]; rfl)]
  unfold parseMajor16
  rw [show BitVec.toNat (fld (cat 32 (cat 25 (cat 21 (cat 20 (cat 15 (cat 10 (cat 5 0#2 q) 2#5) b) a) 0#1) d) 67#7) 22 5) = 2 by simp (disch := decide) only [fld_lo, fld_hi, fld_all, fld_lit, Nat.reduceSub]; rfl]
  simp (disch := decide) only [fld_lo, fld_hi, fld_all, fld_lit, Nat.reduceSub] <;> rfl

theorem pushr (q : BitVec 3) (b : BitVec 5) (a : BitVec 5) : Statement (.pushr q b a) := by
  refine ⟨fun w e => ?_, fun h e => (nomatch e)⟩
  cases e
  refine ⟨by simp (disch := decide) only [fld_lo, fld_hi, fld_all, fld_lit, Nat.reduceSub] <;> rfl, ?_⟩
  rw [major16 _ (by simp (disch := decide) only [fld_lo, fld_hi, fld_all, fld_lit, Nat.reduceSub]; rfl)]
  unfold parseMajor16
  rw [show BitVec.toNat (fld (cat 32 (cat 20 (cat 15 (cat 10 (cat 5 0#2 q) 3#5) b) a) 67#12) 22 5) = 3 by simp (disch := decide) only [fld_lo, fld_hi, fld_all, fld_lit, Nat.reduceSub]; rfl]
  simp (disch := decide) only [fld_lo, fld_hi, fld_all, fld_lit, Nat.reduceSub] <;> rfl

theorem gather (b : BitVec 5) (a : BitVec 5) (d : BitVec 4) : Statement (.gather b a d) := by
  refine ⟨fun w e => ?_, fun h e => (nomatch e)⟩
  cases e
  refine ⟨by simp (disch := decide) only [fld_lo, fld_hi, fld_all, fld_lit, Nat.reduceSub] <;> rfl, ?_⟩
  rw [major16 _ (by simp (disch := decide) only [fld_lo, fld_hi, fld_all, fld_lit, Nat.reduceSub]; rfl)]
  unfold parseMajor16
  rw [show BitVec.toNat (fld (cat 32 (cat 25 (cat 21 (cat 20 (cat 15 4#10 b) a) 0#1) d) 67#7) 22 5) = 4 by simp (disch := decide) only [fld_lo, fld_hi, fld_all, fld_lit, Nat.reduceSub]; rfl]
  simp (disch := decide) only [fld_lo, fld_hi, fld_all, fld_lit, Nat.reduceSub] <;> rfl

theorem scatter (b : BitVec 5) (a : BitVec 5) (d : BitVec 4) : Statement (.scatter b a d) := by
  refine ⟨fun w e => ?_, fun h e => (nomatch e)⟩
  cases e
  refine ⟨by simp (disch := decide) only [fld_lo, fld_hi, fld_all, fld_lit, Nat.reduceSub] <;> rfl, ?_⟩
  rw [major16 _ (by simp (disch := decide) only [fld_lo, fld_hi, fld_all, fld_lit, Nat.reduceSub]; rfl)]
  unfold parseMajor16
  rw [show BitVec.toNat (fld (cat 32 (cat 25 (cat 21 (cat 20 (cat 15 5#10 b) a) 0#1) d) 67#7) 22 5) = 5 by simp (disch := decide) only [fld_lo, fld_hi, fld_all, fld_lit, Nat.reduceSub]; rfl]
  simp (disch := decide) only [fld_lo, fld_hi, fld_all, fld_lit, Nat.reduceSub] <;> rfl

theorem arm (a : BitVec 5) (d : BitVec 4) : Statement (.arm a d) := by
  refine ⟨fun w e => ?_, fun h e => (nomatch e)⟩
  cases e
  refine ⟨by simp (disch := decide) only [fld_lo, fld_hi, fld_all, fld_lit, Nat.reduceSub] <;> rfl, ?_⟩
  rw [major16 _ (by simp (disch := decide) only [fld_lo, fld_hi, fld_all, fld_lit, Nat.reduceSub]; rfl)]
  unfold parseMajor16
  rw [show BitVec.toNat (fld (cat 32 (cat 25 (cat 21 (cat 20 192#15 a) 0#1) d) 67#7) 22 5) = 6 by simp (disch := decide) only [fld_lo, fld_hi, fld_all, fld_lit, Nat.reduceSub]; rfl]
  simp (disch := decide) only [fld_lo, fld_hi, fld_all, fld_lit, Nat.reduceSub] <;> rfl

theorem disarm (d : BitVec 4) : Statement (.disarm d) := by
  refine ⟨fun w e => ?_, fun h e => (nomatch e)⟩
  cases e
  refine ⟨by simp (disch := decide) only [fld_lo, fld_hi, fld_all, fld_lit, Nat.reduceSub] <;> rfl, ?_⟩
  rw [major16 _ (by simp (disch := decide) only [fld_lo, fld_hi, fld_all, fld_lit, Nat.reduceSub]; rfl)]
  unfold parseMajor16
  rw [show BitVec.toNat (fld (cat 32 (cat 25 14336#21 d) 67#7) 22 5) = 7 by simp (disch := decide) only [fld_lo, fld_hi, fld_all, fld_lit, Nat.reduceSub]; rfl]
  simp (disch := decide) only [fld_lo, fld_hi, fld_all, fld_lit, Nat.reduceSub] <;> rfl

theorem cset (h : BitVec 1) (a : BitVec 5) (c : BitVec 5) : Statement (.cset h a c) := by
  refine ⟨fun w e => ?_, fun h e => (nomatch e)⟩
  cases e
  refine ⟨by simp (disch := decide) only [fld_lo, fld_hi, fld_all, fld_lit, Nat.reduceSub] <;> rfl, ?_⟩
  rw [major17 _ (by simp (disch := decide) only [fld_lo, fld_hi, fld_all, fld_lit, Nat.reduceSub]; rfl)]
  unfold parseMajor17
  rw [show BitVec.toNat (fld (cat 32 (cat 25 (cat 20 (cat 15 h 0#14) a) c) 71#7) 22 5) = 0 by simp (disch := decide) only [fld_lo, fld_hi, fld_all, fld_lit, Nat.reduceSub]; rfl]
  simp (disch := decide) only [fld_lo, fld_hi, fld_all, fld_lit, Nat.reduceSub] <;> rfl

theorem cinc (h : BitVec 1) (s : BitVec 4) (b : BitVec 5) (a : BitVec 5) (c : BitVec 5) : Statement (.cinc h s b a c) := by
  refine ⟨fun w e => ?_, fun h e => (nomatch e)⟩
  cases e
  refine ⟨by simp (disch := decide) only [fld_lo, fld_hi, fld_all, fld_lit, Nat.reduceSub] <;> rfl, ?_⟩
  rw [major17 _ (by simp (disch := decide) only [fld_lo, fld_hi, fld_all, fld_lit, Nat.reduceSub]; rfl)]
  unfold parseMajor17
  rw [show BitVec.toNat (fld (cat 32 (cat 25 (cat 20 (cat 15 (cat 10 (cat 5 h s) 1#5) b) a) c) 71#7) 22 5) = 1 by simp (disch := decide) only [fld_lo, fld_hi, fld_all, fld_lit, Nat.reduceSub]; rfl]
  simp (disch := decide) only [fld_lo, fld_hi, fld_all, fld_lit, Nat.reduceSub] <;> rfl

theorem crd (h : BitVec 1) (d : BitVec 5) (c : BitVec 5) : Statement (.crd h d c) := by
  refine ⟨fun w e => ?_, fun h e => (nomatch e)⟩
  cases e
  refine ⟨by simp (disch := decide) only [fld_lo, fld_hi, fld_all, fld_lit, Nat.reduceSub] <;> rfl, ?_⟩
  rw [major17 _ (by simp (disch := decide) only [fld_lo, fld_hi, fld_all, fld_lit, Nat.reduceSub]; rfl)]
  unfold parseMajor17
  rw [show BitVec.toNat (fld (cat 32 (cat 25 (cat 20 (cat 15 (cat 10 h 2#9) d) 0#5) c) 71#7) 22 5) = 2 by simp (disch := decide) only [fld_lo, fld_hi, fld_all, fld_lit, Nat.reduceSub]; rfl]
  simp (disch := decide) only [fld_lo, fld_hi, fld_all, fld_lit, Nat.reduceSub] <;> rfl

theorem waitc (h : BitVec 1) (s : BitVec 4) (b : BitVec 5) (a : BitVec 5) (c : BitVec 5) : Statement (.waitc h s b a c) := by
  refine ⟨fun w e => ?_, fun h e => (nomatch e)⟩
  cases e
  refine ⟨by simp (disch := decide) only [fld_lo, fld_hi, fld_all, fld_lit, Nat.reduceSub] <;> rfl, ?_⟩
  rw [major17 _ (by simp (disch := decide) only [fld_lo, fld_hi, fld_all, fld_lit, Nat.reduceSub]; rfl)]
  unfold parseMajor17
  rw [show BitVec.toNat (fld (cat 32 (cat 25 (cat 20 (cat 15 (cat 10 (cat 5 h s) 3#5) b) a) c) 71#7) 22 5) = 3 by simp (disch := decide) only [fld_lo, fld_hi, fld_all, fld_lit, Nat.reduceSub]; rfl]
  simp (disch := decide) only [fld_lo, fld_hi, fld_all, fld_lit, Nat.reduceSub] <;> rfl

theorem waitct (h : BitVec 1) (s : BitVec 4) (d : BitVec 5) (a : BitVec 5) (c : BitVec 5) : Statement (.waitct h s d a c) := by
  refine ⟨fun w e => ?_, fun h e => (nomatch e)⟩
  cases e
  refine ⟨by simp (disch := decide) only [fld_lo, fld_hi, fld_all, fld_lit, Nat.reduceSub] <;> rfl, ?_⟩
  rw [major17 _ (by simp (disch := decide) only [fld_lo, fld_hi, fld_all, fld_lit, Nat.reduceSub]; rfl)]
  unfold parseMajor17
  rw [show BitVec.toNat (fld (cat 32 (cat 25 (cat 20 (cat 15 (cat 10 (cat 5 h s) 4#5) d) a) c) 71#7) 22 5) = 4 by simp (disch := decide) only [fld_lo, fld_hi, fld_all, fld_lit, Nat.reduceSub]; rfl]
  simp (disch := decide) only [fld_lo, fld_hi, fld_all, fld_lit, Nat.reduceSub] <;> rfl

theorem caddl (h : BitVec 1) (a : BitVec 5) (c : BitVec 5) : Statement (.caddl h a c) := by
  refine ⟨fun w e => ?_, fun h e => (nomatch e)⟩
  cases e
  refine ⟨by simp (disch := decide) only [fld_lo, fld_hi, fld_all, fld_lit, Nat.reduceSub] <;> rfl, ?_⟩
  rw [major17 _ (by simp (disch := decide) only [fld_lo, fld_hi, fld_all, fld_lit, Nat.reduceSub]; rfl)]
  unfold parseMajor17
  rw [show BitVec.toNat (fld (cat 32 (cat 25 (cat 20 (cat 15 h 160#14) a) c) 71#7) 22 5) = 5 by simp (disch := decide) only [fld_lo, fld_hi, fld_all, fld_lit, Nat.reduceSub]; rfl]
  simp (disch := decide) only [fld_lo, fld_hi, fld_all, fld_lit, Nat.reduceSub] <;> rfl

theorem route (s : BitVec 4) (a : BitVec 5) (d : BitVec 5) : Statement (.route s a d) := by
  refine ⟨fun w e => ?_, fun h e => (nomatch e)⟩
  cases e
  refine ⟨by simp (disch := decide) only [fld_lo, fld_hi, fld_all, fld_lit, Nat.reduceSub] <;> rfl, ?_⟩
  rw [major18 _ (by simp (disch := decide) only [fld_lo, fld_hi, fld_all, fld_lit, Nat.reduceSub]; rfl)]
  unfold parseMajor18
  rw [show BitVec.toNat (fld (cat 32 (cat 25 (cat 20 (cat 15 (cat 5 0#1 s) 0#10) a) d) 75#7) 22 5) = 0 by simp (disch := decide) only [fld_lo, fld_hi, fld_all, fld_lit, Nat.reduceSub]; rfl]
  simp (disch := decide) only [fld_lo, fld_hi, fld_all, fld_lit, Nat.reduceSub] <;> rfl

theorem erq (a : BitVec 5) (d : BitVec 5) : Statement (.erq a d) := by
  refine ⟨fun w e => ?_, fun h e => (nomatch e)⟩
  cases e
  refine ⟨by simp (disch := decide) only [fld_lo, fld_hi, fld_all, fld_lit, Nat.reduceSub] <;> rfl, ?_⟩
  rw [major18 _ (by simp (disch := decide) only [fld_lo, fld_hi, fld_all, fld_lit, Nat.reduceSub]; rfl)]
  unfold parseMajor18
  rw [show BitVec.toNat (fld (cat 32 (cat 25 (cat 20 32#15 a) d) 75#7) 22 5) = 1 by simp (disch := decide) only [fld_lo, fld_hi, fld_all, fld_lit, Nat.reduceSub]; rfl]
  simp (disch := decide) only [fld_lo, fld_hi, fld_all, fld_lit, Nat.reduceSub] <;> rfl

theorem epin (a : BitVec 5) : Statement (.epin a) := by
  refine ⟨fun w e => ?_, fun h e => (nomatch e)⟩
  cases e
  refine ⟨by simp (disch := decide) only [fld_lo, fld_hi, fld_all, fld_lit, Nat.reduceSub] <;> rfl, ?_⟩
  rw [major18 _ (by simp (disch := decide) only [fld_lo, fld_hi, fld_all, fld_lit, Nat.reduceSub]; rfl)]
  unfold parseMajor18
  rw [show BitVec.toNat (fld (cat 32 (cat 20 64#15 a) 75#12) 22 5) = 2 by simp (disch := decide) only [fld_lo, fld_hi, fld_all, fld_lit, Nat.reduceSub]; rfl]
  simp (disch := decide) only [fld_lo, fld_hi, fld_all, fld_lit, Nat.reduceSub] <;> rfl

theorem eunpin (a : BitVec 5) : Statement (.eunpin a) := by
  refine ⟨fun w e => ?_, fun h e => (nomatch e)⟩
  cases e
  refine ⟨by simp (disch := decide) only [fld_lo, fld_hi, fld_all, fld_lit, Nat.reduceSub] <;> rfl, ?_⟩
  rw [major18 _ (by simp (disch := decide) only [fld_lo, fld_hi, fld_all, fld_lit, Nat.reduceSub]; rfl)]
  unfold parseMajor18
  rw [show BitVec.toNat (fld (cat 32 (cat 20 96#15 a) 75#12) 22 5) = 3 by simp (disch := decide) only [fld_lo, fld_hi, fld_all, fld_lit, Nat.reduceSub]; rfl]
  simp (disch := decide) only [fld_lo, fld_hi, fld_all, fld_lit, Nat.reduceSub] <;> rfl

theorem wset (a : BitVec 5) : Statement (.wset a) := by
  refine ⟨fun w e => ?_, fun h e => (nomatch e)⟩
  cases e
  refine ⟨by simp (disch := decide) only [fld_lo, fld_hi, fld_all, fld_lit, Nat.reduceSub] <;> rfl, ?_⟩
  rw [major18 _ (by simp (disch := decide) only [fld_lo, fld_hi, fld_all, fld_lit, Nat.reduceSub]; rfl)]
  unfold parseMajor18
  rw [show BitVec.toNat (fld (cat 32 (cat 20 128#15 a) 75#12) 22 5) = 4 by simp (disch := decide) only [fld_lo, fld_hi, fld_all, fld_lit, Nat.reduceSub]; rfl]
  simp (disch := decide) only [fld_lo, fld_hi, fld_all, fld_lit, Nat.reduceSub] <;> rfl

theorem eloadc (t : BitVec 1) (a : BitVec 5) (d : BitVec 5) : Statement (.eloadc t a d) := by
  refine ⟨fun w e => ?_, fun h e => (nomatch e)⟩
  cases e
  refine ⟨by simp (disch := decide) only [fld_lo, fld_hi, fld_all, fld_lit, Nat.reduceSub] <;> rfl, ?_⟩
  rw [major18 _ (by simp (disch := decide) only [fld_lo, fld_hi, fld_all, fld_lit, Nat.reduceSub]; rfl)]
  unfold parseMajor18
  rw [show BitVec.toNat (fld (cat 32 (cat 25 (cat 20 (cat 15 (cat 5 0#4 t) 160#10) a) d) 75#7) 22 5) = 5 by simp (disch := decide) only [fld_lo, fld_hi, fld_all, fld_lit, Nat.reduceSub]; rfl]
  simp (disch := decide) only [fld_lo, fld_hi, fld_all, fld_lit, Nat.reduceSub] <;> rfl

theorem vadd (p : BitVec 1) (t : BitVec 4) (b : BitVec 5) (a : BitVec 5) (d : BitVec 5) : Statement (.vadd p t b a d) := by
  refine ⟨fun w e => ?_, fun h e => (nomatch e)⟩
  cases e
  refine ⟨by simp (disch := decide) only [fld_lo, fld_hi, fld_all, fld_lit, Nat.reduceSub] <;> rfl, ?_⟩
  rw [major19 _ (by simp (disch := decide) only [fld_lo, fld_hi, fld_all, fld_lit, Nat.reduceSub]; rfl)]
  unfold parseMajor19
  rw [show BitVec.toNat (fld (cat 32 (cat 25 (cat 20 (cat 15 (cat 10 (cat 5 p t) 0#5) b) a) d) 79#7) 22 5) = 0 by simp (disch := decide) only [fld_lo, fld_hi, fld_all, fld_lit, Nat.reduceSub]; rfl]
  simp (disch := decide) only [fld_lo, fld_hi, fld_all, fld_lit, Nat.reduceSub] <;> rfl

theorem vsub (p : BitVec 1) (t : BitVec 4) (b : BitVec 5) (a : BitVec 5) (d : BitVec 5) : Statement (.vsub p t b a d) := by
  refine ⟨fun w e => ?_, fun h e => (nomatch e)⟩
  cases e
  refine ⟨by simp (disch := decide) only [fld_lo, fld_hi, fld_all, fld_lit, Nat.reduceSub] <;> rfl, ?_⟩
  rw [major19 _ (by simp (disch := decide) only [fld_lo, fld_hi, fld_all, fld_lit, Nat.reduceSub]; rfl)]
  unfold parseMajor19
  rw [show BitVec.toNat (fld (cat 32 (cat 25 (cat 20 (cat 15 (cat 10 (cat 5 p t) 1#5) b) a) d) 79#7) 22 5) = 1 by simp (disch := decide) only [fld_lo, fld_hi, fld_all, fld_lit, Nat.reduceSub]; rfl]
  simp (disch := decide) only [fld_lo, fld_hi, fld_all, fld_lit, Nat.reduceSub] <;> rfl

theorem vmul (p : BitVec 1) (t : BitVec 4) (b : BitVec 5) (a : BitVec 5) (d : BitVec 5) : Statement (.vmul p t b a d) := by
  refine ⟨fun w e => ?_, fun h e => (nomatch e)⟩
  cases e
  refine ⟨by simp (disch := decide) only [fld_lo, fld_hi, fld_all, fld_lit, Nat.reduceSub] <;> rfl, ?_⟩
  rw [major19 _ (by simp (disch := decide) only [fld_lo, fld_hi, fld_all, fld_lit, Nat.reduceSub]; rfl)]
  unfold parseMajor19
  rw [show BitVec.toNat (fld (cat 32 (cat 25 (cat 20 (cat 15 (cat 10 (cat 5 p t) 2#5) b) a) d) 79#7) 22 5) = 2 by simp (disch := decide) only [fld_lo, fld_hi, fld_all, fld_lit, Nat.reduceSub]; rfl]
  simp (disch := decide) only [fld_lo, fld_hi, fld_all, fld_lit, Nat.reduceSub] <;> rfl

theorem vfma (p : BitVec 1) (t : BitVec 4) (b : BitVec 5) (a : BitVec 5) (d : BitVec 5) : Statement (.vfma p t b a d) := by
  refine ⟨fun w e => ?_, fun h e => (nomatch e)⟩
  cases e
  refine ⟨by simp (disch := decide) only [fld_lo, fld_hi, fld_all, fld_lit, Nat.reduceSub] <;> rfl, ?_⟩
  rw [major19 _ (by simp (disch := decide) only [fld_lo, fld_hi, fld_all, fld_lit, Nat.reduceSub]; rfl)]
  unfold parseMajor19
  rw [show BitVec.toNat (fld (cat 32 (cat 25 (cat 20 (cat 15 (cat 10 (cat 5 p t) 3#5) b) a) d) 79#7) 22 5) = 3 by simp (disch := decide) only [fld_lo, fld_hi, fld_all, fld_lit, Nat.reduceSub]; rfl]
  simp (disch := decide) only [fld_lo, fld_hi, fld_all, fld_lit, Nat.reduceSub] <;> rfl

theorem vfms (p : BitVec 1) (t : BitVec 4) (b : BitVec 5) (a : BitVec 5) (d : BitVec 5) : Statement (.vfms p t b a d) := by
  refine ⟨fun w e => ?_, fun h e => (nomatch e)⟩
  cases e
  refine ⟨by simp (disch := decide) only [fld_lo, fld_hi, fld_all, fld_lit, Nat.reduceSub] <;> rfl, ?_⟩
  rw [major19 _ (by simp (disch := decide) only [fld_lo, fld_hi, fld_all, fld_lit, Nat.reduceSub]; rfl)]
  unfold parseMajor19
  rw [show BitVec.toNat (fld (cat 32 (cat 25 (cat 20 (cat 15 (cat 10 (cat 5 p t) 4#5) b) a) d) 79#7) 22 5) = 4 by simp (disch := decide) only [fld_lo, fld_hi, fld_all, fld_lit, Nat.reduceSub]; rfl]
  simp (disch := decide) only [fld_lo, fld_hi, fld_all, fld_lit, Nat.reduceSub] <;> rfl

theorem vmin (p : BitVec 1) (t : BitVec 4) (b : BitVec 5) (a : BitVec 5) (d : BitVec 5) : Statement (.vmin p t b a d) := by
  refine ⟨fun w e => ?_, fun h e => (nomatch e)⟩
  cases e
  refine ⟨by simp (disch := decide) only [fld_lo, fld_hi, fld_all, fld_lit, Nat.reduceSub] <;> rfl, ?_⟩
  rw [major19 _ (by simp (disch := decide) only [fld_lo, fld_hi, fld_all, fld_lit, Nat.reduceSub]; rfl)]
  unfold parseMajor19
  rw [show BitVec.toNat (fld (cat 32 (cat 25 (cat 20 (cat 15 (cat 10 (cat 5 p t) 5#5) b) a) d) 79#7) 22 5) = 5 by simp (disch := decide) only [fld_lo, fld_hi, fld_all, fld_lit, Nat.reduceSub]; rfl]
  simp (disch := decide) only [fld_lo, fld_hi, fld_all, fld_lit, Nat.reduceSub] <;> rfl

theorem vmax (p : BitVec 1) (t : BitVec 4) (b : BitVec 5) (a : BitVec 5) (d : BitVec 5) : Statement (.vmax p t b a d) := by
  refine ⟨fun w e => ?_, fun h e => (nomatch e)⟩
  cases e
  refine ⟨by simp (disch := decide) only [fld_lo, fld_hi, fld_all, fld_lit, Nat.reduceSub] <;> rfl, ?_⟩
  rw [major19 _ (by simp (disch := decide) only [fld_lo, fld_hi, fld_all, fld_lit, Nat.reduceSub]; rfl)]
  unfold parseMajor19
  rw [show BitVec.toNat (fld (cat 32 (cat 25 (cat 20 (cat 15 (cat 10 (cat 5 p t) 6#5) b) a) d) 79#7) 22 5) = 6 by simp (disch := decide) only [fld_lo, fld_hi, fld_all, fld_lit, Nat.reduceSub]; rfl]
  simp (disch := decide) only [fld_lo, fld_hi, fld_all, fld_lit, Nat.reduceSub] <;> rfl

theorem vabs (p : BitVec 1) (t : BitVec 4) (a : BitVec 5) (d : BitVec 5) : Statement (.vabs p t a d) := by
  refine ⟨fun w e => ?_, fun h e => (nomatch e)⟩
  cases e
  refine ⟨by simp (disch := decide) only [fld_lo, fld_hi, fld_all, fld_lit, Nat.reduceSub] <;> rfl, ?_⟩
  rw [major19 _ (by simp (disch := decide) only [fld_lo, fld_hi, fld_all, fld_lit, Nat.reduceSub]; rfl)]
  unfold parseMajor19
  rw [show BitVec.toNat (fld (cat 32 (cat 25 (cat 20 (cat 15 (cat 5 p t) 224#10) a) d) 79#7) 22 5) = 7 by simp (disch := decide) only [fld_lo, fld_hi, fld_all, fld_lit, Nat.reduceSub]; rfl]
  simp (disch := decide) only [fld_lo, fld_hi, fld_all, fld_lit, Nat.reduceSub] <;> rfl

theorem vneg (p : BitVec 1) (t : BitVec 4) (a : BitVec 5) (d : BitVec 5) : Statement (.vneg p t a d) := by
  refine ⟨fun w e => ?_, fun h e => (nomatch e)⟩
  cases e
  refine ⟨by simp (disch := decide) only [fld_lo, fld_hi, fld_all, fld_lit, Nat.reduceSub] <;> rfl, ?_⟩
  rw [major19 _ (by simp (disch := decide) only [fld_lo, fld_hi, fld_all, fld_lit, Nat.reduceSub]; rfl)]
  unfold parseMajor19
  rw [show BitVec.toNat (fld (cat 32 (cat 25 (cat 20 (cat 15 (cat 5 p t) 256#10) a) d) 79#7) 22 5) = 8 by simp (disch := decide) only [fld_lo, fld_hi, fld_all, fld_lit, Nat.reduceSub]; rfl]
  simp (disch := decide) only [fld_lo, fld_hi, fld_all, fld_lit, Nat.reduceSub] <;> rfl

theorem vcmpeq (p : BitVec 1) (t : BitVec 4) (b : BitVec 5) (a : BitVec 5) (d : BitVec 3) : Statement (.vcmpeq p t b a d) := by
  refine ⟨fun w e => ?_, fun h e => (nomatch e)⟩
  cases e
  refine ⟨by simp (disch := decide) only [fld_lo, fld_hi, fld_all, fld_lit, Nat.reduceSub] <;> rfl, ?_⟩
  rw [major19 _ (by simp (disch := decide) only [fld_lo, fld_hi, fld_all, fld_lit, Nat.reduceSub]; rfl)]
  unfold parseMajor19
  rw [show BitVec.toNat (fld (cat 32 (cat 25 (cat 22 (cat 20 (cat 15 (cat 10 (cat 5 p t) 9#5) b) a) 0#2) d) 79#7) 22 5) = 9 by simp (disch := decide) only [fld_lo, fld_hi, fld_all, fld_lit, Nat.reduceSub]; rfl]
  simp (disch := decide) only [fld_lo, fld_hi, fld_all, fld_lit, Nat.reduceSub] <;> rfl

theorem vcmplt (p : BitVec 1) (t : BitVec 4) (b : BitVec 5) (a : BitVec 5) (d : BitVec 3) : Statement (.vcmplt p t b a d) := by
  refine ⟨fun w e => ?_, fun h e => (nomatch e)⟩
  cases e
  refine ⟨by simp (disch := decide) only [fld_lo, fld_hi, fld_all, fld_lit, Nat.reduceSub] <;> rfl, ?_⟩
  rw [major19 _ (by simp (disch := decide) only [fld_lo, fld_hi, fld_all, fld_lit, Nat.reduceSub]; rfl)]
  unfold parseMajor19
  rw [show BitVec.toNat (fld (cat 32 (cat 25 (cat 22 (cat 20 (cat 15 (cat 10 (cat 5 p t) 10#5) b) a) 0#2) d) 79#7) 22 5) = 10 by simp (disch := decide) only [fld_lo, fld_hi, fld_all, fld_lit, Nat.reduceSub]; rfl]
  simp (disch := decide) only [fld_lo, fld_hi, fld_all, fld_lit, Nat.reduceSub] <;> rfl

theorem vcmple (p : BitVec 1) (t : BitVec 4) (b : BitVec 5) (a : BitVec 5) (d : BitVec 3) : Statement (.vcmple p t b a d) := by
  refine ⟨fun w e => ?_, fun h e => (nomatch e)⟩
  cases e
  refine ⟨by simp (disch := decide) only [fld_lo, fld_hi, fld_all, fld_lit, Nat.reduceSub] <;> rfl, ?_⟩
  rw [major19 _ (by simp (disch := decide) only [fld_lo, fld_hi, fld_all, fld_lit, Nat.reduceSub]; rfl)]
  unfold parseMajor19
  rw [show BitVec.toNat (fld (cat 32 (cat 25 (cat 22 (cat 20 (cat 15 (cat 10 (cat 5 p t) 11#5) b) a) 0#2) d) 79#7) 22 5) = 11 by simp (disch := decide) only [fld_lo, fld_hi, fld_all, fld_lit, Nat.reduceSub]; rfl]
  simp (disch := decide) only [fld_lo, fld_hi, fld_all, fld_lit, Nat.reduceSub] <;> rfl

theorem vsel (b : BitVec 5) (a : BitVec 5) (d : BitVec 5) : Statement (.vsel b a d) := by
  refine ⟨fun w e => ?_, fun h e => (nomatch e)⟩
  cases e
  refine ⟨by simp (disch := decide) only [fld_lo, fld_hi, fld_all, fld_lit, Nat.reduceSub] <;> rfl, ?_⟩
  rw [major19 _ (by simp (disch := decide) only [fld_lo, fld_hi, fld_all, fld_lit, Nat.reduceSub]; rfl)]
  unfold parseMajor19
  rw [show BitVec.toNat (fld (cat 32 (cat 25 (cat 20 (cat 15 12#10 b) a) d) 79#7) 22 5) = 12 by simp (disch := decide) only [fld_lo, fld_hi, fld_all, fld_lit, Nat.reduceSub]; rfl]
  simp (disch := decide) only [fld_lo, fld_hi, fld_all, fld_lit, Nat.reduceSub] <;> rfl

theorem vscalb (p : BitVec 1) (t : BitVec 4) (b : BitVec 5) (a : BitVec 5) (d : BitVec 5) : Statement (.vscalb p t b a d) := by
  refine ⟨fun w e => ?_, fun h e => (nomatch e)⟩
  cases e
  refine ⟨by simp (disch := decide) only [fld_lo, fld_hi, fld_all, fld_lit, Nat.reduceSub] <;> rfl, ?_⟩
  rw [major19 _ (by simp (disch := decide) only [fld_lo, fld_hi, fld_all, fld_lit, Nat.reduceSub]; rfl)]
  unfold parseMajor19
  rw [show BitVec.toNat (fld (cat 32 (cat 25 (cat 20 (cat 15 (cat 10 (cat 5 p t) 13#5) b) a) d) 79#7) 22 5) = 13 by simp (disch := decide) only [fld_lo, fld_hi, fld_all, fld_lit, Nat.reduceSub]; rfl]
  simp (disch := decide) only [fld_lo, fld_hi, fld_all, fld_lit, Nat.reduceSub] <;> rfl

theorem vmaxm (p : BitVec 1) (t : BitVec 4) (b : BitVec 5) (a : BitVec 5) (d : BitVec 5) : Statement (.vmaxm p t b a d) := by
  refine ⟨fun w e => ?_, fun h e => (nomatch e)⟩
  cases e
  refine ⟨by simp (disch := decide) only [fld_lo, fld_hi, fld_all, fld_lit, Nat.reduceSub] <;> rfl, ?_⟩
  rw [major19 _ (by simp (disch := decide) only [fld_lo, fld_hi, fld_all, fld_lit, Nat.reduceSub]; rfl)]
  unfold parseMajor19
  rw [show BitVec.toNat (fld (cat 32 (cat 25 (cat 20 (cat 15 (cat 10 (cat 5 p t) 14#5) b) a) d) 79#7) 22 5) = 14 by simp (disch := decide) only [fld_lo, fld_hi, fld_all, fld_lit, Nat.reduceSub]; rfl]
  simp (disch := decide) only [fld_lo, fld_hi, fld_all, fld_lit, Nat.reduceSub] <;> rfl

theorem vclass (p : BitVec 1) (t : BitVec 4) (a : BitVec 5) (d : BitVec 5) : Statement (.vclass p t a d) := by
  refine ⟨fun w e => ?_, fun h e => (nomatch e)⟩
  cases e
  refine ⟨by simp (disch := decide) only [fld_lo, fld_hi, fld_all, fld_lit, Nat.reduceSub] <;> rfl, ?_⟩
  rw [major19 _ (by simp (disch := decide) only [fld_lo, fld_hi, fld_all, fld_lit, Nat.reduceSub]; rfl)]
  unfold parseMajor19
  rw [show BitVec.toNat (fld (cat 32 (cat 25 (cat 20 (cat 15 (cat 5 p t) 480#10) a) d) 79#7) 22 5) = 15 by simp (disch := decide) only [fld_lo, fld_hi, fld_all, fld_lit, Nat.reduceSub]; rfl]
  simp (disch := decide) only [fld_lo, fld_hi, fld_all, fld_lit, Nat.reduceSub] <;> rfl

theorem vbcast (p : BitVec 1) (n : BitVec 5) (a : BitVec 5) (d : BitVec 5) : Statement (.vbcast p n a d) := by
  refine ⟨fun w e => ?_, fun h e => (nomatch e)⟩
  cases e
  refine ⟨by simp (disch := decide) only [fld_lo, fld_hi, fld_all, fld_lit, Nat.reduceSub] <;> rfl, ?_⟩
  rw [major19 _ (by simp (disch := decide) only [fld_lo, fld_hi, fld_all, fld_lit, Nat.reduceSub]; rfl)]
  unfold parseMajor19
  rw [show BitVec.toNat (fld (cat 32 (cat 25 (cat 20 (cat 15 (cat 10 p 16#9) n) a) d) 79#7) 22 5) = 16 by simp (disch := decide) only [fld_lo, fld_hi, fld_all, fld_lit, Nat.reduceSub]; rfl]
  simp (disch := decide) only [fld_lo, fld_hi, fld_all, fld_lit, Nat.reduceSub] <;> rfl

theorem vmov (p : BitVec 1) (a : BitVec 5) (d : BitVec 5) : Statement (.vmov p a d) := by
  refine ⟨fun w e => ?_, fun h e => (nomatch e)⟩
  cases e
  refine ⟨by simp (disch := decide) only [fld_lo, fld_hi, fld_all, fld_lit, Nat.reduceSub] <;> rfl, ?_⟩
  rw [major19 _ (by simp (disch := decide) only [fld_lo, fld_hi, fld_all, fld_lit, Nat.reduceSub]; rfl)]
  unfold parseMajor19
  rw [show BitVec.toNat (fld (cat 32 (cat 25 (cat 20 (cat 15 p 544#14) a) d) 79#7) 22 5) = 17 by simp (disch := decide) only [fld_lo, fld_hi, fld_all, fld_lit, Nat.reduceSub]; rfl]
  simp (disch := decide) only [fld_lo, fld_hi, fld_all, fld_lit, Nat.reduceSub] <;> rfl

theorem viadd (p : BitVec 1) (t : BitVec 4) (b : BitVec 5) (a : BitVec 5) (d : BitVec 5) : Statement (.viadd p t b a d) := by
  refine ⟨fun w e => ?_, fun h e => (nomatch e)⟩
  cases e
  refine ⟨by simp (disch := decide) only [fld_lo, fld_hi, fld_all, fld_lit, Nat.reduceSub] <;> rfl, ?_⟩
  rw [major20 _ (by simp (disch := decide) only [fld_lo, fld_hi, fld_all, fld_lit, Nat.reduceSub]; rfl)]
  unfold parseMajor20
  rw [show BitVec.toNat (fld (cat 32 (cat 25 (cat 20 (cat 15 (cat 10 (cat 5 p t) 0#5) b) a) d) 83#7) 22 5) = 0 by simp (disch := decide) only [fld_lo, fld_hi, fld_all, fld_lit, Nat.reduceSub]; rfl]
  simp (disch := decide) only [fld_lo, fld_hi, fld_all, fld_lit, Nat.reduceSub] <;> rfl

theorem visub (p : BitVec 1) (t : BitVec 4) (b : BitVec 5) (a : BitVec 5) (d : BitVec 5) : Statement (.visub p t b a d) := by
  refine ⟨fun w e => ?_, fun h e => (nomatch e)⟩
  cases e
  refine ⟨by simp (disch := decide) only [fld_lo, fld_hi, fld_all, fld_lit, Nat.reduceSub] <;> rfl, ?_⟩
  rw [major20 _ (by simp (disch := decide) only [fld_lo, fld_hi, fld_all, fld_lit, Nat.reduceSub]; rfl)]
  unfold parseMajor20
  rw [show BitVec.toNat (fld (cat 32 (cat 25 (cat 20 (cat 15 (cat 10 (cat 5 p t) 1#5) b) a) d) 83#7) 22 5) = 1 by simp (disch := decide) only [fld_lo, fld_hi, fld_all, fld_lit, Nat.reduceSub]; rfl]
  simp (disch := decide) only [fld_lo, fld_hi, fld_all, fld_lit, Nat.reduceSub] <;> rfl

theorem vimul (p : BitVec 1) (t : BitVec 4) (b : BitVec 5) (a : BitVec 5) (d : BitVec 5) : Statement (.vimul p t b a d) := by
  refine ⟨fun w e => ?_, fun h e => (nomatch e)⟩
  cases e
  refine ⟨by simp (disch := decide) only [fld_lo, fld_hi, fld_all, fld_lit, Nat.reduceSub] <;> rfl, ?_⟩
  rw [major20 _ (by simp (disch := decide) only [fld_lo, fld_hi, fld_all, fld_lit, Nat.reduceSub]; rfl)]
  unfold parseMajor20
  rw [show BitVec.toNat (fld (cat 32 (cat 25 (cat 20 (cat 15 (cat 10 (cat 5 p t) 2#5) b) a) d) 83#7) 22 5) = 2 by simp (disch := decide) only [fld_lo, fld_hi, fld_all, fld_lit, Nat.reduceSub]; rfl]
  simp (disch := decide) only [fld_lo, fld_hi, fld_all, fld_lit, Nat.reduceSub] <;> rfl

theorem vimulh (p : BitVec 1) (t : BitVec 4) (b : BitVec 5) (a : BitVec 5) (d : BitVec 5) : Statement (.vimulh p t b a d) := by
  refine ⟨fun w e => ?_, fun h e => (nomatch e)⟩
  cases e
  refine ⟨by simp (disch := decide) only [fld_lo, fld_hi, fld_all, fld_lit, Nat.reduceSub] <;> rfl, ?_⟩
  rw [major20 _ (by simp (disch := decide) only [fld_lo, fld_hi, fld_all, fld_lit, Nat.reduceSub]; rfl)]
  unfold parseMajor20
  rw [show BitVec.toNat (fld (cat 32 (cat 25 (cat 20 (cat 15 (cat 10 (cat 5 p t) 3#5) b) a) d) 83#7) 22 5) = 3 by simp (disch := decide) only [fld_lo, fld_hi, fld_all, fld_lit, Nat.reduceSub]; rfl]
  simp (disch := decide) only [fld_lo, fld_hi, fld_all, fld_lit, Nat.reduceSub] <;> rfl

theorem vand (p : BitVec 1) (t : BitVec 4) (b : BitVec 5) (a : BitVec 5) (d : BitVec 5) : Statement (.vand p t b a d) := by
  refine ⟨fun w e => ?_, fun h e => (nomatch e)⟩
  cases e
  refine ⟨by simp (disch := decide) only [fld_lo, fld_hi, fld_all, fld_lit, Nat.reduceSub] <;> rfl, ?_⟩
  rw [major20 _ (by simp (disch := decide) only [fld_lo, fld_hi, fld_all, fld_lit, Nat.reduceSub]; rfl)]
  unfold parseMajor20
  rw [show BitVec.toNat (fld (cat 32 (cat 25 (cat 20 (cat 15 (cat 10 (cat 5 p t) 4#5) b) a) d) 83#7) 22 5) = 4 by simp (disch := decide) only [fld_lo, fld_hi, fld_all, fld_lit, Nat.reduceSub]; rfl]
  simp (disch := decide) only [fld_lo, fld_hi, fld_all, fld_lit, Nat.reduceSub] <;> rfl

theorem vor (p : BitVec 1) (t : BitVec 4) (b : BitVec 5) (a : BitVec 5) (d : BitVec 5) : Statement (.vor p t b a d) := by
  refine ⟨fun w e => ?_, fun h e => (nomatch e)⟩
  cases e
  refine ⟨by simp (disch := decide) only [fld_lo, fld_hi, fld_all, fld_lit, Nat.reduceSub] <;> rfl, ?_⟩
  rw [major20 _ (by simp (disch := decide) only [fld_lo, fld_hi, fld_all, fld_lit, Nat.reduceSub]; rfl)]
  unfold parseMajor20
  rw [show BitVec.toNat (fld (cat 32 (cat 25 (cat 20 (cat 15 (cat 10 (cat 5 p t) 5#5) b) a) d) 83#7) 22 5) = 5 by simp (disch := decide) only [fld_lo, fld_hi, fld_all, fld_lit, Nat.reduceSub]; rfl]
  simp (disch := decide) only [fld_lo, fld_hi, fld_all, fld_lit, Nat.reduceSub] <;> rfl

theorem vxor (p : BitVec 1) (t : BitVec 4) (b : BitVec 5) (a : BitVec 5) (d : BitVec 5) : Statement (.vxor p t b a d) := by
  refine ⟨fun w e => ?_, fun h e => (nomatch e)⟩
  cases e
  refine ⟨by simp (disch := decide) only [fld_lo, fld_hi, fld_all, fld_lit, Nat.reduceSub] <;> rfl, ?_⟩
  rw [major20 _ (by simp (disch := decide) only [fld_lo, fld_hi, fld_all, fld_lit, Nat.reduceSub]; rfl)]
  unfold parseMajor20
  rw [show BitVec.toNat (fld (cat 32 (cat 25 (cat 20 (cat 15 (cat 10 (cat 5 p t) 6#5) b) a) d) 83#7) 22 5) = 6 by simp (disch := decide) only [fld_lo, fld_hi, fld_all, fld_lit, Nat.reduceSub]; rfl]
  simp (disch := decide) only [fld_lo, fld_hi, fld_all, fld_lit, Nat.reduceSub] <;> rfl

theorem vshl (p : BitVec 1) (t : BitVec 4) (b : BitVec 5) (a : BitVec 5) (d : BitVec 5) : Statement (.vshl p t b a d) := by
  refine ⟨fun w e => ?_, fun h e => (nomatch e)⟩
  cases e
  refine ⟨by simp (disch := decide) only [fld_lo, fld_hi, fld_all, fld_lit, Nat.reduceSub] <;> rfl, ?_⟩
  rw [major20 _ (by simp (disch := decide) only [fld_lo, fld_hi, fld_all, fld_lit, Nat.reduceSub]; rfl)]
  unfold parseMajor20
  rw [show BitVec.toNat (fld (cat 32 (cat 25 (cat 20 (cat 15 (cat 10 (cat 5 p t) 7#5) b) a) d) 83#7) 22 5) = 7 by simp (disch := decide) only [fld_lo, fld_hi, fld_all, fld_lit, Nat.reduceSub]; rfl]
  simp (disch := decide) only [fld_lo, fld_hi, fld_all, fld_lit, Nat.reduceSub] <;> rfl

theorem vshr (p : BitVec 1) (t : BitVec 4) (b : BitVec 5) (a : BitVec 5) (d : BitVec 5) : Statement (.vshr p t b a d) := by
  refine ⟨fun w e => ?_, fun h e => (nomatch e)⟩
  cases e
  refine ⟨by simp (disch := decide) only [fld_lo, fld_hi, fld_all, fld_lit, Nat.reduceSub] <;> rfl, ?_⟩
  rw [major20 _ (by simp (disch := decide) only [fld_lo, fld_hi, fld_all, fld_lit, Nat.reduceSub]; rfl)]
  unfold parseMajor20
  rw [show BitVec.toNat (fld (cat 32 (cat 25 (cat 20 (cat 15 (cat 10 (cat 5 p t) 8#5) b) a) d) 83#7) 22 5) = 8 by simp (disch := decide) only [fld_lo, fld_hi, fld_all, fld_lit, Nat.reduceSub]; rfl]
  simp (disch := decide) only [fld_lo, fld_hi, fld_all, fld_lit, Nat.reduceSub] <;> rfl

theorem vsra (p : BitVec 1) (t : BitVec 4) (b : BitVec 5) (a : BitVec 5) (d : BitVec 5) : Statement (.vsra p t b a d) := by
  refine ⟨fun w e => ?_, fun h e => (nomatch e)⟩
  cases e
  refine ⟨by simp (disch := decide) only [fld_lo, fld_hi, fld_all, fld_lit, Nat.reduceSub] <;> rfl, ?_⟩
  rw [major20 _ (by simp (disch := decide) only [fld_lo, fld_hi, fld_all, fld_lit, Nat.reduceSub]; rfl)]
  unfold parseMajor20
  rw [show BitVec.toNat (fld (cat 32 (cat 25 (cat 20 (cat 15 (cat 10 (cat 5 p t) 9#5) b) a) d) 83#7) 22 5) = 9 by simp (disch := decide) only [fld_lo, fld_hi, fld_all, fld_lit, Nat.reduceSub]; rfl]
  simp (disch := decide) only [fld_lo, fld_hi, fld_all, fld_lit, Nat.reduceSub] <;> rfl

theorem vimin (p : BitVec 1) (t : BitVec 4) (b : BitVec 5) (a : BitVec 5) (d : BitVec 5) : Statement (.vimin p t b a d) := by
  refine ⟨fun w e => ?_, fun h e => (nomatch e)⟩
  cases e
  refine ⟨by simp (disch := decide) only [fld_lo, fld_hi, fld_all, fld_lit, Nat.reduceSub] <;> rfl, ?_⟩
  rw [major20 _ (by simp (disch := decide) only [fld_lo, fld_hi, fld_all, fld_lit, Nat.reduceSub]; rfl)]
  unfold parseMajor20
  rw [show BitVec.toNat (fld (cat 32 (cat 25 (cat 20 (cat 15 (cat 10 (cat 5 p t) 10#5) b) a) d) 83#7) 22 5) = 10 by simp (disch := decide) only [fld_lo, fld_hi, fld_all, fld_lit, Nat.reduceSub]; rfl]
  simp (disch := decide) only [fld_lo, fld_hi, fld_all, fld_lit, Nat.reduceSub] <;> rfl

theorem vimax (p : BitVec 1) (t : BitVec 4) (b : BitVec 5) (a : BitVec 5) (d : BitVec 5) : Statement (.vimax p t b a d) := by
  refine ⟨fun w e => ?_, fun h e => (nomatch e)⟩
  cases e
  refine ⟨by simp (disch := decide) only [fld_lo, fld_hi, fld_all, fld_lit, Nat.reduceSub] <;> rfl, ?_⟩
  rw [major20 _ (by simp (disch := decide) only [fld_lo, fld_hi, fld_all, fld_lit, Nat.reduceSub]; rfl)]
  unfold parseMajor20
  rw [show BitVec.toNat (fld (cat 32 (cat 25 (cat 20 (cat 15 (cat 10 (cat 5 p t) 11#5) b) a) d) 83#7) 22 5) = 11 by simp (disch := decide) only [fld_lo, fld_hi, fld_all, fld_lit, Nat.reduceSub]; rfl]
  simp (disch := decide) only [fld_lo, fld_hi, fld_all, fld_lit, Nat.reduceSub] <;> rfl

theorem viminn (p : BitVec 1) (t : BitVec 4) (b : BitVec 5) (a : BitVec 5) (d : BitVec 5) : Statement (.viminn p t b a d) := by
  refine ⟨fun w e => ?_, fun h e => (nomatch e)⟩
  cases e
  refine ⟨by simp (disch := decide) only [fld_lo, fld_hi, fld_all, fld_lit, Nat.reduceSub] <;> rfl, ?_⟩
  rw [major20 _ (by simp (disch := decide) only [fld_lo, fld_hi, fld_all, fld_lit, Nat.reduceSub]; rfl)]
  unfold parseMajor20
  rw [show BitVec.toNat (fld (cat 32 (cat 25 (cat 20 (cat 15 (cat 10 (cat 5 p t) 12#5) b) a) d) 83#7) 22 5) = 12 by simp (disch := decide) only [fld_lo, fld_hi, fld_all, fld_lit, Nat.reduceSub]; rfl]
  simp (disch := decide) only [fld_lo, fld_hi, fld_all, fld_lit, Nat.reduceSub] <;> rfl

theorem vimaxn (p : BitVec 1) (t : BitVec 4) (b : BitVec 5) (a : BitVec 5) (d : BitVec 5) : Statement (.vimaxn p t b a d) := by
  refine ⟨fun w e => ?_, fun h e => (nomatch e)⟩
  cases e
  refine ⟨by simp (disch := decide) only [fld_lo, fld_hi, fld_all, fld_lit, Nat.reduceSub] <;> rfl, ?_⟩
  rw [major20 _ (by simp (disch := decide) only [fld_lo, fld_hi, fld_all, fld_lit, Nat.reduceSub]; rfl)]
  unfold parseMajor20
  rw [show BitVec.toNat (fld (cat 32 (cat 25 (cat 20 (cat 15 (cat 10 (cat 5 p t) 13#5) b) a) d) 83#7) 22 5) = 13 by simp (disch := decide) only [fld_lo, fld_hi, fld_all, fld_lit, Nat.reduceSub]; rfl]
  simp (disch := decide) only [fld_lo, fld_hi, fld_all, fld_lit, Nat.reduceSub] <;> rfl

theorem vicmpeq (p : BitVec 1) (t : BitVec 4) (b : BitVec 5) (a : BitVec 5) (d : BitVec 3) : Statement (.vicmpeq p t b a d) := by
  refine ⟨fun w e => ?_, fun h e => (nomatch e)⟩
  cases e
  refine ⟨by simp (disch := decide) only [fld_lo, fld_hi, fld_all, fld_lit, Nat.reduceSub] <;> rfl, ?_⟩
  rw [major20 _ (by simp (disch := decide) only [fld_lo, fld_hi, fld_all, fld_lit, Nat.reduceSub]; rfl)]
  unfold parseMajor20
  rw [show BitVec.toNat (fld (cat 32 (cat 25 (cat 22 (cat 20 (cat 15 (cat 10 (cat 5 p t) 14#5) b) a) 0#2) d) 83#7) 22 5) = 14 by simp (disch := decide) only [fld_lo, fld_hi, fld_all, fld_lit, Nat.reduceSub]; rfl]
  simp (disch := decide) only [fld_lo, fld_hi, fld_all, fld_lit, Nat.reduceSub] <;> rfl

theorem vicmplt (p : BitVec 1) (t : BitVec 4) (b : BitVec 5) (a : BitVec 5) (d : BitVec 3) : Statement (.vicmplt p t b a d) := by
  refine ⟨fun w e => ?_, fun h e => (nomatch e)⟩
  cases e
  refine ⟨by simp (disch := decide) only [fld_lo, fld_hi, fld_all, fld_lit, Nat.reduceSub] <;> rfl, ?_⟩
  rw [major20 _ (by simp (disch := decide) only [fld_lo, fld_hi, fld_all, fld_lit, Nat.reduceSub]; rfl)]
  unfold parseMajor20
  rw [show BitVec.toNat (fld (cat 32 (cat 25 (cat 22 (cat 20 (cat 15 (cat 10 (cat 5 p t) 15#5) b) a) 0#2) d) 83#7) 22 5) = 15 by simp (disch := decide) only [fld_lo, fld_hi, fld_all, fld_lit, Nat.reduceSub]; rfl]
  simp (disch := decide) only [fld_lo, fld_hi, fld_all, fld_lit, Nat.reduceSub] <;> rfl

theorem vpopc (p : BitVec 1) (t : BitVec 4) (a : BitVec 5) (d : BitVec 5) : Statement (.vpopc p t a d) := by
  refine ⟨fun w e => ?_, fun h e => (nomatch e)⟩
  cases e
  refine ⟨by simp (disch := decide) only [fld_lo, fld_hi, fld_all, fld_lit, Nat.reduceSub] <;> rfl, ?_⟩
  rw [major20 _ (by simp (disch := decide) only [fld_lo, fld_hi, fld_all, fld_lit, Nat.reduceSub]; rfl)]
  unfold parseMajor20
  rw [show BitVec.toNat (fld (cat 32 (cat 25 (cat 20 (cat 15 (cat 5 p t) 512#10) a) d) 83#7) 22 5) = 16 by simp (disch := decide) only [fld_lo, fld_hi, fld_all, fld_lit, Nat.reduceSub]; rfl]
  simp (disch := decide) only [fld_lo, fld_hi, fld_all, fld_lit, Nat.reduceSub] <;> rfl

theorem vclz (p : BitVec 1) (t : BitVec 4) (a : BitVec 5) (d : BitVec 5) : Statement (.vclz p t a d) := by
  refine ⟨fun w e => ?_, fun h e => (nomatch e)⟩
  cases e
  refine ⟨by simp (disch := decide) only [fld_lo, fld_hi, fld_all, fld_lit, Nat.reduceSub] <;> rfl, ?_⟩
  rw [major20 _ (by simp (disch := decide) only [fld_lo, fld_hi, fld_all, fld_lit, Nat.reduceSub]; rfl)]
  unfold parseMajor20
  rw [show BitVec.toNat (fld (cat 32 (cat 25 (cat 20 (cat 15 (cat 5 p t) 544#10) a) d) 83#7) 22 5) = 17 by simp (disch := decide) only [fld_lo, fld_hi, fld_all, fld_lit, Nat.reduceSub]; rfl]
  simp (disch := decide) only [fld_lo, fld_hi, fld_all, fld_lit, Nat.reduceSub] <;> rfl

theorem viadds (p : BitVec 1) (t : BitVec 4) (b : BitVec 5) (a : BitVec 5) (d : BitVec 5) : Statement (.viadds p t b a d) := by
  refine ⟨fun w e => ?_, fun h e => (nomatch e)⟩
  cases e
  refine ⟨by simp (disch := decide) only [fld_lo, fld_hi, fld_all, fld_lit, Nat.reduceSub] <;> rfl, ?_⟩
  rw [major20 _ (by simp (disch := decide) only [fld_lo, fld_hi, fld_all, fld_lit, Nat.reduceSub]; rfl)]
  unfold parseMajor20
  rw [show BitVec.toNat (fld (cat 32 (cat 25 (cat 20 (cat 15 (cat 10 (cat 5 p t) 18#5) b) a) d) 83#7) 22 5) = 18 by simp (disch := decide) only [fld_lo, fld_hi, fld_all, fld_lit, Nat.reduceSub]; rfl]
  simp (disch := decide) only [fld_lo, fld_hi, fld_all, fld_lit, Nat.reduceSub] <;> rfl

theorem visubs (p : BitVec 1) (t : BitVec 4) (b : BitVec 5) (a : BitVec 5) (d : BitVec 5) : Statement (.visubs p t b a d) := by
  refine ⟨fun w e => ?_, fun h e => (nomatch e)⟩
  cases e
  refine ⟨by simp (disch := decide) only [fld_lo, fld_hi, fld_all, fld_lit, Nat.reduceSub] <;> rfl, ?_⟩
  rw [major20 _ (by simp (disch := decide) only [fld_lo, fld_hi, fld_all, fld_lit, Nat.reduceSub]; rfl)]
  unfold parseMajor20
  rw [show BitVec.toNat (fld (cat 32 (cat 25 (cat 20 (cat 15 (cat 10 (cat 5 p t) 19#5) b) a) d) 83#7) 22 5) = 19 by simp (disch := decide) only [fld_lo, fld_hi, fld_all, fld_lit, Nat.reduceSub]; rfl]
  simp (disch := decide) only [fld_lo, fld_hi, fld_all, fld_lit, Nat.reduceSub] <;> rfl

theorem vcvt (p : BitVec 1) (t : BitVec 4) (r : BitVec 3) (a : BitVec 5) (d : BitVec 5) : Statement (.vcvt p t r a d) := by
  refine ⟨fun w e => ?_, fun h e => (nomatch e)⟩
  cases e
  refine ⟨by simp (disch := decide) only [fld_lo, fld_hi, fld_all, fld_lit, Nat.reduceSub] <;> rfl, ?_⟩
  rw [major21 _ (by simp (disch := decide) only [fld_lo, fld_hi, fld_all, fld_lit, Nat.reduceSub]; rfl)]
  unfold parseMajor21
  rw [show BitVec.toNat (fld (cat 32 (cat 25 (cat 20 (cat 15 (cat 12 (cat 5 p t) 0#7) r) a) d) 87#7) 22 5) = 0 by simp (disch := decide) only [fld_lo, fld_hi, fld_all, fld_lit, Nat.reduceSub]; rfl]
  simp (disch := decide) only [fld_lo, fld_hi, fld_all, fld_lit, Nat.reduceSub] <;> rfl

theorem vcvtWide (p : BitVec 1) (t : BitVec 4) (r : BitVec 3) (a : BitVec 5) (d : BitVec 5) : Statement (.vcvtWide p t r a d) := by
  refine ⟨fun w e => ?_, fun h e => (nomatch e)⟩
  cases e
  refine ⟨by simp (disch := decide) only [fld_lo, fld_hi, fld_all, fld_lit, Nat.reduceSub] <;> rfl, ?_⟩
  rw [major21 _ (by simp (disch := decide) only [fld_lo, fld_hi, fld_all, fld_lit, Nat.reduceSub]; rfl)]
  unfold parseMajor21
  rw [show BitVec.toNat (fld (cat 32 (cat 25 (cat 20 (cat 15 (cat 12 (cat 5 p t) 2#7) r) a) d) 87#7) 22 5) = 0 by simp (disch := decide) only [fld_lo, fld_hi, fld_all, fld_lit, Nat.reduceSub]; rfl]
  simp (disch := decide) only [fld_lo, fld_hi, fld_all, fld_lit, Nat.reduceSub] <;> rfl

theorem vcvts (p : BitVec 1) (t : BitVec 4) (b : BitVec 5) (a : BitVec 5) (d : BitVec 5) : Statement (.vcvts p t b a d) := by
  refine ⟨fun w e => ?_, fun h e => (nomatch e)⟩
  cases e
  refine ⟨by simp (disch := decide) only [fld_lo, fld_hi, fld_all, fld_lit, Nat.reduceSub] <;> rfl, ?_⟩
  rw [major21 _ (by simp (disch := decide) only [fld_lo, fld_hi, fld_all, fld_lit, Nat.reduceSub]; rfl)]
  unfold parseMajor21
  rw [show BitVec.toNat (fld (cat 32 (cat 25 (cat 20 (cat 15 (cat 10 (cat 5 p t) 1#5) b) a) d) 87#7) 22 5) = 1 by simp (disch := decide) only [fld_lo, fld_hi, fld_all, fld_lit, Nat.reduceSub]; rfl]
  simp (disch := decide) only [fld_lo, fld_hi, fld_all, fld_lit, Nat.reduceSub] <;> rfl

theorem vmxq (t : BitVec 4) (b : BitVec 5) (a : BitVec 5) (d : BitVec 5) : Statement (.vmxq t b a d) := by
  refine ⟨fun w e => ?_, fun h e => (nomatch e)⟩
  cases e
  refine ⟨by simp (disch := decide) only [fld_lo, fld_hi, fld_all, fld_lit, Nat.reduceSub] <;> rfl, ?_⟩
  rw [major21 _ (by simp (disch := decide) only [fld_lo, fld_hi, fld_all, fld_lit, Nat.reduceSub]; rfl)]
  unfold parseMajor21
  rw [show BitVec.toNat (fld (cat 32 (cat 25 (cat 20 (cat 15 (cat 10 (cat 5 0#1 t) 2#5) b) a) d) 87#7) 22 5) = 2 by simp (disch := decide) only [fld_lo, fld_hi, fld_all, fld_lit, Nat.reduceSub]; rfl]
  simp (disch := decide) only [fld_lo, fld_hi, fld_all, fld_lit, Nat.reduceSub] <;> rfl

theorem vmxd (t : BitVec 4) (b : BitVec 5) (a : BitVec 5) (d : BitVec 5) : Statement (.vmxd t b a d) := by
  refine ⟨fun w e => ?_, fun h e => (nomatch e)⟩
  cases e
  refine ⟨by simp (disch := decide) only [fld_lo, fld_hi, fld_all, fld_lit, Nat.reduceSub] <;> rfl, ?_⟩
  rw [major21 _ (by simp (disch := decide) only [fld_lo, fld_hi, fld_all, fld_lit, Nat.reduceSub]; rfl)]
  unfold parseMajor21
  rw [show BitVec.toNat (fld (cat 32 (cat 25 (cat 20 (cat 15 (cat 10 (cat 5 0#1 t) 3#5) b) a) d) 87#7) 22 5) = 3 by simp (disch := decide) only [fld_lo, fld_hi, fld_all, fld_lit, Nat.reduceSub]; rfl]
  simp (disch := decide) only [fld_lo, fld_hi, fld_all, fld_lit, Nat.reduceSub] <;> rfl

theorem vpack (p : BitVec 1) (t : BitVec 4) (a : BitVec 5) (d : BitVec 5) : Statement (.vpack p t a d) := by
  refine ⟨fun w e => ?_, fun h e => (nomatch e)⟩
  cases e
  refine ⟨by simp (disch := decide) only [fld_lo, fld_hi, fld_all, fld_lit, Nat.reduceSub] <;> rfl, ?_⟩
  rw [major21 _ (by simp (disch := decide) only [fld_lo, fld_hi, fld_all, fld_lit, Nat.reduceSub]; rfl)]
  unfold parseMajor21
  rw [show BitVec.toNat (fld (cat 32 (cat 25 (cat 20 (cat 15 (cat 5 p t) 128#10) a) d) 87#7) 22 5) = 4 by simp (disch := decide) only [fld_lo, fld_hi, fld_all, fld_lit, Nat.reduceSub]; rfl]
  simp (disch := decide) only [fld_lo, fld_hi, fld_all, fld_lit, Nat.reduceSub] <;> rfl

theorem vunpk (p : BitVec 1) (t : BitVec 4) (a : BitVec 5) (d : BitVec 5) : Statement (.vunpk p t a d) := by
  refine ⟨fun w e => ?_, fun h e => (nomatch e)⟩
  cases e
  refine ⟨by simp (disch := decide) only [fld_lo, fld_hi, fld_all, fld_lit, Nat.reduceSub] <;> rfl, ?_⟩
  rw [major21 _ (by simp (disch := decide) only [fld_lo, fld_hi, fld_all, fld_lit, Nat.reduceSub]; rfl)]
  unfold parseMajor21
  rw [show BitVec.toNat (fld (cat 32 (cat 25 (cat 20 (cat 15 (cat 5 p t) 160#10) a) d) 87#7) 22 5) = 5 by simp (disch := decide) only [fld_lo, fld_hi, fld_all, fld_lit, Nat.reduceSub]; rfl]
  simp (disch := decide) only [fld_lo, fld_hi, fld_all, fld_lit, Nat.reduceSub] <;> rfl

theorem vexp2 (p : BitVec 1) (t : BitVec 4) (a : BitVec 5) (d : BitVec 5) : Statement (.vexp2 p t a d) := by
  refine ⟨fun w e => ?_, fun h e => (nomatch e)⟩
  cases e
  refine ⟨by simp (disch := decide) only [fld_lo, fld_hi, fld_all, fld_lit, Nat.reduceSub] <;> rfl, ?_⟩
  rw [major22 _ (by simp (disch := decide) only [fld_lo, fld_hi, fld_all, fld_lit, Nat.reduceSub]; rfl)]
  unfold parseMajor22
  rw [show BitVec.toNat (fld (cat 32 (cat 25 (cat 20 (cat 15 (cat 5 p t) 0#10) a) d) 91#7) 22 5) = 0 by simp (disch := decide) only [fld_lo, fld_hi, fld_all, fld_lit, Nat.reduceSub]; rfl]
  simp (disch := decide) only [fld_lo, fld_hi, fld_all, fld_lit, Nat.reduceSub] <;> rfl

theorem vlog2 (p : BitVec 1) (t : BitVec 4) (a : BitVec 5) (d : BitVec 5) : Statement (.vlog2 p t a d) := by
  refine ⟨fun w e => ?_, fun h e => (nomatch e)⟩
  cases e
  refine ⟨by simp (disch := decide) only [fld_lo, fld_hi, fld_all, fld_lit, Nat.reduceSub] <;> rfl, ?_⟩
  rw [major22 _ (by simp (disch := decide) only [fld_lo, fld_hi, fld_all, fld_lit, Nat.reduceSub]; rfl)]
  unfold parseMajor22
  rw [show BitVec.toNat (fld (cat 32 (cat 25 (cat 20 (cat 15 (cat 5 p t) 32#10) a) d) 91#7) 22 5) = 1 by simp (disch := decide) only [fld_lo, fld_hi, fld_all, fld_lit, Nat.reduceSub]; rfl]
  simp (disch := decide) only [fld_lo, fld_hi, fld_all, fld_lit, Nat.reduceSub] <;> rfl

theorem vrcp (p : BitVec 1) (t : BitVec 4) (a : BitVec 5) (d : BitVec 5) : Statement (.vrcp p t a d) := by
  refine ⟨fun w e => ?_, fun h e => (nomatch e)⟩
  cases e
  refine ⟨by simp (disch := decide) only [fld_lo, fld_hi, fld_all, fld_lit, Nat.reduceSub] <;> rfl, ?_⟩
  rw [major22 _ (by simp (disch := decide) only [fld_lo, fld_hi, fld_all, fld_lit, Nat.reduceSub]; rfl)]
  unfold parseMajor22
  rw [show BitVec.toNat (fld (cat 32 (cat 25 (cat 20 (cat 15 (cat 5 p t) 64#10) a) d) 91#7) 22 5) = 2 by simp (disch := decide) only [fld_lo, fld_hi, fld_all, fld_lit, Nat.reduceSub]; rfl]
  simp (disch := decide) only [fld_lo, fld_hi, fld_all, fld_lit, Nat.reduceSub] <;> rfl

theorem vrsq (p : BitVec 1) (t : BitVec 4) (a : BitVec 5) (d : BitVec 5) : Statement (.vrsq p t a d) := by
  refine ⟨fun w e => ?_, fun h e => (nomatch e)⟩
  cases e
  refine ⟨by simp (disch := decide) only [fld_lo, fld_hi, fld_all, fld_lit, Nat.reduceSub] <;> rfl, ?_⟩
  rw [major22 _ (by simp (disch := decide) only [fld_lo, fld_hi, fld_all, fld_lit, Nat.reduceSub]; rfl)]
  unfold parseMajor22
  rw [show BitVec.toNat (fld (cat 32 (cat 25 (cat 20 (cat 15 (cat 5 p t) 96#10) a) d) 91#7) 22 5) = 3 by simp (disch := decide) only [fld_lo, fld_hi, fld_all, fld_lit, Nat.reduceSub]; rfl]
  simp (disch := decide) only [fld_lo, fld_hi, fld_all, fld_lit, Nat.reduceSub] <;> rfl

theorem vtanh (p : BitVec 1) (t : BitVec 4) (a : BitVec 5) (d : BitVec 5) : Statement (.vtanh p t a d) := by
  refine ⟨fun w e => ?_, fun h e => (nomatch e)⟩
  cases e
  refine ⟨by simp (disch := decide) only [fld_lo, fld_hi, fld_all, fld_lit, Nat.reduceSub] <;> rfl, ?_⟩
  rw [major22 _ (by simp (disch := decide) only [fld_lo, fld_hi, fld_all, fld_lit, Nat.reduceSub]; rfl)]
  unfold parseMajor22
  rw [show BitVec.toNat (fld (cat 32 (cat 25 (cat 20 (cat 15 (cat 5 p t) 128#10) a) d) 91#7) 22 5) = 4 by simp (disch := decide) only [fld_lo, fld_hi, fld_all, fld_lit, Nat.reduceSub]; rfl]
  simp (disch := decide) only [fld_lo, fld_hi, fld_all, fld_lit, Nat.reduceSub] <;> rfl

theorem vrsum (p : BitVec 1) (t : BitVec 4) (a : BitVec 5) (d : BitVec 5) : Statement (.vrsum p t a d) := by
  refine ⟨fun w e => ?_, fun h e => (nomatch e)⟩
  cases e
  refine ⟨by simp (disch := decide) only [fld_lo, fld_hi, fld_all, fld_lit, Nat.reduceSub] <;> rfl, ?_⟩
  rw [major22 _ (by simp (disch := decide) only [fld_lo, fld_hi, fld_all, fld_lit, Nat.reduceSub]; rfl)]
  unfold parseMajor22
  rw [show BitVec.toNat (fld (cat 32 (cat 25 (cat 20 (cat 15 (cat 5 p t) 160#10) a) d) 91#7) 22 5) = 5 by simp (disch := decide) only [fld_lo, fld_hi, fld_all, fld_lit, Nat.reduceSub]; rfl]
  simp (disch := decide) only [fld_lo, fld_hi, fld_all, fld_lit, Nat.reduceSub] <;> rfl

theorem vrmax (p : BitVec 1) (t : BitVec 4) (a : BitVec 5) (d : BitVec 5) : Statement (.vrmax p t a d) := by
  refine ⟨fun w e => ?_, fun h e => (nomatch e)⟩
  cases e
  refine ⟨by simp (disch := decide) only [fld_lo, fld_hi, fld_all, fld_lit, Nat.reduceSub] <;> rfl, ?_⟩
  rw [major22 _ (by simp (disch := decide) only [fld_lo, fld_hi, fld_all, fld_lit, Nat.reduceSub]; rfl)]
  unfold parseMajor22
  rw [show BitVec.toNat (fld (cat 32 (cat 25 (cat 20 (cat 15 (cat 5 p t) 192#10) a) d) 91#7) 22 5) = 6 by simp (disch := decide) only [fld_lo, fld_hi, fld_all, fld_lit, Nat.reduceSub]; rfl]
  simp (disch := decide) only [fld_lo, fld_hi, fld_all, fld_lit, Nat.reduceSub] <;> rfl

theorem vrmin (p : BitVec 1) (t : BitVec 4) (a : BitVec 5) (d : BitVec 5) : Statement (.vrmin p t a d) := by
  refine ⟨fun w e => ?_, fun h e => (nomatch e)⟩
  cases e
  refine ⟨by simp (disch := decide) only [fld_lo, fld_hi, fld_all, fld_lit, Nat.reduceSub] <;> rfl, ?_⟩
  rw [major22 _ (by simp (disch := decide) only [fld_lo, fld_hi, fld_all, fld_lit, Nat.reduceSub]; rfl)]
  unfold parseMajor22
  rw [show BitVec.toNat (fld (cat 32 (cat 25 (cat 20 (cat 15 (cat 5 p t) 224#10) a) d) 91#7) 22 5) = 7 by simp (disch := decide) only [fld_lo, fld_hi, fld_all, fld_lit, Nat.reduceSub]; rfl]
  simp (disch := decide) only [fld_lo, fld_hi, fld_all, fld_lit, Nat.reduceSub] <;> rfl

theorem vperm (p : BitVec 1) (t : BitVec 4) (b : BitVec 5) (a : BitVec 5) (d : BitVec 5) : Statement (.vperm p t b a d) := by
  refine ⟨fun w e => ?_, fun h e => (nomatch e)⟩
  cases e
  refine ⟨by simp (disch := decide) only [fld_lo, fld_hi, fld_all, fld_lit, Nat.reduceSub] <;> rfl, ?_⟩
  rw [major22 _ (by simp (disch := decide) only [fld_lo, fld_hi, fld_all, fld_lit, Nat.reduceSub]; rfl)]
  unfold parseMajor22
  rw [show BitVec.toNat (fld (cat 32 (cat 25 (cat 20 (cat 15 (cat 10 (cat 5 p t) 8#5) b) a) d) 91#7) 22 5) = 8 by simp (disch := decide) only [fld_lo, fld_hi, fld_all, fld_lit, Nat.reduceSub]; rfl]
  simp (disch := decide) only [fld_lo, fld_hi, fld_all, fld_lit, Nat.reduceSub] <;> rfl

theorem vshuf (p : BitVec 1) (t : BitVec 4) (b : BitVec 5) (a : BitVec 5) (d : BitVec 5) : Statement (.vshuf p t b a d) := by
  refine ⟨fun w e => ?_, fun h e => (nomatch e)⟩
  cases e
  refine ⟨by simp (disch := decide) only [fld_lo, fld_hi, fld_all, fld_lit, Nat.reduceSub] <;> rfl, ?_⟩
  rw [major22 _ (by simp (disch := decide) only [fld_lo, fld_hi, fld_all, fld_lit, Nat.reduceSub]; rfl)]
  unfold parseMajor22
  rw [show BitVec.toNat (fld (cat 32 (cat 25 (cat 20 (cat 15 (cat 10 (cat 5 p t) 9#5) b) a) d) 91#7) 22 5) = 9 by simp (disch := decide) only [fld_lo, fld_hi, fld_all, fld_lit, Nat.reduceSub]; rfl]
  simp (disch := decide) only [fld_lo, fld_hi, fld_all, fld_lit, Nat.reduceSub] <;> rfl

theorem vslide (p : BitVec 1) (s : BitVec 5) (a : BitVec 5) (d : BitVec 5) : Statement (.vslide p s a d) := by
  refine ⟨fun w e => ?_, fun h e => (nomatch e)⟩
  cases e
  refine ⟨by simp (disch := decide) only [fld_lo, fld_hi, fld_all, fld_lit, Nat.reduceSub] <;> rfl, ?_⟩
  rw [major22 _ (by simp (disch := decide) only [fld_lo, fld_hi, fld_all, fld_lit, Nat.reduceSub]; rfl)]
  unfold parseMajor22
  rw [show BitVec.toNat (fld (cat 32 (cat 25 (cat 20 (cat 15 (cat 10 p 10#9) s) a) d) 91#7) 22 5) = 10 by simp (disch := decide) only [fld_lo, fld_hi, fld_all, fld_lit, Nat.reduceSub]; rfl]
  simp (disch := decide) only [fld_lo, fld_hi, fld_all, fld_lit, Nat.reduceSub] <;> rfl

theorem vtoq (w : BitVec 4) (a : BitVec 5) (q : BitVec 1) : Statement (.vtoq w a q) := by
  refine ⟨fun w e => ?_, fun h e => (nomatch e)⟩
  cases e
  refine ⟨by simp (disch := decide) only [fld_lo, fld_hi, fld_all, fld_lit, Nat.reduceSub] <;> rfl, ?_⟩
  rw [major22 _ (by simp (disch := decide) only [fld_lo, fld_hi, fld_all, fld_lit, Nat.reduceSub]; rfl)]
  unfold parseMajor22
  rw [show BitVec.toNat (fld (cat 32 (cat 25 (cat 24 (cat 20 (cat 15 22#11 w) a) 2#4) q) 91#7) 22 5) = 11 by simp (disch := decide) only [fld_lo, fld_hi, fld_all, fld_lit, Nat.reduceSub]; rfl]
  simp (disch := decide) only [fld_lo, fld_hi, fld_all, fld_lit, Nat.reduceSub] <;> rfl

theorem vfromq (q : BitVec 2) (d : BitVec 5) : Statement (.vfromq q d) := by
  refine ⟨fun w e => ?_, fun h e => (nomatch e)⟩
  cases e
  refine ⟨by simp (disch := decide) only [fld_lo, fld_hi, fld_all, fld_lit, Nat.reduceSub] <;> rfl, ?_⟩
  rw [major22 _ (by simp (disch := decide) only [fld_lo, fld_hi, fld_all, fld_lit, Nat.reduceSub]; rfl)]
  unfold parseMajor22
  rw [show BitVec.toNat (fld (cat 32 (cat 25 (cat 20 3200#18 q) d) 91#7) 22 5) = 12 by simp (disch := decide) only [fld_lo, fld_hi, fld_all, fld_lit, Nat.reduceSub]; rfl]
  simp (disch := decide) only [fld_lo, fld_hi, fld_all, fld_lit, Nat.reduceSub] <;> rfl

theorem vfromqWord (w : BitVec 4) (q : BitVec 2) (d : BitVec 5) : Statement (.vfromqWord w q d) := by
  refine ⟨fun w e => ?_, fun h e => (nomatch e)⟩
  cases e
  refine ⟨by simp (disch := decide) only [fld_lo, fld_hi, fld_all, fld_lit, Nat.reduceSub] <;> rfl, ?_⟩
  rw [major22 _ (by simp (disch := decide) only [fld_lo, fld_hi, fld_all, fld_lit, Nat.reduceSub]; rfl)]
  unfold parseMajor22
  rw [show BitVec.toNat (fld (cat 32 (cat 25 (cat 20 (cat 18 (cat 15 24#11 w) 0#3) q) d) 91#7) 22 5) = 12 by simp (disch := decide) only [fld_lo, fld_hi, fld_all, fld_lit, Nat.reduceSub]; rfl]
  simp (disch := decide) only [fld_lo, fld_hi, fld_all, fld_lit, Nat.reduceSub]
  rw [if_neg fun h => (by decide : ∀ w : BitVec 4, fld (cat 18 (cat 15 (24#11) w) 0#3) 0 8 ≠ 128#8) w h.2]
  rfl

theorem pand (b : BitVec 3) (a : BitVec 3) (d : BitVec 3) : Statement (.pand b a d) := by
  refine ⟨fun w e => ?_, fun h e => (nomatch e)⟩
  cases e
  refine ⟨by simp (disch := decide) only [fld_lo, fld_hi, fld_all, fld_lit, Nat.reduceSub] <;> rfl, ?_⟩
  rw [major22 _ (by simp (disch := decide) only [fld_lo, fld_hi, fld_all, fld_lit, Nat.reduceSub]; rfl)]
  unfold parseMajor22
  rw [show BitVec.toNat (fld (cat 32 (cat 25 (cat 22 (cat 20 (cat 17 (cat 15 52#12 b) 0#2) a) 0#2) d) 91#7) 22 5) = 13 by simp (disch := decide) only [fld_lo, fld_hi, fld_all, fld_lit, Nat.reduceSub]; rfl]
  simp (disch := decide) only [fld_lo, fld_hi, fld_all, fld_lit, Nat.reduceSub] <;> rfl

theorem por (b : BitVec 3) (a : BitVec 3) (d : BitVec 3) : Statement (.por b a d) := by
  refine ⟨fun w e => ?_, fun h e => (nomatch e)⟩
  cases e
  refine ⟨by simp (disch := decide) only [fld_lo, fld_hi, fld_all, fld_lit, Nat.reduceSub] <;> rfl, ?_⟩
  rw [major22 _ (by simp (disch := decide) only [fld_lo, fld_hi, fld_all, fld_lit, Nat.reduceSub]; rfl)]
  unfold parseMajor22
  rw [show BitVec.toNat (fld (cat 32 (cat 25 (cat 22 (cat 20 (cat 17 (cat 15 56#12 b) 0#2) a) 0#2) d) 91#7) 22 5) = 14 by simp (disch := decide) only [fld_lo, fld_hi, fld_all, fld_lit, Nat.reduceSub]; rfl]
  simp (disch := decide) only [fld_lo, fld_hi, fld_all, fld_lit, Nat.reduceSub] <;> rfl

theorem pnot (a : BitVec 3) (d : BitVec 3) : Statement (.pnot a d) := by
  refine ⟨fun w e => ?_, fun h e => (nomatch e)⟩
  cases e
  refine ⟨by simp (disch := decide) only [fld_lo, fld_hi, fld_all, fld_lit, Nat.reduceSub] <;> rfl, ?_⟩
  rw [major22 _ (by simp (disch := decide) only [fld_lo, fld_hi, fld_all, fld_lit, Nat.reduceSub]; rfl)]
  unfold parseMajor22
  rw [show BitVec.toNat (fld (cat 32 (cat 25 (cat 22 (cat 20 1920#17 a) 0#2) d) 91#7) 22 5) = 15 by simp (disch := decide) only [fld_lo, fld_hi, fld_all, fld_lit, Nat.reduceSub]; rfl]
  simp (disch := decide) only [fld_lo, fld_hi, fld_all, fld_lit, Nat.reduceSub] <;> rfl

theorem pmov (a : BitVec 3) (d : BitVec 3) : Statement (.pmov a d) := by
  refine ⟨fun w e => ?_, fun h e => (nomatch e)⟩
  cases e
  refine ⟨by simp (disch := decide) only [fld_lo, fld_hi, fld_all, fld_lit, Nat.reduceSub] <;> rfl, ?_⟩
  rw [major22 _ (by simp (disch := decide) only [fld_lo, fld_hi, fld_all, fld_lit, Nat.reduceSub]; rfl)]
  unfold parseMajor22
  rw [show BitVec.toNat (fld (cat 32 (cat 25 (cat 22 (cat 20 2048#17 a) 0#2) d) 91#7) 22 5) = 16 by simp (disch := decide) only [fld_lo, fld_hi, fld_all, fld_lit, Nat.reduceSub]; rfl]
  simp (disch := decide) only [fld_lo, fld_hi, fld_all, fld_lit, Nat.reduceSub] <;> rfl

theorem ptobq (l : BitVec 1) (a : BitVec 3) : Statement (.ptobq l a) := by
  refine ⟨fun w e => ?_, fun h e => (nomatch e)⟩
  cases e
  refine ⟨by simp (disch := decide) only [fld_lo, fld_hi, fld_all, fld_lit, Nat.reduceSub] <;> rfl, ?_⟩
  rw [major22 _ (by simp (disch := decide) only [fld_lo, fld_hi, fld_all, fld_lit, Nat.reduceSub]; rfl)]
  unfold parseMajor22
  rw [show BitVec.toNat (fld (cat 32 (cat 20 (cat 17 (cat 15 272#14 l) 0#2) a) 91#12) 22 5) = 17 by simp (disch := decide) only [fld_lo, fld_hi, fld_all, fld_lit, Nat.reduceSub]; rfl]
  simp (disch := decide) only [fld_lo, fld_hi, fld_all, fld_lit, Nat.reduceSub] <;> rfl

theorem eloop (n : BitVec 11) (m : BitVec 5) : Statement (.eloop n m) := by
  refine ⟨fun w e => ?_, fun h e => (nomatch e)⟩
  cases e
  refine ⟨by simp (disch := decide) only [fld_lo, fld_hi, fld_all, fld_lit, Nat.reduceSub] <;> rfl, ?_⟩
  rw [major23 _ (by simp (disch := decide) only [fld_lo, fld_hi, fld_all, fld_lit, Nat.reduceSub]; rfl)]
  unfold parseMajor23
  rw [show BitVec.toNat (fld (cat 32 (cat 25 (cat 20 (cat 12 0#1 n) 0#8) m) 95#7) 17 3) = 0 by simp (disch := decide) only [fld_lo, fld_hi, fld_all, fld_lit, Nat.reduceSub]; rfl]
  simp (disch := decide) only [fld_lo, fld_hi, fld_all, fld_lit, Nat.reduceSub] <;> rfl

theorem eloopq (q : BitVec 2) (m : BitVec 5) : Statement (.eloopq q m) := by
  refine ⟨fun w e => ?_, fun h e => (nomatch e)⟩
  cases e
  refine ⟨by simp (disch := decide) only [fld_lo, fld_hi, fld_all, fld_lit, Nat.reduceSub] <;> rfl, ?_⟩
  rw [major23 _ (by simp (disch := decide) only [fld_lo, fld_hi, fld_all, fld_lit, Nat.reduceSub]; rfl)]
  unfold parseMajor23
  rw [show BitVec.toNat (fld (cat 32 (cat 25 (cat 20 8#18 q) m) 95#7) 17 3) = 1 by simp (disch := decide) only [fld_lo, fld_hi, fld_all, fld_lit, Nat.reduceSub]; rfl]
  simp (disch := decide) only [fld_lo, fld_hi, fld_all, fld_lit, Nat.reduceSub] <;> rfl

theorem eflags (k : BitVec 5) (q : BitVec 1) : Statement (.eflags k q) := by
  refine ⟨fun w e => ?_, fun h e => (nomatch e)⟩
  cases e
  refine ⟨by simp (disch := decide) only [fld_lo, fld_hi, fld_all, fld_lit, Nat.reduceSub] <;> rfl, ?_⟩
  rw [major23 _ (by simp (disch := decide) only [fld_lo, fld_hi, fld_all, fld_lit, Nat.reduceSub]; rfl)]
  unfold parseMajor23
  rw [show BitVec.toNat (fld (cat 32 (cat 25 (cat 24 (cat 12 0#7 k) 1026#12) q) 95#7) 17 3) = 2 by simp (disch := decide) only [fld_lo, fld_hi, fld_all, fld_lit, Nat.reduceSub]; rfl]
  simp (disch := decide) only [fld_lo, fld_hi, fld_all, fld_lit, Nat.reduceSub] <;> rfl

theorem erm (e : BitVec 1) (r : BitVec 3) : Statement (.erm e r) := by
  refine ⟨fun w e => ?_, fun h e => (nomatch e)⟩
  cases e
  refine ⟨by simp (disch := decide) only [fld_lo, fld_hi, fld_all, fld_lit, Nat.reduceSub] <;> rfl, ?_⟩
  rw [major23 _ (by simp (disch := decide) only [fld_lo, fld_hi, fld_all, fld_lit, Nat.reduceSub]; rfl)]
  unfold parseMajor23
  rw [show BitVec.toNat (fld (cat 32 (cat 12 (cat 9 0#8 e) r) 393311#20) 17 3) = 3 by simp (disch := decide) only [fld_lo, fld_hi, fld_all, fld_lit, Nat.reduceSub]; rfl]
  simp (disch := decide) only [fld_lo, fld_hi, fld_all, fld_lit, Nat.reduceSub] <;> rfl

theorem mldw (f : BitVec 5) (a : BitVec 5) (w : BitVec 1) : Statement (.mldw f a w) := by
  refine ⟨fun w e => ?_, fun h e => (nomatch e)⟩
  cases e
  refine ⟨by simp (disch := decide) only [fld_lo, fld_hi, fld_all, fld_lit, Nat.reduceSub] <;> rfl, ?_⟩
  rw [major24 _ (by simp (disch := decide) only [fld_lo, fld_hi, fld_all, fld_lit, Nat.reduceSub]; rfl)]
  unfold parseMajor24
  rw [show BitVec.toNat (fld (cat 32 (cat 25 (cat 24 (cat 20 (cat 15 f 0#10) a) 0#4) w) 99#7) 22 5) = 0 by simp (disch := decide) only [fld_lo, fld_hi, fld_all, fld_lit, Nat.reduceSub]; rfl]
  simp (disch := decide) only [fld_lo, fld_hi, fld_all, fld_lit, Nat.reduceSub] <;> rfl

theorem mma (f : BitVec 5) (w : BitVec 1) (a : BitVec 5) (d : BitVec 4) : Statement (.mma f w a d) := by
  refine ⟨fun w e => ?_, fun h e => (nomatch e)⟩
  cases e
  refine ⟨by simp (disch := decide) only [fld_lo, fld_hi, fld_all, fld_lit, Nat.reduceSub] <;> rfl, ?_⟩
  rw [major24 _ (by simp (disch := decide) only [fld_lo, fld_hi, fld_all, fld_lit, Nat.reduceSub]; rfl)]
  unfold parseMajor24
  rw [show BitVec.toNat (fld (cat 32 (cat 25 (cat 21 (cat 20 (cat 15 (cat 14 f 16#9) w) a) 0#1) d) 99#7) 22 5) = 1 by simp (disch := decide) only [fld_lo, fld_hi, fld_all, fld_lit, Nat.reduceSub]; rfl]
  simp (disch := decide) only [fld_lo, fld_hi, fld_all, fld_lit, Nat.reduceSub] <;> rfl

theorem mmac (f : BitVec 5) (w : BitVec 1) (a : BitVec 5) (d : BitVec 4) : Statement (.mmac f w a d) := by
  refine ⟨fun w e => ?_, fun h e => (nomatch e)⟩
  cases e
  refine ⟨by simp (disch := decide) only [fld_lo, fld_hi, fld_all, fld_lit, Nat.reduceSub] <;> rfl, ?_⟩
  rw [major24 _ (by simp (disch := decide) only [fld_lo, fld_hi, fld_all, fld_lit, Nat.reduceSub]; rfl)]
  unfold parseMajor24
  rw [show BitVec.toNat (fld (cat 32 (cat 25 (cat 21 (cat 20 (cat 15 (cat 14 f 32#9) w) a) 0#1) d) 99#7) 22 5) = 2 by simp (disch := decide) only [fld_lo, fld_hi, fld_all, fld_lit, Nat.reduceSub]; rfl]
  simp (disch := decide) only [fld_lo, fld_hi, fld_all, fld_lit, Nat.reduceSub] <;> rfl

theorem mzero (d : BitVec 4) : Statement (.mzero d) := by
  refine ⟨fun w e => ?_, fun h e => (nomatch e)⟩
  cases e
  refine ⟨by simp (disch := decide) only [fld_lo, fld_hi, fld_all, fld_lit, Nat.reduceSub] <;> rfl, ?_⟩
  rw [major24 _ (by simp (disch := decide) only [fld_lo, fld_hi, fld_all, fld_lit, Nat.reduceSub]; rfl)]
  unfold parseMajor24
  rw [show BitVec.toNat (fld (cat 32 (cat 25 6144#21 d) 99#7) 22 5) = 3 by simp (disch := decide) only [fld_lo, fld_hi, fld_all, fld_lit, Nat.reduceSub]; rfl]
  simp (disch := decide) only [fld_lo, fld_hi, fld_all, fld_lit, Nat.reduceSub] <;> rfl

theorem mstore (f : BitVec 5) (a : BitVec 5) (d : BitVec 4) : Statement (.mstore f a d) := by
  refine ⟨fun w e => ?_, fun h e => (nomatch e)⟩
  cases e
  refine ⟨by simp (disch := decide) only [fld_lo, fld_hi, fld_all, fld_lit, Nat.reduceSub] <;> rfl, ?_⟩
  rw [major24 _ (by simp (disch := decide) only [fld_lo, fld_hi, fld_all, fld_lit, Nat.reduceSub]; rfl)]
  unfold parseMajor24
  rw [show BitVec.toNat (fld (cat 32 (cat 25 (cat 21 (cat 20 (cat 15 f 128#10) a) 0#1) d) 99#7) 22 5) = 4 by simp (disch := decide) only [fld_lo, fld_hi, fld_all, fld_lit, Nat.reduceSub]; rfl]
  simp (disch := decide) only [fld_lo, fld_hi, fld_all, fld_lit, Nat.reduceSub] <;> rfl

theorem mmas (f : BitVec 5) (a : BitVec 5) (d : BitVec 4) : Statement (.mmas f a d) := by
  refine ⟨fun w e => ?_, fun h e => (nomatch e)⟩
  cases e
  refine ⟨by simp (disch := decide) only [fld_lo, fld_hi, fld_all, fld_lit, Nat.reduceSub] <;> rfl, ?_⟩
  rw [major24 _ (by simp (disch := decide) only [fld_lo, fld_hi, fld_all, fld_lit, Nat.reduceSub]; rfl)]
  unfold parseMajor24
  rw [show BitVec.toNat (fld (cat 32 (cat 25 (cat 21 (cat 20 (cat 15 f 160#10) a) 0#1) d) 99#7) 22 5) = 5 by simp (disch := decide) only [fld_lo, fld_hi, fld_all, fld_lit, Nat.reduceSub]; rfl]
  simp (disch := decide) only [fld_lo, fld_hi, fld_all, fld_lit, Nat.reduceSub] <;> rfl

theorem mtopk (b : BitVec 4) (a : BitVec 5) (d : BitVec 4) : Statement (.mtopk b a d) := by
  refine ⟨fun w e => ?_, fun h e => (nomatch e)⟩
  cases e
  refine ⟨by simp (disch := decide) only [fld_lo, fld_hi, fld_all, fld_lit, Nat.reduceSub] <;> rfl, ?_⟩
  rw [major24 _ (by simp (disch := decide) only [fld_lo, fld_hi, fld_all, fld_lit, Nat.reduceSub]; rfl)]
  unfold parseMajor24
  rw [show BitVec.toNat (fld (cat 32 (cat 25 (cat 21 (cat 20 (cat 15 12#11 b) a) 0#1) d) 99#7) 22 5) = 6 by simp (disch := decide) only [fld_lo, fld_hi, fld_all, fld_lit, Nat.reduceSub]; rfl]
  simp (disch := decide) only [fld_lo, fld_hi, fld_all, fld_lit, Nat.reduceSub] <;> rfl

theorem mtkr (a : BitVec 5) (d : BitVec 4) : Statement (.mtkr a d) := by
  refine ⟨fun w e => ?_, fun h e => (nomatch e)⟩
  cases e
  refine ⟨by simp (disch := decide) only [fld_lo, fld_hi, fld_all, fld_lit, Nat.reduceSub] <;> rfl, ?_⟩
  rw [major24 _ (by simp (disch := decide) only [fld_lo, fld_hi, fld_all, fld_lit, Nat.reduceSub]; rfl)]
  unfold parseMajor24
  rw [show BitVec.toNat (fld (cat 32 (cat 25 (cat 21 (cat 20 224#15 a) 0#1) d) 99#7) 22 5) = 7 by simp (disch := decide) only [fld_lo, fld_hi, fld_all, fld_lit, Nat.reduceSub]; rfl]
  simp (disch := decide) only [fld_lo, fld_hi, fld_all, fld_lit, Nat.reduceSub] <;> rfl

theorem mscl (r : BitVec 1) (a : BitVec 5) (d : BitVec 4) : Statement (.mscl r a d) := by
  refine ⟨fun w e => ?_, fun h e => (nomatch e)⟩
  cases e
  refine ⟨by simp (disch := decide) only [fld_lo, fld_hi, fld_all, fld_lit, Nat.reduceSub] <;> rfl, ?_⟩
  rw [major24 _ (by simp (disch := decide) only [fld_lo, fld_hi, fld_all, fld_lit, Nat.reduceSub]; rfl)]
  unfold parseMajor24
  rw [show BitVec.toNat (fld (cat 32 (cat 25 (cat 21 (cat 20 (cat 15 (cat 5 0#4 r) 256#10) a) 0#1) d) 99#7) 22 5) = 8 by simp (disch := decide) only [fld_lo, fld_hi, fld_all, fld_lit, Nat.reduceSub]; rfl]
  simp (disch := decide) only [fld_lo, fld_hi, fld_all, fld_lit, Nat.reduceSub] <;> rfl

theorem mstat (c : BitVec 1) (b : BitVec 4) (d : BitVec 5) : Statement (.mstat c b d) := by
  refine ⟨fun w e => ?_, fun h e => (nomatch e)⟩
  cases e
  refine ⟨by simp (disch := decide) only [fld_lo, fld_hi, fld_all, fld_lit, Nat.reduceSub] <;> rfl, ?_⟩
  rw [major24 _ (by simp (disch := decide) only [fld_lo, fld_hi, fld_all, fld_lit, Nat.reduceSub]; rfl)]
  unfold parseMajor24
  rw [show BitVec.toNat (fld (cat 32 (cat 25 (cat 20 (cat 15 (cat 11 (cat 5 0#4 c) 18#6) b) 0#5) d) 99#7) 22 5) = 9 by simp (disch := decide) only [fld_lo, fld_hi, fld_all, fld_lit, Nat.reduceSub]; rfl]
  simp (disch := decide) only [fld_lo, fld_hi, fld_all, fld_lit, Nat.reduceSub] <;> rfl

theorem mchk (d : BitVec 4) : Statement (.mchk d) := by
  refine ⟨fun w e => ?_, fun h e => (nomatch e)⟩
  cases e
  refine ⟨by simp (disch := decide) only [fld_lo, fld_hi, fld_all, fld_lit, Nat.reduceSub] <;> rfl, ?_⟩
  rw [major24 _ (by simp (disch := decide) only [fld_lo, fld_hi, fld_all, fld_lit, Nat.reduceSub]; rfl)]
  unfold parseMajor24
  rw [show BitVec.toNat (fld (cat 32 (cat 25 20480#21 d) 99#7) 22 5) = 10 by simp (disch := decide) only [fld_lo, fld_hi, fld_all, fld_lit, Nat.reduceSub]; rfl]
  simp (disch := decide) only [fld_lo, fld_hi, fld_all, fld_lit, Nat.reduceSub] <;> rfl

theorem mcorr (d : BitVec 4) : Statement (.mcorr d) := by
  refine ⟨fun w e => ?_, fun h e => (nomatch e)⟩
  cases e
  refine ⟨by simp (disch := decide) only [fld_lo, fld_hi, fld_all, fld_lit, Nat.reduceSub] <;> rfl, ?_⟩
  rw [major24 _ (by simp (disch := decide) only [fld_lo, fld_hi, fld_all, fld_lit, Nat.reduceSub]; rfl)]
  unfold parseMajor24
  rw [show BitVec.toNat (fld (cat 32 (cat 25 22528#21 d) 99#7) 22 5) = 11 by simp (disch := decide) only [fld_lo, fld_hi, fld_all, fld_lit, Nat.reduceSub]; rfl]
  simp (disch := decide) only [fld_lo, fld_hi, fld_all, fld_lit, Nat.reduceSub] <;> rfl

theorem macc (b : BitVec 4) (d : BitVec 4) : Statement (.macc b d) := by
  refine ⟨fun w e => ?_, fun h e => (nomatch e)⟩
  cases e
  refine ⟨by simp (disch := decide) only [fld_lo, fld_hi, fld_all, fld_lit, Nat.reduceSub] <;> rfl, ?_⟩
  rw [major24 _ (by simp (disch := decide) only [fld_lo, fld_hi, fld_all, fld_lit, Nat.reduceSub]; rfl)]
  unfold parseMajor24
  rw [show BitVec.toNat (fld (cat 32 (cat 25 (cat 21 (cat 15 24#11 b) 0#6) d) 99#7) 22 5) = 12 by simp (disch := decide) only [fld_lo, fld_hi, fld_all, fld_lit, Nat.reduceSub]; rfl]
  simp (disch := decide) only [fld_lo, fld_hi, fld_all, fld_lit, Nat.reduceSub] <;> rfl

theorem mlda (f : BitVec 1) (a : BitVec 5) (d : BitVec 4) : Statement (.mlda f a d) := by
  refine ⟨fun w e => ?_, fun h e => (nomatch e)⟩
  cases e
  refine ⟨by simp (disch := decide) only [fld_lo, fld_hi, fld_all, fld_lit, Nat.reduceSub] <;> rfl, ?_⟩
  rw [major24 _ (by simp (disch := decide) only [fld_lo, fld_hi, fld_all, fld_lit, Nat.reduceSub]; rfl)]
  unfold parseMajor24
  rw [show BitVec.toNat (fld (cat 32 (cat 25 (cat 21 (cat 20 (cat 15 (cat 5 0#4 f) 416#10) a) 0#1) d) 99#7) 22 5) = 13 by simp (disch := decide) only [fld_lo, fld_hi, fld_all, fld_lit, Nat.reduceSub]; rfl]
  simp (disch := decide) only [fld_lo, fld_hi, fld_all, fld_lit, Nat.reduceSub] <;> rfl

theorem fadd (r : BitVec 3) (b : BitVec 5) (a : BitVec 5) (d : BitVec 5) : Statement (.fadd r b a d) := by
  refine ⟨fun w e => ?_, fun h e => (nomatch e)⟩
  cases e
  refine ⟨by simp (disch := decide) only [fld_lo, fld_hi, fld_all, fld_lit, Nat.reduceSub] <;> rfl, ?_⟩
  rw [major25 _ (by simp (disch := decide) only [fld_lo, fld_hi, fld_all, fld_lit, Nat.reduceSub]; rfl)]
  unfold parseMajor25
  rw [show BitVec.toNat (fld (cat 32 (cat 25 (cat 20 (cat 15 (cat 10 (cat 5 0#2 r) 0#5) b) a) d) 103#7) 22 5) = 0 by simp (disch := decide) only [fld_lo, fld_hi, fld_all, fld_lit, Nat.reduceSub]; rfl]
  simp (disch := decide) only [fld_lo, fld_hi, fld_all, fld_lit, Nat.reduceSub] <;> rfl

theorem fsub (r : BitVec 3) (b : BitVec 5) (a : BitVec 5) (d : BitVec 5) : Statement (.fsub r b a d) := by
  refine ⟨fun w e => ?_, fun h e => (nomatch e)⟩
  cases e
  refine ⟨by simp (disch := decide) only [fld_lo, fld_hi, fld_all, fld_lit, Nat.reduceSub] <;> rfl, ?_⟩
  rw [major25 _ (by simp (disch := decide) only [fld_lo, fld_hi, fld_all, fld_lit, Nat.reduceSub]; rfl)]
  unfold parseMajor25
  rw [show BitVec.toNat (fld (cat 32 (cat 25 (cat 20 (cat 15 (cat 10 (cat 5 0#2 r) 1#5) b) a) d) 103#7) 22 5) = 1 by simp (disch := decide) only [fld_lo, fld_hi, fld_all, fld_lit, Nat.reduceSub]; rfl]
  simp (disch := decide) only [fld_lo, fld_hi, fld_all, fld_lit, Nat.reduceSub] <;> rfl

theorem fmul (r : BitVec 3) (b : BitVec 5) (a : BitVec 5) (d : BitVec 5) : Statement (.fmul r b a d) := by
  refine ⟨fun w e => ?_, fun h e => (nomatch e)⟩
  cases e
  refine ⟨by simp (disch := decide) only [fld_lo, fld_hi, fld_all, fld_lit, Nat.reduceSub] <;> rfl, ?_⟩
  rw [major25 _ (by simp (disch := decide) only [fld_lo, fld_hi, fld_all, fld_lit, Nat.reduceSub]; rfl)]
  unfold parseMajor25
  rw [show BitVec.toNat (fld (cat 32 (cat 25 (cat 20 (cat 15 (cat 10 (cat 5 0#2 r) 2#5) b) a) d) 103#7) 22 5) = 2 by simp (disch := decide) only [fld_lo, fld_hi, fld_all, fld_lit, Nat.reduceSub]; rfl]
  simp (disch := decide) only [fld_lo, fld_hi, fld_all, fld_lit, Nat.reduceSub] <;> rfl

theorem fdiv (r : BitVec 3) (b : BitVec 5) (a : BitVec 5) (d : BitVec 5) : Statement (.fdiv r b a d) := by
  refine ⟨fun w e => ?_, fun h e => (nomatch e)⟩
  cases e
  refine ⟨by simp (disch := decide) only [fld_lo, fld_hi, fld_all, fld_lit, Nat.reduceSub] <;> rfl, ?_⟩
  rw [major25 _ (by simp (disch := decide) only [fld_lo, fld_hi, fld_all, fld_lit, Nat.reduceSub]; rfl)]
  unfold parseMajor25
  rw [show BitVec.toNat (fld (cat 32 (cat 25 (cat 20 (cat 15 (cat 10 (cat 5 0#2 r) 3#5) b) a) d) 103#7) 22 5) = 3 by simp (disch := decide) only [fld_lo, fld_hi, fld_all, fld_lit, Nat.reduceSub]; rfl]
  simp (disch := decide) only [fld_lo, fld_hi, fld_all, fld_lit, Nat.reduceSub] <;> rfl

theorem fsqrt (r : BitVec 3) (a : BitVec 5) (d : BitVec 5) : Statement (.fsqrt r a d) := by
  refine ⟨fun w e => ?_, fun h e => (nomatch e)⟩
  cases e
  refine ⟨by simp (disch := decide) only [fld_lo, fld_hi, fld_all, fld_lit, Nat.reduceSub] <;> rfl, ?_⟩
  rw [major25 _ (by simp (disch := decide) only [fld_lo, fld_hi, fld_all, fld_lit, Nat.reduceSub]; rfl)]
  unfold parseMajor25
  rw [show BitVec.toNat (fld (cat 32 (cat 25 (cat 20 (cat 15 (cat 5 0#2 r) 128#10) a) d) 103#7) 22 5) = 4 by simp (disch := decide) only [fld_lo, fld_hi, fld_all, fld_lit, Nat.reduceSub]; rfl]
  simp (disch := decide) only [fld_lo, fld_hi, fld_all, fld_lit, Nat.reduceSub] <;> rfl

theorem fmin (b : BitVec 5) (a : BitVec 5) (d : BitVec 5) : Statement (.fmin b a d) := by
  refine ⟨fun w e => ?_, fun h e => (nomatch e)⟩
  cases e
  refine ⟨by simp (disch := decide) only [fld_lo, fld_hi, fld_all, fld_lit, Nat.reduceSub] <;> rfl, ?_⟩
  rw [major25 _ (by simp (disch := decide) only [fld_lo, fld_hi, fld_all, fld_lit, Nat.reduceSub]; rfl)]
  unfold parseMajor25
  rw [show BitVec.toNat (fld (cat 32 (cat 25 (cat 20 (cat 15 5#10 b) a) d) 103#7) 22 5) = 5 by simp (disch := decide) only [fld_lo, fld_hi, fld_all, fld_lit, Nat.reduceSub]; rfl]
  simp (disch := decide) only [fld_lo, fld_hi, fld_all, fld_lit, Nat.reduceSub] <;> rfl

theorem fmax (b : BitVec 5) (a : BitVec 5) (d : BitVec 5) : Statement (.fmax b a d) := by
  refine ⟨fun w e => ?_, fun h e => (nomatch e)⟩
  cases e
  refine ⟨by simp (disch := decide) only [fld_lo, fld_hi, fld_all, fld_lit, Nat.reduceSub] <;> rfl, ?_⟩
  rw [major25 _ (by simp (disch := decide) only [fld_lo, fld_hi, fld_all, fld_lit, Nat.reduceSub]; rfl)]
  unfold parseMajor25
  rw [show BitVec.toNat (fld (cat 32 (cat 25 (cat 20 (cat 15 6#10 b) a) d) 103#7) 22 5) = 6 by simp (disch := decide) only [fld_lo, fld_hi, fld_all, fld_lit, Nat.reduceSub]; rfl]
  simp (disch := decide) only [fld_lo, fld_hi, fld_all, fld_lit, Nat.reduceSub] <;> rfl

theorem fcmplt (b : BitVec 5) (a : BitVec 5) (d : BitVec 5) : Statement (.fcmplt b a d) := by
  refine ⟨fun w e => ?_, fun h e => (nomatch e)⟩
  cases e
  refine ⟨by simp (disch := decide) only [fld_lo, fld_hi, fld_all, fld_lit, Nat.reduceSub] <;> rfl, ?_⟩
  rw [major25 _ (by simp (disch := decide) only [fld_lo, fld_hi, fld_all, fld_lit, Nat.reduceSub]; rfl)]
  unfold parseMajor25
  rw [show BitVec.toNat (fld (cat 32 (cat 25 (cat 20 (cat 15 7#10 b) a) d) 103#7) 22 5) = 7 by simp (disch := decide) only [fld_lo, fld_hi, fld_all, fld_lit, Nat.reduceSub]; rfl]
  simp (disch := decide) only [fld_lo, fld_hi, fld_all, fld_lit, Nat.reduceSub] <;> rfl

theorem fcmpeq (b : BitVec 5) (a : BitVec 5) (d : BitVec 5) : Statement (.fcmpeq b a d) := by
  refine ⟨fun w e => ?_, fun h e => (nomatch e)⟩
  cases e
  refine ⟨by simp (disch := decide) only [fld_lo, fld_hi, fld_all, fld_lit, Nat.reduceSub] <;> rfl, ?_⟩
  rw [major25 _ (by simp (disch := decide) only [fld_lo, fld_hi, fld_all, fld_lit, Nat.reduceSub]; rfl)]
  unfold parseMajor25
  rw [show BitVec.toNat (fld (cat 32 (cat 25 (cat 20 (cat 15 8#10 b) a) d) 103#7) 22 5) = 8 by simp (disch := decide) only [fld_lo, fld_hi, fld_all, fld_lit, Nat.reduceSub]; rfl]
  simp (disch := decide) only [fld_lo, fld_hi, fld_all, fld_lit, Nat.reduceSub] <;> rfl

theorem fcvti (w : BitVec 1) (u : BitVec 1) (r : BitVec 3) (a : BitVec 5) (d : BitVec 5) : Statement (.fcvti w u r a d) := by
  refine ⟨fun w e => ?_, fun h e => (nomatch e)⟩
  cases e
  refine ⟨by simp (disch := decide) only [fld_lo, fld_hi, fld_all, fld_lit, Nat.reduceSub] <;> rfl, ?_⟩
  rw [major25 _ (by simp (disch := decide) only [fld_lo, fld_hi, fld_all, fld_lit, Nat.reduceSub]; rfl)]
  unfold parseMajor25
  rw [show BitVec.toNat (fld (cat 32 (cat 25 (cat 20 (cat 15 (cat 5 (cat 2 w u) r) 288#10) a) d) 103#7) 22 5) = 9 by simp (disch := decide) only [fld_lo, fld_hi, fld_all, fld_lit, Nat.reduceSub]; rfl]
  simp (disch := decide) only [fld_lo, fld_hi, fld_all, fld_lit, Nat.reduceSub] <;> rfl

theorem fcvtf (w : BitVec 1) (u : BitVec 1) (r : BitVec 3) (a : BitVec 5) (d : BitVec 5) : Statement (.fcvtf w u r a d) := by
  refine ⟨fun w e => ?_, fun h e => (nomatch e)⟩
  cases e
  refine ⟨by simp (disch := decide) only [fld_lo, fld_hi, fld_all, fld_lit, Nat.reduceSub] <;> rfl, ?_⟩
  rw [major25 _ (by simp (disch := decide) only [fld_lo, fld_hi, fld_all, fld_lit, Nat.reduceSub]; rfl)]
  unfold parseMajor25
  rw [show BitVec.toNat (fld (cat 32 (cat 25 (cat 20 (cat 15 (cat 5 (cat 2 w u) r) 320#10) a) d) 103#7) 22 5) = 10 by simp (disch := decide) only [fld_lo, fld_hi, fld_all, fld_lit, Nat.reduceSub]; rfl]
  simp (disch := decide) only [fld_lo, fld_hi, fld_all, fld_lit, Nat.reduceSub] <;> rfl

theorem ffma (r : BitVec 3) (b : BitVec 5) (a : BitVec 5) (d : BitVec 5) : Statement (.ffma r b a d) := by
  refine ⟨fun w e => ?_, fun h e => (nomatch e)⟩
  cases e
  refine ⟨by simp (disch := decide) only [fld_lo, fld_hi, fld_all, fld_lit, Nat.reduceSub] <;> rfl, ?_⟩
  rw [major25 _ (by simp (disch := decide) only [fld_lo, fld_hi, fld_all, fld_lit, Nat.reduceSub]; rfl)]
  unfold parseMajor25
  rw [show BitVec.toNat (fld (cat 32 (cat 25 (cat 20 (cat 15 (cat 10 (cat 5 0#2 r) 11#5) b) a) d) 103#7) 22 5) = 11 by simp (disch := decide) only [fld_lo, fld_hi, fld_all, fld_lit, Nat.reduceSub]; rfl]
  simp (disch := decide) only [fld_lo, fld_hi, fld_all, fld_lit, Nat.reduceSub] <;> rfl

theorem trap (b : BitVec 5) (a : BitVec 5) : Statement (.trap b a) := by
  refine ⟨fun w e => ?_, fun h e => (nomatch e)⟩
  cases e
  refine ⟨by simp (disch := decide) only [fld_lo, fld_hi, fld_all, fld_lit, Nat.reduceSub] <;> rfl, ?_⟩
  rw [major26 _ (by simp (disch := decide) only [fld_lo, fld_hi, fld_all, fld_lit, Nat.reduceSub]; rfl)]
  unfold parseMajor26
  rw [show BitVec.toNat (fld (cat 32 (cat 20 (cat 15 0#10 b) a) 107#12) 22 5) = 0 by simp (disch := decide) only [fld_lo, fld_hi, fld_all, fld_lit, Nat.reduceSub]; rfl]
  simp (disch := decide) only [fld_lo, fld_hi, fld_all, fld_lit, Nat.reduceSub] <;> rfl

theorem udf (i : BitVec 5) (j : BitVec 15) : Statement (.udf i j) := by
  refine ⟨fun w e => ?_, fun h e => (nomatch e)⟩
  cases e
  refine ⟨by simp (disch := decide) only [fld_lo, fld_hi, fld_all, fld_lit, Nat.reduceSub] <;> rfl, ?_⟩
  rw [major26 _ (by simp (disch := decide) only [fld_lo, fld_hi, fld_all, fld_lit, Nat.reduceSub]; rfl)]
  unfold parseMajor26
  rw [show BitVec.toNat (fld (cat 32 (cat 25 (cat 10 i 1#5) j) 107#7) 22 5) = 1 by simp (disch := decide) only [fld_lo, fld_hi, fld_all, fld_lit, Nat.reduceSub]; rfl]
  simp (disch := decide) only [fld_lo, fld_hi, fld_all, fld_lit, Nat.reduceSub] <;> rfl

theorem sinv (l : BitVec 1) (b : BitVec 5) (a : BitVec 5) : Statement (.sinv l b a) := by
  refine ⟨fun w e => ?_, fun h e => (nomatch e)⟩
  cases e
  refine ⟨by simp (disch := decide) only [fld_lo, fld_hi, fld_all, fld_lit, Nat.reduceSub] <;> rfl, ?_⟩
  rw [major26 _ (by simp (disch := decide) only [fld_lo, fld_hi, fld_all, fld_lit, Nat.reduceSub]; rfl)]
  unfold parseMajor26
  rw [show BitVec.toNat (fld (cat 32 (cat 20 (cat 15 (cat 10 (cat 5 0#4 l) 2#5) b) a) 107#12) 22 5) = 2 by simp (disch := decide) only [fld_lo, fld_hi, fld_all, fld_lit, Nat.reduceSub]; rfl]
  simp (disch := decide) only [fld_lo, fld_hi, fld_all, fld_lit, Nat.reduceSub] <;> rfl

theorem frply (b : BitVec 5) (a : BitVec 5) : Statement (.frply b a) := by
  refine ⟨fun w e => ?_, fun h e => (nomatch e)⟩
  cases e
  refine ⟨by simp (disch := decide) only [fld_lo, fld_hi, fld_all, fld_lit, Nat.reduceSub] <;> rfl, ?_⟩
  rw [major26 _ (by simp (disch := decide) only [fld_lo, fld_hi, fld_all, fld_lit, Nat.reduceSub]; rfl)]
  unfold parseMajor26
  rw [show BitVec.toNat (fld (cat 32 (cat 20 (cat 15 3#10 b) a) 107#12) 22 5) = 3 by simp (disch := decide) only [fld_lo, fld_hi, fld_all, fld_lit, Nat.reduceSub]; rfl]
  simp (disch := decide) only [fld_lo, fld_hi, fld_all, fld_lit, Nat.reduceSub] <;> rfl

theorem inj (b : BitVec 5) (a : BitVec 5) : Statement (.inj b a) := by
  refine ⟨fun w e => ?_, fun h e => (nomatch e)⟩
  cases e
  refine ⟨by simp (disch := decide) only [fld_lo, fld_hi, fld_all, fld_lit, Nat.reduceSub] <;> rfl, ?_⟩
  rw [major26 _ (by simp (disch := decide) only [fld_lo, fld_hi, fld_all, fld_lit, Nat.reduceSub]; rfl)]
  unfold parseMajor26
  rw [show BitVec.toNat (fld (cat 32 (cat 20 (cat 15 4#10 b) a) 107#12) 22 5) = 4 by simp (disch := decide) only [fld_lo, fld_hi, fld_all, fld_lit, Nat.reduceSub]; rfl]
  simp (disch := decide) only [fld_lo, fld_hi, fld_all, fld_lit, Nat.reduceSub] <;> rfl

theorem mflip (a : BitVec 5) (d : BitVec 5) : Statement (.mflip a d) := by
  refine ⟨fun w e => ?_, fun h e => (nomatch e)⟩
  cases e
  refine ⟨by simp (disch := decide) only [fld_lo, fld_hi, fld_all, fld_lit, Nat.reduceSub] <;> rfl, ?_⟩
  rw [major26 _ (by simp (disch := decide) only [fld_lo, fld_hi, fld_all, fld_lit, Nat.reduceSub]; rfl)]
  unfold parseMajor26
  rw [show BitVec.toNat (fld (cat 32 (cat 25 (cat 20 160#15 a) d) 107#7) 22 5) = 5 by simp (disch := decide) only [fld_lo, fld_hi, fld_all, fld_lit, Nat.reduceSub]; rfl]
  simp (disch := decide) only [fld_lo, fld_hi, fld_all, fld_lit, Nat.reduceSub] <;> rfl

theorem keyreq (a : BitVec 5) (d : BitVec 5) : Statement (.keyreq a d) := by
  refine ⟨fun w e => ?_, fun h e => (nomatch e)⟩
  cases e
  refine ⟨by simp (disch := decide) only [fld_lo, fld_hi, fld_all, fld_lit, Nat.reduceSub] <;> rfl, ?_⟩
  rw [major26 _ (by simp (disch := decide) only [fld_lo, fld_hi, fld_all, fld_lit, Nat.reduceSub]; rfl)]
  unfold parseMajor26
  rw [show BitVec.toNat (fld (cat 32 (cat 25 (cat 20 192#15 a) d) 107#7) 22 5) = 6 by simp (disch := decide) only [fld_lo, fld_hi, fld_all, fld_lit, Nat.reduceSub]; rfl]
  simp (disch := decide) only [fld_lo, fld_hi, fld_all, fld_lit, Nat.reduceSub] <;> rfl

theorem attest (a : BitVec 5) (d : BitVec 5) : Statement (.attest a d) := by
  refine ⟨fun w e => ?_, fun h e => (nomatch e)⟩
  cases e
  refine ⟨by simp (disch := decide) only [fld_lo, fld_hi, fld_all, fld_lit, Nat.reduceSub] <;> rfl, ?_⟩
  rw [major26 _ (by simp (disch := decide) only [fld_lo, fld_hi, fld_all, fld_lit, Nat.reduceSub]; rfl)]
  unfold parseMajor26
  rw [show BitVec.toNat (fld (cat 32 (cat 25 (cat 20 224#15 a) d) 107#7) 22 5) = 7 by simp (disch := decide) only [fld_lo, fld_hi, fld_all, fld_lit, Nat.reduceSub]; rfl]
  simp (disch := decide) only [fld_lo, fld_hi, fld_all, fld_lit, Nat.reduceSub] <;> rfl

theorem preemptStop (a : BitVec 5) (d : BitVec 5) : Statement (.preemptStop a d) := by
  refine ⟨fun w e => ?_, fun h e => (nomatch e)⟩
  cases e
  refine ⟨by simp (disch := decide) only [fld_lo, fld_hi, fld_all, fld_lit, Nat.reduceSub] <;> rfl, ?_⟩
  rw [major26 _ (by simp (disch := decide) only [fld_lo, fld_hi, fld_all, fld_lit, Nat.reduceSub]; rfl)]
  unfold parseMajor26
  rw [show BitVec.toNat (fld (cat 32 (cat 25 (cat 20 256#15 a) d) 107#7) 22 5) = 8 by simp (disch := decide) only [fld_lo, fld_hi, fld_all, fld_lit, Nat.reduceSub]; rfl]
  simp (disch := decide) only [fld_lo, fld_hi, fld_all, fld_lit, Nat.reduceSub] <;> rfl

theorem preemptResume (a : BitVec 5) (d : BitVec 5) : Statement (.preemptResume a d) := by
  refine ⟨fun w e => ?_, fun h e => (nomatch e)⟩
  cases e
  refine ⟨by simp (disch := decide) only [fld_lo, fld_hi, fld_all, fld_lit, Nat.reduceSub] <;> rfl, ?_⟩
  rw [major26 _ (by simp (disch := decide) only [fld_lo, fld_hi, fld_all, fld_lit, Nat.reduceSub]; rfl)]
  unfold parseMajor26
  rw [show BitVec.toNat (fld (cat 32 (cat 25 (cat 20 1280#15 a) d) 107#7) 22 5) = 8 by simp (disch := decide) only [fld_lo, fld_hi, fld_all, fld_lit, Nat.reduceSub]; rfl]
  simp (disch := decide) only [fld_lo, fld_hi, fld_all, fld_lit, Nat.reduceSub] <;> rfl

theorem preemptClear (a : BitVec 5) (d : BitVec 5) : Statement (.preemptClear a d) := by
  refine ⟨fun w e => ?_, fun h e => (nomatch e)⟩
  cases e
  refine ⟨by simp (disch := decide) only [fld_lo, fld_hi, fld_all, fld_lit, Nat.reduceSub] <;> rfl, ?_⟩
  rw [major26 _ (by simp (disch := decide) only [fld_lo, fld_hi, fld_all, fld_lit, Nat.reduceSub]; rfl)]
  unfold parseMajor26
  rw [show BitVec.toNat (fld (cat 32 (cat 25 (cat 20 2304#15 a) d) 107#7) 22 5) = 8 by simp (disch := decide) only [fld_lo, fld_hi, fld_all, fld_lit, Nat.reduceSub]; rfl]
  simp (disch := decide) only [fld_lo, fld_hi, fld_all, fld_lit, Nat.reduceSub] <;> rfl

theorem halt (a : BitVec 5) : Statement (.halt a) := by
  refine ⟨fun w e => ?_, fun h e => (nomatch e)⟩
  cases e
  refine ⟨by simp (disch := decide) only [fld_lo, fld_hi, fld_all, fld_lit, Nat.reduceSub] <;> rfl, ?_⟩
  rw [major26 _ (by simp (disch := decide) only [fld_lo, fld_hi, fld_all, fld_lit, Nat.reduceSub]; rfl)]
  unfold parseMajor26
  rw [show BitVec.toNat (fld (cat 32 (cat 20 288#15 a) 107#12) 22 5) = 9 by simp (disch := decide) only [fld_lo, fld_hi, fld_all, fld_lit, Nat.reduceSub]; rfl]
  simp (disch := decide) only [fld_lo, fld_hi, fld_all, fld_lit, Nat.reduceSub] <;> rfl

theorem dlogh (a : BitVec 5) : Statement (.dlogh a) := by
  refine ⟨fun w e => ?_, fun h e => (nomatch e)⟩
  cases e
  refine ⟨by simp (disch := decide) only [fld_lo, fld_hi, fld_all, fld_lit, Nat.reduceSub] <;> rfl, ?_⟩
  rw [major26 _ (by simp (disch := decide) only [fld_lo, fld_hi, fld_all, fld_lit, Nat.reduceSub]; rfl)]
  unfold parseMajor26
  rw [show BitVec.toNat (fld (cat 32 (cat 20 320#15 a) 107#12) 22 5) = 10 by simp (disch := decide) only [fld_lo, fld_hi, fld_all, fld_lit, Nat.reduceSub]; rfl]
  simp (disch := decide) only [fld_lo, fld_hi, fld_all, fld_lit, Nat.reduceSub] <;> rfl

theorem cMv (d : BitVec 5) (a : BitVec 5) : Statement (.cMv d a) := by
  refine ⟨fun w e => (nomatch e), fun h e => ?_⟩
  cases e
  refine ⟨by simp (disch := decide) only [fld_lo, fld_hi, fld_all, fld_lit, Nat.reduceSub]; decide, ?_⟩
  unfold parse16
  rw [show BitVec.toNat (fld (cat 16 (cat 13 (cat 8 0#3 d) a) 0#3) 0 2) = 0 by simp (disch := decide) only [fld_lo, fld_hi, fld_all, fld_lit, Nat.reduceSub]; rfl, show BitVec.toNat (fld (cat 16 (cat 13 (cat 8 0#3 d) a) 0#3) 13 3) = 0 by simp (disch := decide) only [fld_lo, fld_hi, fld_all, fld_lit, Nat.reduceSub]; rfl]
  simp (disch := decide) only [fld_lo, fld_hi, fld_all, fld_lit, Nat.reduceSub] <;> rfl

theorem cAddi (d : BitVec 5) (i : BitVec 6) : Statement (.cAddi d i) := by
  refine ⟨fun w e => (nomatch e), fun h e => ?_⟩
  cases e
  refine ⟨by simp (disch := decide) only [fld_lo, fld_hi, fld_all, fld_lit, Nat.reduceSub]; decide, ?_⟩
  unfold parse16
  rw [show BitVec.toNat (fld (cat 16 (cat 14 (cat 8 1#3 d) i) 0#2) 0 2) = 0 by simp (disch := decide) only [fld_lo, fld_hi, fld_all, fld_lit, Nat.reduceSub]; rfl, show BitVec.toNat (fld (cat 16 (cat 14 (cat 8 1#3 d) i) 0#2) 13 3) = 1 by simp (disch := decide) only [fld_lo, fld_hi, fld_all, fld_lit, Nat.reduceSub]; rfl]
  simp (disch := decide) only [fld_lo, fld_hi, fld_all, fld_lit, Nat.reduceSub] <;> rfl

theorem cLdd (d : BitVec 3) (a : BitVec 3) (o : BitVec 5) : Statement (.cLdd d a o) := by
  refine ⟨fun w e => (nomatch e), fun h e => ?_⟩
  cases e
  refine ⟨by simp (disch := decide) only [fld_lo, fld_hi, fld_all, fld_lit, Nat.reduceSub]; decide, ?_⟩
  unfold parse16
  rw [show BitVec.toNat (fld (cat 16 (cat 14 (cat 9 (cat 6 2#3 d) a) o) 0#2) 0 2) = 0 by simp (disch := decide) only [fld_lo, fld_hi, fld_all, fld_lit, Nat.reduceSub]; rfl, show BitVec.toNat (fld (cat 16 (cat 14 (cat 9 (cat 6 2#3 d) a) o) 0#2) 13 3) = 2 by simp (disch := decide) only [fld_lo, fld_hi, fld_all, fld_lit, Nat.reduceSub]; rfl]
  simp (disch := decide) only [fld_lo, fld_hi, fld_all, fld_lit, Nat.reduceSub] <;> rfl

theorem cStd (b : BitVec 3) (a : BitVec 3) (o : BitVec 5) : Statement (.cStd b a o) := by
  refine ⟨fun w e => (nomatch e), fun h e => ?_⟩
  cases e
  refine ⟨by simp (disch := decide) only [fld_lo, fld_hi, fld_all, fld_lit, Nat.reduceSub]; decide, ?_⟩
  unfold parse16
  rw [show BitVec.toNat (fld (cat 16 (cat 14 (cat 9 (cat 6 3#3 b) a) o) 0#2) 0 2) = 0 by simp (disch := decide) only [fld_lo, fld_hi, fld_all, fld_lit, Nat.reduceSub]; rfl, show BitVec.toNat (fld (cat 16 (cat 14 (cat 9 (cat 6 3#3 b) a) o) 0#2) 13 3) = 3 by simp (disch := decide) only [fld_lo, fld_hi, fld_all, fld_lit, Nat.reduceSub]; rfl]
  simp (disch := decide) only [fld_lo, fld_hi, fld_all, fld_lit, Nat.reduceSub] <;> rfl

theorem cLdw (d : BitVec 3) (a : BitVec 3) (o : BitVec 5) : Statement (.cLdw d a o) := by
  refine ⟨fun w e => (nomatch e), fun h e => ?_⟩
  cases e
  refine ⟨by simp (disch := decide) only [fld_lo, fld_hi, fld_all, fld_lit, Nat.reduceSub]; decide, ?_⟩
  unfold parse16
  rw [show BitVec.toNat (fld (cat 16 (cat 14 (cat 9 (cat 6 4#3 d) a) o) 0#2) 0 2) = 0 by simp (disch := decide) only [fld_lo, fld_hi, fld_all, fld_lit, Nat.reduceSub]; rfl, show BitVec.toNat (fld (cat 16 (cat 14 (cat 9 (cat 6 4#3 d) a) o) 0#2) 13 3) = 4 by simp (disch := decide) only [fld_lo, fld_hi, fld_all, fld_lit, Nat.reduceSub]; rfl]
  simp (disch := decide) only [fld_lo, fld_hi, fld_all, fld_lit, Nat.reduceSub] <;> rfl

theorem cStw (b : BitVec 3) (a : BitVec 3) (o : BitVec 5) : Statement (.cStw b a o) := by
  refine ⟨fun w e => (nomatch e), fun h e => ?_⟩
  cases e
  refine ⟨by simp (disch := decide) only [fld_lo, fld_hi, fld_all, fld_lit, Nat.reduceSub]; decide, ?_⟩
  unfold parse16
  rw [show BitVec.toNat (fld (cat 16 (cat 14 (cat 9 (cat 6 5#3 b) a) o) 0#2) 0 2) = 0 by simp (disch := decide) only [fld_lo, fld_hi, fld_all, fld_lit, Nat.reduceSub]; rfl, show BitVec.toNat (fld (cat 16 (cat 14 (cat 9 (cat 6 5#3 b) a) o) 0#2) 13 3) = 5 by simp (disch := decide) only [fld_lo, fld_hi, fld_all, fld_lit, Nat.reduceSub]; rfl]
  simp (disch := decide) only [fld_lo, fld_hi, fld_all, fld_lit, Nat.reduceSub] <;> rfl

theorem cAdd (d : BitVec 5) (a : BitVec 5) : Statement (.cAdd d a) := by
  refine ⟨fun w e => (nomatch e), fun h e => ?_⟩
  cases e
  refine ⟨by simp (disch := decide) only [fld_lo, fld_hi, fld_all, fld_lit, Nat.reduceSub]; decide, ?_⟩
  unfold parse16
  rw [show BitVec.toNat (fld (cat 16 (cat 13 (cat 8 6#3 d) a) 0#3) 0 2) = 0 by simp (disch := decide) only [fld_lo, fld_hi, fld_all, fld_lit, Nat.reduceSub]; rfl, show BitVec.toNat (fld (cat 16 (cat 13 (cat 8 6#3 d) a) 0#3) 13 3) = 6 by simp (disch := decide) only [fld_lo, fld_hi, fld_all, fld_lit, Nat.reduceSub]; rfl]
  simp (disch := decide) only [fld_lo, fld_hi, fld_all, fld_lit, Nat.reduceSub] <;> rfl

theorem cSub (d : BitVec 5) (a : BitVec 5) : Statement (.cSub d a) := by
  refine ⟨fun w e => (nomatch e), fun h e => ?_⟩
  cases e
  refine ⟨by simp (disch := decide) only [fld_lo, fld_hi, fld_all, fld_lit, Nat.reduceSub]; decide, ?_⟩
  unfold parse16
  rw [show BitVec.toNat (fld (cat 16 (cat 13 (cat 8 7#3 d) a) 0#3) 0 2) = 0 by simp (disch := decide) only [fld_lo, fld_hi, fld_all, fld_lit, Nat.reduceSub]; rfl, show BitVec.toNat (fld (cat 16 (cat 13 (cat 8 7#3 d) a) 0#3) 13 3) = 7 by simp (disch := decide) only [fld_lo, fld_hi, fld_all, fld_lit, Nat.reduceSub]; rfl]
  simp (disch := decide) only [fld_lo, fld_hi, fld_all, fld_lit, Nat.reduceSub] <;> rfl

theorem cJ (o : BitVec 11) : Statement (.cJ o) := by
  refine ⟨fun w e => (nomatch e), fun h e => ?_⟩
  cases e
  refine ⟨by simp (disch := decide) only [fld_lo, fld_hi, fld_all, fld_lit, Nat.reduceSub]; decide, ?_⟩
  unfold parse16
  rw [show BitVec.toNat (fld (cat 16 (cat 14 0#3 o) 1#2) 0 2) = 1 by simp (disch := decide) only [fld_lo, fld_hi, fld_all, fld_lit, Nat.reduceSub]; rfl, show BitVec.toNat (fld (cat 16 (cat 14 0#3 o) 1#2) 13 3) = 0 by simp (disch := decide) only [fld_lo, fld_hi, fld_all, fld_lit, Nat.reduceSub]; rfl]
  simp (disch := decide) only [fld_lo, fld_hi, fld_all, fld_lit, Nat.reduceSub] <;> rfl

theorem cBeqz (a : BitVec 3) (o : BitVec 8) : Statement (.cBeqz a o) := by
  refine ⟨fun w e => (nomatch e), fun h e => ?_⟩
  cases e
  refine ⟨by simp (disch := decide) only [fld_lo, fld_hi, fld_all, fld_lit, Nat.reduceSub]; decide, ?_⟩
  unfold parse16
  rw [show BitVec.toNat (fld (cat 16 (cat 14 (cat 6 1#3 a) o) 1#2) 0 2) = 1 by simp (disch := decide) only [fld_lo, fld_hi, fld_all, fld_lit, Nat.reduceSub]; rfl, show BitVec.toNat (fld (cat 16 (cat 14 (cat 6 1#3 a) o) 1#2) 13 3) = 1 by simp (disch := decide) only [fld_lo, fld_hi, fld_all, fld_lit, Nat.reduceSub]; rfl]
  simp (disch := decide) only [fld_lo, fld_hi, fld_all, fld_lit, Nat.reduceSub] <;> rfl

theorem cBnez (a : BitVec 3) (o : BitVec 8) : Statement (.cBnez a o) := by
  refine ⟨fun w e => (nomatch e), fun h e => ?_⟩
  cases e
  refine ⟨by simp (disch := decide) only [fld_lo, fld_hi, fld_all, fld_lit, Nat.reduceSub]; decide, ?_⟩
  unfold parse16
  rw [show BitVec.toNat (fld (cat 16 (cat 14 (cat 6 2#3 a) o) 1#2) 0 2) = 1 by simp (disch := decide) only [fld_lo, fld_hi, fld_all, fld_lit, Nat.reduceSub]; rfl, show BitVec.toNat (fld (cat 16 (cat 14 (cat 6 2#3 a) o) 1#2) 13 3) = 2 by simp (disch := decide) only [fld_lo, fld_hi, fld_all, fld_lit, Nat.reduceSub]; rfl]
  simp (disch := decide) only [fld_lo, fld_hi, fld_all, fld_lit, Nat.reduceSub] <;> rfl

theorem cLi (d : BitVec 5) (i : BitVec 6) : Statement (.cLi d i) := by
  refine ⟨fun w e => (nomatch e), fun h e => ?_⟩
  cases e
  refine ⟨by simp (disch := decide) only [fld_lo, fld_hi, fld_all, fld_lit, Nat.reduceSub]; decide, ?_⟩
  unfold parse16
  rw [show BitVec.toNat (fld (cat 16 (cat 14 (cat 8 3#3 d) i) 1#2) 0 2) = 1 by simp (disch := decide) only [fld_lo, fld_hi, fld_all, fld_lit, Nat.reduceSub]; rfl, show BitVec.toNat (fld (cat 16 (cat 14 (cat 8 3#3 d) i) 1#2) 13 3) = 3 by simp (disch := decide) only [fld_lo, fld_hi, fld_all, fld_lit, Nat.reduceSub]; rfl]
  simp (disch := decide) only [fld_lo, fld_hi, fld_all, fld_lit, Nat.reduceSub] <;> rfl

theorem cShli (d : BitVec 5) (s : BitVec 6) : Statement (.cShli d s) := by
  refine ⟨fun w e => (nomatch e), fun h e => ?_⟩
  cases e
  refine ⟨by simp (disch := decide) only [fld_lo, fld_hi, fld_all, fld_lit, Nat.reduceSub]; decide, ?_⟩
  unfold parse16
  rw [show BitVec.toNat (fld (cat 16 (cat 14 (cat 8 4#3 d) s) 1#2) 0 2) = 1 by simp (disch := decide) only [fld_lo, fld_hi, fld_all, fld_lit, Nat.reduceSub]; rfl, show BitVec.toNat (fld (cat 16 (cat 14 (cat 8 4#3 d) s) 1#2) 13 3) = 4 by simp (disch := decide) only [fld_lo, fld_hi, fld_all, fld_lit, Nat.reduceSub]; rfl]
  simp (disch := decide) only [fld_lo, fld_hi, fld_all, fld_lit, Nat.reduceSub] <;> rfl

theorem cAndi (d : BitVec 5) (i : BitVec 6) : Statement (.cAndi d i) := by
  refine ⟨fun w e => (nomatch e), fun h e => ?_⟩
  cases e
  refine ⟨by simp (disch := decide) only [fld_lo, fld_hi, fld_all, fld_lit, Nat.reduceSub]; decide, ?_⟩
  unfold parse16
  rw [show BitVec.toNat (fld (cat 16 (cat 14 (cat 8 5#3 d) i) 1#2) 0 2) = 1 by simp (disch := decide) only [fld_lo, fld_hi, fld_all, fld_lit, Nat.reduceSub]; rfl, show BitVec.toNat (fld (cat 16 (cat 14 (cat 8 5#3 d) i) 1#2) 13 3) = 5 by simp (disch := decide) only [fld_lo, fld_hi, fld_all, fld_lit, Nat.reduceSub]; rfl]
  simp (disch := decide) only [fld_lo, fld_hi, fld_all, fld_lit, Nat.reduceSub] <;> rfl

theorem cQput (q : BitVec 2) (a : BitVec 5) : Statement (.cQput q a) := by
  refine ⟨fun w e => (nomatch e), fun h e => ?_⟩
  cases e
  refine ⟨by simp (disch := decide) only [fld_lo, fld_hi, fld_all, fld_lit, Nat.reduceSub]; decide, ?_⟩
  unfold parse16
  rw [show BitVec.toNat (fld (cat 16 (cat 10 (cat 5 6#3 q) a) 1#6) 0 2) = 1 by simp (disch := decide) only [fld_lo, fld_hi, fld_all, fld_lit, Nat.reduceSub]; rfl, show BitVec.toNat (fld (cat 16 (cat 10 (cat 5 6#3 q) a) 1#6) 13 3) = 6 by simp (disch := decide) only [fld_lo, fld_hi, fld_all, fld_lit, Nat.reduceSub]; rfl]
  simp (disch := decide) only [fld_lo, fld_hi, fld_all, fld_lit, Nat.reduceSub] <;> rfl

theorem cQget (d : BitVec 5) (q : BitVec 1) : Statement (.cQget d q) := by
  refine ⟨fun w e => (nomatch e), fun h e => ?_⟩
  cases e
  refine ⟨by simp (disch := decide) only [fld_lo, fld_hi, fld_all, fld_lit, Nat.reduceSub]; decide, ?_⟩
  unfold parse16
  rw [show BitVec.toNat (fld (cat 16 (cat 9 (cat 8 7#3 d) q) 1#7) 0 2) = 1 by simp (disch := decide) only [fld_lo, fld_hi, fld_all, fld_lit, Nat.reduceSub]; rfl, show BitVec.toNat (fld (cat 16 (cat 9 (cat 8 7#3 d) q) 1#7) 13 3) = 7 by simp (disch := decide) only [fld_lo, fld_hi, fld_all, fld_lit, Nat.reduceSub]; rfl]
  simp (disch := decide) only [fld_lo, fld_hi, fld_all, fld_lit, Nat.reduceSub] <;> rfl

theorem cSend (a : BitVec 5) (s : BitVec 4) : Statement (.cSend a s) := by
  refine ⟨fun w e => (nomatch e), fun h e => ?_⟩
  cases e
  refine ⟨by simp (disch := decide) only [fld_lo, fld_hi, fld_all, fld_lit, Nat.reduceSub]; decide, ?_⟩
  unfold parse16
  rw [show BitVec.toNat (fld (cat 16 (cat 12 (cat 8 0#3 a) s) 2#4) 0 2) = 2 by simp (disch := decide) only [fld_lo, fld_hi, fld_all, fld_lit, Nat.reduceSub]; rfl, show BitVec.toNat (fld (cat 16 (cat 12 (cat 8 0#3 a) s) 2#4) 13 3) = 0 by simp (disch := decide) only [fld_lo, fld_hi, fld_all, fld_lit, Nat.reduceSub]; rfl]
  simp (disch := decide) only [fld_lo, fld_hi, fld_all, fld_lit, Nat.reduceSub] <;> rfl

theorem cDone : Statement (.cDone) := by
  refine ⟨fun w e => (nomatch e), fun h e => ?_⟩
  cases e
  refine ⟨by simp (disch := decide) only [fld_lo, fld_hi, fld_all, fld_lit, Nat.reduceSub]; decide, ?_⟩
  unfold parse16
  rw [show BitVec.toNat (fld (8194#16) 0 2) = 2 by simp (disch := decide) only [fld_lo, fld_hi, fld_all, fld_lit, Nat.reduceSub]; rfl, show BitVec.toNat (fld (8194#16) 13 3) = 1 by simp (disch := decide) only [fld_lo, fld_hi, fld_all, fld_lit, Nat.reduceSub]; rfl]
  simp (disch := decide) only [fld_lo, fld_hi, fld_all, fld_lit, Nat.reduceSub] <;> rfl

theorem cCommit : Statement (.cCommit) := by
  refine ⟨fun w e => (nomatch e), fun h e => ?_⟩
  cases e
  refine ⟨by simp (disch := decide) only [fld_lo, fld_hi, fld_all, fld_lit, Nat.reduceSub]; decide, ?_⟩
  unfold parse16
  rw [show BitVec.toNat (fld (16386#16) 0 2) = 2 by simp (disch := decide) only [fld_lo, fld_hi, fld_all, fld_lit, Nat.reduceSub]; rfl, show BitVec.toNat (fld (16386#16) 13 3) = 2 by simp (disch := decide) only [fld_lo, fld_hi, fld_all, fld_lit, Nat.reduceSub]; rfl]
  simp (disch := decide) only [fld_lo, fld_hi, fld_all, fld_lit, Nat.reduceSub] <;> rfl

theorem cWaitc (c : BitVec 5) (a : BitVec 3) (s : BitVec 3) : Statement (.cWaitc c a s) := by
  refine ⟨fun w e => (nomatch e), fun h e => ?_⟩
  cases e
  refine ⟨by simp (disch := decide) only [fld_lo, fld_hi, fld_all, fld_lit, Nat.reduceSub]; decide, ?_⟩
  unfold parse16
  rw [show BitVec.toNat (fld (cat 16 (cat 14 (cat 11 (cat 8 3#3 c) a) s) 2#2) 0 2) = 2 by simp (disch := decide) only [fld_lo, fld_hi, fld_all, fld_lit, Nat.reduceSub]; rfl, show BitVec.toNat (fld (cat 16 (cat 14 (cat 11 (cat 8 3#3 c) a) s) 2#2) 13 3) = 3 by simp (disch := decide) only [fld_lo, fld_hi, fld_all, fld_lit, Nat.reduceSub]; rfl]
  simp (disch := decide) only [fld_lo, fld_hi, fld_all, fld_lit, Nat.reduceSub] <;> rfl

theorem cCinc (c : BitVec 5) (a : BitVec 3) (s : BitVec 3) : Statement (.cCinc c a s) := by
  refine ⟨fun w e => (nomatch e), fun h e => ?_⟩
  cases e
  refine ⟨by simp (disch := decide) only [fld_lo, fld_hi, fld_all, fld_lit, Nat.reduceSub]; decide, ?_⟩
  unfold parse16
  rw [show BitVec.toNat (fld (cat 16 (cat 14 (cat 11 (cat 8 4#3 c) a) s) 2#2) 0 2) = 2 by simp (disch := decide) only [fld_lo, fld_hi, fld_all, fld_lit, Nat.reduceSub]; rfl, show BitVec.toNat (fld (cat 16 (cat 14 (cat 11 (cat 8 4#3 c) a) s) 2#2) 13 3) = 4 by simp (disch := decide) only [fld_lo, fld_hi, fld_all, fld_lit, Nat.reduceSub]; rfl]
  simp (disch := decide) only [fld_lo, fld_hi, fld_all, fld_lit, Nat.reduceSub] <;> rfl

theorem cVfma (d : BitVec 4) (a : BitVec 4) (b : BitVec 3) : Statement (.cVfma d a b) := by
  refine ⟨fun w e => (nomatch e), fun h e => ?_⟩
  cases e
  refine ⟨by simp (disch := decide) only [fld_lo, fld_hi, fld_all, fld_lit, Nat.reduceSub]; decide, ?_⟩
  unfold parse16
  rw [show BitVec.toNat (fld (cat 16 (cat 14 (cat 11 (cat 7 5#3 d) a) b) 2#2) 0 2) = 2 by simp (disch := decide) only [fld_lo, fld_hi, fld_all, fld_lit, Nat.reduceSub]; rfl, show BitVec.toNat (fld (cat 16 (cat 14 (cat 11 (cat 7 5#3 d) a) b) 2#2) 13 3) = 5 by simp (disch := decide) only [fld_lo, fld_hi, fld_all, fld_lit, Nat.reduceSub]; rfl]
  simp (disch := decide) only [fld_lo, fld_hi, fld_all, fld_lit, Nat.reduceSub] <;> rfl

theorem cVmov (d : BitVec 5) (a : BitVec 5) : Statement (.cVmov d a) := by
  refine ⟨fun w e => (nomatch e), fun h e => ?_⟩
  cases e
  refine ⟨by simp (disch := decide) only [fld_lo, fld_hi, fld_all, fld_lit, Nat.reduceSub]; decide, ?_⟩
  unfold parse16
  rw [show BitVec.toNat (fld (cat 16 (cat 13 (cat 8 6#3 d) a) 2#3) 0 2) = 2 by simp (disch := decide) only [fld_lo, fld_hi, fld_all, fld_lit, Nat.reduceSub]; rfl, show BitVec.toNat (fld (cat 16 (cat 13 (cat 8 6#3 d) a) 2#3) 13 3) = 6 by simp (disch := decide) only [fld_lo, fld_hi, fld_all, fld_lit, Nat.reduceSub]; rfl]
  simp (disch := decide) only [fld_lo, fld_hi, fld_all, fld_lit, Nat.reduceSub] <;> rfl

theorem cNop : Statement (.cNop) := by
  refine ⟨fun w e => (nomatch e), fun h e => ?_⟩
  cases e
  refine ⟨by simp (disch := decide) only [fld_lo, fld_hi, fld_all, fld_lit, Nat.reduceSub]; decide, ?_⟩
  unfold parse16
  rw [show BitVec.toNat (fld (57346#16) 0 2) = 2 by simp (disch := decide) only [fld_lo, fld_hi, fld_all, fld_lit, Nat.reduceSub]; rfl, show BitVec.toNat (fld (57346#16) 13 3) = 7 by simp (disch := decide) only [fld_lo, fld_hi, fld_all, fld_lit, Nat.reduceSub]; rfl]
  simp (disch := decide) only [fld_lo, fld_hi, fld_all, fld_lit, Nat.reduceSub] <;> rfl

theorem messageArrival (flight : Nat) : Statement (.messageArrival flight) := ⟨fun _ e => (nomatch e), fun _ e => nomatch e⟩

theorem mailboxRefill (core : Nat) : Statement (.mailboxRefill core) := ⟨fun _ e => (nomatch e), fun _ e => nomatch e⟩

theorem dispatch (core : Nat) : Statement (.dispatch core) := ⟨fun _ e => (nomatch e), fun _ e => nomatch e⟩

theorem watchdogExpiry (aid : Nat) : Statement (.watchdogExpiry aid) := ⟨fun _ e => (nomatch e), fun _ e => nomatch e⟩

theorem postActivationWaitExpiry (op : Nat) : Statement (.postActivationWaitExpiry op) := ⟨fun _ e => (nomatch e), fun _ e => nomatch e⟩

theorem actorExit (name : Word) : Statement (.actorExit name) := ⟨fun _ e => (nomatch e), fun _ e => nomatch e⟩

theorem exitSignalArrival (flight : Nat) : Statement (.exitSignalArrival flight) := ⟨fun _ e => (nomatch e), fun _ e => nomatch e⟩

theorem restartNotice (flight : Nat) : Statement (.restartNotice flight) := ⟨fun _ e => (nomatch e), fun _ e => nomatch e⟩

theorem restartPlacement (sup : Word) (child : Nat) : Statement (.restartPlacement sup child) := ⟨fun _ e => (nomatch e), fun _ e => nomatch e⟩

theorem mirrorDigestCompare (name : Word) : Statement (.mirrorDigestCompare name) := ⟨fun _ e => (nomatch e), fun _ e => nomatch e⟩

theorem timeout (name : Word) (ref : Word32) : Statement (.timeout name ref) := ⟨fun _ e => (nomatch e), fun _ e => nomatch e⟩

theorem waitctLimitExpiry (aid : Nat) : Statement (.waitctLimitExpiry aid) := ⟨fun _ e => (nomatch e), fun _ e => nomatch e⟩

theorem waitcMet (aid : Nat) : Statement (.waitcMet aid) := ⟨fun _ e => (nomatch e), fun _ e => nomatch e⟩

theorem engineEntryPerform (core queue : Nat) : Statement (.engineEntryPerform core queue) := ⟨fun _ e => (nomatch e), fun _ e => nomatch e⟩

theorem engineSectorComplete (core queue sector : Nat) : Statement (.engineSectorComplete core queue sector) := ⟨fun _ e => (nomatch e), fun _ e => nomatch e⟩

theorem mmacGateMet (core : Nat) : Statement (.mmacGateMet core) := ⟨fun _ e => (nomatch e), fun _ e => nomatch e⟩

theorem mmasRendezvous (die span tag : Nat) : Statement (.mmasRendezvous die span tag) := ⟨fun _ e => (nomatch e), fun _ e => nomatch e⟩

theorem pushSectorArrival (flight : Nat) : Statement (.pushSectorArrival flight) := ⟨fun _ e => (nomatch e), fun _ e => nomatch e⟩

theorem pushrSectorLanding (flight : Nat) : Statement (.pushrSectorLanding flight) := ⟨fun _ e => (nomatch e), fun _ e => nomatch e⟩

theorem globalCincArrival (flight : Nat) : Statement (.globalCincArrival flight) := ⟨fun _ e => (nomatch e), fun _ e => nomatch e⟩

theorem launchCompletion (flight : Nat) : Statement (.launchCompletion flight) := ⟨fun _ e => (nomatch e), fun _ e => nomatch e⟩

theorem sfuRequestService (cluster : Nat) : Statement (.sfuRequestService cluster) := ⟨fun _ e => (nomatch e), fun _ e => nomatch e⟩

theorem faultreply (flight : Nat) : Statement (.faultreply flight) := ⟨fun _ e => (nomatch e), fun _ e => nomatch e⟩

theorem dirtyLogMerge (core : Nat) : Statement (.dirtyLogMerge core) := ⟨fun _ e => (nomatch e), fun _ e => nomatch e⟩

theorem expertMessageArrival (flight : Nat) : Statement (.expertMessageArrival flight) := ⟨fun _ e => (nomatch e), fun _ e => nomatch e⟩

theorem replicaCopyComplete (entry set die : Nat) : Statement (.replicaCopyComplete entry set die) := ⟨fun _ e => (nomatch e), fun _ e => nomatch e⟩

theorem expertFetchStart (die entry set : Nat) : Statement (.expertFetchStart die entry set) := ⟨fun _ e => (nomatch e), fun _ e => nomatch e⟩

theorem evictionComplete (entry set : Nat) : Statement (.evictionComplete entry set) := ⟨fun _ e => (nomatch e), fun _ e => nomatch e⟩

theorem expertFetchComplete (entry set : Nat) (outcome : FetchEnd) : Statement (.expertFetchComplete entry set outcome) := ⟨fun _ e => (nomatch e), fun _ e => nomatch e⟩

theorem partitionStopComplete (part : Nat) : Statement (.partitionStopComplete part) := ⟨fun _ e => (nomatch e), fun _ e => nomatch e⟩

theorem installLinkKey : Statement (.installLinkKey) := ⟨fun _ e => (nomatch e), fun _ e => nomatch e⟩

theorem bindMemoryKey : Statement (.bindMemoryKey) := ⟨fun _ e => (nomatch e), fun _ e => nomatch e⟩

theorem retireMemoryKey : Statement (.retireMemoryKey) := ⟨fun _ e => (nomatch e), fun _ e => nomatch e⟩

theorem verifyWeightSetSignature : Statement (.verifyWeightSetSignature) := ⟨fun _ e => (nomatch e), fun _ e => nomatch e⟩

theorem sealAttestationRecord : Statement (.sealAttestationRecord) := ⟨fun _ e => (nomatch e), fun _ e => nomatch e⟩

theorem readIdentity : Statement (.readIdentity) := ⟨fun _ e => (nomatch e), fun _ e => nomatch e⟩

theorem appendMeasurement : Statement (.appendMeasurement) := ⟨fun _ e => (nomatch e), fun _ e => nomatch e⟩

theorem flipRequest (core : Nat) : Statement (.flipRequest core) := ⟨fun _ e => (nomatch e), fun _ e => nomatch e⟩

theorem patrolScrubRead (die stack : Nat) : Statement (.patrolScrubRead die stack) := ⟨fun _ e => (nomatch e), fun _ e => nomatch e⟩

theorem bridgeHeartbeatLoss (die : Nat) : Statement (.bridgeHeartbeatLoss die) := ⟨fun _ e => (nomatch e), fun _ e => nomatch e⟩

theorem packageHeartbeatLoss (pkg : Nat) : Statement (.packageHeartbeatLoss pkg) := ⟨fun _ e => (nomatch e), fun _ e => nomatch e⟩

theorem heartbeatSend (pkg : Nat) : Statement (.heartbeatSend pkg) := ⟨fun _ e => (nomatch e), fun _ e => nomatch e⟩

theorem remoteRequestTimeout (req : Nat) : Statement (.remoteRequestTimeout req) := ⟨fun _ e => (nomatch e), fun _ e => nomatch e⟩

theorem flitTransmit (link : Nat) : Statement (.flitTransmit link) := ⟨fun _ e => (nomatch e), fun _ e => nomatch e⟩

theorem idleFlitTimer (link : Nat) : Statement (.idleFlitTimer link) := ⟨fun _ e => (nomatch e), fun _ e => nomatch e⟩

theorem dataFlit (link : Nat) (f : Flit) : Statement (.dataFlit link f) := ⟨fun _ e => (nomatch e), fun _ e => nomatch e⟩

theorem marker (link : Nat) (f : Flit) : Statement (.marker link f) := ⟨fun _ e => (nomatch e), fun _ e => nomatch e⟩

theorem controlFlit (link : Nat) (f : Flit) : Statement (.controlFlit link f) := ⟨fun _ e => (nomatch e), fun _ e => nomatch e⟩

theorem idleFlit (link : Nat) (f : Flit) : Statement (.idleFlit link f) := ⟨fun _ e => (nomatch e), fun _ e => nomatch e⟩

theorem linkVerifyTimeout (link : Nat) : Statement (.linkVerifyTimeout link) := ⟨fun _ e => (nomatch e), fun _ e => nomatch e⟩

theorem linkThrWrite (link : Nat) (v : Word) : Statement (.linkThrWrite link v) := ⟨fun _ e => (nomatch e), fun _ e => nomatch e⟩

theorem linkRtoWrite (v : Word) : Statement (.linkRtoWrite v) := ⟨fun _ e => (nomatch e), fun _ e => nomatch e⟩

theorem errorLogHeadWrite (die : Nat) (v : Word) : Statement (.errorLogHeadWrite die v) := ⟨fun _ e => (nomatch e), fun _ e => nomatch e⟩

theorem gatewaySlotWrite (page offset : Nat) (data : List Byte) : Statement (.gatewaySlotWrite page offset data) := ⟨fun _ e => (nomatch e), fun _ e => nomatch e⟩

theorem rxqBaseWrite (part : Nat) (v : Word) : Statement (.rxqBaseWrite part v) := ⟨fun _ e => (nomatch e), fun _ e => nomatch e⟩

theorem rxqSizeWrite (part : Nat) (v : Word) : Statement (.rxqSizeWrite part v) := ⟨fun _ e => (nomatch e), fun _ e => nomatch e⟩

theorem rxqHeadWrite (part : Nat) (v : Word) : Statement (.rxqHeadWrite part v) := ⟨fun _ e => (nomatch e), fun _ e => nomatch e⟩

theorem hostMessageDelivery (flight : Nat) : Statement (.hostMessageDelivery flight) := ⟨fun _ e => (nomatch e), fun _ e => nomatch e⟩

theorem cxlMemAccess (port offset : Nat) (write : Option (List Byte)) : Statement (.cxlMemAccess port offset write) := ⟨fun _ e => (nomatch e), fun _ e => nomatch e⟩

theorem unsupportedRequest (port : Nat) : Statement (.unsupportedRequest port) := ⟨fun _ e => (nomatch e), fun _ e => nomatch e⟩

theorem configurationRequest (port offset : Nat) : Statement (.configurationRequest port offset) := ⟨fun _ e => (nomatch e), fun _ e => nomatch e⟩

theorem jobCtlWrite (v : Word) : Statement (.jobCtlWrite v) := ⟨fun _ e => (nomatch e), fun _ e => nomatch e⟩

theorem pWdogWrite (v : Word) : Statement (.pWdogWrite v) := ⟨fun _ e => (nomatch e), fun _ e => nomatch e⟩

theorem registerWrite (reg : HostReg) (v : Word) : Statement (.registerWrite reg v) := ⟨fun _ e => (nomatch e), fun _ e => nomatch e⟩

theorem bootRetry (port : Nat) (v : Word32) : Statement (.bootRetry port v) := ⟨fun _ e => (nomatch e), fun _ e => nomatch e⟩

theorem pwrLimitWrite (port : Nat) (v : Word32) : Statement (.pwrLimitWrite port v) := ⟨fun _ e => (nomatch e), fun _ e => nomatch e⟩

theorem powerOn : Statement (.powerOn) := ⟨fun _ e => (nomatch e), fun _ e => nomatch e⟩

theorem perst : Statement (.perst) := ⟨fun _ e => (nomatch e), fun _ e => nomatch e⟩

theorem functionLevelReset (port : Nat) : Statement (.functionLevelReset port) := ⟨fun _ e => (nomatch e), fun _ e => nomatch e⟩

theorem bootPhaseComplete (failed : Option Nat) : Statement (.bootPhaseComplete failed) := ⟨fun _ e => (nomatch e), fun _ e => nomatch e⟩

theorem rootReady : Statement (.rootReady) := ⟨fun _ e => (nomatch e), fun _ e => nomatch e⟩

theorem rootReadyTimeout : Statement (.rootReadyTimeout) := ⟨fun _ e => (nomatch e), fun _ e => nomatch e⟩

theorem operatingPointChange (point : BitVec 2) : Statement (.operatingPointChange point) := ⟨fun _ e => (nomatch e), fun _ e => nomatch e⟩

theorem thermalTrip : Statement (.thermalTrip) := ⟨fun _ e => (nomatch e), fun _ e => nomatch e⟩

theorem thermalRecovery : Statement (.thermalRecovery) := ⟨fun _ e => (nomatch e), fun _ e => nomatch e⟩

theorem fatalError (cause : FatalCause) : Statement (.fatalError cause) := ⟨fun _ e => (nomatch e), fun _ e => nomatch e⟩

theorem linkTrainingComplete (link pkg : Nat) (txsalt rxsalt : Word32) : Statement (.linkTrainingComplete link pkg txsalt rxsalt) := ⟨fun _ e => (nomatch e), fun _ e => nomatch e⟩

theorem powerLoss : Statement (.powerLoss) := ⟨fun _ e => (nomatch e), fun _ e => nomatch e⟩

theorem writePerformed (write die : Nat) : Statement (.writePerformed write die) := ⟨fun _ e => (nomatch e), fun _ e => nomatch e⟩

theorem expertTableWrite (target : TableTarget) (data : List Word) : Statement (.expertTableWrite target data) := ⟨fun _ e => (nomatch e), fun _ e => nomatch e⟩

theorem poolCreation (job : Half) (image : Word) (dies : BitVec 4) : Statement (.poolCreation job image dies) := ⟨fun _ e => (nomatch e), fun _ e => nomatch e⟩

theorem actorRestore (name : Word) : Statement (.actorRestore name) := ⟨fun _ e => (nomatch e), fun _ e => nomatch e⟩

theorem rootActorPlacement (job : Half) (image : Word) : Statement (.rootActorPlacement job image) := ⟨fun _ e => (nomatch e), fun _ e => nomatch e⟩

theorem attestationRecordRead (job : Half) : Statement (.attestationRecordRead job) := ⟨fun _ e => (nomatch e), fun _ e => nomatch e⟩

end Sys2Proof.Laws.Encodes
end

