-- ==== Sys2Proof/Tests/Slice0.lean ====
section
/-! SUPPORT. Tests: ill-formed terms that the checks refuse, words written out from the encoding tables, small results, and for
each statement a state and operands that meet its hypotheses together. -/

namespace Sys2Proof.Tests

open Sys2Proof.Machine Sys2Proof.Safety

set_option Elab.async false

/-! ## Helpers -/

theorem ok_of {ε α : Type} {e : Except ε α} {v : α} (h : e.toOption = some v) : e = .ok v := by
  cases e with
  | error _ => simp [Except.toOption] at h
  | ok _ => simp [Except.toOption] at h; rw [h]

def nextOf {σ φ ρ : Type} : Host.Outcome σ φ ρ → Option σ
  | .next t => some t
  | _ => none

theorem next_of {σ φ ρ : Type} {o : Host.Outcome σ φ ρ} (h : (nextOf o).isSome = true) : ∃ t, o = .next t := by
  cases o <;> simp_all [nextOf]

/-- The instruction gives a next state in which the activation goes on. -/
def goesOn (i : Instr) (s : State) : Bool := match exec i s with
  | .next t => t.act.live
  | _ => false

theorem goesOn_next {i : Instr} {s : State} (h : goesOn i s = true) : ∃ t, exec i s = .next t ∧ t.act.live = true := by
  unfold goesOn at h
  cases hx : exec i s <;> simp_all

def fetched (s : State) : Option (List Byte) := match s.fetch with
  | .ok (some bs, _) => some bs
  | _ => none

theorem fetch_of {s : State} {bs : List Byte} (h : fetched s = some bs) : ∃ u, s.fetch = .ok (some bs, u) := by
  unfold fetched at h
  split at h <;> simp_all

def regs (l : List (Nat × Word)) : Vector Word 32 := l.foldl (fun v t => vset v t.1 t.2) (Vector.replicate 32 0)
def oregs (l : List (Nat × Word)) : Vector Word 8 := l.foldl (fun v t => vset v t.1 t.2) (Vector.replicate 8 0)

/-- A region of 4 KiB at the bottom of the pool, owned, read and written. -/
def region0 : Region := { state := .owned, w := true, r := true, size := 4096, offset := 0 }
/-- A live actor of job 1 on a core. -/
def actor (index core : Nat) : Actor :=
  { job := 1, service := false, index := index, inc := 1, core := core, regions := vset (Vector.replicate 8 {}) 0 region0 }
def own : Word := mkName 1 0 5 1
def other : Word := mkName 1 0 6 1
def partition0 : Parts :=
  { parts := vset (Vector.replicate 48 {}) 0 { state := 1 }, jobs := [{ id := 1, valid := true, part := 0 }] }
def booted : Boot := { steps := 8, phase := 6, mode := 1 }

/-- An activation of actor 5 of job 1 on core 0, with actor 6 on core 1; x1 to x4 hold small numbers, and x5 to x7 local
addresses. -/
def st : State :=
  { act :=
      { live := true, aid := 1, core := 0, name := own
        x := regs [(1, 5), (2, 0xFFFFFFFFFFFFFFFF), (3, 1), (5, 0x0070000000000000), (6, 0x0070000000000FF8), (7, 0x0070000000000FFF)] }
    cores := [(0, { word := 0x24, part := some 0 }), (1, { word := 0x24, part := some 0 })]
    dir := { actors := [actor 5 0, actor 6 1] }
    parts := partition0, boot := booted }

def withX (l : List (Nat × Word)) (s : State) : State := s.modAct fun a => { a with x := l.foldl (fun v t => vset v t.1 t.2) a.x }
def withO (l : List (Nat × Word)) (s : State) : State := s.modAct fun a => { a with o := l.foldl (fun v t => vset v t.1 t.2) a.o }
def committed (s : State) : State := s.modAct fun a => { a with committed := true }

/-- The same with page 0x10000 mapped to a page of HBM, read and written (17 R385). -/
def mapped (s : State) : State :=
  { s with mem := { s.mem with keySlots := [(0, 1)] }
           xlat := { s.xlat with cached := [{ die := 0, slice := sliceOf 0x10000, asid := 0, tag := 1, entry := 0x100017 }] } }

/-! ## Hypotheses that are met -/

theorem witness_StepRunsDecoded :
    (let s := State.reset.withFetchWord 32 0x000E6283
     (∃ u, s.env.agenda = [] ∧ Running s ∧ s.act.live = true ∧ s.blocked = false ∧ s.eTurn? = none ∧ s.act.issued = none ∧
       s.fetch = .ok (some [0x83, 0x62, 0x0E, 0x00], u) ∧ decode [0x83, 0x62, 0x0E, 0x00] = .ok (.add 0 7 6 5, [])) ∧
     (let v := s.fetched [0x83, 0x62, 0x0E, 0x00]
      v.env.agenda = [] ∧ Running v ∧ v.act.live = true ∧ v.blocked = false ∧ v.eTurn? = none ∧
        v.act.issued = some [0x83, 0x62, 0x0E, 0x00])) ∧
    (let s := st.modAct fun a => { a with eseq := { pending := [.vmov 0 1 2] } }
     s.env.agenda = [] ∧ Running s ∧ s.act.live = true ∧ s.eTurn?.isSome = true) ∧
    (length .thermalTrip = 0 ∧ ({ st with env := { agenda := [.event .thermalTrip] } } : State).env.agenda = [.event .thermalTrip]) ∧
    (st.env.agenda = [] ∧ ¬Running { st with boot := { powered := false } }) := by
  refine ⟨?_, ?_, ?_, ?_⟩
  · obtain ⟨u, h⟩ := fetch_of (s := State.reset.withFetchWord 32 0x000E6283) (bs := [0x83, 0x62, 0x0E, 0x00]) (by decide +kernel)
    exact ⟨⟨u, by decide +kernel, by unfold Running; decide +kernel, by decide +kernel, by decide +kernel, by decide +kernel,
      by decide +kernel, h, ok_of (by decide +kernel)⟩, by unfold Running; decide +kernel⟩
  · refine ⟨by decide +kernel, by unfold Running; decide +kernel, by decide +kernel, by decide +kernel⟩
  · exact ⟨rfl, rfl⟩
  · exact ⟨rfl, by unfold Running; decide +kernel⟩

/-- A word at the pc that is no instruction, and what its decoding says. -/
def illegal (service : Bool) (w : Nat) (bs : List Byte) (r : Reject) : Prop :=
  let s := State.reset.placeCode service (tableBytes 32 w)
  ∃ u, s.env.agenda = [] ∧ Running s ∧ s.act.live = true ∧ s.blocked = false ∧ s.eTurn? = none ∧ s.act.service = service ∧ s.act.issued = none ∧
    s.fetch = .ok (some bs, u) ∧ decode bs = .error r

theorem illegal_of {service : Bool} {w : Nat} {bs : List Byte} {r : Reject}
    (h : (let s := State.reset.placeCode service (tableBytes 32 w)
      s.env.agenda.isEmpty && s.boot.powered && !s.boot.halted && !s.boot.tripped && s.act.live && !s.blocked && s.eTurn?.isNone &&
      s.act.service == service && s.act.issued.isNone && fetched s == some bs && (match decode bs with | .error e => e == r | _ => false)) = true) :
    illegal service w bs r := by
  simp only [Bool.and_eq_true, beq_iff_eq, Bool.not_eq_true', List.isEmpty_iff, Option.isNone_iff_eq_none] at h
  obtain ⟨⟨⟨⟨⟨⟨⟨⟨⟨⟨h1, h2⟩, h3⟩, h4⟩, h5⟩, h6⟩, h7⟩, h8⟩, h0⟩, h9⟩, h10⟩ := h
  obtain ⟨u, hu⟩ := fetch_of h9
  refine ⟨u, h1, ⟨h2, h3, h4⟩, h5, h6, h7, h8, h0, hu, ?_⟩
  split at h10 <;> simp_all

theorem witness_IllegalEncodingKills :
    illegal true 0xFFFFFFFF [0xFF, 0xFF, 0xFF, 0xFF] .major ∧ illegal false 0x0182B56B [0x6B, 0xB5, 0x82, 0x01] .field ∧
    illegal false 0x00020063 [0x63, 0x00, 0x02, 0x00] .field ∧ illegal false 4 [4, 0] .compressed :=
  ⟨illegal_of (by decide +kernel), illegal_of (by decide +kernel), illegal_of (by decide +kernel), illegal_of (by decide +kernel)⟩

/-- For DecodeOfEncode and EncodeOfDecode. -/
theorem witness_Encodings :
    (WellFormed (.amoCas 1 10 3 31 31 31) = true ∧ length (.amoCas 1 10 3 31 31 31) ≠ 0) ∧
    decode [0x83, 0x62, 0x0E, 0x00] = .ok (.add 0 7 6 5, []) ∧ decode [0xF4, 0x25] = .ok (.cAddi 5 61, []) :=
  ⟨by decide +kernel, ok_of (by decide +kernel), ok_of (by decide +kernel)⟩

theorem witness_MemoryStaysCanonical : MemCanonical (State.reset.withFetchWord 32 0x000E6283) ∧
    ∃ t, step (State.reset.withFetchWord 32 0x000E6283) = .next t :=
  ⟨by unfold MemCanonical; decide +kernel, next_of (by decide +kernel)⟩

theorem witness_DeadlineOrder : (0 / 256 < 256 * (2 ^ 31 - 1) / 256 ∧ 256 * (2 ^ 31 - 1) / 256 - 0 / 256 < 2 ^ 31) ∧
    2 ^ 31 < 256 * (2 ^ 32 - 1) / 256 - 0 / 256 ∧ 256 * (2 ^ 32 - 1) / 256 - 0 / 256 < 2 ^ 32 := by decide

theorem witness_FormsFrame :
    (∀ i ∈ [Instr.add 1 2 1 31, .clz 0 2 0, .shli 63 2 4, .lih 0x80000 3, .jal 0xFFFFF 1, .cMv 4 2, .lox 7 1, .mfs 0x01F 3, .rstat 16 1],
      ∃ t, exec i st = .next t ∧ t.act.live = true) ∧
    (∀ i ∈ [Instr.beq 0x800 2 1, .cBnez 0 0xFF, .cNop], ∃ t, exec i st = .next t ∧ t.act.live = true) ∧
    (∃ t, exec (.qget 1 3) (st.modAct fun a => a.setQueue 5 [(7, true)]) = .next t ∧ t.act.live = true) ∧
    (∀ i ∈ [Instr.fadd 7 1 2 3, .fsqrt 4 1 2, .fmin 1 2 0, .fcvti 1 1 0 1 2], ∃ t, exec i st = .next t ∧ t.act.live = true) ∧
    (st.mem.lineErrs = [] ∧ ∀ i ∈ [Instr.ldb 0 7 31, .ldd 0 6 0, .ldaq 1 10 0 6 2], ∃ t, exec i st = .next t ∧ t.act.live = true) := by
  refine ⟨?_, ?_, goesOn_next (by decide +kernel), ?_, rfl, ?_⟩ <;> intro i hi <;>
    fin_cases hi <;> exact goesOn_next (by decide +kernel)

theorem witness_StoresFrame :
    (∀ i ∈ [Instr.stb 0 7 1, .std 0 6 2, .strl 1 10 0 6 3], ∃ t, exec i st = .next t ∧ t.act.live = true) ∧
    (∃ t, exec (.amoAdd 0 0 0 1 5 3) (committed st) = .next t ∧ t.act.live = true) ∧
    (let s := withX [(8, 0x0071000001000000)] (committed st)
     (s.act.getX 8).toNat / 2 ^ 48 = 0x71 ∧ ∃ t, exec (.std 0 8 1) s = .next t ∧ t.act.live = true) ∧
    (let s := withX [(8, 0x1FFF8)] (mapped st)
     s.mem.lineErrs = [] ∧ (s.act.getX 8).toNat / 2 ^ 48 ≠ 0x70 ∧ s.act.committed = false ∧
       ∃ t, exec (.std 0 8 1) s = .next t ∧ t.act.live = true) ∧
    (let s := withX [(8, 0x1FFF8)] (mapped (committed st))
     s.mem.lineErrs = [] ∧ (∃ p u, s.translate s.me.die s.me.asid 0x1FFF8 .store s.me.service = .ok (p, u) ∧ p.type ≠ 6) ∧
       ∃ t, exec (.std 0 8 1) s = .next t ∧ t.act.live = true) := by
  refine ⟨?_, goesOn_next (by decide +kernel), ⟨by decide +kernel, goesOn_next (by decide +kernel)⟩,
    ⟨rfl, by decide +kernel, rfl, goesOn_next (by decide +kernel)⟩, rfl, ⟨_, _, rfl, by decide +kernel⟩, goesOn_next (by decide +kernel)⟩
  intro i hi
  fin_cases hi <;> exact goesOn_next (by decide +kernel)

theorem witness_AccessExceptions : st.act.live = true ∧
    (¬Clean (st.modAct fun a => { a with xp := 32 }) 5) ∧
    (Clean st 2 ∧ 2 ^ 55 ≤ (st.act.getX 2 + (0 : BitVec 12).signExtend 64).toNat) ∧
    (Clean st 7 ∧ (st.act.getX 7 + (0 : BitVec 12).signExtend 64).toNat < 2 ^ 55 ∧
      (st.act.getX 7 + (0 : BitVec 12).signExtend 64).toNat % 2 ≠ 0) ∧
    (let s := withX [(8, 0x00700000001B0000)] st
     Clean s 8 ∧ (s.act.getX 8 + (0 : BitVec 12).signExtend 64).toNat / 2 ^ 48 = 0x70 ∧
       s.scratchBytes s.act.core < (s.act.getX 8 + (0 : BitVec 12).signExtend 64).toNat % 2 ^ 48 + 1) ∧
    (let s := withX [(8, 0x0070000000001000)] st
     Clean s 8 ∧ (s.act.getX 8 + (0 : BitVec 12).signExtend 64).toNat % 2 ^ 48 + 8 ≤ s.scratchBytes s.act.core ∧
       ∀ r ∈ (s.regionsOf s.act.name s.act.run s.act.core).toList, r.allows .store 0x1000 8 = false) := by
  simp only [Clean]; decide +kernel

/-- For IntegerResults, ImmediateAndCompressedResults and RegisterFile. -/
theorem witness_IntegerResults : st.act.live = true ∧ st.act.pc.toNat % 2 = 0 ∧ (31 : BitVec 5) ≠ 0 := by decide +kernel

theorem witness_BranchesAndJumps :
    (st.act.live = true ∧ st.act.pc.toNat % 2 = 0 ∧ Clean st 1 ∧ Clean st 2 ∧ Clean st (8 + (7 : BitVec 3).zeroExtend 5) ∧
      (st.act.getX 1 + (0xFFF : BitVec 12).signExtend 64).toNat % 2 = 0) ∧
    (let s := st.modAct fun a => { a with bq := [(true, false)] }
     s.act.live = true ∧ s.act.bq = [(true, false)]) := by
  simp only [Clean]; decide +kernel

/-- For LocalLoadsAndStores, with the next. -/
theorem witness_LocalLoads :
    (st.act.live = true ∧ (st.core st.act.core).ports = [] ∧ InOrder st ∧ Clean st 7 ∧ LocalOk st (st.act.getX 7 + 0) 1 1 .load ∧
      LocalOk st (st.act.getX 6 + 0) 8 8 .load ∧ MaskOk st 3) ∧ Unwritten st := by
  refine ⟨?_, rfl, rfl, fun _ _ => rfl⟩
  simp only [Clean, LocalOk, Unarmed, MaskOk, InOrder]; decide +kernel

theorem witness_LocalStores : st.act.live = true ∧ Quiet st ∧ Clean st 7 ∧ LocalOk st (st.act.getX 7 + 0) 1 1 .store ∧
    LocalOk st (st.act.getX 6 + 0) 8 8 .store ∧ MaskOk st 3 ∧ (10 : BitVec 4).toNat ≤ 10 := by
  simp only [Clean, LocalOk, Unarmed, MaskOk, Quiet, InOrder]; decide +kernel

theorem witness_LocalAtomics :
    let s := committed st
    s.act.live = true ∧ s.act.released = true ∧ Quiet s ∧ (1 : BitVec 5) ≠ 0 ∧ Clean s 6 ∧ Clean s 2 ∧ CleanO s 0 ∧ LocalOk s (s.act.getX 6) 8 8 .atomic ∧
      (s.readPlain (dieOf s.act.core) (localKey s (s.act.getX 6)) 8).2 = false := by
  simp only [Clean, CleanO, LocalOk, Unarmed, Quiet, InOrder]; decide +kernel

/-- A tensor descriptor of one dimension, 16 elements of FP32 at 0x10000 (04 R104). -/
def tensorBytes : List Byte := leBytes 8 0x10000 ++ leBytes 8 0x20 ++ leBytes 8 0x1000000000 ++ List.replicate 40 0
def withBytes (off : Nat) (bs : List Byte) (s : State) : State :=
  { s with mem := { s.mem with cells := putN (poolKey s.act.core off) bs s.mem.cells } }

theorem witness_FencesAndGuards :
    (st.act.live = true ∧ st.counted = [] ∧ InOrder st ∧ Clean st 3 ∧ Clean st 5 ∧ (st.act.getX 3).toNat + (st.act.getX 5).toNat ≤ 2 ^ 55 ∧
      (st.act.getX 3).toNat < 2 ^ 55 ∧
      (16 : BitVec 5).toNat ≤ 16) ∧
    (let s := withBytes 0 tensorBytes st
     (s.act.live = true ∧ s.counted = [] ∧ (s.core s.act.core).ports = [] ∧ InOrder s ∧ Clean s 5 ∧ LocalOk s (s.act.getX 5) 64 64 .load ∧
      s.readPlain (dieOf s.act.core) (localKey s (s.act.getX 5)) 64 = (tensorBytes, false)) ∧
      (∃ t, parseTensor tensorBytes = .ok t) ∧ Unwritten s) := by
  refine ⟨?_, ?_, ⟨_, rfl⟩, rfl, rfl, fun _ _ => rfl⟩
  · simp only [Clean, InOrder]; decide +kernel
  · simp only [Clean, LocalOk, Unarmed, InOrder]; decide +kernel

theorem witness_QueueFenceAndMoves : st.act.live = true ∧ (∀ n < 7, (vget (st.core st.act.core).queues n).length < 16) ∧
    (let s := st.modAct fun a => (a.setQueue 3 (List.replicate 7 (0, false))).setQueue 5 [(9, true)]
     (s.act.queue (3 : BitVec 2).toNat).length < 8 ∧ s.act.queue (4 + (1 : BitVec 1).toNat) = [(9, true)]) := by decide +kernel

/-- An activation of a Calico actor, at service level, on the service core of cluster 0. -/
def calico : Word := mkName 0 2 1 1
def svc : State :=
  { act :=
      { live := true, aid := 1, core := 4, name := calico, committed := true
        x := regs [(1, 5), (3, 47), (5, 0x0070000000000000), (6, 0xFFFFFFFF), (7, 0x100000000)] }
    cores := [(4, { word := 0x20 })]
    dir := { actors := [{ job := 0, service := true, index := 1, inc := 1, core := 4, regions := vset (Vector.replicate 8 {}) 0 region0 }] }
    boot := booted }

theorem witness_SpecialRegisters :
    (st.act.live = true ∧ st.act.eseq.idle = true ∧ Clean st 1 ∧ (∃ v, st.readUser 0x01F = some v)) ∧
    (svc.act.live = true ∧ svc.act.service = true ∧ (∃ v, svc.readPrivileged 0x830 = some v)) ∧
    (Clean svc 1 ∧ Clean svc 3 ∧ (svc.act.getX 1).toNat % 8 = 5 ∧ (svc.act.getX 0).toNat % 8 ≤ 4 ∧ (svc.act.getX 3).toNat ≤ 47 ∧ svc.act.getX 3 ≠ 0 ∧
      (svc.act.getX 6).toNat < 2 ^ 32 ∧ (svc.act.getX 3).toNat < 2 ^ 16 ∧ (svc.part svc.act.psel.toNat).state = 0) := by
  refine ⟨⟨rfl, by decide +kernel, by simp only [Clean]; decide +kernel, ⟨_, rfl⟩⟩, ⟨rfl, by decide +kernel, ⟨_, rfl⟩⟩, ?_⟩
  simp only [Clean]; decide +kernel

theorem witness_TrapsAndPrivilege :
    st.act.live = true ∧ Clean st 1 ∧ Clean st 2 ∧ st.act.getX 1 ≠ 0 ∧ st.act.getX 0 = 0 ∧ 0x800 ≤ (0x800 : BitVec 12).toNat ∧
      st.act.service = false := by
  simp only [Clean]; decide +kernel

theorem witness_ScalarFloatResults :
    st.act.live = true ∧ (if (7 : BitVec 3) = 7 then st.act.frm.toNat % 8 else (7 : BitVec 3).toNat) = 0 ∧
    (if (4 : BitVec 3) = 7 then st.act.frm.toNat % 8 else (4 : BitVec 3).toNat) = 4 := by decide +kernel

/-- o registers that hold a message to actor 6 of kind 1. -/
def posting : State := withO [(0, other), (2, 1)] st

theorem witness_EffectsAreStaged :
    (let s := withO [(0, mkName 1 1 2 0), (2, 0xFEFF)] st
     MayStage s ∧ (10 : BitVec 4).toNat ≤ 10 ∧ MaskOk s 3 ∧ MsgOk s ∧ Clean s 1 ∧ (s.act.getX 1).toNat < 2 ^ 48 ∧
       nameKind (s.act.getO 0) ≠ 2 ∧ nameKind (s.act.getO 0) ≠ 0) ∧
    (let s := { withX [(9, 255)] posting with parts := { partition0 with parts := vset partition0.parts 0 { state := 1, dep := 0x01000000 } } }
     MayStage s ∧ MaskOk s 3 ∧ MsgOk s ∧ Clean s 9 ∧ ∃ n, s.slotHandle (s.act.getX 9) = .ok n) ∧
    (let s := withX [(9, 0x1FFFFFFFF), (15, 0xFFFFFFFF)] posting
     MayStage s ∧ MaskOk s 0 ∧ Clean s 15 ∧ (s.act.getX 15).toNat < 2 ^ 32 ∧ Clean s 9 ∧ (s.act.getX 9).toNat / 2 ^ 32 = 1 ∧ CleanO s 0 ∧
       nameKind (s.act.getO 0) = 0 ∧ (8 + (7 : BitVec 3).zeroExtend 5 : BitVec 5) = 15) := by
  refine ⟨?_, ⟨?_, ?_, ?_, ?_, ⟨_, rfl⟩⟩, ?_⟩ <;> simp only [MayStage, stagedCount, MaskOk, MsgOk, Clean, CleanO] <;> decide +kernel

/-- For EffectsAreStaged, its ROUTE. -/
theorem witness_RouteIsStaged :
    let s := withO [(0, 0x0070000000000FE0), (1, 4), (2, 1), (4, 0x10000), (5, mkName 1 1 2 0), (6, 255)]
      { st with parts := { partition0 with parts := vset partition0.parts 0 { state := 1, dep := 0x01000000 } } }
    MayStage s ∧ MaskOk s 0 ∧ s.act.memo = .none ∧ ∃ w2 w3, s.routeChecked = .ok (w2, w3) := by
  refine ⟨?_, ?_, rfl, _, _, rfl⟩ <;> simp only [MayStage, stagedCount, MaskOk, Clean] <;> decide +kernel

theorem witness_RefusedSends :
    (∀ w ∈ [(2, 0xFF00), (2, 0x01000000), (2, 0x00100000), (2, 0x00080000), (2, 0x00040000), (3, 0x100000000)],
      let s := withO [w] posting
      s.act.live = true ∧ MaskOk s 3 ∧ CleanO s 0 ∧ CleanO s 2 ∧ CleanO s 3 ∧ nameKind (s.act.getO 0) ≠ 3 ∧
      (0xFF00 ≤ ((s.act.getO 2).extractLsb' 0 16).toNat ∨ (s.act.getO 2).getLsbD 24 ∨ (s.act.getO 2).getLsbD 20 ∨ (s.act.getO 2).getLsbD 19 ∨
        (s.act.getO 2).getLsbD 18 ∨ (s.act.getO 3).extractLsb' 32 32 ≠ 0) ∧
      Clean s 1 ∧ (s.act.getX 1).toNat < 2 ^ 48 ∧ (s.myRegion 0).state = .owned ∧ s.killable s.act.name = true) := by
  simp only [MaskOk, Clean, CleanO]; decide +kernel

theorem witness_GiveCapturesRegion : MayStage posting ∧ MaskOk posting 3 ∧ MsgOk posting ∧
    (posting.myRegion 0).state = .owned ∧ posting.awaitRegion (posting.myRegion 0) = .ok () ∧
    posting.act.mayRead (localVa (posting.myRegion 0).offset) (posting.myRegion 0).size = true ∧ posting.poolOf posting.act.name = none ∧
    posting.act.run = 0 := by
  refine ⟨?_, ?_, ?_, by decide +kernel, rfl, by decide +kernel⟩ <;> simp only [MayStage, stagedCount, MaskOk, MsgOk, Clean, CleanO] <;>
    decide +kernel

theorem witness_CountersAndPorts :
    (let s := withX [(9, 0xFFFFFFFF), (15, 0)] st
     s.act.live = true ∧ Solo s ∧ Clean s 9 ∧ (s.act.getX 9).toNat < 2 ^ 32 ∧ MaskOk s 3 ∧
       ((s.core s.act.core).counter 63 - (s.act.getX 9).setWidth 32).msb = false ∧ CleanO s 7 ∧ (s.act.getO 7).toNat < 2 ^ 17 ∧
       s.act.memo = .none ∧ s.act.wait = .none ∧ Clean s 15 ∧ ((s.core s.act.core).counter 31 - (s.act.getX 15).setWidth 32).msb = false) ∧
    (let s := withX [(9, 0xFFFFFFFF00003F00)] st
     let v := s.act.getX 9
     Clean s 9 ∧ v.extractLsb' 14 18 = 0 ∧ v.extractLsb' 3 5 = 0 ∧ (s.myRegion (v.extractLsb' 0 3).toNat).state = .owned ∧
       (s.myRegion (v.extractLsb' 0 3).toNat).w = true ∧ ∀ p ∈ (s.core s.act.core).ports, p.num = 15 → p.actor = s.act.name) := by
  simp only [MaskOk, Clean, CleanO, Solo]; decide +kernel

/-- Before its COMMIT, with an addition and a message staged. -/
def staging : State := st.modAct fun a => { a with staged := [.cinc none 63 7 0 0, .send { w0 := other } none 0 0] }

theorem witness_CommitForms :
    (st.act.live = true ∧ st.act.eseq.idle = true ∧ st.act.staged = [] ∧ st.act.committed = false ∧ st.mirrored st.act = false ∧
      (committed st).act.committed = true ∧ (committed st).act.staged = []) ∧
    (staging.act.eseq.idle = true ∧ staging.act.committed = false ∧ staging.mirrored staging.act = false ∧ staging.act.run = 0 ∧
      staging.act.fences = [] ∧ InOrder staging ∧ staging.wire.tails = [] ∧ (staging.awaitMissed staging.act).toOption = some () ∧ msgPhase { w0 := other } = 0 ∧
      staging.act.staged = [.cinc none 63 7 0 0, .send { w0 := other } none 0 0]) := by simp only [InOrder]; decide +kernel

theorem witness_EndingForms : st.act.live = true ∧ st.act.eseq.idle = true ∧ st.act.staged = [] ∧ st.mirrored st.act = false ∧ Clean st 2 ∧
    st.act.run = 0 ∧ nameKind st.act.name ≠ 1 ∧ st.dir.actors.find? (fun x => x.name == st.act.name) = some (actor 5 0) ∧ (actor 5 0).life = .live ∧
    (let s := st.modAct fun a => { a with run := 1 }
     s.act.live = true ∧ s.act.run ≠ 0 ∧ s.act.eseq.idle = true ∧ Clean s 2 ∧ s.act.getX 2 ≠ 0 ∧ s.exitsAlone = true ∧
       ({ s with acts := [st.act] } : State).exitsAlone = false ∧ s.act.getX 0 = 0 ∧ (committed s).act.committed = true) := by
  simp only [Clean]; decide +kernel

def linkedActors : List Actor :=
  [{ actor 5 0 with links := [⟨0, other, 0, .link⟩, ⟨1, other, 7, .monitor⟩] },
   { actor 6 1 with links := [⟨0, own, 0, .link⟩, ⟨1, own, 7, .monitored⟩] }]
/-- A mirrored child, and its shadow's run at an instruction whose answer the primary has had, or has not. -/
def mirroredChild : Actor := { actor 5 0 with mirror := [{ run := 1, core := 1, resident := 0, regions := Vector.replicate 8 {}, digest := none }] }
def mirroredRun (l : List (Word × Bool)) : State :=
  { st with act := { st.act with run := 1, core := 1 }, dir := { actors := [{ mirroredChild with shared := l }] } }
def linkedWith (l : List Actor) : State := withX [(9, other), (10, 7)] { st with dir := { actors := l } }

theorem witness_LinksAndMonitors :
    (∀ l ∈ [[actor 5 0, actor 6 1], linkedActors], ∃ me you, l = [me, you] ∧ (linkedWith l).act.live = true ∧ Solo (linkedWith l) ∧ Clean (linkedWith l) 9 ∧
      nameKind (linkedWith l).act.name = 0 ∧ (linkedWith l).dir.actors.find? (fun x => x.name == (linkedWith l).act.name) = some me ∧
      (linkedWith l).linkTarget ((linkedWith l).act.getX 9) = some (you.name, you.links) ∧ nameKind ((linkedWith l).act.getX 9) = 0 ∧
      you.name ≠ (linkedWith l).act.name ∧ nameKind you.name = 0 ∧
      (linkedWith l).dir.actors.find? (fun x => x.name == you.name) = some you ∧ (freeEntry me.links).isSome ∧ (freeEntry you.links).isSome ∧
      me.links.length ≤ 64) ∧
    (∃ e, (linkedActors.head!).links.find? (fun e => e.type == .link && sameIndex e.partner other && incOk other (nameInc e.partner)) = some e ∧
      e.partner = other) ∧
    ((linkedWith linkedActors).act.getX 10).toNat < 2 ^ 32 ∧ (st.act.getX 3).toNat ≤ 1 ∧
    (∀ l ∈ [[], [((5 : Word), true)]], ∃ me, ((mirroredRun l).act.live = true ∧ Clean (mirroredRun l) 3 ∧ nameKind ((mirroredRun l).act.getX 3) = 0 ∧
      ((mirroredRun l).act.getX 3).toNat < 2 ^ 32 ∧ (mirroredRun l).act.run ≠ 0) ∧ (mirroredRun l).mirrorOf (mirroredRun l).act.name = some me ∧
      me.shared[(mirroredRun l).act.nth]? = l[0]?) := by
  refine ⟨?_, ⟨⟨0, other, 0, .link⟩, by decide +kernel⟩, by decide +kernel, by decide +kernel, ?_⟩
  case refine_2 =>
    simp only [Clean]
    intro l hl
    refine ⟨{ mirroredChild with shared := l }, ?_⟩
    fin_cases hl <;> decide +kernel
  intro l hl
  simp only [List.mem_cons, List.not_mem_nil, or_false] at hl
  simp only [Clean, Solo]
  rcases hl with rfl | rfl
  · exact ⟨actor 5 0, actor 6 1, rfl, by decide +kernel⟩
  · exact ⟨linkedActors.head!, linkedActors.getLast!, by decide +kernel, by decide +kernel⟩

def timed15 : Actor := { actor 5 0 with timers := List.replicate 15 ⟨5, 0⟩ }

theorem witness_TimersAndKills :
    (let s := withX [(9, 0xFFFFFFFF)] { committed st with dir := { actors := [timed15] } }
     s.act.live = true ∧ s.act.released = true ∧ Solo s ∧ Clean s 9 ∧ nameKind s.act.name = 0 ∧ s.dir.actors.find? (fun x => x.name == s.act.name) = some timed15 ∧
       0 < (s.act.getX 9).toNat ∧ (s.act.getX 9).toNat < 2 ^ 32 ∧ timed15.timers.length < 16) ∧
    (let s := withX [(9, other), (10, own), (11, 21)] (committed st)
     s.act.live = true ∧ s.act.released = true ∧ Solo s ∧ s.fencesMet s.act = true ∧ Clean s 9 ∧ Clean s 10 ∧ Clean s 11 ∧ nameKind (s.act.getX 9) ≠ 2 ∧
       nameKind (s.act.getX 9) ≠ 3 ∧ sameIndex (s.act.getX 9) s.act.name = false ∧ s.act.getX 10 = s.act.name) ∧
    (st.act.live = true ∧ st.poolOf st.act.name = none ∧ st.dir.actors.find? (fun x => x.name == st.act.name) = some (actor 5 0) ∧
      (actor 5 0).life = .live) := by
  simp only [Clean, Solo]; decide +kernel

/-- Actor 99 of job 1 was last learnt to be on package 3. -/
def abroad : State := { committed st with dir := { actors := [actor 5 0, actor 6 1], remote := [{ job := 1, index := 99, pkg := 3 }] } }

/-- What incarnation another package answers is Config's. -/
theorem live_abroad (h : Config.incElsewhere abroad.env.free (mkName 1 0 99 0) = 1) :
    abroad.liveElsewhere (mkName 1 0 99 0) = some (3, mkName 1 0 99 1) := by
  have he : abroad.elsewhere (mkName 1 0 99 0) = some 3 := by decide +kernel
  unfold State.liveElsewhere
  simp only [h, he]
  decide +kernel

theorem witness_NamesSharesAndRegions :
    (let s := withX [(9, 0x3FFFFFBF), (10, 7), (11, other), (12, mkName 2 0 99 0), (13, 0x2FFFF)] { committed st with
        dir := { actors := [actor 5 0, actor 6 1], aliases := [(1, 7, 6)] } }
     s.act.live = true ∧ s.act.released = true ∧ Clean s 9 ∧ (s.act.getX 9).toNat < 0x3FFFFFC0 ∧ s.act.job ≠ 0 ∧ nameKind s.act.name = 0 ∧
       s.alias? s.act.job (s.act.getX 9).toNat = none ∧ Clean s 10 ∧ (s.act.getX 10).toNat < 2 ^ 30 ∧
       s.alias? s.act.job (s.act.getX 10).toNat = some 6 ∧ 6 ≠ (if nameKind s.act.name = 1 then 2 ^ 30 + nameIndex s.act.name else nameIndex s.act.name) ∧ s.act.getX 0 = 0 ∧
       s.act.getX 11 ≠ 0 ∧ reachable s.act.job (s.act.getX 11) = true ∧ s.resolve (s.act.getX 11) = some (actor 6 1) ∧
       (actor 6 1).name ≠ s.act.name ∧ s.act.getX 12 ≠ 0 ∧ s.resolve (s.act.getX 12) = none ∧ nameJob (s.act.getX 12) ≠ s.act.job ∧ Clean s 13 ∧
       (s.act.getX 13).toNat < 2 ^ 18 ∧ (s.act.getX 13).toNat / 2 ^ 16 = 2 ∧ (s.act.getX 9).toNat < 2 ^ 32 ∧
       (s.myRegion 0).state ≠ .empty ∧ (s.awaitRegion (s.myRegion 0)).toOption = some () ∧ s.poolOf s.act.name = none ∧ s.act.run = 0 ∧
       s.dir.actors.find? (fun x => x.name == s.act.name) = some (actor 5 0)) ∧
    (let s := withX [(9, 0x3FFFFFBF)] (committed st |>.modAct fun a => { a with name := mkName 1 1 2 1 })
     s.act.live = true ∧ Clean s 9 ∧ s.act.released = true ∧ (s.act.getX 9).toNat < 0x3FFFFFC0 ∧ s.act.job ≠ 0 ∧ nameKind s.act.name = 1 ∧
       s.alias? s.act.job (s.act.getX 9).toNat = none) ∧
    (∃ l, (st.modAct fun a => { a with msg := { launch := some default } }).act.msg.launch = some l) ∧
    (mkName 1 0 99 0 ≠ 0 ∧ abroad.resolve (mkName 1 0 99 0) = none ∧ nameKind (mkName 1 0 99 0) = 0 ∧ nameJob (mkName 1 0 99 0) = abroad.act.job ∧
      (Config.incElsewhere abroad.env.free (mkName 1 0 99 0) = 1 → abroad.liveElsewhere (mkName 1 0 99 0) = some (3, mkName 1 0 99 1)) ∧
      ({ abroad with links := { abroad.links with peers := [(3, 0, true)] } } : State).liveElsewhere (mkName 1 0 99 0) = none) := by
  refine ⟨?_, ?_, ⟨_, rfl⟩, by decide +kernel, by decide +kernel, by decide +kernel, by decide +kernel, live_abroad, by decide +kernel⟩ <;> simp only [Clean] <;> decide +kernel

/-- A message that a dependence slot holds. -/
def heldMsg : Placed := { msg := { w0 := other }, src := own, die := 0, after := [], scope := 0 }
def depending (v : DepSlot) : State := withX [(9, 255), (10, 0xFFFFFFFF)] { committed st with
  parts := { partition0 with parts := vset partition0.parts 0 { state := 1, dep := 0x01000000 } }
  dir := { actors := [actor 5 0, actor 6 1], slots := [v] } }

theorem witness_LevelsAndDependences :
    (Clean st 3 ∧ Clean st 1 ∧ Solo st ∧ st.act.getX 3 = 1 ∧ (st.act.getX 1).toNat < 2 ^ 32 ∧ st.act.getX 0 = 0 ∧ (committed st).act.released = true ∧
      Solo (committed st) ∧ (committed st).fencesMet (committed st).act = true ∧ (committed st).killable (committed st).act.name = true) ∧
    (let s := depending { die := 0, num := 255, count := 2 }
     s.act.live = true ∧ s.act.released = true ∧ s.fencesMet s.act = true ∧ Solo s ∧ s.act.run = 0 ∧ Clean s 9 ∧ Clean s 10 ∧ Clean s 3 ∧ s.slotHandle (s.act.getX 9) = .ok 255 ∧
       (s.act.getX 10).toNat < 2 ^ 32 ∧ s.act.getX 10 ≠ 0 ∧ (s.act.getX 3).toNat < 2 ^ 17 ∧ s.counted = [] ∧ s.wire.tails = [] ∧ 1 < (s.slot 255).count) ∧
    (let s := depending { die := 0, num := 255, count := 1, held := some heldMsg }
     s.slotHandle (s.act.getX 9) = .ok 255 ∧ (s.slot 255).count = 1 ∧ (s.slot 255).held = some heldMsg) := by
  refine ⟨?_, ⟨rfl, by decide +kernel, by decide +kernel, rfl, rfl, ?_, ?_, ?_, rfl, by decide +kernel⟩, rfl, by decide +kernel, by decide +kernel⟩ <;>
    simp only [Clean, Solo] <;> decide +kernel

/-- An image of index 7 with no region at offset 0x80 of the pool, and a supervision record of it at 0x100 (03 R78, R83). -/
def imageBytes : List Byte := leBytes 8 0x10000 ++ leBytes 8 0 ++ leBytes 8 7 ++ List.replicate 104 0
def recordBytes : List Byte := leBytes 8 0x100000000 ++ leBytes 8 0 ++ leBytes 8 0x0070000000000080 ++ leBytes 8 0
def image7 : Image := (parseImage 0x0070000000000080 imageBytes).getD {}
def parent : State :=
  withX [(9, 0x0070000000000080), (10, 0x0070000000000100)] (withBytes 0x100 recordBytes (withBytes 0x80 imageBytes { committed st with
    dir := { actors := [actor 5 0, actor 6 1], remote := [{ job := 1, index := 7, pkg := 3 }] }
    links := { st.links with peers := [(3, 0, true)] }
    parts := { partition0 with parts := vset partition0.parts 0 { state := 1, spans := 1 } } }))

theorem witness_ChildrenPlaced :
    (∃ room, parent.act.live = true ∧ parent.act.released = true ∧ Solo parent ∧ Clean parent 9 ∧ parent.act.job ≠ 0 ∧ nameKind parent.act.name = 0 ∧
      (parent.act.getX 9).toNat < 2 ^ 55 ∧ parent.dir.actors.find? (fun x => x.name == parent.act.name) = some (actor 5 0) ∧
      (freeEntry (actor 5 0).links).isSome ∧ parent.readImage parent.me (parent.act.getX 9).toNat = .ok (some image7, parent) ∧
      initPieces image7 = [] ∧ parent.entryAt parent.act.job false image7.index = none ∧
      parent.liveElsewhere (mkName parent.act.job 0 image7.index 0) = none ∧ parent.shardRoom (mkName parent.act.job 0 image7.index 0) = true ∧
      parent.act.room.or (parent.findRoom image7 (parent.coresFor parent.act.job image7.service) none) = some room ∧
      (let child := mkName parent.act.job 0 image7.index (parent.nextInc parent.act.job false image7.index)
       child ≠ parent.act.name ∧ parent.dir.actors.find? (fun x => x.name == child) = none)) ∧
    (Clean parent 10 ∧ (parent.act.getX 10).toNat < 2 ^ 55 ∧ (parent.act.getX 10).toNat % 64 = 0 ∧ parent.recordOf parent.act.name = none ∧
      parent.readRecord parent.me (parent.act.getX 10).toNat 16 16 = .ok (some (recordBytes.take 16), parent) ∧
      parseRecordHead (recordBytes.take 16) = some (1, 0, false, 0) ∧
      parent.readRecord parent.me (parent.act.getX 10).toNat (16 + 16 * 1) 16 = .ok (some recordBytes, parent) ∧
      parseChildren recordBytes 1 = some [(0x0070000000000080, false, 0)] ∧
      State.readImages parent.me [(0x0070000000000080, false, 0)] parent = .ok (some [{ image := image7, mirror := false, cond := 0, owed := some 0 }], parent)) := by
  refine ⟨?_, ?_, by decide +kernel, by decide +kernel, by decide +kernel, ok_of (by decide +kernel), by decide +kernel, ok_of (by decide +kernel),
    by decide +kernel, ok_of (by decide +kernel)⟩
  · obtain ⟨room, h⟩ := Option.isSome_iff_exists.mp
      (by decide +kernel : (parent.act.room.or (parent.findRoom image7 (parent.coresFor parent.act.job image7.service) none)).isSome = true)
    exact ⟨room, by decide +kernel, by decide +kernel, by simp only [Solo]; decide +kernel, by simp only [Clean]; decide +kernel, by decide +kernel, by decide +kernel, by decide +kernel,
      by decide +kernel, by decide +kernel, ok_of (by decide +kernel), by decide +kernel, by decide +kernel, by decide +kernel, by decide +kernel, h, by decide +kernel⟩
  · simp only [Clean]; decide +kernel

/-- Entry 0 of the expert table is of job 1, and its model's record is there. -/
def expert0 : ExpEntry := { num := 0, valid := true, job := 1, model := 3, pool := 2 }
def experts (pins : Nat) : State := withX [(9, 0), (10, 0x30001)] { committed st with exp := {
  entries := [{ expert0 with pins := pins }], ranges := [(1, 0, 1)]
  models := [{ num := 0, valid := true, job := 1, model := 3, ver := 2 }] } }

theorem witness_ExpertForms :
    (let s := experts 65534
     s.act.live = true ∧ s.act.released = true ∧ Solo s ∧ Clean s 9 ∧ (s.act.getX 9).toNat < 65536 ∧
       s.entryOfId s.act.job (s.act.getX 9).toNat = .ok { expert0 with pins := 65534 } ∧ ({ expert0 with pins := 65534 } : ExpEntry).pins ≠ 65535) ∧
    (let s := experts 0
     let m : ModelRec := { num := 0, valid := true, job := 1, model := 3, ver := 2 }
     Clean s 10 ∧ (s.act.getX 10).toNat / 2 ^ 32 = 0 ∧ (s.act.getX 10).toNat % 2 ^ 16 ≤ 1 ∧
       s.modelOf s.act.job ((s.act.getX 10).extractLsb' 16 16) = some m ∧ (s.act.getX 10).getLsbD 0 = true ∧ m.openB = 0 ∧ m.openA = 0 ∧
       m.ver.getLsbD 1 = true ∧ m.force ≠ true) := by
  refine ⟨⟨rfl, by decide +kernel, ?_, ?_, by decide +kernel, ok_of (by decide +kernel), by decide +kernel⟩, ?_⟩ <;>
    simp only [Clean, Solo] <;> decide +kernel

/-- A handle in g1 on 16 elements of FP32 at 0x10000; x9 and x10 are the last 64 and 32 bytes of the region. -/
def tensor : Tensor := match parseTensor tensorBytes with
  | .ok t => t
  | .error _ => { base := 0, fill := 0, rank := 0, format := 0, extents := [], strides := [], scale := 0 }
def handled (o : List (Nat × Word)) : State :=
  withO o (withX [(9, 0x0070000000000FC0), (10, 0x0070000000000FE0)] (st.modAct fun a => { a with guards := vset a.guards 1 (.handle tensor) }))
def whole : List (Nat × Word) := [(3, 0x0010010010010010)]
def someRows : List (Nat × Word) := [(0, 0x0070000000000F80), (1, 1), (2, 0x800000000)]

theorem witness_CopyEntries :
    (let s := handled whole
     ∃ c v, s.act.live = true ∧ maskIn s 3 ≠ 0 ∧ MayStage s ∧ MaskOk s 3 ∧ s.fencesMet s.act = true ∧ Clean s 9 ∧ CleanO s 6 ∧ engineCtl false false (s.act.getO 6) = .ok c ∧
       engineCtl true false (s.act.getO 6) = .ok c ∧ s.handle 1 = .ok tensor ∧
       s.act.tile tensor = .ok v ∧ s.checkUses (padUse (s.act.getX 9) (tileSize tensor.format v) .engineWrite) [] (tileUse tensor v .engineRead) = .ok () ∧
       s.checkUses (padUse (s.act.getX 9) (storeBytes tensor v c) .engineRead) [] (tileUse tensor v .engineWrite) = .ok () ∧ c.conv = false ∧
       MayQueue s 3 (EOp.tload tensor (s.act.getX 9).toNat v.origin v.shape).counted) ∧
    (let s := handled someRows
     ∃ r, s.act.rows tensor = .ok r ∧ s.checkUses (padUse (s.act.getX 10) (r.n * (r.t0 * widthOf tensor.format / 8)) .engineWrite ++
         padUse r.list (4 * r.n) .engineRead) [] (rowsUse tensor .engineRead) = .ok () ∧
       s.checkUses (padUse (s.act.getX 10) (r.n * (r.t0 * srcWidth tensor none / 8)) .engineRead ++
         padUse r.list (4 * r.n) .engineRead) [] (rowsUse tensor .engineWrite) = .ok () ∧
       MayQueue s 5 (EOp.gather tensor (s.act.getX 10).toNat r.list.toNat r.n r.t0 r.org).counted) ∧
    (let s := handled [(0, 0x00FFFFE00000201F)]
     let o := s.act.getO 0
     ∃ c, engineCtl true true (s.act.getO 6) = .ok c ∧ MayStage s ∧ MaskOk s 3 ∧ Clean s 10 ∧ CleanO s 0 ∧ CleanO s 6 ∧
       o.extractLsb' 56 8 = 0 ∧ o.extractLsb' 5 3 = 0 ∧ o.extractLsb' 0 5 ≠ 0 ∧ pushLength c (o.extractLsb' 8 24).toNat = .ok () ∧
       s.checkUses (padUse (s.act.getX 10) (o.extractLsb' 8 24).toNat .engineRead) [{ va := (o.extractLsb' 32 24).toNat, n := 0, align := 32 }] [] = .ok ()) ∧
    (let s := handled [(0, 0x10000), (1, 32)]
     ∃ c, engineCtl true true (s.act.getO 6) = .ok c ∧ CleanO s 0 ∧ CleanO s 1 ∧ (s.act.getO 1).toNat < 2 ^ 32 ∧ pushLength c (s.act.getO 1).toNat = .ok () ∧
       s.checkUses (padUse (s.act.getX 10) (s.act.getO 1).toNat .engineRead)
         [{ va := (s.act.getO 0).toNat, n := delivered none 32, align := 32 }] [] = .ok ()) := by
  simp only [MayStage, stagedCount, MaskOk, Clean, CleanO, MayQueue]
  exact ⟨⟨_, _, rfl, by decide +kernel, by decide +kernel, by decide +kernel, by decide +kernel, by decide +kernel, by decide +kernel, rfl, rfl, rfl, rfl,
      ok_of (by decide +kernel), ok_of (by decide +kernel), rfl, by decide +kernel, ok_of (by decide +kernel)⟩,
    ⟨_, rfl, ok_of (by decide +kernel), ok_of (by decide +kernel), by decide +kernel, ok_of (by decide +kernel)⟩,
    ⟨_, rfl, by decide +kernel, by decide +kernel, by decide +kernel, by decide +kernel, by decide +kernel, by decide +kernel, by decide +kernel,
      by decide +kernel, rfl, ok_of (by decide +kernel)⟩,
    ⟨_, rfl, by decide +kernel, by decide +kernel, by decide +kernel, rfl, ok_of (by decide +kernel)⟩⟩

/-- Operand registers of the matrix forms: lines at the bottom of the region, 32 bytes apart. -/
def matrix (v : Word) : State :=
  withX [(9, v)] (withO [(2, 0x0070000000000000), (3, 32), (4, 0x0070000000000000), (5, 32)]
    (st.modCore 0 fun c => { c with bufs := [{ num := 0, owner := 1, issued := (0, 8, 8) }] }))

theorem witness_MatrixEntriesQueued :
    (let s := matrix 0x3F800000
     s.act.live = true ∧ Clean s 9 ∧ CleanO s 2 ∧ CleanO s 3 ∧ MayClaim s [3] ∧ MayClaim s [0, 3] ∧
       (∀ op ∈ [EOp.mzero 3, .mchk 3 s.act.tol, .mcorr 3, .macc 3 0, .mscl 3 (.inl 0x3F800000)], MayQueue s 4 op.counted) ∧
       (s.act.getX 9).toNat < 2 ^ 32 ∧ layoutOf (s.act.getO 3) false = .ok (0, 32)) ∧
    (let s := matrix 0x0070000000000E00
     s.checkOperands (operandUse (s.act.getX 9) 0 [((s.act.getX 9).toNat, 512)] .engineRead true) = .ok () ∧
       MayQueue s 4 (EOp.mscl 3 (.inr (s.act.getX 9).toNat)).counted) ∧
    (let s := matrix 0xFFFF00000000
     let v := s.act.getX 9
     onlyBits v 0xFFFF00007F7F = .ok () ∧ (v.extractLsb' 32 16).toNat + ((v.extractLsb' 8 7).toNat + 1) - 1 ≤ 65535 ∧
       MayQueue s 4 (EOp.mtopk 3 0 1 1 65535).counted) ∧
    (let s := matrix 0x8007F
     let v := s.act.getX 9
     onlyBits v 0xF007F = .ok () ∧ 1 ≤ (v.extractLsb' 16 4).toNat ∧ (v.extractLsb' 16 4).toNat ≤ 8 ∧
       s.checkOperands (operandUse (s.act.getO 2) 32 [((s.act.getO 2).toNat, 127 * 32 + 8 * 8)] .engineWrite false) = .error (.kill 2) ∧
       onlyBits (0x80007 : Word) 0xF007F = .ok () ∧ s.checkOperands (operandUse (s.act.getO 2) 32 [((s.act.getO 2).toNat, 7 * 32 + 8 * 8)] .engineWrite false) = .ok ()) ∧
    (let s := matrix 0x0707
     let v := s.act.getX 9
     onlyBits v 0x7F7F = .ok () ∧ s.checkOperands (operandUse (s.act.getO 2) 32 (operandRanges 0 8 8 (s.act.getO 2).toNat 32 0 false) .engineRead true) = .ok () ∧
       MayQueue s 4 (EOp.mlda 3 0 8 8 (s.act.getO 2).toNat 32).counted) ∧
    (let s := matrix 0xEC0700
     let v := s.act.getX 9
     onlyBits v 0xFF7F7F = .ok () ∧ (v.extractLsb' 19 3).toNat ≤ 5 ∧ modeFor (s.act.frm.setWidth 3) (v.extractLsb' 16 3) = .ok 4 ∧
       v.getLsbD 23 = true ∧ v.getLsbD 22 = true ∧ CleanO s 4 ∧
       CleanO s 5 ∧ (s.act.getO 5).toNat < 2 ^ 32 ∧ wholeLine 0 8 = .ok () ∧
       s.checkOperands (operandUse (s.act.getO 2) 32 (operandRanges 0 8 1 (s.act.getO 2).toNat 32 0 false) .engineWrite false ++
         operandUse (s.act.getO 4) 0 [((s.act.getO 4).toNat, 4 * 8)] .engineRead true) = .ok () ∧
       MayQueue s 4 (EOp.mstore 3 0 1 8 (s.act.getO 2).toNat 32 (some (s.act.getO 4).toNat) (some 32) 5 4 false s.act.mdraw).counted) ∧
    (isService st.act.core = false ∧ (3 : BitVec 4).toNat < (st.core st.act.core).acc ∧
      ∀ e ∈ vget (st.core st.act.core).queues 4, e.aid = st.act.aid → e.op.isJoin = true) := by
  simp only [Clean, CleanO, MayClaim, MayQueue]
  refine ⟨⟨?_, ?_, ?_, ?_, ⟨?_, ?_⟩, ⟨?_, ?_⟩, ?_, ?_, ?_⟩, ?_, ?_, ⟨?_, ?_, ?_, rfl, ?_⟩, ?_, ?_, ?_⟩
  all_goals decide +kernel

theorem witness_MatrixOperandsQueued :
    (let s := matrix 0x0707
     let v := s.act.getX 9
     s.act.live = true ∧ Clean s 9 ∧ CleanO s 2 ∧ CleanO s 3 ∧ isService s.act.core = false ∧ layoutOf (s.act.getO 3) false = .ok (0, 32) ∧
       onlyBits v 0x7F7F = .ok () ∧ wholeLine 0 8 = .ok () ∧
       s.checkOperands (operandUse (s.act.getO 2) 32 (operandRanges 0 8 8 (s.act.getO 2).toNat 32 0 true) .engineRead true) = .ok () ∧
       (∀ x ∈ (s.core s.act.core).bufs, x.num = 1 → x.owner = s.act.aid) ∧ MayQueue s 4 (EOp.mldw 1 0 8 8 (s.act.getO 2).toNat 32 0).counted) ∧
    (let s := matrix 7
     ∃ x, s.loadedBuf 0 = .ok x ∧ onlyBits (s.act.getX 9) 0x7F = .ok () ∧ mayPair 0 x.issued.1 = true ∧ wholeLine 0 x.issued.2.1 = .ok () ∧
       s.checkOperands (operandUse (s.act.getO 2) 32 (operandRanges 0 x.issued.2.1 8 (s.act.getO 2).toNat 32 0 false) .engineRead true) = .ok () ∧
       MayQueue s 4 (EOp.mma 3 0 0 x.issued.2.1 8 (s.act.getO 2).toNat 32 0 none).counted ∧ ∃ g : Gate, s.gate = .ok (some g) ∧
       MayQueue s 4 (EOp.mma 3 0 0 x.issued.2.1 8 (s.act.getO 2).toNat 32 0 (some (g.1, g.2.1))).counted) ∧
    (let s := matrix 0x700010001
     let op := EOp.mmas 0 0 0 0 8 1 1 (s.act.getO 2).toNat 32 0 (s.act.getO 4).toNat 32 0
     let aRanges := operandRanges 0 8 1 (s.act.getO 2).toNat 32 0 false
     CleanO s 4 ∧ CleanO s 5 ∧ onlyBits (s.act.getX 9) 0x1FFF7F01FF01FF = .ok () ∧ layoutOf (s.act.getO 5) false = .ok (0, 32) ∧
       mayPair 0 0 = true ∧ s.checkOperands (operandUse (s.act.getO 2) 32 aRanges .engineRead false ++
         operandUse (s.act.getO 4) 32 ((op.ranges.map (·.2)).drop aRanges.length) .engineRead false) = .ok () ∧ MayQueue s 4 op.counted) ∧
    MayClaim st [0, 1, 2, 3] := by
  simp only [Clean, CleanO, MayClaim, MayQueue]
  refine ⟨?_, ⟨_, rfl, ?_, ?_, ?_, ?_, ?_, _, rfl, ?_⟩, ?_, ?_, ?_⟩
  all_goals decide +kernel

/-- For VectorFloatResults, VectorCompares, VectorMovesAndPermutes, VectorIntegerResults, VectorConversions and
VectorReductions. -/
theorem witness_VectorForms :
    (EReady st [31, 30, 0] ∧ (4 : BitVec 4).toNat ≤ 4 ∧ st.act.eMode 7 = .ok 0 ∧ st.act.eMode 4 = .ok 4 ∧
      ((st.modAct fun a => { a with frm := 4 }).act.eMode 7 = .ok 4)) ∧
    (EReady st [(7 : BitVec 3).zeroExtend 5, 16 + (15 : BitVec 4).zeroExtend 5, (15 : BitVec 4).zeroExtend 5]) ∧
    (5 ≤ (10 : BitVec 4).toNat ∧ (10 : BitVec 4).toNat ≤ 10 ∧ 5 ≤ (5 : BitVec 4).toNat) ∧
    (groupOk 3 28 = true ∧ FreeRegs st 28 4 ∧ groupOk 11 24 = true ∧ FreeRegs st 24 8 ∧ mxTypeOk 11 = true ∧ (24 : BitVec 5) ≠ 3 ∧
      [6, 7, 9, 10, 14].contains (14 : BitVec 4).toNat = true ∧ groupOk 14 24 = true) := by
  simp only [EReady, FreeRegs]
  refine ⟨⟨?_, ?_, ?_, ?_, ?_⟩, ?_, ?_, ?_, ?_, ?_, ?_, ?_⟩ <;> decide +kernel

theorem witness_SharedFunctionUnit :
    (let s := st.modAct fun a => { a with ememo := [1, 2] }
     (2 : BitVec 4).toNat ≤ 2 ∧ EReady s [31, 0] ∧ s.act.ewait = .none ∧ s.act.eMode 7 = .ok 0 ∧ s.act.ememo = [1, 2] ∧ s.act.edst.bound = false) ∧
    (st.act.ememo = [] ∧ st.act.eseq.pending.length + st.act.eseq.body.length < 16) := by
  simp only [EReady]; decide +kernel

theorem witness_QueuesAndPredicates :
    let s := st.modAct fun a => { (a.setQueue 5 (List.replicate 7 (0, false))).setQueue 3 [(9, true)] with bq := List.replicate 15 (true, false) }
    EReady s [31, 0] ∧ (s.act.queue (4 + (1 : BitVec 1).toNat)).length < 8 ∧ s.act.queue (3 : BitVec 2).toNat = [(9, true)] ∧ s.act.bq.length < 16 := by
  simp only [EReady]; decide +kernel

theorem witness_SequencerAndStreams :
    (st.act.live = true ∧ st.act.eseq.pending.length + st.act.eseq.body.length < 16 ∧ st.act.eseq.need = 0 ∧ st.act.eseq.begun = false ∧ st.act.eseq.idle = true ∧
      (st.act.queue 5).length < 8) ∧
    (let s := st.modAct fun a => { a with eseq := { need := 1, pending := List.replicate 15 (.vmov 0 1 2) } }
     s.act.eseq.pending.length + s.act.eseq.body.length < 16 ∧ s.act.eseq.idle = false ∧ s.act.eseq.begun = false) ∧
    (let s := st.modAct fun a => { a with eseq := { left := 3, body := [.vmov 0 1 2], need := 1, begun := true } }
     s.act.eseq.pending.length + s.act.eseq.body.length < 16 ∧ s.act.eseq.begun = true ∧ s.act.eseq.need ≠ 0 ∧ s.act.eseq.left ≠ 0) ∧
    (let s := withO [(0, 0x0070000000000FE0), (1, 0), (2, 0x0000002000010001), (3, 3)] st
     let t := streamOf (s.act.getO 0) (s.act.getO 1) (s.act.getO 2) (s.act.getO 3)
     CleanO s 0 ∧ CleanO s 1 ∧ CleanO s 2 ∧ CleanO s 3 ∧ (s.act.getO 0).toNat / 2 ^ 48 = 0x70 ∧ (s.act.getO 2).toNat < 2 ^ 56 ∧
       (s.act.getO 3).toNat < 4 ∧ t.len ≠ 0 ∧ t.n1 ≠ 0 ∧ t.n2 ≠ 0 ∧ (s.act.getO 0).toNat % 32 = 0 ∧ t.stride1 % 32 = 0 ∧ t.stride2 % 32 = 0 ∧
       t.len % 32 = 0 ∧ 0 ≤ t.bounds.1 ∧ t.bounds.2 ≤ s.scratchBytes s.act.core ∧
       ∃ g ∈ (s.regionsOf s.act.name s.act.run s.act.core).toList,
         g.allows t.access t.bounds.1.toNat (t.bounds.2 - t.bounds.1).toNat = true) ∧
    (let s := st.setStream 3 { configured := true, bound := true }
     (s.stream 3).configured = true ∧ (s.stream 3).bound = true ∧ (st.stream 3).bound = false) ∧
    (∀ w ∈ st.mem.pending, ¬(w.aid = st.act.aid ∧ w.stream = some 3)) := by
  simp only [CleanO]; decide +kernel

/-- Partition 0 with span 0 of die 0 and what a resume asks for (16 R371), in a state. -/
def partition (state : BitVec 3) : Parts :=
  { parts := vset (Vector.replicate 48 {}) 0 { state := state, spans := 1, asid := 1, spill := 1 }, jobs := [{ id := 1, valid := true, part := 0 }] }

/-- For ServiceAndRequestForms, with the next but three. -/
theorem witness_ServiceForms :
    (svc.act.live = true ∧ svc.act.service = true ∧ Solo svc ∧ Clean svc 1 ∧ Clean svc 0 ∧ CleanO svc 0 ∧ (svc.act.getO 0).toNat < 65536 ∧
      svc.act.memo = .none ∧ svc.counted = []) ∧
    (let s := withX [(9, 0x7FFFFFFFFFFFFF), (10, 1), (11, 0xFF01), (12, 63), (13, 4)] svc
     Clean s 9 ∧ Clean s 10 ∧ (s.act.getX 9).toNat < 2 ^ 55 ∧ (s.act.getX 9).toNat + (s.act.getX 10).toNat ≤ 2 ^ 55 ∧ s.act.getX 10 ≠ 0 ∧
       Clean s 6 ∧ Clean s 11 ∧ (s.act.getX 6).toNat < 2 ^ 32 ∧ (s.act.getX 11).toNat % 256 = 1 ∧ (s.act.getX 11).toNat < 65536 ∧
       s.act.released = true ∧ s.fencesMet s.act = true ∧ Clean s 12 ∧ (s.act.getX 12).toNat < 64 ∧
       (s.act.getX 13).toNat / 2 ^ 7 % 2 ^ 25 = 0 ∧ (s.act.getX 13).toNat % 16 < 8 ∧
       (s.act.getX 13).toNat / 16 % 8 < unitIndexes ((s.act.getX 13).toNat % 16)) := by
  simp only [Clean, CleanO, Solo]; decide +kernel

theorem location_fields : ∀ p : BitVec 12, let w : Word := p.zeroExtend 64 <<< 20
    (bits w.toNat 20 44 = p.toNat ∧ bits w.toNat 0 9 = 0) ∧ bits w.toNat 9 11 = 0 := by decide +kernel

theorem locatedCore_zero : locatedCore (Config.packageNumber.zeroExtend 64 <<< 20) = some 0 := by
  obtain ⟨⟨h, h0⟩, h1⟩ := location_fields Config.packageNumber
  unfold locatedCore
  simp only [h, h0, h1]
  decide

theorem witness_RequestForms :
    (let s := svc.modAct fun a => { a with memo := .value 1 false }
     s.act.live = true ∧ s.act.service = true ∧ Solo s ∧ s.act.memo = .value 1 false) ∧
    (Solo svc ∧ svc.act.memo = .none ∧ svc.act.wait = .none ∧ svc.act.released = true ∧ Clean svc 5 ∧ LocalOk svc (svc.act.getX 5) 64 64 .atomic ∧
      (svc.core svc.act.core).ports = [] ∧ svc.key.mailbox.length < 64 ∧
      ∃ bs, svc.readPlain (dieOf svc.act.core) (localKey svc (svc.act.getX 5)) 64 = (bs, false)) ∧
    (let s := withX [(9, 0x1F7F7F0F)] (withO [(0, 0xFFFFFFFFFFFFFFFF)] svc)
     Clean s 9 ∧ flipFormed (s.act.getX 9) = true ∧ CleanO s 0 ∧ CleanO s 1 ∧ locatedCore (s.act.getO 0) = none) ∧
    (locatedCore (Config.packageNumber.zeroExtend 64 <<< 20) = some 0 ∧ (vget (svc.core 0).queues 4).length < 16) := by
  refine ⟨by simp only [Solo]; decide +kernel, ⟨rfl, by decide +kernel, by decide +kernel, by decide +kernel, ?_, ?_, by decide +kernel, by decide +kernel, _, rfl⟩,
    ⟨?_, by decide +kernel, ?_, ?_, ?_⟩, ?_, by decide +kernel⟩
  case refine_6 =>
    unfold locatedCore
    rw [if_neg]
    rintro ⟨-, h, -⟩
    revert h
    decide +kernel
  case refine_7 => exact locatedCore_zero
  all_goals (try simp only [Clean, CleanO, LocalOk, Unarmed]); decide +kernel

theorem witness_PartitionForms :
    (∀ n ∈ [(0 : BitVec 3), 1, 2, 3], let s := { svc with parts := partition n }
      s.act.live = true ∧ s.act.service = true ∧ Solo s ∧ Clean s 0 ∧ (s.act.getX 0).toNat < 64 ∧ s.act.released = true ∧ s.boot.minimal = false ∧
      (s.part 0).state = n ∧ s.setUp 0 = true ∧ s.act.memo = .none ∧ s.act.wait = .none ∧ ∀ x ∈ s.acts, s.inPart x.job 0 = false) ∧
    (let s : State := { svc with parts := { parts := (partition 0).parts.map fun p => { p with spans := 0 } } }
     (s.part 0).state = 0 ∧ s.setUp 0 = false) ∧
    (Clean svc 1 ∧ (svc.act.getX 0).toNat = 0 ∧ ((withX [(9, 1)] svc).act.getX 9).toNat = 1 ∧
      (svc.modAct fun a => { a with memo := .value 1 false }).act.memo = .value 1 false) := by
  simp only [Clean, Solo]; decide +kernel

/-- A flight from actor 5 to a name. -/
def flight (dst : Word) (i : Item) : Flight := { id := 1, src := own, dst := dst, die := 0, item := i }
def flying (f : Flight) (l : List Actor) : State := { st with wire := { flights := [f] }, dir := { actors := l } }
def hello (dst : Word) : Msg := { w0 := dst, w1 := own, w2 := 1 }
def queued (deadline : Word32) (flags : Word) : QMsg := { msg := { hello other with w2 := flags }, seq := 0, arrived := 0, deadline := deadline }
def receiver (onCore spill : List QMsg) : Actor := { actor 6 1 with onCore := onCore, spill := spill }

theorem witness_MessageEvents :
    (let f := flight other (.msg (hello other))
     let s := flying f [actor 5 0, receiver [queued 1 0] []]
     let a := receiver [queued 1 0] []
     Running s ∧ Arrives s f ∧ isHostName other = false ∧ s.elsewhere other = none ∧ reachable (nameJob f.src) other = true ∧
       (calicoOnly other = true → nameJob f.src = 0) ∧ s.poolOf other = none ∧ s.entryOf other = some a ∧ incOk other a.inc = true ∧ Bears s a.name a ∧ TakesMail s a) ∧
    (let m := hello (mkName 0 2 99 0)
     let f := flight m.w0 (.msg m)
     let s := flying f [actor 5 0]
     Arrives s f ∧ isHostName m.w0 = false ∧ s.elsewhere m.w0 = none ∧ s.poolOf m.w0 = none ∧
       s.entryOf m.w0 = none ∧ msgFlag m 1 = false) ∧
    (let a := receiver [] [queued 1 0]
     let s : State := { st with dir := { actors := [a] } }
     s.mailUsed 1 < mailSlots 1 ∧ s.refillFrom 1 = some a ∧ Bears s a.name a ∧ a.spill = [queued 1 0]) ∧
    (∀ q ∈ [queued 1 0, queued 0xFFFFFFFF 0x10000], let a := receiver [q] []
     let s : State := { st with dir := { actors := [a] } }
     s.choose 1 = some (.mailbox a.name q) ∧ s.lateDrop (.mailbox a.name q) = (q.deadline == 0xFFFFFFFF) ∧ s.freeSlot 1 = some 0 ∧ q.msg.grant = none ∧ a.mirror = [] ∧
       a.onCore = [q] ∧ Bears s a.name a) := by
  refine ⟨?_, ?_, ?_, ?_⟩
  case refine_4 =>
    intro q hq
    refine ⟨?_, ?_⟩
    · revert q; intro q hq; fin_cases hq <;> rfl
    · simp only [Bears]; revert q; decide +kernel
  all_goals (try simp only [Running, Arrives, Bears, TakesMail]); decide +kernel

/-- Actor 6 as a supervisor of one child, and as its state when it is owed a placement. -/
def restartImage : Image := { index := 7, entry := 0x10000 }
def child7 (owed : Option Nat) : Child := { image := restartImage, mirror := false, cond := 0, owed := owed }
def supervisor (owed : Option Nat) : Actor := { actor 6 1 with record := some { bytes := [], intensity := 1, window := 9, group := false, children := [child7 owed] } }

def waiting7 : Actor := { actor 7 0 with life := .restarting 5, supervisor := some (other, 0), regions := Vector.replicate 8 {} }
def restarting : State := { st with parts := partition 1, dir := { actors := [supervisor (some 5), waiting7] } }
theorem restarting_room :
    (restarting.findRoom restartImage (restarting.coresFor (nameJob other) false)
      (restarting.lastDieOf (nameJob other) false restartImage.index)).isSome = true := by decide +kernel

theorem witness_ExitAndRestartEvents :
    (let a := { actor 6 1 with life := .exiting 0 }
     let s : State := { st with dir := { actors := [actor 5 0, a] } }
     Running s ∧ Bears s a.name a ∧ a.life = .exiting 0 ∧ s.lingering a.name = false ∧ s.poolOf a.name = none ∧
       s.heir a 0 = none ∧ a.record = none) ∧
    (let f := flight other (.kill 7)
     let s := flying f [actor 5 0, actor 6 1]
     Arrives s f ∧ Bears s (actor 6 1).name (actor 6 1) ∧ s.poolOf (actor 6 1).name = none ∧ (actor 6 1).life = .live ∧ s.killTarget f.src f.dst = some (actor 6 1).name) ∧
    (∀ trapx ∈ [false, true], let me := { actor 6 1 with links := [⟨0, own, 0, .link⟩], trapx := trapx }
     let f := flight other (.exitSignal 5 0)
     let s := flying f [actor 5 0, me]
     Arrives s f ∧ Bears s f.dst me ∧ s.poolOf f.dst = none ∧ s.elsewhere f.dst = none ∧ me.life = .live ∧ (∃ e ∈ me.links, e.partner = f.src ∧ e.type = .link) ∧
       s.trapsExits f.dst = trapx ∧ TakesMail s me) ∧
    (let me := supervisor none
     let f := flight other (.supNotice 0 5 0)
     let s := flying f [actor 5 0, me]
     ∃ rec, Arrives s f ∧ Bears s f.dst me ∧ s.poolOf f.dst = none ∧ me.life = .live ∧ me.record = some rec ∧ rec.group = false ∧ 0 < rec.children.length ∧
       s.entryAt (nameJob f.dst) (nameJob f.dst == 0) (rec.children.getD 0 default).image.index = none ∧ (rec.children.getD 0 default).owed = none ∧ callsRestart (rec.children.getD 0 default) 5 = true ∧ rec.recent s.env.time < rec.intensity) ∧
    (let a := waiting7
     let s := restarting
     ∃ rec room, s.recordOf other = some rec ∧ 0 < rec.children.length ∧ nameJob other ≠ 0 ∧ (rec.children.getD 0 default).owed = some 5 ∧
       s.behindSibling other 0 = false ∧
       (rec.children.getD 0 default).mirror = false ∧ (rec.children.getD 0 default).rooms = [] ∧ initPieces restartImage = [] ∧ s.entryAt (nameJob other) false restartImage.index = some a ∧
       a.life = .restarting 5 ∧ a.supervisor = some (other, 0) ∧ a.held = [] ∧ s.xlat.tickets.any (fun t => t.restarts.contains (other, 0)) = false ∧
       s.findRoom restartImage (s.coresFor (nameJob other) false) (s.lastDieOf (nameJob other) false restartImage.index) = some room) ∧
    (let m : Mirror := { run := 1, core := 1, resident := 0, regions := Vector.replicate 8 {}, digest := some [9] }
     let a := { actor 6 1 with digest := some [9], mirror := [m] }
     let s : State := { st with dir := { actors := [a] } }
     Bears s a.name a ∧ a.life = .live ∧ a.digest = some [9] ∧ a.mirror.find? (fun x => x.run == 1) = some m ∧ m.digest = some [9] ∧
       a.mirror.find? (fun x => x.run == 2) = none) := by
  refine ⟨?_, ?_, ?_, ⟨_, ?_, ?_, by decide +kernel, rfl, rfl, rfl, by decide, by decide +kernel, rfl, by decide +kernel, by decide +kernel⟩, ?_, ?_⟩
  case refine_6 =>
    obtain ⟨room, h⟩ := Option.isSome_iff_exists.mp restarting_room
    exact ⟨_, room, rfl, by decide, by decide +kernel, rfl, by decide +kernel, rfl, rfl, rfl, by decide +kernel, rfl, rfl, rfl, rfl, h⟩
  all_goals (try simp only [Running, Arrives, Bears, TakesMail]); decide +kernel

/-- The activation of `st` at a time, waiting. -/
def atTime (n : Nat) (a : Act → Act) : State := { st.modAct a with env := { time := n } }
/-- An entry of queue 4 or 0 of core 0. -/
def entry0 (aid : Nat) (op : EOp) : Entry := { id := 1, aid := aid, actor := own, job := 1, op := op }
def queueing (q : Nat) (e : Entry) (s : State) : State :=
  { s with cores := [(0, { word := 0x24, part := some 0, queues := vset (Vector.replicate 7 []) q [e] }), (1, { word := 0x24, part := some 0 })] }
def inFlight (i : Item) : State := flying (flight other i) [actor 5 0, actor 6 1]

theorem witness_TimeAndCounterEvents :
    (let me : Actor := { actor 6 1 with timers := [⟨3, 100⟩] }
     let s : State := { st with env := { time := 100 }, dir := { actors := [me] } }
     Running s ∧ Bears s me.name me ∧ s.poolOf me.name = none ∧ me.life = .live ∧ ∃ x ∈ me.timers, x.ref = 3 ∧ x.due ≤ s.env.time) ∧
    (let s := atTime 200001 fun a => { a with committed := true }
     s.allActs.find? (fun a => a.aid == 1) = some s.act ∧ s.act.committed = true ∧ s.act.commitAt + s.wdogOf s.act.job < s.env.time) ∧
    (let e : Entry := { entry0 9 (.mzero 0) with waitSince := some 0 }
     let s := queueing 4 e (atTime 200001 id)
     s.entryById 1 = some (0, 4, e) ∧ s.allActs.any (fun a => a.aid == e.aid) = false ∧ e.waitSince = some 0 ∧ s.mayGoOn 0 e = false ∧ 0 + s.wdogOf e.job < s.env.time) ∧
    (let d : Deferred := { id := 3, who := { st.me with aid := 9 }, eff := .cinc none 0 1 0 0, after := [], scope := 0, tags := {}, ticket := some 7 }
     let s : State := { atTime 200001 id with wire := { deferred := [d] } }
     s.entryById 3 = none ∧ s.wire.deferred.find? (fun d => d.id == 3 && d.ticket.isSome && !s.allActs.any fun a => a.aid == d.who.aid) = some d ∧
       d.since + s.wdogOf (nameJob d.who.name) < s.env.time) ∧
    (let s := atTime 11 fun a => { a with wait := .counter 3 0x80000001 }
     s.allActs.find? (fun a => a.aid == 1) = some s.act ∧ s.act.wait = .counter 3 0x80000001 ∧
       (((s.core s.act.core).counter 3) - 0x80000001).msb = false) ∧
    (let s := atTime 11 fun a => { a with wait := .counterLimit 3 5 10 false }
     s.allActs.find? (fun a => a.aid == 1) = some s.act ∧ s.act.wait = .counterLimit 3 5 10 false ∧ s.act.memo ≠ .met ∧ 10 < s.env.time) ∧
    (let f := flight other (.cinc 2047 1)
     let s := inFlight f.item
     Arrives s f ∧ s.elsewhere f.dst = none ∧ reachable (nameJob f.src) f.dst = true ∧ s.entryOf f.dst = some (actor 6 1) ∧
       (actor 6 1).life = .live ∧ incOk f.dst (actor 6 1).inc = true ∧ (s.runCores f.dst).Nodup) ∧
    (let f := flight other (.launchDone 9 2047 0)
     let s := inFlight f.item
     Arrives s f ∧ f.after = [] ∧ s.elsewhere f.dst = none ∧ s.poolOf f.dst = none ∧ Bears s f.dst (actor 6 1) ∧ (actor 6 1).life = .live ∧
       (s.runCores f.dst).Nodup) ∧
    (let f := flight other (.faultReply 7 0)
     let k : Ticket := { num := 7, asid := 1, page := 1, va := 0, actor := own, where_ := 0, what := 0, deadline := 0, part := 0, acts := [1] }
     let s : State := { (inFlight f.item).modAct fun a => { a with wait := .ticket 7 } with xlat := { tickets := [k] } }
     s.wire.flights.find? (fun g => g.id == f.id) = some f ∧ f.after = [] ∧ s.xlat.tickets.find? (fun x => x.num == 7) = some k ∧
       (0 : Word).toNat % 256 ≠ 1 ∧ k.acts.contains s.act.aid = true ∧ s.act.wait = .ticket 7) := by
  simp only [Running, Bears, Arrives]; decide +kernel

/-- An MMAS on a core of the span, at row c / 4 and column c mod 4 of it (10 R274). -/
def spanEntry (row col : Nat) : Entry := entry0 1 (.mmas 0 0 0 7 128 row col 0 0 0 0 0 0)
def spanAt (c : Nat) : Entry := spanEntry ((spanGrid 3 11).idxOf c / 4) ((spanGrid 3 11).idxOf c % 4)
def spanned : State := { st with
  cores := (spanGrid 3 11).map fun c => (c, { queues := vset (Vector.replicate 7 []) 4 [spanAt c] }) }

theorem witness_EngineEvents :
    (let e := entry0 1 (.mzero 3)
     let x : Tile := { num := 3, owner := 1 }
     let s : State := { st with cores := [(0, { word := 0x24, part := some 0, queues := vset (Vector.replicate 7 []) 4 [e], tiles := [x] })] }
     Running s ∧ vget (s.core 0).queues 4 = [e] ∧ s.mayStart 0 e = true ∧ s.act.live = true ∧ s.act.aid = e.aid ∧ s.tile 0 3 = some x) ∧
    (let e := entry0 1 (.push 1 0x0070000000000000 64 0 0x1F none false)
     let s := queueing 0 e st
     vget (s.core 0).queues 0 = [e] ∧ e.op.moves = true ∧ e.op.list = none ∧ e.op.pieces [] ≠ [] ∧ e.started = false ∧ s.mayStart 0 e = true) ∧
    (let e := { entry0 1 (.push 1 0x0070000000000000 64 0 0x1F none false) with started := true }
     let s := queueing 0 e st
     vget (s.core 0).queues 0 = [e] ∧ e.ticket = none ∧ 1 ∉ e.done ∧ 1 < 64 / 32 ∧ (0x0070000000000000 + 32 * 1) / 2 ^ 48 = 0x70 ∧
       0x0070000000000000 % 32 = 0) ∧
    (let e := entry0 1 (.mma 0 0 0 128 128 0x0070000000000000 128 16 (some (5, 0)))
     let s := queueing 4 e st
     vget (s.core 0).queues 4 = [e] ∧ e.started = false ∧ ((s.core 0).counter 5 - 0).msb = false) ∧
    (∀ c ∈ spanGrid 3 11, spanned.mmasAt 7 c = some (spanAt c) ∧ (spanAt c).job = 1 ∧ (spanAt c).started = false ∧ spanned.mayStart c (spanAt c) = true ∧
      (spanAt c).op.span = some (0, 0, 7, 128, (spanGrid 3 11).idxOf c / 4, (spanGrid 3 11).idxOf c % 4)) := by
  refine ⟨?_, ⟨rfl, rfl, rfl, fun h => absurd (congrArg List.length h) (by decide), rfl, by decide +kernel⟩, ?_, ?_, fun c hc => ⟨?_, rfl, rfl, ?_, rfl⟩⟩ <;>
    (try revert c) <;>
    (try simp only [Running]) <;> decide +kernel

/-- Port 5 of core 1, on region 0 of actor 6. -/
def port5 : Port := { num := 5, actor := other, region := 0, counter := 7, expected := 64, aid := 2 }
def pushing (i : Item) : State := { inFlight i with
  cores := [(0, { word := 0x24, part := some 0, queues := vset (Vector.replicate 7 []) 0 [entry0 1 (.push 5 0x0070000000000000 64 4032 2 none false)] }),
    (1, { word := 0x24, part := some 0, ports := [port5] })] }
/-- A write of 8 bytes at pool key 0 of HBM of die 0, from die `die`, that no die has yet applied but those listed. -/
def landing (die : Nat) (applied : List Nat) : PendWrite :=
  { id := 4, aid := 1, core := 0, asid := 1, va := 0x10000, addr := 0x10000, bytes := List.replicate 8 0xAB, poison := false, key := 0
    die := die, home := 0, replicas := none, stamp := (List.range 4).map fun k => if k = die then 1 else 0, applied := applied, tags := {} }
def writing (w : PendWrite) : State := { mapped st with mem := { (mapped st).mem with pending := [w] } }

theorem witness_LandingEvents :
    (let f := flight other (.pushSector 1 1 5 32 32 other (List.replicate 32 1) false)
     let s := pushing f.item
     Running s ∧ s.wire.flights.find? (fun g => g.id == f.id) = some f ∧
       s.entryById 1 = some (0, 0, entry0 1 (.push 5 0x0070000000000000 64 4032 2 none false)) ∧
       (s.core 1).ports.find? (fun p => p.num == 5 && nameJob p.actor == (1 : Half) && (other == 0 || p.actor == other)) = some port5 ∧
       (s.portRegion 1 port5).state = .owned ∧ 4032 + 32 ≤ (s.portRegion 1 port5).size) ∧
    (let f := flight other (.pushrSector 1 1 4064 0 (List.replicate 32 1) false (some 9))
     let e := entry0 1 (.pushr 0x30000 0x0070000000000000 32 none false)
     let s := { pushing f.item with cores := [(0, { word := 0x24, part := some 0, queues := vset (Vector.replicate 7 []) 0 [e] }), (1, { word := 0x24, part := some 0 })] }
     s.wire.flights.find? (fun g => g.id == f.id) = some f ∧ s.entryById 1 = some (0, 0, e) ∧ s.pushrLands 0 1 4064 e = true) ∧
    (∀ t ∈ [(0, 0), (1, 0), (0, 1)], let w := landing t.1 []
     let s := writing w
     s.mem.pending.find? (fun p => p.id == w.id) = some w ∧ t.2 < 4 ∧ w.die < 4 ∧ w.stream = none ∧ w.replicas = none ∧ s.applicable w t.2 = true ∧
       s.landsAt w t.2 = true ∧ isPool w.addr = false ∧
       (t.2 ≠ w.home → s.retired { w with applied := t.2 :: w.applied } = false ∧ ∀ i < w.bytes.length, s.covered? w t.2 (w.addr + i) = false)) ∧
    look [] { st with sfu := [(2, [(1, 7, .udf 0 0)])] }.sfu 2 = [(1, 7, .udf 0 0)] ∧
    512 ≤ (({ st with cores := [(0, { dirty := List.replicate 512 (1, 2) })] } : State).core 0).dirty.length := by
  simp only [Running]; decide +kernel

/-- Entry 0 of the expert table, whose set 0 has a state, a source kind and what waits. -/
def setAs (state kind : BitVec 2) : WSet := { state := state, kind := kind }
def expertAt (state kind : BitVec 2) : ExpEntry := { num := 0, valid := true, job := 1, model := 3, pool := 2, sets := #v[setAs state kind, {}] }
def poolName : Word := mkName 1 1 2 1
def pool2 : Pool := { job := 1, index := 2, inc := 1, dies := 1, queues := [{ die := 0, num := 0 }] }
def expertState (state kind : BitVec 2) (fetches : List Fetch) (ingress : BitVec 2) : State := { st with
  exp := { entries := [expertAt state kind], models := [{ num := 0, valid := true, job := 1, model := 3, ingress := ingress }], fetches := fetches,
           copies := [(0, 0, 2, 5)] }
  dir := { actors := [actor 5 0], pools := [pool2] }, parts := partition 1, mem := { keySlots := (List.range 256).map fun k => (k, 1) } }
/-- The tables that `withFetchWord` writes map page 1, which is here the weight area of partition 0. -/
def fetching : State :=
  let s := State.reset.withFetchWord 32 0
  { s.modPart 0 fun p => { p with wt := 1 } with
    exp := { entries := [expertAt 1 0], fetches := [{ entry := 0, set := 0 }] } }
def toPool : Msg := { w0 := poolName, w1 := own, w2 := 1 }

theorem witness_ExpertEvents :
    (let f := flight poolName (.msg toPool)
     let s : State := { expertState 2 0 [] 0 with wire := { flights := [f] } }
     let k := s.captured (expertAt 2 0) toPool.epoch
     Running s ∧ Arrives s f ∧ isHardware toPool = false ∧ reachable (nameJob f.src) toPool.w0 = true ∧ s.poolOf toPool.w0 = some pool2 ∧
       f.dst = toPool.w0 ∧ pool2.life = .live ∧ incOk toPool.w0 pool2.inc = true ∧ s.killable pool2.name = true ∧
       s.exp.entries.find? (fun x => x.valid && x.job == pool2.job && x.pool == pool2.index) = some (expertAt 2 0) ∧ s.expEntry 0 = some (expertAt 2 0) ∧
       k = 0 ∧ (vget (expertAt 2 0).sets k).state = 2 ∧ (vget (expertAt 2 0).sets k).waiting.length < pool2.image.quota ∧
       s.spillRoom pool2.job (expertAt 2 0).home.toNat = true) ∧
    (let f : Fetch := { entry := 0, set := 0 }
     let e := expertAt 1 0
     let s := fetching
     let l := (s.waitingFetches 0).filter fun x => !s.noSource x
     let older := l.takeWhile fun x => !x.isOf 0 0
     ∃ page key, s.expEntry 0 = some e ∧ l.find? (fun x => x.isOf 0 0) = some f ∧ older = [] ∧ (s.exp.fetches.filter fun x => x.started && (s.expEntry x.entry).any fun y => y.home.toNat == 0).length < 8 ∧
       s.roomBehind 0 older f = some (page, key)) ∧
    (let s := expertState 3 0 [] 0
     s.expEntry 0 = some (expertAt 3 0) ∧ (expertAt 3 0).valid = true ∧ (vget (expertAt 3 0).sets 0).state = 3) ∧
    (let f : Fetch := { entry := 0, set := 0, started := true }
     let s := expertState 1 0 [f] 1
     let e := expertAt 1 0
     s.expEntry 0 = some e ∧ s.exp.fetches.find? (fun x => x.entry == 0 && x.set == 0) = some f ∧ (vget e.sets 0).kind ≠ 2 ∧
       f.started = true ∧
       (spansDomains e.job = true → s.digestOk e 0 (s.readPlain e.home.toNat (sourceKey e.home.toNat (vget e.sets 0)) ((vget e.sets 0).size * 65536)).1 = true) ∧
       (s.readPlain e.home.toNat (sourceKey e.home.toNat (vget e.sets 0)) ((vget e.sets 0).size * 65536)).2 = false ∧
       (∀ key, ∃ gen, s.keyGen e.home.toNat key = .ok gen)) ∧
    (let f : Fetch := { entry := 0, set := 0, started := true }
     let s : State := { expertState 1 0 [f] 0 with env := { time := 50001 } }
     s.exp.fetches.find? (fun x => x.entry == 0 && x.set == 0) = some f ∧ f.started = true ∧ f.since + s.links.rto.toNat * 1000 < s.env.time) ∧
    (let s := expertState 0 0 [] 0
     s.expEntry 0 = some (expertAt 0 0) ∧ s.exp.copies.find? (fun x => x.1 == 0 && x.2.1 == 0 && x.2.2.1 == 2) = some (0, 0, 2, 5)) ∧
    (svc.calico = true ∧ (65535 : Nat) + 1 ≤ 65536 ∧ (65536 : Nat) < 65535 + 2 ∧ svc.exp.models.find? (fun r => r.num == 1023) = none ∧ svc.expEntry 65535 = none ∧
      ∃ e, parseEntry 65535 [0x8000000080000000, 0x0001000300000000, 0, 0, 0, 0, 0, 0] = some e ∧ e.valid = true) := by
  refine ⟨?_, ⟨(fetching.roomBehind 0 [] { entry := 0, set := 0 }).get!.1, (fetching.roomBehind 0 [] { entry := 0, set := 0 }).get!.2, ?_⟩, ?_, ⟨?_, ?_, ?_, ?_, ?_, ?_, ?_⟩, ?_, ?_, ?_, ?_, ?_, ?_, ?_, _, rfl, ?_⟩
  case refine_8 =>
    intro h
    simp only [State.digestOk]
    rw [h]
    rfl
  case refine_9 =>
    simp only [State.readPlain, List.any_eq_false]
    intro x _
    simp [expertState, Mem.poisonAt, Mem.marks, Mem.homePoison, look, look?]
  case refine_10 =>
    have h : ∀ key : Byte, (match (expertState 1 0 [{ entry := 0, set := 0, started := true }] 1).keyGen 0 key with | .ok _ => true | .error _ => false) = true := by
      decide +kernel
    intro key
    have := h key
    split at this
    · exact ⟨_, ‹_›⟩
    · simp at this
  all_goals (try simp only [Running, Arrives]) <;> decide +kernel

/-- An image descriptor of no region at 0x10000 (03 R83), which Calico reads for job 1. -/
def placing : State :=
  let s := State.reset.withFetchWord 32 0x63
  let s := s.modPart 0 fun p => { p with spans := 1 }
  let bs : List Byte := leBytes 8 0x10000 ++ leBytes 8 0 ++ leBytes 8 7 ++ List.replicate 104 0
  { s.writeNow 1 0x40000 bs false with
    xlat := { s.xlat with cached := [{ die := 0, slice := sliceOf 0x10000, asid := 1, tag := 1, entry := 0x100017 }] }, cores := [(0, { word := 0x24, part := some 0 }), (1, { word := 0x24, part := some 0 })] }
def savedActor : Actor := { actor 6 1 with life := .saved, saved := { places := [(0, 3, Vector.replicate 8 {})] } }

def image16 : Image := (placing.calicoImage 1 0x10000).getD {}
theorem placing_room : (placing.findRoom image16 (placing.coresFor 1 image16.service) none).isSome = true := by decide +kernel
theorem placing_image : placing.calicoImage 1 0x10000 = some image16 := by
  have h : (placing.calicoImage 1 0x10000).isSome = true := by decide +kernel
  obtain ⟨i, hi⟩ := Option.isSome_iff_exists.mp h
  unfold image16
  rw [hi]
  rfl

theorem witness_PlacementEvents :
    (∃ j room, Running placing ∧ placing.job? 1 = some j ∧ j.valid = true ∧ placing.calicoImage 1 0x10000 = some image16 ∧ initPieces image16 = [] ∧
      placing.shardRoom (mkName 1 1 image16.index 0) = true ∧ placing.shardRoom (mkName 1 0 image16.index 0) = true ∧
      placing.dir.pools.any (fun p => p.job == 1 && p.index == image16.index) = false ∧
      (((placing.coresFor 1 false).filter fun c => (1 : BitVec 4).getLsbD (dieOf c)).filterMap fun c => placing.roomOn image16 c) ≠ [] ∧
      placing.runs 1 = true ∧ placing.entryAt 1 false image16.index = none ∧
      placing.findRoom image16 (placing.coresFor 1 image16.service) none = some room) ∧
    (let s : State := { placing with dir := { actors := [savedActor] } }
     ∃ core number regions, Bears s savedActor.name savedActor ∧ savedActor.life = .saved ∧ s.runs savedActor.job = true ∧ s.writing savedActor.job = false ∧ savedActor.held = [] ∧
       savedActor.saved.places = [(0, 3, Vector.replicate 8 {})] ∧
       s.placeFor savedActor.job (0, 3, Vector.replicate 8 {}) = some (core, 0, number, regions)) := by
  obtain ⟨room, h⟩ := Option.isSome_iff_exists.mp placing_room
  have hj : (placing.job? 1).any (·.valid) = true := by decide +kernel
  obtain ⟨j, h1⟩ := Option.isSome_iff_exists.mp (by decide +kernel : (placing.job? 1).isSome = true)
  have h2 : j.valid = true := by rw [h1] at hj; exact hj
  refine ⟨⟨j, room, by simp only [Running]; decide +kernel, h1, h2, placing_image, by decide +kernel, by decide +kernel, by decide +kernel, by decide +kernel,
    fun h => absurd (congrArg List.length h) (by decide +kernel), by decide +kernel, by decide +kernel, h⟩, ⟨0, 0, Vector.replicate 8 {}, ?_, rfl, by decide +kernel, by decide +kernel, rfl, rfl, by decide +kernel⟩⟩
  simp only [Bears]; decide +kernel

/-- A record in Keystone's mailbox, and the activation that waits for its answer. -/
def asked (words : List Nat) (attest : Bool) : KReq :=
  { id := 9, aid := 1, who := svc.me, core := 4, record := poolKey 4 0, bytes := (List.range 8).flatMap fun k => leBytes 8 (words.getD k 0), attest := attest }
def openOne : Attest := { job := 1, part := 0, asid := 1, keys := 0x0100, start := 0 }
/-- A region of 16 KiB holds a manifest and its signature. -/
def wideRegion : Region := { state := .owned, w := true, r := true, size := 32768, offset := 0 }
def askingWith (r : KReq) (slots : List (Nat × Nat)) : State :=
  let s := { svc.modAct fun a => { a with wait := .keystone 9 } with
    key := { mailbox := [r], records := [openOne] }
    mem := { keySlots := slots }
    parts := { parts := vset (Vector.replicate 48 {}) 1 { state := 1, keys := 0x0203 }, jobs := [] }
    exp := { models := [{ num := 0, valid := true, job := 1, model := 3 }] }
    dir := { actors := [{ job := 0, service := true, index := 1, inc := 1, core := 4, regions := vset (Vector.replicate 8 {}) 0 wideRegion }] } }
  { s with links := { s.links with links := vset s.links.links 19 { state := 2, tx := #v[2, 0], rx := #v[2, 0] } } }
def Asked (s : State) (r : KReq) : Prop :=
  Running s ∧ s.key.mailbox = r :: [] ∧ (∀ x ∈ ([] : List KReq), x.id ≠ r.id) ∧ s.act.live = true ∧ s.act.aid = r.aid ∧ s.act.wait = .keystone r.id
def verifying : State := askingWith (asked [4 + 2 ^ 32 * 1, 3 * 2 ^ 16 + 1, 0x0070000000000000] false) []
def signatureRead (s : State) (r : KReq) : Bool := match s.readRecord r.who (r.word 2) 16224 32 with
  | .ok (some _, u) => u.act == s.act && u.acts == s.acts && u.key == s.key && u.exp == s.exp
  | _ => false
theorem signature_of {s : State} {r : KReq} (h : signatureRead s r = true) : ∃ sig u, s.readRecord r.who (r.word 2) 16224 32 = .ok (some sig, u) ∧
    u.act = s.act ∧ u.acts = s.acts ∧ u.key = s.key ∧ u.exp = s.exp := by
  unfold signatureRead at h
  split at h <;> simp_all
/-- A flip request of actor 5 for a core of its own die lies first in the diagnostic service's mailbox. -/
def flipMsg : Msg := { w0 := diagnosticName, w1 := own, w2 := 0x0100, w4 := 0, w5 := 63 }
def diagnosing : State := { svc with
  dir := { actors := [{ job := 0, service := true, index := 3, inc := 1, core := 12, onCore := [{ msg := flipMsg, seq := 0, arrived := 0, deadline := 0 }] },
    actor 5 0] }
  parts := { partition0 with jobs := [{ id := 1, valid := true, diag := true, part := 0 }] } }

theorem witness_KeystoneEvents :
    (∃ l, let r := asked [1 + 2 ^ 32 * 19] false
     let s := askingWith r []
     Asked s r ∧ r.attest = false ∧ r.formed = true ∧ r.code = 1 ∧ r.arg / 2 ^ 6 % 2 ^ 26 = 0 ∧ r.arg % 2 ^ 5 < 20 ∧
       (s.link (r.arg % 2 ^ 5)).install (r.arg.testBit 5) = some l) ∧
    (∀ t ∈ [(2, []), (2, [(4, 7)]), (3, [(4, 7)])], let r := asked [t.1 + 2 ^ 32 * 0x104] false
     let s := askingWith r t.2
     Asked s r ∧ r.attest = false ∧ r.formed = true ∧ r.code = t.1 ∧ s.keyArg r = .inr 4 ∧ (look? s.mem.keySlots 4).isSome = !t.2.isEmpty ∧
       s.keyBusy 4 = false) ∧
    (let r := asked [4 + 2 ^ 32 * 1, 3 * 2 ^ 16 + 1, 0x0070000000000000] false
     let s := verifying
     ∃ m sig u, Asked s r ∧ r.attest = false ∧ r.formed = true ∧ r.code = 4 ∧ r.arg / 2 ^ 16 = 0 ∧ r.word 1 / 2 % 2 ^ 15 = 0 ∧ r.word 1 / 2 ^ 32 = 0 ∧
       s.modelOf (BitVec.ofNat 16 r.arg) (BitVec.ofNat 16 (r.word 1 / 2 ^ 16 % 2 ^ 16)) = some m ∧
       s.readRecord r.who (r.word 2) 16224 32 = .ok (some sig, u) ∧ u.act = s.act ∧ u.acts = s.acts ∧ u.key = s.key ∧ u.exp = s.exp) ∧
    (let r := asked [5 + 2 ^ 32 * 1] false
     let s := askingWith r []
     Asked s r ∧ r.formed = true ∧ r.code = 5 ∧ r.arg / 2 ^ 16 = 0 ∧ (s.openRecord (BitVec.ofNat 16 r.arg)).isSome = true) ∧
    (let r := asked [6] false
     let s := askingWith r []
     Asked s r ∧ r.formed = true ∧ r.code = 6 ∧ isHbm r.record = false) ∧
    (let r := asked [2 * 2 ^ 16 + 1, 5, 6, 7, 8] true
     let s := askingWith r []
     Asked s r ∧ r.attest = true ∧ r.word 0 / 2 ^ 16 = 2 ∧ (∀ b ∈ (r.bytes.drop 40).take 24, b = 0) ∧
       s.openRecord (BitVec.ofNat 16 (r.word 0)) = some openOne ∧ openOne.entries.length < 4096) ∧
    (let r : Attest := { openOne with sealed := true }
     let s : State := { svc with key := { records := [r] } }
     s.key.records.find? (fun t => t.job == 1 && t.sealed) = some r) ∧
    (4 ≤ svc.boot.steps ∧ svc.boot.minimal = false ∧ svc.mem.passDue 11 svc.env.time = true) ∧
    (∃ a q rest r, diagnosing.resolve diagnosticName = some a ∧ a.core = 12 ∧ a.onCore = q :: rest ∧ msgKind q.msg = 0x0100 ∧
      diagnosing.allActs.any (fun t => t.name == a.name) = false ∧ diagnosing.flipFrom q.msg = some r ∧ isService r.core = false ∧
      (vget (diagnosing.core r.core).queues 4).length < 16) ∧
    (let s : State := { svc with parts := partition 2 }
     (s.part 0).state = 2 ∧ s.stoppable 0 = [] ∧ s.entries.any (fun e => s.inPart e.job 0 && !e.started && e.op.span.isSome) = false ∧ s.busy 0 = false) := by
  obtain ⟨sig, u, h, h1, h2, h3, h4⟩ := signature_of (s := verifying) (r := asked [4 + 2 ^ 32 * 1, 3 * 2 ^ 16 + 1, 0x0070000000000000] false)
    (by decide +kernel)
  refine ⟨⟨{ state := 2, tx := #v[2, 1], rx := #v[2, 0] }, ?_⟩, ?_, ⟨{ num := 0, valid := true, job := 1, model := 3 }, sig, u, ?_, rfl, ?_, ?_, ?_, ?_, ?_, ?_, h, h1, h2, h3, h4⟩,
    ?_, ?_, ?_, ?_, ?_, ⟨_, _, _, actor 5 0, rfl, rfl, rfl, ?_⟩, ?_⟩
  all_goals (try simp only [Asked, Running]); decide +kernel

def bootAt (b : Boot) : State := { st with boot := b }

theorem witness_StartEvents :
    (bootAt { powered := false }).boot.powered = false ∧
    (let s := bootAt {}
     s.boot.powered = true ∧ s.boot.tripped = false ∧ s.hasPort 0 = true ∧ Running s ∧ s.boot.steps < 8 ∧ s.boot.steps = 0) ∧
    (bootAt { tripped := true }).boot.tripped = true ∧
    (let s := bootAt { mode := 2, steps := 6 }
     s.hasPort 1 = true ∧ s.boot.steps ≠ 0 ∧ s.boot.mode = 2 ∧ (1 : Word32).getLsbD 0 = true) ∧
    (Running st ∧ st.hasPort 1 = true ∧ st.boot.mode ≠ 2 ∧ 8 ≤ st.boot.steps) ∧
    (let s := bootAt { steps := 1, starts := 2 }
     Running s ∧ s.boot.steps = 1 ∧ s.boot.starts.toNat < 3) ∧
    (∀ n ∈ [5, 6], let s := bootAt { steps := n }
     Running s ∧ s.boot.steps = n ∧ ∀ k < 20, (s.link k).state ≠ 1) ∧
    (∀ n ∈ [16224, 0], let s := bootAt { steps := 2, newMain := some ([], List.replicate n 0) }
     Running s ∧ s.boot.steps = 2 ∧ (n = 0 → s.boot.imageOk = false) ∧
       (n = 16224 → Config.verifies (sha256 []) (List.replicate n 0) = true → s.boot.imageOk = true)) ∧
    (let s : State := { bootAt { steps := 7 } with env := { time := 10000000000 }, key := { calicoRoot := some own } }
     Running s ∧ s.boot.steps = 7 ∧ s.env.time ≤ s.boot.rootSince + 10000000000 ∧ s.rootLive = true ∧ s.boot.minimal = false) ∧
    (let s : State := { bootAt { steps := 7 } with env := { time := 10000000001 } }
     Running s ∧ s.boot.steps = 7 ∧ s.boot.rootSince + 10000000000 < s.env.time) := by
  refine ⟨?_, ?_, ?_, ?_, ?_, ?_, ?_, ?_, ?_, ?_⟩
  case refine_8 =>
    intro n hn
    refine ⟨⟨rfl, rfl, rfl⟩, rfl, ?_, ?_⟩
    · rintro rfl; rfl
    · rintro rfl h
      have hb : (bootAt { steps := 2, newMain := some ([], List.replicate 16224 0) }).boot.image = ([], List.replicate 16224 0) := rfl
      simp only [Boot.imageOk]
      rw [hb, h, List.length_replicate]
      rfl
  all_goals (try simp only [Running]); decide +kernel

/-- A message from the host to actor 6 and one from actor 5 to the host. -/
def fromHost : List Byte := leBytes 8 other.toNat ++ List.replicate 8 0 ++ leBytes 8 1 ++ List.replicate 40 0
def toHost : Msg := { w0 := hostName 1 0, w1 := own, w2 := 1 }
def hosting : State :=
  { st with wire := { flights := [flight toHost.w0 (.msg toHost)] }, host := { ({} : HostSide) with rxq := vset ({} : HostSide).rxq 0 { size := 64 } }
            mem := { keySlots := [(0, 3)] } }

theorem witness_HostAndRegisterEvents :
    (let s := hosting
     s.boot.powered = true ∧ s.boot.tripped = false ∧ 3 ≤ s.boot.steps ∧ (4096 : Word).toNat % 4096 = 0 ∧ (1 : Word).toNat % 4096 ≠ 0 ∧ (s.part 47).hostSpill = [] ∧ ringSize (65536 : Word).toNat = true ∧
       s.hasPort 1 = true ∧ s.boot.steps ≠ 0 ∧ (bootAt {}).boot.powered = true ∧ (bootAt {}).hasPort 0 = true ∧ (bootAt {}).boot.steps = 0 ∧ Running s ∧ 8 ≤ s.boot.steps ∧ 64 % 64 = 0 ∧
       look? s.mem.keySlots 0 = some 3 ∧ (List.replicate 64 (7 : Byte)).length = 64) ∧
    (let s := hosting
     fromHost.length = 64 ∧ 0 ≤ 48 ∧ 4032 % 64 = 0 ∧ 4032 < 4096 ∧ s.gatewayTakes 0 (msgOfBytes fromHost) = true ∧ (List.replicate 8 (7 : Byte)).length ≠ 64) ∧
    (let s := hosting
     let f := flight toHost.w0 (.msg toHost)
     Arrives s f ∧ isHostName toHost.w0 = true ∧ isHardware toHost = false ∧ reachable (nameJob f.src) toHost.w0 = true ∧
       s.partOfJob (nameJob toHost.w0) = some 0 ∧ (s.part 0).hostSpill = [] ∧ (s.rxq 0).full = false) ∧
    (svc.calico = true ∧ 10 ≤ (10000 : Word).toNat ∧ (10000 : Word).toNat ≤ 10000 ∧ 10000 < (10001 : Word).toNat) ∧
    (let s : State := { svc with logs := vset svc.logs 3 { head := 0xFFFFFFFF, tail := 1 } }
     ((0 : Word).setWidth 32 - (vget s.logs 3).head : Word32).toNat ≤ ((vget s.logs 3).tail - (vget s.logs 3).head).toNat) ∧
    (let s := { svc.modAct fun a => { a with jsel := 9 } with parts := partition0 }
     s.calico = true ∧ s.act.jsel ≠ 0 ∧ (s.part 0).state = 1 ∧ (s.parts.jobs.filter (·.valid)).length < 1024 ∧ s.job? s.act.jsel = none) ∧
    (let s := svc.modAct fun a => { a with psel := 47 }
     1000 ≤ (1000 : Word).toNat ∧ (1000 : Word).toNat < 2 ^ 32 ∧ s.act.psel.toNat < 48 ∧
       (s.modPart s.act.psel.toNat fun t => { t with wdog := (1000 : Word).setWidth 32 }).overdue s.act.psel.toNat = []) := by
  simp only [Running, Arrives]; decide +kernel

/-- Link 19 in a state with a transaction that waits. -/
def linked (l : Link) : State := { st with links := { st.links with links := vset st.links.links 19 l } }
def upLink : Link := { state := 2, rx := #v[2, 0], tx := #v[2, 0], out := [(1, .heartbeat 1 2)], rxnext := 5, peer := some 4 }
def flit (type : BitVec 3) (plain : Plain) : Flit :=
  { seq := 5, ack := 0, nak := 0, nakv := false, slot := false, type := type, plain := plain, authentic := true }

/-- Any package of the load-store domain but this one meets the condition on a heartbeat; that there is one is Config's. -/
theorem peers_of_domain {k n : Nat} (hk : k < 64) (hd : Config.domain k = some n) (hn : n ≠ Config.packageNumber.toNat) :
    st.peersOf.contains n = true := by
  rw [List.contains_iff_mem]
  unfold State.peersOf
  rw [List.mem_filter, List.mem_eraseDups]
  refine ⟨List.mem_append_left _ (List.mem_filterMap.mpr ⟨k, List.mem_range.mpr hk, hd⟩), by simpa using hn⟩

theorem witness_LinkEvents :
    (let s := { linked upLink with env := { time := 300000 } }
     Running s ∧ (s.link 19).state = 2 ∧ (s.link 19).keywait = false ∧ (s.link 19).out = (1, .heartbeat 1 2) :: [] ∧
       (s.link 19).txctr.toNat < (s.link 19).thr.toNat ∧ (s.link 19).replay.length < 512 ∧ (s.link 19).lastSent + 100000 ≤ s.env.time ∧
       (s.link 19).lastVerified + 300000 ≤ s.env.time ∧ (vget s.logs (19 / 5)).armed = [] ∧ (s.link 19).held = [] ∧
       (∀ f ∈ [flit 3 (.marker false), flit 2 (.marker false), flit 1 (.marker true), flit 0 (.data 4 0 (.heartbeat 4 1))],
         vget (s.link 19).rx f.slot.toNat = 2 ∧ f.authentic = true ∧ f.nakv = false ∧ f.ack = (s.link 19).txold ∧ f.seq = (s.link 19).rxnext) ∧
       s.lostPackage 4 = false ∧ ((linked { upLink with out := [] }).link 19).out = []) ∧
    ((st.link 19).state ≠ 2 ∧ st.boot.minimal = false ∧ 5 ≤ st.boot.steps) ∧
    ((∀ k n, k < 64 → Config.domain k = some n → n ≠ Config.packageNumber.toNat → st.peersOf.contains n = true) ∧
      ∀ n, st.links.lastBeat.find? (fun t => t.1 == n) = none) ∧
    (let s : State := { linked upLink with links := { (linked upLink).links with peers := [(4, 0, false)] }, env := { time := 300000 } }
     s.links.peers.find? (fun p => p.1 == 4) = some (4, 0, false) ∧ 0 + 300000 ≤ s.env.time ∧ (s.link 19).peer = some 4 ∧ (s.link 19).state ≠ 0) ∧
    (let s : State := { st with links := { st.links with dieDown := [(3, some 0)] }, env := { time := 300000 } }
     3 < 4 ∧ s.links.lostDies.getLsbD 3 = false ∧ s.dieGone 3 = true) ∧
    abroad.elsewhere (mkName 1 0 99 1) = some 3 ∧
    (let r : RemoteReq := { id := 6, aid := 1, core := 0, actor := own, place := 1, sentAt := 0, store := false, tags := {}, va := 0 }
     let s : State := { st with links := { st.links with remote := [r] }, env := { time := 50000 } }
     s.links.remote.find? (fun r => r.id == 6) = some r ∧ r.answer = none ∧ s.unsent r = false ∧ r.sentAt + s.links.rto.toNat * 1000 ≤ s.env.time ∧ r.entry ≠ earlyEntry) := by
  refine ⟨?_, ?_, ⟨fun k n => peers_of_domain, fun _ => rfl⟩, ?_, ?_, ?_, ?_⟩ <;> (try simp only [Running]) <;> decide +kernel

/-! ## Ill-formed terms, refused (07 R176; 01 R14) -/

theorem test_ill_formed_scopes :
    ∀ i ∈ [Instr.amoSwap 0 11 0 3 2 1, .amoAdd 0 11 0 3 2 1, .amoAnd 0 11 0 3 2 1, .amoOr 0 11 0 3 2 1, .amoXor 0 11 0 3 2 1, .amoMax 0 11 0 3 2 1,
      .amoMin 0 11 0 3 2 1, .amoCas 0 15 0 3 2 1, .fenceRel 1 0 11, .fenceAcq 1 0 11, .fenceFull 1 0 11, .ldaq 0 11 3 2 1, .strl 0 11 3 2 1,
      .send 11 5, .reply 11 5, .cSend 5 11, .sendn 11 3 2 1, .give 11 0 5 1, .sendd 11 2 1, .depdec 11 2 1, .cinc 0 11 3 2 1, .waitc 0 11 3 2 1,
      .waitct 0 11 3 2 1, .route 11 3 2], WellFormed i = false := by decide

theorem test_ill_formed_selectors :
    ∀ i ∈ [Instr.rstat 17 1, .mfs 3 1, .mts 0x824 1, .push 4 2 1 0, .pushr 5 2 1, .eloop 5 0, .eloop 5 16, .eloopq 0 16, .erm 0 5, .erm 1 7,
      .mstore 10 2 1, .fadd 5 3 2 1, .fsub 6 3 2 1, .fmul 5 3 2 1, .fdiv 6 3 2 1, .ffma 5 3 2 1, .fsqrt 6 2 1, .fcvti 0 0 5 2 1, .fcvtf 0 0 6 2 1,
      .sinv 1 1 0, .sinv 1 0 1, .cMv 0 1, .cAddi 0 1, .cLi 0 1, .cShli 0 1, .cAndi 0 1], WellFormed i = false := by decide

theorem test_ill_formed_types :
    ∀ i ∈ [Instr.vadd 0 5 3 2 1, .vsub 0 5 3 2 1, .vmul 0 5 3 2 1, .vfma 0 5 3 2 1, .vfms 0 5 3 2 1, .vmin 0 5 3 2 1, .vmax 0 5 3 2 1,
      .vscalb 0 5 3 2 1, .vmaxm 0 5 3 2 1, .vabs 0 5 2 1, .vneg 0 5 2 1, .vclass 0 5 2 1, .vcmpeq 0 5 3 2 1, .vcmplt 0 5 3 2 1, .vcmple 0 5 3 2 1,
      .vcvt 0 0 7 2 1, .vcvt 0 15 7 2 1, .vcvt 0 1 5 2 1, .vcvt 0 1 7 31 1, .vcvtWide 0 3 7 2 29, .vcvts 0 11 3 25 1, .vmxq 1 3 2 1, .vmxq 3 1 2 1,
      .vmxd 5 3 2 1, .vmxd 3 3 2 29, .vpack 0 5 2 1, .vunpk 0 14 2 25, .vexp2 0 3 2 1, .vlog2 0 3 2 1, .vrcp 0 3 2 1, .vrsq 0 3 2 1, .vtanh 0 3 2 1,
      .vrsum 0 3 2 1, .vrmax 0 4 2 1, .vrmin 0 11 2 1], WellFormed i = false := by decide

theorem test_ill_formed_integer_types :
    ∀ i ∈ [Instr.viadd 0 4 3 2 1, .visub 0 4 3 2 1, .vimul 0 11 3 2 1, .vimulh 0 4 3 2 1, .vand 0 4 3 2 1, .vor 0 4 3 2 1, .vxor 0 4 3 2 1,
      .vshl 0 4 3 2 1, .vshr 0 4 3 2 1, .vsra 0 11 3 2 1, .vimin 0 4 3 2 1, .vimax 0 4 3 2 1, .viminn 0 4 3 2 1, .vimaxn 0 4 3 2 1, .viadds 0 4 3 2 1,
      .visubs 0 14 3 2 1, .vperm 0 4 3 2 1, .vshuf 0 11 3 2 1, .vicmpeq 0 4 3 2 1, .vicmplt 0 11 3 2 1, .vpopc 0 4 2 1, .vclz 0 15 2 1],
    WellFormed i = false := by decide

theorem test_ill_formed_events :
    ∀ i ∈ [Instr.mailboxRefill 5, .dispatch 384, .dirtyLogMerge 2048, .mmacGateMet 7, .flipRequest 6, .engineEntryPerform 0 7,
      .engineSectorComplete 5 0 0, .mmasRendezvous 4 0 0, .mmasRendezvous 0 12 0, .mmasRendezvous 0 0 256, .sfuRequestService 48,
      .replicaCopyComplete 0 0 4, .expertFetchStart 0 65536 0, .evictionComplete 0 2, .expertFetchComplete 65536 0 .complete, .partitionStopComplete 48,
      .patrolScrubRead 0 3, .bridgeHeartbeatLoss 4, .packageHeartbeatLoss 4096, .heartbeatSend 4096, .flitTransmit 20, .idleFlitTimer 20,
      .linkVerifyTimeout 20, .dataFlit 20 (flit 0 .zero), .marker 20 (flit 1 .zero), .controlFlit 20 (flit 2 .zero), .idleFlit 20 (flit 3 .zero),
      .linkThrWrite 20 1, .linkTrainingComplete 20 1 0 0, .errorLogHeadWrite 4 0, .rxqBaseWrite 48 0, .rxqSizeWrite 48 0, .rxqHeadWrite 48 0,
      .cxlMemAccess 2 0 none, .configurationRequest 2 0, .unsupportedRequest 2, .functionLevelReset 2, .bootRetry 2 1, .pwrLimitWrite 2 1,
      .writePerformed 0 4], WellFormed i = false := by decide

/-! ## Words and the instructions they stand for -/

def word32 (n : Nat) : List Byte := leBytes 4 n
def word16 (n : Nat) : List Byte := leBytes 2 n
/-- The decoder reads each word of a list as the instruction beside it, and leaves nothing. -/
def Decodes (l : List (List Byte × Instr)) : Prop := ∀ t ∈ l, (decode t.1).toOption = some (t.2, [])

/-- The words of the handlers of 07, 08 and 14, and of the examples of 16 and 17. -/
theorem test_decode_scalar : Decodes
    [(word32 0x018005B7, .mfs 0x018 11), (word32 0x02BAB587, .shri 43 11 11), (word32 0x07000607, .addi 0x70 0 12), (word32 0x00D6C603, .or 0 11 12 12),
      (word32 0x02C0003B, .commit), (word32 0x04000A87, .addi 64 0 21), (word32 0x002A702F, .rdef 21 7 0), (word32 0x00067497, .std 0 7 9),
      (word32 0x00867517, .std 8 7 10), (word32 0x39308B2F, .strl 0 7 24 8 22), (word32 0x0300003B, .done), (word32 0x00076913, .ldd 0 22 18),
      (word32 0x01532037, .mts 0x015 18), (word32 0x01401C2F, .rstat 1 24), (word32 0x000C182B, .qfence 0x30), (word32 0x3FFFE2AB, .fenceRel 0xFFFF 1 5)] := by
  unfold Decodes; decide +kernel

theorem test_decode_compressed : Decodes
    [(word16 0x8BAD, .cShli 11 43), (word16 0x8CC1, .cShli 12 48), (word16 0x4002, .cCommit), (word16 0x5600, .cLdd 5 4 0), (word16 0xCD38, .cAdd 13 7),
      (word16 0x7600, .cStd 5 4 0), (word16 0x2002, .cDone), (word16 0x25F4, .cAddi 5 61), (word16 0xE002, .cNop)] := by
  unfold Decodes; decide +kernel

/-- The words of the tables of 12, 14, 15 and 16. -/
theorem test_decode_actor : Decodes
    [(word32 0x0000C4BB, .spawn 0 12 9), (word32 0x0200B03B, .supv 11), (word32 0x048000BB, .rnew 1), (word32 0x2000503F, .send 4 5),
      (word32 0x20C0513F, .give 4 0 5 2), (word32 0x219AC03F, .depdec 4 13 12), (word32 0x2922003F, .sendd 5 17 0), (word32 0x2800B54B, .route 5 11 10),
      (word32 0x00000047, .cset 0 0 0), (word32 0x10E50047, .waitc 0 2 18 16 0), (word32 0x10413147, .cinc 0 2 0 19 2), (word32 0x08DCD047, .waitc 0 1 14 13 0)] := by
  unfold Decodes; decide +kernel

theorem test_decode_copy : Decodes
    [(word32 0x0180F043, .arm 15 0), (word32 0x000180C3, .tload 0 0 24 1), (word32 0x00818043, .push 0 0 24 0), (word32 0x104150C3, .tstore 2 0 21 1),
      (word32 0x01016143, .gather 0 22 2), (word32 0x01417043, .scatter 0 23 0)] := by
  unfold Decodes; decide +kernel

theorem test_decode_matrix : Decodes
    [(word32 0x080060E3, .mldw 1 6 1), (word32 0x08425163, .mma 1 1 5 2), (word32 0x00C00163, .mzero 2), (word32 0x09009163, .mstore 1 9 2),
      (word32 0x02440563, .mstat 0 2 10), (word32 0x0180E063, .mtopk 0 14 0), (word32 0x01C0E063, .mtkr 14 0), (word32 0x0A010063, .mscl 1 16 0),
      (word32 0x02800063, .mchk 0), (word32 0x02C00063, .mcorr 0), (word32 0x03020063, .macc 1 0), (word32 0x0340E0E3, .mlda 0 14 1)] := by
  unfold Decodes; decide +kernel

theorem test_decode_system : Decodes
    [(word32 0x0200B56B, .preemptStop 11 10), (word32 0x0A00B56B, .preemptResume 11 10), (word32 0x0180B56B, .keyreq 11 10), (word32 0x0098B06B, .sinv 0 12 11),
      (word32 0x0280B06B, .dlogh 11), (word32 0x00DBF06B, .frply 13 31), (word32 0x00C1F06B, .frply 0 31), (word32 0x0040006B, .udf 0 0)] := by
  unfold Decodes; decide +kernel

/-- Words put together from the shapes of 07 R171 and the group tables of 08 and 09. -/
theorem test_decode_branch_and_float : Decodes
    [(word32 (0x1B + 128 * (8 + 32 * (9 + 32 * (1 + 8 * 0xFFE)))), .bne 0xFFE 9 8), (word32 (0x1F + 128 * (1 + 32 * 0x80000)), .jal 0x80000 1),
      (word32 (0x23 + 128 * (1 + 32 * (5 + 32 * (0 + 8 * 0xFFC)))), .jalr 0xFFC 5 1), (word32 (0x0B + 128 * (7 + 32 * 0x12345)), .lih 0x12345 7),
      (word32 (0x0F + 128 * (7 + 32 * 0xFFFFF)), .addpc 0xFFFFF 7), (word32 (0x67 + 128 * (1 + 32 * (2 + 32 * (3 + 32 * (11 + 32 * 7))))), .ffma 7 3 2 1),
      (word32 (0x33 + 128 * (3 + 32 * (12 + 32 * (0 + 32 * 0)))), .qput 12 3)] := by
  unfold Decodes; decide +kernel

theorem test_decode_vector : Decodes
    [(word32 (0x4F + 128 * (1 + 32 * (2 + 32 * (3 + 32 * (4 + 32 * 16))))), .vfms 1 0 3 2 1), (word32 (0x4F + 128 * (7 + 32 * (2 + 32 * (3 + 32 * (10 + 32 * 2))))), .vcmplt 0 2 3 2 7),
      (word32 (0x4F + 128 * (1 + 32 * (2 + 32 * (31 + 32 * (16 + 32 * 0))))), .vbcast 0 31 2 1), (word32 (0x53 + 128 * (1 + 32 * (2 + 32 * (3 + 32 * (19 + 32 * 10))))), .visubs 0 10 3 2 1),
      (word32 (0x57 + 128 * (1 + 32 * (2 + 32 * (7 + 32 * (0 + 32 * 3))))), .vcvt 0 3 7 2 1), (word32 (0x57 + 128 * (4 + 32 * (2 + 32 * (16 + 32 * (0 + 32 * 11))))), .vcvtWide 0 11 0 2 4),
      (word32 (0x57 + 128 * (1 + 32 * (4 + 32 * (2 + 32 * (2 + 32 * 12))))), .vmxq 12 2 4 1), (word32 (0x5B + 128 * (5 + 32 * (2 + 32 * (15 + 32 * (11 + 32 * 0))))), .vtoq 15 2 1),
      (word32 (0x5B + 128 * (0 + 32 * (3 + 32 * (1 + 32 * (17 + 32 * 0))))), .ptobq 1 3), (word32 (0x5F + 128 * (15 + 32 * (0 + 32 * (0 + 8 * 2047)))), .eloop 2047 15),
      (word32 (0x5F + 128 * (4 + 32 * (0 + 32 * (2 + 8 * 31)))), .eflags 31 0), (word32 (0x5F + 128 * (0 + 32 * (0 + 32 * (3 + 8 * 12)))), .erm 1 4)] := by
  unfold Decodes; decide +kernel

/-! ## Results that the spec works out -/

/-- What an instruction leaves in an x register, from a state. -/
def xAfter (i : Instr) (s : State) (d : BitVec 5) : Option Word := (nextOf (exec i s)).map fun t => t.act.getX d
/-- An element of an e register, and the flags, after an E-stream instruction. -/
def eAfter (i : Instr) (s : State) (d w j : Nat) : Option Nat := (nextOf (exec i s)).map fun t => elemAt (vget t.act.e d) w j
def flagsAfter (i : Instr) (s : State) : Option (BitVec 5) := (nextOf (exec i s)).map fun t => t.act.fflags
/-- `st` with 32-bit lanes in e2. -/
def lanes (l : List Nat) : State :=
  st.modAct fun a => { a with e := vset a.e 2 (BitVec.ofNat 1024 (leNat (l.flatMap (leBytes 4)))), p := vset a.p 0 (BitVec.allOnes 128) }

/-- 08 R198's example of BEXT and BINS. -/
theorem test_bext : xAfter (.bext 0 2 1 3) (withX [(1, 0xABCD), (2, 0x0000000800000004)] st) 3 = some 0xBC := by decide +kernel
/-- 08 R223's examples of FCVTI. -/
theorem test_fcvti :
    xAfter (.fcvti 0 0 0 1 3) (withX [(1, 0xC0200000)] st) 3 = some 0xFFFFFFFFFFFFFFFE ∧
    xAfter (.fcvti 0 1 1 1 3) (withX [(1, 0xBF400000)] st) 3 = some 0 ∧ flagsAfter (.fcvti 0 1 1 1 3) (withX [(1, 0xBF400000)] st) = some 1 ∧
    xAfter (.fcvti 0 1 1 1 3) (withX [(1, 0xBF800000)] st) 3 = some 0 ∧ flagsAfter (.fcvti 0 1 1 1 3) (withX [(1, 0xBF800000)] st) = some 16 := by
  decide +kernel
/-- 06's examples of shifts by the width or more. -/
theorem test_shl_past_width : xAfter (.shl 0 2 1 3) (withX [(2, 70)] st) 3 = some 0 := by decide +kernel
theorem test_sra_past_width : xAfter (.sra 0 2 1 3) (withX [(1, 0xFFFFFFFFFFFFFFFB), (2, 64)] st) 3 = some 0xFFFFFFFFFFFFFFFF := by decide +kernel
/-- 09's table of a block quantised to E4M3. -/
theorem test_vmxq : let s := lanes [0x40C00000, 0x3FC00000, 0xBF400000, 0x3DCCCCCD]
    eAfter (.vmxq 3 5 2 1) s 5 8 0 = some 0x79 ∧ eAfter (.vmxq 3 5 2 1) s 1 8 0 = some 0x7C ∧ eAfter (.vmxq 3 5 2 1) s 1 8 1 = some 0x6C ∧
    eAfter (.vmxq 3 5 2 1) s 1 8 2 = some 0xE4 ∧ eAfter (.vmxq 3 5 2 1) s 1 8 3 = some 0x4D ∧ flagsAfter (.vmxq 3 5 2 1) s = some 1 := by decide +kernel
theorem test_vmxq_saturates :
    eAfter (.vmxq 3 5 2 1) (lanes [0x40F00000]) 1 8 0 = some 0x7E ∧ flagsAfter (.vmxq 3 5 2 1) (lanes [0x40F00000]) = some 5 ∧
    eAfter (.vmxq 3 5 2 1) (lanes [0x40E66666]) 1 8 0 = some 0x7E ∧ flagsAfter (.vmxq 3 5 2 1) (lanes [0x40E66666]) = some 1 := by decide +kernel
/-- 06 R153's table of narrowings to E4M3. -/
theorem test_vcvt_e4m3 :
    eAfter (.vcvt 0 3 0 2 1) (lanes [0x43960000, 0x43FA0000]) 1 8 0 = some 0x79 ∧ eAfter (.vcvt 0 3 0 2 1) (lanes [0x43960000, 0x43FA0000]) 1 8 1 = some 0x7E ∧
    eAfter (.vcvt 0 3 2 2 1) (lanes [0x43960000]) 1 8 0 = some 0x7A := by decide +kernel
/-- 06's examples of I8×4 shifts. -/
theorem test_vector_shifts :
    eAfter (.vshl 0 7 3 2 1) ((lanes [0x8181]).modAct fun a => { a with e := vset a.e 3 0x8109 }) 1 8 0 = some 0 ∧
    eAfter (.vsra 0 7 3 2 1) ((lanes [0x8181]).modAct fun a => { a with e := vset a.e 3 0x8109 }) 1 8 0 = some 0xFF ∧
    eAfter (.vsra 0 7 3 2 1) ((lanes [0x8181]).modAct fun a => { a with e := vset a.e 3 0x8109 }) 1 8 1 = some 0xFF := by decide +kernel

/-- FIPS 180-4's example of one block. -/
theorem test_sha256_abc : leNat (sha256 [0x61, 0x62, 0x63]).reverse =
    0xba7816bf8f01cfea414140de5dae2223b00361a396177a9cb410ff61f20015ad := by decide +kernel

/-! ## The ciphers: FIPS 197 C.3; IEEE 1619-2007 vector 10, its first and second block; and cases 13 and 14 of the GCM
specification's AES-256 vectors -/

/-- The bytes of a number, the most significant first. -/
def bigBytes (len n : Nat) : List Nat := ((List.range len).map fun i => n >>> (8 * i) % 256).reverse

theorem test_aes_block :
    encryptBlock (roundKeys (List.range 32)) ((List.range 16).map (· * 17)) = bigBytes 16 0x8EA2B7CA516745BFEAFC49904B496089 ∧
    decryptBlock (roundKeys (List.range 32)) (bigBytes 16 0x8EA2B7CA516745BFEAFC49904B496089) = (List.range 16).map (· * 17) := by
  decide +kernel

def xtsKey : List Nat :=
  bigBytes 32 0x2718281828459045235360287471352662497757247093699959574966967627 ++
  bigBytes 32 0x3141592653589793238462643383279502884197169399375105820974944592

theorem test_xts_blocks :
    xtsEncrypt xtsKey 0xFF 0 (List.range 16) = bigBytes 16 0x1C3B3A102F770386E4836C99E370CF9B ∧
    xtsEncrypt xtsKey 0xFF 1 ((List.range 16).map (· + 16)) = bigBytes 16 0xEA00803F5E482357A4AE12D414A3E63B := by decide +kernel

theorem test_gcm_seal :
    gcmSeal (List.replicate 32 0) (List.replicate 12 0) [] [] = bigBytes 16 0x530F8AFBC74536B9A963B4F1C4CB738B ∧
    gcmSeal (List.replicate 32 0) (List.replicate 12 0) [] (List.replicate 16 0) =
      bigBytes 32 0xCEA7403D4D606B6E074EC5D3BAF39D18D0D1C8A799996BF0265B98B5D48AB919 := by decide +kernel

end Sys2Proof.Tests
end

section
/-! SUPPORT. What taking a kill leaves alone (02 R49; 03 R73, R75), and what the checks of a send answer when they refuse it
(02 R36). -/

namespace Sys2Proof.Machine

open Sys2Proof.Safety

/-! ## Taking a kill -/

@[simp] theorem State.takeDown_mem (s : State) (n : Word) (r : Nat) : (s.takeDown n r).mem = s.mem := rfl
@[simp] theorem State.takeDown_flights (s : State) (n : Word) (r : Nat) : (s.takeDown n r).wire.flights = s.wire.flights := rfl
@[simp] theorem State.takeDown_slots (s : State) (n : Word) (r : Nat) : (s.takeDown n r).dir.slots = s.dir.slots := rfl
@[simp] theorem State.takeDown_acts (s : State) (n : Word) (r : Nat) :
    (s.takeDown n r).acts = s.acts.filter fun a => !(a.name == n) := rfl

/-- A partition changed is the partitions changed, and nothing else. -/
theorem State.modPart_parts (s : State) (p : Nat) (f : Part → Part) : ∃ ps, s.modPart p f = { s with parts := ps } := by
  unfold State.modPart
  split <;> exact ⟨_, rfl⟩

/-- A kill does nothing to a name that cannot exit; else it counts in a partition, at most, and takes the name down. -/
theorem State.killActor_cases (s : State) (n : Word) (r : Nat) :
    (s.killable n = false ∧ s.killActor n r = s) ∨
    (s.killable n = true ∧ ∃ ps, s.killActor n r = ({ s with parts := ps } : State).takeDown n r) := by
  cases hk : s.killable n with
  | false => exact .inl ⟨rfl, by simp [State.killActor, hk]⟩
  | true =>
    refine .inr ⟨rfl, ?_⟩
    simp only [State.killActor, hk, Bool.not_true, Bool.false_eq_true, if_false]
    split
    case h_1 p _ =>
      obtain ⟨ps, h⟩ := s.modPart_parts p fun t => { t with kills := put 0 r (look 0 t.kills r + 1) t.kills }
      exact ⟨ps, by rw [h]⟩
    case h_2 => exact ⟨s.parts, rfl⟩

@[simp] theorem State.killActor_mem (s : State) (n : Word) (r : Nat) : (s.killActor n r).mem = s.mem := by
  obtain ⟨-, h⟩ | ⟨-, ps, h⟩ := s.killActor_cases n r <;> simp [h]
@[simp] theorem State.killActor_flights (s : State) (n : Word) (r : Nat) :
    (s.killActor n r).wire.flights = s.wire.flights := by
  obtain ⟨-, h⟩ | ⟨-, ps, h⟩ := s.killActor_cases n r <;> simp [h]
@[simp] theorem State.killActor_slots (s : State) (n : Word) (r : Nat) : (s.killActor n r).dir.slots = s.dir.slots := by
  obtain ⟨-, h⟩ | ⟨-, ps, h⟩ := s.killActor_cases n r <;> simp [h]

/-- No activation of a name that could exit is left among the others. -/
theorem State.name_ne_of_mem_killActor_acts {s : State} {n : Word} {r : Nat} {x : Act} (hk : s.killable n = true)
    (hx : x ∈ (s.killActor n r).acts) : x.name ≠ n := by
  obtain ⟨hf, -⟩ | ⟨-, ps, h⟩ := s.killActor_cases n r
  · simp [hk] at hf
  · rw [h, State.takeDown_acts] at hx
    simpa using (List.mem_filter.mp hx).2

/-- A kill that brings no note logs nothing, unless it is for consumed poison (18 R417). -/
theorem State.raise_unlogged (s : State) {r : Nat} (h : r ≠ 10) : s.raise r none = s.killActor s.act.name r := by
  simp [State.raise, State.noteKill, h]

/-! ## Masks, and the checks of R36 -/

theorem maskX_ok {s : State} {sc : BitVec 4} {a : BitVec 5} (hs : sc.toNat ≤ 10) (hm : MaskOk s a) :
    s.maskX sc a = .ok (maskIn s a) := by
  obtain ⟨hc, hv⟩ := hm
  simp only [State.maskX, need_of (decide_eq_true hs), ctlX_clean hc, bind_ok, maskOf_small hv, maskIn]

/-- The ways in which R36 refuses words 2 and 3 of a send: a hardware kind, a flag that only the hardware sets (REDELIVERED,
FROM_HOST, HAS_DEP, HAS_GRANT), or an upper half of word 3. -/
def RefusedWords (w2 w3 : Word) : Prop :=
  0xFF00 ≤ (w2.extractLsb' 0 16).toNat ∨ w2.getLsbD 24 ∨ w2.getLsbD 20 ∨ w2.getLsbD 19 ∨ w2.getLsbD 18 ∨
    w3.extractLsb' 32 32 ≠ 0

/-- A set bit shows under every mask that has it. -/
theorem and_ne_zero_of_getLsbD {n : Nat} {w m : BitVec n} {i : Nat} (hw : w.getLsbD i = true) (hm : m.getLsbD i = true) :
    w &&& m ≠ 0 := by
  intro h
  have hi : (w &&& m).getLsbD i = (0 : BitVec n).getLsbD i := by rw [h]
  simp [hw, hm] at hi

theorem checkR36_kind {w2 w3 : Word} (h : 0xFF00 ≤ (w2.extractLsb' 0 16).toNat) : checkR36 w2 w3 = kill 3 := by
  have hk : ¬ w2.toNat % 65536 < 0xFF00 := by simpa [BitVec.extractLsb'_toNat] using h
  simp only [checkR36, hk, decide_false, need_false, kill, bind_error]

theorem checkR36_flag {w2 w3 : Word} (h : w2 &&& 0x0000000001000000 ≠ 0 ∨ w2 &&& 0x00000000001C0000 ≠ 0) :
    checkR36 w2 w3 = kill 3 := by
  have hf : (w2 &&& 0x0000000001000000 == 0 && w2 &&& 0x00000000001C0000 == 0) = false := by
    simpa [or_iff_not_imp_left] using h
  unfold checkR36
  rw [hf]
  cases decide (w2.toNat % 65536 < 0xFF00) <;> rfl

theorem checkR36_upper {w2 w3 : Word} (h : w3.extractLsb' 32 32 ≠ 0) : checkR36 w2 w3 = kill 3 := by
  have hw : ¬ w3.toNat < 2 ^ 32 := fun hlt => h <| BitVec.eq_of_toNat_eq <| by
    rw [BitVec.extractLsb'_toNat, Nat.shiftRight_eq_div_pow, Nat.div_eq_of_lt hlt]
    rfl
  unfold checkR36
  rw [decide_eq_false hw]
  cases decide (w2.toNat % 65536 < 0xFF00) <;>
    cases (w2 &&& 0x0000000001000000 == 0 && w2 &&& 0x00000000001C0000 == 0) <;> rfl

theorem checkR36_refused {w2 w3 : Word} (h : RefusedWords w2 w3) : checkR36 w2 w3 = kill 3 := by
  rcases h with h | h | h | h | h | h
  · exact checkR36_kind h
  · exact checkR36_flag (.inl (and_ne_zero_of_getLsbD h rfl))
  · exact checkR36_flag (.inr (and_ne_zero_of_getLsbD h rfl))
  · exact checkR36_flag (.inr (and_ne_zero_of_getLsbD h rfl))
  · exact checkR36_flag (.inr (and_ne_zero_of_getLsbD h rfl))
  · exact checkR36_upper h

end Sys2Proof.Machine
end

section
/-! The sends that R36 refuses (02 R36; 12 R327 to R330, R334). -/

namespace Sys2Proof.Machine

open Sys2Proof.Safety

/-- A message is built from o0, o2 and o3, or for a reply from o2 and o3, and R36 is what stops it. -/
theorem message_refused {s : State} (h0 : CleanO s 0) (h2 : CleanO s 2) (h3 : CleanO s 3) (hn : nameKind (s.act.getO 0) ≠ 3)
    (hw : RefusedWords (s.act.getO 2) (s.act.getO 3)) : s.act.message = kill 3 := by
  simp only [Act.message, ctlO_clean h0, ctlO_clean h2, ctlO_clean h3, bind_ok, need_of (bne_iff_ne.mpr hn), checkR36_refused hw,
    kill, bind_error]

theorem replyMessage_refused {s : State} (h2 : CleanO s 2) (h3 : CleanO s 3)
    (hw : RefusedWords (s.act.getO 2) (s.act.getO 3)) : s.act.replyMessage = kill 3 := by
  simp only [Act.replyMessage, ctlO_clean h2, ctlO_clean h3, bind_ok, checkR36_refused hw, kill, bind_error]

section
variable {s : State} {sc : BitVec 4} {a : BitVec 5} (hl : s.act.live = true) (hs : sc.toNat ≤ 10) (hm : MaskOk s a)
include hl hs hm

/-- SEND, in both its lengths. -/
theorem run_sendOp_refused (hr : s.act.message = kill 3) (len : Nat) : run s (sendOp sc a len s) = .next (s.raise 3 none) := by
  simp only [sendOp, maskX_ok hs hm, hr, kill, bind_ok, bind_error, run_kill hl]

theorem execReply_refused (hr : s.act.replyMessage = kill 3) : execReply sc a s = .next (s.raise 3 none) := by
  simp only [execReply, maskX_ok hs hm, hr, kill, bind_ok, bind_error, run_kill hl]

theorem execSendn_refused (hr : s.act.message = kill 3) {b : BitVec 5} (hb : Clean s b) (hg : (s.act.getX b).toNat < 2 ^ 48)
    (d : BitVec 5) : execSendn sc b a d s = .next (s.raise 3 none) := by
  simp only [execSendn, maskX_ok hs hm, ctlX_clean hb, need_of (decide_eq_true hg), hr, kill, bind_ok, bind_error, run_kill hl]

theorem execGive_refused (hr : s.act.message = kill 3) {n : BitVec 3} (ho : (s.myRegion n.toNat).state = .owned)
    (m : BitVec 3) : execGive sc m a n s = .next (s.raise 3 none) := by
  simp only [execGive, maskX_ok hs hm, need_of (beq_iff_eq.mpr ho), hr, kill, bind_ok, bind_error, run_kill hl]

theorem execSendd_refused (hr : s.act.message = kill 3) {b : BitVec 5} (hb : Clean s b) :
    execSendd sc b a s = .next (s.raise 3 none) := by
  simp only [execSendd, maskX_ok hs hm, ctlX_clean hb, hr, kill, bind_ok, bind_error, run_kill hl]

end

/-- Settles O25: the message's check kills in each form before anything is issued, and a kill leaves memory, the messages on
their way and the dependence slots alone. -/
theorem refusedSends : Obligations.RefusedSends := by
  intro s sc a b m n hl hs hm h0 h2 h3 hn w2 refused hw
  have hmsg : s.act.message = kill 3 := message_refused h0 h2 h3 hn hw
  have hreply : s.act.replyMessage = kill 3 := replyMessage_refused h2 h3 hw
  have hraise : s.raise 3 none = s.killActor s.act.name 3 := s.raise_unlogged (by decide)
  refine ⟨run_sendOp_refused hl hs hm hmsg 4, run_sendOp_refused hl hs hm hmsg 2, execReply_refused hl hs hm hreply,
    fun hb hg d => execSendn_refused hl hs hm hmsg hb hg d, fun ho => execGive_refused hl hs hm hmsg ho m,
    fun hb => execSendd_refused hl hs hm hmsg hb, ?_⟩
  rw [hraise]
  exact ⟨s.killActor_flights _ _, s.killActor_slots _ _, s.killActor_mem _ _,
    fun x _ hx hk hmem => State.name_ne_of_mem_killActor_acts hk hmem hx⟩

end Sys2Proof.Machine
end

section
/-! The order of deadlines (02 R38). -/

namespace Sys2Proof.Machine

/-- The units of the later of two times less those of the earlier are the gap between them, as far as 32 bits go. -/
theorem toNat_unitsOf_sub {t1 t2 : Nat} (h : t1 / 256 < t2 / 256) (hd : t2 / 256 - t1 / 256 < 2 ^ 32) :
    (unitsOf t2 - unitsOf t1).toNat = t2 / 256 - t1 / 256 := by
  simp only [unitsOf, BitVec.toNat_sub, BitVec.toNat_ofNat]
  omega

/-- The other way round, the difference is what the gap lacks of 2^32. -/
theorem toNat_unitsOf_sub_later {t1 t2 : Nat} (h : t1 / 256 < t2 / 256) (hd : t2 / 256 - t1 / 256 < 2 ^ 32) :
    (unitsOf t1 - unitsOf t2).toNat = 2 ^ 32 - (t2 / 256 - t1 / 256) := by
  simp only [unitsOf, BitVec.toNat_sub, BitVec.toNat_ofNat]
  omega

/-- Of two times whose units differ by less than 2^32, which precedes which is told by the gap's side of 2^31. -/
theorem precedes_unitsOf {t1 t2 : Nat} (h : t1 / 256 < t2 / 256) (hd : t2 / 256 - t1 / 256 < 2 ^ 32) :
    precedes (unitsOf t1) (unitsOf t2) = decide (t2 / 256 - t1 / 256 ≤ 2 ^ 31) ∧
    precedes (unitsOf t2) (unitsOf t1) = decide (2 ^ 31 ≤ t2 / 256 - t1 / 256) := by
  simp only [precedes, BitVec.msb_eq_decide, toNat_unitsOf_sub h hd, toNat_unitsOf_sub_later h hd, decide_eq_decide,
    Nat.reduceSub, and_true]
  omega

/-- Settles O9: the sign of the difference is its top bit, which is told by the gap between the two times. -/
theorem deadlineOrder : Obligations.DeadlineOrder := by
  refine ⟨fun t => ?_, fun d1 d2 => BitVec.msb_eq_toInt, fun t1 t2 h => ⟨fun hd => ?_, fun hd hlt => ?_⟩⟩
  · rw [unitsOf, Nat.shiftRight_eq_div_pow]
  · obtain ⟨h12, h21⟩ := precedes_unitsOf h (hd.trans (by decide))
    rw [h12, h21]
    exact ⟨decide_eq_true hd.le, decide_eq_false hd.not_ge⟩
  · obtain ⟨h12, h21⟩ := precedes_unitsOf h hlt
    rw [h12, h21]
    exact ⟨decide_eq_false hd.not_ge, decide_eq_true hd.le⟩

end Sys2Proof.Machine
end

section
/-! Decoding and encoding are each other's inverses (07 R164, R171 to R177), and what a step does with the bytes it fetches. -/

namespace Sys2Proof

open Laws.Encodes (fld_all)

/-! ## Fields of a word, and the word they make -/

theorem toNat_fld {n : Nat} (w : BitVec n) (lo len : Nat) : (fld w lo len).toNat = w.toNat / 2 ^ lo % 2 ^ len := by
  rw [fld, BitVec.extractLsb'_toNat, Nat.shiftRight_eq_div_pow]

/-- A field of a word is its own upper part joined to its lower. -/
theorem fld_add {N : Nat} (w : BitVec N) (lo m n : Nat) : fld w lo (m + n) = fld w (lo + n) m ++ fld w lo n := by
  apply BitVec.eq_of_getLsbD_eq
  intro i hi
  simp only [fld, BitVec.getLsbD_extractLsb', BitVec.getLsbD_append, hi, decide_true, Bool.true_and]
  split
  next h => simp [h]
  next h =>
    have h1 : i - n < m := by omega
    have h2 : lo + n + (i - n) = lo + i := by omega
    simp [h1, h2]

theorem append_eq_append {m n : Nat} {x x' : BitVec m} {y y' : BitVec n} : x ++ y = x' ++ y' ↔ x = x' ∧ y = y' := by
  refine ⟨fun h => ⟨?_, ?_⟩, fun ⟨hx, hy⟩ => by rw [hx, hy]⟩
  · simpa only [BitVec.extractLsb'_append_eq_left] using congrArg (fun z => z.extractLsb' n m) h
  · simpa only [BitVec.setWidth_append_eq_right] using congrArg (fun z => z.setWidth n) h

/-- The two parts that a joined word has as its fields. -/
theorem fld_append {m n : Nat} (x : BitVec m) (y : BitVec n) : fld (x ++ y) n m = x ∧ fld (x ++ y) 0 n = y := by
  have h := fld_add (x ++ y) 0 m n
  rwa [fld_all, Nat.zero_add, eq_comm, append_eq_append] at h

theorem fld_of_fld {n : Nat} (w : BitVec n) {lo base len m : Nat} (h : lo + len ≤ m) :
    fld (fld w base m) lo len = fld w (base + lo) len := by
  apply BitVec.eq_of_getLsbD_eq
  intro i hi
  have : lo + i < m := by omega
  simp [fld, this, Nat.add_assoc, hi]

/-- A field is two parts joined when its own parts are they. -/
theorem fld_eq_cat {N k m n lo : Nat} {w : BitVec N} {x : BitVec m} {y : BitVec n} (hk : k = m + n) :
    fld w lo k = cat k x y ↔ fld w (lo + n) m = x ∧ fld w lo n = y := by
  subst hk
  rw [fld_add, cat, BitVec.setWidth_eq, append_eq_append]

theorem ite_eq_ok {p : Prop} [Decidable p] {e : Reject} {i j : Instr} :
    (if p then .ok i else .error e : Except Reject Instr) = .ok j ↔ p ∧ i = j := by
  split <;> simp [*]

/-! ## A parsed word is the encoding of what it is parsed to -/

theorem low_seven {w : BitVec 32} {j : Nat} (h0 : fld w 0 2 = 3#2) (hj : (fld w 2 5).toNat = j) :
    fld w 0 7 = BitVec.ofNat 7 (4 * j + 3) := by
  subst hj
  rw [← BitVec.toNat_inj] at *
  simp only [toNat_fld, BitVec.toNat_ofNat] at *
  omega

section
variable {w : BitVec 32} {i : Instr} (h0 : fld w 0 2 = 3#2) (h : parse32 w = .ok i)
include h0 h

/-! A form's major, minor and must-be-zero fields are the literals of its encoding, and its operands are the fields between
them; in two halves, by the major. -/

theorem encode32_of_parse32_low (hm : (fld w 2 5).toNat < 16) : encode32 i = some w := by
  unfold parse32 at h
  split at h <;> first | omega | simp only [parseMajor0, parseMajor1, parseMajor2, parseMajor3, parseMajor4, parseMajor5, parseMajor6, parseMajor7,
    parseMajor8, parseMajor9, parseMajor10, parseMajor11, parseMajor12, parseMajor13, parseMajor14, parseMajor15, reduceCtorEq] at h
  all_goals
    repeat' split at h
    all_goals
      cases h
      all_goals
        refine congrArg some ((fld_all w).symm.trans ?_).symm
        try simp only [fld_eq_cat, Nat.reduceAdd, and_true, true_and]
        simp only [low_seven h0 ‹_›, ← BitVec.toNat_inj, BitVec.toNat_ofNat, Nat.reduceMul, Nat.reducePow, Nat.reduceMod,
          and_true, true_and, *]
      all_goals
        simp only [← BitVec.toNat_inj, toNat_fld, BitVec.toNat_ofNat, Nat.reduceMod, Nat.reducePow, Nat.div_one, imp_false] at *
        omega

theorem encode32_of_parse32_high (hm : 16 ≤ (fld w 2 5).toNat) : encode32 i = some w := by
  unfold parse32 at h
  split at h <;> first | omega | simp only [parseMajor16, parseMajor17, parseMajor18, parseMajor19, parseMajor20, parseMajor21, parseMajor22, parseMajor23,
    parseMajor24, parseMajor25, parseMajor26, reduceCtorEq] at h
  all_goals
    repeat' split at h
    all_goals
      cases h
      all_goals
        refine congrArg some ((fld_all w).symm.trans ?_).symm
        try simp only [fld_eq_cat, Nat.reduceAdd, and_true, true_and]
        simp only [low_seven h0 ‹_›, ← BitVec.toNat_inj, BitVec.toNat_ofNat, Nat.reduceMul, Nat.reducePow, Nat.reduceMod,
          and_true, true_and, *]
      all_goals
        simp only [← BitVec.toNat_inj, toNat_fld, BitVec.toNat_ofNat, Nat.reduceMod, Nat.reducePow, Nat.div_one] at *
        omega

theorem encode32_of_parse32 : encode32 i = some w := by
  rcases Nat.lt_or_ge (fld w 2 5).toNat 16 with hm | hm
  · exact encode32_of_parse32_low h0 h hm
  · exact encode32_of_parse32_high h0 h hm

end

theorem encode16_of_parse16 {w : BitVec 16} {i : Instr} (h : parse16 w = .ok i) : encode16 i = some w := by
  unfold parse16 at h
  repeat' split at h
  all_goals
    cases h
    all_goals
      refine congrArg some ((fld_all w).symm.trans ?_).symm
      try simp only [fld_eq_cat, Nat.reduceAdd, and_true]
      simp only [← BitVec.toNat_inj, toNat_fld, BitVec.toNat_ofNat, Nat.reduceMod, Nat.reducePow, Nat.div_one] at *
      omega

/-- No instruction has both a word and a halfword. -/
theorem encode32_none_of_encode16 {i : Instr} {v : BitVec 16} (h : encode16 i = some v) : encode32 i = none := by
  cases i <;> first | rfl | cases h

/-! ## Every instruction's words are parsed back to it -/

namespace Laws.Encodes

theorem statement (i : Instr) : Statement i := by
  cases i <;> simp only [
    add, sub, and, or, xor, shl, shr, sra, mul, mulh, mulhn, div, divn, rem, remn, min, max, minn, maxn, slt, sltn, seq,
    clz, ctz, popc, andn, bext, bins, addi, andi, ori, xori, shli, shri, srai, slti, lih, addpc, ldb, ldh, ldw, ldd, ldbn,
    ldhn, ldwn, stb, sth, stw, std, beq, bne, blt, bge, bltn, bgen, bqt, bqf, jal, jalr, amoSwap, amoAdd, amoAnd, amoOr,
    amoXor, amoMax, amoMin, amoCas, fenceRel, fenceAcq, fenceFull, qfence, rdef, hdef, rclr, ldaq, strl, rstat, qput,
    qget, scfg, sbind, sunb, swait, mfs, mts, lox, mox, spawn, kill, exit, link, unlink, mon, demon, trapx, supv, timer,
    tcan, commit, done, cancel, lvl, namereg, whereIs, part, rnew, send, sendn, reply, give, sendd, depset, depdec, tload,
    tstore, push, pushr, gather, scatter, arm, disarm, cset, cinc, crd, waitc, waitct, caddl, route, erq, epin, eunpin,
    wset, eloadc, vadd, vsub, vmul, vfma, vfms, vmin, vmax, vabs, vneg, vcmpeq, vcmplt, vcmple, vsel, vscalb, vmaxm,
    vclass, vbcast, vmov, viadd, visub, vimul, vimulh, vand, vor, vxor, vshl, vshr, vsra, vimin, vimax, viminn, vimaxn,
    vicmpeq, vicmplt, vpopc, vclz, viadds, visubs, vcvt, vcvtWide, vcvts, vmxq, vmxd, vpack, vunpk, vexp2, vlog2, vrcp,
    vrsq, vtanh, vrsum, vrmax, vrmin, vperm, vshuf, vslide, vtoq, vfromq, vfromqWord, pand, por, pnot, pmov, ptobq, eloop,
    eloopq, eflags, erm, mldw, mma, mmac, mzero, mstore, mmas, mtopk, mtkr, mscl, mstat, mchk, mcorr, macc, mlda, fadd,
    fsub, fmul, fdiv, fsqrt, fmin, fmax, fcmplt, fcmpeq, fcvti, fcvtf, ffma, trap, udf, sinv, frply, inj, mflip, keyreq,
    attest, preemptStop, preemptResume, preemptClear, halt, dlogh, cMv, cAddi, cLdd, cStd, cLdw, cStw, cAdd, cSub, cJ,
    cBeqz, cBnez, cLi, cShli, cAndi, cQput, cQget, cSend, cDone, cCommit, cWaitc, cCinc, cVfma, cVmov, cNop,
    messageArrival, mailboxRefill, dispatch, watchdogExpiry, postActivationWaitExpiry, actorExit, exitSignalArrival,
    restartNotice, restartPlacement, mirrorDigestCompare, timeout, waitctLimitExpiry, waitcMet, engineEntryPerform,
    engineSectorComplete, mmacGateMet, mmasRendezvous, pushSectorArrival, pushrSectorLanding, globalCincArrival,
    launchCompletion, sfuRequestService, faultreply, dirtyLogMerge, expertMessageArrival, replicaCopyComplete,
    expertFetchStart, evictionComplete, expertFetchComplete, partitionStopComplete, installLinkKey, bindMemoryKey,
    retireMemoryKey, verifyWeightSetSignature, sealAttestationRecord, readIdentity, appendMeasurement, flipRequest,
    patrolScrubRead, bridgeHeartbeatLoss, packageHeartbeatLoss, heartbeatSend, remoteRequestTimeout, flitTransmit,
    idleFlitTimer, dataFlit, marker, controlFlit, idleFlit, linkVerifyTimeout, linkThrWrite, linkRtoWrite,
    errorLogHeadWrite, gatewaySlotWrite, rxqBaseWrite, rxqSizeWrite, rxqHeadWrite, hostMessageDelivery, cxlMemAccess,
    unsupportedRequest, configurationRequest, jobCtlWrite, pWdogWrite, registerWrite, bootRetry, pwrLimitWrite, powerOn,
    perst, functionLevelReset, bootPhaseComplete, rootReady, rootReadyTimeout, operatingPointChange, thermalTrip,
    thermalRecovery, fatalError, linkTrainingComplete, powerLoss, writePerformed, expertTableWrite, poolCreation,
    actorRestore, rootActorPlacement, attestationRecordRead]

end Laws.Encodes

/-! ## Bytes -/

/-- The bytes of a halfword, the lower address first (00 R5). -/
def bytes16 (h : BitVec 16) : List Byte := [fld h 0 8, fld h 8 8]

/-- The bytes of a word, the lowest address first (00 R5). -/
def bytes32 (w : BitVec 32) : List Byte := bytes16 (fld w 0 16) ++ bytes16 (fld w 16 16)

theorem bytes16_halfOf (b0 b1 : Byte) : bytes16 (halfOf b0 b1) = [b0, b1] := by
  obtain ⟨h1, h0⟩ := fld_append b1 b0
  simp only [bytes16, halfOf, h0, h1]

theorem bytes32_halves (h l : BitVec 16) : bytes32 (h ++ l) = bytes16 l ++ bytes16 h := by
  obtain ⟨h1, h0⟩ := fld_append h l
  simp only [bytes32, h0, h1]

theorem encode_word {i : Instr} {w : BitVec 32} (h : encode32 i = some w) : encode i = some (bytes32 w) := by
  simp only [encode, h, bytes32, bytes16, fld_of_fld (w := w) (by decide : (0 + 8 ≤ 16)), fld_of_fld (w := w) (by decide : (8 + 8 ≤ 16))]
  rfl

theorem encode_halfword {i : Instr} {h : BitVec 16} (h32 : encode32 i = none) (h16 : encode16 i = some h) :
    encode i = some (bytes16 h) := by
  simp only [encode, h32, h16]
  rfl

theorem decode_word {w : BitVec 32} {i : Instr} (h0 : fld w 0 2 = 3#2) (hp : parse32 w = .ok i) (hw : WellFormed i = true)
    (rest : List Byte) : decode (bytes32 w ++ rest) = .ok (i, rest) := by
  have hlo : halfOf (fld (fld w 0 16) 0 8) (fld (fld w 0 16) 8 8) = fld w 0 16 := (fld_add _ 0 8 8).symm.trans (fld_all _)
  have hhi : halfOf (fld (fld w 16 16) 0 8) (fld (fld w 16 16) 8 8) = fld w 16 16 := (fld_add _ 0 8 8).symm.trans (fld_all _)
  have hall : fld w 16 16 ++ fld w 0 16 = w := (fld_add w 0 16 16).symm.trans (fld_all w)
  have hlow : (fld w 0 16).extractLsb' 0 2 = 3#2 := (fld_of_fld w (by decide)).trans h0
  simp only [bytes32, bytes16, List.cons_append, List.nil_append, decode, hlo, hhi, hall, hlow, if_true, hp, checked, hw, Except.map]

theorem decode_halfword {h : BitVec 16} {i : Instr} (h0 : fld h 0 2 ≠ 3#2) (hp : parse16 h = .ok i) (hw : WellFormed i = true)
    (rest : List Byte) : decode (bytes16 h ++ rest) = .ok (i, rest) := by
  have hall : halfOf (fld h 0 8) (fld h 8 8) = h := (fld_add _ 0 8 8).symm.trans (fld_all _)
  have hlow : h.extractLsb' 0 2 ≠ 3#2 := h0
  simp only [bytes16, List.cons_append, List.nil_append, decode, hall, if_neg hlow, hp, checked, hw, if_true, Except.map]

theorem checked_eq_ok {r : Except Reject Instr} {rest tail : List Byte} {i : Instr}
    (h : (checked r).map (fun j => (j, tail)) = .ok (i, rest)) : r = .ok i ∧ WellFormed i = true ∧ tail = rest := by
  cases r with
  | error e => cases h
  | ok j =>
    simp only [checked] at h
    split at h
    next hw => cases h; exact ⟨rfl, hw, rfl⟩
    next => cases h

/-- What is decoded is a halfword or a word, by its low two bits, that is parsed to a well-formed instruction. -/
theorem decode_eq_ok {bs rest : List Byte} {i : Instr} (h : decode bs = .ok (i, rest)) :
    WellFormed i = true ∧
    ((∃ w, fld w 0 2 = 3#2 ∧ parse32 w = .ok i ∧ bs = bytes32 w ++ rest) ∨
     (∃ v, fld v 0 2 ≠ 3#2 ∧ parse16 v = .ok i ∧ bs = bytes16 v ++ rest)) := by
  match bs with
  | [] | [_] => cases h
  | b0 :: b1 :: tail =>
    simp only [decode] at h
    split at h
    next hlow =>
      match tail with
      | [] | [_] => cases h
      | b2 :: b3 :: tail =>
        obtain ⟨hp, hw, rfl⟩ := checked_eq_ok h
        obtain ⟨-, hl⟩ := fld_append (halfOf b2 b3) (halfOf b0 b1)
        refine ⟨hw, .inl ⟨halfOf b2 b3 ++ halfOf b0 b1, ?_, hp, ?_⟩⟩
        · exact (fld_of_fld (m := 16) (base := 0) _ (by decide)).symm.trans ((congrArg (fld · 0 2) hl).trans hlow)
        · rw [bytes32_halves, bytes16_halfOf, bytes16_halfOf]
          rfl
    next hlow =>
      obtain ⟨hp, hw, rfl⟩ := checked_eq_ok h
      exact ⟨hw, .inr ⟨halfOf b0 b1, hlow, hp, by rw [bytes16_halfOf]; rfl⟩⟩
theorem length_word {i : Instr} {w : BitVec 32} (h : encode32 i = some w) : length i = (bytes32 w).length := by
  simp only [length, h]
  rfl

theorem length_halfword {i : Instr} {h : BitVec 16} (h32 : encode32 i = none) (h16 : encode16 i = some h) :
    length i = (bytes16 h).length := by
  simp only [length, h32, h16]
  rfl

/-- Settles O5: the word or halfword that encodes an instruction is parsed back to it, and its bytes are taken in order. -/
theorem decodeOfEncode : Obligations.DecodeOfEncode := by
  intro i hw hlen
  cases h32 : encode32 i with
  | some w =>
    obtain ⟨h0, hp⟩ := (Laws.Encodes.statement i).1 w h32
    exact ⟨bytes32 w, encode_word h32, (length_word h32).symm, decode_word h0 hp hw⟩
  | none =>
    cases h16 : encode16 i with
    | none => exact absurd (by simp only [length, h32, h16]) hlen
    | some h =>
      obtain ⟨h0, hp⟩ := (Laws.Encodes.statement i).2 h h16
      exact ⟨bytes16 h, encode_halfword h32 h16, (length_halfword h32 h16).symm, decode_halfword h0 hp hw⟩

/-- Settles O6: a parsed word or halfword is the encoding of what it is parsed to, and it is what the bytes taken make. -/
theorem encodeOfDecode : Obligations.EncodeOfDecode := by
  intro bs rest i h
  obtain ⟨hw, ⟨w, h0, hp, rfl⟩ | ⟨v, h0, hp, rfl⟩⟩ := decode_eq_ok h
  · exact ⟨hw, bytes32 w, encode_word (encode32_of_parse32 h0 hp), rfl⟩
  · have h16 := encode16_of_parse16 hp
    exact ⟨hw, bytes16 v, encode_halfword (encode32_none_of_encode16 h16) h16, rfl⟩

end Sys2Proof
end

section
/-! What a computation's checks come to: a property of every result it yields, and what reading memory may change on the way
(18 R404, R415): stored lines, the error logs and what counts in them. -/

namespace Sys2Proof.Machine

open Sys2Proof.Safety

/-! ## What a computation yields -/

/-- Every value that a computation answers has the property. -/
def Yields {α : Type} (c : Chk α) (P : α → Prop) : Prop := ∀ a, c = .ok a → P a

theorem yields_ok {α : Type} {a : α} {P : α → Prop} : Yields (.ok a) P ↔ P a :=
  ⟨fun h => h a rfl, fun h _ e => by cases e; exact h⟩

theorem yields_error {α : Type} (e : Stop) (P : α → Prop) : Yields (.error e : Chk α) P := fun _ h => by cases h

theorem yields_kill {α : Type} (r : Nat) (P : α → Prop) : Yields (kill r : Chk α) P := yields_error _ P

theorem yields_stall {α : Type} (P : α → Prop) : Yields (stall : Chk α) P := yields_error _ P

theorem Yields.bind {α β : Type} {c : Chk α} {f : α → Chk β} {P : α → Prop} {Q : β → Prop} (hc : Yields c P)
    (hf : ∀ a, P a → Yields (f a) Q) : Yields (c >>= f) Q := by
  cases c with
  | error e => exact yields_error e Q
  | ok a => exact hf a (hc a rfl)

/-- What comes before in a computation only decides whether it goes on. -/
theorem Yields.after {α β : Type} {c : Chk α} {f : α → Chk β} {Q : β → Prop} (hf : ∀ a, Yields (f a) Q) :
    Yields (c >>= f) Q := Yields.bind (P := fun _ => True) (fun _ _ => trivial) fun a _ => hf a

theorem Yields.mono {α : Type} {c : Chk α} {P Q : α → Prop} (hc : Yields c P) (h : ∀ a, P a → Q a) : Yields c Q :=
  fun a e => h a (hc a e)

/-- A next state is what the meaning yields, or what taking its kill, its wait, its miss or its line comes to. -/
theorem run_next {s t : State} {c : Chk State} (h : run s c = .next t) :
    s.act.live = true ∧ (c = .ok t ∨ (∃ r n, t = s.raise r n) ∨ (∃ w, t = s.modAct fun a => { a with wait := w }) ∨
      (∃ m, t = s.missAct m) ∨ ∃ l, t = s.settleLine l) := by
  unfold run at h
  split at h
  case isFalse => cases h
  case isTrue hl =>
    refine ⟨hl, ?_⟩
    split at h <;> cases h
    · exact .inl rfl
    · exact .inr (.inl ⟨_, _, rfl⟩)
    · exact .inr (.inr (.inl ⟨_, rfl⟩))
    · exact .inr (.inr (.inr (.inl ⟨_, rfl⟩)))
    · exact .inr (.inr (.inr (.inr ⟨_, rfl⟩)))

/-! ## What reading memory may change -/

/-- A state after lines were read: its stored lines, the logs, the links' counters and the partitions' counts may differ; memory
keeps its form, and with no line in error it is as before. -/
structure Settled (s t : State) : Prop where
  eq : t = { s with mem := t.mem, logs := t.logs, links := { s.links with links := t.links.links }
                    parts := { s.parts with parts := t.parts.parts } }
  wf : Memory.wf s.mem = true → Memory.wf t.mem = true
  mem : s.mem.lineErrs = [] → t.mem = s.mem

theorem Settled.refl (s : State) : Settled s s := ⟨rfl, id, fun _ => rfl⟩

theorem Settled.trans {s t u : State} (h : Settled s t) (g : Settled t u) : Settled s u where
  eq := by rw [g.eq, h.eq]
  wf := g.wf ∘ h.wf
  mem e := (g.mem (by rw [h.mem e, e])).trans (h.mem e)

section
variable {s t : State} (h : Settled s t)
include h

theorem Settled.act : t.act = s.act := by rw [h.eq]
theorem Settled.acts : t.acts = s.acts := by rw [h.eq]
theorem Settled.env : t.env = s.env := by rw [h.eq]
theorem Settled.cores : t.cores = s.cores := by rw [h.eq]
theorem Settled.dir : t.dir = s.dir := by rw [h.eq]
theorem Settled.wire : t.wire = s.wire := by rw [h.eq]
theorem Settled.remote : t.links.remote = s.links.remote := by rw [h.eq]
theorem Settled.boot : t.boot = s.boot := by rw [h.eq]

end

theorem note_settled (s : State) (n : Note) (i : Bool) : Settled s (s.note n i) := by
  refine ⟨?_, fun h => by rwa [note_mem], fun _ => note_mem s n i⟩
  unfold State.note State.modPart
  dsimp only
  repeat' split
  all_goals rfl

theorem inject_settled (s : State) (core unit index : Nat) : Settled s (s.inject core unit index) := by
  refine ⟨?_, fun h => by rwa [inject_mem], fun _ => inject_mem s core unit index⟩
  unfold State.inject
  dsimp only
  split
  · rw [(note_settled _ _ _).eq]
  · rfl

theorem settleLine_settled (s : State) (line : Nat) : Settled s (s.settleLine line) := by
  refine ⟨?_, wf_settleLine s line, fun h => by simp [State.settleLine, h, look?]⟩
  unfold State.settleLine
  split
  · rfl
  · dsimp only
    split
    · rw [(note_settled _ _ _).eq]
    · rfl

theorem checkLine_settled (s : State) (line : Nat) : Settled s (s.checkLine line) := by
  unfold State.checkLine
  split
  · exact settleLine_settled s line
  · exact (inject_settled _ _ _ _).trans (inject_settled _ _ _ _)

theorem settle_settled (s : State) (a n : Nat) : Settled s (s.settle a n) := by
  unfold State.settle
  generalize blocks 64 a n = l
  induction l generalizing s with
  | nil => exact Settled.refl s
  | cons b l ih => exact (checkLine_settled s b).trans (ih _)

theorem checkPool_settled (s : State) (core : Nat) : Settled s (s.checkPool core) := inject_settled s core 3 0

theorem atSlice_settled (s : State) (die va : Nat) : Settled s (s.atSlice die va) := inject_settled s _ 2 0

theorem readHbm_settled (s : State) (die : Nat) (key : Byte) (a n : Nat) :
    Yields (s.readHbm die key a n) fun r => Settled s r.2.2 :=
  Yields.after fun _ => Yields.after fun _ => yields_ok.2 (settle_settled s a n)

/-! ## Translation (17 R387 to R389) -/

theorem tableEntry_settled (s : State) (die page idx : Nat) : Yields (s.tableEntry die page idx) fun r => Settled s r.2 := by
  refine Yields.after fun _ => (readHbm_settled s _ _ _ _).bind ?_
  rintro ⟨bs, poison, u⟩ hu
  exact Yields.after fun _ => yields_ok.2 hu

theorem walkEntry_settled (s : State) (die asid va level page idx : Nat) :
    Yields (s.walkEntry die asid va level page idx) fun r => Settled s r.2 := by
  unfold State.walkEntry
  split
  · exact yields_ok.2 (Settled.refl s)
  · refine (tableEntry_settled s die page idx).bind ?_
    rintro ⟨e, u⟩ hu
    dsimp only
    split
    · exact yields_ok.2 hu
    · split
      · exact yields_error _ _
      · exact yields_ok.2 hu

/-- A level of the walk: it ends at a miss there, or goes on with the entry. -/
theorem walkLevel_settled {s u : State} (h : Settled s u) {die asid va level page idx : Nat}
    {f : Option Word × State → Chk (WalkEnd × State)} (hnone : ∀ v, f (none, v) = .ok (.miss level, v))
    (hsome : ∀ e v, Settled s v → Yields (f (some e, v)) fun r => Settled s r.2) :
    Yields (u.walkEntry die asid va level page idx >>= f) fun r => Settled s r.2 := by
  refine (walkEntry_settled u die asid va level page idx).bind ?_
  rintro ⟨_ | e, v⟩ hv
  · rw [hnone]
    exact yields_ok.2 (h.trans hv)
  · exact hsome e v (h.trans hv)

theorem walk_settled (s : State) (die asid va : Nat) : Yields (s.walk die asid va) fun r => Settled s r.2 := by
  refine walkLevel_settled (Settled.refl s) (fun _ => rfl) fun e0 s0 h0 => ?_
  refine walkLevel_settled h0 (fun _ => rfl) fun e1 s1 h1 => ?_
  refine walkLevel_settled h1 (fun _ => rfl) fun e2 s2 h2 => ?_
  dsimp only
  split
  · split
    · exact yields_ok.2 h2
    · exact yields_error _ _
  · exact walkLevel_settled h2 (fun _ => rfl) fun e3 s3 h3 => yields_ok.2 h3

theorem walkChecked_settled (s : State) (die asid va : Nat) (acc : Access) (queue : Nat) (service : Bool) (only : Option Nat) :
    Yields (s.walkChecked die asid va acc queue service only) fun r => Settled s r.2 := by
  refine (walk_settled s die asid va).bind ?_
  rintro ⟨w, u⟩ hu
  dsimp only
  split
  · exact yields_error _ _
  · split
    · exact yields_kill _ _
    · exact yields_ok.2 (hu.trans (atSlice_settled _ _ _))

theorem translate_settled (s : State) (die asid va : Nat) (acc : Access) (service : Bool) (queue : Nat) (only : Option Nat) :
    Yields (s.translate die asid va acc service queue only) fun r => Settled s r.2 := by
  unfold State.translate
  split
  · split
    · exact yields_ok.2 (atSlice_settled _ _ _)
    · split
      · exact walkChecked_settled s die asid va acc queue service only
      · exact yields_kill _ _
  · exact walkChecked_settled s die asid va acc queue service only

theorem named_yields {α : Type} {s : State} {p : Phys} {c : Chk α} {P : α → Prop} (h : Yields c P) : Yields (s.named p c) P := by
  cases c with
  | ok a => exact h
  | error e =>
    rintro a ha
    unfold State.named at ha
    split at ha <;> cases ha

theorem readPhys_settled (s : State) (die : Nat) (p : Phys) (n : Nat) : Yields (s.readPhys die p n) fun r => Settled s r.2.2 := by
  unfold State.readPhys
  split
  · exact (named_yields (readHbm_settled s _ _ _ _)).bind fun _ hr => yields_ok.2 hr
  · exact yields_ok.2 (Settled.refl s)
  · exact yields_ok.2 (Settled.refl s)
  · exact yields_ok.2 (Settled.refl s)
  · exact (named_yields (readHbm_settled s _ _ _ _)).bind fun _ hr => yields_ok.2 hr

end Sys2Proof.Machine
end

section
/-! What a fetch leaves alone, and what a step does with the bytes it fetches (07 R164 to R166, R176, R177). -/

namespace Sys2Proof.Machine

open Sys2Proof.Safety

theorem fetchPool_settled (s : State) (w : Who) (a : Nat) : Yields (s.fetchPool w a) fun r => Settled s r.2 := by
  refine Yields.after fun _ => ?_
  dsimp only
  exact Yields.after fun _ => yields_ok.2 (checkPool_settled s _)

/-- A halfword that has been fetched has only settled what it read. -/
theorem fetchHalf_settled (s : State) (va : Word) : Yields (s.fetchHalf va) fun r => r.1.isSome = true → Settled s r.2 := by
  refine Yields.after fun a => Yields.after fun _ => ?_
  dsimp only
  split
  · exact (fetchPool_settled s _ a).mono fun _ h _ => h
  refine Yields.after fun _ => (translate_settled s _ _ _ _ _ _ _).bind ?_
  rintro ⟨p, u⟩ hu
  dsimp only
  split
  · split
    · split
      · exact Yields.after fun _ => yields_ok.2 fun _ => hu
      · exact yields_error _ _
    · exact Yields.after fun _ => yields_ok.2 fun h => by cases h
  · refine (readPhys_settled u _ p 2).bind ?_
    rintro ⟨bs, poison, v⟩ hv
    exact Yields.after fun _ => yields_ok.2 fun _ => hu.trans hv

theorem fetch_settled (s : State) : Yields s.fetch fun r => r.1.isSome = true → Settled s r.2 := by
  refine (fetchHalf_settled s _).bind ?_
  rintro ⟨_ | lo, u⟩ hu
  · exact yields_ok.2 fun h => by cases h
  · dsimp only
    split
    · refine (fetchHalf_settled u _).bind ?_
      rintro ⟨_ | hi, v⟩ hv
      · exact yields_ok.2 fun h => by cases h
      · exact yields_ok.2 fun _ => (hu rfl).trans (hv rfl)
    · exact yields_ok.2 fun _ => hu rfl

theorem fetched_act (s : State) (bs : List Byte) : (s.fetched bs).act = { s.act with issued := some bs } := by
  unfold State.fetched
  dsimp only
  split <;> rfl

/-! ## One step -/

/-- The part's own conditions (16 R381) as the step checks them. -/
theorem not_stopped {s : State} (h : Running s) : (s.boot.halted || s.boot.tripped || !s.boot.powered) = false := by
  obtain ⟨hp, hh, ht⟩ := h
  simp [hp, hh, ht]

theorem stopped {s : State} (h : ¬Running s) : (s.boot.halted || s.boot.tripped || !s.boot.powered) = true := by
  unfold Running at h
  grind

/-- With nothing chosen and nothing for the E-stream, a step is the A-stream's turn. -/
theorem step_aTurn {s : State} (ha : s.env.agenda = []) (hr : Running s) (hl : s.act.live = true) (he : s.eTurn? = none) :
    step s = timed s.aTurn := by
  simp only [step, ha, not_stopped hr, State.ownTurn, hl, he, Bool.false_eq_true, if_false, if_true]

theorem aTurn_issued {s : State} {bs : List Byte} (hl : s.act.live = true) (hb : s.blocked = false) (hi : s.act.issued = some bs) :
    s.aTurn = s.runBytes bs := by
  simp only [State.aTurn, hl, hb, hi, Bool.not_true, Bool.or_self, Bool.false_eq_true, if_false]

theorem aTurn_fetched {s u : State} {bs : List Byte} (hl : s.act.live = true) (hb : s.blocked = false)
    (hi : s.act.issued = none) (hf : s.fetch = .ok (some bs, u)) : s.aTurn = (u.fetched bs).runBytes bs := by
  simp only [State.aTurn, hl, hb, hi, hf, Bool.not_true, Bool.or_self, Bool.false_eq_true, if_false]

theorem runBytes_ok {s : State} {bs rest : List Byte} {i : Instr} (h : decode bs = .ok (i, rest)) : s.runBytes bs = exec i s := by
  simp only [State.runBytes, h]

theorem runBytes_error {s : State} {bs : List Byte} {r : Reject} (h : decode bs = .error r) (hl : s.act.live = true) :
    s.runBytes bs = .next (s.raise (rejectReason s.act.service bs r) none) := by
  simp only [State.runBytes, h, kill, run_kill hl]

/-- Settles O4: the bytes fetched are run as they are, and what decoding them comes to names the reason. -/
theorem illegalEncodingKills : Obligations.IllegalEncodingKills := by
  intro s bs u r ha hr hl hb he hi hf hd v
  have hact : v.act = { s.act with issued := some bs } := by rw [fetched_act, (fetch_settled s _ hf rfl).act]
  have hservice : v.act.service = s.act.service := by rw [hact]; rfl
  have hstep : step s = timed (.next (v.raise (rejectReason s.act.service bs r) none)) := by
    rw [step_aTurn ha hr hl he, aTurn_fetched hl hb hi hf, runBytes_error hd (by rw [hact]; exact hl), hservice]
  rw [hstep]
  refine ⟨fun h => ?_, fun h => ?_, fun h hs => ?_⟩
  · simp only [rejectReason, h, Bool.not_true, Bool.false_eq_true, false_and, and_false, if_false]
  · rw [rejectReason, if_neg]
    rintro ⟨h', -⟩
    rcases h with rfl | rfl | rfl | rfl <;> simp at h'
  · simp only [rejectReason, h, hs, Bool.not_false, true_and]

/-- Settles O3: each clause is a branch of the step. -/
theorem stepRunsDecoded : Obligations.StepRunsDecoded := by
  refine ⟨fun s bs rest u i ha hr hl hb he hi hf hd => ?_, fun s bs rest i ha hr hl hb he hi hd => ?_,
    fun s o ha hr hl he => ?_, fun s i rest ha hi => ?_, fun s ha hr => ?_⟩
  · rw [step_aTurn ha hr hl he, aTurn_fetched hl hb hi hf, runBytes_ok hd]
  · rw [step_aTurn ha hr hl he, aTurn_issued hl hb hi, runBytes_ok hd]
  · simp only [step, ha, not_stopped hr, State.ownTurn, hl, he, Bool.false_eq_true, if_false, if_true]
  · simp only [step, ha, State.take, State.eventTurn, hi, if_true]
  · simp only [step, ha, stopped hr, if_true, timed]

/-- Settles O7: the decoder is evaluated on each word. -/
theorem specWordsDecode : Obligations.SpecWordsDecode := by
  unfold Obligations.SpecWordsDecode
  decide +kernel

/-- Settles O1: at reset nothing is listed. -/
theorem resetMemoryCanonical : Obligations.ResetMemoryCanonical := by
  unfold Obligations.ResetMemoryCanonical MemCanonical
  decide +kernel

end Sys2Proof.Machine
end

section
/-! The reset values (16 R369, R370; 18 R416; 19 R424, R440; 20 R446, R447). -/

namespace Sys2Proof.Machine

open Sys2Proof.Safety

theorem vget_replicate {α : Type} [Inhabited α] {n i : Nat} (a : α) (h : i < n) : vget (Vector.replicate n a) i = a := by
  simp [vget, h]

theorem vget_map {α β : Type} [Inhabited α] [Inhabited β] {n i : Nat} (v : Vector α n) (f : α → β) (h : i < n) :
    vget (v.map f) i = f (vget v i) := by
  simp [vget, h]

/-- The registers of partitions, jobs, links, receive queues and the start as the spec gives them after a reset. -/
def ResetRegisters (s : State) : Prop :=
  (∀ p < 48, let t := s.part p
    t.state = 0 ∧ t.spans = 0 ∧ t.asid = 0 ∧ t.keys = 0 ∧ t.dep = 0 ∧ t.spill = 0 ∧ t.wt = 0 ∧ t.slack = 10000 ∧ t.margin = 2000 ∧
    t.wdog = 200000 ∧ t.repl = 4096 ∧ t.replays = 0 ∧ t.mchk = 0) ∧
  s.act.psel = 0 ∧ s.act.jsel = 0 ∧ s.parts.jobs = [] ∧
  (∀ n < 20, s.linkReg n 0x08 = some 0x1000000000 ∧ s.linkReg n 0x38 = (if n = 0 then some 50 else none) ∧
    ∀ off ∈ [0x00, 0x10, 0x18, 0x20, 0x28, 0x30], s.linkReg n off = some 0) ∧
  (∀ p < 48, ∀ off ∈ [0x00, 0x08, 0x10, 0x18, 0x20, 0x28], (s.rxq p).read off = some 0) ∧
  s.boot.phase = 0 ∧ s.boot.mode = 0 ∧ s.boot.point = 0

/-- A state whose activation, partitions, links and receive queues are new has the reset values, where its start has. -/
theorem resetRegisters_of_new {s : State} (ha : s.act = {}) (hp : s.parts = {}) (hl : s.links = {})
    (hq : s.host.rxq = Vector.replicate 48 {}) (hb : s.boot.phase = 0 ∧ s.boot.mode = 0 ∧ s.boot.point = 0) :
    ResetRegisters s := by
  have hpart : ∀ p < 48, s.part p = {} := fun p h => by simp [State.part, hp, h]
  have hlink : ∀ n < 20, s.link n = {} := fun n h => by rw [State.link, hl]; exact vget_replicate _ h
  refine ⟨fun p h => ?_, ?_, ?_, ?_, fun n h => ⟨?_, ?_, fun off ho => ?_⟩, fun p h off ho => ?_, hb⟩
  · rw [hpart p h]
    decide
  · rw [ha]
  · rw [ha]
  · rw [hp]
  · simp only [State.linkReg, hlink n h]
    rfl
  · simp only [State.linkReg, hl]
    rfl
  · simp only [List.mem_cons, List.not_mem_nil, or_false] at ho
    rcases ho with rfl | rfl | rfl | rfl | rfl | rfl <;> simp only [State.linkReg, hlink n h] <;> decide
  · have hrxq : s.rxq p = {} := by rw [State.rxq, hq]; exact vget_replicate _ h
    rw [hrxq]
    simp only [List.mem_cons, List.not_mem_nil, or_false] at ho
    rcases ho with rfl | rfl | rfl | rfl | rfl | rfl <;> decide

theorem newLogs {l : DieLog} (h : l ∈ (Vector.replicate 4 ({} : DieLog)).toList) : l.head = 0 ∧ l.tail = 0 ∧ l.overflow = 0 := by
  obtain ⟨-, rfl⟩ := by simpa using h
  exact ⟨rfl, rfl, rfl⟩

/-- Settles O2: a reset leaves nothing but what it keeps, and what is new has the reset values. -/
theorem resetValues : Obligations.ResetValues := by
  refine ⟨⟨resetRegisters_of_new rfl rfl rfl rfl ⟨rfl, rfl, rfl⟩, ⟨fun l h => newLogs h, rfl⟩, rfl⟩, fun s => ?_,
    fun _ _ _ _ _ _ _ => ⟨rfl, rfl⟩⟩
  refine ⟨resetRegisters_of_new rfl rfl rfl rfl ⟨rfl, rfl, rfl⟩, ⟨fun l h => newLogs h, rfl⟩, rfl,
    resetRegisters_of_new rfl rfl rfl rfl ⟨rfl, rfl, rfl⟩, rfl, rfl, fun k hk => ?_⟩
  have h : vget s.warmReset.logs k = (vget s.logs k).kept := vget_map s.logs DieLog.kept hk
  rw [h]
  exact ⟨rfl, rfl, rfl, rfl⟩

end Sys2Proof.Machine
end

section
/-! Results of the integer, shift, bit-field and counting forms (06 R159 to R161; 08 R194, R195): what the model computes on
integers is what bit vectors of the width compute. -/

namespace Sys2Proof.Machine
open Sys2Proof.Safety

/-! ## Integers of a width -/

theorem wrapInt_eq_ofInt (n : Nat) (v : Int) : wrapInt n v = (BitVec.ofInt n v).toNat := by
  rw [wrapInt, BitVec.toNat_ofInt]

theorem sext_toNat {n : Nat} (x : BitVec n) : sext n x.toNat = x.signExtend 64 := by
  rw [sext, BitVec.ofNat_toNat, BitVec.setWidth_eq]

theorem intOf_unsigned {n : Nat} (x : BitVec n) : intOf false n x.toNat = x.toNat := by
  simp [intOf, Nat.mod_eq_of_lt x.isLt]

theorem intOf_signed {n : Nat} (hn : 0 < n) (x : BitVec n) : intOf true n x.toNat = x.toInt := by
  have h2 : 2 ^ n = 2 * 2 ^ (n - 1) := by rw [← Nat.pow_succ', Nat.succ_eq_add_one, Nat.sub_add_cancel hn]
  rw [intOf, BitVec.toInt_eq_toNat_cond, Nat.mod_eq_of_lt x.isLt]
  simp only [true_and]
  split <;> split <;> omega

/-- A result at the width that `.w` selects, from what it is at every width. -/
theorem atWidth_eq_atW {f : Nat → Nat → Nat → Int} {g : (n : Nat) → BitVec n → BitVec n → BitVec n}
    (h : ∀ n, 0 < n → ∀ x y : BitVec n, BitVec.ofInt n (f n x.toNat y.toNat) = g n x y) (w : BitVec 1) (A B : Word) :
    atWidth w (f (widthW w) (A.toNat % 2 ^ widthW w) (B.toNat % 2 ^ widthW w)) = atW w g A B := by
  unfold atWidth atW widthW
  split
  · rw [wrapInt_eq_ofInt, sext_toNat, ← h 32 (by decide), BitVec.toNat_setWidth, BitVec.toNat_setWidth]
  · rw [wrapInt_eq_ofInt, BitVec.ofNat_toNat, BitVec.setWidth_eq, ← h 64 (by decide), Nat.mod_eq_of_lt A.isLt, Nat.mod_eq_of_lt B.isLt]

theorem atWidth_eq_atW1 {f : Nat → Nat → Int} {g : (n : Nat) → BitVec n → BitVec n}
    (h : ∀ n, 0 < n → ∀ x : BitVec n, BitVec.ofInt n (f n x.toNat) = g n x) (w : BitVec 1) (A : Word) :
    atWidth w (f (widthW w) (A.toNat % 2 ^ widthW w)) = atW1 w g A :=
  atWidth_eq_atW (f := fun n x _ => f n x) (g := fun n x _ => g n x) (fun n hn x _ => h n hn x) w A 0

/-! ## The two-source forms -/

section
variable {n : Nat} (x y : BitVec n)

theorem ofInt_sub_toNat : BitVec.ofInt n ((x.toNat : Int) - y.toNat) = x - y := by
  rw [Int.sub_eq_add_neg, BitVec.ofInt_add, BitVec.ofInt_neg, BitVec.ofInt_natCast, BitVec.ofInt_natCast, BitVec.ofNat_toNat,
    BitVec.ofNat_toNat, BitVec.setWidth_eq, BitVec.setWidth_eq, BitVec.sub_eq_add_neg]

/-- The high half of a product: what lies above the low `n` bits of its value in `2 * n` bits. -/
theorem ofInt_ediv_two_pow (p : Int) : BitVec.ofInt n (p / (2 ^ n : Nat)) = (BitVec.ofInt (2 * n) p).extractLsb' n n := by
  apply BitVec.eq_of_toNat_eq
  rw [BitVec.extractLsb'_toNat, BitVec.toNat_ofInt, BitVec.toNat_ofInt, Nat.shiftRight_eq_div_pow, Nat.two_mul, Nat.pow_add]
  have hq : ((2 ^ n : Nat) : Int) ≠ 0 := by positivity
  generalize 2 ^ n = q at hq
  zify
  rw [Int.toNat_of_nonneg (Int.emod_nonneg _ hq), Int.toNat_of_nonneg (Int.emod_nonneg _ (mul_ne_zero hq hq)),
    Int.emod_def p, mul_assoc, Int.sub_mul_ediv_left _ _ hq, Int.sub_mul_emod_self_left]

theorem ofInt_mulh (hn : 0 < n) : BitVec.ofInt n (intOf true n x.toNat * intOf true n y.toNat / (2 ^ n : Nat)) =
    (x.signExtend (2 * n) * y.signExtend (2 * n)).extractLsb' n n := by
  have h (z : BitVec n) : BitVec.ofInt (2 * n) z.toInt = z.signExtend (2 * n) := rfl
  rw [ofInt_ediv_two_pow, BitVec.ofInt_mul, intOf_signed hn, intOf_signed hn, h, h]

theorem ofInt_mulhn : BitVec.ofInt n ((x.toNat * y.toNat / 2 ^ n : Nat) : Int) =
    (x.zeroExtend (2 * n) * y.zeroExtend (2 * n)).extractLsb' n n := by
  have h (z : BitVec n) : BitVec.ofInt (2 * n) z.toNat = z.zeroExtend (2 * n) := by
    rw [BitVec.ofInt_natCast, BitVec.ofNat_toNat]
  rw [Int.natCast_ediv, Nat.cast_mul, ofInt_ediv_two_pow, BitVec.ofInt_mul, h, h]

theorem ofInt_divOp_signed (hn : 0 < n) :
    BitVec.ofInt n (divOp true n x.toNat y.toNat) = if y = 0 then BitVec.allOnes n else x.sdiv y := by
  simp only [divOp, intOf_signed hn, if_true]
  by_cases hy : y = 0
  · subst hy
    simp [BitVec.ofInt_neg, BitVec.neg_one_eq_allOnes]
  · have hi : y.toInt ≠ 0 := fun h => hy (BitVec.eq_of_toInt_eq (by simpa using h))
    rw [if_neg hi, if_neg hy]
    apply BitVec.eq_of_toInt_eq
    rw [BitVec.toInt_ofInt, BitVec.toInt_sdiv]

theorem ofInt_divOp_unsigned :
    BitVec.ofInt n (divOp false n x.toNat y.toNat) = if y = 0 then BitVec.allOnes n else x.udiv y := by
  simp only [divOp, intOf_unsigned, Bool.false_eq_true, if_false]
  by_cases hy : y = 0
  · subst hy
    have h : ((2 ^ n : Nat) : Int) - 1 = (2 ^ n - 1 : Nat) := by rw [Nat.cast_pred (Nat.two_pow_pos n)]
    rw [if_pos (by simp), if_pos rfl, h, BitVec.ofInt_natCast]
    exact BitVec.eq_of_toNat_eq (by simp)
  · have hi : (y.toNat : Int) ≠ 0 := fun h => hy (BitVec.eq_of_toNat_eq (by simpa using h))
    rw [if_neg hi, if_neg hy, ← Int.ofNat_tdiv, BitVec.ofInt_natCast, ← BitVec.toNat_udiv, BitVec.ofNat_toNat, BitVec.setWidth_eq]
    rfl

theorem ofInt_remOp_signed (hn : 0 < n) :
    BitVec.ofInt n (remOp true n x.toNat y.toNat) = if y = 0 then x else x.srem y := by
  simp only [remOp, intOf_signed hn]
  by_cases hy : y = 0
  · subst hy
    simp
  · have hi : y.toInt ≠ 0 := fun h => hy (BitVec.eq_of_toInt_eq (by simpa using h))
    rw [if_neg hi, if_neg hy, ← BitVec.toInt_srem, BitVec.ofInt_toInt]

theorem ofInt_remOp_unsigned : BitVec.ofInt n (remOp false n x.toNat y.toNat) = if y = 0 then x else x.umod y := by
  simp only [remOp, intOf_unsigned]
  by_cases hy : y = 0
  · subst hy
    simp
  · have hi : (y.toNat : Int) ≠ 0 := fun h => hy (BitVec.eq_of_toNat_eq (by simpa using h))
    rw [if_neg hi, if_neg hy, ← Int.ofNat_tmod, BitVec.ofInt_natCast, ← BitVec.toNat_umod, BitVec.ofNat_toNat, BitVec.setWidth_eq]
    rfl

theorem slt_iff (hn : 0 < n) : (x.slt y = true) ↔ intOf true n x.toNat < intOf true n y.toNat := by
  rw [intOf_signed hn, intOf_signed hn, BitVec.slt_iff_toInt_lt]

theorem ofInt_ite (p : Prop) [Decidable p] : BitVec.ofInt n (if p then (x.toNat : Int) else y.toNat) = if p then x else y := by
  split <;> simp

theorem ofInt_min (hn : 0 < n) : BitVec.ofInt n (if intOf true n x.toNat ≤ intOf true n y.toNat then (x.toNat : Int) else y.toNat) =
    if x.slt y then x else y := by
  simp only [ofInt_ite, slt_iff x y hn, intOf_signed hn]
  rcases lt_trichotomy x.toInt y.toInt with h | h | h
  · simp [h, h.le]
  · simp [BitVec.eq_of_toInt_eq h]
  · simp [h.not_ge, h.not_gt]

theorem ofInt_max (hn : 0 < n) : BitVec.ofInt n (if intOf true n x.toNat ≤ intOf true n y.toNat then (y.toNat : Int) else x.toNat) =
    if x.slt y then y else x := by
  simp only [ofInt_ite, slt_iff x y hn, intOf_signed hn]
  rcases lt_trichotomy x.toInt y.toInt with h | h | h
  · simp [h, h.le]
  · simp [BitVec.eq_of_toInt_eq h]
  · simp [h.not_ge, h.not_gt]

theorem ult_iff : (x.ult y = true) ↔ x.toNat < y.toNat := decide_eq_true_iff

theorem ofInt_minn : BitVec.ofInt n (Nat.min x.toNat y.toNat : Nat) = if x.ult y then x else y := by
  rw [BitVec.ofInt_natCast]
  apply BitVec.eq_of_toNat_eq
  split
  next h => rw [ult_iff] at h; simp [Nat.min_eq_left h.le]
  next h => rw [ult_iff] at h; simp [Nat.min_eq_right (not_lt.1 h)]

theorem ofInt_maxn : BitVec.ofInt n (Nat.max x.toNat y.toNat : Nat) = if x.ult y then y else x := by
  rw [BitVec.ofInt_natCast]
  apply BitVec.eq_of_toNat_eq
  split
  next h => rw [ult_iff] at h; simp [Nat.max_eq_right h.le]
  next h => rw [ult_iff] at h; simp [Nat.max_eq_left (not_lt.1 h)]

theorem ofInt_bit (c : Bool) : BitVec.ofInt n (bit c) = if c then 1 else 0 := by
  cases c <;> simp [bit]

theorem ofInt_slt (hn : 0 < n) :
    BitVec.ofInt n (bit (decide (intOf true n x.toNat < intOf true n y.toNat))) = if x.slt y then 1 else 0 := by
  simp only [ofInt_bit, decide_eq_true_eq, slt_iff x y hn]

theorem ofInt_sltn : BitVec.ofInt n (bit (decide (x.toNat < y.toNat))) = if x.ult y then 1 else 0 := ofInt_bit _

theorem ofInt_seq : BitVec.ofInt n (bit (x.toNat == y.toNat)) = if x = y then 1 else 0 := by
  simp only [ofInt_bit, beq_iff_eq, BitVec.toNat_inj]

theorem ofInt_add : BitVec.ofInt n ((x.toNat : Int) + y.toNat) = x + y := by simp [BitVec.ofInt_add]
theorem ofInt_mul : BitVec.ofInt n ((x.toNat : Int) * y.toNat) = x * y := by simp [BitVec.ofInt_mul]
theorem ofInt_and : BitVec.ofInt n ((x.toNat &&& y.toNat : Nat) : Int) = x &&& y := by
  rw [← BitVec.toNat_and]; simp
theorem ofInt_or : BitVec.ofInt n ((x.toNat ||| y.toNat : Nat) : Int) = x ||| y := by
  rw [← BitVec.toNat_or]; simp
theorem ofInt_xor : BitVec.ofInt n ((x.toNat ^^^ y.toNat : Nat) : Int) = x ^^^ y := by
  rw [← BitVec.toNat_xor]; simp

theorem ofInt_andn : BitVec.ofInt n ((x.toNat &&& (2 ^ n - 1 - y.toNat) : Nat) : Int) = x &&& ~~~y := by
  rw [← BitVec.toNat_not, ofInt_and]

end

/-! ## Shifts and bit fields (06 R161, 08 R195) -/

section
variable {n : Nat} (x y : BitVec n) (k len : Nat)

theorem ofInt_shlOp : BitVec.ofInt n (shlOp n x.toNat k : Nat) = x <<< k := by
  rw [BitVec.ofInt_natCast, shlOp]
  apply BitVec.eq_of_toNat_eq
  split
  next => simp
  next h => simp [BitVec.shiftLeft_eq_zero (not_lt.1 h)]

theorem toNat_shrOp : shrOp n x.toNat k = (x >>> k).toNat := by
  rw [shrOp]
  split
  next => simp
  next h => rw [BitVec.ushiftRight_eq_zero (not_lt.1 h), BitVec.toNat_zero]

theorem ofInt_shrOp : BitVec.ofInt n (shrOp n x.toNat k : Nat) = x >>> k := by
  rw [toNat_shrOp, BitVec.ofInt_natCast, BitVec.ofNat_toNat, BitVec.setWidth_eq]

theorem ofInt_sraOp (hn : 0 < n) : BitVec.ofInt n (sraOp n x.toNat k) = x.sshiftRight k := by
  have h : sraOp n x.toNat k = x.toInt / (2 ^ k : Nat) := by
    simp only [sraOp, intOf_signed hn]
    by_cases hk : k < n
    · rw [if_pos hk]
    have hq : (2 ^ n : Int) ≤ 2 ^ k := pow_le_pow_right₀ (by decide) (not_lt.1 hk)
    have hu := x.toInt_lt
    have hl := x.le_toInt
    have h2 : (2 ^ n : Int) = 2 * 2 ^ (n - 1) := by rw [← pow_succ', Nat.sub_add_cancel hn]
    rw [if_neg hk]
    split
    next hx => 
      rw [eq_comm, Int.ediv_eq_iff_of_pos (by positivity)]
      push_cast
      omega
    next hx => rw [Int.ediv_eq_zero_of_lt (not_lt.1 hx) (by push_cast; omega)]
  rw [h, ← Int.shiftRight_eq_div_pow, ← BitVec.toInt_sshiftRight, BitVec.ofInt_toInt]

theorem ofInt_bextOp : BitVec.ofInt n (bextOp n x.toNat k len : Nat) =
    if len < n then BitVec.ofNat n ((x >>> k).toNat % 2 ^ len) else x >>> k := by
  have h : (if k ≥ n then 0 else x.toNat >>> k) = (x >>> k).toNat := by
    rw [← toNat_shrOp, shrOp]
    by_cases hk : k < n <;> simp [hk, not_lt.1, Nat.not_le.2]
  rw [bextOp, h, BitVec.ofInt_natCast]
  split
  · rfl
  · rw [BitVec.ofNat_toNat, BitVec.setWidth_eq]

theorem ofInt_binsOp : BitVec.ofInt n (binsOp n y.toNat x.toNat k len : Nat) =
    (y &&& ~~~(BitVec.ofNat n (2 ^ min len n - 1) <<< k)) ||| ((x &&& BitVec.ofNat n (2 ^ min len n - 1)) <<< k) := by
  rw [BitVec.ofInt_natCast, binsOp]
  split
  next h => simp [BitVec.shiftLeft_eq_zero h]
  next h =>
    have hm : 2 ^ min len n - 1 < 2 ^ n :=
      (Nat.sub_lt (Nat.two_pow_pos _) Nat.one_pos).trans_le (Nat.pow_le_pow_right Nat.two_pos (min_le_right _ _))
    apply BitVec.eq_of_toNat_eq
    simp only [BitVec.toNat_ofNat, BitVec.toNat_or, BitVec.toNat_and, BitVec.toNat_not, BitVec.toNat_shiftLeft, Nat.mod_mod,
      Nat.mod_eq_of_lt hm, Nat.or_mod_two_pow]
    rw [Nat.mod_eq_of_lt (Nat.and_le_left.trans_lt y.isLt)]

end

/-! ## Counting (08 R194) -/

theorem atWidth_count (w : BitVec 1) {k : Nat} (hk : k ≤ 64) : atWidth w k = BitVec.ofNat 64 k := by
  rw [atWidth, wrapInt_eq_ofInt, wrapInt_eq_ofInt, BitVec.ofInt_natCast, BitVec.ofInt_natCast, sext_toNat, BitVec.ofNat_toNat,
    BitVec.setWidth_eq]
  split
  · rw [BitVec.signExtend_eq_setWidth_of_msb_false (BitVec.msb_eq_false_iff_two_mul_lt.2 (by rw [BitVec.toNat_ofNat]; omega)),
      BitVec.setWidth_ofNat_of_le_of_lt (by decide) (by omega)]
  · rfl

theorem widthW_le (w : BitVec 1) : widthW w ≤ 64 := by
  unfold widthW
  split <;> decide

theorem clzOp_spec {n a : Nat} (ha : a < 2 ^ n) :
    clzOp n a ≤ n ∧ a < 2 ^ (n - clzOp n a) ∧ (clzOp n a < n → 2 ^ (n - clzOp n a - 1) ≤ a) := by
  unfold clzOp
  split
  next h => simp [h]
  next h =>
    have hl : a.log2 < n := (Nat.log2_lt h).2 ha
    have e : n - (n - 1 - a.log2) = a.log2 + 1 := by omega
    rw [e]
    exact ⟨by omega, Nat.lt_log2_self, fun _ => Nat.log2_self_le h⟩

theorem two_pow_dvd_iff_testBit {a k : Nat} : 2 ^ k ∣ a ↔ ∀ i < k, a.testBit i = false := by
  rw [Nat.dvd_iff_mod_eq_zero]
  refine ⟨fun h i hi => ?_, fun h => Nat.zero_of_testBit_eq_false fun i => ?_⟩
  · simpa [Nat.testBit_mod_two_pow, hi] using congrArg (·.testBit i) h
  · by_cases hi : i < k <;> simp [Nat.testBit_mod_two_pow, hi, h]

theorem ctzOp_spec {n a : Nat} (ha : a < 2 ^ n) :
    ctzOp n a ≤ n ∧ 2 ^ ctzOp n a ∣ a ∧ (ctzOp n a < n → a.testBit (ctzOp n a) = true) ∧ (ctzOp n a = n → a = 0) := by
  unfold ctzOp
  cases h : (List.range n).find? fun i => a.testBit i with
  | none =>
    have hz : a = 0 := Nat.zero_of_testBit_eq_false fun i => by
      by_cases hi : i < n
      · simpa using List.find?_eq_none.1 h i (List.mem_range.2 hi)
      · exact Nat.testBit_lt_two_pow (ha.trans_le (Nat.pow_le_pow_right Nat.two_pos (not_lt.1 hi)))
    simp [hz]
  | some k =>
    obtain ⟨hk, hn, hb⟩ := List.find?_range_eq_some.1 h
    rw [Option.getD_some]
    refine ⟨(List.mem_range.1 hn).le, two_pow_dvd_iff_testBit.2 fun i hi => by simpa using hb i hi, fun _ => hk, fun e => ?_⟩
    exact absurd (List.mem_range.1 hn) (by omega)

theorem popOp_eq (n a : Nat) : popOp n a = (List.range n).countP fun i => a.testBit i := List.countP_eq_length_filter.symm

/-! ## The forms -/

theorem int2_writes {i : Instr} {f : Nat → Nat → Nat → Int} {g : (n : Nat) → BitVec n → BitVec n → BitVec n} {s : State}
    {w : BitVec 1} {b a d : BitVec 5} {len : Nat} (hl : s.act.live = true)
    (he : exec i s = run s (int2 w b a d len s f)) (h : ∀ n, 0 < n → ∀ x y : BitVec n, BitVec.ofInt n (f n x.toNat y.toNat) = g n x y) :
    Writes i s len d (atW w g (s.act.getX a) (s.act.getX b)) (s.act.xPoison a || s.act.xPoison b) := by
  rw [Writes, he, int2, run_ok hl, atWidth_eq_atW h]

theorem intShift_writes {i : Instr} {f : Nat → Nat → Nat → Int} {g : (n : Nat) → BitVec n → BitVec n} {s : State}
    {w : BitVec 1} {b a d : BitVec 5} (hl : s.act.live = true)
    (he : exec i s = run s (intShift w b a d s f))
    (h : ∀ n, 0 < n → ∀ x : BitVec n, BitVec.ofInt n (f n x.toNat (s.act.getX b).toNat) = g n x) :
    Writes i s 4 d (atW1 w g (s.act.getX a)) (s.act.xPoison a || s.act.xPoison b) := by
  rw [Writes, he, intShift, run_ok hl, atWidth_eq_atW1 (f := fun n x => f n x (s.act.getX b).toNat) h]

theorem int1_writes {i : Instr} {f : Nat → Nat → Nat} {s : State} {w : BitVec 1} {a d : BitVec 5} (hl : s.act.live = true)
    (he : exec i s = run s (int1 w a d s f)) (h : f (widthW w) ((s.act.getX a).toNat % 2 ^ widthW w) ≤ 64) :
    Writes i s 4 d (BitVec.ofNat 64 (f (widthW w) ((s.act.getX a).toNat % 2 ^ widthW w))) (s.act.xPoison a) := by
  rw [Writes, he, int1, run_ok hl, atWidth_count w h]

theorem twoSource_writes (s : State) (w : BitVec 1) (b a d : BitVec 5) (hl : s.act.live = true) :
    let A := s.act.getX a
    let B := s.act.getX b
    let p := s.act.xPoison a || s.act.xPoison b
    let W (i : Instr) (f : (n : Nat) → BitVec n → BitVec n → BitVec n) : Prop := Writes i s 4 d (atW w f A B) p
    W (.add w b a d) (fun _ x y => x + y) ∧
    W (.sub w b a d) (fun _ x y => x - y) ∧
    W (.and w b a d) (fun _ x y => x &&& y) ∧
    W (.or w b a d) (fun _ x y => x ||| y) ∧
    W (.xor w b a d) (fun _ x y => x ^^^ y) ∧
    W (.andn w b a d) (fun _ x y => x &&& ~~~y) ∧
    W (.mul w b a d) (fun _ x y => x * y) ∧
    W (.mulh w b a d) (fun n x y => (x.signExtend (2 * n) * y.signExtend (2 * n)).extractLsb' n n) ∧
    W (.mulhn w b a d) (fun n x y => (x.zeroExtend (2 * n) * y.zeroExtend (2 * n)).extractLsb' n n) ∧
    W (.div w b a d) (fun n x y => if y = 0 then BitVec.allOnes n else x.sdiv y) ∧
    W (.divn w b a d) (fun n x y => if y = 0 then BitVec.allOnes n else x.udiv y) ∧
    W (.rem w b a d) (fun _ x y => if y = 0 then x else x.srem y) ∧
    W (.remn w b a d) (fun _ x y => if y = 0 then x else x.umod y) ∧
    W (.min w b a d) (fun _ x y => if x.slt y then x else y) ∧
    W (.max w b a d) (fun _ x y => if x.slt y then y else x) ∧
    W (.minn w b a d) (fun _ x y => if x.ult y then x else y) ∧
    W (.maxn w b a d) (fun _ x y => if x.ult y then y else x) ∧
    W (.slt w b a d) (fun _ x y => if x.slt y then 1 else 0) ∧
    W (.sltn w b a d) (fun _ x y => if x.ult y then 1 else 0) ∧
    W (.seq w b a d) (fun _ x y => if x = y then 1 else 0) := by
  refine ⟨?_, ?_, ?_, ?_, ?_, ?_, ?_, ?_, ?_, ?_, ?_, ?_, ?_, ?_, ?_, ?_, ?_, ?_, ?_, ?_⟩
  · exact int2_writes hl (show _ = execAdd w b a d s from rfl) (fun _ _ => ofInt_add)
  · exact int2_writes hl (show _ = execSub w b a d s from rfl) (fun _ _ => ofInt_sub_toNat)
  · exact int2_writes hl (show _ = execAnd w b a d s from rfl) (fun _ _ => ofInt_and)
  · exact int2_writes hl (show _ = execOr w b a d s from rfl) (fun _ _ => ofInt_or)
  · exact int2_writes hl (show _ = execXor w b a d s from rfl) (fun _ _ => ofInt_xor)
  · exact int2_writes hl (show _ = execAndn w b a d s from rfl) (fun _ _ => ofInt_andn)
  · exact int2_writes hl (show _ = execMul w b a d s from rfl) (fun _ _ => ofInt_mul)
  · exact int2_writes hl (show _ = execMulh w b a d s from rfl) (fun _ hn x y => ofInt_mulh x y hn)
  · exact int2_writes hl (show _ = execMulhn w b a d s from rfl) (fun _ _ => ofInt_mulhn)
  · exact int2_writes hl (show _ = execDiv w b a d s from rfl) (fun _ hn x y => ofInt_divOp_signed x y hn)
  · exact int2_writes hl (show _ = execDivn w b a d s from rfl) (fun _ _ => ofInt_divOp_unsigned)
  · exact int2_writes hl (show _ = execRem w b a d s from rfl) (fun _ hn x y => ofInt_remOp_signed x y hn)
  · exact int2_writes hl (show _ = execRemn w b a d s from rfl) (fun _ _ => ofInt_remOp_unsigned)
  · exact int2_writes hl (show _ = execMin w b a d s from rfl) (fun _ hn x y => ofInt_min x y hn)
  · exact int2_writes hl (show _ = execMax w b a d s from rfl) (fun _ hn x y => ofInt_max x y hn)
  · exact int2_writes hl (show _ = execMinn w b a d s from rfl) (fun _ _ => ofInt_minn)
  · exact int2_writes hl (show _ = execMaxn w b a d s from rfl) (fun _ _ => ofInt_maxn)
  · exact int2_writes hl (show _ = execSlt w b a d s from rfl) (fun _ hn x y => ofInt_slt x y hn)
  · exact int2_writes hl (show _ = execSltn w b a d s from rfl) (fun _ _ => ofInt_sltn)
  · exact int2_writes hl (show _ = execSeq w b a d s from rfl) (fun _ _ => ofInt_seq)

theorem shift_writes (s : State) (w : BitVec 1) (b a d : BitVec 5) (hl : s.act.live = true) :
    let A := s.act.getX a
    let B := (s.act.getX b).toNat
    let pos := B % 2 ^ 32
    let len := B / 2 ^ 32
    let p := s.act.xPoison a || s.act.xPoison b
    Writes (.shl w b a d) s 4 d (atW1 w (fun _ x => x <<< B) A) p ∧
    Writes (.shr w b a d) s 4 d (atW1 w (fun _ x => x >>> B) A) p ∧
    Writes (.sra w b a d) s 4 d (atW1 w (fun _ x => x.sshiftRight B) A) p ∧
    Writes (.bext w b a d) s 4 d (atW1 w (fun n x => if len < n then BitVec.ofNat n ((x >>> pos).toNat % 2 ^ len) else x >>> pos) A) p ∧
    Writes (.bins w b a d) s 4 d
      (atW w (fun n x y => let m := BitVec.ofNat n (2 ^ min len n - 1); (y &&& ~~~(m <<< pos)) ||| ((x &&& m) <<< pos)) A (s.act.getX d))
      (p || s.act.xPoison d) := by
  refine ⟨?_, ?_, ?_, ?_, ?_⟩
  · exact intShift_writes hl (show _ = execShl w b a d s from rfl) (fun _ _ x => ofInt_shlOp x _)
  · exact intShift_writes hl (show _ = execShr w b a d s from rfl) (fun _ _ x => ofInt_shrOp x _)
  · exact intShift_writes hl (show _ = execSra w b a d s from rfl) (fun _ hn x => ofInt_sraOp x _ hn)
  · exact intShift_writes hl (show _ = execBext w b a d s from rfl) (fun _ _ x => ofInt_bextOp x _ _)
  · rw [← atWidth_eq_atW (f := fun n x y => (binsOp n y x ((s.act.getX b).toNat % 2 ^ 32) ((s.act.getX b).toNat / 2 ^ 32) : Nat))
      fun _ _ x y => ofInt_binsOp x y _ _]
    exact run_ok hl

theorem count_writes (s : State) (w : BitVec 1) (a d : BitVec 5) (hl : s.act.live = true) :
    let n := if w = 1 then 32 else 64
    let A := (s.act.getX a).toNat % 2 ^ n
    let p := s.act.xPoison a
    (∃ k, Writes (.clz w a d) s 4 d (BitVec.ofNat 64 k) p ∧ k ≤ n ∧ A < 2 ^ (n - k) ∧ (k < n → 2 ^ (n - k - 1) ≤ A)) ∧
    (∃ k, Writes (.ctz w a d) s 4 d (BitVec.ofNat 64 k) p ∧ k ≤ n ∧ 2 ^ k ∣ A ∧ (k < n → A.testBit k = true) ∧ (k = n → A = 0)) ∧
    Writes (.popc w a d) s 4 d (BitVec.ofNat 64 ((List.range n).countP fun i => A.testBit i)) p := by
  refine ⟨⟨_, ?_, clzOp_spec ?_⟩, ⟨_, ?_, ctzOp_spec ?_⟩, ?_⟩
  · exact int1_writes hl (show _ = execClz w a d s from rfl) ((clzOp_spec (Nat.mod_lt _ (Nat.two_pow_pos _))).1.trans (widthW_le w))
  · exact Nat.mod_lt _ (Nat.two_pow_pos _)
  · exact int1_writes hl (show _ = execCtz w a d s from rfl) ((ctzOp_spec (Nat.mod_lt _ (Nat.two_pow_pos _))).1.trans (widthW_le w))
  · exact Nat.mod_lt _ (Nat.two_pow_pos _)
  · rw [← popOp_eq]
    exact int1_writes hl (show _ = execPopc w a d s from rfl) ((List.length_filter_le _ _).trans (by rw [List.length_range]; exact widthW_le w))

/-- Settles O13: what a form computes on the integers of its operands is what bit vectors of its width compute. -/
theorem integerResults : Obligations.IntegerResults :=
  ⟨twoSource_writes, shift_writes, count_writes⟩

end Sys2Proof.Machine
end

section
/-! The immediate and compressed forms, the register file, and branches and jumps. -/

namespace Sys2Proof.Machine
open Sys2Proof.Safety

/-! ## Immediates and compressed forms (08 R196, R197; 07 R175) -/

theorem atWidth_zero (v : Int) : atWidth 0 v = BitVec.ofInt 64 v := by
  rw [atWidth, wrapInt_eq_ofInt 64, BitVec.ofNat_toNat, BitVec.setWidth_eq]
  rfl

theorem intImm_writes {i : Instr} {f : Word → Word → Word} {s : State} {n : BitVec 12} {a d : BitVec 5} {len : Nat}
    (hl : s.act.live = true) (he : exec i s = run s (intImm n a d len s f)) :
    Writes i s len d (f (s.act.getX a) (n.signExtend 64)) (s.act.xPoison a) := by
  rw [Writes, he, intImm, run_ok hl]

theorem intShiftImm_writes {i : Instr} {f : Nat → Nat → Int} {g : Word → Word} {s : State} {n : BitVec 6} {a d : BitVec 5} {len : Nat}
    (hl : s.act.live = true) (he : exec i s = run s (intShiftImm n a d len s f))
    (h : ∀ x : Word, BitVec.ofInt 64 (f x.toNat n.toNat) = g x) : Writes i s len d (g (s.act.getX a)) (s.act.xPoison a) := by
  rw [Writes, he, intShiftImm, run_ok hl, atWidth_zero, h]

theorem sext_upper (j : BitVec 20) : sext 32 (j.toNat <<< 12) = (j ++ 0#12).signExtend 64 := by
  rw [← sext_toNat, BitVec.toNat_append, BitVec.toNat_zero, Nat.or_zero]

theorem immediate_writes (s : State) (i : BitVec 12) (n : BitVec 6) (j : BitVec 20) (a d : BitVec 5) (hl : s.act.live = true) :
    let A := s.act.getX a
    let I : Word := i.signExtend 64
    let J : Word := (j ++ 0#12).signExtend 64
    let p := s.act.xPoison a
    Writes (.addi i a d) s 4 d (A + I) p ∧
    Writes (.andi i a d) s 4 d (A &&& I) p ∧
    Writes (.ori i a d) s 4 d (A ||| I) p ∧
    Writes (.xori i a d) s 4 d (A ^^^ I) p ∧
    Writes (.shli n a d) s 4 d (A <<< n.toNat) p ∧
    Writes (.shri n a d) s 4 d (A >>> n.toNat) p ∧
    Writes (.srai n a d) s 4 d (A.sshiftRight n.toNat) p ∧
    Writes (.slti i a d) s 4 d (if A.slt I then 1 else 0) p ∧
    Writes (.lih j d) s 4 d J false ∧
    Writes (.addpc j d) s 4 d (s.act.pc + J) false := by
  refine ⟨?_, ?_, ?_, ?_, ?_, ?_, ?_, ?_, ?_, ?_⟩
  · exact intImm_writes hl (show _ = execAddi i a d s from rfl)
  · exact intImm_writes hl (show _ = execAndi i a d s from rfl)
  · exact intImm_writes hl (show _ = execOri i a d s from rfl)
  · exact intImm_writes hl (show _ = execXori i a d s from rfl)
  · exact intShiftImm_writes hl (show _ = execShli n a d s from rfl) fun x => ofInt_shlOp x _
  · exact intShiftImm_writes hl (show _ = execShri n a d s from rfl) fun x => ofInt_shrOp x _
  · exact intShiftImm_writes hl (show _ = execSrai n a d s from rfl) fun x => ofInt_sraOp x _ (by decide)
  · exact intImm_writes hl (show _ = execSlti i a d s from rfl)
  · rw [← sext_upper]
    exact run_ok hl
  · rw [← sext_upper]
    exact run_ok hl

theorem compressed_writes (s : State) (i n : BitVec 6) (a d : BitVec 5) (hl : s.act.live = true) :
    let A := s.act.getX a
    let D := s.act.getX d
    let I : Word := i.signExtend 64
    let p := s.act.xPoison d
    Writes (.cMv d a) s 2 d A (s.act.xPoison a) ∧
    Writes (.cAddi d i) s 2 d (D + I) p ∧
    Writes (.cAdd d a) s 2 d (D + A) (p || s.act.xPoison a) ∧
    Writes (.cSub d a) s 2 d (D - A) (p || s.act.xPoison a) ∧
    Writes (.cLi d i) s 2 d I false ∧
    Writes (.cShli d n) s 2 d (D <<< n.toNat) p ∧
    Writes (.cAndi d i) s 2 d (D &&& I) p ∧
    exec .cNop s = .next (s.advance 2) := by
  have hi : (i.signExtend 12).signExtend 64 = i.signExtend 64 := by
    apply BitVec.eq_of_toInt_eq
    rw [BitVec.toInt_signExtend_of_le (by decide), BitVec.toInt_signExtend_of_le (by decide), BitVec.toInt_signExtend_of_le (by decide)]
  refine ⟨?_, ?_, ?_, ?_, ?_, ?_, ?_, ?_⟩
  · simpa [atW] using int2_writes (i := .cMv d a) hl (show _ = execCMv d a s from rfl) fun _ _ => ofInt_add
  · rw [← hi]
    exact intImm_writes hl (show _ = execCAddi d i s from rfl)
  · exact int2_writes hl (show _ = execCAdd d a s from rfl) fun _ _ => ofInt_add
  · exact int2_writes hl (show _ = execCSub d a s from rfl) fun _ _ => ofInt_sub_toNat
  · simpa [hi] using intImm_writes (i := .cLi d i) hl (show _ = execCLi d i s from rfl)
  · exact intShiftImm_writes hl (show _ = execCShli d n s from rfl) fun x => ofInt_shlOp x _
  · rw [← hi]
    exact intImm_writes hl (show _ = execCAndi d i s from rfl)
  · rw [← State.result_zero s 2 _ _]
    exact intImm_writes hl (show _ = execCNop s from rfl)

/-- Settles O14: the immediate is sign-extended or placed above twelve zero bits; a compressed form is its 32-bit form with the
length 2. -/
theorem immediateAndCompressedResults : Obligations.ImmediateAndCompressedResults :=
  ⟨immediate_writes, compressed_writes⟩

/-! ## The register file (07 R162, R163) -/

/-- Settles O15: by what a register holds after a write to it and to another. -/
theorem registerFile : Obligations.RegisterFile := by
  refine ⟨fun a => ⟨a.getX_zero, a.xPoison_zero⟩, fun a v p => a.setX_zero v p, fun a d v p hd => ?_, fun s w b a i hl => ⟨?_, ?_⟩⟩
  · exact ⟨a.getX_setX_self v p hd, a.xPoison_setX_self v p hd, fun r hr => ⟨a.getX_setX_ne v p hr, a.xPoison_setX_ne v p hr⟩⟩
  · rw [← State.result_zero s 4 _ _]
    exact int2_writes hl (show _ = execAdd w b a 0 s from rfl) fun _ _ => ofInt_add
  · rw [← State.result_zero s 4 _ _]
    exact intImm_writes hl (show _ = execAddi i a 0 s from rfl)

/-! ## Branches and jumps (08 R201, R202) -/

/-- A displacement in halfwords leads from an even pc to an even address. -/
theorem even_target {n : Nat} {pc : Word} (o : BitVec n) (h : pc.toNat % 2 = 0) : (pc + halfwords o).toNat % 2 = 0 := by
  have h2 : (2 : Word).toNat = 2 := rfl
  rw [halfwords, BitVec.toNat_add, BitVec.toNat_mul, h2]
  omega

theorem jump_even {s : State} {t : Word} (h : t.toNat % 2 = 0) : s.jump t = .ok (goTo s t) := by
  rw [State.jump, need_of (beq_iff_eq.2 h)]
  rfl

theorem branchIf_even {n : Nat} {o : BitVec n} {b a : BitVec 5} {len : Nat} {s : State} {c : Word → Word → Bool}
    (hpc : s.act.pc.toNat % 2 = 0) (ha : Clean s a) (hb : Clean s b) :
    branchIf o b a len s c =
      .ok (if c (s.act.getX a) (s.act.getX b) then goTo s (s.act.pc + o.signExtend 64 * 2) else s.advance len) := by
  rw [branchIf, ctlX_clean ha, bind_ok, ctlX_clean hb, bind_ok]
  split
  · exact jump_even (even_target o hpc)
  · rfl

theorem jumpLink_even {s : State} {t : Word} {d : BitVec 5} {len : Nat} (h : t.toNat % 2 = 0) :
    jumpLink t d len s = .ok ((goTo s t).modAct fun x => x.setX d (s.act.pc + BitVec.ofNat 64 len)) := by
  rw [jumpLink, jump_even h, bind_ok]

theorem branchBit_even {s : State} {o : BitVec 12} {want v : Bool} {rest : List (Bool × Bool)} (hpc : s.act.pc.toNat % 2 = 0)
    (hb : s.act.bq = (v, false) :: rest) :
    branchBit o want s = .ok (if v == want then goTo (s.modAct fun a => { a with bq := rest }) (s.act.pc + o.signExtend 64 * 2)
      else (s.modAct fun a => { a with bq := rest }).advance 4) := by
  rw [branchBit, hb]
  simp only [Bool.not_false, need_true, bind_ok]
  split
  · exact jump_even (even_target o hpc)
  · rfl

theorem branches_and_jumps (s : State) (o i : BitVec 12) (o8 : BitVec 8) (o11 : BitVec 11) (o20 : BitVec 20) (c : BitVec 3)
    (b a d : BitVec 5) (hl : s.act.live = true) (hpc : s.act.pc.toNat % 2 = 0) (ha : Clean s a) (hb : Clean s b)
    (hc : Clean s (8 + c.zeroExtend 5)) :
    let A := s.act.getX a
    let B := s.act.getX b
    let C := s.act.getX (8 + c.zeroExtend 5)
    let pc := s.act.pc
    let go (j : Instr) (taken : Bool) : Prop :=
      exec j s = .next (if taken then goTo s (pc + o.signExtend 64 * 2) else s.advance 4)
    let go2 (j : Instr) (taken : Bool) : Prop :=
      exec j s = .next (if taken then goTo s (pc + o8.signExtend 64 * 2) else s.advance 2)
    go (.beq o b a) (A == B) ∧ go (.bne o b a) (A != B) ∧
    go (.blt o b a) (A.slt B) ∧ go (.bge o b a) (!A.slt B) ∧
    go (.bltn o b a) (A.ult B) ∧ go (.bgen o b a) (!A.ult B) ∧
    go2 (.cBeqz c o8) (C == 0) ∧ go2 (.cBnez c o8) (C != 0) ∧
    exec (.jal o20 d) s = .next ((goTo s (pc + o20.signExtend 64 * 2)).modAct fun x => x.setX d (pc + 4)) ∧
    exec (.cJ o11) s = .next (goTo s (pc + o11.signExtend 64 * 2)) ∧
    ((A + i.signExtend 64).toNat % 2 = 0 →
      exec (.jalr i a d) s = .next ((goTo s (A + i.signExtend 64)).modAct fun x => x.setX d (pc + 4))) := by
  have step {n : Nat} (o : BitVec n) (b a : BitVec 5) (len : Nat) (f : Word → Word → Bool) (ha : Clean s a) (hb : Clean s b) :
      run s (branchIf o b a len s f) =
        .next (if f (s.act.getX a) (s.act.getX b) then goTo s (s.act.pc + o.signExtend 64 * 2) else s.advance len) := by
    rw [branchIf_even hpc ha hb, run_ok hl]
  have link (t : Word) (d : BitVec 5) (len : Nat) (ht : t.toNat % 2 = 0) : run s (jumpLink t d len s) =
      .next ((goTo s t).modAct fun x => x.setX d (s.act.pc + BitVec.ofNat 64 len)) := by
    rw [jumpLink_even ht, run_ok hl]
  have hz : Clean s 0 := s.act.xPoison_zero
  intro A B C pc go go2
  refine ⟨step o b a 4 (· == ·) ha hb, step o b a 4 (· != ·) ha hb, step o b a 4 BitVec.slt ha hb, ?_,
    step o b a 4 BitVec.ult ha hb, ?_, step o8 0 _ 2 (· == ·) hc hz, step o8 0 _ 2 (· != ·) hc hz, link _ d 4 (even_target o20 hpc),
    link _ 0 2 (even_target o11 hpc), fun ht => ?_⟩
  · have h := step o b a 4 (fun x y => y.sle x) ha hb
    rw [BitVec.sle_eq_not_slt] at h
    exact h
  · have h := step o b a 4 (fun x y => y.ule x) ha hb
    rw [BitVec.ule_eq_not_ult] at h
    exact h
  · have h := link _ d 4 ht
    show run s (do let x ← s.act.ctlX a; jumpLink (x + i.signExtend 64) d 4 s) = _
    rw [ctlX_clean ha, bind_ok]
    exact h

/-- Settles O16: from an even pc every displacement leads to an even address, so that no branch or jump is refused. -/
theorem branchesAndJumps : Obligations.BranchesAndJumps := by
  refine ⟨branches_and_jumps, fun s o v rest hl hpc hb => ?_⟩
  have step (want : Bool) := (congrArg (run s) (branchBit_even (o := o) (want := want) hpc hb)).trans (run_ok hl)
  have ht := step true
  have hf := step false
  rw [beq_true] at ht
  rw [beq_false] at hf
  exact ⟨ht, hf⟩

end Sys2Proof.Machine
end

section
/-! What an instruction that does not complete leaves alone, and the frames of register forms (07 R162; 08 R191, R194 to R222). -/

namespace Sys2Proof.Machine
open Sys2Proof.Safety

/-! ## Misses (17 R391, R393) -/

/-- Only the expert tables differ. -/
def ExpOnly (s t : State) : Prop := ∃ e, t = { s with exp := e }

theorem ExpOnly.refl (s : State) : ExpOnly s s := ⟨s.exp, rfl⟩

theorem ExpOnly.trans {s t u : State} (h : ExpOnly s t) (g : ExpOnly t u) : ExpOnly s u := by
  obtain ⟨e, rfl⟩ := h
  obtain ⟨f, rfl⟩ := g
  exact ⟨f, rfl⟩

theorem wantSet_expOnly (s : State) (n set : Nat) : ExpOnly s (s.wantSet n set) := by
  unfold State.wantSet
  dsimp only
  repeat' split
  all_goals exact ⟨_, rfl⟩

theorem foldl_expOnly {α : Type} {f : State → α → State} (hf : ∀ s a, ExpOnly s (f s a)) (l : List α) (s : State) :
    ExpOnly s (l.foldl f s) := by
  induction l generalizing s with
  | nil => exact ExpOnly.refl s
  | cons a l ih => exact (hf s a).trans (ih _)

theorem windowFault_expOnly (s : State) (asid va : Nat) : ExpOnly s (s.windowFault asid va) := by
  refine foldl_expOnly (fun s e => foldl_expOnly (fun s k => ?_) _ s) _ s
  split
  · exact wantSet_expOnly s _ _
  · exact ExpOnly.refl s

/-- What a miss changes: the expert tables, the tickets, and the message and number that a ticket takes. -/
theorem raiseMiss_eq (s : State) (die core part : Nat) (actor : Word) (deadline : Word32) (m : Miss) (join : Ticket → Ticket) :
    ∃ exp xlat env wire, (s.raiseMiss die core part actor deadline m join).2 =
      { s with exp := exp, xlat := xlat, env := env, wire := { s.wire with flights := wire } } := by
  obtain ⟨e, he⟩ := windowFault_expOnly s m.asid m.va
  unfold State.raiseMiss
  rw [he]
  dsimp only
  split
  · exact ⟨_, _, _, _, rfl⟩
  · exact ⟨_, _, _, _, rfl⟩

theorem missAct_eq (s : State) (m : Miss) : ∃ exp xlat env wire wait,
    s.missAct m = { s with exp := exp, xlat := xlat, env := env, wire := { s.wire with flights := wire }
                           act := { s.act with wait := wait } } := by
  obtain ⟨exp, xlat, env, wire, h⟩ := raiseMiss_eq s (dieOf s.act.core) s.act.core s.myPart s.act.name s.act.deadline m
    fun t => if t.acts.contains s.act.aid then t else { t with acts := t.acts ++ [s.act.aid] }
  unfold State.missAct
  dsimp only
  generalize s.raiseMiss _ _ _ _ _ _ _ = r at h ⊢
  obtain ⟨num, u⟩ := r
  subst h
  exact ⟨exp, xlat, env, wire, .ticket num, rfl⟩

/-! ## Kills (02 R49, 18 R417) -/

theorem noteKill_cases (s : State) (job : Half) (core r : Nat) (n : Option Note) :
    (∃ m, s.noteKill job core r n = s.note m) ∨ s.noteKill job core r n = s := by
  unfold State.noteKill
  split
  · exact .inl ⟨_, rfl⟩
  · split
    · exact .inl ⟨_, rfl⟩
    · exact .inr rfl

theorem noteKill_settled (s : State) (job : Half) (core r : Nat) (n : Option Note) : Settled s (s.noteKill job core r n) := by
  obtain ⟨m, h⟩ | h := noteKill_cases s job core r n <;> rw [h]
  · exact note_settled s m _
  · exact Settled.refl s

theorem noteKill_mem (s : State) (job : Half) (core r : Nat) (n : Option Note) : (s.noteKill job core r n).mem = s.mem := by
  obtain ⟨m, h⟩ | h := noteKill_cases s job core r n <;> rw [h]
  exact note_mem s m _

theorem State.takeDown_act (s : State) (n : Word) (r : Nat) :
    (s.takeDown n r).act = if s.act.live && s.act.name == n then {} else s.act := rfl

/-- A state in which the running activation has done nothing: it has ended, or is as it was but for what it waits for; no
activation is new; and memory is as before. -/
structure Idles (s t : State) : Prop where
  mem : t.mem = s.mem
  acts : t.acts.length ≤ s.acts.length
  act : t.act.live = true → ∃ w, t.act = { s.act with wait := w }

theorem raise_idles (s : State) (r : Nat) (n : Option Note) : Idles s (s.raise r n) := by
  unfold State.raise
  have hs := noteKill_settled s s.act.job s.act.core r n
  generalize hu : s.noteKill s.act.job s.act.core r n = u at hs
  have hm : u.mem = s.mem := by rw [← hu, noteKill_mem]
  obtain ⟨-, h⟩ | ⟨-, ps, h⟩ := u.killActor_cases s.act.name r
  · rw [h]
    exact ⟨hm, by rw [hs.acts], fun _ => ⟨s.act.wait, hs.act⟩⟩
  · refine ⟨by rw [State.killActor_mem, hm], ?_, fun hl => ?_⟩
    · rw [h, State.takeDown_acts, ← hs.acts]
      exact List.length_filter_le _ _
    · rw [h, State.takeDown_act, show ({ u with parts := ps } : State).act = s.act from hs.act, beq_self_eq_true, Bool.and_true] at hl
      split at hl
      next => cases hl
      next hn => exact absurd hl hn

/-- What comes of a meaning that gives a next state: what it yields, or a state in which the activation has done nothing; unless
it comes to a line in error. -/
theorem run_cases {s t : State} {c : Chk State} (h : run s c = .next t) (hc : ∀ l, c = .error (.line l) → s.mem.lineErrs = []) :
    c = .ok t ∨ Idles s t := by
  unfold run at h
  split at h
  case isFalse => cases h
  case isTrue hl =>
    split at h <;> cases h
    · exact .inl rfl
    · exact .inr (raise_idles s _ _)
    · exact .inr ⟨rfl, le_rfl, fun _ => ⟨_, rfl⟩⟩
    next m =>
      obtain ⟨_, _, _, _, w, e⟩ := missAct_eq s m
      rw [e]
      exact .inr ⟨rfl, le_rfl, fun _ => ⟨w, rfl⟩⟩
    next l =>
      refine .inr ⟨(settleLine_settled s l).mem (hc l rfl), ?_, fun _ => ⟨s.act.wait, (settleLine_settled s l).act⟩⟩
      rw [(settleLine_settled s l).acts]

/-! ## What register forms change -/

/-- A computation that answers only what has the property, and else kills or waits. -/
def Answers (c : Chk State) (P : State → Prop) : Prop :=
  match c with
  | .ok t => P t
  | .error (.kill _ _) | .error (.stall _) => True
  | .error _ => False

theorem answers_bind {α : Type} {c : Chk α} {f : α → Chk State} {P : State → Prop}
    (hc : ∀ e, c = .error e → (∃ r n, e = .kill r n) ∨ ∃ w, e = .stall w) (hf : ∀ a, Answers (f a) P) : Answers (c >>= f) P := by
  cases c with
  | ok a => exact hf a
  | error e => obtain ⟨r, n, rfl⟩ | ⟨w, rfl⟩ := hc e rfl <;> exact trivial

theorem answers_need {c : Bool} {r : Nat} {f : Unit → Chk State} {P : State → Prop} (hf : Answers (f ()) P) :
    Answers (need c r >>= f) P := by
  cases c
  · exact trivial
  · exact hf

theorem answers_await {c : Bool} {f : Unit → Chk State} {P : State → Prop} (hf : Answers (f ()) P) :
    Answers (await c >>= f) P := by
  cases c
  · exact trivial
  · exact hf

theorem answers_awaitIf {b c : Bool} {f : Unit → Chk State} {P : State → Prop} (hf : Answers (f ()) P) :
    Answers (if b then await c >>= f else f ()) P := by
  split
  · exact answers_await hf
  · exact hf

theorem answers_ctlX {a : Act} {r : BitVec 5} {f : Word → Chk State} {P : State → Prop} (hf : ∀ v, Answers (f v) P) :
    Answers (a.ctlX r >>= f) P := by
  unfold Act.ctlX
  split
  · exact trivial
  · exact hf _

theorem answers_modeFor {d r : BitVec 3} {f : Nat → Chk State} {P : State → Prop} (hf : ∀ m, Answers (f m) P) :
    Answers (modeFor d r >>= f) P := by
  unfold modeFor
  repeat' split
  · exact hf _
  · exact hf _
  · exact trivial

/-- What a register form changes: its destination, the pc and its record of waits, the flags, the draw counter and the queues
between the streams. -/
structure RegFrame (s t : State) (d : BitVec 5) : Prop where
  mem : t.mem = s.mem
  acts : t.acts = s.acts
  regs : ∀ x, x ≠ d → t.act.getX x = s.act.getX x ∧ t.act.xPoison x = s.act.xPoison x
  act : t.act = { s.act with
    x := t.act.x, xp := t.act.xp, pc := t.act.pc, wait := t.act.wait, memo := t.act.memo, issued := t.act.issued
    fflags := t.act.fflags, srctr := t.act.srctr, q := t.act.q, bq := t.act.bq }

/-- Neither the flags nor the draw counter has changed. -/
def Still (s t : State) : Prop := t.act.fflags = s.act.fflags ∧ t.act.srctr = s.act.srctr

theorem RegFrame.refl (s : State) (d : BitVec 5) : RegFrame s s d := ⟨rfl, rfl, fun _ _ => ⟨rfl, rfl⟩, rfl⟩

theorem RegFrame.trans {s t u : State} {d : BitVec 5} (h : RegFrame s t d) (g : RegFrame t u d) : RegFrame s u d where
  mem := g.mem.trans h.mem
  acts := g.acts.trans h.acts
  regs x hx := ⟨(g.regs x hx).1.trans (h.regs x hx).1, (g.regs x hx).2.trans (h.regs x hx).2⟩
  act := by rw [g.act, h.act]

theorem Still.trans {s t u : State} (h : Still s t) (g : Still t u) : Still s u := ⟨g.1.trans h.1, g.2.trans h.2⟩

theorem setX_regFrame (s : State) (d : BitVec 5) (v : Word) (p : Bool) : RegFrame s (s.modAct fun a => a.setX d v p) d where
  mem := rfl
  acts := rfl
  regs x hx := ⟨s.act.getX_setX_ne v p hx, s.act.xPoison_setX_ne v p hx⟩
  act := by
    rw [State.modAct_act]
    unfold Act.setX
    split <;> rfl

theorem setX_still (s : State) (d : BitVec 5) (v : Word) (p : Bool) : Still s (s.modAct fun a => a.setX d v p) := by
  unfold Still
  rw [State.modAct_act]
  unfold Act.setX
  split <;> exact ⟨rfl, rfl⟩

theorem advance_regFrame (s : State) (n : Nat) (d : BitVec 5) : RegFrame s (s.advance n) d := ⟨rfl, rfl, fun _ _ => ⟨rfl, rfl⟩, rfl⟩
theorem advance_still (s : State) (n : Nat) : Still s (s.advance n) := ⟨rfl, rfl⟩
theorem goTo_regFrame (s : State) (t : Word) (d : BitVec 5) : RegFrame s (goTo s t) d := ⟨rfl, rfl, fun _ _ => ⟨rfl, rfl⟩, rfl⟩
theorem goTo_still (s : State) (t : Word) : Still s (goTo s t) := ⟨rfl, rfl⟩

theorem result_regFrame (s : State) (n : Nat) (d : BitVec 5) (v : Word) (p : Bool) : RegFrame s (s.result n d v p) d :=
  (setX_regFrame s d v p).trans (advance_regFrame _ n d)

theorem result_still (s : State) (n : Nat) (d : BitVec 5) (v : Word) (p : Bool) : Still s (s.result n d v p) :=
  (setX_still s d v p).trans (advance_still _ n)


theorem drawn_regFrame (s : State) (mode n : Nat) (d : BitVec 5) : RegFrame s (s.drawn mode n) d := by
  unfold State.drawn
  split
  · exact ⟨rfl, rfl, fun _ _ => ⟨rfl, rfl⟩, rfl⟩
  · exact RegFrame.refl s d

theorem setFlags_regFrame (s : State) (f : Flags) (d : BitVec 5) : RegFrame s (s.setFlags f) d :=
  ⟨rfl, rfl, fun _ _ => ⟨rfl, rfl⟩, rfl⟩

theorem fpResult_regFrame (s : State) (d : BitVec 5) (v : Nat) (f : Flags) (p : Bool) : RegFrame s (s.fpResult d v f p) d :=
  (setFlags_regFrame s f d).trans (result_regFrame _ 4 d _ p)

/-- The queues between the streams taken from. -/
theorem modQueues_regFrame (s : State) (q : Vector (List (Word × Bool)) 6) (bq : List (Bool × Bool)) (d : BitVec 5) :
    RegFrame s (s.modAct fun a => { a with q := q, bq := bq }) d := ⟨rfl, rfl, fun _ _ => ⟨rfl, rfl⟩, rfl⟩

/-! ## The frame of an outcome -/

/-- What O10 says of a register form's outcome. -/
def FrameOf (s : State) (d : BitVec 5) (o : Host.Outcome State Fault Refusal) : Prop := ∀ t, o = .next t →
  (∀ k, SameBytes s t k) ∧ t.acts.length ≤ s.acts.length ∧
  (t.act.live = true →
    (∀ x, x ≠ d → t.act.getX x = s.act.getX x ∧ t.act.xPoison x = s.act.xPoison x) ∧
    t.act = { s.act with
      x := t.act.x, xp := t.act.xp, pc := t.act.pc, wait := t.act.wait, memo := t.act.memo, issued := t.act.issued
      fflags := t.act.fflags, srctr := t.act.srctr, q := t.act.q, bq := t.act.bq })

def StillOf (s : State) (o : Host.Outcome State Fault Refusal) : Prop := ∀ t, o = .next t → t.act.live = true → Still s t

theorem sameBytes_of_mem {s t : State} (h : t.mem = s.mem) (k : Nat) : SameBytes s t k := by
  unfold SameBytes
  rw [h]
  exact ⟨rfl, fun _ => rfl⟩

theorem run_answers {s t : State} {c : Chk State} {P : State → Prop} (hc : Answers c P) (h : run s c = .next t) : P t ∨ Idles s t := by
  obtain rfl | hi := run_cases h fun l e => by rw [e] at hc; exact hc.elim
  · exact .inl hc
  · exact .inr hi

theorem frameOf_answers {s : State} {d : BitVec 5} {c : Chk State} (hc : Answers c (RegFrame s · d)) : FrameOf s d (run s c) := by
  intro t h
  obtain hf | hi := run_answers hc h
  · exact ⟨sameBytes_of_mem hf.mem, by rw [hf.acts], fun _ => ⟨hf.regs, hf.act⟩⟩
  · refine ⟨sameBytes_of_mem hi.mem, hi.acts, fun hl => ?_⟩
    obtain ⟨w, hw⟩ := hi.act hl
    rw [hw]
    exact ⟨fun _ _ => ⟨rfl, rfl⟩, rfl⟩

theorem stillOf_answers {s : State} {c : Chk State} (hc : Answers c (Still s)) : StillOf s (run s c) := by
  intro t h hl
  obtain hf | hi := run_answers hc h
  · exact hf
  · obtain ⟨w, hw⟩ := hi.act hl
    rw [Still, hw]
    exact ⟨rfl, rfl⟩

/-- Both frames of a form. -/
def StillFrame (s : State) (d : BitVec 5) (o : Host.Outcome State Fault Refusal) : Prop := FrameOf s d o ∧ StillOf s o

theorem Answers.and {c : Chk State} {P Q : State → Prop} (h : Answers c fun t => P t ∧ Q t) : Answers c P ∧ Answers c Q := by
  unfold Answers at h ⊢
  split <;> simp_all

theorem stillFrame_answers {s : State} {d : BitVec 5} {c : Chk State} (hc : Answers c fun t => RegFrame s t d ∧ Still s t) :
    StillFrame s d (run s c) := ⟨frameOf_answers hc.and.1, stillOf_answers hc.and.2⟩

theorem result_stillFrame (s : State) (n : Nat) (d : BitVec 5) (v : Word) (p : Bool) : StillFrame s d (run s (.ok (s.result n d v p))) :=
  stillFrame_answers ⟨result_regFrame s n d v p, result_still s n d v p⟩

/-! ## The forms -/

section
variable (s : State)

theorem jump_frame (t : Word) (d : BitVec 5) : Answers (s.jump t) fun u => RegFrame s u d ∧ Still s u :=
  answers_need ⟨goTo_regFrame s t d, goTo_still s t⟩

theorem branchIf_frame {n : Nat} (o : BitVec n) (b a : BitVec 5) (len : Nat) (c : Word → Word → Bool) (d : BitVec 5) :
    StillFrame s d (run s (branchIf o b a len s c)) := by
  refine stillFrame_answers (answers_ctlX fun x => answers_ctlX fun y => ?_)
  split
  · exact jump_frame s _ d
  · exact ⟨advance_regFrame s len d, advance_still s len⟩

theorem branchBit_frame (o : BitVec 12) (want : Bool) (d : BitVec 5) : StillFrame s d (run s (branchBit o want s)) := by
  refine stillFrame_answers ?_
  unfold branchBit
  split
  · exact trivial
  next v poison rest hb =>
    refine answers_need ?_
    have hq : RegFrame s (s.modAct fun a => { a with bq := rest }) d := modQueues_regFrame s s.act.q rest d
    split
    · exact answers_need ⟨hq.trans (goTo_regFrame _ _ d), rfl, rfl⟩
    · exact ⟨hq.trans (advance_regFrame _ 4 d), rfl, rfl⟩

theorem jumpLink_frame (t : Word) (d : BitVec 5) (len : Nat) : StillFrame s d (run s (jumpLink t d len s)) := by
  refine stillFrame_answers ?_
  unfold jumpLink State.jump
  cases t.toNat % 2 == 0
  · exact trivial
  · exact ⟨(goTo_regFrame s t d).trans (setX_regFrame _ d _ _), (goTo_still s t).trans (setX_still _ d _ _)⟩

theorem execJalr_frame (i : BitVec 12) (a d : BitVec 5) : StillFrame s d (execJalr i a d s) := by
  unfold execJalr Act.ctlX
  split
  · exact stillFrame_answers trivial
  · exact jumpLink_frame s _ d 4

theorem execMfs_frame (n : BitVec 12) (d : BitVec 5) : StillFrame s d (execMfs n d s) := by
  refine stillFrame_answers ?_
  split
  · refine answers_need ?_
    split
    · exact ⟨result_regFrame s 4 d _ _, result_still s 4 d _ _⟩
    · exact trivial
  · refine answers_awaitIf ?_
    split
    · exact ⟨result_regFrame s 4 d _ _, result_still s 4 d _ _⟩
    · exact trivial

theorem execRstat_frame (a d : BitVec 5) : StillFrame s d (execRstat a d s) :=
  stillFrame_answers (answers_need ⟨result_regFrame s 4 d _ _, result_still s 4 d _ _⟩)

theorem qgetOp_frame (n : Nat) (d : BitVec 5) (len : Nat) : StillFrame s d (run s (qgetOp n d len s)) := by
  refine stillFrame_answers ?_
  unfold qgetOp
  split
  · exact trivial
  next v p rest hq =>
    exact ⟨(modQueues_regFrame s (vset s.act.q n rest) s.act.bq d).trans (result_regFrame _ len d v p),
      Still.trans (t := s.modAct fun t => t.setQueue n rest) ⟨rfl, rfl⟩ (result_still _ len d v p)⟩

theorem fpRound_frame (r : BitVec 3) (d : BitVec 5) (p : Bool) (x : Bool → FV × Flags) : FrameOf s d (run s (fpRound r d p s x)) :=
  frameOf_answers (answers_modeFor fun m => (drawn_regFrame s m 1 d).trans (fpResult_regFrame _ d _ _ p))

theorem execFcvti_frame (w u : BitVec 1) (r : BitVec 3) (a d : BitVec 5) : FrameOf s d (execFcvti w u r a d s) :=
  frameOf_answers (answers_modeFor fun m =>
    ((drawn_regFrame s m 1 d).trans (setFlags_regFrame _ _ d)).trans (result_regFrame _ 4 d _ _))

end

/-- The integer forms, and those that read a register or a queue. -/
theorem register_frames (s : State) (w : BitVec 1) (n6 : BitVec 6) (n12 : BitVec 12) (n20 : BitVec 20) (o : BitVec 3) (b a d : BitVec 5) :
    ∀ i ∈ [Instr.add w b a d, .sub w b a d, .and w b a d, .or w b a d, .xor w b a d, .shl w b a d, .shr w b a d, .sra w b a d,
        .mul w b a d, .mulh w b a d, .mulhn w b a d, .div w b a d, .divn w b a d, .rem w b a d, .remn w b a d, .min w b a d,
        .max w b a d, .minn w b a d, .maxn w b a d, .slt w b a d, .sltn w b a d, .seq w b a d, .clz w a d, .ctz w a d, .popc w a d,
        .andn w b a d, .bext w b a d, .bins w b a d, .addi n12 a d, .andi n12 a d, .ori n12 a d, .xori n12 a d, .shli n6 a d,
        .shri n6 a d, .srai n6 a d, .slti n12 a d, .lih n20 d, .addpc n20 d, .jal n20 d, .jalr n12 a d, .cMv d a, .cAddi d n6,
        .cAdd d a, .cSub d a, .cLi d n6, .cShli d n6, .cAndi d n6, .lox o d, .mfs n12 d, .rstat a d], StillFrame s d (exec i s) := by
  have result (n : Nat) (v : Word) (p : Bool) := result_stillFrame s n d v p
  simp only [List.forall_mem_cons]
  refine ⟨result _ _ _, result _ _ _, result _ _ _, result _ _ _, result _ _ _, result _ _ _, result _ _ _, result _ _ _,
    result _ _ _, result _ _ _, result _ _ _, result _ _ _, result _ _ _, result _ _ _, result _ _ _, result _ _ _,
    result _ _ _, result _ _ _, result _ _ _, result _ _ _, result _ _ _, result _ _ _, result _ _ _, result _ _ _, result _ _ _,
    result _ _ _, result _ _ _, result _ _ _, result _ _ _, result _ _ _, result _ _ _, result _ _ _, result _ _ _,
    result _ _ _, result _ _ _, result _ _ _, result _ _ _, result _ _ _, jumpLink_frame s _ d 4, execJalr_frame s n12 a d,
    result _ _ _, result _ _ _, result _ _ _, result _ _ _, result _ _ _, result _ _ _, result _ _ _, result _ _ _,
    execMfs_frame s n12 d, execRstat_frame s a d, List.forall_mem_nil _⟩

theorem branch_frames (s : State) (n12 : BitVec 12) (o8 : BitVec 8) (o11 : BitVec 11) (c : BitVec 3) (b a : BitVec 5) :
    ∀ i ∈ [Instr.beq n12 b a, .bne n12 b a, .blt n12 b a, .bge n12 b a, .bltn n12 b a, .bgen n12 b a, .bqt n12, .bqf n12, .cJ o11,
        .cBeqz c o8, .cBnez c o8, .cNop], StillFrame s 0 (exec i s) := by
  simp only [List.forall_mem_cons]
  exact ⟨branchIf_frame s _ _ _ _ _ _, branchIf_frame s _ _ _ _ _ _, branchIf_frame s _ _ _ _ _ _, branchIf_frame s _ _ _ _ _ _,
    branchIf_frame s _ _ _ _ _ _, branchIf_frame s _ _ _ _ _ _, branchBit_frame s _ _ _, branchBit_frame s _ _ _,
    jumpLink_frame s _ _ _, branchIf_frame s _ _ _ _ _ _, branchIf_frame s _ _ _ _ _ _, result_stillFrame s _ _ _ _, List.forall_mem_nil _⟩

theorem float_frames (s : State) (w u : BitVec 1) (r : BitVec 3) (b a d : BitVec 5) :
    ∀ i ∈ [Instr.fadd r b a d, .fsub r b a d, .fmul r b a d, .fdiv r b a d, .fsqrt r a d, .ffma r b a d, .fmin b a d, .fmax b a d,
        .fcmplt b a d, .fcmpeq b a d, .fcvti w u r a d, .fcvtf w u r a d], FrameOf s d (exec i s) := by
  have fp (v : Nat) (f : Flags) (p : Bool) : FrameOf s d (run s (.ok (s.fpResult d v f p))) := frameOf_answers (fpResult_regFrame s d v f p)
  simp only [List.forall_mem_cons]
  exact ⟨fpRound_frame s _ _ _ _, fpRound_frame s _ _ _ _, fpRound_frame s _ _ _ _, fpRound_frame s _ _ _ _, fpRound_frame s _ _ _ _,
    fpRound_frame s _ _ _ _, fp _ _ _, fp _ _ _, fp _ _ _, fp _ _ _, execFcvti_frame s w u r a d, fpRound_frame s _ _ _ _,
    List.forall_mem_nil _⟩


/-! ## Loads (08 R198, R199) -/

/-- What reading memory at an address may change of the activation and of memory. -/
structure Loaded (s t : State) : Prop where
  mem : s.mem.lineErrs = [] → t.mem = s.mem
  act : t.act = { s.act with wait := t.act.wait, early := t.act.early, acquires := t.act.acquires }

theorem Loaded.refl (s : State) : Loaded s s := ⟨fun _ => rfl, rfl⟩

theorem Loaded.trans {s t u : State} (h : Loaded s t) (g : Loaded t u) : Loaded s u where
  mem e := (g.mem (by rw [h.mem e, e])).trans (h.mem e)
  act := by rw [g.act, h.act]

theorem Settled.loaded {s t : State} (h : Settled s t) : Loaded s t := ⟨h.mem, by rw [h.act]⟩

theorem foldl_acquired (a : Act) (l : List Acquire) :
    ∃ e, l.foldl (fun a q => a.acquired q.mask) a = { a with early := e } := by
  induction l generalizing a with
  | nil => exact ⟨a.early, rfl⟩
  | cons q l ih =>
    obtain ⟨e, h⟩ := ih (a.acquired q.mask)
    refine ⟨e, h.trans ?_⟩
    unfold Act.acquired
    split <;> rfl

theorem settleAcquires_loaded (s : State) : Loaded s s.settleAcquires := by
  unfold State.settleAcquires
  split
  · exact Loaded.refl s
  · obtain ⟨e, h⟩ := foldl_acquired s.act (s.act.acquires.filter s.happened)
    refine ⟨fun _ => rfl, ?_⟩
    simp only [State.modAct_act, h]

theorem passEarly_loaded (s : State) (aid place n : Nat) : Loaded s (s.passEarly aid place n) := by
  refine ⟨fun _ => rfl, ?_⟩
  unfold State.passEarly
  dsimp only
  split <;> rfl

theorem transmit_act (s : State) (pkg : Nat) (t : Transaction) : (s.transmit pkg t).act = s.act := by
  unfold State.transmit
  split
  · rfl
  · split <;> rfl

theorem transmit_mem (s : State) (pkg : Nat) (t : Transaction) : (s.transmit pkg t).mem = s.mem := by
  unfold State.transmit
  split
  · rfl
  · split <;> rfl

theorem ask_loaded (s : State) (w : Who) (p : Phys) (n : Nat) (store : Bool) (tags : Tags) (entry : Option (Nat × Nat))
    (tx : Nat → Transaction) : Yields (s.ask w p n store tags entry tx) fun r => Loaded s r.2 := by
  refine Yields.after fun pkg => yields_ok.2 ⟨fun _ => ?_, ?_⟩
  · exact transmit_mem _ _ _
  · rw [transmit_act]

theorem readFar_loaded (s : State) (w : Who) (p : Phys) (n : Nat) : Yields (s.readFar w p n) fun r => Loaded s r.2.2 := by
  refine (readPhys_settled s w.die p n).bind ?_
  rintro ⟨bs, poison, t⟩ ht
  dsimp only
  split
  · exact yields_ok.2 (ht.loaded.trans (passEarly_loaded _ _ _ _))
  · exact yields_ok.2 (ht.loaded.trans (passEarly_loaded _ _ _ _))

theorem loadBytes_loaded (s : State) (w : Who) (va : Word) (n al : Nat) : Yields (s.loadBytes w va n al) fun r => Loaded s r.2 := by
  refine Yields.after fun ⟨a, spot⟩ => Yields.after fun _ => ?_
  have hs := settleAcquires_loaded s
  dsimp only
  split
  · exact Yields.after fun _ => Yields.after fun _ => Yields.after fun _ => yields_ok.2
      ((hs.trans (passEarly_loaded _ _ _ _)).trans (checkPool_settled _ _).loaded)
  · refine (translate_settled _ _ _ _ _ _ _ _).bind ?_
    rintro ⟨p, u⟩ hu
    have hu := hs.trans hu.loaded
    refine Yields.after fun _ => ?_
    dsimp only
    split
    · split
      · split
        · exact yields_ok.2 (hu.trans (Loaded.trans (t := u.dropRemote _) ⟨fun _ => rfl, rfl⟩ (passEarly_loaded _ _ _ _)))
        · exact yields_error _ _
      · refine Yields.after fun _ => (ask_loaded _ _ _ _ _ _ _ _).bind ?_
        rintro ⟨id, v⟩ hv
        exact yields_ok.2 ((hu.trans hv).trans ⟨fun _ => rfl, rfl⟩)
    · exact Yields.after fun v => yields_ok.2 hu
    · refine Yields.after fun _ => Yields.after fun _ => (readFar_loaded _ _ _ _).bind ?_
      rintro ⟨bs, poison, v⟩ hv
      exact yields_ok.2 (hu.trans hv)

/-- What a load changes: its destination, the pc and its record of waits, of what it read ahead and of acquire events. -/
structure LoadFrame (s t : State) (d : BitVec 5) : Prop where
  mem : s.mem.lineErrs = [] → t.mem = s.mem
  regs : ∀ x, x ≠ d → t.act.getX x = s.act.getX x ∧ t.act.xPoison x = s.act.xPoison x
  act : t.act = { s.act with
    x := t.act.x, xp := t.act.xp, pc := t.act.pc, wait := t.act.wait, memo := t.act.memo, issued := t.act.issued
    early := t.act.early, acquires := t.act.acquires }

theorem Loaded.loadFrame {s t : State} (h : Loaded s t) (d : BitVec 5) : LoadFrame s t d where
  mem := h.mem
  regs x _ := by
    rw [h.act]
    exact ⟨rfl, rfl⟩
  act := by rw [h.act]

theorem LoadFrame.result {s t : State} {d : BitVec 5} (h : LoadFrame s t d) (n : Nat) (v : Word) (p : Bool) :
    LoadFrame s (t.result n d v p) d where
  mem := h.mem
  regs x hx := by
    obtain ⟨hv, hp⟩ := h.regs x hx
    exact ⟨(t.act.getX_setX_ne v p hx).trans hv, (t.act.xPoison_setX_ne v p hx).trans hp⟩
  act := by
    rw [State.result_act]
    unfold Act.setX
    split <;> rw [h.act]

theorem loadInto_frame (s : State) (n : Nat) (signed : Bool) (off : Word) (a d : BitVec 5) (len : Nat) :
    Yields (loadInto n signed off a d len s) (LoadFrame s · d) := by
  refine Yields.after fun base => (loadBytes_loaded s s.me _ n n).bind ?_
  rintro ⟨r, u⟩ hu
  dsimp only
  split
  · exact yields_ok.2 (hu.loadFrame d)
  · exact yields_ok.2 ((hu.loadFrame d).result len _ _)

theorem acquired_eq (a : Act) (m : BitVec 17) : a.acquired m = { a with early := (a.acquired m).early } := by
  unfold Act.acquired
  split <;> rfl

theorem LoadFrame.acquired {s t : State} {d : BitVec 5} (h : LoadFrame s t d) (m : BitVec 17) :
    LoadFrame s (t.modAct (·.acquired m)) d where
  mem := h.mem
  regs x hx := by
    rw [State.modAct_act, acquired_eq]
    exact h.regs x hx
  act := by
    rw [State.modAct_act, acquired_eq, h.act]

/-- What O10 says of a load's outcome. -/
def LoadFrameOf (s : State) (d : BitVec 5) (o : Host.Outcome State Fault Refusal) : Prop := ∀ t, o = .next t →
  (∀ k, SameBytes s t k) ∧
  (t.act.live = true →
    (∀ x, x ≠ d → t.act.getX x = s.act.getX x ∧ t.act.xPoison x = s.act.xPoison x) ∧
    t.act = { s.act with
      x := t.act.x, xp := t.act.xp, pc := t.act.pc, wait := t.act.wait, memo := t.act.memo, issued := t.act.issued
      early := t.act.early, acquires := t.act.acquires })

theorem loadFrameOf_yields {s : State} {d : BitVec 5} {c : Chk State} (he : s.mem.lineErrs = []) (hc : Yields c (LoadFrame s · d)) :
    LoadFrameOf s d (run s c) := by
  intro t h
  obtain hf | hi := run_cases h fun _ _ => he
  · have hf := hc t hf
    exact ⟨sameBytes_of_mem (hf.mem he), fun _ => ⟨hf.regs, hf.act⟩⟩
  · refine ⟨sameBytes_of_mem hi.mem, fun hl => ?_⟩
    obtain ⟨w, hw⟩ := hi.act hl
    rw [hw]
    exact ⟨fun _ _ => ⟨rfl, rfl⟩, rfl⟩

theorem execLdaq_frame (s : State) (w : BitVec 1) (sc : BitVec 4) (b a d : BitVec 5) (he : s.mem.lineErrs = []) :
    LoadFrameOf s d (execLdaq w sc b a d s) := by
  refine loadFrameOf_yields he ?_
  refine Yields.after fun _ => Yields.after fun m => Yields.after fun mask => (loadInto_frame s _ true 0 a d 4).bind fun t ht => yields_ok.2 ?_
  split
  · exact ht
  · exact ht.acquired mask

theorem load_frames (s t : State) (n : BitVec 12) (w : BitVec 1) (sc : BitVec 4) (o : BitVec 5) (ca cd : BitVec 3) (b a d : BitVec 5)
    (he : s.mem.lineErrs = []) :
    let frame (i : Instr) (dst : BitVec 5) : Prop := exec i s = .next t →
      (∀ k, SameBytes s t k) ∧
      (t.act.live = true →
        (∀ x, x ≠ dst → t.act.getX x = s.act.getX x ∧ t.act.xPoison x = s.act.xPoison x) ∧
        t.act = { s.act with
          x := t.act.x, xp := t.act.xp, pc := t.act.pc, wait := t.act.wait, memo := t.act.memo, issued := t.act.issued
          early := t.act.early, acquires := t.act.acquires })
    frame (.ldb n a d) d ∧ frame (.ldh n a d) d ∧ frame (.ldw n a d) d ∧ frame (.ldd n a d) d ∧ frame (.ldbn n a d) d ∧
    frame (.ldhn n a d) d ∧ frame (.ldwn n a d) d ∧ frame (.ldaq w sc b a d) d ∧
    frame (.cLdd cd ca o) (8 + cd.zeroExtend 5) ∧ frame (.cLdw cd ca o) (8 + cd.zeroExtend 5) := by
  have load (k : Nat) (signed : Bool) (off : Word) (a d : BitVec 5) (len : Nat) :=
    loadFrameOf_yields he (loadInto_frame s k signed off a d len)
  exact ⟨load 1 true _ a d 4 t, load 2 true _ a d 4 t, load 4 true _ a d 4 t, load 8 true _ a d 4 t, load 1 false _ a d 4 t,
    load 2 false _ a d 4 t, load 4 false _ a d 4 t, execLdaq_frame s w sc b a d he t, load 8 true _ (primed ca) (primed cd) 2 t,
    load 4 true _ (primed ca) (primed cd) 2 t⟩

/-- Settles O10: a register form answers its result or does nothing; a load reads memory on the way, whose lines without error
stay as they are. -/
theorem formsFrame : Obligations.FormsFrame := by
  refine ⟨fun s t w u h r n6 n12 o8 o11 n20 o c b a d => ⟨?_, ?_, ?_, ?_⟩, fun s t n w sc o ca cd b a d he =>
    load_frames s t n w sc o ca cd b a d he⟩
  · intro i hi
    obtain ⟨hf, hs⟩ := register_frames s w n6 n12 n20 o b a d i hi
    exact ⟨hf t, hs t⟩
  · intro i hi
    obtain ⟨hf, hs⟩ := branch_frames s n12 o8 o11 c b a i hi
    exact ⟨hf t, hs t⟩
  · have queue (len : Nat) := qgetOp_frame s (4 + h.toNat) d len
    simp only [List.forall_mem_cons]
    exact ⟨⟨(queue 4).1 t, (queue 4).2 t⟩, ⟨(queue 2).1 t, (queue 2).2 t⟩, List.forall_mem_nil _⟩
  · exact fun i hi => float_frames s w u r b a d i hi t

end Sys2Proof.Machine
end

section
/-! Accesses to the local window: the order of the checks, loads, stores and atomics (04 R95, R97, R103; 08 R198 to R205, R212). -/

namespace Sys2Proof.Machine
open Sys2Proof.Safety

/-! ## The first check that fails (04 R103) -/

theorem ctlX_poisoned {s : State} {r : BitVec 5} (h : ¬Clean s r) : s.act.ctlX r = kill 10 := by
  have hp : s.act.xPoison r = true := by simpa [Clean] using h
  simp [Act.ctlX, hp]

section
variable {s : State} {va : Word} {n al : Nat} {acc : Access}

theorem check_noncanonical (h : 2 ^ 55 ≤ va.toNat) : s.check s.me va n al acc = kill 20 := by
  have hc : canonical va = kill 20 := if_neg (by omega)
  rw [State.check, hc]
  rfl

theorem check_misaligned (h : va.toNat < 2 ^ 55) (ha : va.toNat % al ≠ 0) : s.check s.me va n al acc = kill 5 := by
  have hc : canonical va = .ok va.toNat := if_pos h
  rw [State.check, hc, bind_ok, aligned, beq_eq_false_iff_ne.2 ha]
  rfl

/-- In the local window, an aligned access goes on to the window's and the region's checks. -/
theorem check_window (hw : va.toNat / 2 ^ 48 = 0x70) (ha : va.toNat % al = 0) :
    s.check s.me va n al acc = (do
      let p ← s.spot s.act.core va.toNat n
      s.regionCheck s.me p acc n
      .ok (va.toNat, p)) := by
  have hc : canonical va = .ok va.toNat := if_pos (by omega)
  rw [State.check, hc, bind_ok, aligned, need_of (beq_iff_eq.2 ha), bind_ok]
  rfl

theorem check_beyond (hw : va.toNat / 2 ^ 48 = 0x70) (ha : va.toNat % al = 0)
    (h : s.scratchBytes s.act.core < va.toNat % 2 ^ 48 + n) : s.check s.me va n al acc = kill 20 := by
  rw [check_window hw ha, State.spot, if_pos hw]
  dsimp only
  rw [if_neg (by omega)]
  rfl

theorem check_unowned (hw : va.toNat / 2 ^ 48 = 0x70) (ha : va.toNat % al = 0)
    (h : va.toNat % 2 ^ 48 + n ≤ s.scratchBytes s.act.core)
    (hr : ∀ r ∈ (s.regionsOf s.act.name s.act.run s.act.core).toList, r.allows acc (va.toNat % 2 ^ 48) n = false) :
    s.check s.me va n al acc = kill 2 := by
  have hn : ((s.regionsOf s.act.name s.act.run s.act.core).toList.any fun r => r.allows acc (va.toNat % 2 ^ 48) n) = false := by
    rw [List.any_eq_false]
    exact fun r hm => by rw [hr r hm]; exact Bool.false_ne_true
  rw [check_window hw ha, State.spot, if_pos hw]
  dsimp only
  rw [if_pos h, bind_ok]
  show (need ((s.regionsOf s.act.name s.act.run s.act.core).toList.any fun r => r.allows acc (va.toNat % 2 ^ 48) n) 2 >>= _) = _
  rw [hn]
  rfl

end

/-- What O12 says of an access of `n` bytes at an offset from xa, made in a computation. -/
def ChecksInOrder (s : State) (off : Word) (a : BitVec 5) (n : Nat) (acc : Access) (o : Host.Outcome State Fault Refusal) : Prop :=
  let va := (s.act.getX a + off).toNat
  let killed (reason : Nat) : Prop := o = .next (s.raise reason none)
  (¬Clean s a → killed 10) ∧
  (Clean s a → 2 ^ 55 ≤ va → killed 20) ∧
  (Clean s a → va < 2 ^ 55 → va % n ≠ 0 → killed 5) ∧
  (Clean s a → va / 2 ^ 48 = 0x70 → va % n = 0 →
    (s.scratchBytes s.act.core < va % 2 ^ 48 + n → killed 20) ∧
    (va % 2 ^ 48 + n ≤ s.scratchBytes s.act.core →
      (∀ r ∈ (s.regionsOf s.act.name s.act.run s.act.core).toList, r.allows acc (va % 2 ^ 48) n = false) → killed 2))

/-- An access that a poisoned base kills, and that its check kills, meets the checks in their order. -/
theorem checksInOrder {s : State} {off : Word} {a : BitVec 5} {n : Nat} {acc : Access} {c : Chk State} (hl : s.act.live = true)
    (hp : ¬Clean s a → c = kill 10)
    (hc : ∀ r, Clean s a → s.check s.me (s.act.getX a + off) n n acc = kill r → c = kill r) : ChecksInOrder s off a n acc (run s c) := by
  have killed {r : Nat} (h : c = kill r) : run s c = .next (s.raise r none) := by
    rw [h]
    exact run_kill hl
  exact ⟨fun h => killed (hp h), fun h h1 => killed (hc _ h (check_noncanonical h1)),
    fun h h1 h2 => killed (hc _ h (check_misaligned h1 h2)), fun h h1 h2 => ⟨fun h3 => killed (hc _ h (check_beyond h1 h2 h3)),
      fun h3 h4 => killed (hc _ h (check_unowned h1 h2 h3 h4))⟩⟩

theorem loadInto_checks {s : State} (hl : s.act.live = true) (n : Nat) (signed : Bool) (off : Word) (a d : BitVec 5) (len : Nat) :
    ChecksInOrder s off a n .load (run s (loadInto n signed off a d len s)) := by
  refine checksInOrder hl (fun hp => ?_) fun r hp hc => ?_
  · rw [loadInto, ctlX_poisoned hp]
    rfl
  · rw [loadInto, ctlX_clean hp, bind_ok, State.loadBytes, hc]
    rfl

theorem storeFrom_checks {s : State} (hl : s.act.live = true) (n : Nat) (off : Word) (a d : BitVec 5) (len : Nat) :
    ChecksInOrder s off a n .store (run s (storeFrom n off a d len s)) := by
  refine checksInOrder hl (fun hp => ?_) fun r hp hc => ?_
  · rw [storeFrom, ctlX_poisoned hp]
    rfl
  · simp only [storeFrom, ctlX_clean hp, bind_ok, State.issueStore, hc]
    rfl

/-- Settles O12: the base's check comes before the access's own, which come in their order. -/
theorem accessExceptions : Obligations.AccessExceptions := by
  intro s i a d hl
  have load (n : Nat) (signed : Bool) := loadInto_checks hl n signed (i.signExtend 64) a d 4
  have store (n : Nat) := storeFrom_checks hl n (i.signExtend 64) a d 4
  exact ⟨load 1 true, load 2 true, load 4 true, load 8 true, load 1 false, load 2 false, load 4 false, store 1, store 2, store 4, store 8⟩

/-! ## Loads and stores that are performed at once (08 R198 to R200, R212) -/

theorem sext_eq (n v : Nat) : sext n v = (BitVec.ofNat n v).signExtend 64 := rfl

theorem offUnits_eq {k : Nat} (o : BitVec k) (n : Nat) : offUnits o n = BitVec.ofNat 64 (n * o.toNat) := by
  rw [offUnits, Nat.mul_comm]

theorem maskX_clean {s : State} {b : BitVec 5} (h : MaskOk s b) :
    s.act.ctlX b = .ok (s.act.getX b) ∧ maskOf (s.act.getX b) = .ok (maskIn s b) := ⟨ctlX_clean h.1, maskOf_small h.2⟩

/-- An acquire event changes nothing when nothing was read ahead. -/
theorem acquired_none {a : Act} (h : a.early = []) (m : BitVec 17) : a.acquired m = a := by
  rw [Act.acquired, h]
  rfl

theorem loadInto_writes {s : State} {j : Instr} {n : Nat} {signed : Bool} {off : Word} {a d : BitVec 5} {len : Nat}
    (hl : s.act.live = true) (hp : (s.core s.act.core).ports = []) (hi : InOrder s) (hu : Unwritten s)
    (he : exec j s = run s (loadInto n signed off a d len s)) (hc : Clean s a) (h : LocalOk s (s.act.getX a + off) n n .load) :
    let r := s.readPlain (dieOf s.act.core) (localKey s (s.act.getX a + off)) n
    let v := leNat r.1
    Writes j s len d (if signed then (BitVec.ofNat (8 * n) v).signExtend 64 else BitVec.ofNat 64 v) r.2 := by
  intro r v
  rw [Writes, he, loadInto_local hc h hp hi hu, run_ok hl]
  rfl

theorem early_setX (a : Act) (d : BitVec 5) (v : Word) (p : Bool) : (a.setX d v p).early = a.early := by
  unfold Act.setX
  split <;> rfl

theorem ite_acquired {t : State} (h : t.act.early = []) (c : Prop) [Decidable c] (m : BitVec 17) :
    (if c then t else t.modAct (·.acquired m)) = t := by
  split
  · rfl
  · rw [State.modAct, acquired_none h]

/-- An acquiring load whose load comes to a result has no more to do when nothing was read ahead. -/
theorem execLdaq_writes {s : State} {w : BitVec 1} {sc : BitVec 4} {b a d : BitVec 5} (hl : s.act.live = true)
    (hp : (s.core s.act.core).ports = []) (hi : InOrder s) (hu : Unwritten s) (hs : sc.toNat ≤ 10) (hm : MaskOk s b) (hc : Clean s a)
    (h : LocalOk s (s.act.getX a + 0) (if w = 1 then 4 else 8) (if w = 1 then 4 else 8) .load) :
    let r := s.readPlain (dieOf s.act.core) (localKey s (s.act.getX a + 0)) (if w = 1 then 4 else 8)
    Writes (.ldaq w sc b a d) s 4 d ((BitVec.ofNat (8 * if w = 1 then 4 else 8) (leNat r.1)).signExtend 64) r.2 := by
  intro r
  show execLdaq w sc b a d s = _
  obtain ⟨hb, hk⟩ := maskX_clean hm
  unfold execLdaq
  rw [need_of (decide_eq_true hs), hb, loadInto_local hc h hp hi hu]
  simp only [bind_ok, hk]
  rw [run_ok hl, ite_acquired ((early_setX s.act d _ _).trans hi.2.1), if_pos trivial, sext_eq]

theorem storeFrom_writes {s : State} {j : Instr} {n : Nat} {off : Word} {a d : BitVec 5} {len : Nat} (hl : s.act.live = true)
    (q : Quiet s) (he : exec j s = run s (storeFrom n off a d len s)) (hc : Clean s a) (h : LocalOk s (s.act.getX a + off) n n .store) :
    exec j s = .next ((s.writeNow 0 (localKey s (s.act.getX a + off)) (leBytes n (s.act.getX d).toNat) (s.act.xPoison d)).advance len) := by
  rw [he, storeFrom_local hc h q, run_ok hl]

theorem execStrl_writes {s : State} {w : BitVec 1} {sc : BitVec 4} {b a d : BitVec 5} (hl : s.act.live = true) (q : Quiet s)
    (hs : sc.toNat ≤ 10) (hm : MaskOk s b) (hc : Clean s a)
    (h : LocalOk s (s.act.getX a + 0) (if w = 1 then 4 else 8) (if w = 1 then 4 else 8) .store) :
    exec (.strl w sc b a d) s = .next ((s.writeNow 0 (localKey s (s.act.getX a + 0)) (leBytes (if w = 1 then 4 else 8) (s.act.getX d).toNat)
      (s.act.xPoison d)).advance 4) := by
  obtain ⟨hb, hk⟩ := maskX_clean hm
  have e : s.act.getX a + 0 = s.act.getX a := BitVec.add_zero _
  rw [e] at h ⊢
  show execStrl w sc b a d s = _
  unfold execStrl
  simp only [need_of (decide_eq_true hs), hb, hk, ctlX_clean hc, bind_ok, issueStore_local h q]
  rw [run_ok hl]

/-- Settles O17: each form makes its access as the general load or store does. -/
theorem localLoadsAndStores : Obligations.LocalLoadsAndStores := by
  refine ⟨fun s i w sc o ca cd b a d hl hp hi hu => ⟨?_, ?_, ?_, ?_, ?_, ?_, ?_, ?_, ?_, ?_⟩,
    fun s i w sc o ca cd b a d hl q => ⟨?_, ?_, ?_, ?_, ?_, ?_, ?_⟩⟩
  · exact loadInto_writes hl hp hi hu (show _ = execLdb i a d s from rfl)
  · exact loadInto_writes hl hp hi hu (show _ = execLdh i a d s from rfl)
  · exact loadInto_writes hl hp hi hu (show _ = execLdw i a d s from rfl)
  · exact loadInto_writes hl hp hi hu (show _ = execLdd i a d s from rfl)
  · exact loadInto_writes hl hp hi hu (show _ = execLdbn i a d s from rfl)
  · exact loadInto_writes hl hp hi hu (show _ = execLdhn i a d s from rfl)
  · exact loadInto_writes hl hp hi hu (show _ = execLdwn i a d s from rfl)
  · rw [← offUnits_eq]
    exact loadInto_writes hl hp hi hu (show _ = execCLdd cd ca o s from rfl)
  · rw [← offUnits_eq]
    exact loadInto_writes hl hp hi hu (show _ = execCLdw cd ca o s from rfl)
  · exact fun hs hm hc h => execLdaq_writes hl hp hi hu hs hm hc h
  · exact storeFrom_writes hl q (show _ = execStb i a d s from rfl)
  · exact storeFrom_writes hl q (show _ = execSth i a d s from rfl)
  · exact storeFrom_writes hl q (show _ = execStw i a d s from rfl)
  · exact storeFrom_writes hl q (show _ = execStd i a d s from rfl)
  · rw [← offUnits_eq]
    exact storeFrom_writes hl q (show _ = execCStd cd ca o s from rfl)
  · rw [← offUnits_eq]
    exact storeFrom_writes hl q (show _ = execCStw cd ca o s from rfl)
  · exact fun hs hm hc h => execStrl_writes hl q hs hm hc h


/-! ## Atomics (08 R203 to R205) -/

theorem intOf_ofNat {n v : Nat} (hn : 0 < n) (hv : v < 2 ^ n) : intOf true n v = (BitVec.ofNat n v).toInt := by
  rw [← intOf_signed hn, BitVec.toNat_ofNat, Nat.mod_eq_of_lt hv]

/-- Once a store is noted nothing more happens when nothing was read ahead and no injection is armed. -/
theorem afterWrite_quiet {s : State} {core : Nat} (hi : InOrder s) (hu : (vget s.logs (dieOf core)).armed = []) (c addr n aid place m : Nat) :
    ((s.noteStore c addr n).passEarly aid place m).checkPool core = s := by
  obtain ⟨-, he, ha⟩ := hi
  rw [noteStore_none he ha, passEarly_none he ha, checkPool_unarmed hu]

theorem writeNow_pool_inOrder {s : State} (hi : InOrder s) (core off : Nat) (bs : List Byte) :
    InOrder (s.writeNow 0 (poolKey core off) bs false) := by
  obtain ⟨h1, h2, -⟩ := writeNow_pool s 0 core off bs false
  unfold InOrder
  rw [h1, h2]
  exact hi

/-- The outcome of an atomic in the local window on clean bytes, from what it writes, if anything. -/
def amoAnswer (s : State) (k n old : Nat) : Option Nat → Option (Nat × Bool) × State
  | some new => (some (old, false), s.writeNow 0 k (leBytes n new) false)
  | none => (some (old, false), s)

theorem amoAnswer_fst (s : State) (k n old : Nat) (new : Option Nat) : (amoAnswer s k n old new).1 = some (old, false) := by
  cases new <;> rfl

theorem amoPoison_clean (op : BitVec 3) : amoPoison op false false = .ok false := by
  unfold amoPoison
  split <;> simp

theorem amoNow_local {s : State} {va : Word} {op : BitVec 3} {narrow : Bool} {n : Nat} {v c : Word} {order : BitVec 2}
    {scope before : Nat} {tags : Tags} {wait : Bool} (hn : (if narrow then 32 else 64) = 8 * n) (h : LocalOk s va n n .atomic)
    (q : Quiet s) (hp : (s.readPlain (dieOf s.act.core) (localKey s va) n).2 = false) :
    s.amoNow s.me va.toNat op narrow v c false order scope tags wait before =
      .ok (amoAnswer s (localKey s va) n (leNat (s.readPlain (dieOf s.act.core) (localKey s va) n).1)
        (amoValue op (8 * n) (leNat (s.readPlain (dieOf s.act.core) (localKey s va) n).1) (v.toNat % 2 ^ (8 * n)) (c.toNat % 2 ^ (8 * n)))) := by
  have hd : 8 * n / 8 = n := Nat.mul_div_cancel_left n (by decide)
  have hpair : s.readPlain (dieOf s.act.core) (poolKey s.act.core (va.toNat % 2 ^ 48)) n =
      ((s.readPlain (dieOf s.act.core) (localKey s va) n).1, false) := Prod.ext rfl hp
  unfold State.amoNow State.amoPool
  simp only [hn, hd, word_toNat, check_local h, bind_ok, awaitBoard_quiet q.1, hpair, Bool.or_self, amoPoison_clean]
  cases amoValue op (8 * n) (leNat (s.readPlain (dieOf s.act.core) (localKey s va) n).1) (v.toNat % 2 ^ (8 * n)) (c.toNat % 2 ^ (8 * n)) with
  | none =>
    simp only [bind_ok, afterWrite_quiet q.2.2.2 h.1]
    rfl
  | some new =>
    have hl : (vget (s.writeNow 0 (poolKey s.act.core (va.toNat % 2 ^ 48)) (leBytes n new) false).logs (dieOf s.act.core)).armed = [] := by
      rw [(writeNow_pool s 0 _ _ _ _).2.2]
      exact h.1
    simp only [bind_ok, afterWrite_quiet (writeNow_pool_inOrder q.2.2.2 _ _ _) hl]
    rfl

theorem performed_nil (s : State) (scope : Nat) : s.performed [] scope = true := rfl

theorem isLocal_local {core va : Nat} (h : va / 2 ^ 48 = 0x70) : isLocal core va = true := by
  rw [isLocal, h]
  rfl

/-- An atomic with a destination and no order, committed, in the local window: the state that it leaves, then its result. -/
theorem amoOp_local {s : State} {op : BitVec 3} {w : BitVec 1} {sc : BitVec 4} {b a d : BitVec 5} {n : Nat} {commit : State → Chk State}
    (hw : (if (w == 1) = true then 32 else 64) = 8 * n) (hr : s.act.released = true) (q : Quiet s)
    (hs : sc.toNat ≤ 10) (hd : d ≠ 0) (ha : Clean s a) (hb : Clean s b) (ho : CleanO s 0) (h : LocalOk s (s.act.getX a) n n .atomic)
    (hp : (s.readPlain (dieOf s.act.core) (localKey s (s.act.getX a)) n).2 = false) :
    let old := leNat (s.readPlain (dieOf s.act.core) (localKey s (s.act.getX a)) n).1
    let new := amoValue op (8 * n) old ((s.act.getX b).toNat % 2 ^ (8 * n))
      ((if op = 7 then s.act.getO 0 else 0).toNat % 2 ^ (8 * n))
    amoOp op w sc 0 b a d commit s = .ok ((amoAnswer s (localKey s (s.act.getX a)) n old new).2.result 4 d
      ((BitVec.ofNat (8 * n) old).signExtend 64) false) := by
  intro old new
  have hc : (if op = 7 then s.act.ctlO 0 else (.ok 0 : Chk Word)) = .ok (if op = 7 then s.act.getO 0 else 0) := by
    split
    · exact ctlO_clean ho
    · rfl
  have hb' : s.act.xPoison b = false := hb
  have hr' : (s.act.committed && s.act.staged.isEmpty) = true := hr
  have hl : isLocal s.act.core (s.act.getX a).toNat = true := isLocal_local h.2.1
  have hn : (if w = 1 then 32 else 64) / 8 = n := by
    have : (if w = 1 then 32 else 64) = 8 * n := by simpa using hw
    omega
  have hn' : s.awaited s.me = none := by simp [State.awaited, remote_quiet q.1]
  have hg : s.gates s.act = [] := gates_none q.2.2.2.1
  have hm : amoMask 0 s = .ok 0 := rfl
  have h1 : (0 : BitVec 2).getLsbD 1 = false := rfl
  have h0 : (0 : BitVec 2).getLsbD 0 = false := rfl
  simp only [amoOp, need_of (decide_eq_true hs), ctlX_clean ha, bind_ok, hm, hc, hb', hn, check_local h,
    awaitFences_quiet q.2.1 q.2.2.2.1, if_neg hd, hr', Bool.not_true, Bool.false_eq_true, if_false, hl, if_true, hn', Option.isNone_none,
    awaitEarlier_quiet q.1 q.2.2.1, behind_quiet q.1, hg, h1, h0, List.nil_append, performed_nil, Bool.not_false, Bool.and_self, await_true,
    awaitCounts_quiet q.1, amoNow_local hw h q hp]
  have hv : (if w = 1 then sext 32 old else BitVec.ofNat 64 old) = (BitVec.ofNat (8 * n) old).signExtend 64 := by
    split at hn
    next h32 =>
      obtain rfl : n = 4 := by omega
      rw [if_pos h32, sext_eq]
    next h32 =>
      obtain rfl : n = 8 := by omega
      rw [if_neg h32, BitVec.signExtend_eq]
  simp only [amoAnswer_fst, Bool.or_self]
  rw [hv]


theorem leNat_readPlain_lt (s : State) (die k n : Nat) : leNat (s.readPlain die k n).1 < 2 ^ (8 * n) := by
  have h := leNat_lt (s.readPlain die k n).1
  rw [readPlain_length] at h
  rwa [Nat.pow_mul]

/-- Settles O18: the atomic's access is made at once, and its old value is sign-extended from its width. -/
theorem localAtomics : Obligations.LocalAtomics := by
  intro s w sc b a d hl hr q hs hd ha hb ho n h k r hp old v cmp int answer amo
  have hw : (if (w == 1) = true then 32 else 64) = 8 * n := by
    by_cases hw : w = 1 <;> simp [n, hw]
  have hn : 0 < 8 * n := by
    rw [← hw]
    split <;> decide
  have op (op : BitVec 3) := (congrArg (run s) (amoOp_local (op := op) (commit := State.commitStep) hw hr q hs hd ha hb ho h hp)).trans (run_ok hl)
  have ho : intOf true (8 * n) old = int old := intOf_ofNat hn (leNat_readPlain_lt s _ _ n)
  have hv : intOf true (8 * n) v = int v := intOf_ofNat hn (Nat.mod_lt _ (Nat.two_pow_pos _))
  refine ⟨op 0, op 1, op 2, op 3, op 4, ?_, ?_, ?_⟩
  · rw [← ho, ← hv]
    exact op 5
  · rw [← ho, ← hv]
    exact op 6
  · refine (op 7).trans ?_
    show Host.Outcome.next (answer (amoAnswer s k n old (if old = cmp then some v else none)).2) = _
    split <;> rfl

end Sys2Proof.Machine
end

section
/-! Cores and their queues: one rule per operation. -/

namespace Sys2Proof.Machine
open Sys2Proof.Safety

/-! ## Cores -/

theorem core_setCore (s : State) (c : Nat) (v : Core) (k : Nat) : (s.setCore c v).core k = if k = c then v else s.core k :=
  look_put _ c k v s.cores

theorem core_modCore (s : State) (c : Nat) (f : Core → Core) (k : Nat) :
    (s.modCore c f).core k = if k = c then f (s.core c) else s.core k := core_setCore s c _ k

@[simp] theorem core_modCore_self (s : State) (c : Nat) (f : Core → Core) : (s.modCore c f).core c = f (s.core c) := by
  rw [core_modCore, if_pos rfl]

theorem core_modCore_ne (s : State) {c k : Nat} (f : Core → Core) (h : k ≠ c) : (s.modCore c f).core k = s.core k := by
  rw [core_modCore, if_neg h]

/-! ## An entry put in a queue (05 R124) -/

/-- An entry that comes to the head keeps all but its wait and its gate. -/
theorem headed_eq (c : Core) (e : Entry) (t : Nat) : ∃ w g, c.headed e t = { e with waitSince := w, gateMet := g } := by
  unfold Core.headed
  split
  · exact ⟨_, _, rfl⟩
  · exact ⟨e.waitSince, e.gateMet, rfl⟩

/-- The entry that a core's queue holds after `enqueue`. -/
def Core.joined (c : Core) (q : Nat) (e : Entry) (time : Nat) : Entry :=
  if (vget c.queues q).isEmpty then c.headed e time else e

theorem joined_eq (c : Core) (q : Nat) (e : Entry) (t : Nat) : ∃ w g, c.joined q e t = { e with waitSince := w, gateMet := g } := by
  unfold Core.joined
  split
  · exact headed_eq c e t
  · exact ⟨e.waitSince, e.gateMet, rfl⟩

theorem enqueue_eq (s : State) (core q : Nat) (e : Entry) : s.enqueue core q e =
    s.modCore core fun c => { c with queues := vset c.queues q (vget c.queues q ++ [c.joined q e s.env.time]) } := rfl

section
variable (s : State) {core q : Nat} (e : Entry)

theorem enqueue_queue_self (hq : q < 7) : vget ((s.enqueue core q e).core core).queues q =
    vget (s.core core).queues q ++ [(s.core core).joined q e s.env.time] := by
  rw [enqueue_eq, core_modCore_self, vget_vset_self _ _ _ hq]

theorem enqueue_queue_ne {n : Nat} (h : n ≠ q) : vget ((s.enqueue core q e).core core).queues n = vget (s.core core).queues n := by
  rw [enqueue_eq, core_modCore_self, vget_vset_ne _ _ _ _ h.symm]

theorem enqueue_core_ne {c : Nat} (h : c ≠ core) : (s.enqueue core q e).core c = s.core c := core_modCore_ne s _ h

end

end Sys2Proof.Machine
end

section
/-! Fences and guard slots with nothing outstanding; QFENCE and the queues between the streams (05 R125; 08 R206 to R213; 09 R225). -/

namespace Sys2Proof.Machine
open Sys2Proof.Safety

/-! ## Fences (08 R206, R207) -/

/-- With nothing outstanding a release fence is only recorded, before COMMIT. -/
theorem fence_quiet {s : State} (h : s.counted = []) (m : BitVec 17) (sc : Nat) :
    s.fence m sc = if s.act.committed then s else s.modAct fun x => { x with staged := x.staged ++ [.fence m sc] } := by
  simp only [State.fence, waitsFor_quiet h, List.isEmpty_nil, if_true]

theorem acquireFence_none {a : Act} (ha : a.acquires = []) (he : a.early = []) (m : BitVec 17) : a.acquireFence m = a := by
  cases a
  cases ha
  cases he
  rfl

theorem acquireFence_inOrder {s : State} (h : InOrder s) (m : BitVec 17) : s.settleAcquires.modAct (·.acquireFence m) = s := by
  rw [settleAcquires_none h.1, State.modAct, acquireFence_none h.1 h.2.1]

theorem fence_inOrder {s : State} (h : InOrder s) (hq : s.counted = []) (m : BitVec 17) (sc : Nat) : InOrder (s.fence m sc) := by
  rw [fence_quiet hq]
  split <;> exact h

/-! ## Guard slots (08 R209 to R213) -/

theorem awaitSlot_quiet {s : State} (h : s.counted = []) (n : Nat) : s.awaitSlot n = .ok () := by
  simp [State.awaitSlot, outstanding_quiet h]

theorem loadRecord_local {s : State} {va : Word} {n al : Nat} {bs : List Byte} (h : LocalOk s va n al .load)
    (hp : (s.core s.act.core).ports = []) (hi : InOrder s) (ho : Unwritten s)
    (hb : s.readPlain (dieOf s.act.core) (localKey s va) n = (bs, false)) : s.loadRecord s.me va n al = .ok (some bs, s) := by
  rw [State.loadRecord, loadBytes_local h hp hi ho, hb]
  rfl

/-- Settles O19: nothing outstanding is nothing to wait for. -/
theorem fencesAndGuards : Obligations.FencesAndGuards := by
  refine ⟨fun s m r sc g b a d hl hq hi => ⟨fun hs => ?_, fun ha hb h1 h2 => ?_, ?_, fun ha => ?_⟩,
    fun s g a bs t hl hq hp hi hu ha h hr ht => ?_⟩
  · have hn := need_of (r := 3) (decide_eq_true hs)
    have hf : s.fence (maskBits m r) sc.toNat =
        if s.act.committed then s else s.modAct fun x => { x with staged := x.staged ++ [.fence (r ++ m) sc.toNat] } := fence_quiet hq _ _
    refine ⟨?_, ?_, ?_⟩
    · show execFenceRel m r sc s = _
      rw [execFenceRel, hn, bind_ok, run_ok hl, hf]
    · show execFenceFull m r sc s = _
      rw [execFenceFull, hn, bind_ok, run_ok hl, acquireFence_inOrder (fence_inOrder hi hq _ _), hf]
    · show execFenceAcq m r sc s = _
      rw [execFenceAcq, hn, bind_ok, run_ok hl, acquireFence_inOrder hi]
  · show execRdef b a g s = _
    rw [execRdef, ctlX_clean ha, bind_ok, ctlX_clean hb, bind_ok, need_of (decide_eq_true ⟨h2, h1⟩), bind_ok, awaitSlot_quiet hq,
      bind_ok, run_ok hl]
  · show execRclr g s = _
    rw [execRclr, awaitSlot_quiet hq, bind_ok, run_ok hl]
  · show execRstat a d s = _
    rw [execRstat, need_of (decide_eq_true ha), bind_ok, run_ok hl]
    simp only [outstanding_quiet hq, Nat.zero_mul, Nat.add_zero] <;> rfl
  · show execHdef a g s = _
    rw [execHdef, ctlX_clean ha, bind_ok, awaitSlot_quiet hq, bind_ok, loadRecord_local h hp hi hu hr, bind_ok]
    dsimp only
    rw [ht, run_ok hl]

/-! ## QFENCE (05 R125) -/

/-- One entry put in each of several queues of a core. -/
def State.enqueueAll (s : State) (core : Nat) (e : Entry) (qs : List Nat) : State := qs.foldl (fun s n => s.enqueue core n e) s

theorem enqueueAll_queue_notMem (s : State) (core : Nat) (e : Entry) {qs : List Nat} {n : Nat} (h : n ∉ qs) :
    vget ((s.enqueueAll core e qs).core core).queues n = vget (s.core core).queues n := by
  induction qs generalizing s with
  | nil => rfl
  | cons q qs ih =>
    obtain ⟨hq, hn⟩ := not_or.1 (List.mem_cons.not.1 h)
    exact (ih (s.enqueue core q e) hn).trans (enqueue_queue_ne s e hq)

theorem enqueueAll_queue_mem (s : State) (core : Nat) (e : Entry) {qs : List Nat} {n : Nat} (hd : qs.Nodup) (h : n ∈ qs) (hn : n < 7) :
    ∃ w g, vget ((s.enqueueAll core e qs).core core).queues n =
      vget (s.core core).queues n ++ [{ e with waitSince := w, gateMet := g }] := by
  induction qs generalizing s with
  | nil => cases h
  | cons q qs ih =>
    obtain ⟨hq, hd⟩ := List.nodup_cons.1 hd
    rcases List.mem_cons.1 h with rfl | h
    · obtain ⟨w, g, hj⟩ := joined_eq (s.core core) n e s.env.time
      refine ⟨w, g, (enqueueAll_queue_notMem (s.enqueue core n e) core e hq).trans ?_⟩
      rw [enqueue_queue_self s e hn, hj]
    · obtain ⟨w, g, hi⟩ := ih (s.enqueue core q e) hd h
      refine ⟨w, g, hi.trans ?_⟩
      rw [enqueue_queue_ne s e fun hnq : n = q => hq (hnq ▸ h)]

theorem enqueueAll_frame (s : State) (core : Nat) (e : Entry) (qs : List Nat) :
    (s.enqueueAll core e qs).act = s.act ∧ (s.enqueueAll core e qs).mem = s.mem ∧
      ∀ c, c ≠ core → (s.enqueueAll core e qs).core c = s.core c := by
  induction qs generalizing s with
  | nil => exact ⟨rfl, rfl, fun _ _ => rfl⟩
  | cons q qs ih =>
    obtain ⟨ha, hm, hc⟩ := ih (s.enqueue core q e)
    exact ⟨ha, hm, fun c h => (hc c h).trans (enqueue_core_ne s e h)⟩

/-- The queues that QFENCE names and the core has. -/
def fenced (core : Nat) (q : BitVec 7) : List Nat := (List.range 7).filter fun n => q.getLsbD n && !(n == 4 && isService core)

/-- The join that QFENCE puts in each. -/
def joinEntry (s : State) : Entry :=
  { id := s.env.nextId, aid := s.act.aid, actor := s.act.name, job := s.act.job, op := .join s.env.nextId, early := !s.act.committed }

theorem execQfence_eq {s : State} {q : BitVec 7} (hl : s.act.live = true)
    (hr : ∀ n ∈ fenced s.act.core q, (vget (s.core s.act.core).queues n).length < 16) :
    execQfence q s = .next ((s.fresh.2.enqueueAll s.act.core (joinEntry s) (fenced s.act.core q)).advance 4) := by
  have ha : ((fenced s.act.core q).all (s.room s.act.core)) = true :=
    List.all_eq_true.2 fun n hn => decide_eq_true (hr n hn)
  show run s (await ((fenced s.act.core q).all (s.room s.act.core)) >>= _) = _
  rw [ha]
  exact run_ok hl

theorem mem_fenced {core n : Nat} {q : BitVec 7} (hn : n < 7) :
    n ∈ fenced core q ↔ (q.getLsbD n && !(n == 4 && isService core)) = true := by
  rw [fenced, List.mem_filter, List.mem_range]
  exact and_iff_right hn

/-- Settles O20: the joins enter distinct queues one after another; a queue between the streams takes at its tail and gives its
head. -/
theorem queueFenceAndMoves : Obligations.QueueFenceAndMoves := by
  refine ⟨fun s q hl => ?_, fun s a d q h hl => ⟨fun hq => ?_, fun v p rest hq => ?_⟩⟩
  · intro has hr
    have hmem {n : Nat} (hn : n ∈ fenced s.act.core q) : n < 7 := List.mem_range.1 (List.mem_filter.1 hn).1
    refine ⟨_, execQfence_eq hl fun n hn => hr n (hmem hn) ((mem_fenced (hmem hn)).1 hn), ?_⟩
    obtain ⟨ha, hm, hc⟩ := enqueueAll_frame s.fresh.2 s.act.core _ (fenced s.act.core q)
    refine ⟨?_, hm, ⟨s.env.nextId, fun n hn => ⟨fun h0 => ?_, fun h1 => ?_⟩⟩, hc⟩
    · unfold State.advance
      rw [ha]
      rfl
    · exact enqueueAll_queue_notMem s.fresh.2 _ _ fun hm =>
        Bool.false_ne_true (h0.symm.trans ((mem_fenced hn).1 hm))
    · obtain ⟨w, g, he⟩ := enqueueAll_queue_mem s.fresh.2 s.act.core _ (List.nodup_range.filter _) ((mem_fenced hn).2 h1) hn
      exact ⟨_, he, rfl, rfl⟩
  · have put (len : Nat) : run s (qputOp q.toNat a len s) = .next ((s.modAct fun x =>
        x.setQueue q.toNat (s.act.queue q.toNat ++ [(s.act.getX a, s.act.xPoison a)])).advance len) := by
      rw [qputOp, await_of (decide_eq_true hq), bind_ok, run_ok hl]
    exact ⟨put 4, put 2⟩
  · have get (len : Nat) : run s (qgetOp (4 + h.toNat) d len s) =
        .next ((s.modAct fun x => x.setQueue (4 + h.toNat) rest).result len d v p) := by
      rw [qgetOp, hq]
      exact run_ok hl
    exact ⟨get 4, get 2⟩

end Sys2Proof.Machine
end

section
/-! Special registers, traps and privilege (08 R214 to R218, R223, R224; 16 R362, R369 to R372). -/

namespace Sys2Proof.Machine
open Sys2Proof.Safety

/-! ## Special registers -/

theorem awaitIf_of {b c : Bool} {f : Unit → Chk State} (hc : b = true → c = true) : (if b then await c >>= f else f ()) = f () := by
  split
  next hb => rw [await_of (hc hb), bind_ok]
  next => rfl

section
variable {s : State} (hl : s.act.live = true)
include hl

/-- A register that needs no wait, or whose E-stream is idle, is read. -/
theorem mfs_user {n : BitVec 12} {d : BitVec 5} {v : Word} (hn : n.toNat < 0x800)
    (he : meetsE n.toNat = true → s.act.eseq.idle = true) (hv : s.readUser n.toNat = some v) : Writes (.mfs n d) s 4 d v false := by
  show execMfs n d s = _
  unfold execMfs
  rw [if_neg (by omega), State.awaitE]
  refine (congrArg (run s) (awaitIf_of he)).trans ?_
  dsimp only
  rw [hv]
  exact run_ok hl

theorem mfs_privileged {n : BitVec 12} {d : BitVec 5} {v : Word} (hn : 0x800 ≤ n.toNat) (hs : s.act.service = true)
    (hv : s.readPrivileged n.toNat = some v) : Writes (.mfs n d) s 4 d v false := by
  show execMfs n d s = _
  unfold execMfs
  rw [if_pos hn, State.service, need_of hs, bind_ok, hv]
  exact run_ok hl

theorem mts_user {n : BitVec 12} {a : BitVec 5} {t : State} (hn : n.toNat < 0x800) (ha : Clean s a)
    (he : meetsE n.toNat = true → s.act.eseq.idle = true) (ht : s.writeUser n.toNat (s.act.getX a) = .ok t) :
    exec (.mts n a) s = .next (t.advance 4) := by
  show execMts n a s = _
  unfold execMts
  rw [if_neg (by omega), ctlX_clean ha, bind_ok, if_neg (by omega), State.awaitE]
  refine (congrArg (run s) (awaitIf_of he)).trans ?_
  rw [ht]
  exact run_ok hl

theorem mts_privileged {n : BitVec 12} {a : BitVec 5} {t : State} (hn : 0x800 ≤ n.toNat) (hs : s.act.service = true) (ha : Clean s a)
    (ht : s.writePrivileged n.toNat (s.act.getX a) = .ok t) : exec (.mts n a) s = .next (t.advance 4) := by
  show execMts n a s = _
  unfold execMts
  rw [if_pos hn, State.service, need_of hs, bind_ok, ctlX_clean ha, bind_ok, if_pos hn, ht]
  exact run_ok hl

end

theorem at_zero {n : Nat} (v : BitVec n) : at_ v 0 = v.zeroExtend 64 := BitVec.shiftLeft_zero _

/-- Settles O21: by the register's number, its value or its write. -/
theorem specialRegisters : Obligations.SpecialRegisters := by
  refine ⟨fun s n o a d hl => ⟨run_ok hl, fun ha => ?_, mfs_user hl (by decide) (fun h => absurd h (by decide)) rfl, mfs_user hl (by decide) (fun h => absurd h (by decide)) rfl,
    fun he => ⟨?_, ?_, mfs_user hl (by decide) (fun _ => he) rfl⟩, fun hn he v hv => mfs_user hl hn (fun _ => he) hv,
    fun hn hs v hv => mfs_privileged hl hn hs hv⟩, fun s a hl ha => ?_⟩
  · show execMox o a s = _
    rw [execMox, ctlX_clean ha, bind_ok, run_ok hl]
  · rw [← at_zero]
    exact mfs_user hl (by decide) (fun _ => he) rfl
  · rw [← at_zero]
    exact mfs_user hl (by decide) (fun _ => he) rfl
  · intro v
    refine ⟨fun he => ⟨mts_user hl (by decide) ha (fun _ => he) rfl, fun h4 => mts_user hl (by decide) ha (fun _ => he) ?_⟩,
      mts_user hl (by decide) ha (fun h => absurd h (by decide)) rfl, fun hs => ⟨fun h47 => mts_privileged hl (by decide) hs ha ?_,
      fun h16 h0 => mts_privileged hl (by decide) hs ha ?_, fun h32 => mts_privileged hl (by decide) hs ha ?_,
      fun h16 hp => mts_privileged hl (by decide) hs ha ?_⟩⟩
    · have h4 : bits v.toNat 0 3 ≤ 4 := h4
      show (need (decide (bits v.toNat 0 3 ≤ 4)) 3 >>= _) = _
      rw [need_of (decide_eq_true h4), bind_ok]
    · show (need (decide (v.toNat ≤ 47)) 3 >>= _) = _
      rw [need_of (decide_eq_true h47), bind_ok]
    · show (need (decide (v.toNat < 2 ^ 16)) 3 >>= fun _ => need (v != 0) 3 >>= _) = _
      rw [need_of (decide_eq_true h16), bind_ok, need_of (bne_iff_ne.2 h0), bind_ok]
    · show (need (decide (v.toNat < 2 ^ 32)) 3 >>= _) = _
      rw [need_of (decide_eq_true h32), bind_ok]
    · show (need (decide (v.toNat < 2 ^ 16)) 3 >>= fun _ => need ((s.part s.act.psel.toNat).state == 0) 3 >>= _) = _
      rw [need_of (decide_eq_true h16), bind_ok, need_of (beq_iff_eq.2 hp), bind_ok]

/-! ## Traps and privilege -/

/-- Settles O22: the privilege is the first thing that a service form checks. -/
theorem trapsAndPrivilege : Obligations.TrapsAndPrivilege := by
  refine ⟨fun s i b a hl => ⟨fun ha hb => ?_, run_kill hl⟩, fun s n a d hl => ⟨fun hn hs => ⟨?_, ?_⟩, fun ha => ⟨?_, ?_⟩⟩,
    fun s l b a d hl hs => ?_⟩
  · show execTrap b a s = _
    rw [execTrap, ctlX_clean ha, bind_ok, ctlX_clean hb, bind_ok]
    split
    · exact run_ok hl
    · exact run_kill hl
  · show execMfs n d s = _
    unfold execMfs
    rw [if_pos hn, State.service, hs]
    exact run_kill hl
  · show execMts n a s = _
    unfold execMts
    rw [if_pos hn, State.service, hs]
    exact run_kill hl
  · show execMts 0 a s = _
    unfold execMts
    rw [if_neg (by decide), ctlX_clean ha]
    exact run_kill hl
  · show execMts 0x010 a s = _
    unfold execMts
    rw [if_neg (by decide), ctlX_clean ha]
    exact run_kill hl
  · have refuse (f : Unit → Chk State) : run s (s.service >>= f) = .next (s.raise 19 none) := by
      rw [State.service, hs]
      exact run_kill hl
    simp only [List.forall_mem_cons]
    exact ⟨refuse _, refuse _, refuse _, refuse _, refuse _, refuse _, refuse _, refuse _, refuse _, refuse _, refuse _, List.forall_mem_nil _⟩

end Sys2Proof.Machine
end

section
/-! Scalar floating point (08 R220 to R222; 06 R147 to R154). -/

namespace Sys2Proof.Machine
open Sys2Proof.Safety

theorem modeFor_of {frm : BitVec 4} {r : BitVec 3} {mode : Nat} (h : (if r = 7 then frm.toNat % 8 else r.toNat) = mode) (hm : mode ≤ 4) :
    modeFor (frm.setWidth 3) r = .ok mode := by
  unfold modeFor
  split at h
  next hr => rw [if_pos hr, BitVec.toNat_setWidth, ← h]
  next hr => rw [if_neg hr, if_pos (by omega), h]

theorem nextDraw_zero (s : State) : s.nextDraw 0 = drawAt (s.seedOf s.act.job) (s.lcoreOf s.act) s.act.srctr := by
  rw [State.nextDraw, BitVec.add_zero]

theorem flags_not_nan {A B : FV} (h : ¬(A.isNan || B.isNan) = true) : (A.isSignalling || B.isSignalling) = false := by
  cases A <;> cases B <;> simp_all [FV.isNan, FV.isSignalling]

section
variable {s : State} (hl : s.act.live = true)
include hl

theorem fpRound_of {r : BitVec 3} {d : BitVec 5} {p : Bool} {x : Bool → FV × Flags} {mode : Nat}
    (h : modeFor (s.act.frm.setWidth 3) r = .ok mode) :
    run s (fpRound r d p s x) =
      let v := x (decide (mode = 3))
      let c := round32 mode (drawAt (s.seedOf s.act.job) (s.lcoreOf s.act) s.act.srctr) v.1
      .next ((s.drawn mode 1).fpResult d c.1 (v.2 ||| c.2) p) := by
  rw [fpRound, h, bind_ok, nextDraw_zero, run_ok hl]
  rfl

theorem fcmplt_of (b a d : BitVec 5) :
    let A := s.act.fpX a
    let B := s.act.fpX b
    execFcmplt b a d s = .next (s.fpResult d (if A.isNan || B.isNan then 0 else if A.cmp B < 0 then 1 else 0)
      (if A.isNan || B.isNan then flagNV else 0) (s.act.poison2 a b)) := by
  intro A B
  have h : A.lt B = if (A.isNan || B.isNan) = true then (false, flagNV) else (decide (A.cmp B < 0), 0) := rfl
  show run s (.ok (s.fpResult d (A.lt B).1.toNat (A.lt B).2 (s.act.poison2 a b))) = _
  rw [run_ok hl, h]
  split
  · rfl
  · by_cases hc : A.cmp B < 0 <;> simp [hc]

theorem fcmpeq_of (b a d : BitVec 5) :
    let A := s.act.fpX a
    let B := s.act.fpX b
    execFcmpeq b a d s = .next (s.fpResult d (if A.isNan || B.isNan then 0 else if A.cmp B = 0 then 1 else 0)
      (if A.isSignalling || B.isSignalling then flagNV else 0) (s.act.poison2 a b)) := by
  intro A B
  have h : A.eq B = if (A.isNan || B.isNan) = true then (false, sigFlag [A, B]) else (A.cmp B == 0, 0) := rfl
  show run s (.ok (s.fpResult d (A.eq B).1.toNat (A.eq B).2 (s.act.poison2 a b))) = _
  rw [run_ok hl, h]
  split
  next hn => simp [sigFlag, flagIf]
  next hn =>
    rw [flags_not_nan hn]
    by_cases hc : A.cmp B = 0
    · simp [hc]
    · simp [hc, beq_eq_false_iff_ne.2 hc]

theorem fcvti_of {w u : BitVec 1} {r : BitVec 3} {a d : BitVec 5} {mode : Nat} (h : modeFor (s.act.frm.setWidth 3) r = .ok mode) :
    let n := if w = 1 then 32 else 64
    let v := (s.act.fpX a).toInt mode (drawAt (s.seedOf s.act.job) (s.lcoreOf s.act) s.act.srctr) (u == 0) n
    execFcvti w u r a d s = .next (((s.drawn mode 1).setFlags v.2).result 4 d
      (if w = 1 ∧ u = 0 then (BitVec.ofInt 32 v.1).signExtend 64 else BitVec.ofNat 64 (v.1 % (2 ^ n : Nat)).toNat) (s.act.xPoison a)) := by
  intro n v
  rw [execFcvti, h, bind_ok, nextDraw_zero, run_ok hl, wrapInt_eq_ofInt 32, sext_toNat]
  rfl

end

/-- Settles O23: a form takes its mode, rounds its exact result once with the next draw, and writes it with its flags. -/
theorem scalarFloatResults : Obligations.ScalarFloatResults := by
  intro s w u r b a d mode hl hr hm
  have h := modeFor_of hr hm
  have round (p : Bool) (x : Bool → FV × Flags) := fpRound_of (d := d) (p := p) (x := x) hl h
  exact ⟨round _ fun rdn => (s.act.fpX a).add rdn (s.act.fpX b), round _ fun rdn => (s.act.fpX a).add rdn (s.act.fpX b).neg,
    round _ fun _ => (s.act.fpX a).mul (s.act.fpX b), round _ fun _ => (s.act.fpX a).div (s.act.fpX b),
    round _ fun _ => (s.act.fpX a).sqrt, round _ fun rdn => FV.fma rdn (s.act.fpX a) (s.act.fpX b) (s.act.fpX d), round _ fun _ => _,
    run_ok hl, run_ok hl, fcmplt_of hl b a d, fcmpeq_of hl b a d, fcvti_of hl h⟩

end Sys2Proof.Machine
end

section
/-! Effects staged before COMMIT (02 R47, R48; 12 R311, R327, R328, R339; 11 R307). -/

namespace Sys2Proof.Machine
open Sys2Proof.Safety

/-! ## Staging -/

/-- An effect added to those staged. -/
def State.staging (s : State) (e : Eff) : State := s.modAct fun a => { a with staged := a.staged ++ [e] }

theorem stage_of {s : State} (h : stagedCount s < 256) (e : Eff) : s.stage e = .ok (s.staging e) := by
  rw [stagedCount, List.countP_eq_length_filter] at h
  exact if_pos h

theorem issue_of {s : State} (h : MayStage s) (e : Eff) : s.issue e = .ok (s.staging e) := by
  obtain ⟨-, hc, hn, hf⟩ := h
  rw [State.issue, hc, if_neg Bool.false_ne_true, hf, Bool.or_true, await_true, bind_ok, stage_of hn]

/-- A computation that comes to the issue of an effect, and moves on. -/
theorem stages_of {s : State} {i : Instr} {len : Nat} {e : Eff} {c : Chk State} (h : MayStage s) (hi : exec i s = run s c)
    (hc : c = s.issue e >>= fun t => .ok (t.advance len)) : Stages i s len e := by
  rw [Stages, hi, hc, issue_of h, bind_ok, run_ok h.1]
  rfl

/-! ## The messages built (12 R327, R328) -/

theorem checkR36_of {w2 w3 : Word} (hk : w2.toNat % 65536 < 0xFF00) (h1 : w2 &&& 0x0000000001000000 = 0)
    (h2 : w2 &&& 0x00000000001C0000 = 0) (h3 : w3.toNat < 2 ^ 32) : checkR36 w2 w3 = .ok () := by
  rw [checkR36, need_of (decide_eq_true hk), bind_ok, h1, h2, need_of (by decide), bind_ok, need_of (decide_eq_true h3)]

theorem message_of {s : State} (h : MsgOk s) : s.act.message = .ok (builtMsg s) := by
  obtain ⟨c0, c2, c3, hn, hk, h1, h2, h3⟩ := h
  rw [Act.message, ctlO_clean c0, bind_ok, ctlO_clean c2, bind_ok, ctlO_clean c3, bind_ok, need_of (bne_iff_ne.2 hn), bind_ok,
    checkR36_of hk h1 h2 h3, bind_ok]
  rfl

/-- The message that REPLY builds. -/
def repliedMsg (s : State) : Msg :=
  { builtMsg s with
    w0 := s.act.msg.w1
    w2 := wordTwo ((s.act.getO 2 &&& ~~~0x0000FFFF00000000) ||| (s.act.msg.w2 &&& 0x0000FFFF00000000)) (msgPhase s.act.msg) }

theorem replyMessage_of {s : State} (h : MsgOk s) : s.act.replyMessage = .ok (repliedMsg s) := by
  obtain ⟨-, c2, c3, -, hk, h1, h2, h3⟩ := h
  rw [Act.replyMessage, ctlO_clean c2, bind_ok, ctlO_clean c3, bind_ok, checkR36_of hk h1 h2 h3, bind_ok]
  rfl

/-! ## The forms -/

section
variable {s : State} (h : MayStage s)
include h

section
variable {sc : BitVec 4} {a : BitVec 5} (hs : sc.toNat ≤ 10) (hm : MaskOk s a)
include hs hm

theorem send_stages (hg : MsgOk s) (len : Nat) (i : Instr) (hi : exec i s = run s (sendOp sc a len s)) :
    Stages i s len (.send (builtMsg s) none (maskIn s a) sc.toNat) := by
  refine stages_of h hi ?_
  rw [sendOp, maskX_ok hs hm, bind_ok, message_of hg, bind_ok]

theorem reply_stages (hg : MsgOk s) : Stages (.reply sc a) s 4 (.send (repliedMsg s) none (maskIn s a) sc.toNat) := by
  refine stages_of h rfl ?_
  rw [maskX_ok hs hm, bind_ok, replyMessage_of hg, bind_ok]

theorem sendn_stages (hg : MsgOk s) {b : BitVec 5} (hb : Clean s b) (hl : (s.act.getX b).toNat < 2 ^ 48)
    (h2 : nameKind (s.act.getO 0) ≠ 2) (h0 : nameKind (s.act.getO 0) ≠ 0) :
    Stages (.sendn sc b a 0) s 4 (.sendn (builtMsg s) (s.act.getX b) none (maskIn s a) sc.toNat) := by
  refine stages_of h rfl ?_
  have hw : (builtMsg s).w0 = s.act.getO 0 := rfl
  have hr : s.launchRecord 0 = .ok none := rfl
  simp only [maskX_ok hs hm, ctlX_clean hb, need_of (decide_eq_true hl), message_of hg, hw, need_of (bne_iff_ne.2 h2), bne_iff_ne.2 h0,
    Bool.true_or, need_true, hr, bind_ok]

theorem sendd_stages (hg : MsgOk s) {b : BitVec 5} {slot : Nat} (hb : Clean s b) (hh : s.slotHandle (s.act.getX b) = .ok slot) :
    Stages (.sendd sc b a) s 4
      (.sendd { builtMsg s with
          w2 := (builtMsg s).w2 ||| 0x80000
          w3 := (builtMsg s).w3 ||| BitVec.ofNat 64 ((slot % 65536 + 1) * 2 ^ 48) }
        slot (maskIn s a) sc.toNat) := by
  refine stages_of h rfl ?_
  simp only [maskX_ok hs hm, ctlX_clean hb, message_of hg, hh, bind_ok]

theorem route_stages {w2 w3 : Word} (hn : s.act.memo = .none) (hr : s.routeChecked = .ok (w2, w3)) :
    let o := s.act.getO
    Stages (.route sc a 0) s 4 (.route (o 0) (o 1) w2 w3 (o 4) (o 5) (o 6) (o 7) (s.act.oPoison 7) (maskIn s a) sc.toNat) := by
  show execRoute sc a 0 s = _
  unfold execRoute
  rw [hn]
  simp only [maskX_ok hs hm, hr, bind_ok, if_true, h.2.1, Bool.false_eq_true, if_false, stage_of h.2.2.1]
  exact run_ok h.1

/-- An addition to an own counter, of `len` bytes. -/
theorem cinc_own_stages {n len : Nat} {b : BitVec 5} (hb : Clean s b) (hv : (s.act.getX b).toNat < 2 ^ 32) (i : Instr)
    (hi : exec i s = run s (cincOp n sc a b len s)) :
    Stages i s len (.cinc none n ((s.act.getX b).setWidth 32) (maskIn s a) sc.toNat) := by
  refine stages_of h hi ?_
  have hbit : (s.act.getX b).getLsbD 32 = false := by
    rw [BitVec.getLsbD, Nat.testBit_eq_decide_div_mod_eq, Nat.div_eq_of_lt hv]
    rfl
  have hlt : (s.act.getX b).toNat < 2 ^ 33 := by omega
  simp only [cincOp, maskX_ok hs hm, ctlX_clean hb, need_of (decide_eq_true hlt), hbit, Bool.false_eq_true, if_false, bind_ok]

/-- An addition to the counter of the core where another actor is. -/
theorem cinc_named_stages {n len : Nat} {b : BitVec 5} (hb : Clean s b) (hv : (s.act.getX b).toNat / 2 ^ 32 = 1) (hc : CleanO s 0)
    (hk : nameKind (s.act.getO 0) = 0) (i : Instr) (hi : exec i s = run s (cincOp n sc a b len s)) :
    Stages i s len (.cinc (some (s.act.getO 0)) n ((s.act.getX b).setWidth 32) (maskIn s a) sc.toNat) := by
  refine stages_of h hi ?_
  have hbit : (s.act.getX b).getLsbD 32 = true := by
    rw [BitVec.getLsbD, Nat.testBit_eq_decide_div_mod_eq, hv]
    rfl
  have hlt : (s.act.getX b).toNat < 2 ^ 33 := by omega
  simp only [cincOp, maskX_ok hs hm, ctlX_clean hb, need_of (decide_eq_true hlt), hbit, if_true, ctlO_clean hc, beq_iff_eq.2 hk, need_true,
    bind_ok]

end
end

/-- Settles O24: a form makes its checks, builds its effect and issues it, which before COMMIT stages it. -/
theorem effectsAreStaged : Obligations.EffectsAreStaged := by
  refine ⟨fun s sc a b h hs hm hg => ⟨send_stages h hs hm hg 4 _ rfl, send_stages h hs hm hg 2 _ rfl, reply_stages h hs hm hg,
    fun hb hl h2 h0 => sendn_stages h hs hm hg hb hl h2 h0, fun slot hb hh => sendd_stages h hs hm hg hb hh⟩,
    fun s k sc s3 c3 a b c h => ⟨fun hs hm ha hv => ?_, fun hs hm ha hv hc hk => ?_, fun hr hv => ?_⟩,
    fun s sc a w2 w3 h hs hm hn hr => route_stages h hs hm hn hr⟩
  · exact cinc_own_stages h hs hm ha hv _ (show _ = execCinc k sc b a c s from rfl)
  · exact cinc_named_stages h hs hm ha hv hc hk _ (show _ = execCinc k sc b a c s from rfl)
  · have hz : MaskOk s 0 := ⟨s.act.xPoison_zero, by rw [show s.act.getX 0 = 0 from s.act.getX_zero]; decide⟩
    have hsc : (s3.zeroExtend 4).toNat = s3.toNat := by
      rw [BitVec.toNat_setWidth]
      omega
    have := cinc_own_stages (sc := s3.zeroExtend 4) h (by omega) hz hr hv (.cCinc c c3 s3) (show _ = execCCinc c c3 s3 s from rfl)
    rw [hsc] at this
    exact this

end Sys2Proof.Machine
end

section
/-! What is no longer outstanding stays so when entries leave (05 R112, R127). -/

namespace Sys2Proof.Machine
open Sys2Proof.Safety

/-- A state in which nothing is outstanding that was not before. -/
structure Lighter (s t : State) : Prop where
  pending : t.mem.pending = s.mem.pending
  entries : ∀ e ∈ t.entries, e ∈ s.entries
  deferred : t.wire.deferred = s.wire.deferred
  remote : t.links.remote = s.links.remote

theorem Lighter.trans {s t u : State} (h : Lighter s t) (g : Lighter t u) : Lighter s u :=
  ⟨g.pending.trans h.pending, fun e he => h.entries e (g.entries e he), g.deferred.trans h.deferred, g.remote.trans h.remote⟩

section
variable {s t : State} (h : Lighter s t)
include h

theorem Lighter.counted : ∀ x ∈ t.counted, x ∈ s.counted := by
  intro x hx
  simp only [State.counted, h.pending, h.deferred, h.remote, List.mem_append, List.mem_map] at hx ⊢
  rcases hx with ((hp | ⟨e, he, hx⟩) | hd) | hr
  · exact .inl (.inl (.inl hp))
  · exact .inl (.inl (.inr ⟨e, h.entries e he, hx⟩))
  · exact .inl (.inr hd)
  · exact .inr hr

theorem Lighter.performed {ids : List Nat} {scope : Nat} (hp : s.performed ids scope = true) : t.performed ids scope = true := by
  rw [State.performed, List.all_eq_true] at hp ⊢
  intro n hn
  have hs := hp n hn
  split at hs
  next hg =>
    rw [if_pos hg]
    rw [List.all_eq_true] at hs ⊢
    exact fun e he => hs e (h.entries e he)
  next hg =>
    rw [if_neg hg]
    simp only [h.pending, Bool.and_eq_true, Bool.not_eq_true', List.any_eq_false] at hs ⊢
    exact ⟨hs.1, fun x hx => hs.2 x (h.counted x hx)⟩

theorem Lighter.happened {q : Acquire} (hq : s.happened q = true) : t.happened q = true := by
  unfold State.happened at hq ⊢
  rw [h.deferred, h.remote]
  split at hq
  next ha => rwa [if_pos ha]
  next ha =>
    rw [if_neg ha]
    rw [List.all_eq_true] at hq ⊢
    exact fun e he => hq e (h.entries e he)

theorem Lighter.fencesMet {a : Act} (hf : s.fencesMet a = true) : t.fencesMet a = true := by
  simp only [State.fencesMet, Bool.and_eq_true, List.all_eq_true, Bool.or_eq_true] at hf ⊢
  exact ⟨fun f hm => h.performed (hf.1 f hm), fun q hq => (hf.2 q hq).imp id h.happened⟩

end

/-- An entry in a queue of a core is among all entries. -/
theorem mem_entries_of_core {s : State} {c : Nat} {e : Entry} (h : e ∈ (s.core c).queues.toList.flatten) : e ∈ s.entries := by
  rcases look_mem ({} : Core) s.cores c with hd | hm
  · rw [State.core, hd] at h
    exact absurd h List.not_mem_nil
  · exact List.mem_flatMap.2 ⟨_, hm, h⟩

/-- A core changed that keeps its queues. -/
theorem modCore_lighter (s : State) {c : Nat} (f : Core → Core) (hf : ∀ k, (f k).queues = k.queues) : Lighter s (s.modCore c f) := by
  refine ⟨rfl, fun e he => ?_, rfl, rfl⟩
  simp only [State.entries, List.mem_flatMap] at he ⊢
  obtain ⟨k, hk, he⟩ := he
  rcases mem_put hk with rfl | hk
  · rw [hf] at he
    exact List.mem_flatMap.1 (mem_entries_of_core he)
  · exact ⟨k, hk, he⟩

end Sys2Proof.Machine
end

section
/-! GIVE, counters, waits and ports (11 R297, R306 to R309; 12 R329; 04 R92, R94). -/

namespace Sys2Proof.Machine
open Sys2Proof.Safety

/-! ## GIVE -/

/-- A search by what a change keeps finds what it found before, changed. -/
theorem find?_mapIf {α : Type} {p q : α → Bool} {f : α → α} (l : List α) (h : ∀ a, p a = true → q (f a) = q a) :
    (mapIf p f l).find? q = (l.find? q).map fun a => if p a then f a else a := by
  rw [mapIf, List.find?_map]
  congr 1
  refine List.find?_congr fun a _ => ?_
  show q (if p a then f a else a) = q a
  split
  next hp => exact h a hp
  next => rfl

/-- What GIVE makes of a region slot. -/
def Region.gone (r : Region) : Region := { r with state := .given, renewed := false }

/-- The state in which GIVE issues its message. -/
def State.given (s : State) (n : Nat) : State :=
  ((s.checkPool s.act.core).modRegion s.act n Region.gone).dropRegionPorts n

theorem given_act (s : State) (n : Nat) : (s.given n).act = s.act := (checkPool_settled s s.act.core).act
theorem given_mem (s : State) (n : Nat) : (s.given n).mem = s.mem := inject_mem s s.act.core 3 0
theorem given_wire (s : State) (n : Nat) : (s.given n).wire = s.wire := (checkPool_settled s s.act.core).wire

/-- The index that a number bound by NAMEREG stands for, as a directory has it (12 R322). -/
def Dir.bound (d : Dir) (job : Half) (al : Nat) : Option Nat := (d.aliases.find? fun t => t.1 == job && t.2.1 == al).map (·.2.2)

/-- The pool of a name is read from the directory alone. -/
def Dir.poolOf (d : Dir) (n : Word) : Option Pool :=
  (if nameKind n == 1 then some (nameIndex n)
    else if nameKind n == 2 && nameJob n != 0 then (d.bound (nameJob n) (nameIndex n)).bind fun i => if i < 2 ^ 30 then none else some (i - 2 ^ 30)
    else none).bind fun i => d.pools.find? fun p => p.job == nameJob n && p.index == i

theorem poolOf_eq (s : State) (n : Word) : s.poolOf n = s.dir.poolOf n := rfl

/-- Regions are the directory's. -/
theorem regionsOf_congr {s t : State} (h : t.dir = s.dir) (name : Word) (run core : Nat) :
    t.regionsOf name run core = s.regionsOf name run core := by
  rw [State.regionsOf, State.regionsOf, poolOf_eq, poolOf_eq, h]

/-- A change to a pool that keeps its job and index makes no pool of a name. -/
theorem modPool_poolOf_none {s : State} {n m : Word} {f : Pool → Pool} (hf : ∀ p, (f p).job = p.job ∧ (f p).index = p.index)
    (h : s.poolOf n = none) : (s.modPool m f).poolOf n = none := by
  unfold State.poolOf at h ⊢
  rw [Option.bind_eq_none_iff] at h ⊢
  intro i hi
  have hp := h i hi
  refine (find?_mapIf s.dir.pools fun p _ => ?_).trans (by rw [hp, Option.map_none])
  rw [(hf p).1, (hf p).2]

/-- A region slot of a run of no pool's member, changed, is changed where the actor keeps it. -/
theorem modRegion_regionsOf {s : State} {a : Act} {n : Nat} {f : Region → Region} (hn : n < 8) (hp : s.poolOf a.name = none)
    (hr : a.run = 0) (hd : (s.dir.actors.find? fun x => x.name == a.name).isSome = true) :
    vget ((s.modRegion a n f).regionsOf a.name a.run a.core) n = f (vget (s.regionsOf a.name a.run a.core) n) := by
  obtain ⟨t, ht⟩ := Option.isSome_iff_exists.1 hd
  have hp' : (s.modRegion a n f).poolOf a.name = none := modPool_poolOf_none (s := s.modActor a.name _) (fun _ => ⟨rfl, rfl⟩) hp
  have ha : (s.modRegion a n f).dir.actors.find? (fun x => x.name == a.name) =
      some { t with regions := vset t.regions n (f (vget t.regions n)) } := by
    refine (find?_mapIf s.dir.actors fun x _ => ?_).trans ?_
    · rw [if_pos hr]
      rfl
    · rw [ht, Option.map_some, if_pos (List.find?_some (p := fun x : Actor => x.name == a.name) ht), if_pos hr]
  rw [State.regionsOf, hp', State.regionsOf, hp]
  dsimp only
  rw [ha, ht]
  dsimp only
  rw [if_pos hr, if_pos hr, vget_vset_self _ _ _ hn]


theorem given_region {s : State} {n : Nat} (hn : n < 8) (hp : s.poolOf s.act.name = none) (hr : s.act.run = 0)
    (ho : (s.myRegion n).state = .owned) :
    (vget ((s.given n).regionsOf s.act.name s.act.run s.act.core) n).state = .given := by
  have hc := (checkPool_settled s s.act.core).dir
  have hp' : (s.checkPool s.act.core).poolOf s.act.name = none := by
    rw [poolOf_eq, hc]
    exact hp
  have hd : ((s.checkPool s.act.core).dir.actors.find? fun x => x.name == s.act.name).isSome = true := by
    rw [hc, Option.isSome_iff_ne_none]
    intro h0
    rw [State.myRegion, State.regionsOf, hp] at ho
    dsimp only at ho
    rw [h0, show (default : Vector Region 8) = Vector.replicate 8 default from rfl] at ho
    dsimp only at ho
    rw [vget_replicate _ hn] at ho
    cases ho
  have h := modRegion_regionsOf (f := Region.gone) hn hp' hr hd
  refine (congrArg Region.state h).trans rfl

/-- The message that GIVE stages. -/
def grantMsg (s : State) (m : Nat) (g : Grant) : Msg :=
  { builtMsg s with
    w2 := (builtMsg s).w2 ||| 0x40000
    w3 := (builtMsg s).w3 ||| BitVec.ofNat 64 ((m + 1) * 2 ^ 32), grant := some g }

theorem dropRegionPorts_lighter (s : State) (n : Nat) : Lighter s (s.dropRegionPorts n) := by
  refine modCore_lighter s _ ?_
  exact fun _ => rfl

theorem given_lighter (s : State) (n : Nat) : Lighter s (s.given n) := by
  have hs := checkPool_settled s s.act.core
  have h1 : Lighter s (s.checkPool s.act.core) :=
    ⟨by rw [State.checkPool, inject_mem], fun e he => by rwa [State.entries, hs.cores] at he, by rw [hs.wire], hs.remote⟩
  have h2 : Lighter (s.checkPool s.act.core) ((s.checkPool s.act.core).modRegion s.act n Region.gone) := ⟨rfl, fun _ h => h, rfl, rfl⟩
  exact (h1.trans h2).trans (dropRegionPorts_lighter _ n)

/-- The bytes and poisoned sectors of a region, as GIVE captures them. -/
def State.captureRegion (s : State) (r : Region) : Grant :=
  { bytes := (s.readPlain (dieOf s.act.core) (poolKey s.act.core r.offset) r.size).1
    poison := (List.range (r.size / 32)).filter fun k => s.mem.poisonSectors.contains (poolKey s.act.core r.offset / 32 + k) }

/-- Settles O26: the region's bytes are read, its slot is marked, and the message is staged. -/
theorem giveCapturesRegion : Obligations.GiveCapturesRegion := by
  intro s sc m n a h hs hm hg ho hw hr
  have hstage : MayStage (s.given n.toNat) := by
    obtain ⟨hl, hc, hn, hf⟩ := h
    unfold MayStage stagedCount
    rw [given_act]
    exact ⟨hl, hc, hn, (given_lighter s n.toNat).fencesMet hf⟩
  have he : exec (.give sc m a n) s = .next (((s.given n.toNat).staging
      (.send (grantMsg s m.toNat (s.captureRegion (s.myRegion n.toNat))) (some n.toNat) (maskIn s a) sc.toNat)).advance 4) := by
    show execGive sc m a n s = _
    unfold execGive
    simp only [maskX_ok hs hm, bind_ok, need_of (beq_iff_eq.2 ho), message_of hg, hw, await_of h.2.2.2, State.awaitFences,
      State.awaitAcquires, await_of hr]
    show run s ((s.given n.toNat).issue (.send (grantMsg s m.toNat (s.captureRegion (s.myRegion n.toNat))) (some n.toNat) (maskIn s a) sc.toNat)
      >>= fun t => .ok (t.advance 4)) = _
    rw [issue_of hstage, bind_ok, run_ok h.1]
  have ha : ((s.given n.toNat).staging (.send (grantMsg s m.toNat (s.captureRegion (s.myRegion n.toNat))) (some n.toNat) (maskIn s a) sc.toNat)).act =
      { s.act with staged := s.act.staged ++ [.send (grantMsg s m.toNat (s.captureRegion (s.myRegion n.toNat))) (some n.toNat) (maskIn s a) sc.toNat] } := by
    rw [State.staging, State.modAct_act, given_act]
  generalize hu : (s.given n.toNat).staging _ = u at he ha
  have hm' : u.mem = s.mem := by rw [← hu]; exact given_mem s n.toNat
  have hw' : u.wire = s.wire := by rw [← hu]; exact given_wire s n.toNat
  have hd : (u.advance 4).dir = (s.given n.toNat).dir := by rw [← hu]; rfl
  refine ⟨_, he, ⟨s.captureRegion (s.myRegion n.toNat), rfl, ?_⟩, fun hp h0 => ?_, ?_, ?_, ?_, hm', hw'⟩
  · rw [State.advance_staged, ha]
    rfl
  · rw [State.myRegion, regionsOf_congr hd, State.advance_name, State.advance_run, State.advance_core, ha]
    exact given_region n.isLt hp h0 ho
  · rw [State.advance_pc, ha]
    rfl
  · rw [State.advance_x, ha]
  · rw [State.advance_o, ha]

end Sys2Proof.Machine
end

section
/-! Counters, waits and ports (11 R297, R306, R308, R309). -/

namespace Sys2Proof.Machine
open Sys2Proof.Safety

/-! ## A counter's value (11 R305) -/

theorem observeGate_eq (c : Core) (n : Nat) (v : Word32) : ∃ q, c.observeGate n v = { c with queues := q } := by
  unfold Core.observeGate
  split
  · split
    · split
      · exact ⟨_, rfl⟩
      · exact ⟨c.queues, rfl⟩
    · exact ⟨c.queues, rfl⟩
  · exact ⟨c.queues, rfl⟩

theorem observe_eq (core n : Nat) (v : Word32) (time : Nat) (a : Act) : ∃ m, a.observe core n v time = { a with memo := m } := by
  unfold Act.observe
  dsimp only
  split
  · split
    · exact ⟨_, rfl⟩
    · exact ⟨a.memo, rfl⟩
  · split
    · exact ⟨_, rfl⟩
    · exact ⟨a.memo, rfl⟩
  · exact ⟨a.memo, rfl⟩

theorem setCounter_act (s : State) (core n : Nat) (v : Word32) : ∃ m, (s.setCounter core n v).act = { s.act with memo := m } :=
  observe_eq core n v s.env.time s.act

theorem setCounter_counter (s : State) (core n : Nat) (v : Word32) (k : Nat) :
    ((s.setCounter core n v).core core).counter k = if k = n then v else (s.core core).counter k := by
  obtain ⟨q, hq⟩ := observeGate_eq ((s.core core).setCounter n v) n v
  show ((s.modCore core fun c => (c.setCounter n v).observeGate n v).core core).counter k = _
  rw [core_modCore_self, hq]
  exact look_put 0 n k v _

theorem setCounter_mem (s : State) (core n : Nat) (v : Word32) : (s.setCounter core n v).mem = s.mem := rfl

/-- What a counter's own core sees of a write to it by the running activation. -/
theorem setCounter_completes {s u : State} {i : Instr} {n : Nat} {v : Word32} (hi : exec i s = .next ((u.setCounter s.act.core n v).advance 4))
    (hp : u.act.pc = s.act.pc) (hx : u.act.x = s.act.x) (hm : u.mem = s.mem) (hc : u.cores = s.cores) :
    Completes i s fun t => (t.core s.act.core).counter n = v ∧ t.act.pc = s.act.pc + 4 ∧ t.act.x = s.act.x ∧ t.mem = s.mem ∧
      ∀ k, k ≠ n → (t.core s.act.core).counter k = (s.core s.act.core).counter k := by
  have hcore : u.core s.act.core = s.core s.act.core := by rw [State.core, hc, State.core]
  have hk (k : Nat) : (((u.setCounter s.act.core n v).advance 4).core s.act.core).counter k =
      if k = n then v else (s.core s.act.core).counter k := by
    rw [← hcore]
    exact setCounter_counter u s.act.core n v k
  obtain ⟨m, ha⟩ := setCounter_act u s.act.core n v
  refine ⟨_, hi, (hk n).trans (if_pos rfl), ?_, ?_, hm, fun k h => (hk k).trans (if_neg h)⟩
  · rw [State.advance_pc, ha, ← hp]
    rfl
  · rw [State.advance_x, ha, ← hx]

theorem low32_of {v : Word} (h : v.toNat < 2 ^ 32) : low32 v = .ok (v.setWidth 32) := by
  rw [low32, need_of (decide_eq_true h), bind_ok]

/-! ## Waits that are met (11 R308, R309) -/

theorem reached_of {v target : Word32} (h : (v - target).msb = false) : reached v target = true := by
  rw [reached, h]
  rfl

theorem waitcOp_met {s : State} {n : Nat} {sc : BitVec 4} {b a : BitVec 5} {len : Nat} (hl : s.act.live = true) (hs : sc.toNat ≤ 10)
    (hm : MaskOk s b) (ha : Clean s a) (hv : (s.act.getX a).toNat < 2 ^ 32)
    (h : (((s.core s.act.core).counter n) - (s.act.getX a).setWidth 32).msb = false) :
    run s (waitcOp n sc b a len s) = .next ((s.modAct (·.acquired (maskIn s b))).advance len) := by
  rw [waitcOp, maskX_ok hs hm, bind_ok, ctlX_clean ha, bind_ok, low32_of hv, bind_ok, if_pos (.inr (reached_of h)), run_ok hl]

theorem execWaitct_met {s : State} {k : BitVec 1} {sc : BitVec 4} {d a c : BitVec 5} (hl : s.act.live = true) (hs : sc.toNat ≤ 10)
    (ho : CleanO s 7) (hm : (s.act.getO 7).toNat < 2 ^ 17) (ha : Clean s a) (hn : s.act.memo = .none) (hw : s.act.wait = .none)
    (h : (((s.core s.act.core).counter (counterNo k c)) - (s.act.getX a).setWidth 32).msb = false) :
    execWaitct k sc d a c s = .next ((s.modAct (·.acquired ((s.act.getO 7).setWidth 17))).result 4 d 1) := by
  have hlim : s.act.waitLimit = none := by
    rw [Act.waitLimit, hw]
  rw [execWaitct, need_of (decide_eq_true hs), bind_ok, ctlO_clean ho, bind_ok, maskOf_small hm, bind_ok, ctlX_clean ha, bind_ok, hlim, hn]
  dsimp only
  rw [if_pos (.inr ⟨by decide, Nat.le_add_right _ _, reached_of h⟩), run_ok hl]

theorem record_eq (a : Act) (n : Nat) (v : Word32) : ∃ p, a.record n v = { a with posts := p } := by
  unfold Act.record
  split
  · exact ⟨a.posts, rfl⟩
  · exact ⟨_, rfl⟩

theorem counter_forms (s : State) (h : BitVec 1) (sc : BitVec 4) (s3 c3 : BitVec 3) (a b c d : BitVec 5) (hl : s.act.live = true) :
    let n := c.toNat + 32 * h.toNat
    let now (k : Nat) : Word32 := (s.core s.act.core).counter k
    let met (k : Nat) (target : Word32) : Prop := (now k - target).msb = false
    (Solo s → Writes (.crd h d c) s 4 d ((now n).zeroExtend 64) false) ∧
    (Clean s a → (s.act.getX a).toNat < 2 ^ 32 →
      let v : Word32 := (s.act.getX a).setWidth 32
      Completes (.cset h a c) s (fun t => (t.core s.act.core).counter n = v ∧ t.act.pc = s.act.pc + 4 ∧ t.act.x = s.act.x ∧ t.mem = s.mem ∧
        ∀ k, k ≠ n → (t.core s.act.core).counter k = now k) ∧
      Completes (.caddl h a c) s (fun t => (t.core s.act.core).counter n = now n + v ∧ t.act.pc = s.act.pc + 4 ∧ t.act.x = s.act.x ∧ t.mem = s.mem ∧
        ∀ k, k ≠ n → (t.core s.act.core).counter k = now k) ∧
      (sc.toNat ≤ 10 → MaskOk s b → met n v → exec (.waitc h sc b a c) s = .next ((s.modAct (·.acquired (maskIn s b))).advance 4))) ∧
    (sc.toNat ≤ 10 → CleanO s 7 → (s.act.getO 7).toNat < 2 ^ 17 → Clean s a → s.act.memo = .none → s.act.wait = .none →
      met n ((s.act.getX a).setWidth 32) → exec (.waitct h sc d a c) s = .next ((s.modAct (·.acquired ((s.act.getO 7).setWidth 17))).result 4 d 1)) ∧
    (let r : BitVec 5 := 8 + c3.zeroExtend 5
     Clean s r → (s.act.getX r).toNat < 2 ^ 32 → met c.toNat ((s.act.getX r).setWidth 32) →
      exec (.cWaitc c c3 s3) s = .next ((s.modAct (·.acquired 0)).advance 2)) := by
  refine ⟨fun hs => ?_, fun ha hv => ⟨?_, ?_, fun hs hm hr => waitcOp_met hl hs hm ha hv hr⟩,
    fun hs ho hm ha hn hw hr => execWaitct_met hl hs ho hm ha hn hw hr, fun hc hv hr => ?_⟩
  · show execCrd h d c s = _
    rw [execCrd, once_solo hs, run_ok hl]
    rfl
  · refine setCounter_completes (u := s) ?_ rfl rfl rfl rfl
    show execCset h a c s = _
    rw [execCset, ctlX_clean ha, bind_ok, low32_of hv, bind_ok, run_ok hl]
    rfl
  · obtain ⟨p, hp⟩ := record_eq s.act (counterNo h c) ((s.act.getX a).setWidth 32)
    refine setCounter_completes (u := { s with act := { s.act with posts := p } }) ?_ rfl rfl rfl rfl
    show execCaddl h a c s = _
    rw [execCaddl, ctlX_clean ha, bind_ok, low32_of hv, bind_ok, run_ok hl, State.modAct, hp]
    rfl
  · have hz : MaskOk s 0 := ⟨s.act.xPoison_zero, by rw [show s.act.getX 0 = 0 from s.act.getX_zero]; decide⟩
    have hsc : (s3.zeroExtend 4).toNat ≤ 10 := by
      rw [BitVec.toNat_setWidth]
      omega
    exact waitcOp_met hl hsc hz hc hv hr


/-! ## Ports (11 R297) -/

theorem bits_eq {n : Nat} (v : BitVec n) (lo k : Nat) : bits v.toNat lo k = (v.extractLsb' lo k).toNat :=
  (BitVec.extractLsb'_toNat lo k v).symm

theorem core_advance (s : State) (n k : Nat) : (s.advance n).core k = s.core k := rfl

theorem port_setPort (c : Core) (p : Port) : (c.setPort p).port p.num = some p := by
  have hn : (c.ports.filter fun q => q.num != p.num).find? (fun q => q.num == p.num) = none :=
    List.find?_eq_none.2 fun q hq => by simpa using (List.mem_filter.1 hq).2
  rw [Core.port, Core.setPort, List.find?_append, hn]
  simp

theorem execArm_of {s : State} {a : BitVec 5} {d : BitVec 4} (hl : s.act.live = true) (ha : Clean s a)
    (h1 : (s.act.getX a).extractLsb' 14 18 = 0) (h2 : (s.act.getX a).extractLsb' 3 5 = 0)
    (ho : (s.myRegion ((s.act.getX a).extractLsb' 0 3).toNat).state = .owned)
    (hw : (s.myRegion ((s.act.getX a).extractLsb' 0 3).toNat).w = true)
    (hp : ∀ p ∈ (s.core s.act.core).ports, p.num = d.toNat → p.actor = s.act.name) :
    execArm a d s = .next ((s.modCore s.act.core fun c => c.setPort
      { num := d.toNat, actor := s.act.name, region := ((s.act.getX a).extractLsb' 0 3).toNat
        counter := ((s.act.getX a).extractLsb' 8 6).toNat
        expected := (s.core s.act.core).counter ((s.act.getX a).extractLsb' 8 6).toNat + (s.act.getX a).extractLsb' 32 32
        aid := s.act.aid, run := s.act.run }).advance 4) := by
  have hall : ((s.core s.act.core).port d.toNat).all (fun p => p.actor == s.act.name) = true := by
    cases hf : (s.core s.act.core).port d.toNat with
    | none => rfl
    | some p =>
      exact beq_iff_eq.2 (hp p (List.mem_of_find?_eq_some hf) (beq_iff_eq.1 (List.find?_some (p := fun p : Port => p.num == d.toNat) hf)))
  unfold execArm
  simp only [ctlX_clean ha, bind_ok, bits_eq, h1, h2, hall, need_true, ho, hw]
  exact run_ok hl

/-- Settles O27: the counter written is read back, a met wait goes on, and ports are kept by their numbers. -/
theorem countersAndPorts : Obligations.CountersAndPorts := by
  refine ⟨counter_forms, fun s a d hl => ⟨fun ha h1 h2 ho hw hp => ⟨_, execArm_of hl ha h1 h2 ho hw hp, rfl, rfl, ?_, ?_⟩,
    ⟨_, run_ok hl, rfl, rfl, fun p => ?_⟩⟩⟩
  · rw [core_advance, core_modCore_self]
    exact port_setPort _ _
  · rw [core_advance, core_modCore_self]
    rfl
  · rw [core_advance, core_modCore_self]
    simp only [List.mem_filter, Bool.not_eq_true', ← Bool.not_eq_true, Bool.and_eq_true, beq_iff_eq]

end Sys2Proof.Machine
end

section
/-! COMMIT (02 R47, R48; 12 R319). -/

namespace Sys2Proof.Machine
open Sys2Proof.Safety

/-! ## Meeting points -/

theorem awaitE_idle {s : State} (h : s.act.eseq.idle = true) : s.awaitE = .ok () := await_of h

theorem meetE_idle {s : State} (h : s.act.eseq.idle = true) : s.meetE = .ok () := by
  have hn : (s.act.eseq.need == 0) = true := by
    rw [ESeq.idle, Bool.and_eq_true] at h
    exact h.2
  rw [State.meetE, need_of hn, bind_ok, awaitE_idle h]

theorem awaitsDigest_unmirrored {s : State} (h : s.mirrored s.act = false) : s.awaitsDigest = false := by
  rw [State.awaitsDigest, h, Bool.false_and]

/-! ## Releasing in program order -/

/-- Nothing holds what an activation releases: no fence, no acquire event, nothing released before that is still to leave (02 R39,
05 R129, R130; 08 R191). -/
structure Unheld (s : State) (a : Act) : Prop where
  run : a.run = 0
  fences : a.fences = []
  acquires : a.acquires = []
  tails : s.wire.tails = []
  missed : s.awaitMissed a = .ok ()

section
variable {s : State} {a : Act} (h : Unheld s a)
include h

theorem Unheld.fencesMet : s.fencesMet a = true := by
  rw [State.fencesMet, h.fences, h.acquires]
  rfl

theorem Unheld.awaitTails : s.awaitTails a = .ok () := by
  rw [State.awaitTails, h.tails]
  rfl

/-- An effect that nothing holds is released. -/
theorem Unheld.passes {α : Type} (e : Eff) (f : Unit → Unit → Unit → Chk α) :
    (do let x ← await (e.unfenced || s.fencesMet a); let y ← s.awaitTails a; let z ← s.awaitMissed a; f x y z) = f () () () := by
  rw [h.fencesMet, Bool.or_true, await_true, bind_ok, h.awaitTails, bind_ok, h.missed, bind_ok]

theorem Unheld.remote (va : Nat) : (decide (a.run ≠ 0) && !isLocal a.core va) = false := by
  rw [h.run]
  rfl

/-- An addition to a counter of the own core, with no mask, is made at once. -/
theorem Unheld.effect_cinc (n : Nat) (v : Word32) : s.effect a (.cinc none n v 0 0) = .ok ([], s.addCounter a.core n v) := by
  have hw : (s.gates a ++ s.waitsFor a 0 0).filter (fun i => !s.performed [i] 0) = [] := by
    rw [State.gates, h.acquires, State.waitsFor, if_pos rfl]
    rfl
  rw [State.effect, h.passes, h.remote, if_neg Bool.false_ne_true, State.effectCinc, hw]
  rfl

omit h in
theorem openPhase_zero (s : State) (job : Half) : s.openPhase job 0 = (s.epochOf job, s) := if_pos rfl

/-- A message of phase 0 without poison and without a grant leaves. -/
theorem Unheld.effect_send {m : Msg} {sc : Nat} (hph : msgPhase m = 0) (hp : m.poison = 0) (hg : m.grant = none) :
    ∃ after epoch, s.effect a (.send m none 0 sc) = .ok ([], s.fly
      { id := 0, src := a.name, dst := m.w0, die := dieOf a.core, item := .msg { m with w1 := a.name, epoch := epoch }
        after := after, scope := sc, aid := a.aid }) := by
  have hc : s.crosses { m with w1 := a.name } = false := by
    simp only [State.crosses, hp, hg, bne_self_eq_false, Option.any_none, Bool.or_self, Bool.false_and]
  refine ⟨s.carries a 0 (s.releaseScope m.w0 sc), s.epochOf (msgJob { m with w1 := a.name }), ?_⟩
  rw [State.effect, h.passes, h.remote, if_neg Bool.false_ne_true, State.releaseMsg, hc, Bool.not_false, need_true, bind_ok,
    show msgPhase { m with w1 := a.name } = 0 from hph, openPhase_zero]
  rfl

end

/-- A counter's new value holds nothing that was not held. -/
theorem Unheld.addCounter {s : State} {a : Act} (h : Unheld s a) (core n : Nat) (v : Word32) : Unheld (s.addCounter core n v) a.out :=
  ⟨h.run, h.fences, h.acquires, h.tails, h.missed⟩

/-- An addition to an own counter and a message are released one after the other. -/
theorem releaseAll_cinc_send {s : State} {a : Act} (h : Unheld s a) (n : Nat) (v : Word32) {m : Msg} {sc : Nat} (hph : msgPhase m = 0)
    (hp : m.poison = 0) (hg : m.grant = none) :
    ∃ t f memo, State.releaseAll a [.cinc none n v 0 0, .send m none 0 sc] s = (a.out.out, t, [], none) ∧
      t.act = { s.act with memo := memo } ∧ (t.core a.core).counter n = (s.core a.core).counter n + v ∧
      t.wire.flights = s.wire.flights ++ [f] ∧ f.dst = m.w0 ∧ f.src = a.name ∧ ∃ epoch, f.item = .msg { m with w1 := a.name, epoch := epoch } := by
  obtain ⟨after, epoch, hs⟩ := (h.addCounter a.core n v).effect_send (sc := sc) hph hp hg
  obtain ⟨memo, ha⟩ := setCounter_act s a.core n ((s.core a.core).counter n + v)
  have hc := (setCounter_counter s a.core n ((s.core a.core).counter n + v) n).trans (if_pos rfl)
  refine ⟨(s.addCounter a.core n v).fly
    { id := 0, src := a.name, dst := m.w0, die := dieOf a.core, item := .msg { m with w1 := a.name, epoch := epoch }
      after := after, scope := sc, aid := a.aid }, _, memo, ?_, ha, hc, rfl, rfl, rfl, epoch, rfl⟩
  · rw [State.releaseAll, h.effect_cinc]
    dsimp only [State.releaseFlat, State.fenceOf]
    rw [State.releaseAll, hs]
    rfl

/-! ## COMMIT -/

/-- A change of every value of a table that keeps a part of each keeps that part of what is found. -/
theorem look_map_snd {α β : Type} (p : α → β) (g : α → α) (hg : ∀ a, p (g a) = p a) (l : List (Nat × α)) (k : Nat) {d : α} :
    p (look d (l.map fun c => (c.1, g c.2)) k) = p (look d l k) := by
  induction l with
  | nil => rfl
  | cons c l ih =>
    simp only [List.map_cons, look]
    split
    · exact hg c.2
    · exact ih

theorem commitStep_unmirrored {s : State} (hc : s.act.committed = false) (hm : s.mirrored s.act = false) :
    s.commitStep = (s.markCommitted.releaseStaged.1).stopped s.markCommitted.releaseStaged.2 := by
  rw [State.commitStep, awaitsDigest_unmirrored hm, hc]
  rfl

/-- COMMIT releases all, and moves on. -/
theorem commitOp_released {s t : State} {a : Act} {len : Nat} (hi : s.act.eseq.idle = true) (hc : s.act.committed = false)
    (hm : s.mirrored s.act = false) (hr : State.releaseAll s.markCommitted.act s.act.staged s.markCommitted = (a, t, [], none))
    (ht : t.act.committed = true) :
    commitOp len s = .ok ((t.modAct fun u => { u with staged := [], fences := a.fences, outs := a.outs }).advance len) := by
  have hn : s.act.released = false := by rw [Act.released, hc, Bool.false_and]
  have hs : s.markCommitted.releaseStaged = (t.modAct fun u => { u with staged := [], fences := a.fences, outs := a.outs }, none) := by
    rw [State.releaseStaged, show s.markCommitted.act.staged = s.act.staged from rfl, hr]
  have hrel : (t.modAct fun u => { u with staged := [], fences := a.fences, outs := a.outs }).act.released = true := by
    rw [State.modAct_act, Act.released]
    dsimp only
    rw [ht]
    rfl
  rw [commitOp, meetE_idle hi, bind_ok, hn, if_neg Bool.false_ne_true, commitStep_unmirrored hc hm, hs]
  dsimp only [State.stopped]
  rw [bind_ok, hrel, if_pos rfl]

theorem commitOp_done {s : State} {len : Nat} (hi : s.act.eseq.idle = true) (hc : s.act.committed = true) (he : s.act.staged = []) :
    commitOp len s = .ok (s.advance len) := by
  rw [commitOp, meetE_idle hi, bind_ok, Act.released, hc, he]
  rfl

/-- Settles O28: what is staged is released effect by effect, and nothing is left. -/
theorem commitForms : Obligations.CommitForms := by
  refine ⟨fun s hl hi he => ⟨fun hc hm => ?_, fun hc => ⟨?_, ?_⟩⟩, fun s n v m sc hl hi hc hm h0 hf ho ht hw hph hp hg he => ?_⟩
  · intro done
    have hop (i : Instr) (len : Nat) (hi' : exec i s = run s (commitOp len s)) : done i len := by
      have hr : State.releaseAll s.markCommitted.act s.act.staged s.markCommitted = (s.markCommitted.act, s.markCommitted, [], none) := by
        rw [he]
        rfl
      refine ⟨_, by rw [hi', commitOp_released hi hc hm hr rfl, run_ok hl], ?_⟩
      exact ⟨rfl, rfl, rfl, rfl, rfl, rfl, rfl, rfl, rfl⟩
    exact ⟨hop .commit 4 rfl, hop .cCommit 2 rfl⟩
  · show run s (commitOp 4 s) = _
    rw [commitOp_done hi hc he, run_ok hl]
  · show run s (commitOp 2 s) = _
    rw [commitOp_done hi hc he, run_ok hl]
  · have hu : Unheld s.markCommitted s.markCommitted.act := ⟨h0, hf, ho.1, ht, hw⟩
    have hcore : (s.markCommitted.core s.act.core).counter n = (s.core s.act.core).counter n :=
      congrArg (look 0 · n) (look_map_snd Core.counters
        (fun c => { c with queues := c.queues.map fun q => q.map fun e => if e.aid == s.act.aid then { e with early := false } else e })
        (fun _ => rfl) s.cores s.act.core)
    obtain ⟨t, f, memo, hr, hact, hsum, hfl, hd, hsrc, hitem⟩ := releaseAll_cinc_send hu n v (sc := sc) hph hp hg
    rw [← he] at hr
    refine ⟨_, (congrArg (run s) (commitOp_released hi hc hm hr (by rw [hact]; rfl))).trans (run_ok hl), ?_, rfl, ?_, ?_, f, hfl, hd, hsrc, hitem⟩
    · rw [State.advance_committed, State.modAct_act, hact]
      rfl
    · rw [State.advance_pc, State.modAct_act, hact]
      rfl
    · rw [← hcore]
      exact hsum

end Sys2Proof.Machine
end

section
/-! DONE and EXIT (02 R52, R66; 12 R315, R319). -/

namespace Sys2Proof.Machine
open Sys2Proof.Safety

/-! ## What has come to nothing outstanding -/

/-- Flights added leave everything else but the next number of an operation. -/
theorem foldl_fly_eq {α : Type} (g : State → α → State) (hg : ∀ s a, g s a = s ∨ ∃ f, g s a = s.fly f) (l : List α) (s : State) :
    ∃ env wire, l.foldl g s = { s with env := env, wire := wire } := by
  induction l generalizing s with
  | nil => exact ⟨s.env, s.wire, rfl⟩
  | cons a l ih =>
    obtain ⟨env, wire, h⟩ := ih (g s a)
    refine ⟨env, wire, h.trans ?_⟩
    rcases hg s a with he | ⟨f, he⟩
    · rw [he]
    · rw [he]
      rfl

/-- Levels that settle change what is known of phases, launches and models, and send flights. -/
theorem settleLevels_eq (s : State) :
    ∃ exp phases launches env wire, s.settleLevels =
      { s with exp := exp, dir := { s.dir with phases := phases, launches := launches }, env := env, wire := wire } := by
  obtain ⟨env, wire, h⟩ := foldl_fly_eq (fun s (l : Launch) => match l.notify with
    | some (name, c) =>
      s.fly { id := 0, src := name, dst := name, die := 0, item := .launchDone l.num c l.core, after := l.after, scope := l.scope }
    | none => s) (fun s l => by
      split
      · exact .inr ⟨_, rfl⟩
      · exact .inl rfl) _ _
  exact ⟨_, _, _, env, wire, h⟩

/-! ## An activation that ends -/

/-- What the end of an activation leaves alone: the others, memory, the actors, pools and partitions. -/
structure Ended (s t : State) : Prop where
  act : t.act = {}
  acts : t.acts = s.acts
  mem : t.mem = s.mem
  actors : t.dir.actors = s.dir.actors
  pools : t.dir.pools = s.dir.pools
  parts : t.parts = s.parts

theorem releaseTiles_eq (s : State) (aid : Nat) : ∃ cores, s.releaseTiles aid = { s with cores := cores } := by
  unfold State.releaseTiles
  split
  · exact ⟨s.cores, rfl⟩
  · exact ⟨_, rfl⟩

theorem launchCovers_eq (s : State) (a : Act) : ∃ l, s.launchCovers a = { s with dir := { s.dir with launches := l } } := by
  unfold State.launchCovers
  split
  · exact ⟨s.dir.launches, rfl⟩
  · exact ⟨_, rfl⟩

theorem endAct_ended (s : State) (a : Act) (left : List Eff) : Ended s (s.endAct a left) := by
  obtain ⟨l, hl⟩ := launchCovers_eq s a
  unfold State.endAct
  rw [hl]
  dsimp only
  generalize hu : State.clearRecord _ a.aid = u
  have hE : Ended s u := by
    rw [← hu]
    exact ⟨rfl, rfl, rfl, rfl, rfl, rfl⟩
  obtain ⟨cores, hc⟩ := releaseTiles_eq u a.aid
  rw [hc]
  obtain ⟨exp, ph, la, env, wire, hs⟩ := settleLevels_eq { u with cores := cores }
  rw [hs]
  exact ⟨hE.act, hE.acts, hE.mem, hE.actors, hE.pools, hE.parts⟩

section
variable {s : State} (he : s.act.staged = []) (hm : s.act.committed = true ∨ s.mirrored s.act = false)
include he

/-- With nothing staged, the activation ends. -/
theorem releaseAndEnd_ended : ∃ t, s.releaseAndEnd = .ok t ∧ Ended s t := by
  unfold State.releaseAndEnd
  rw [he]
  cases s.act.committed with
  | true => exact ⟨_, rfl, endAct_ended s _ _⟩
  | false => exact ⟨_, rfl, endAct_ended s _ _⟩

omit he in
include hm in
theorem not_awaitsDigest : (!s.act.committed && s.awaitsDigest) = false := by
  rcases hm with h | h
  · rw [h]
    rfl
  · rw [awaitsDigest_unmirrored h, Bool.and_false]

include hm in
theorem doneOp_ended (hi : s.act.eseq.idle = true) : ∃ t, doneOp s = .ok t ∧ Ended s t := by
  obtain ⟨t, ht, hE⟩ := releaseAndEnd_ended he
  refine ⟨t, ?_, hE⟩
  rw [doneOp, meetE_idle hi, bind_ok, not_awaitsDigest hm, if_neg Bool.false_ne_true, ht]

end

/-! ## An actor that begins to exit -/

/-- An actor changed in its directory entry. -/
theorem find?_modActor {s : State} {n : Word} {me : Actor} {f : Actor → Actor} (hf : ∀ a : Actor, (f a).name = a.name)
    (h : s.dir.actors.find? (fun x => x.name == n) = some me) :
    (s.modActor n f).dir.actors.find? (fun x => x.name == n) = some (f me) := by
  refine (find?_mapIf s.dir.actors fun x _ => congrArg (· == n) (hf x)).trans ?_
  rw [h, Option.map_some, if_pos (List.find?_some (p := fun x : Actor => x.name == n) h)]

theorem takeDown_actor {s : State} {n : Word} {r : Nat} {me : Actor} (h : s.dir.actors.find? (fun x => x.name == n) = some me) :
    (s.takeDown n r).dir.actors.find? (fun x => x.name == n) = some { me with life := .exiting r } :=
  find?_modActor (f := fun a => { a with life := .exiting r }) (fun _ => rfl) h

theorem exitNormally_actor {s : State} {n : Word} {aid : Nat} {me : Actor} (h : s.dir.actors.find? (fun x => x.name == n) = some me)
    (hl : me.life = .live) :
    (s.exitNormally n aid).dir.actors.find? (fun x => x.name == n) = some { me with life := .exiting 0 } := by
  refine (find?_modActor (s := s) (f := fun a => { a with life := if a.life == .live then .exiting 0 else a.life }) (fun _ => rfl) h).trans ?_
  rw [hl]
  rfl

theorem exitNormally_dead {s : State} {n : Word} {aid : Nat} (h : s.act.live = false) : (s.exitNormally n aid).act.live = false := by
  show (if s.act.live && _ then ({} : Act) else s.act).live = false
  rw [h, Bool.false_and, if_neg Bool.false_ne_true, h]

theorem exitNormally_mem (s : State) (n : Word) (aid : Nat) : (s.exitNormally n aid).mem = s.mem := rfl

/-! ## The forms -/

theorem execExit_waits {s : State} {a : BitVec 5} (hl : s.act.live = true) (hr : s.act.run ≠ 0) (hi : s.act.eseq.idle = true)
    (ha : Clean s a) (h : (s.act.getX a ≠ 0 ∧ s.exitsAlone = false) ∨ (s.act.getX a = 0 ∧ s.act.committed = true)) :
    execExit a s = .next (s.modAct fun x => { x with wait := .retry }) := by
  rw [execExit, ctlX_clean ha, bind_ok, meetE_idle hi, bind_ok]
  rcases h with ⟨hv, h⟩ | ⟨hv, hc⟩
  · rw [if_neg hv, h]
    exact run_stall hl
  · rw [if_pos hv, hc, Bool.not_true, Bool.false_and, if_neg Bool.false_ne_true, if_pos hr]
    exact run_stall hl

theorem execExit_zero {s : State} {a : BitVec 5} (hl : s.act.live = true) (hr : s.act.run = 0) (hi : s.act.eseq.idle = true)
    (ha : Clean s a) (he : s.act.staged = []) (hm : s.act.committed = true ∨ s.mirrored s.act = false) (hv : s.act.getX a = 0) :
    ∃ t, execExit a s = .next (t.exitNormally s.act.name s.act.aid) ∧ Ended s t := by
  obtain ⟨t, ht, hE⟩ := releaseAndEnd_ended he
  refine ⟨t, ?_, hE⟩
  rw [execExit, ctlX_clean ha, bind_ok, meetE_idle hi, bind_ok, if_pos hv, not_awaitsDigest hm, if_neg Bool.false_ne_true,
    if_neg (not_not.2 hr), ht, bind_ok, run_ok hl]

theorem execExit_reason {s : State} {a : BitVec 5} (hl : s.act.live = true) (hx : s.exitsAlone = true) (hi : s.act.eseq.idle = true)
    (ha : Clean s a) (hv : s.act.getX a ≠ 0) :
    execExit a s = .next (s.takeDown s.act.name (if (s.act.getX a).toNat ≤ 20 then (s.act.getX a).toNat else 1)) := by
  rw [execExit, ctlX_clean ha, bind_ok, meetE_idle hi, bind_ok, if_neg hv, hx, Bool.not_true, if_neg Bool.false_ne_true, run_ok hl]

/-- Settles O29: the activation ends with nothing left, or is discarded with its actor. -/
theorem endingForms : Obligations.EndingForms := by
  refine ⟨fun s hl hi he hm => ?_, fun s a hl hr hi ha h => execExit_waits hl hr hi ha h, fun s a me hl hr hi ha he hm hk hd hlive => ?_⟩
  · intro ended
    obtain ⟨t, ht, hE⟩ := doneOp_ended he hm hi
    have hop (i : Instr) (hi' : exec i s = run s (doneOp s)) : ended i :=
      ⟨t, by rw [hi', ht, run_ok hl], hE.act, hE.acts, hE.mem, hE.actors, hE.pools, hE.parts⟩
    exact ⟨hop .done rfl, hop .cDone rfl⟩
  · intro v
    by_cases hv : s.act.getX a = 0
    · have hr0 : s.act.run = 0 := hr.resolve_right fun h => h.1 hv
      obtain ⟨t, ht, hE⟩ := execExit_zero hl hr0 hi ha he hm hv
      refine ⟨_, ht, exitNormally_dead (by rw [hE.act]), ?_, _, exitNormally_actor (by rw [hE.actors]; exact hd) hlive, ?_⟩
      · rw [exitNormally_mem, hE.mem]
      · show Life.exiting 0 = .exiting (if v ≤ 20 then v else 1)
        rw [show v = 0 from congrArg BitVec.toNat hv]
        rfl
    · have hx : s.exitsAlone = true := by
        rcases hr with hr | hr
        · rw [State.exitsAlone, hr]
          rfl
        · exact hr.2
      refine ⟨_, execExit_reason hl hx hi ha hv, ?_, s.takeDown_mem _ _, _, takeDown_actor hd, rfl⟩
      rw [State.takeDown_act, hl, beq_self_eq_true]
      rfl

end Sys2Proof.Machine
end

section
/-! Links, monitors and the trap flag (03 R68 to R71, R85, R86; 12 R316). -/

namespace Sys2Proof.Machine
open Sys2Proof.Safety

/-! ## Free references -/

theorem firstUnused_bounds (used : List Nat) (fuel n : Nat) : n ≤ firstUnused used fuel n ∧ firstUnused used fuel n ≤ n + fuel := by
  induction fuel generalizing n with
  | zero => exact ⟨le_rfl, le_rfl⟩
  | succ k ih =>
    unfold firstUnused
    split
    · have := ih (n + 1)
      omega
    · omega

/-- A number that the search ends at though it is used has come after as many used ones as the search has tried. -/
theorem used_of_firstUnused {used : List Nat} {fuel n : Nat} (h : firstUnused used fuel n ∈ used) : ∀ k ≤ fuel, n + k ∈ used := by
  induction fuel generalizing n with
  | zero =>
    intro k hk
    obtain rfl : k = 0 := by omega
    exact h
  | succ m ih =>
    unfold firstUnused at h
    split at h
    next hc =>
      intro k hk
      cases k with
      | zero => exact List.contains_iff_mem.1 hc
      | succ j =>
        have := ih h j (by omega)
        rwa [show n + 1 + j = n + (j + 1) by omega] at this
    next hc => exact absurd (List.contains_iff_mem.2 h) hc

theorem firstUnused_not_mem (used : List Nat) (n : Nat) : firstUnused used used.length n ∉ used := by
  intro h
  have hsub : List.range' n (used.length + 1) ⊆ used := by
    intro m hm
    obtain ⟨k, hk, rfl⟩ := List.mem_range'.1 hm
    simpa using used_of_firstUnused h k (by omega)
  have := ((List.nodup_range' (s := n) (n := used.length + 1)).subperm hsub).length_le
  rw [List.length_range'] at this
  omega

/-- A reference is nonzero and its number is none of those used, if they are few. -/
theorem freshRef_spec (s : State) {used : List Nat} (h : used.length ≤ 64) :
    (s.freshRef used).1 ≠ 0 ∧ (s.freshRef used).1.toNat ∉ used := by
  have hb := firstUnused_bounds used used.length (Config.seed s.env.free % 2 ^ 31 + 1)
  have hs : Config.seed s.env.free % 2 ^ 31 < 2 ^ 31 := Nat.mod_lt _ (by decide)
  have hn := firstUnused_not_mem used (Config.seed s.env.free % 2 ^ 31 + 1)
  have ht : (s.freshRef used).1.toNat = firstUnused used used.length (Config.seed s.env.free % 2 ^ 31 + 1) := by
    rw [State.freshRef]
    dsimp only
    rw [BitVec.toNat_ofNat]
    exact Nat.mod_eq_of_lt (by omega)
  refine ⟨fun h0 => ?_, ht ▸ hn⟩
  rw [h0] at ht
  have : (0 : Word32).toNat = 0 := rfl
  omega

/-! ## The tables of links -/

theorem poolOf_actor (s : State) {n : Word} (h : nameKind n = 0) : s.poolOf n = none := by
  rw [State.poolOf, h]
  rfl

theorem linksOf_actor (s : State) {n : Word} (h : nameKind n = 0) :
    s.linksOf n = ((s.dir.actors.find? fun a => a.name == n).map (·.links)).getD [] := by
  rw [State.linksOf, poolOf_actor s h]

theorem linksOf_of {s : State} {n : Word} {a : Actor} (h : nameKind n = 0) (ha : s.dir.actors.find? (fun x => x.name == n) = some a) :
    s.linksOf n = a.links := by
  rw [linksOf_actor s h, ha]
  rfl

/-- What an actor's entry is after another's is changed, or its own. -/
theorem find?_modActor_any (s : State) (n m : Word) {f : Actor → Actor} (hf : ∀ a : Actor, (f a).name = a.name) :
    (s.modActor m f).dir.actors.find? (fun x => x.name == n) =
      (s.dir.actors.find? fun x => x.name == n).map fun a => if a.name == m then f a else a :=
  find?_mapIf s.dir.actors fun x _ => congrArg (· == n) (hf x)

/-- The table of a name is changed where it is named, and nowhere else. -/
theorem linksOf_modLinks {s : State} {n m : Word} {f : List LinkEntry → List LinkEntry} {a : Actor} (h : nameKind n = 0)
    (ha : s.dir.actors.find? (fun x => x.name == n) = some a) :
    (s.modLinks m f).linksOf n = if n = m then f (s.linksOf n) else s.linksOf n := by
  have hn : a.name = n := beq_iff_eq.1 (List.find?_some (p := fun x : Actor => x.name == n) ha)
  rw [linksOf_of h ha, linksOf_actor _ h]
  refine (congrArg (fun o => (Option.map (·.links) o).getD []) ((find?_modActor_any s n m (f := fun a => { a with links := f a.links }) fun _ => rfl).trans (by rw [ha, Option.map_some]))).trans ?_
  rw [hn]
  by_cases hm : n = m
  · rw [if_pos hm, if_pos (beq_iff_eq.2 hm)]
    rfl
  · rw [if_neg hm, if_neg (by simpa using hm)]
    rfl

/-- An actor has an entry before and after a change of tables. -/
theorem find?_modLinks {s : State} {n m : Word} {f : List LinkEntry → List LinkEntry} {a : Actor}
    (ha : s.dir.actors.find? (fun x => x.name == n) = some a) :
    ∃ b, (s.modLinks m f).dir.actors.find? (fun x => x.name == n) = some b :=
  ⟨_, (find?_modActor_any s n m (f := fun a => { a with links := f a.links }) fun _ => rfl).trans (by rw [ha, Option.map_some])⟩

theorem mem_addEntry {partner : Word} {ref : Word32} {t : LinkType} {l : List LinkEntry} (h : (freeEntry l).isSome = true) :
    ∃ i, (⟨i, partner, ref, t⟩ : LinkEntry) ∈ addEntry partner ref t l := by
  obtain ⟨i, hi⟩ := Option.isSome_iff_exists.1 h
  refine ⟨i, ?_⟩
  rw [addEntry, hi]
  exact List.mem_append_left _ (List.mem_append_right _ (List.mem_singleton.2 rfl))

theorem not_mem_dropEntry {partner : Word} {t : LinkType} {ref : Option Word32} {l : List LinkEntry} {e : LinkEntry}
    (h : e ∈ dropEntry partner t ref l) : ¬(e.partner = partner ∧ e.type = t ∧ (ref = none ∨ ref = some e.ref)) := by
  have hf := (List.mem_filter.1 h).2
  rintro ⟨hp, ht, hr⟩
  rw [hp, ht, beq_self_eq_true, beq_self_eq_true] at hf
  rcases hr with hr | hr
  · rw [hr] at hf
    cases hf
  · rw [hr, beq_self_eq_true, Bool.or_true] at hf
    cases hf

theorem mem_of_mem_dropEntry {partner : Word} {t : LinkType} {ref : Option Word32} {l : List LinkEntry} {e : LinkEntry}
    (h : e ∈ dropEntry partner t ref l) : e ∈ l := (List.mem_filter.1 h).1

/-! ## Two actors linked, or parted -/

section
variable {s : State} {n m : Word} {a b : Actor} (hn : nameKind n = 0) (hm : nameKind m = 0) (hne : n ≠ m)
  (ha : s.dir.actors.find? (fun x => x.name == n) = some a) (hb : s.dir.actors.find? (fun x => x.name == m) = some b)
  (f g : List LinkEntry → List LinkEntry)
include hne ha

include hn in
theorem linksOf_both_left : ((s.modLinks n f).modLinks m g).linksOf n = f a.links := by
  obtain ⟨c, hc⟩ := find?_modLinks (m := n) (f := f) ha
  rw [linksOf_modLinks hn hc, if_neg hne, linksOf_modLinks hn ha, if_pos rfl, linksOf_of hn ha]

omit ha in
include hm hb in
theorem linksOf_both_right : ((s.modLinks n f).modLinks m g).linksOf m = g b.links := by
  obtain ⟨c, hc⟩ := find?_modLinks (m := n) (f := f) hb
  rw [linksOf_modLinks hm hc, if_pos rfl, linksOf_modLinks hm hb, if_neg hne.symm, linksOf_of hm hb]

end

/-! ## The forms of an actor and another -/

section
variable {s : State} {a d : BitVec 5} {me you : Actor} (hl : s.act.live = true) (hs : Solo s) (hc : Clean s a)
  (hme : nameKind s.act.name = 0) (hd : s.dir.actors.find? (fun x => x.name == s.act.name) = some me)
include hl hs hc hme hd

section
variable (ht : s.linkTarget (s.act.getX a) = some (you.name, you.links)) (hk : nameKind (s.act.getX a) = 0) (hne : you.name ≠ s.act.name)
  (hf1 : (freeEntry me.links).isSome = true) (hf2 : (freeEntry you.links).isSome = true)
include ht hk hne hf1 hf2

theorem execLink_new (h : ∀ e ∈ me.links, ¬(e.partner = you.name ∧ e.type = .link)) :
    execLink a s = .next (((s.modLinks s.act.name (addEntry you.name 0 .link)).modLinks you.name (addEntry s.act.name 0 .link)).advance 4) := by
  have hany : (you.name == s.act.name || me.links.any fun e => e.partner == you.name && e.type == .link) = false := by
    rw [Bool.or_eq_false_iff]
    refine ⟨beq_eq_false_iff_ne.2 hne, List.any_eq_false.2 fun e he => ?_⟩
    simpa using h e he
  rw [execLink, ctlX_clean hc, bind_ok, need_of (beq_iff_eq.2 hk), bind_ok, once_solo hs, ht]
  dsimp only
  rw [linksOf_of hme hd, hany, if_neg Bool.false_ne_true, hf1, hf2, Bool.and_self, need_true, bind_ok, run_ok hl]

theorem execMon_new (h : ∀ e ∈ me.links, ¬(e.partner = you.name ∧ e.type = .monitor)) :
    ∃ used, used.length ≤ me.links.length ∧
      execMon a d s = .next ((((s.freshRef used).2.modLinks s.act.name (addEntry you.name (s.freshRef used).1 .monitor)).modLinks you.name
        (addEntry s.act.name (s.freshRef used).1 .monitored)).result 4 d ((s.freshRef used).1.zeroExtend 64)) := by
  have hfind : me.links.find? (fun e => e.partner == you.name && e.type == .monitor) = none :=
    List.find?_eq_none.2 fun e he => by simpa using h e he
  refine ⟨(me.links.filter fun e => e.type == .monitor).map fun e => e.ref.toNat, ?_, ?_⟩
  · rw [List.length_map]
    exact List.length_filter_le _ _
  rw [execMon, ctlX_clean hc, bind_ok, need_of (beq_iff_eq.2 hk), bind_ok, once_solo hs, ht]
  dsimp only
  rw [linksOf_of hme hd, if_neg (by simpa using hne), hfind]
  dsimp only
  rw [hf1, hf2, Bool.and_self, need_true, bind_ok]
  exact run_ok hl

end

theorem execUnlink_found {e : LinkEntry} (hk : nameKind (s.act.getX a) = 0)
    (h : me.links.find? (fun e => e.type == .link && sameIndex e.partner (s.act.getX a) && incOk (s.act.getX a) (nameInc e.partner)) = some e) :
    execUnlink a s = .next (((s.modLinks s.act.name (dropEntry e.partner .link none)).modLinks e.partner (dropEntry s.act.name .link none)).advance 4) := by
  rw [execUnlink, ctlX_clean hc, bind_ok, need_of (beq_iff_eq.2 hk), bind_ok, once_solo hs, linksOf_of hme hd, h]
  exact run_ok hl

theorem execDemon_found {e : LinkEntry} (hv : (s.act.getX a).toNat < 2 ^ 32)
    (h : me.links.find? (fun e => e.type == .monitor && e.ref == (s.act.getX a).setWidth 32) = some e) :
    execDemon a s = .next (((s.modLinks s.act.name (dropEntry e.partner .monitor (some ((s.act.getX a).setWidth 32)))).modLinks e.partner
      (dropEntry s.act.name .monitored (some ((s.act.getX a).setWidth 32)))).advance 4) := by
  rw [execDemon, ctlX_clean hc, bind_ok, low32_of hv, bind_ok, once_solo hs, linksOf_of hme hd, h]
  exact run_ok hl

theorem execDemon_none (hv : (s.act.getX a).toNat < 2 ^ 32)
    (h : me.links.find? (fun e => e.type == .monitor && e.ref == (s.act.getX a).setWidth 32) = none) : execDemon a s = .next (s.advance 4) := by
  rw [execDemon, ctlX_clean hc, bind_ok, low32_of hv, bind_ok, once_solo hs, linksOf_of hme hd, h]
  exact run_ok hl

omit hl hs hc in
/-- What is left of an actor's table after DEMON has been another table of which the entry is dropped. -/
theorem demon_links {e : LinkEntry} (ref : Word32) (x : LinkEntry)
    (hx : x ∈ ((s.modLinks s.act.name (dropEntry e.partner .monitor (some ref))).modLinks e.partner
      (dropEntry s.act.name .monitored (some ref))).linksOf s.act.name) : ¬(x.partner = e.partner ∧ x.type = .monitor ∧ x.ref = ref) := by
  obtain ⟨c, hc⟩ := find?_modLinks (m := s.act.name) (f := dropEntry e.partner .monitor (some ref)) hd
  rw [linksOf_modLinks hme hc, linksOf_modLinks hme hd, if_pos rfl] at hx
  have hin : x ∈ dropEntry e.partner .monitor (some ref) (s.linksOf s.act.name) := by
    split at hx
    · exact mem_of_mem_dropEntry hx
    · exact hx
  rintro ⟨hp, ht, hr⟩
  exact not_mem_dropEntry hin ⟨hp, ht, .inr (by rw [hr])⟩

omit hme hd in
theorem execTrapx_of (hv : (s.act.getX a).toNat ≤ 1) :
    execTrapx a s = .next (((s.modActor s.act.name fun t => { t with trapx := s.act.getX a == 1 }).modPool s.act.name fun p =>
      { p with trapx := s.act.getX a == 1 }).advance 4) := by
  rw [execTrapx, ctlX_clean hc, bind_ok, need_of (decide_eq_true hv), bind_ok, once_solo hs, run_ok hl]

end

/-! ## What the runs of a mirrored child take (03 R85, R86) -/

/-- The instructions that do nothing before they are done once, with the register they answer in. -/
theorem once_forms {s : State} {h : BitVec 1} {a d c : BitVec 5} (hc : Clean s a) (hk : nameKind (s.act.getX a) = 0)
    (hv : (s.act.getX a).toNat < 2 ^ 32) :
    (∀ i ∈ [Instr.link a, .unlink a, .demon a], ∃ f, exec i s = run s (s.once 4 0 f)) ∧
    ∀ i ∈ [Instr.mon a d, .tcan a d, .crd h d c], ∃ f, exec i s = run s (s.once 4 d f) := by
  have hkind : (nameKind (s.act.getX a) == 0) = true := beq_iff_eq.2 hk
  simp only [List.forall_mem_cons]
  refine ⟨⟨?_, ?_, ?_, List.forall_mem_nil _⟩, ?_, ?_, ⟨_, rfl⟩, List.forall_mem_nil _⟩
  · show ∃ f, execLink a s = run s (s.once 4 0 f)
    rw [execLink, ctlX_clean hc, bind_ok, need_of hkind, bind_ok]
    exact ⟨_, rfl⟩
  · show ∃ f, execUnlink a s = run s (s.once 4 0 f)
    rw [execUnlink, ctlX_clean hc, bind_ok, need_of hkind, bind_ok]
    exact ⟨_, rfl⟩
  · show ∃ f, execDemon a s = run s (s.once 4 0 f)
    rw [execDemon, ctlX_clean hc, bind_ok, low32_of hv, bind_ok]
    exact ⟨_, rfl⟩
  · show ∃ f, execMon a d s = run s (s.once 4 d f)
    rw [execMon, ctlX_clean hc, bind_ok, need_of hkind, bind_ok]
    exact ⟨_, rfl⟩
  · show ∃ f, execTcan a d s = run s (s.once 4 d f)
    rw [execTcan, ctlX_clean hc, bind_ok, low32_of hv, bind_ok]
    exact ⟨_, rfl⟩

/-- Settles O30: entries are added to and dropped from both tables; a run of a mirrored child takes what was answered. -/
theorem linksAndMonitors : Obligations.LinksAndMonitors := by
  refine ⟨fun s a d me you hl hs hc hk hd ht hka hne hky hdy hf1 hf2 hlen => ?_, fun s a me hl hs hc hk hd => ⟨fun hv => ?_, fun hv => ?_⟩,
    fun s h a d c me hl hc hk hv hm => ⟨fun v p hp => ?_, fun hn hr => ?_⟩⟩
  · intro me' you'
    refine ⟨fun h => ⟨_, execLink_new hl hs hc hk hd ht hka hne hf1 hf2 h, rfl, rfl, ?_, ?_⟩, fun h => ?_, fun e he hp =>
      ⟨_, execUnlink_found hl hs hc hk hd hka he, rfl, rfl, fun x hx => ?_, fun x hx => ?_⟩⟩
    · obtain ⟨i, hi⟩ := mem_addEntry (partner := you.name) (ref := 0) (t := .link) hf1
      exact ⟨i, by
        show _ ∈ State.linksOf (State.modLinks _ _ _) _
        rwa [linksOf_both_left hk hne.symm hd]⟩
    · obtain ⟨i, hi⟩ := mem_addEntry (partner := s.act.name) (ref := 0) (t := .link) hf2
      exact ⟨i, by
        show _ ∈ State.linksOf (State.modLinks _ _ _) _
        rwa [linksOf_both_right hky hne.symm hdy]⟩
    · obtain ⟨used, hu, he⟩ := execMon_new (d := d) hl hs hc hk hd ht hka hne hf1 hf2 h
      refine ⟨_, he, (s.freshRef used).1, (freshRef_spec s (hu.trans hlen)).1, rfl, rfl, ?_, ?_⟩
      · obtain ⟨i, hi⟩ := mem_addEntry (partner := you.name) (ref := (s.freshRef used).1) (t := .monitor) hf1
        exact ⟨i, by
          show _ ∈ State.linksOf (State.modLinks _ _ _) _
          rwa [linksOf_both_left (s := (s.freshRef used).2) hk hne.symm hd]⟩
      · obtain ⟨i, hi⟩ := mem_addEntry (partner := s.act.name) (ref := (s.freshRef used).1) (t := .monitored) hf2
        exact ⟨i, by
          show _ ∈ State.linksOf (State.modLinks _ _ _) _
          rwa [linksOf_both_right (s := (s.freshRef used).2) hky hne.symm hdy]⟩
    · have hx' : x ∈ dropEntry e.partner .link none me.links := by
        rw [hp] at hx ⊢
        rw [← linksOf_both_left (f := dropEntry you.name .link none) hk hne.symm hd (dropEntry s.act.name .link none)]
        exact hx
      rintro ⟨h1, h2⟩
      exact not_mem_dropEntry hx' ⟨h1.trans hp.symm, h2, .inl rfl⟩
    · have hx' : x ∈ dropEntry s.act.name .link none you.links := by
        rw [hp] at hx
        rw [← linksOf_both_right (n := s.act.name) hky hne.symm hdy (dropEntry you.name .link none) (dropEntry s.act.name .link none)]
        exact hx
      rintro ⟨h1, h2⟩
      exact not_mem_dropEntry hx' ⟨h1, h2, .inl rfl⟩
  · cases hf : me.links.find? (fun e => e.type == .monitor && e.ref == (s.act.getX a).setWidth 32) with
    | none => exact ⟨_, execDemon_none hl hs hc hk hd hv hf, rfl, rfl, fun _ => rfl, fun e he => by cases he⟩
    | some e =>
      refine ⟨_, execDemon_found hl hs hc hk hd hv hf, rfl, rfl, fun h => ?_, fun e' he x hx => ?_⟩
      · have := List.find?_some hf
        exact absurd (by simpa using this) (h e (List.mem_of_find?_eq_some hf))
      · obtain rfl : e = e' := Option.some.inj he
        have hr : e.ref = (s.act.getX a).setWidth 32 := by
          have := List.find?_some hf
          simp only [Bool.and_eq_true, beq_iff_eq] at this
          exact this.2
        rw [hr]
        exact demon_links hk hd _ x hx
  · exact ⟨_, execTrapx_of hl hs hc hv, rfl, rfl, _, find?_modActor (s := s) (fun _ => rfl) hd, rfl⟩
  · obtain ⟨h1, h2⟩ := once_forms (h := h) (d := d) (c := c) hc hk hv
    refine ⟨fun i hi => ?_, fun i hi => ?_⟩
    · obtain ⟨f, hf⟩ := h1 i hi
      rw [hf, once_shared hm hp, run_ok hl]
    · obtain ⟨f, hf⟩ := h2 i hi
      rw [hf, once_shared hm hp, run_ok hl]
  · obtain ⟨h1, h2⟩ := once_forms (h := h) (d := d) (c := c) hc hk hv
    intro i hi
    rcases List.mem_append.1 (show i ∈ [Instr.link a, .unlink a, .demon a] ++ [Instr.mon a d, .tcan a d, .crd h d c] from hi) with hi | hi
    · obtain ⟨f, hf⟩ := h1 i hi
      rw [hf, once_ahead hm hn hr]
      exact run_stall hl
    · obtain ⟨f, hf⟩ := h2 i hi
      rw [hf, once_ahead hm hn hr]
      exact run_stall hl

end Sys2Proof.Machine
end

section
/-! Timers, KILL, and what a kill discards (02 R49, R66; 03 R73; 12 R314, R318). -/

namespace Sys2Proof.Machine
open Sys2Proof.Safety

/-! ## Timers (12 R318) -/

theorem timersOf_of {s : State} {n : Word} {a : Actor} (h : nameKind n = 0) (ha : s.dir.actors.find? (fun x => x.name == n) = some a) :
    s.timersOf n = a.timers := by
  rw [State.timersOf, poolOf_actor s h, ha]
  rfl

theorem timersOf_modTimers {s : State} {n : Word} {f : List Timer → List Timer} {a : Actor} (h : nameKind n = 0)
    (ha : s.dir.actors.find? (fun x => x.name == n) = some a) : (s.modTimers n f).timersOf n = f a.timers :=
  timersOf_of (s := s.modTimers n f) (a := { a with timers := f a.timers }) h
    (find?_modActor (s := s) (f := fun a => { a with timers := f a.timers }) (fun _ => rfl) ha)

theorem timersOf_result (s : State) (len : Nat) (d : BitVec 5) (v : Word) (p : Bool) (n : Word) :
    (s.result len d v p).timersOf n = s.timersOf n := rfl

/-- A time word of a span to come. -/
theorem timerDue_span {v : Word} (time : Nat) (h0 : 0 < v.toNat) (h : v.toNat < 2 ^ 32) : timerDue v time = some (time + 256 * v.toNat) := by
  have hb : v.getLsbD 32 = false := Nat.testBit_lt_two_pow h
  have hz : bits v.toNat 0 32 = v.toNat := by
    exact Nat.mod_eq_of_lt h
  rw [timerDue, hb, if_neg Bool.false_ne_true, hz, if_neg (by omega)]

section
variable {s : State} {a d : BitVec 5} {me : Actor} (hl : s.act.live = true) (hs : Solo s) (hc : Clean s a)
  (hk : nameKind s.act.name = 0) (hd : s.dir.actors.find? (fun x => x.name == s.act.name) = some me)
include hl hs hc hk hd

theorem execTimer_span (hr : s.act.released = true) (h0 : 0 < (s.act.getX a).toNat) (h : (s.act.getX a).toNat < 2 ^ 32) (hn : me.timers.length < 16) :
    let r := s.freshRef (me.timers.map fun t => t.ref.toNat)
    execTimer a d s = .next ((r.2.modTimers s.act.name fun l => l ++ [({ ref := r.1, due := s.env.time + 256 * (s.act.getX a).toNat } : Timer)]).result 4 d
      (r.1.zeroExtend 64)) := by
  intro r
  have hlt : (s.act.getX a).toNat < 2 ^ 33 := by omega
  rw [execTimer, ctlX_clean hc, bind_ok, need_of (decide_eq_true hlt), bind_ok]
  dsimp only
  rw [timersOf_of hk hd, decide_eq_true hn, Bool.or_true, need_true, bind_ok, commits_released hr, once_solo hs, timersOf_of hk hd,
    show (s.freshRef (me.timers.map fun t => t.ref.toNat)).2.env.time = s.env.time from rfl, timerDue_span s.env.time h0 h]
  exact run_ok hl

theorem execTcan_of (h : (s.act.getX a).toNat < 2 ^ 32) :
    execTcan a d s = .next (if me.timers.any fun t => t.ref == (s.act.getX a).setWidth 32 then
        (s.modTimers s.act.name fun l => l.filter fun t => t.ref != (s.act.getX a).setWidth 32).result 4 d 1
      else s.result 4 d 0) := by
  rw [execTcan, ctlX_clean hc, bind_ok, low32_of h, bind_ok, once_solo hs, timersOf_of hk hd]
  split
  · exact run_ok hl
  · exact run_ok hl

end

/-! ## KILL (12 R314) -/

section
variable {s : State} {b a : BitVec 5} (hl : s.act.live = true) (hr : s.act.released = true) (hs : Solo s) (hf : s.fencesMet s.act = true)
  (ha : Clean s a) (hb : Clean s b) (h2 : nameKind (s.act.getX a) ≠ 2) (h3 : nameKind (s.act.getX a) ≠ 3)
include hl hr hs hf ha hb h2 h3

theorem execKill_of :
    let v := (s.act.getX b).toNat
    let r := if 1 ≤ v ∧ v ≤ 20 then v else 1
    let n := s.act.getX a
    execKill b a s = .next (if sameIndex n s.act.name && incOk n (nameInc s.act.name) then s.killActor s.act.name r
      else (s.fly { id := 0, src := s.act.name, dst := n, die := dieOf s.act.core, item := .kill r }).advance 4) := by
  intro v r n
  rw [execKill, ctlX_clean ha, bind_ok, ctlX_clean hb, bind_ok, need_of (bne_iff_ne.2 h2), bind_ok, need_of (bne_iff_ne.2 h3), bind_ok,
    commits_released hr, once_solo hs, awaitFences_met hf, bind_ok]
  split
  · exact run_ok hl
  · exact run_ok hl

end

/-! ## What a kill discards (02 R49, R66) -/

theorem mem_headedQueue {c : Core} {time : Nat} {q : List Entry} {e : Entry} (h : e ∈ c.headedQueue time q) : ∃ e' ∈ q, e.actor = e'.actor := by
  cases q with
  | nil => cases h
  | cons k q =>
    rcases List.mem_cons.1 h with rfl | h
    · refine ⟨k, List.mem_cons_self, ?_⟩
      split
      · obtain ⟨w, g, hk⟩ := headed_eq c k time
        rw [hk]
      · rfl
    · exact ⟨e, List.mem_cons_of_mem _ h, rfl⟩

/-- What is in a changed core's queues is in a queue of the state. -/
theorem mem_entries_map {s : State} {g : Core → Core} {e : Entry}
    (h : e ∈ ({ s with cores := s.cores.map fun c => (c.1, g c.2) } : State).entries) :
    ∃ c : Core, e ∈ (g c).queues.toList.flatten ∧ ∀ e' ∈ c.queues.toList.flatten, e' ∈ s.entries := by
  obtain ⟨c, hc, he⟩ := List.mem_flatMap.1 h
  obtain ⟨c', hc', rfl⟩ := List.mem_map.1 hc
  exact ⟨c'.2, he, fun e' h' => List.mem_flatMap.2 ⟨c', hc', h'⟩⟩

/-- Of the entries of a name none is left. -/
theorem dropEntries_actor {s : State} {n : Word} {e : Entry} (h : e ∈ (s.dropEntries fun e => e.actor == n).entries) : e.actor ≠ n := by
  obtain ⟨c, he, -⟩ := mem_entries_map (s := s) (g := fun c =>
    ({ c with queues := c.queues.map fun q => q.filter fun e => !(e.actor == n) } : Core).settleHeads s.env.time) h
  obtain ⟨q, hq, he⟩ := List.mem_flatten.1 he
  rw [Core.settleHeads, Vector.toList_map, Vector.toList_map, List.map_map] at hq
  obtain ⟨q', -, rfl⟩ := List.mem_map.1 hq
  obtain ⟨e', he', ha⟩ := mem_headedQueue he
  have := (List.mem_filter.1 he').2
  rw [ha]
  simpa using this

/-- Cores changed but for their queues. -/
theorem mem_entries_of_map {s : State} {g : Core → Core} (hg : ∀ c, (g c).queues = c.queues) {e : Entry}
    (h : e ∈ ({ s with cores := s.cores.map fun c => (c.1, g c.2) } : State).entries) : e ∈ s.entries := by
  obtain ⟨c, he, hs⟩ := mem_entries_map h
  rw [hg] at he
  exact hs e he

theorem dropPorts_entries {s : State} {p : Port → Bool} {e : Entry} (h : e ∈ (s.dropPorts p).entries) : e ∈ s.entries :=
  mem_entries_of_map (g := fun c => { c with ports := c.ports.filter fun t => !p t }) (fun _ => rfl) h

theorem freeTiles_entries {s : State} {p : Nat → Bool} {e : Entry} (h : e ∈ (s.freeTiles p).entries) : e ∈ s.entries :=
  mem_entries_of_map (g := fun c => { c with tiles := (c.tiles.filter fun t => !p t.owner), bufs := (c.bufs.filter fun b => !p b.owner) })
    (fun _ => rfl) h

theorem sweepTiles_entries {s : State} {e : Entry} (h : e ∈ s.sweepTiles.entries) : e ∈ s.entries := freeTiles_entries h

theorem leaveTickets_entries (s : State) (gone : Nat → Bool) : (s.leaveTickets gone).entries = s.entries := rfl

theorem takeDown_entries {s : State} {n : Word} {r : Nat} {e : Entry} (h : e ∈ (s.takeDown n r).entries) : e.actor ≠ n := by
  unfold State.takeDown at h
  dsimp only at h
  generalize hu : State.abandon _ (fun e => e.actor == n) = u at h
  rw [leaveTickets_entries] at h
  have h0 := sweepTiles_entries h
  have h1 : e ∈ ((u.dropEntries fun e => e.actor == n).dropPorts fun p => p.actor == n).entries := h0
  exact dropEntries_actor (dropPorts_entries h1)

theorem killable_live {s : State} {n : Word} {me : Actor} (hp : s.poolOf n = none) (hd : s.dir.actors.find? (fun x => x.name == n) = some me)
    (hl : me.life = .live) : s.killable n = true := by
  rw [State.killable, hp]
  refine List.any_eq_true.2 ⟨me, List.mem_of_find?_eq_some hd, ?_⟩
  rw [List.find?_some (p := fun x : Actor => x.name == n) hd, hl]
  rfl

/-- A kill of a name that can exit takes it down. -/
theorem killActor_down {s : State} {n : Word} (r : Nat) (h : s.killable n = true) :
    ∃ ps, s.killActor n r = ({ s with parts := ps } : State).takeDown n r := by
  obtain ⟨hf, -⟩ | ⟨-, hps⟩ := s.killActor_cases n r
  · rw [h] at hf
    cases hf
  · exact hps

/-- The exception of a live actor's activation. -/
theorem raise_down {s : State} {r : Nat} {note : Option Note} (h : s.killable s.act.name = true) :
    ∃ t, Settled s t ∧ t.mem = s.mem ∧ ∃ ps, s.raise r note = ({ t with parts := ps } : State).takeDown s.act.name r := by
  have hs := noteKill_settled s s.act.job s.act.core r note
  refine ⟨_, hs, noteKill_mem s _ _ _ _, killActor_down r ?_⟩
  rw [← h, State.killable, State.killable, poolOf_eq, poolOf_eq, hs.dir]

theorem raise_discards {s : State} {r : Nat} {note : Option Note} {me : Actor} (hl : s.act.live = true) (hp : s.poolOf s.act.name = none)
    (hd : s.dir.actors.find? (fun x => x.name == s.act.name) = some me) (hlive : me.life = .live) :
    (s.raise r note).act = {} ∧ (s.raise r note).mem = s.mem ∧
    (∀ a ∈ (s.raise r note).acts, a.name ≠ s.act.name) ∧ (∀ e ∈ (s.raise r note).entries, e.actor ≠ s.act.name) ∧
    (s.raise r note).dir.actors.find? (fun x => x.name == s.act.name) = some { me with life := .exiting r } := by
  obtain ⟨t, ht, hm, ps, he⟩ := raise_down (r := r) (note := note) (killable_live hp hd hlive)
  rw [he]
  refine ⟨?_, hm, fun a ha => ?_, fun e hx => takeDown_entries hx, takeDown_actor (by rw [ht.dir]; exact hd)⟩
  · rw [State.takeDown_act, show ({ t with parts := ps } : State).act = s.act from ht.act, hl, beq_self_eq_true]
    rfl
  · rw [State.takeDown_acts] at ha
    simpa using (List.mem_filter.1 ha).2

/-- Settles O31: a timer is kept by its reference; a kill is sent, or takes its actor down. -/
theorem timersAndKills : Obligations.TimersAndKills := by
  refine ⟨fun s a d me hl hr hs hc hk hd => ?_, fun s b a hl hr hs hf ha hb h2 h3 => ?_, fun s r n me hl hp hd hlive => ?_⟩
  · intro v
    refine ⟨fun h0 h hn => ⟨_, execTimer_span hl hs hc hk hd hr h0 h hn, ?_⟩, fun h => ⟨_, execTcan_of hl hs hc hk hd h, ?_⟩⟩
    · obtain ⟨hne, hnot⟩ := freshRef_spec s (used := me.timers.map fun t => t.ref.toNat) (by rw [List.length_map]; omega)
      refine ⟨_, hne, fun x hx he => hnot ?_, rfl, rfl, ?_⟩
      · rw [← he]
        exact List.mem_map.2 ⟨x, hx, rfl⟩
      · rw [timersOf_result]
        exact timersOf_modTimers (s := (s.freshRef (me.timers.map fun t => t.ref.toNat)).2) hk hd
    · have href (x : Timer) : (x.ref == (s.act.getX a).setWidth 32) = (x.ref.toNat == v) := by
        rw [Bool.eq_iff_iff, beq_iff_eq, beq_iff_eq, ← BitVec.toNat_inj, BitVec.toNat_setWidth, Nat.mod_eq_of_lt h]
      simp only [bne, href]
      cases hany : me.timers.any fun x => x.ref.toNat == v with
      | true => exact ⟨rfl, rfl, timersOf_modTimers (s := s) hk hd⟩
      | false =>
        refine ⟨rfl, rfl, (timersOf_of hk hd).trans (List.filter_eq_self.2 fun x hx => ?_).symm⟩
        rw [List.any_eq_false] at hany
        simpa using hany x hx
  · intro v r
    have he := execKill_of hl hr hs hf ha hb h2 h3
    dsimp only at he
    refine ⟨fun hne => ?_, fun heq => he.trans ?_⟩
    · rw [hne, Bool.false_and, if_neg Bool.false_ne_true] at he
      exact ⟨_, he, rfl, rfl, rfl, _, rfl, rfl, rfl, rfl⟩
    have hsame : (sameIndex (s.act.getX a) s.act.name && incOk (s.act.getX a) (nameInc s.act.name)) = true := by
      rw [heq, sameIndex, incOk, beq_self_eq_true, beq_self_eq_true, Bool.or_true]
      rfl
    rw [hsame, if_pos rfl]
  · obtain ⟨h1, h2, h3, h4, h5⟩ := raise_discards (r := r) (note := n) hl hp hd hlive
    exact ⟨h1, h2, h3, h4, _, h5, rfl, rfl, rfl, rfl, rfl, rfl⟩

end Sys2Proof.Machine
end

section
/-! NAMEREG, WHERE, PART and RNEW (12 R322 to R325). -/

namespace Sys2Proof.Machine
open Sys2Proof.Safety

/-! ## Numbers bound to an index (12 R322) -/

/-- What a number that an activation binds stands for: an actor's index, or a pool's above 2^30. -/
def ownIndex (n : Word) : Nat := if nameKind n = 1 then 2 ^ 30 + nameIndex n else nameIndex n

section
variable {s : State} {a d : BitVec 5} (hl : s.act.live = true) (ha : Clean s a)
include hl ha

theorem execNamereg_new (hr : s.act.released = true) (hv : (s.act.getX a).toNat < 0x3FFFFFC0) (hj : s.act.job ≠ 0)
    (hn : s.dir.bound s.act.job (s.act.getX a).toNat = none) :
    execNamereg a d s = .next (({ s with dir := { s.dir with
      aliases := s.dir.aliases ++ [(s.act.job, (s.act.getX a).toNat, ownIndex s.act.name)] } } : State).result 4 d 1) := by
  have hlt : (s.act.getX a).toNat < 2 ^ 30 := by omega
  rw [execNamereg, ctlX_clean ha, bind_ok, need_of (decide_eq_true hlt), bind_ok, commits_released hr]
  dsimp only
  split
  next h => cases h.symm.trans hn
  next =>
    rw [if_neg (by rintro (h | h); omega; exact hj h)]
    exact run_ok hl

theorem execNamereg_bound {i : Nat} (hr : s.act.released = true) (hv : (s.act.getX a).toNat < 2 ^ 30)
    (hn : s.dir.bound s.act.job (s.act.getX a).toNat = some i) (hi : i ≠ ownIndex s.act.name) : execNamereg a d s = .next (s.result 4 d 0) := by
  rw [execNamereg, ctlX_clean ha, bind_ok, need_of (decide_eq_true hv), bind_ok, commits_released hr]
  dsimp only
  split
  next j h =>
    obtain rfl : j = i := Option.some.inj (h.symm.trans hn)
    rw [if_neg (show ¬ j = if nameKind s.act.name = 1 then 2 ^ 30 + nameIndex s.act.name else nameIndex s.act.name from hi)]
    exact run_ok hl
  next h => cases h.symm.trans hn

omit hl ha in
/-- A binding added is found when there was none. -/
theorem bound_append {s t : State} {job : Half} {al i : Nat} (h : s.dir.bound job al = none)
    (ht : t.dir.aliases = s.dir.aliases ++ [(job, al, i)]) : t.dir.bound job al = some i := by
  rw [Dir.bound, Option.map_eq_none_iff] at h
  rw [Dir.bound, ht, List.find?_append, h, Option.none_or, List.find?_cons_of_pos (by simp)]
  rfl

theorem namereg_binds (hr : s.act.released = true) (hv : (s.act.getX a).toNat < 0x3FFFFFC0) (hj : s.act.job ≠ 0)
    (hn : s.dir.bound s.act.job (s.act.getX a).toNat = none) :
    Completes (.namereg a d) s fun t => t.act = (s.result 4 d 1).act ∧ t.mem = s.mem ∧
      t.dir.bound s.act.job (s.act.getX a).toNat = some (ownIndex s.act.name) :=
  ⟨_, execNamereg_new hl ha hr hv hj hn, rfl, rfl, bound_append hn rfl⟩

/-! ## Locations (12 R323) -/

theorem execWhereIs_here (h : s.act.getX a = 0) : execWhereIs a d s = .next (s.result 4 d ((location s.act.core).zeroExtend 64)) := by
  rw [execWhereIs, ctlX_clean ha, bind_ok]
  dsimp only
  rw [if_pos h]
  exact run_ok hl

theorem execWhereIs_found {x : Actor} (h : s.act.getX a ≠ 0) (hreach : reachable s.act.job (s.act.getX a) = true)
    (hres : s.resolve (s.act.getX a) = some x) (hx : x.name ≠ s.act.name) :
    execWhereIs a d s = .next (s.result 4 d ((location x.core).zeroExtend 64)) := by
  rw [execWhereIs, ctlX_clean ha, bind_ok]
  dsimp only
  rw [if_neg h, if_pos hreach, hres]
  dsimp only
  rw [if_neg hx]
  exact run_ok hl

theorem execWhereIs_away (h : s.act.getX a ≠ 0) (hres : s.resolve (s.act.getX a) = none) :
    execWhereIs a d s = .next (match (if nameKind (s.act.getX a) = 0 && nameJob (s.act.getX a) = s.act.job then s.liveElsewhere (s.act.getX a) else none) with
      | some t => s.result 4 d (s.locationElsewhere t.1 (s.act.getX a))
      | none => s.result 4 d 0xFFFFFFFFFFFFFFFF) := by
  rw [execWhereIs, ctlX_clean ha, bind_ok]
  dsimp only
  rw [if_neg h, hres, ite_self]
  cases (if nameKind (s.act.getX a) = 0 && nameJob (s.act.getX a) = s.act.job then s.liveElsewhere (s.act.getX a) else none) with
  | some t => exact run_ok hl
  | none => exact run_ok hl

omit hl ha in
/-- The package's number stands in bits 31 to 20 of the location word. -/
theorem locationElsewhere_package (s : State) (p : Nat) (n : Word) : (s.locationElsewhere p n).toNat / 2 ^ 20 = p % 4096 := by
  unfold State.locationElsewhere
  generalize Config.coreElsewhere s.env.free n = k
  rw [BitVec.toNat_ofNat]
  have h0 : p % 4096 < 4096 := Nat.mod_lt _ (by decide)
  have h1 : k % 4 < 4 := Nat.mod_lt _ (by decide)
  have h2 : k / 4 % 48 < 48 := Nat.mod_lt _ (by decide)
  have h3 : k / 192 % 5 < 5 := Nat.mod_lt _ (by decide)
  generalize p % 4096 = w at *
  generalize k % 4 = x at *
  generalize k / 4 % 48 = y at *
  generalize k / 192 % 5 = z at *
  omega

/-! ## Shares of a launch (12 R324) -/

theorem execPart_of {b : BitVec 5} {l : LaunchId} {k : Nat} (hb : Clean s b) (hA : (s.act.getX a).toNat < 2 ^ 32)
    (hB : (s.act.getX b).toNat < 2 ^ 18) (hk : (s.act.getX b).toNat / 2 ^ 16 = k) (hk2 : k ≤ 2) (hm : s.act.msg.launch = some l) :
    let t := (s.act.getX b).toNat % 2 ^ 16
    let c := (if k = 0 then l.x else if k = 1 then l.y else l.z).toNat
    execPart b a d s = .next (s.result 4 d (BitVec.ofNat 64 (min t ((s.act.getX a).toNat - c * t) * 2 ^ 32 + c * t))) := by
  intro t c
  have hbits : bits (s.act.getX b).toNat 16 2 = k := by
    rw [bits, Nat.shiftRight_eq_div_pow, hk]
    omega
  have ht : bits (s.act.getX b).toNat 0 16 = t := rfl
  have hne : k ≠ 3 := by omega
  have hct : c * t < 2 ^ 32 := by
    have h1 : c < 2 ^ 16 := BitVec.isLt _
    have h2 : t < 2 ^ 16 := Nat.mod_lt _ (by decide)
    exact (Nat.mul_lt_mul'' h1 h2).trans_eq (by decide)
  rw [execPart, ctlX_clean ha, bind_ok, ctlX_clean hb, bind_ok, hbits, decide_eq_true hA, decide_eq_true hB, decide_eq_true hne]
  dsimp only
  rw [Bool.and_self, Bool.and_self, need_true, bind_ok, hm, ht, partOp]
  dsimp only
  rw [show (if k = 0 then l.x else if k = 1 then l.y else l.z).toNat = c from rfl, Nat.mod_eq_of_lt hct]
  exact run_ok hl

end

/-! ## Regions renewed (12 R325) -/

/-- A key that is not listed reads as the default. -/
theorem look_unlisted {α : Type} (d : α) {l : List (Nat × α)} {k : Nat} (h : ∀ c ∈ l, c.1 ≠ k) : look d l k = d := by
  rcases look_mem d l k with hd | hm
  · exact hd
  · exact absurd rfl (h _ hm)

theorem zeroPool_zero (s : State) {core off n k : Nat} (h1 : poolKey core off ≤ k) (h2 : k < poolKey core off + n) :
    look 0 (s.zeroPool core off n).mem.cells k = 0 := by
  refine look_unlisted 0 fun c hc hk => ?_
  have := (List.mem_filter.1 hc).2
  rw [hk, Bool.or_eq_true, decide_eq_true_iff, decide_eq_true_iff] at this
  omega

/-- What RNEW makes of a region slot. -/
def Region.anew (r : Region) : Region := { r with state := .owned, renewed := r.state == .given || r.renewed }

theorem execRnew_of {s : State} {n : BitVec 3} (hl : s.act.live = true) (hr : (s.myRegion n.toNat).state ≠ .empty)
    (hw : s.awaitRegion (s.myRegion n.toNat) = .ok ()) :
    execRnew n s = .next (((((s.zeroPool s.act.core (s.myRegion n.toNat).offset (s.myRegion n.toNat).size).dropRegionPorts n.toNat).modRegion s.act
      n.toNat Region.anew)).advance 4) := by
  rw [execRnew]
  dsimp only
  rw [need_of (bne_iff_ne.2 hr), bind_ok, hw, bind_ok]
  exact run_ok hl

/-- Settles O32: a number is bound once, a name is located, a share is cut, and a region is zeroed and owned. -/
theorem namesSharesAndRegions : Obligations.NamesSharesAndRegions := by
  intro s n b a d hl ha A
  refine ⟨fun hr hv hj hk hn => ?_, fun hr hv hj hk hn => ?_, fun hr hv i hn hi => execNamereg_bound hl ha hr hv hn hi,
    fun h => execWhereIs_here hl ha h, fun x h hreach hres hx => execWhereIs_found hl ha h hreach hres hx, fun h hres hor => ?_,
    fun x h hres hk hj he => ⟨_, ?_, locationElsewhere_package s x.1 A⟩,
    fun hb hA hB k hk hk2 l hm => execPart_of hl ha hb hA hB hk hk2 hm, ?_⟩
  · have := namereg_binds (d := d) hl ha hr hv hj hn
    rwa [ownIndex, hk] at this
  · have := namereg_binds (d := d) hl ha hr hv hj hn
    rwa [ownIndex, hk] at this
  · refine (execWhereIs_away hl ha h hres).trans ?_
    have hnone : (if nameKind (s.act.getX a) = 0 && nameJob (s.act.getX a) = s.act.job then s.liveElsewhere (s.act.getX a) else none) = none := by
      split
      next hc =>
        rw [Bool.and_eq_true, decide_eq_true_iff, decide_eq_true_iff] at hc
        rcases hor with h0 | h0 | h0
        · exact absurd hc.1 h0
        · exact absurd hc.2 h0
        · exact h0
      next => rfl
    rw [hnone]
  · refine (execWhereIs_away hl ha h hres).trans ?_
    rw [if_pos (by rw [Bool.and_eq_true]; exact ⟨decide_eq_true hk, decide_eq_true hj⟩), he]
  · intro r hr hw hp h0 hd
    obtain ⟨me, hd⟩ := hd
    have hreg := modRegion_regionsOf (s := (s.zeroPool s.act.core r.offset r.size).dropRegionPorts n.toNat) (a := s.act) (f := Region.anew)
      n.isLt hp h0 (by rw [Option.isSome_iff_exists]; exact ⟨me, hd⟩)
    have hmine : (((((s.zeroPool s.act.core r.offset r.size).dropRegionPorts n.toNat).modRegion s.act n.toNat Region.anew)).advance 4).myRegion
      n.toNat = r.anew := hreg
    refine ⟨_, execRnew_of hl hr hw, rfl, ?_, ?_, ?_, fun k h1 h2 => zeroPool_zero s h1 h2⟩
    · rw [hmine]
      rfl
    · rw [hmine]
      rfl
    · rw [hmine]
      rfl

end Sys2Proof.Machine
end
section
/-! Levels and dependence slots (02 R60; 12 R320, R321, R333 to R336). -/

namespace Sys2Proof.Machine
open Sys2Proof.Safety

/-! ## LVL and CANCEL -/

theorem settleLevels_act (s : State) : s.settleLevels.act = s.act := by
  obtain ⟨exp, ph, la, env, wire, h⟩ := settleLevels_eq s
  rw [h]

theorem checkLevel_launch {xa : Word} (h : xa.toNat < 2 ^ 32) : checkLevel 1 xa = .ok () := need_of (decide_eq_true h)

/-- LVL of a launch. -/
theorem execLvl_launch {s : State} {b a d : BitVec 5} (hl : s.act.live = true) (ha : Clean s a) (hb : Clean s b) (hs : Solo s)
    (h1 : s.act.getX b = 1) (hv : (s.act.getX a).toNat < 2 ^ 32) :
    let u := s.settleLevels
    let num : Word32 := (s.act.getX a).setWidth 32
    let count := if (u.dir.launches.any fun l => l.job == s.act.job && l.num == num) then u.launchCount s.act.job num else 0
    execLvl b a d s = .next (u.result 4 d (BitVec.ofNat 64 (min count (2 ^ 32 - 1)) ||| (if count = 0 then 0x4000000000000000 else 0) |||
      0x8000000000000000)) := by
  intro u num count
  have hlevel : u.level 1 (s.act.getX a) = (count, count == 0, true) := by
    show (if (u.dir.launches.any fun l => l.job == u.act.job && l.num == num) then _ else _) = _
    rw [show u.act.job = s.act.job by rw [show u.act = s.act from settleLevels_act s]]
    show _ = ((if _ then _ else _ : Nat), _, true)
    cases hany : u.dir.launches.any fun l => l.job == s.act.job && l.num == num with
    | true =>
      have hc : count = u.launchCount s.act.job num := if_pos hany
      rw [if_pos rfl, if_pos rfl, hc]
    | false =>
      have hc : count = 0 := if_neg (by rw [hany]; exact Bool.false_ne_true)
      rw [if_neg Bool.false_ne_true, if_neg Bool.false_ne_true, hc]
      rfl
  have hf : flagAt (count == 0) 62 = if count = 0 then 0x4000000000000000 else 0 := by
    by_cases h0 : count = 0
    · rw [if_pos h0, h0]
      rfl
    · rw [if_neg h0, beq_eq_false_iff_ne.2 h0]
      rfl
  rw [execLvl, ctlX_clean ha, bind_ok, ctlX_clean hb, bind_ok, h1, checkLevel_launch hv, bind_ok, once_solo hs]
  dsimp only
  rw [show (1 : Word).toNat = 1 from rfl, hlevel]
  dsimp only
  rw [hf]
  exact run_ok hl

/-- CANCEL of the activation that issues it. -/
theorem execCancel_self {s : State} {b a : BitVec 5} (hl : s.act.live = true) (ha : Clean s a) (hb : Clean s b) (h0 : s.act.getX b = 0)
    (hr : s.act.released = true) (hs : Solo s) (hf : s.fencesMet s.act = true) (hk : s.killable s.act.name = true) :
    execCancel b a s = .next (s.killActor s.act.name 15) := by
  have hdead : (s.killActor s.act.name 15).act.live = false := by
    obtain ⟨ps, h⟩ := killActor_down 15 hk
    rw [h, State.takeDown_act, show ({ s with parts := ps } : State).act = s.act from rfl, hl, beq_self_eq_true]
    rfl
  have hc : checkLevel 0 (s.act.getX a) = .ok () := rfl
  rw [execCancel, ctlX_clean ha, bind_ok, ctlX_clean hb, bind_ok, h0, hc, bind_ok, commits_released hr, once_solo hs, awaitFences_met hf, bind_ok]
  dsimp only
  rw [show s.cancel (0 : Word).toNat (s.act.getX a) = s.killActor s.act.name 15 from rfl, hdead, if_neg Bool.false_ne_true, run_ok hl]

/-! ## A slot (12 R333) -/

/-- Whether a record is of a slot. -/
def DepSlot.isAt (h : Nat) (d : DepSlot) : Bool := d.die == h / 65536 && d.num == h % 65536

theorem slot_isAt (s : State) (h : Nat) : (s.slot h).die = h / 65536 ∧ (s.slot h).num = h % 65536 := by
  rw [State.slot]
  cases hf : s.dir.slots.find? fun d => d.die == h / 65536 && d.num == h % 65536 with
  | none => exact ⟨rfl, rfl⟩
  | some d => simpa using List.find?_some hf

/-- A slot set is read back. -/
theorem slot_setSlot {s : State} {v : DepSlot} {h : Nat} (hd : v.die = h / 65536) (hn : v.num = h % 65536) :
    ((s.setSlot v).slot h).count = v.count ∧ ((s.setSlot v).slot h).held = v.held := by
  have hrest : (s.dir.slots.filter fun d => !(d.die == v.die && d.num == v.num)).find? (fun d => d.die == h / 65536 && d.num == h % 65536) = none := by
    refine List.find?_eq_none.2 fun d hm hp => ?_
    have := (List.mem_filter.1 hm).2
    rw [hd, hn, hp] at this
    cases this
  by_cases h0 : v.count = 0 ∧ v.held = none
  · have hs : (s.setSlot v).dir.slots = s.dir.slots.filter fun d => !(d.die == v.die && d.num == v.num) := if_pos h0
    rw [State.slot, hs, hrest]
    exact ⟨h0.1.symm, h0.2.symm⟩
  · have hs : (s.setSlot v).dir.slots = (s.dir.slots.filter fun d => !(d.die == v.die && d.num == v.num)) ++ [v] := if_neg h0
    rw [State.slot, hs, List.find?_append, hrest, Option.none_or, List.find?_cons_of_pos (by rw [hd, hn, beq_self_eq_true, beq_self_eq_true]; rfl)]
    exact ⟨rfl, rfl⟩

/-- A slot set to a count and a message. -/
theorem slot_set (s : State) (h c : Nat) (q : Option Placed) :
    ((s.setSlot { s.slot h with count := c, held := q }).slot h).count = c ∧
    ((s.setSlot { s.slot h with count := c, held := q }).slot h).held = q :=
  slot_setSlot (slot_isAt s h).1 (slot_isAt s h).2

/-! ## DEPSET and DEPDEC -/

theorem execDepset_of {s : State} {b a : BitVec 5} {h : Nat} (hl : s.act.live = true) (hr : s.act.released = true) (hf : s.fencesMet s.act = true)
    (hs : Solo s) (ha : Clean s a) (hb : Clean s b) (hh : s.slotHandle (s.act.getX a) = .ok h) (hv : (s.act.getX b).toNat < 2 ^ 32)
    (h0 : s.act.getX b ≠ 0) :
    execDepset b a s = .next ((s.setSlot { s.slot h with count := (s.act.getX b).toNat }).advance 4) := by
  have hn : ¬(s.act.getX b).toNat = 0 := fun h => h0 (BitVec.eq_of_toNat_eq h)
  rw [execDepset, ctlX_clean ha, bind_ok, ctlX_clean hb, bind_ok, hh, bind_ok, need_of (decide_eq_true hv), bind_ok, commits_released hr, once_solo hs,
    awaitFences_met hf, bind_ok, State.depSet]
  dsimp only
  rw [if_neg hn]
  exact run_ok hl

/-- What is issued when nothing is outstanding is performed. -/
theorem performed_of_counted {s : State} (h : s.counted = []) (ids : List Nat) (scope : Nat) : s.performed ids scope = true := by
  simp only [State.counted, List.append_eq_nil_iff, List.map_eq_nil_iff] at h
  obtain ⟨⟨⟨hp, he⟩, hd⟩, hrm⟩ := h
  refine List.all_eq_true.2 fun n _ => ?_
  simp only [State.counted, hp, he, hd, hrm]
  split <;> rfl

theorem effect_depdec {s : State} {a : Act} {h sc : Nat} {mask : BitVec 17} (hr : a.run = 0) (hf : s.fencesMet a = true) (hc : s.counted = [])
    (ht : s.wire.tails = []) : s.effect a (.depdec h mask sc) = (do let t ← s.depDec a.core h; .ok ([], t)) := by
  have hw : s.awaitMissed a = .ok () := by
    simp only [State.counted, List.append_eq_nil_iff, List.map_eq_nil_iff] at hc
    rw [State.awaitMissed, hc.1.2]
    rfl
  have htl : s.awaitTails a = .ok () := by
    rw [State.awaitTails, ht]
    rfl
  have hafter : (s.carries a mask (max sc 5)).filter (fun i => !s.performed [i] (max sc 5)) = [] :=
    List.filter_eq_nil_iff.2 fun i _ => by rw [performed_of_counted hc]; exact Bool.false_ne_true
  have hrun : (decide (a.run ≠ 0) && !isLocal a.core (Eff.depdec h mask sc).span.1) = false := by rw [hr]; rfl
  rw [State.effect, hf, Bool.or_true, await_true, bind_ok, htl, bind_ok, hw, bind_ok, hrun, if_neg Bool.false_ne_true, State.effectDepdec, hafter]
  rfl

theorem execDepdec_of {s : State} {sc : BitVec 4} {b a : BitVec 5} {h : Nat} {t : State} (hl : s.act.live = true) (hr : s.act.released = true)
    (hf : s.fencesMet s.act = true) (h0 : s.act.run = 0) (ha : Clean s a) (hb : Clean s b) (hh : s.slotHandle (s.act.getX a) = .ok h)
    (hsc : sc.toNat ≤ 10) (hv : (s.act.getX b).toNat < 2 ^ 17) (hc : s.counted = []) (ht : s.wire.tails = [])
    (hd : s.depDec s.act.core h = .ok t) : execDepdec sc b a s = .next ((t.modAct fun a => { a with staged := [] }).advance 4) := by
  have hcom : s.act.committed = true := (Bool.and_eq_true _ _ ▸ hr : _ ∧ _).1
  rw [execDepdec, maskX_ok hsc ⟨hb, hv⟩, bind_ok, ctlX_clean ha, bind_ok, hh, bind_ok, commits_released hr, State.issue, if_pos hcom,
    effect_depdec h0 hf hc ht, hd]
  exact run_ok hl

theorem depDec_above {s : State} {core h : Nat} (hn : 1 < (s.slot h).count) :
    s.depDec core h = .ok (s.setSlot { s.slot h with count := (s.slot h).count - 1 }) := by
  rw [State.depDec]
  dsimp only
  rw [if_neg (by omega), if_neg (by omega)]

theorem depDec_last {s : State} {core h : Nat} {p : Placed} (hn : (s.slot h).count = 1) (hp : (s.slot h).held = some p) :
    ∃ (u : State) (f : Flight), s.depDec core h = .ok (u.fly f) ∧ u.wire = s.wire ∧ (u.slot h).count = 0 ∧ (u.slot h).held = none ∧
      f.item = .msg p.msg ∧ f.dst = p.msg.w0 ∧ f.src = p.src ∧ f.die = p.die := by
  obtain ⟨hc, hh⟩ := slot_set s h 0 (some p)
  generalize hw : s.setSlot { s.slot h with count := 0, held := some p } = w at hc hh
  have hwire : w.wire = s.wire := by rw [← hw]; rfl
  obtain ⟨hc', hh'⟩ := slot_setSlot (s := w) (v := { w.slot h with held := none }) (slot_isAt w h).1 (slot_isAt w h).2
  refine ⟨w.setSlot { w.slot h with held := none },
    { id := 0, src := p.src, dst := p.msg.w0, die := p.die, item := .msg p.msg, after := p.after, scope := p.scope }, ?_, hwire,
    hc'.trans hc, hh', rfl, rfl, rfl, rfl⟩
  · rw [State.depDec]
    dsimp only
    rw [if_neg (by omega), if_pos hn]
    have hw' : s.setSlot { s.slot h with count := (s.slot h).count - 1 } = w := by
      rw [← hw, hn, ← hp]
    rw [hw', State.trigger]
    rw [hh]

/-- Settles O33: levels are read when they have settled; a slot is what was set, less what was counted down. -/
theorem levelsAndDependences : Obligations.LevelsAndDependences := by
  refine ⟨fun s b a d hl ha hb => ⟨fun h1 hs hv => ⟨_, execLvl_launch hl ha hb hs h1 hv, rfl⟩, fun h0 hr hs hf hk => execCancel_self hl ha hb h0 hr hs hf hk⟩,
    fun s sc b a h hl hr hf hs h0 ha hb hh => ⟨fun hv hn => ?_, fun hsc hv hc ht hn => ?_, fun hsc hv hc ht hn p hp => ?_⟩⟩
  · obtain ⟨h1, h2⟩ := slot_set s h (s.act.getX b).toNat (s.slot h).held
    exact ⟨_, execDepset_of hl hr hf hs ha hb hh hv hn, rfl, rfl, h1, h2, rfl⟩
  · obtain ⟨h1, h2⟩ := slot_set s h ((s.slot h).count - 1) (s.slot h).held
    refine ⟨_, execDepdec_of hl hr hf h0 ha hb hh hsc hv hc ht (depDec_above hn), ?_, rfl, h1, h2, rfl⟩
    have hst : s.act.staged = [] := List.isEmpty_iff.1 (Bool.and_eq_true _ _ ▸ hr : _ ∧ _).2
    have hact : ({ s.act with staged := [] } : Act) = s.act := by rw [← hst]
    exact congrArg (fun x => (({ s with act := x } : State).advance 4).act) hact
  · obtain ⟨u, f, hd, hw, h1, h2, hi, hdst, hsrc, hdie⟩ := depDec_last (core := s.act.core) hn hp
    exact ⟨_, execDepdec_of hl hr hf h0 ha hb hh hsc hv hc ht hd, h1, h2, { f with id := u.env.nextId }, by rw [← hw]; rfl, hi, hdst, hsrc, hdie⟩

end Sys2Proof.Machine
end

section
/-! SPAWN and SUPV (03 R78, R84; 12 R313, R317). -/

namespace Sys2Proof.Machine
open Sys2Proof.Safety

/-! ## Names -/

theorem nameKind_mkName (job : Half) (kind : BitVec 2) (index inc : Nat) : nameKind (mkName job kind index inc) = kind := by
  ext i hi
  simp only [nameKind, mkName, BitVec.getElem_extractLsb', BitVec.getLsbD_append]
  have h1 : ¬ 46 + i < 16 := by omega
  have h2 : ¬ 46 + i - 16 < 30 := by omega
  have h4 : 46 + i - 16 - 30 = i := by omega
  simp only [h1, h2, h4, if_false]
  rw [if_pos hi]
  exact BitVec.getLsbD_eq_getElem hi

/-! ## An actor put in the directory -/

theorem fillRegions_eq (core : Nat) (l : List (RegInit × Region)) (data : List (List Byte × Bool)) (s : State) :
    ∃ mem, State.fillRegions core l data s = { s with mem := mem } := by
  induction l generalizing data s with
  | nil => exact ⟨s.mem, rfl⟩
  | cons r l ih =>
    have hfold (k : Nat) (ps : List ((List Byte × Bool) × Nat)) (u : State) :
        ∃ mem, ps.foldl (fun s p => { s with mem := s.mem.writePlain (k + 32 * p.2) p.1.1 p.1.2 }) u = { u with mem := mem } := by
      induction ps generalizing u with
      | nil => exact ⟨u.mem, rfl⟩
      | cons p ps ihp =>
        obtain ⟨m, hm⟩ := ihp { u with mem := u.mem.writePlain (k + 32 * p.2) p.1.1 p.1.2 }
        exact ⟨m, hm⟩
    rw [State.fillRegions]
    obtain ⟨m, hm⟩ : ∃ mem, (if r.1.size = 0 then s else s.fillRegion core r.2 (data.take (if r.1.source = 0 then 0 else r.1.size / 32))) =
        { s with mem := mem } := by
      split
      · exact ⟨s.mem, rfl⟩
      · obtain ⟨m, hm⟩ := hfold (poolKey core r.2.offset) _ (s.zeroPool core r.2.offset r.2.size)
        exact ⟨m, hm⟩
    rw [hm]
    obtain ⟨m', hm'⟩ := ih (data.drop (if r.1.source = 0 then 0 else r.1.size / 32)) { s with mem := m }
    exact ⟨m', hm'⟩

theorem fillRoom_eq (s : State) (img : Image) (room : Room) (data : List (List Byte × Bool)) :
    ∃ mem, s.fillRoom img room data = { s with mem := mem } := fillRegions_eq _ _ _ _

/-- The directory entry of a new actor. -/
def newActor (s : State) (job : Half) (img : Image) (room : Room) (sup : Option (Word × Nat)) : Actor :=
  { job := job, service := job == 0, index := img.index, inc := s.nextInc job (job == 0) img.index, image := img, core := room.core
    resident := room.resident, regions := room.regions, trapx := img.trapx, supervisor := sup, mirror := [] }

/-- An actor whose index has no entry is put at the end of the directory. -/
theorem install_new {s : State} {job : Half} {img : Image} {room : Room} {data : List (List Byte × Bool)} {sup : Option (Word × Nat)}
    (h : s.entryAt job (job == 0) img.index = none) :
    ∃ u, s.install job img [room] data sup = some (newActor s job img room sup, u) ∧ u.act = s.act ∧ u.links = s.links ∧
      u.dir.actors = s.dir.actors ++ [newActor s job img room sup] := by
  obtain ⟨mem, hm⟩ := fillRoom_eq s img room data
  have hany : s.dir.actors.any (fun t => t.job == job && t.service == (job == 0) && t.index == img.index) = false :=
    List.any_eq_false.2 fun t ht => List.find?_eq_none.1 h t ht
  refine ⟨_, rfl, ?_, ?_, ?_⟩
  · rw [List.foldl_cons, List.foldl_nil, hm]
    rfl
  · rw [List.foldl_cons, List.foldl_nil, hm]
    rfl
  · rw [List.foldl_cons, List.foldl_nil, hm]
    show (if s.dir.actors.any (fun t => t.job == job && t.service == (job == 0) && t.index == img.index) then _ else _) = _
    rw [hany]
    rfl

/-! ## SPAWN -/

/-- What SPAWN leaves: the child installed, and linked with its parent. -/
def State.spawned (s u : State) (d : BitVec 5) (c : Actor) : State :=
  (((((u.modLinks s.act.name (addEntry c.name 0 .link)).modLinks c.name (addEntry s.act.name 0 .link)).dropKept s.me).modAct fun a =>
    { a with room := none }).result 4 d c.name)

theorem execSpawn_of {s u : State} {t : BitVec 1} {a d : BitVec 5} {img : Image} {room : Room} {me : Actor}
    (hl : s.act.live = true) (hr : s.act.released = true) (hs : Solo s) (hc : Clean s a) (hj : s.act.job ≠ 0) (hk : nameKind s.act.name = 0)
    (hv : (s.act.getX a).toNat < 2 ^ 55) (hd : s.dir.actors.find? (fun x => x.name == s.act.name) = some me) (hf : (freeEntry me.links).isSome = true)
    (hi : s.readImage s.me (s.act.getX a).toNat = .ok (some img, s)) (hp : initPieces img = []) (he : s.entryAt s.act.job false img.index = none)
    (hle : s.liveElsewhere (mkName s.act.job 0 img.index 0) = none) (hsh : s.shardRoom (mkName s.act.job 0 img.index 0) = true)
    (hroom : s.act.room.or (s.findRoom img (s.coresFor s.act.job img.service) none) = some room)
    (hu : s.install s.act.job img [room] [] none = some (newActor s s.act.job img room none, u)) :
    execSpawn t a d s = .next (s.spawned u d (newActor s s.act.job img room none)) := by
  have hj0 : (s.act.job == 0) = false := beq_eq_false_iff_ne.2 hj
  have hsvc : ((newActor s s.act.job img room none).service && (newActor s s.act.job img room none).job == 0) = false := by
    show ((s.act.job == 0) && _) = false
    rw [hj0, Bool.false_and]
  have hcan : canonical (s.act.getX a) = .ok (s.act.getX a).toNat := if_pos hv
  rw [execSpawn, ctlX_clean hc, bind_ok, hcan, bind_ok]
  dsimp only
  rw [hi, bind_ok]
  dsimp only
  rw [commits_released hr, once_solo hs, show s.me.name = s.act.name from rfl, linksOf_of hk hd, hj0]
  simp only [Bool.false_eq_true, if_false]
  rw [he, hle, hsh, Option.isNone_eq_false_iff.2 hf, hroom]
  simp only [Option.isSome_none, Bool.or_self, Bool.not_true, Bool.false_eq_true, if_false, hp]
  rw [show State.readPieces s.me .restartRead [] s = .ok (some [], s) from rfl]
  dsimp only
  rw [hu]
  dsimp only
  rw [State.resendFaults, hsvc, if_neg Bool.false_ne_true]
  exact run_ok hl

theorem find?_append_self {l : List Actor} {a : Actor} (h : l.find? (fun x => x.name == a.name) = none) :
    (l ++ [a]).find? (fun x => x.name == a.name) = some a := by
  rw [List.find?_append, h, Option.none_or, List.find?_cons_of_pos (p := fun x : Actor => x.name == a.name) (beq_self_eq_true a.name)]

theorem find?_append_left {α : Type} {l : List α} {a b : α} {p : α → Bool} (h : l.find? p = some b) : (l ++ [a]).find? p = some b := by
  rw [List.find?_append, h, Option.some_or]

/-! ## SUPV -/

theorem execSupv_of {s : State} {a : BitVec 5} {head bs : List Byte} {n intensity window : Nat} {group : Bool}
    {specs : List (Nat × Bool × BitVec 2)} {children : List Child} (hl : s.act.live = true) (hc : Clean s a) (hv : (s.act.getX a).toNat < 2 ^ 55)
    (hal : (s.act.getX a).toNat % 64 = 0) (hrec : s.recordOf s.act.name = none)
    (h1 : s.readRecord s.me (s.act.getX a).toNat 16 16 = .ok (some head, s)) (h2 : parseRecordHead head = some (n, intensity, group, window))
    (h3 : s.readRecord s.me (s.act.getX a).toNat (16 + 16 * n) 16 = .ok (some bs, s)) (h4 : parseChildren bs n = some specs)
    (h5 : State.readImages s.me specs s = .ok (some children, s)) :
    let r : SupRec := { bytes := bs, intensity := intensity, window := window, group := group, children := children }
    let u := ((((s.dropKept s.me).modActor s.act.name fun x => { x with record := some r }).modPool s.act.name fun p =>
      { p with record := some r })).advance 4
    let v := children.zipIdx.foldl (fun v t => v.markRestarting s.act.job t.1.image s.act.name t.2) u
    execSupv a s = .next ((List.range n).foldl (fun v i => (v.placeChild s.act.name i).getD v) v) := by
  intro r u v
  have hcan : canonical (s.act.getX a) = .ok (s.act.getX a).toNat := if_pos hv
  have hali : aligned (s.act.getX a).toNat 64 = .ok () := need_of (beq_iff_eq.2 hal)
  rw [execSupv, ctlX_clean hc, bind_ok, hcan, bind_ok, hali, bind_ok]
  dsimp only
  rw [h1, bind_ok]
  dsimp only
  rw [h2]
  dsimp only
  rw [h3, bind_ok]
  dsimp only
  rw [show s.me.name = s.act.name from rfl, hrec]
  dsimp only
  rw [h4]
  dsimp only
  rw [h5, bind_ok]
  exact run_ok hl

/-- Settles O34: the child is put in the directory and linked with its parent; a supervisor's children are marked and placed in order. -/
theorem childrenPlaced : Obligations.ChildrenPlaced := by
  refine ⟨fun s t a d img room me hl hr hs hc hj hk hv hd hf hi hp he hle hsh hroom => ?_,
    fun s a head bs n intensity window group specs children hl hc hv hal hrec h1 h2 h3 h4 h5 => execSupv_of hl hc hv hal hrec h1 h2 h3 h4 h5⟩
  intro child hne hnone
  have hj0 : (s.act.job == 0) = false := beq_eq_false_iff_ne.2 hj
  obtain ⟨u, hu, hact, -, hactors⟩ := install_new (s := s) (job := s.act.job) (img := img) (room := room) (data := []) (sup := none) (by rw [hj0]; exact he)
  have hname : (newActor s s.act.job img room none).name = child := by
    show mkName s.act.job (if s.act.job == 0 then 2 else 0) img.index (s.nextInc s.act.job (s.act.job == 0) img.index) = child
    rw [hj0]
    rfl
  have hkc : nameKind child = 0 := nameKind_mkName _ _ _ _
  have hme : u.dir.actors.find? (fun x => x.name == s.act.name) = some me := by
    rw [hactors]
    exact find?_append_left hd
  have hch : u.dir.actors.find? (fun x => x.name == child) = some (newActor s s.act.job img room none) := by
    rw [hactors, ← hname]
    exact find?_append_self (by rw [hname]; exact hnone)
  refine ⟨_, execSpawn_of hl hr hs hc hj hk hv hd hf hi hp he hle hsh hroom hu, fun h0 => ?_, ?_, ?_, ?_, ?_⟩
  · rw [State.spawned, State.result_act]
    exact (Act.getX_setX_self _ _ _ h0).trans hname
  · rw [State.spawned, State.result_act]
    show (Act.setX _ d _ _).pc + 4 = _
    rw [Act.setX_pc]
    show u.act.pc + 4 = _
    rw [hact]
  · rw [State.spawned, hname]
    have h1 := (find?_modActor_any u child s.act.name (f := fun a => { a with links := addEntry child 0 .link a.links }) fun _ => rfl).trans
      (by rw [hch, Option.map_some, hname, if_neg (by simpa using hne)])
    have h2 := find?_modActor (s := u.modLinks s.act.name (addEntry child 0 .link))
      (f := fun a => { a with links := addEntry s.act.name 0 .link a.links }) (fun _ => rfl) h1
    exact ⟨_, h2, rfl, rfl, rfl, rfl, rfl, rfl, rfl⟩
  · obtain ⟨i, hi⟩ := mem_addEntry (partner := child) (ref := 0) (t := .link) hf
    refine ⟨i, ?_⟩
    rw [State.spawned, hname]
    show _ ∈ State.linksOf (State.modLinks _ _ _) _
    rwa [linksOf_both_left hk hne.symm hme]
  · obtain ⟨i, hi⟩ := mem_addEntry (partner := s.act.name) (ref := 0) (t := .link) (l := []) (by decide)
    refine ⟨i, ?_⟩
    rw [State.spawned, hname]
    show _ ∈ State.linksOf (State.modLinks _ _ _) _
    rw [linksOf_both_right hkc hne.symm hch]
    exact hi

end Sys2Proof.Machine
end

section
/-! The expert forms (12 R341 to R344; 13 R349, R356). -/

namespace Sys2Proof.Machine
open Sys2Proof.Safety

/-! ## Entries -/

/-- The entry of a number, after entries were changed that keep their numbers. -/
theorem expEntry_mapIf {s t : State} {p : ExpEntry → Bool} {f : ExpEntry → ExpEntry} (hf : ∀ e, (f e).num = e.num)
    (h : t.exp.entries = mapIf p f s.exp.entries) (n : Nat) : t.expEntry n = (s.expEntry n).map fun e => if p e then f e else e := by
  rw [State.expEntry, h]
  exact find?_mapIf s.exp.entries fun e _ => congrArg (· == n) (hf e)

/-- A set that is wanted changes an entry's sets alone. -/
theorem wantSet_entry (s : State) (n k : Nat) {m : Nat} {x : ExpEntry} (h : s.expEntry m = some x) :
    ∃ sets, (s.wantSet n k).expEntry m = some { x with sets := sets } := by
  have hmod (f : WSet → WSet) {t : State} (ht : t.exp.entries = mapIf (fun t => t.num == n)
      (fun t => { t with sets := vset t.sets k (f (vget t.sets k)) }) s.exp.entries) : ∃ sets, t.expEntry m = some { x with sets := sets } := by
    rw [expEntry_mapIf (f := fun t => { t with sets := vset t.sets k (f (vget t.sets k)) }) (fun _ => rfl) ht, h, Option.map_some]
    split
    · exact ⟨_, rfl⟩
    · exact ⟨x.sets, rfl⟩
  unfold State.wantSet
  split
  · exact ⟨x.sets, h⟩
  · dsimp only
    split
    · exact hmod (fun w => { w with state := 1 }) rfl
    · split
      · exact hmod (fun w => { w with owed := true }) rfl
      · exact ⟨x.sets, h⟩

/-- A model's record that waits for a set. -/
def State.awaitSet (s : State) (n : Nat) (set : Bool) : State :=
  { s with exp := { s.exp with models := mapIf (fun r => r.num == n) (fun r => { r with pending := true, pset := set }) s.exp.models } }

section
variable {s : State} {a d : BitVec 5} (hl : s.act.live = true) (hr : s.act.released = true) (hs : Solo s) (hc : Clean s a)
include hl hc

section
variable {e : ExpEntry} (hv : (s.act.getX a).toNat < 65536) (he : s.entryOfId s.act.job (s.act.getX a).toNat = .ok e)
include hv he

theorem execErq_of : execErq a d s = .next (s.result 4 d (s.expertWord e)) := by
  have hid : expertId (s.act.getX a) = .ok (s.act.getX a).toNat := if_pos hv
  rw [execErq, ctlX_clean hc, bind_ok, hid, bind_ok, he]
  exact run_ok hl

theorem execEloadc_read : execEloadc 0 a d s = .next (s.result 4 d (e.load.zeroExtend 64)) := by
  have hid : expertId (s.act.getX a) = .ok (s.act.getX a).toNat := if_pos hv
  rw [execEloadc, ctlX_clean hc, bind_ok, hid, bind_ok, he, bind_ok, if_pos rfl, at_zero]
  exact run_ok hl

include hr hs

theorem execEloadc_take :
    execEloadc 1 a d s = .next ((s.modEntry e.num fun e => { e with load := 0 }).result 4 d (e.load.zeroExtend 64)) := by
  have hid : expertId (s.act.getX a) = .ok (s.act.getX a).toNat := if_pos hv
  rw [execEloadc, ctlX_clean hc, bind_ok, hid, bind_ok, he, bind_ok, if_neg (by decide), commits_released hr, once_solo hs, he, bind_ok, at_zero]
  exact run_ok hl

theorem execEpin_of (hp : e.pins ≠ 65535) :
    execEpin a s = .next (((s.modEntry e.num fun e => { e with pins := e.pins + 1 }).wantSet e.num (s.captured e s.myEpoch)).advance 4) := by
  have hid : expertId (s.act.getX a) = .ok (s.act.getX a).toNat := if_pos hv
  have hpin : (e.pins != 65535) = true := bne_iff_ne.2 hp
  rw [execEpin, ctlX_clean hc, bind_ok, hid, bind_ok, he, bind_ok, hpin, Bool.or_true, need_true, bind_ok, commits_released hr, once_solo hs, he,
    bind_ok, hpin, need_true, bind_ok]
  exact run_ok hl

theorem execEunpin_of : execEunpin a s = .next ((s.modEntry e.num fun e => { e with pins := e.pins - 1 }).advance 4) := by
  have hid : expertId (s.act.getX a) = .ok (s.act.getX a).toNat := if_pos hv
  rw [execEunpin, ctlX_clean hc, bind_ok, hid, bind_ok, he, bind_ok, commits_released hr, once_solo hs, he]
  exact run_ok hl

end

include hr hs in
theorem execWset_of {m : ModelRec} (h1 : (s.act.getX a).toNat / 2 ^ 32 = 0) (h2 : (s.act.getX a).toNat % 2 ^ 16 ≤ 1)
    (hm : s.modelOf s.act.job ((s.act.getX a).extractLsb' 16 16) = some m)
    (ho : (if (s.act.getX a).getLsbD 0 then m.openB else m.openA) = 0)
    (hver : m.ver.getLsbD (if (s.act.getX a).getLsbD 0 then 1 else 0) = true) (hf : m.force ≠ (s.act.getX a).getLsbD 0) :
    execWset a s = .next ((s.awaitSet m.num ((s.act.getX a).getLsbD 0)).advance 4) := by
  have hb1 : bits (s.act.getX a).toNat 32 32 = 0 := by
    rw [bits, Nat.shiftRight_eq_div_pow, h1, Nat.zero_mod]
  have hb2 : bits (s.act.getX a).toNat 1 15 = 0 := by
    rw [bits, Nat.shiftRight_eq_div_pow]
    omega
  have hmod : s.modelFor ((s.act.getX a).extractLsb' 16 16) = .ok m := by
    rw [State.modelFor, hm]
  rw [execWset, ctlX_clean hc, bind_ok, hb1, hb2, beq_self_eq_true, Bool.and_self, need_true, bind_ok]
  dsimp only
  rw [hmod, bind_ok, hver, Bool.or_true, need_true, bind_ok, commits_released hr, once_solo hs, hmod, bind_ok, State.weightSet,
    if_neg (by simpa using hf), ho, hver, beq_self_eq_true, need_true, bind_ok, need_true, bind_ok]
  exact run_ok hl

end

/-- Settles O35: each form reads, or changes, the entry of its id. -/
theorem expertForms : Obligations.ExpertForms := by
  intro s a d e hl hr hs hc
  refine ⟨fun hv he => ⟨execErq_of hl hc hv he, execEloadc_read hl hc hv he, ⟨_, execEloadc_take hl hr hs hc hv he, rfl, fun x hx hn => ?_⟩,
    fun hp => ⟨_, execEpin_of hl hr hs hc hv he hp, ?_, fun x hx => ?_⟩, _, execEunpin_of hl hr hs hc hv he, rfl, fun x hx => ?_⟩, fun m h1 h2 hm => ?_⟩
  · obtain ⟨y, -, rfl⟩ := List.mem_map.1 (show x ∈ mapIf (fun t => t.num == e.num) (fun t => { t with load := 0 }) s.exp.entries from hx)
    by_cases hy : y.num == e.num
    · rw [if_pos hy]
    · rw [if_neg hy] at hn
      exact absurd (beq_iff_eq.2 hn) hy
  · obtain ⟨exp, hw⟩ := wantSet_expOnly (s.modEntry e.num fun e => { e with pins := e.pins + 1 }) e.num (s.captured e s.myEpoch)
    rw [hw]
    rfl
  · have hnum : x.num = e.num := beq_iff_eq.1 (List.find?_some (p := fun t : ExpEntry => t.num == e.num) hx)
    have hmod : (s.modEntry e.num fun e => { e with pins := e.pins + 1 }).expEntry e.num = some { x with pins := x.pins + 1 } := by
      rw [expEntry_mapIf (s := s) (f := fun e => { e with pins := e.pins + 1 }) (fun _ => rfl) rfl, hx, Option.map_some, hnum, beq_self_eq_true, if_pos rfl]
    obtain ⟨sets, hw⟩ := wantSet_entry _ e.num (s.captured e s.myEpoch) hmod
    exact ⟨_, hw, rfl, rfl⟩
  · have hnum : x.num = e.num := beq_iff_eq.1 (List.find?_some (p := fun t : ExpEntry => t.num == e.num) hx)
    refine ⟨{ x with pins := x.pins - 1 }, ?_, rfl, rfl⟩
    refine (expEntry_mapIf (s := s) (f := fun e => { e with pins := e.pins - 1 }) (fun _ => rfl) rfl e.num).trans ?_
    rw [hx, Option.map_some, hnum, beq_self_eq_true, if_pos rfl]
  · intro set ho hver hf
    refine ⟨_, execWset_of hl hr hs hc h1 h2 hm ho hver hf, rfl, rfl, fun x hx hn => ?_⟩
    obtain ⟨y, -, rfl⟩ := List.mem_map.1 (show x ∈ mapIf (fun r => r.num == m.num) (fun r => { r with pending := true, pset := set }) s.exp.models from hx)
    by_cases hy : y.num == m.num
    · rw [if_pos hy]
      exact ⟨rfl, rfl⟩
    · rw [if_neg hy] at hn
      exact absurd (beq_iff_eq.2 hn) hy

end Sys2Proof.Machine
end

section
/-! Entries put in a queue at issue, with the tiles and buffers that they claim (05 R124; 10 R265, R266). -/

namespace Sys2Proof.Machine
open Sys2Proof.Safety

/-- A state with one entry more at the tail of a queue of the running activation's core; it may differ there in tiles and buffers. -/
structure Queued (s : State) (q : Nat) (op : EOp) (post : Option Nat) (t : State) : Prop where
  act : t.act = s.act
  mem : t.mem = s.mem
  acts : t.acts = s.acts
  dir : t.dir = s.dir
  wire : t.wire = s.wire
  entry : ∃ e, vget (t.core s.act.core).queues q = vget (s.core s.act.core).queues q ++ [e] ∧
    e.op = op ∧ e.post = post ∧ e.aid = s.act.aid ∧ e.actor = s.act.name ∧ e.started = false
  others : ∀ n, n ≠ q → vget (t.core s.act.core).queues n = vget (s.core s.act.core).queues n
  counters : (t.core s.act.core).counters = (s.core s.act.core).counters
  cores : ∀ c, c ≠ s.act.core → t.core c = s.core c

/-- Which tiles and buffers a core has, and whose they are. -/
def SameTiles (s t : State) : Prop :=
  (t.core s.act.core).tiles = (s.core s.act.core).tiles ∧ (t.core s.act.core).bufs = (s.core s.act.core).bufs

theorem enterQueue_queued {s : State} {q : Nat} {op : EOp} (post : Option Nat) (after : List Nat) (scope : Nat) (early : Bool) (hq : q < 7)
    (h : MayQueue s q op.counted) :
    ∃ t, s.enterQueue s.act q op post after scope early = .ok t ∧ Queued s q op post t ∧ SameTiles s t := by
  obtain ⟨hroom, hcount⟩ := h
  rw [State.enterQueue, State.room, decide_eq_true hroom, await_true, bind_ok]
  dsimp only
  rw [hcount, bind_ok]
  generalize hu : (s.fresh).2 = u
  have hcore (k : Nat) : u.core k = s.core k := by rw [← hu]; rfl
  refine ⟨_, rfl, ?_, ?_⟩
  · rw [show (s.fresh) = ((s.fresh).1, u) by rw [← hu]]
    dsimp only
    refine ⟨?_, ?_, ?_, ?_, ?_, ?_, fun n hn => ?_, ?_, fun c hc => ?_⟩
    iterate 5 rw [← hu]; rfl
    · obtain ⟨w, g, hj⟩ := joined_eq (u.core s.act.core) q
        { id := (s.fresh).1, aid := s.act.aid, actor := s.act.name, job := s.act.job, op := op, post := post, early := early
          tags := s.act.tagsFor op.counted, after := after, scope := scope, deadline := s.act.deadline
          acquires := s.act.acquires.filter fun q => s.act.came q.pos && q.mask &&&
            (s.act.tagsFor op.counted).ranges.foldl (fun (m : BitVec 17) r => if r.1 then m else m ||| r.2) 0 != 0 } u.env.time
      refine ⟨_, (enqueue_queue_self u _ hq).trans (by rw [hj, hcore]), rfl, rfl, rfl, rfl, rfl⟩
    · exact (enqueue_queue_ne u _ hn).trans (by rw [hcore])
    · rw [enqueue_eq, core_modCore_self, hcore]
    · exact (enqueue_core_ne u _ hc).trans (hcore c)
  · rw [show (s.fresh) = ((s.fresh).1, u) by rw [← hu]]
    dsimp only
    rw [enqueue_eq, SameTiles, core_modCore_self, hcore]
    exact ⟨rfl, rfl⟩

section
variable {s u : State} {q : Nat} {op : EOp} {post : Option Nat} (h : Queued s q op post u)
include h

/-- A change of the core that keeps its queues and counters. -/
theorem Queued.modCore {f : Core → Core} (hq : ∀ c, (f c).queues = c.queues) (hc : ∀ c, (f c).counters = c.counters) :
    Queued s q op post (u.modCore s.act.core f) where
  act := h.act
  mem := h.mem
  acts := h.acts
  dir := h.dir
  wire := h.wire
  entry := by
    obtain ⟨e, he⟩ := h.entry
    exact ⟨e, by rwa [core_modCore_self, hq]⟩
  others n hn := by rw [core_modCore_self, hq, h.others n hn]
  counters := by rw [core_modCore_self, hc, h.counters]
  cores c hn := by rw [core_modCore_ne u f hn, h.cores c hn]

/-- The outcome of a form whose entry is queued. -/
theorem Queued.completes {i : Instr} {a : Act} {v : State} (hi : exec i s = .next v) (hv : v = { u with act := a }) : Queues i s q op post a := by
  subst hv
  exact ⟨_, hi, rfl, h.mem, h.acts, h.dir, h.wire, h.entry, h.others, h.counters, h.cores⟩

theorem Queued.advances {i : Instr} (hi : exec i s = .next (u.advance 4)) : Queues i s q op post (s.advance 4).act :=
  h.completes hi (by rw [State.advance, State.advance, h.act])

end

/-! ## Claims (10 R265, R266) -/

section
variable {s u : State} {q : Nat} {op : EOp} {post : Option Nat} (h : Queued s q op post u) (ht : SameTiles s u)
include h ht

theorem Queued.claim {tiles : List Nat} (hc : MayClaim s tiles) :
    ∃ t, u.claim tiles = .ok t ∧ Queued s q op post t ∧ ∀ n ∈ tiles, ∃ x, t.tile s.act.core n = some x ∧ x.owner = s.act.aid := by
  have htile (n : Nat) : u.tile s.act.core n = s.tile s.act.core n := by rw [State.tile, ht.1, State.tile]
  have hall : (tiles.all fun n => (u.tile s.act.core n).all fun t => t.owner == s.act.aid) = true := by
    refine List.all_eq_true.2 fun n hn => ?_
    rw [htile]
    cases hx : s.tile s.act.core n with
    | none => rfl
    | some x => exact beq_iff_eq.2 ((hc.2 n hn).2 x hx)
  refine ⟨_, ?_, h.modCore (f := fun c => { c with tiles := c.tiles ++ ((tiles.filter fun n => (u.tile s.act.core n).isNone).eraseDups.map fun n =>
    ({ num := n, owner := s.act.aid } : Tile)) }) (fun _ => rfl) (fun _ => rfl), fun n hn => ?_⟩
  · rw [State.claim, h.act]
    dsimp only
    rw [hall, await_true, bind_ok]
  · rw [State.tile, core_modCore_self]
    dsimp only
    rw [List.find?_append]
    cases hx : u.tile s.act.core n with
    | some x =>
      rw [State.tile] at hx
      rw [hx]
      exact ⟨x, rfl, (hc.2 n hn).2 x (by rw [← htile, State.tile, hx])⟩
    | none =>
      have hmem : ({ num := n, owner := s.act.aid } : Tile) ∈ ((tiles.filter fun n => (u.tile s.act.core n).isNone).eraseDups.map fun n =>
          ({ num := n, owner := s.act.aid } : Tile)) :=
        List.mem_map.2 ⟨n, List.mem_eraseDups.2 (List.mem_filter.2 ⟨hn, by rw [hx]; rfl⟩), rfl⟩
      rw [State.tile] at hx
      rw [hx, Option.none_or]
      obtain ⟨x, hf⟩ := Option.isSome_iff_exists.1 (List.find?_isSome (p := fun t : Tile => t.num == n).2 ⟨_, hmem, beq_self_eq_true n⟩)
      refine ⟨x, hf, ?_⟩
      obtain ⟨k, -, rfl⟩ := List.mem_map.1 (List.mem_of_find?_eq_some hf)
      rfl

end

end Sys2Proof.Machine
end

section
/-! Entries of the copy group at issue (11 R292 to R300). -/

namespace Sys2Proof.Machine
open Sys2Proof.Safety

/-! ## Issue (11 R292) -/

theorem maskOf_ok {s : State} {b : BitVec 5} (h : MaskOk s b) : maskOf (s.act.getX b) = .ok (maskIn s b) := maskOf_small h.2

/-- An entry that is not staged enters its queue, once its guard mask's fences are met. -/
theorem issueEntry_queued {s : State} {q : Nat} {op : EOp} {c : EngineCtl} {mask : BitVec 17} (hq : q < 7)
    (hf : mask ≠ 0 → s.fencesMet s.act = true) (h : MayQueue s q op.counted) :
    ∃ t, s.issueEntry false q op c mask = .ok t ∧ Queued s q op c.target t := by
  obtain ⟨t, ht, hu, -⟩ := enterQueue_queued c.target (s.entryWaits s.act mask (s.entryScope s.act op mask c.scope)) (s.entryScope s.act op mask c.scope)
    (!s.act.committed) hq h
  refine ⟨t, ?_, hu⟩
  rw [State.issueEntry, if_neg Bool.false_ne_true]
  by_cases hm : mask = 0
  · rw [if_neg (not_not.2 hm)]
    exact ht
  · rw [if_pos hm, awaitFences_met (hf hm)]
    exact ht

/-- A form that comes to the issue of an unstaged entry, and moves on. -/
theorem queues_of {s : State} {i : Instr} {q : Nat} {op : EOp} {c : EngineCtl} {mask : BitVec 17} {k : Chk State} (hl : s.act.live = true)
    (hq : q < 7) (hf : mask ≠ 0 → s.fencesMet s.act = true) (h : MayQueue s q op.counted) (hi : exec i s = run s k)
    (hk : k = s.issueEntry false q op c mask >>= fun t => .ok (t.advance 4)) : Queues i s q op c.target (s.advance 4).act := by
  obtain ⟨t, ht, hu⟩ := issueEntry_queued (c := c) hq hf h
  refine hu.advances ?_
  rw [hi, hk, ht, bind_ok, run_ok hl]

/-- A form that comes to the issue of a staged entry, and moves on. -/
theorem stages_entry {s : State} {i : Instr} {q : Nat} {op : EOp} {c : EngineCtl} {mask : BitVec 17} {k : Chk State} (hl : s.act.live = true)
    (hcom : s.act.committed = false) (hn : stagedCount s < 256) (hf : mask ≠ 0 → s.fencesMet s.act = true) (hi : exec i s = run s k)
    (hk : k = s.issueEntry true q op c mask >>= fun t => .ok (t.advance 4)) :
    Stages i s 4 (.engine q op c.target mask c.scope op.ranges) := by
  have hmet : ((Eff.engine q op c.target mask c.scope op.ranges).unfenced || s.fencesMet s.act) = true := by
    by_cases hm : mask = 0
    · rw [hm]
      rfl
    · rw [hf hm, Bool.or_true]
  rw [Stages, hi, hk, State.issueEntry, if_pos rfl, State.issue, hcom, if_neg Bool.false_ne_true, hmet, await_true, bind_ok, stage_of hn, bind_ok,
    run_ok hl]
  rfl

/-! ## The forms -/

section
variable {s : State} {b a : BitVec 5} {d : BitVec 4} {c : EngineCtl} (hl : s.act.live = true) (hm : MaskOk s b)
  (hf : maskIn s b ≠ 0 → s.fencesMet s.act = true) (ha : Clean s a) (h6 : CleanO s 6)
include hl hm hf ha h6

section
variable {t : Tensor} (hc : engineCtl false false (s.act.getO 6) = .ok c) (ht : s.handle d = .ok t)
include hc ht

theorem tload_queues {q : BitVec 2} {v : Tile5} (hv : s.act.tile t = .ok v)
    (hu : s.checkUses (padUse (s.act.getX a) (tileSize t.format v) .engineWrite) [] (tileUse t v .engineRead) = .ok ())
    (h : MayQueue s q.toNat (EOp.tload t (s.act.getX a).toNat v.origin v.shape).counted) :
    Queues (.tload q b a d) s q.toNat (.tload t (s.act.getX a).toNat v.origin v.shape) c.target (s.advance 4).act := by
  refine queues_of (c := c) hl (by have := q.isLt; omega) hf h (show _ = execTload q b a d s from rfl) ?_
  simp only [ctlX_clean hm.1, maskOf_ok hm, ctlX_clean ha, ctlO_clean h6, hc, ht, hv, hu, bind_ok]

theorem gather_queues {r : RowOps} (hr : s.act.rows t = .ok r)
    (hu : s.checkUses (padUse (s.act.getX a) (r.n * (r.t0 * widthOf t.format / 8)) .engineWrite ++ padUse r.list (4 * r.n) .engineRead) []
      (rowsUse t .engineRead) = .ok ())
    (h : MayQueue s 5 (EOp.gather t (s.act.getX a).toNat r.list.toNat r.n r.t0 r.org).counted) :
    Queues (.gather b a d) s 5 (.gather t (s.act.getX a).toNat r.list.toNat r.n r.t0 r.org) c.target (s.advance 4).act := by
  refine queues_of (c := c) hl (by decide) hf h (show _ = execGather b a d s from rfl) ?_
  simp only [ctlX_clean hm.1, maskOf_ok hm, ctlX_clean ha, ctlO_clean h6, hc, ht, hr, hu, bind_ok]

end

section
variable (hcom : s.act.committed = false) (hn : stagedCount s < 256)
include hcom hn

section
variable {t : Tensor} (hc : engineCtl true false (s.act.getO 6) = .ok c) (ht : s.handle d = .ok t) (hcv : c.conv = true → t.format ≤ 9)
include hc ht

include hcv in
theorem tstore_stages {q : BitVec 2} {v : Tile5} (hv : s.act.tile t = .ok v)
    (hu : s.checkUses (padUse (s.act.getX a) (storeBytes t v c) .engineRead) [] (tileUse t v .engineWrite) = .ok ()) :
    let op := EOp.tstore t (s.act.getX a).toNat v.origin v.shape (if c.conv then some (c.sfmt, c.rm) else none) (s.act.frm.getLsbD 3)
    Stages (.tstore q b a d) s 4 (.engine q.toNat op c.target (maskIn s b) c.scope op.ranges) := by
  have hfmt : (!c.conv || decide (t.format ≤ 9)) = true := by
    cases hcc : c.conv with
    | false => rfl
    | true => exact decide_eq_true (hcv hcc)
  refine stages_entry hl hcom hn hf (show _ = execTstore q b a d s from rfl) ?_
  simp only [ctlX_clean hm.1, maskOf_ok hm, ctlX_clean ha, ctlO_clean h6, hc, ht, hfmt, need_true, hv, hu, bind_ok]
  rfl

theorem scatter_stages {r : RowOps} (hr : s.act.rows t = .ok r) :
    let conv := if c.conv then some (c.sfmt, c.rm) else none
    s.checkUses (padUse (s.act.getX a) (r.n * (r.t0 * srcWidth t conv / 8)) .engineRead ++ padUse r.list (4 * r.n) .engineRead) []
      (rowsUse t .engineWrite) = .ok () →
    let op := EOp.scatter t (s.act.getX a).toNat r.list.toNat r.n r.t0 r.org conv (s.act.frm.getLsbD 3)
    Stages (.scatter b a d) s 4 (.engine 5 op c.target (maskIn s b) c.scope op.ranges) := by
  intro conv hu op
  refine stages_entry hl hcom hn hf (show _ = execScatter b a d s from rfl) ?_
  simp only [ctlX_clean hm.1, maskOf_ok hm, ctlX_clean ha, ctlO_clean h6, hc, ht, hr, bind_ok]
  rw [hu]
  rfl

end

section
variable (hc : engineCtl true true (s.act.getO 6) = .ok c) (h0 : CleanO s 0)
include hc h0

theorem push_stages {q : BitVec 3} (h1 : (s.act.getO 0).extractLsb' 56 8 = 0) (h2 : (s.act.getO 0).extractLsb' 5 3 = 0)
    (h3 : (s.act.getO 0).extractLsb' 0 5 ≠ 0) (hlen : pushLength c ((s.act.getO 0).extractLsb' 8 24).toNat = .ok ())
    (hu : s.checkUses (padUse (s.act.getX a) ((s.act.getO 0).extractLsb' 8 24).toNat .engineRead)
      [{ va := ((s.act.getO 0).extractLsb' 32 24).toNat, n := 0, align := 32 }] [] = .ok ()) :
    let op := EOp.push d.toNat (s.act.getX a).toNat ((s.act.getO 0).extractLsb' 8 24).toNat ((s.act.getO 0).extractLsb' 32 24).toNat
      ((s.act.getO 0).setWidth 5) (if c.conv then some (c.sfmt, c.dfmt, c.rm) else none) (s.act.frm.getLsbD 3)
    Stages (.push q b a d) s 4 (.engine q.toNat op c.target (maskIn s b) c.scope op.ranges) := by
  have h3' : ((s.act.getO 0).extractLsb' 0 5).toNat ≠ 0 := fun h => h3 (BitVec.eq_of_toNat_eq h)
  refine stages_entry hl hcom hn hf (show _ = execPush q b a d s from rfl) ?_
  simp only [ctlX_clean hm.1, maskOf_ok hm, ctlX_clean ha, ctlO_clean h6, ctlO_clean h0, hc, bits_eq, h1, h2, bne_iff_ne.2 h3', hlen, hu, bind_ok]
  rfl

theorem pushr_stages {q : BitVec 3} (h1 : CleanO s 1) (hlt : (s.act.getO 1).toNat < 2 ^ 32) (hlen : pushLength c (s.act.getO 1).toNat = .ok ()) :
    let conv := if c.conv then some (c.sfmt, c.dfmt, c.rm) else none
    s.checkUses (padUse (s.act.getX a) (s.act.getO 1).toNat .engineRead)
      [{ va := (s.act.getO 0).toNat, n := delivered conv (s.act.getO 1).toNat, align := 32 }] [] = .ok () →
    let op := EOp.pushr (s.act.getO 0).toNat (s.act.getX a).toNat (s.act.getO 1).toNat conv (s.act.frm.getLsbD 3)
    Stages (.pushr q b a) s 4 (.engine q.toNat op c.target (maskIn s b) c.scope op.ranges) := by
  intro conv hu op
  have hb : bits (s.act.getO 1).toNat 0 32 = (s.act.getO 1).toNat := Nat.mod_eq_of_lt hlt
  have hz : bits (s.act.getO 1).toNat 32 32 = 0 := by
    rw [bits, Nat.shiftRight_eq_div_pow, Nat.div_eq_of_lt hlt, Nat.zero_mod]
  have hconv : c.pushConv = conv := rfl
  refine stages_entry hl hcom hn hf (show _ = execPushr q b a s from rfl) ?_
  simp only [ctlX_clean hm.1, maskOf_ok hm, ctlX_clean ha, ctlO_clean h6, ctlO_clean h0, ctlO_clean h1, hc, hb, hz, beq_self_eq_true, need_true, hlen,
    hconv, hu, bind_ok]
  rfl

end
end
end

/-- Settles O36: each form reads its operands, checks what it names, and issues its entry. -/
theorem copyEntries : Obligations.CopyEntries := by
  refine ⟨fun s q b a d c t hl hm hf ha h6 hc ht => ?_, fun s q q3 b a d c hl hcom hn hm hf ha h6 => ?_⟩
  · intro pad
    exact ⟨fun v hv hu h => tload_queues hl hm hf ha h6 hc ht hv hu h, fun r hr hu h => gather_queues hl hm hf ha h6 hc ht hr hu h⟩
  · intro pad staged
    exact ⟨fun hc t ht hcv => ⟨fun v hv hu => tstore_stages hl hm hf ha h6 hcom hn hc ht hcv hv hu,
        fun r hr hu => scatter_stages hl hm hf ha h6 hcom hn hc ht hr hu⟩,
      fun hc h0 => ⟨fun h1 h2 h3 hlen hu => push_stages hl hm hf ha h6 hcom hn hc h0 h1 h2 h3 hlen hu,
        fun h1 hlt hlen hu => pushr_stages hl hm hf ha h6 hcom hn hc h0 h1 hlt hlen hu⟩⟩

end Sys2Proof.Machine
end

section
/-! The matrix forms at issue (10 R263 to R287). -/

namespace Sys2Proof.Machine
open Sys2Proof.Safety

/-! ## Issue -/

theorem hasArray_of {s : State} (h : isService s.act.core = false) : s.hasArray = .ok () := by
  rw [State.hasArray, h]
  rfl

theorem absent_of {s : State} {tiles : List Nat} (h : MayClaim s tiles) : absent s tiles = .ok () :=
  need_of (List.all_eq_true.2 fun n hn => decide_eq_true (h.2 n hn).1)

/-- An entry in queue 4 whose activation has claimed the tiles it names. -/
structure Claimed (s : State) (op : EOp) (tiles : List Nat) (t : State) : Prop where
  queued : Queued s 4 op none t
  tiles : ∀ n ∈ tiles, ∃ x, t.tile s.act.core n = some x ∧ x.owner = s.act.aid

/-- An entry enters queue 4, and its activation claims tiles and does more. -/
theorem issueMatrix_claims {s : State} {op : EOp} {tiles : List Nat} {claims : State → Chk State} {g : State → State} (hc : MayClaim s tiles)
    (hq : MayQueue s 4 op.counted) (hg : ∀ u, claims u = (do let t ← u.claim tiles; .ok (g t))) :
    ∃ t, s.issueMatrix op claims = .ok ((g t).advance 4) ∧ Claimed s op tiles t := by
  obtain ⟨u, hu, hqu, hsame⟩ := enterQueue_queued (s := s) (q := 4) (op := op) none [] 0 (!s.act.committed) (by decide) hq
  obtain ⟨t, ht, hqt, htl⟩ := hqu.claim hsame hc
  refine ⟨t, ?_, hqt, htl⟩
  rw [State.issueMatrix, hu, bind_ok, hg, ht]
  rfl

theorem issueMatrix_claim {s : State} {op : EOp} {tiles : List Nat} (hc : MayClaim s tiles) (hq : MayQueue s 4 op.counted) :
    ∃ t, s.issueMatrix op (fun s => s.claim tiles) = .ok (t.advance 4) ∧ Claimed s op tiles t :=
  issueMatrix_claims (g := id) hc hq fun u => by cases u.claim tiles <;> rfl

/-- A form that comes to the issue of an entry with its tiles. -/
theorem matrixEntry_of {s : State} {i : Instr} {op : EOp} {tiles : List Nat} {k : Chk State} (hl : s.act.live = true) (hc : MayClaim s tiles)
    (hq : MayQueue s 4 op.counted) (hi : exec i s = run s k) (hk : k = s.issueMatrix op fun s => s.claim tiles) : MatrixEntry i s op tiles := by
  obtain ⟨t, ht, hu⟩ := issueMatrix_claim hc hq
  have he : exec i s = .next (t.advance 4) := by rw [hi, hk, ht, run_ok hl]
  exact ⟨hu.queued.advances he, _, he, hu.tiles⟩

/-! ## Forms without operands in scratchpad -/

/-- The bias that MSTORE reads, as a use of scratchpad. -/
def biasUse (n : Nat) : Option Word → List PadUse
  | some o => operandUse o 0 [(o.toNat, 4 * n)] .engineRead true
  | none => []

section
variable {s : State} (hl : s.act.live = true)
include hl

section
variable (d : BitVec 4) (hc : MayClaim s [d.toNat])
include hc

theorem mzero_entry (hq : MayQueue s 4 (EOp.mzero d.toNat).counted) : MatrixEntry (.mzero d) s (.mzero d.toNat) [d.toNat] :=
  matrixEntry_of hl hc hq (show _ = execMzero d s from rfl) (by rw [hasArray_of hc.1, bind_ok, absent_of hc, bind_ok])

theorem mchk_entry (hq : MayQueue s 4 (EOp.mchk d.toNat s.act.tol).counted) : MatrixEntry (.mchk d) s (.mchk d.toNat s.act.tol) [d.toNat] :=
  matrixEntry_of hl hc hq (show _ = execMchk d s from rfl) (by rw [hasArray_of hc.1, bind_ok, absent_of hc, bind_ok])

theorem mcorr_entry (hq : MayQueue s 4 (EOp.mcorr d.toNat).counted) : MatrixEntry (.mcorr d) s (.mcorr d.toNat) [d.toNat] :=
  matrixEntry_of hl hc hq (show _ = execMcorr d s from rfl) (by rw [hasArray_of hc.1, bind_ok, absent_of hc, bind_ok])

section
variable {a : BitVec 5} (ha : Clean s a)
include ha

theorem mscl_value_entry (hv : (s.act.getX a).toNat < 2 ^ 32) (hq : MayQueue s 4 (EOp.mscl d.toNat (.inl ((s.act.getX a).setWidth 32))).counted) :
    MatrixEntry (.mscl 0 a d) s (.mscl d.toNat (.inl ((s.act.getX a).setWidth 32))) [d.toNat] := by
  refine matrixEntry_of hl hc hq (show _ = execMscl 0 a d s from rfl) ?_
  rw [hasArray_of hc.1, bind_ok, absent_of hc, bind_ok, ctlX_clean ha, bind_ok, if_pos rfl, need_of (decide_eq_true hv)]
  rfl

theorem mscl_table_entry (hu : s.checkOperands (operandUse (s.act.getX a) 0 [((s.act.getX a).toNat, 512)] .engineRead true) = .ok ())
    (hq : MayQueue s 4 (EOp.mscl d.toNat (.inr (s.act.getX a).toNat)).counted) :
    MatrixEntry (.mscl 1 a d) s (.mscl d.toNat (.inr (s.act.getX a).toNat)) [d.toNat] := by
  refine matrixEntry_of hl hc hq (show _ = execMscl 1 a d s from rfl) ?_
  rw [hasArray_of hc.1, bind_ok, absent_of hc, bind_ok, ctlX_clean ha, bind_ok, if_neg (by decide), if_pos rfl, hu]
  rfl

section
variable (h2 : CleanO s 2) (h3 : CleanO s 3) {spitch pitch : Nat} (hlay : layoutOf (s.act.getO 3) false = .ok (spitch, pitch))
include h2 h3 hlay

theorem mtkr_entry (hb : onlyBits (s.act.getX a) 0xF007F = .ok ()) (h1 : 1 ≤ ((s.act.getX a).extractLsb' 16 4).toNat)
    (h8 : ((s.act.getX a).extractLsb' 16 4).toNat ≤ 8) :
    let m := ((s.act.getX a).extractLsb' 0 7).toNat + 1
    let k := ((s.act.getX a).extractLsb' 16 4).toNat
    let base := s.act.getO 2
    s.checkOperands (operandUse base pitch [(base.toNat, (m - 1) * pitch + 8 * k)] .engineWrite false) = .ok () →
    MayQueue s 4 (EOp.mtkr d.toNat m k base.toNat pitch).counted → MatrixEntry (.mtkr a d) s (.mtkr d.toNat m k base.toNat pitch) [d.toNat] := by
  intro m k base hu hq
  refine matrixEntry_of hl hc hq (show _ = execMtkr a d s from rfl) ?_
  simp only [hasArray_of hc.1, absent_of hc, ctlX_clean ha, ctlO_clean h2, ctlO_clean h3, hb, hlay, bits_eq, decide_eq_true h1, decide_eq_true h8,
    Bool.and_self, need_true, bind_ok]
  rw [hu, bind_ok]

theorem mlda_entry {f : BitVec 1} (hb : onlyBits (s.act.getX a) 0x7F7F = .ok ()) :
    let m := ((s.act.getX a).extractLsb' 0 7).toNat + 1
    let n := ((s.act.getX a).extractLsb' 8 7).toNat + 1
    let base := s.act.getO 2
    s.checkOperands (operandUse base pitch (operandRanges f.toNat n m base.toNat pitch 0 false) .engineRead true) = .ok () →
    MayQueue s 4 (EOp.mlda d.toNat f.toNat m n base.toNat pitch).counted →
    MatrixEntry (.mlda f a d) s (.mlda d.toNat f.toNat m n base.toNat pitch) [d.toNat] := by
  intro m n base hu hq
  refine matrixEntry_of hl hc hq (show _ = execMlda f a d s from rfl) ?_
  simp only [hasArray_of hc.1, absent_of hc, ctlX_clean ha, ctlO_clean h2, ctlO_clean h3, hb, hlay, bits_eq, bind_ok]
  rw [hu, bind_ok]

omit hl in
/-- MSTORE, once its bias and its scale are read. -/
theorem execMstore_of {f : BitVec 5} {rm : Nat} {bias : Option Word} {scale : Option Word32} (hb : onlyBits (s.act.getX a) 0xFF7F7F = .ok ())
    (h5 : ((s.act.getX a).extractLsb' 19 3).toNat ≤ 5) (hrm : modeFor (s.act.frm.setWidth 3) ((s.act.getX a).extractLsb' 16 3) = .ok rm)
    (hbias : (if (s.act.getX a).getLsbD 23 = true then (do let o ← s.act.ctlO 4; .ok (some o)) else .ok none : Chk (Option Word)) = .ok bias)
    (hscale : (if (s.act.getX a).getLsbD 22 = true then
      (do let o ← s.act.ctlO 5; need (decide (o.toNat < 2 ^ 32)) 3; .ok (some (o.setWidth 32))) else .ok none : Chk (Option Word32)) = .ok scale) :
    let v := s.act.getX a
    let m := (v.extractLsb' 0 7).toNat + 1
    let n := (v.extractLsb' 8 7).toNat + 1
    let base := s.act.getO 2
    wholeLine f.toNat n = .ok () →
    s.checkOperands (operandUse base pitch (operandRanges f.toNat n m base.toNat pitch 0 false) .engineWrite false ++ biasUse n bias) = .ok () →
    let op := EOp.mstore d.toNat f.toNat m n base.toNat pitch (bias.map (·.toNat)) scale (v.extractLsb' 19 3).toNat rm (s.act.frm.getLsbD 3) s.act.mdraw
    execMstore f a d s = run s (do
      let t ← s.issueMatrix op fun s => s.claim [d.toNat]
      .ok (if rm = 4 then t.modAct fun x => { x with mdraw := x.mdraw + BitVec.ofNat 64 (m * n) } else t)) := by
  intro v m n base hw hu op
  rw [execMstore]
  simp only [hasArray_of hc.1, absent_of hc, ctlX_clean ha, ctlO_clean h2, ctlO_clean h3, hb, hlay, bits_eq, decide_eq_true h5, hrm, need_true, bind_ok]
  rw [hbias, bind_ok, hscale, bind_ok, hw, bind_ok]
  cases bias with
  | none =>
    have hu' : s.checkOperands (operandUse base pitch (operandRanges f.toNat n m base.toNat pitch 0 false) .engineWrite false ++ []) = .ok () := hu
    dsimp only
    rw [hu', bind_ok]
    rfl
  | some o =>
    have hu' : s.checkOperands (operandUse base pitch (operandRanges f.toNat n m base.toNat pitch 0 false) .engineWrite false ++
      operandUse o 0 [(o.toNat, 4 * n)] .engineRead true) = .ok () := hu
    dsimp only
    rw [hu', bind_ok]
    rfl

end
end
end

/-! ## Forms of two tiles -/

section
variable (b d : BitVec 4) (hc : MayClaim s [d.toNat, b.toNat])
include hc

theorem macc_entry (hq : MayQueue s 4 (EOp.macc d.toNat b.toNat).counted) : MatrixEntry (.macc b d) s (.macc d.toNat b.toNat) [d.toNat, b.toNat] :=
  matrixEntry_of hl hc hq (show _ = execMacc b d s from rfl) (by rw [hasArray_of hc.1, bind_ok, absent_of hc, bind_ok])

theorem mtopk_entry {a : BitVec 5} (ha : Clean s a) (hb : onlyBits (s.act.getX a) 0xFFFF00007F7F = .ok ()) :
    let m := ((s.act.getX a).extractLsb' 0 7).toNat + 1
    let n := ((s.act.getX a).extractLsb' 8 7).toNat + 1
    let base := ((s.act.getX a).extractLsb' 32 16).toNat
    base + n - 1 ≤ 65535 → MayQueue s 4 (EOp.mtopk d.toNat b.toNat m n base).counted →
    MatrixEntry (.mtopk b a d) s (.mtopk d.toNat b.toNat m n base) [d.toNat, b.toNat] := by
  intro m n base hlim hq
  refine matrixEntry_of hl hc hq (show _ = execMtopk b a d s from rfl) ?_
  simp only [hasArray_of hc.1, absent_of hc, ctlX_clean ha, hb, bits_eq, bind_ok]
  rw [need_of (decide_eq_true hlim), bind_ok]

end

/-! ## MSTAT -/

theorem mstat_writes {b : BitVec 4} {a : BitVec 5} (hs : isService s.act.core = false) (hn : b.toNat < (s.core s.act.core).acc)
    (hq : ∀ e ∈ vget (s.core s.act.core).queues 4, e.aid = s.act.aid → e.op.isJoin = true) :
    Writes (.mstat 0 b a) s 4 a ((((s.core s.act.core).tiles.find? fun x => x.num == b.toNat && x.owner == s.act.aid).map Tile.status).getD 0 |||
      (s.act.replays.zeroExtend 64 <<< 52) ||| s.act.mflags.zeroExtend 64) false := by
  have habs : absent s [b.toNat] = .ok () := need_of (by simp [hn])
  have hany : (!(vget (s.core s.act.core).queues 4).any fun e => e.aid == s.act.aid && !e.op.isJoin) = true := by
    rw [Bool.not_eq_true', List.any_eq_false]
    intro e he
    rw [Bool.and_eq_true, beq_iff_eq, Bool.not_eq_true']
    rintro ⟨h1, h2⟩
    rw [hq e he h1] at h2
    cases h2
  show execMstat 0 b a s = _
  rw [execMstat, hasArray_of hs, bind_ok, habs, bind_ok]
  dsimp only
  rw [hany, await_true, bind_ok, if_neg (by decide), at_zero, run_ok hl]
  rfl

end

/-- Settles O37: each form checks what it names, queues its entry and claims its tiles. -/
theorem matrixEntriesQueued : Obligations.MatrixEntriesQueued := by
  intro s f a f1 b d hl ha h2 h3 v base m n entry
  refine ⟨fun hc hq => mzero_entry hl d hc hq, fun hc hq => mchk_entry hl d hc hq, fun hc hq => mcorr_entry hl d hc hq,
    fun hc hq => macc_entry hl b d hc hq, fun hv hc hq => mscl_value_entry hl d hc ha hv hq, fun hu hc hq => mscl_table_entry hl d hc ha hu hq,
    fun hb hlim hc hq => mtopk_entry hl b d hc ha hb hlim hq, fun spitch pitch hlay => ⟨fun hb => ?_, fun hb hu hc hq =>
      mlda_entry hl d hc ha h2 h3 hlay hb hu hq, fun rm hb h5 hrm => ?_⟩, ?_⟩
  · intro k h1 h8 hu hc hq
    exact mtkr_entry hl d hc ha h2 h3 hlay hb h1 h8 hu hq
  · intro bias scale h4 h5' hw hu op hc hq
    obtain ⟨t, ht, hcl⟩ := issueMatrix_claim hc hq
    have hbias : (if v.getLsbD 23 = true then (do let o ← s.act.ctlO 4; .ok (some o)) else .ok none : Chk (Option Word)) = .ok bias := by
      by_cases h : v.getLsbD 23 = true
      · rw [if_pos h, ctlO_clean (h4 h), bind_ok, show bias = some (s.act.getO 4) from if_pos h]
      · rw [if_neg h, show bias = none from if_neg h]
    have hscale : (if v.getLsbD 22 = true then
        (do let o ← s.act.ctlO 5; need (decide (o.toNat < 2 ^ 32)) 3; .ok (some (o.setWidth 32))) else .ok none : Chk (Option Word32)) = .ok scale := by
      by_cases h : v.getLsbD 22 = true
      · rw [if_pos h, ctlO_clean (h5' h).1, bind_ok, need_of (decide_eq_true (h5' h).2), bind_ok,
          show scale = some ((s.act.getO 5).setWidth 32) from if_pos h]
      · rw [if_neg h, show scale = none from if_neg h]
    have huse : biasUse n bias = if v.getLsbD 23 then operandUse (s.act.getO 4) 0 [((s.act.getO 4).toNat, 4 * n)] .engineRead true else [] := by
      by_cases h : v.getLsbD 23 = true
      · rw [if_pos h, show bias = some (s.act.getO 4) from if_pos h]
        rfl
      · rw [if_neg h, show bias = none from if_neg h]
        rfl
    have he := execMstore_of d hc ha h2 h3 hlay hb h5 hrm hbias hscale hw (by rw [← huse] at hu; exact hu)
    dsimp only at he
    rw [ht, bind_ok, run_ok hl] at he
    refine hcl.queued.completes he ?_
    rw [State.advance, State.advance, hcl.queued.act]
    split <;> rfl
  · intro mine hs hn hq
    exact mstat_writes hl hs hn hq

end Sys2Proof.Machine
end

section
/-! The matrix forms with operands in scratchpad (10 R269 to R276). -/

namespace Sys2Proof.Machine
open Sys2Proof.Safety

/-! ## Weight buffers (10 R266) -/

/-- Buffers after MLDW has claimed one. -/
def claimedBufs (l : List WBuf) (n owner : Nat) (issued : Nat × Nat × Nat) : List WBuf :=
  if l.any (·.num == n) then mapIf (·.num == n) (fun b => { b with issued := issued }) l
  else l ++ [({ num := n, owner := owner, issued := issued } : WBuf)]

theorem Queued.claimBuf {s u : State} {op : EOp} (h : Queued s 4 op none u) (ht : SameTiles s u) {n : Nat} (issued : Nat × Nat × Nat)
    (hb : ∀ x ∈ (s.core s.act.core).bufs, x.num = n → x.owner = s.act.aid) :
    ∃ t, u.claimBuf n issued = .ok t ∧ Queued s 4 op none t ∧
      ∃ x ∈ (t.core s.act.core).bufs, x.num = n ∧ x.owner = s.act.aid ∧ x.issued = issued := by
  have hall : ((u.core s.act.core).bufs.all fun b => b.num != n || b.owner == s.act.aid) = true := by
    rw [ht.2]
    refine List.all_eq_true.2 fun x hx => ?_
    by_cases hn : x.num = n
    · rw [hb x hx hn, beq_self_eq_true, Bool.or_true]
    · rw [bne_iff_ne.2 hn, Bool.true_or]
  refine ⟨u.modCore s.act.core fun c => { c with bufs := claimedBufs (u.core s.act.core).bufs n s.act.aid issued }, ?_, h.modCore (fun _ => rfl) (fun _ => rfl), ?_⟩
  · rw [State.claimBuf, h.act]
    dsimp only
    rw [hall, await_true, bind_ok]
    rfl
  · rw [core_modCore_self]
    dsimp only
    unfold claimedBufs
    split
    next hany =>
      obtain ⟨x, hx, hn⟩ := List.any_eq_true.1 hany
      refine ⟨_, List.mem_map.2 ⟨x, hx, if_pos hn⟩, beq_iff_eq.1 hn, ?_, rfl⟩
      rw [ht.2] at hx
      exact hb x hx (beq_iff_eq.1 hn)
    next => exact ⟨_, List.mem_append_right _ (List.mem_singleton.2 rfl), rfl, rfl, rfl⟩

/-- The acquire event of an MMAC's gate is to come; an MMA has none. -/
def State.gated (s : State) (g : Option Gate) (t : State) : State :=
  match g with
  | some x => t.acquireLater t.me { op := s.env.nextId, mask := x.2.2, atomic := false, pos := if t.act.committed then 0 else t.act.staged.length }
  | none => t

section
variable {s : State} {f a : BitVec 5} {d : BitVec 4} {spitch pitch : Nat} (hl : s.act.live = true) (ha : Clean s a) (h2 : CleanO s 2) (h3 : CleanO s 3)
  (hlay : layoutOf (s.act.getO 3) (10 ≤ f.toNat) = .ok (spitch, pitch))
include hl ha h2 h3 hlay

theorem mldw_entry {w : BitVec 1} (hs : isService s.act.core = false) (hb : onlyBits (s.act.getX a) 0x7F7F = .ok ()) :
    let m := ((s.act.getX a).extractLsb' 0 7).toNat + 1
    let n := ((s.act.getX a).extractLsb' 8 7).toNat + 1
    let base := s.act.getO 2
    let op := EOp.mldw w.toNat f.toNat m n base.toNat pitch spitch
    wholeLine f.toNat m = .ok () →
    s.checkOperands (operandUse base pitch (operandRanges f.toNat m n base.toNat pitch spitch true) .engineRead true) = .ok () →
    (∀ x ∈ (s.core s.act.core).bufs, x.num = w.toNat → x.owner = s.act.aid) → MayQueue s 4 op.counted →
    ∃ t, exec (.mldw f a w) s = .next (t.advance 4) ∧ Queued s 4 op none t ∧
      ∃ x ∈ (t.core s.act.core).bufs, x.num = w.toNat ∧ x.owner = s.act.aid ∧ x.issued = (f.toNat, m, n) := by
  intro m n base op hw hu hbuf hq
  obtain ⟨u, hen, hqu, hsame⟩ := enterQueue_queued (s := s) (q := 4) (op := op) none [] 0 (!s.act.committed) (by decide) hq
  obtain ⟨t, ht, hqt, hx⟩ := hqu.claimBuf hsame (f.toNat, m, n) hbuf
  refine ⟨t, ?_, hqt, hx⟩
  show execMldw f a w s = _
  rw [execMldw]
  simp only [hasArray_of hs, ctlX_clean ha, ctlO_clean h2, ctlO_clean h3, hb, hlay, bits_eq, bind_ok]
  rw [hw, bind_ok, hu, bind_ok, State.issueMatrix, hen, bind_ok, ht]
  exact run_ok hl

section
variable (hc : MayClaim s [d.toNat])
include hc

omit hl in
/-- MMA and MMAC up to the issue of their entry. -/
theorem mmaOp_of {w : BitVec 1} {x : WBuf} {gate : State → Chk (Option Gate)} {g : Option Gate} (hg : gate s = .ok g) (hx : s.loadedBuf w.toNat = .ok x)
    (hb : onlyBits (s.act.getX a) 0x7F = .ok ()) (hp : mayPair f.toNat x.issued.1 = true) (hw : wholeLine f.toNat x.issued.2.1 = .ok ()) :
    let m := ((s.act.getX a).extractLsb' 0 7).toNat + 1
    let base := s.act.getO 2
    s.checkOperands (operandUse base pitch (operandRanges f.toNat x.issued.2.1 m base.toNat pitch spitch false) .engineRead true) = .ok () →
    mmaOp f w a d gate s =
      s.issueMatrix (.mma d.toNat w.toNat f.toNat x.issued.2.1 m base.toNat pitch spitch (g.map fun x => (x.1, x.2.1))) fun t =>
        t.claim [d.toNat] >>= fun t => .ok (s.gated g t) := by
  intro m base hu
  rw [mmaOp]
  simp only [hasArray_of hc.1, absent_of hc, ctlX_clean ha, ctlO_clean h2, ctlO_clean h3, hb, hlay, hg, hx, hp, need_true, hw, bits_eq, bind_ok]
  rw [hu, bind_ok]
  rfl

theorem mma_entry {w : BitVec 1} {x : WBuf} (hx : s.loadedBuf w.toNat = .ok x)
    (hb : onlyBits (s.act.getX a) 0x7F = .ok ()) (hp : mayPair f.toNat x.issued.1 = true) (hw : wholeLine f.toNat x.issued.2.1 = .ok ()) :
    let m := ((s.act.getX a).extractLsb' 0 7).toNat + 1
    let base := s.act.getO 2
    let op := EOp.mma d.toNat w.toNat f.toNat x.issued.2.1 m base.toNat pitch spitch none
    s.checkOperands (operandUse base pitch (operandRanges f.toNat x.issued.2.1 m base.toNat pitch spitch false) .engineRead true) = .ok () →
    MayQueue s 4 op.counted → MatrixEntry (.mma f w a d) s op [d.toNat] := by
  intro m base op hu hq
  obtain ⟨t, ht, hcl⟩ := issueMatrix_claims (op := op) (g := s.gated none) hc hq fun _ => rfl
  have he : exec (.mma f w a d) s = .next (t.advance 4) := by
    show run s (mmaOp f w a d (fun _ => .ok none) s) = _
    rw [mmaOp_of ha h2 h3 hlay hc (gate := fun _ => .ok none) rfl hx hb hp hw hu]
    refine (congrArg (run s) ht).trans (run_ok hl)
  exact ⟨hcl.queued.advances he, _, he, hcl.tiles⟩

theorem mmac_entry {w : BitVec 1} {x : WBuf} {g : Gate} (hg : s.gate = .ok (some g)) (hx : s.loadedBuf w.toNat = .ok x)
    (hb : onlyBits (s.act.getX a) 0x7F = .ok ()) (hp : mayPair f.toNat x.issued.1 = true) (hw : wholeLine f.toNat x.issued.2.1 = .ok ()) :
    let m := ((s.act.getX a).extractLsb' 0 7).toNat + 1
    let base := s.act.getO 2
    let op := EOp.mma d.toNat w.toNat f.toNat x.issued.2.1 m base.toNat pitch spitch (some (g.1, g.2.1))
    s.checkOperands (operandUse base pitch (operandRanges f.toNat x.issued.2.1 m base.toNat pitch spitch false) .engineRead true) = .ok () →
    MayQueue s 4 op.counted →
    let pos := if s.act.committed then 0 else s.act.staged.length
    Queues (.mmac f w a d) s 4 op none
      { (s.advance 4).act with acquires := s.act.acquires ++ [{ op := s.env.nextId, mask := g.2.2, atomic := false, pos := pos }] } ∧
    Completes (.mmac f w a d) s fun t => ∃ x, t.tile s.act.core d.toNat = some x ∧ x.owner = s.act.aid := by
  intro m base op hu hq pos
  obtain ⟨t, ht, hcl⟩ := issueMatrix_claims (op := op) (g := s.gated (some g)) hc hq fun _ => rfl
  have he : exec (.mmac f w a d) s = .next ((s.gated (some g) t).advance 4) := by
    show run s (mmaOp f w a d State.gate s) = _
    rw [mmaOp_of ha h2 h3 hlay hc (gate := State.gate) hg hx hb hp hw hu]
    refine (congrArg (run s) ht).trans (run_ok hl)
  have hlater : s.gated (some g) t = t.modAct fun a => { a with acquires := a.acquires ++
      [{ op := s.env.nextId, mask := g.2.2, atomic := false, pos := if t.act.committed then 0 else t.act.staged.length }] } := if_pos rfl
  rw [hlater] at he
  refine ⟨hcl.queued.completes he ?_, _, he, hcl.tiles d.toNat (List.mem_singleton.2 rfl)⟩
  unfold State.advance State.modAct
  rw [hcl.queued.act]

end

theorem mmas_entry {bSpitch bPitch : Nat} (h4 : CleanO s 4) (h5 : CleanO s 5) (hb : onlyBits (s.act.getX a) 0x1FFF7F01FF01FF = .ok ()) :
    let v := s.act.getX a
    let wf := (v.extractLsb' 48 5).toNat
    let ks := (v.extractLsb' 32 7).toNat + 1
    let rows := (v.extractLsb' 0 9).toNat
    let cols := (v.extractLsb' 16 9).toNat
    let base := s.act.getO 2
    let bBase := s.act.getO 4
    layoutOf (s.act.getO 5) (10 ≤ wf) = .ok (bSpitch, bPitch) → rows ≤ 256 → cols ≤ 256 → mayPair f.toNat wf = true →
    wholeLine f.toNat ks = .ok () → wholeLine wf ks = .ok () →
    let tiles := [d.toNat, d.toNat + 1, d.toNat + 2, d.toNat + 3]
    let op := EOp.mmas d.toNat f.toNat wf (v.extractLsb' 40 8).toNat ks rows cols base.toNat pitch spitch bBase.toNat bPitch bSpitch
    let aRanges := operandRanges f.toNat ks rows base.toNat pitch spitch false
    s.checkOperands (operandUse base pitch aRanges .engineRead false ++
      operandUse bBase bPitch ((op.ranges.map (·.2)).drop aRanges.length) .engineRead false) = .ok () →
    MayClaim s tiles → MayQueue s 4 op.counted → MatrixEntry (.mmas f a d) s op tiles := by
  intro v wf ks rows cols base bBase hlay2 hr hcl hp hw1 hw2 tiles op aRanges hu hc hq
  have htiles : (List.range 4).map (d.toNat + ·) = tiles := rfl
  refine matrixEntry_of hl hc hq (show _ = execMmas f a d s from rfl) ?_
  simp only [hasArray_of hc.1, htiles, absent_of hc, ctlX_clean ha, ctlO_clean h2, ctlO_clean h3, ctlO_clean h4, ctlO_clean h5, hb, hlay, bits_eq, bind_ok]
  rw [hlay2, bind_ok]
  dsimp only
  rw [decide_eq_true hr, decide_eq_true hcl, hp, Bool.and_self, Bool.and_self, need_true, bind_ok, hw1, bind_ok, hw2, bind_ok, hu, bind_ok]

end

/-- Settles O38: the operands are checked as the layout and the buffer say, and the entry is queued with its claims. -/
theorem matrixOperandsQueued : Obligations.MatrixOperandsQueued := by
  intro s f a w d spitch pitch hl ha h2 h3 hs v base m n hlay
  refine ⟨?_, fun x hx hb hp hw hu hc => ?_, fun bSpitch bPitch h4 h5 hb => ?_⟩
  · intro op hb hw hu hbuf hq
    obtain ⟨t, he, hqt, hx⟩ := mldw_entry hl ha h2 h3 hlay hs hb hw hu hbuf hq
    exact ⟨hqt.advances he, _, he, hx⟩
  · intro op
    exact ⟨fun hq => mma_entry hl ha h2 h3 hlay hc hx hb hp hw hu hq, fun g hg hq => mmac_entry hl ha h2 h3 hlay hc hg hx hb hp hw hu hq⟩
  · intro wf ks rows cols bBase hlay2 hr hcl hp hw1 hw2 tiles op aRanges hu hc hq
    exact mmas_entry hl ha h2 h3 hlay h4 h5 hb hlay2 hr hcl hp hw1 hw2 hu hc hq

end Sys2Proof.Machine
end


section
/-! O39: vector floating point. Each form is `vfp`, which rounds once, or `vraw`, which rounds nothing. -/

namespace Sys2Proof.Machine
open Sys2Proof.Safety

theorem vecFmt_width (t : BitVec 4) : laneWidth (vecFmt t).width := by
  unfold vecFmt laneWidth
  split <;> decide

/-- The registers of a form with three operands are free when a list that names them all is. -/
theorem free_of {s : State} {regs l : List (BitVec 5)} (h : ∀ r ∈ regs, s.boundTo r.toNat = none) (hl : l ⊆ regs) :
    ∀ r ∈ l, s.boundTo r.toNat = none := fun r hr => h r (hl hr)

/-- Settles O39: the two general forms, with the function of each instruction. -/
theorem vectorFloatResults : Obligations.VectorFloatResults := by
  refine ⟨?_, ?_, ?_⟩
  · intro s p t b a d mode _ ⟨hl, hs, hf⟩ hm f w act A B D rdn rounds
    have two : ∀ r ∈ [a, b] ++ [d], s.boundTo r.toNat = none := free_of hf (by simp)
    have three : ∀ r ∈ [a, b, d] ++ [d], s.boundTo r.toNat = none := free_of hf (by simp)
    have hw := vecFmt_width t
    exact ⟨vfp_form s 4 t p mode [a, b] d (fun rdn l _ => (arg l 0).add rdn (arg l 1)) rfl hm hl hs two hw,
      vfp_form s 4 t p mode [a, b] d (fun rdn l _ => (arg l 0).add rdn (arg l 1).neg) rfl hm hl hs two hw,
      vfp_form s 4 t p mode [a, b] d (fun _ l _ => (arg l 0).mul (arg l 1)) rfl hm hl hs two hw,
      vfp_form s 4 t p mode [a, b, d] d (fun rdn l _ => FV.fma rdn (arg l 0) (arg l 1) (arg l 2)) rfl hm hl hs three hw,
      vfp_form s 4 t p mode [a, b, d] d (fun rdn l _ => FV.fma rdn (arg l 0).neg (arg l 1) (arg l 2)) rfl hm hl hs three hw,
      vfp_form s 4 t p mode [a, b] d (fun _ l c => ((arg l 0).scale (intOf true (vecFmt t).width (arg c 1)), sigFlag [arg l 0]))
        rfl hm hl hs two hw⟩
  · intro s p t b a d _ ⟨hl, hs, hf⟩ f w lanes A B
    have one : ∀ r ∈ [a] ++ [d], s.boundTo r.toNat = none := free_of hf (by simp)
    have two : ∀ r ∈ [a, b] ++ [d], s.boundTo r.toNat = none := free_of hf (by simp)
    have hw := vecFmt_width t
    exact ⟨vraw_form s 4 t p [a, b] d (fun l => vecMinMax (vecFmt t) false (arg l 0) (arg l 1)) rfl hl hs two hw,
      vraw_form s 4 t p [a, b] d (fun l => vecMinMax (vecFmt t) true (arg l 0) (arg l 1)) rfl hl hs two hw,
      vraw_form s 4 t p [a, b] d (fun l => vecMaxMag (vecFmt t) (arg l 0) (arg l 1)) rfl hl hs two hw,
      vraw_form s 4 t p [a] d (fun l => vecSign (vecFmt t) false (arg l 0)) rfl hl hs one hw,
      vraw_form s 4 t p [a] d (fun l => vecSign (vecFmt t) true (arg l 0)) rfl hl hs one hw,
      vraw_form s 4 t p [a] d (fun l => (vecClass (vecFmt t) (arg l 0), 0)) rfl hl hs one hw⟩
  · intro s d a b mode ed ea eb ⟨hl, hs, hf⟩ hm
    have three : ∀ r ∈ [ea, eb, ed] ++ [ed], s.boundTo r.toNat = none := free_of hf (by simp)
    exact vfp_form s 2 0 0 mode [ea, eb, ed] ed (fun rdn l _ => FV.fma rdn (arg l 0) (arg l 1) (arg l 2)) rfl hm hl hs three
      (vecFmt_width 0)

end Sys2Proof.Machine
end

section
/-! O40: vector compares. What a compare gathers is one field of a p register for each element. -/

namespace Sys2Proof.Machine
open Sys2Proof.Safety

/-- The bytes of the elements that a condition names, as `compareOp` gathers them. -/
def gathered (w : Nat) (c : Nat → Bool) : PRow :=
  (List.range (eCount w)).foldl (fun m j => if c j then m ||| (BitVec.ofNat 128 (2 ^ (w / 8) - 1) <<< (j * w / 8)) else m) 0

/-- Flags of the elements that a condition names. -/
def flagged (w : Nat) (c : Nat → Bool) (f : Nat → Flags) : Flags :=
  (List.range (eCount w)).foldl (fun g j => if c j then g ||| f j else g) 0

theorem gathered_getLsbD {w : Nat} (hw : laneWidth w) (h8 : 8 ≤ w) (c : Nat → Bool) {m : Nat} (hm : m < 128) :
    (gathered w c).getLsbD m = c (8 * m / w) := by
  have hmax : max 1 (w / 8) = w / 8 := by omega
  have hspread : ∀ i j, i * w / 8 = j * w / 8 → c i = c j := by
    intro i j h
    have : i = j := by rcases hw with rfl | rfl | rfl | rfl | rfl <;> omega
    rw [this]
  have hj : 8 * m / w < eCount w := by rcases hw with rfl | rfl | rfl | rfl | rfl <;> simp only [eCount] <;> omega
  have := actMask_at w hw c hspread (8 * m / w) (8 * m % w) (Nat.mod_lt _ (by omega)) hj
  rwa [hmax, Nat.div_add_mod, Nat.mul_div_cancel_left m (by omega)] at this

theorem flagged_getLsbD (w : Nat) (c : Nat → Bool) (f : Nat → Flags) (k : Nat) :
    (flagged w c f).getLsbD k = (List.range (eCount w)).any fun j => c j && (f j).getLsbD k := by
  have h : flagged w c f = (List.range (eCount w)).foldl (fun g j => g ||| if c j then f j else 0) 0 := by
    unfold flagged
    congr 1
    funext g j
    by_cases hc : c j = true <;> simp [hc]
  rw [h, foldl_flags]
  congr 1
  funext j
  by_cases hc : c j = true <;> simp [hc]

/-- The state after a compare: one p register written, flags set. -/
def compared (s : State) (d : Nat) (v q : PRow) (g : Flags) : State :=
  { s with act := { s.act with
      p := vset s.act.p d v, pp := vset s.act.pp d q, fflags := s.act.fflags ||| g, eflags := s.act.eflags ||| g } }

/-- A compare of free registers. -/
theorem compareOp_free (s : State) (w : Nat) (p : BitVec 1) (b a : BitVec 5) (d : BitVec 3) (f : Nat → Nat → Bool × Flags)
    (ha : s.boundTo a.toNat = none) (hb : s.boundTo b.toNat = none) :
    let act := s.act.active p w
    let r (j : Nat) : Bool × Flags := f (elem s a w j) (elem s b w j)
    let changed := gathered w fun j => act j || s.act.maskPoison p w j
    let old := vget s.act.p d.toNat
    let value := gathered w (fun j => act j && (r j).1) ||| (old &&& ~~~gathered w act)
    ∃ q, compareOp w p b a d f s =
      .ok (compared s d.toNat ((value &&& changed) ||| (old &&& ~~~changed)) q (flagged w act fun j => (r j).2)) := by
  intro act r changed old value
  have hsrc := sources_free s [a.toNat, b.toNat] [] (by simp [ha, hb])
  have hva := valueOf_free s [a.toNat, b.toNat] a.toNat (by simp)
  have hvb := valueOf_free s [a.toNat, b.toNat] b.toNat (by simp)
  unfold compareOp
  rw [hsrc]
  simp only [bind, Except.bind, List.foldl_map, hva, hvb]
  exact ⟨_, rfl⟩

theorem compareOp_form {i i' : Instr} (s : State) (w : Nat) (p : BitVec 1) (b a : BitVec 5) (d : BitVec 3) (f : Nat → Nat → Bool × Flags)
    (hi : exec i s = run s (estream i' 4 (compareOp w p b a d f) s)) (h : EReady s [b, a]) (hw : laneWidth w) (h8 : 8 ≤ w) :
    PredForm i s d w (s.act.active p w) fun j => f (elem s a w j) (elem s b w j) := by
  obtain ⟨hl, hs, hf⟩ := h
  obtain ⟨q, hop⟩ := compareOp_free s w p b a d f (hf a (by simp)) (hf b (by simp))
  refine ⟨_, by rw [hi, estream_idle i' 4 _ s _ hs hop]; exact run_ok hl, rfl, ?_, ?_, ?_⟩
  · intro m hm
    refine (congrArg (BitVec.getLsbD · m) (vget_vset_self (α := PRow) _ _ _ d.isLt)).trans ?_
    simp only [BitVec.getLsbD_or, BitVec.getLsbD_and, BitVec.getLsbD_not, gathered_getLsbD hw h8 _ hm, hm, decide_true, Bool.true_and]
    cases s.act.active p w (8 * m / w) <;> cases s.act.maskPoison p w (8 * m / w) <;> simp
  · intro r hr
    have : d.toNat ≠ r.toNat := fun h => hr (BitVec.eq_of_toNat_eq h).symm
    exact ⟨vget_vset_ne _ _ _ _ this, vget_vset_ne _ _ _ _ this⟩
  · intro k
    have := flagged_getLsbD w (s.act.active p w) (fun j => (f (elem s a w j) (elem s b w j)).2) k
    exact ⟨(BitVec.getLsbD_or ..).trans (congrArg _ this), (BitVec.getLsbD_or ..).trans (congrArg _ this)⟩

theorem intWidth_of {t : BitVec 4} (h5 : 5 ≤ t.toNat) (h10 : t.toNat ≤ 10) :
    (intWidth t = 8 ∨ intWidth t = 16 ∨ intWidth t = 32) ∧ intSigned t = decide (t.toNat ≤ 7) := by
  revert h5 h10
  revert t
  decide

theorem elem_lt (s : State) (r : BitVec 5) (w j : Nat) : elem s r w j < 2 ^ w := Nat.mod_lt _ (Nat.two_pow_pos w)

theorem intOf_elem_signed {s : State} {r : BitVec 5} {w j : Nat} (hw : 0 < w) :
    intOf true w (elem s r w j) = (BitVec.ofNat w (elem s r w j)).toInt := intOf_ofNat hw (elem_lt s r w j)

theorem intOf_elem_unsigned {s : State} {r : BitVec 5} {w j : Nat} : intOf false w (elem s r w j) = elem s r w j := by
  simp [intOf, Nat.mod_eq_of_lt (elem_lt s r w j)]

/-- Settles O40: each compare is `compareOp` with its relation. -/
theorem vectorCompares : Obligations.VectorCompares := by
  intro s p t b a d hr
  refine ⟨?_, ?_⟩
  · intro _ f w A B cmp
    have hw := vecFmt_width t
    have h8 : 8 ≤ (vecFmt t).width := by unfold vecFmt; split <;> decide
    exact ⟨compareOp_form s w p b a d (fun x y => FV.eq (vecIn f x) (vecIn f y)) rfl hr hw h8,
      compareOp_form s w p b a d (fun x y => FV.lt (vecIn f x) (vecIn f y)) rfl hr hw h8,
      compareOp_form s w p b a d (fun x y => FV.le (vecIn f x) (vecIn f y)) rfl hr hw h8⟩
  · intro h5 h10 w
    obtain ⟨hw, hsigned⟩ := intWidth_of h5 h10
    have hw' : laneWidth w := by unfold laneWidth; change w = 8 ∨ w = 16 ∨ w = 32 at hw; omega
    have h8 : 8 ≤ w := by change w = 8 ∨ w = 16 ∨ w = 32 at hw; omega
    refine ⟨compareOp_form s w p b a d (fun x y => (x == y, 0)) rfl hr hw' h8, ?_⟩
    have hlt : ∀ j, decide (intOf (intSigned t) w (elem s a w j) < intOf (intSigned t) w (elem s b w j)) =
        if t.toNat ≤ 7 then (BitVec.ofNat w (elem s a w j)).slt (BitVec.ofNat w (elem s b w j))
        else decide (elem s a w j < elem s b w j) := by
      intro j
      by_cases h7 : t.toNat ≤ 7
      · rw [if_pos h7, hsigned, decide_eq_true h7, intOf_elem_signed (by omega), intOf_elem_signed (by omega)]
        rfl
      · rw [if_neg h7, hsigned, decide_eq_false h7, intOf_elem_unsigned, intOf_elem_unsigned]
        exact decide_eq_decide.2 Int.ofNat_lt
    have h := compareOp_form (i := .vicmplt p t b a d) s w p b a d
      (fun x y => (decide (intOf (intSigned t) w x < intOf (intSigned t) w y), 0)) rfl hr hw' h8
    simpa only [hlt] using h

end Sys2Proof.Machine
end


section
/-! O42: vector integers. Each form is `vint`, whose results are taken modulo the width. -/

namespace Sys2Proof.Machine
open Sys2Proof.Safety

/-- A form is described as well by another function with the same results at the width and the same flags. -/
theorem LaneForm.congr {i : Instr} {s : State} {len w draws : Nat} {d : BitVec 5} {act : Nat → Bool} {f g : Nat → Nat × Flags}
    (h : LaneForm i s len d w act draws f) (he : ∀ j < eCount w, (f j).1 % 2 ^ w = (g j).1 % 2 ^ w ∧ (f j).2 = (g j).2) :
    LaneForm i s len d w act draws g := by
  obtain ⟨t, ht, hc, hv, hr, hf⟩ := h
  refine ⟨t, ht, hc, fun j hj => ?_, hr, fun k => ?_⟩
  · rw [hv j hj, (he j hj).1]
  · have hany : ((List.range (eCount w)).any fun j => act j && ((f j).2).getLsbD k) =
        (List.range (eCount w)).any fun j => act j && ((g j).2).getLsbD k := by
      rw [Bool.eq_iff_iff, List.any_eq_true, List.any_eq_true]
      constructor <;> rintro ⟨j, hj, h⟩ <;> refine ⟨j, hj, ?_⟩
      · rwa [← (he j (List.mem_range.1 hj)).2]
      · rwa [(he j (List.mem_range.1 hj)).2]
    rw [(hf k).1, (hf k).2, hany]
    exact ⟨rfl, rfl⟩

theorem wrapInt_natCast (w n : Nat) : wrapInt w n = n % 2 ^ w := by rw [wrapInt]; norm_cast

theorem wrapInt_congr {w : Nat} {x y : Int} (h : x ≡ y [ZMOD (2 ^ w : Nat)]) : wrapInt w x = wrapInt w y := congrArg Int.toNat h

theorem wrapInt_mod (w : Nat) (x : Int) : (x % 2 ^ w).toNat % 2 ^ w = wrapInt w x := by
  have h0 : 0 ≤ x % 2 ^ w := Int.emod_nonneg _ (by positivity)
  have hlt : x % 2 ^ w < 2 ^ w := Int.emod_lt_of_pos _ (by positivity)
  have hz : ((x % 2 ^ w).toNat : Int) < (2 ^ w : Nat) := by rw [Int.toNat_of_nonneg h0]; exact_mod_cast hlt
  rw [Nat.mod_eq_of_lt (by exact_mod_cast hz), wrapInt]
  norm_cast

theorem wrapInt_toInt {w : Nat} (x : BitVec w) : wrapInt w x.toInt = x.toNat := by rw [wrapInt_eq_ofInt, BitVec.ofInt_toInt]

theorem intOf_modEq (g : Bool) (w v : Nat) : intOf g w v ≡ v [ZMOD (2 ^ w : Nat)] := by
  unfold intOf
  have hv : ((v % 2 ^ w : Nat) : Int) ≡ v [ZMOD (2 ^ w : Nat)] := by
    rw [Int.natCast_mod]; exact Int.mod_modEq _ _
  dsimp only
  split
  · exact (Int.sub_modulus_modEq_iff).2 hv
  · exact hv

/-- An integer form of vectors, by what its results are modulo the width. -/
theorem vint_as {i i' : Instr} {s : State} {t : BitVec 4} {p : BitVec 1} {regs : List (BitVec 5)} {d : BitVec 5}
    (srcs : List (BitVec 5)) (f : Nat → List Nat → Int) {g : Nat → Nat} (hi : exec i s = run s (estream i' 4 (vint t p srcs d f) s))
    (hr : EReady s regs) (hsub : srcs ++ [d] ⊆ regs) (hw : laneWidth (intWidth t))
    (h : ∀ j, wrapInt (intWidth t) (f (intWidth t) (srcs.map fun r => elem s r (intWidth t) j)) = g j % 2 ^ intWidth t) :
    LaneForm i s 4 d (intWidth t) (s.act.active p (intWidth t)) 0 fun j => (g j, 0) := by
  obtain ⟨hl, hs, hf⟩ := hr
  refine LaneForm.congr (vint_form s 4 t p srcs d f hi hl hs (free_of hf hsub) hw) fun j _ => ⟨?_, rfl⟩
  rw [← h j]
  exact Nat.mod_eq_of_lt (by rw [wrapInt_eq_ofInt]; exact BitVec.isLt _)

/-- The same of a form that reads its operands as its type does. -/
theorem vintTyped_as {i i' : Instr} {s : State} {t : BitVec 4} {p : BitVec 1} {b a d : BitVec 5} (f : Int → Int → Int)
    {g : Nat → Int} (hi : exec i s = run s (estream i' 4 (vintTyped t p b a d f) s)) (hr : EReady s [b, a, d])
    (hw : laneWidth (intWidth t))
    (h : ∀ j, f (intOf (intSigned t) (intWidth t) (elem s a (intWidth t) j)) (intOf (intSigned t) (intWidth t) (elem s b (intWidth t) j)) ≡ g j
      [ZMOD (2 ^ intWidth t : Nat)]) :
    LaneForm i s 4 d (intWidth t) (s.act.active p (intWidth t)) 0 fun j => ((g j % 2 ^ intWidth t).toNat, 0) :=
  vint_as [a, b] (fun w l => f (intOf (intSigned t) w (arg l 0)) (intOf (intSigned t) w (arg l 1))) hi hr (by simp) hw
    fun j => (wrapInt_congr (h j)).trans (wrapInt_mod _ _).symm

/-! ### The functions of one element -/

section
variable {w a : Nat} (ha : a < 2 ^ w) (k : Nat)
include ha

theorem wrapInt_shl : wrapInt w ((if k < w then a * 2 ^ k else 0 : Nat) : Int) = (BitVec.ofNat w a <<< k).toNat % 2 ^ w := by
  rw [wrapInt_natCast, BitVec.toNat_shiftLeft, BitVec.toNat_ofNat, Nat.mod_mod, Nat.mod_eq_of_lt ha, Nat.shiftLeft_eq]
  split
  next => rfl
  next h => rw [Nat.zero_mod, Nat.mod_eq_zero_of_dvd ((Nat.pow_dvd_pow 2 (not_lt.1 h)).mul_left _)]

theorem wrapInt_shr : wrapInt w ((if k < w then a / 2 ^ k else 0 : Nat) : Int) = (BitVec.ofNat w a >>> k).toNat % 2 ^ w := by
  rw [wrapInt_natCast, ← toNat_shrOp, shrOp, Nat.shiftRight_eq_div_pow, BitVec.toNat_ofNat, Nat.mod_eq_of_lt ha]

theorem wrapInt_sra (hw : 0 < w) : wrapInt w (sraOp w a k) = ((BitVec.ofNat w a).sshiftRight k).toNat % 2 ^ w := by
  have h := ofInt_sraOp (BitVec.ofNat w a) k hw
  rw [BitVec.toNat_ofNat, Nat.mod_eq_of_lt ha] at h
  rw [wrapInt_eq_ofInt, h, Nat.mod_eq_of_lt (BitVec.isLt _)]

end

section
variable {w a b : Nat} {x y : Int} (hx : x = (BitVec.ofNat w a).toInt) (hy : y = (BitVec.ofNat w b).toInt)
include hx hy

theorem wrapInt_min : wrapInt w (min x y) =
    (if (BitVec.ofNat w a).toInt ≤ (BitVec.ofNat w b).toInt then a else b) % 2 ^ w := by
  rw [hx, hy, min_def]
  split <;> rw [wrapInt_toInt, BitVec.toNat_ofNat]

theorem wrapInt_max : wrapInt w (max x y) =
    (if (BitVec.ofNat w a).toInt ≤ (BitVec.ofNat w b).toInt then b else a) % 2 ^ w := by
  rw [hx, hy, max_def]
  split <;> rw [wrapInt_toInt, BitVec.toNat_ofNat]

end

/-- Settles O42: each form's function at one element, modulo the width. -/
theorem vectorIntegerResults : Obligations.VectorIntegerResults := by
  intro s p t b a d h5 h10 hr w signed A B int val lo hi nat wrap
  obtain ⟨hwidth, hsigned⟩ := intWidth_of h5 h10
  have hw : laneWidth (intWidth t) := by unfold laneWidth; omega
  have hpos : 0 < w := by change 0 < intWidth t; omega
  have hval (r : BitVec 5) (j : Nat) : intOf (intSigned t) (intWidth t) (elem s r (intWidth t) j) = val (elem s r w j) := by
    change _ = if signed = true then _ else _
    rw [hsigned]
    by_cases h7 : t.toNat ≤ 7
    · rw [show signed = true from decide_eq_true h7, decide_eq_true h7]; exact intOf_elem_signed hpos
    · rw [show signed = false from decide_eq_false h7, decide_eq_false h7]; exact intOf_elem_unsigned
  have hclamp (v : Int) : clampInt (intSigned t) (intWidth t) v = max lo (min hi v) := by
    have hlo : intLo (intSigned t) (intWidth t) = lo := by rw [hsigned, intLo]; push_cast; rfl
    have hhi : intHi (intSigned t) (intWidth t) = hi := by rw [hsigned, intHi]; push_cast; rfl
    rw [clampInt, hlo, hhi]
  have hint (r : BitVec 5) (j : Nat) : intOf true w (elem s r w j) = int (elem s r w j) := intOf_elem_signed hpos
  refine ⟨?_, ?_, ?_, ?_, ?_, ?_, ?_, ?_, ?_, ?_, ?_, ?_, ?_, ?_, ?_, ?_, ?_, ?_⟩
  · exact vintTyped_as (· + ·) rfl hr hw fun j => (intOf_modEq ..).add (intOf_modEq ..)
  · exact vintTyped_as (· - ·) rfl hr hw fun j => (intOf_modEq ..).sub (intOf_modEq ..)
  · exact vintTyped_as (· * ·) rfl hr hw fun j => (intOf_modEq ..).mul (intOf_modEq ..)
  · refine vintTyped_as (fun x y => x * y / (2 ^ intWidth t : Nat)) rfl hr hw fun j => ?_
    rw [hval, hval]
    push_cast
    rfl
  · exact vint_as [a, b] (fun _ l => (arg l 0 &&& arg l 1 : Nat)) rfl hr (by simp) hw fun j => wrapInt_natCast _ _
  · exact vint_as [a, b] (fun _ l => (arg l 0 ||| arg l 1 : Nat)) rfl hr (by simp) hw fun j => wrapInt_natCast _ _
  · exact vint_as [a, b] (fun _ l => (arg l 0 ^^^ arg l 1 : Nat)) rfl hr (by simp) hw fun j => wrapInt_natCast _ _
  · refine vint_as [a, b] (fun w l => (if arg l 1 < w then arg l 0 * 2 ^ arg l 1 else 0 : Nat)) rfl hr (by simp) hw fun j => ?_
    exact wrapInt_shl (elem_lt ..) _
  · refine vint_as [a, b] (fun w l => (if arg l 1 < w then arg l 0 / 2 ^ arg l 1 else 0 : Nat)) rfl hr (by simp) hw fun j => ?_
    exact wrapInt_shr (elem_lt ..) _
  · refine vint_as [a, b] (fun w l => sraOp w (arg l 0) (arg l 1)) rfl hr (by simp) hw fun j => ?_
    exact wrapInt_sra (elem_lt ..) _ hpos
  · exact vint_as [a, b] (fun w l => min (intOf true w (arg l 0)) (intOf true w (arg l 1))) rfl hr (by simp) hw fun j =>
      wrapInt_min (hint a j) (hint b j)
  · exact vint_as [a, b] (fun w l => max (intOf true w (arg l 0)) (intOf true w (arg l 1))) rfl hr (by simp) hw fun j =>
      wrapInt_max (hint a j) (hint b j)
  · refine vint_as [a, b] (fun _ l => (min (arg l 0) (arg l 1) : Nat)) rfl hr (by simp) hw fun j => ?_
    exact (wrapInt_natCast _ _).trans (by rw [Nat.min_def]; rfl)
  · refine vint_as [a, b] (fun _ l => (max (arg l 0) (arg l 1) : Nat)) rfl hr (by simp) hw fun j => ?_
    exact (wrapInt_natCast _ _).trans (by rw [Nat.max_def]; rfl)
  · refine vint_as [a] (fun w l => (((List.range w).filter fun i => (arg l 0).testBit i).length : Nat)) rfl hr (by simp) hw fun j => ?_
    exact (wrapInt_natCast _ _).trans (by rw [← List.countP_eq_length_filter]; rfl)
  · refine vint_as [a] (fun w l => (if arg l 0 = 0 then w else w - 1 - (arg l 0).log2 : Nat)) rfl hr (by simp) hw fun j => ?_
    refine (wrapInt_natCast _ _).trans (congrArg (· % 2 ^ intWidth t) ?_)
    change (if A j = 0 then w else w - 1 - (A j).log2) = w - if A j = 0 then 0 else (A j).log2 + 1
    split <;> omega
  · refine vintTyped_as (fun x y => clampInt (intSigned t) (intWidth t) (x + y)) rfl hr hw fun j => ?_
    rw [hval, hval, hclamp]
  · refine vintTyped_as (fun x y => clampInt (intSigned t) (intWidth t) (x - y)) rfl hr hw fun j => ?_
    rw [hval, hval, hclamp]

end Sys2Proof.Machine
end

section
/-! O41: vector moves, permutes and slides. Each result is an element of a source, picked by place or by an index element. -/

namespace Sys2Proof.Machine
open Sys2Proof.Safety

/-- What an instruction on free registers reads of a source. -/
theorem valueOf_heldBy (s : State) {srcs : List Nat} {r : BitVec 5} (h : r.toNat ∈ srcs) (w j : Nat) :
    elemAt (valueOf (heldBy s srcs) r.toNat) w j = elem s r w j :=
  congrArg (elemAt · w j) (valueOf_free s srcs r.toNat h)

theorem pick_none (vals : List (Nat × ERow × BitVec 32)) (w : Nat) (bad : Bool) : (pick vals w none bad).v = 0 ∧ (pick vals w none bad).f = 0 :=
  ⟨rfl, rfl⟩

theorem pick_some (s : State) {srcs : List Nat} {r : BitVec 5} (h : r.toNat ∈ srcs) (w j : Nat) (bad : Bool) :
    (pick (heldBy s srcs) w (some (r.toNat, j)) bad).v = elem s r w j ∧ (pick (heldBy s srcs) w (some (r.toNat, j)) bad).f = 0 :=
  ⟨valueOf_heldBy s h w j, rfl⟩

/-- A form with one destination whose elements are computed one by one from what its free sources hold. -/
theorem elements_form {i i' : Instr} {s : State} {len w : Nat} {srcs : List Nat} {regs : List (BitVec 5)} {d : BitVec 5}
    {act mp : Act → Nat → Bool} (A : Nat → Bool) (E : Act → List (Nat × ERow × BitVec 32) → Nat → EElem) {f : Nat → Nat × Flags}
    (hi : exec i s = run s (estream i' len (fun s => vectorOp s srcs [d.toNat] w 0 0 (fun x _ j => act x j) (fun x _ j => mp x j)
      fun x vals _ _ => (List.range (eCount w)).map (E x vals)) s))
    (hr : EReady s regs) (hsub : srcs ++ [d.toNat] ⊆ regs.map (·.toNat)) (hw : laneWidth w) (hA : act s.act = A)
    (hspread : ∀ i j, i * w / 8 = j * w / 8 → A i = A j)
    (h : ∀ j, (E s.act (heldBy s srcs) j).v = (f j).1 ∧ (E s.act (heldBy s srcs) j).f = (f j).2) :
    LaneForm i s len d w A 0 f := by
  obtain ⟨hl, hs, hf⟩ := hr
  subst hA
  refine laneForm_of s len srcs d w 0 0 (fun x _ j => act x j) (fun x _ j => mp x j) _ _ f _ hi rfl hl hs ?_ hw hspread rfl (by simp) ?_
  · intro r hr
    obtain ⟨x, hx, rfl⟩ := List.mem_map.1 (hsub hr)
    exact hf x hx
  · intro j hj
    rw [getD_map_range _ _ _ _ hj]
    exact h j

/-- Settles O41: each form's element, and what it picks. -/
theorem vectorMovesAndPermutes : Obligations.VectorMovesAndPermutes := by
  refine ⟨?_, ?_⟩
  · intro s p n b a d hr
    have hall : ∀ (w i j : Nat), i * w / 8 = j * w / 8 → (fun _ : Nat => true) i = (fun _ : Nat => true) j := fun _ _ _ _ => rfl
    refine ⟨?_, ?_, ?_, ?_⟩
    · refine elements_form (i := .vsel b a d) (act := fun _ _ => true) (mp := fun _ _ => false) (srcs := [a.toNat, b.toNat]) _
        (fun x vals m =>
          { v := elemAt (valueOf vals (if (vget x.p 0).getLsbD m then a.toNat else b.toNat)) 8 m
            poison := elemPoison (poisonOf vals (if (vget x.p 0).getLsbD m then a.toNat else b.toNat)) 8 m || (vget x.pp 0).getLsbD m })
        rfl hr (by simp) (by simp [laneWidth]) rfl (hall 8) fun j => ⟨?_, rfl⟩
      by_cases hp : (vget s.act.p 0).getLsbD j = true
      · simp only [hp, if_true]; exact valueOf_heldBy s (by simp) 8 j
      · simp only [hp]; exact valueOf_heldBy s (by simp) 8 j
    · exact elements_form (i := .vbcast p n a d) (act := fun x => x.active p 32) (mp := fun x => x.maskPoison p 32) (srcs := [a.toNat]) _
        (fun _ vals _ => { v := elemAt (valueOf vals a.toNat) 32 n.toNat, poison := elemPoison (poisonOf vals a.toNat) 32 n.toNat })
        rfl hr (by simp) (by simp [laneWidth]) rfl (active_spread s.act p 32) fun j => ⟨valueOf_heldBy s (by simp) 32 n.toNat, rfl⟩
    · obtain ⟨hl, hs, hf⟩ := hr
      exact lanewise_form s 4 32 p 0 0 [a] d (fun _ l _ => (arg l 0, 0)) _ rfl rfl hl hs (free_of hf (by simp)) (by simp [laneWidth])
    · obtain ⟨hl, hs, hf⟩ := hr
      exact lanewise_form s 2 32 0 0 0 [a] d (fun _ l _ => (arg l 0, 0)) _ (i := .cVmov d a) rfl rfl hl hs (free_of hf (by simp)) (by simp [laneWidth])
  · intro s p t sh b a d hr
    refine ⟨fun h5 h10 => ?_, ?_⟩
    · intro w n
      obtain ⟨hwidth, -⟩ := intWidth_of h5 h10
      have hw : laneWidth (intWidth t) := by unfold laneWidth; omega
      refine ⟨?_, ?_⟩
      · refine elements_form (i := .vperm p t b a d) (act := fun x => x.active p w) (mp := fun x => x.maskPoison p w) (srcs := [a.toNat, b.toNat]) _
          (fun _ vals j => pick vals w (if elemAt (valueOf vals b.toNat) w j < n then some (a.toNat, elemAt (valueOf vals b.toNat) w j) else none)
            (elemPoison (poisonOf vals b.toNat) w j))
          rfl hr (by simp) hw rfl (active_spread s.act p w) fun j => ?_
        rw [valueOf_heldBy s (by simp) w j]
        dsimp only
        split
        · exact pick_some s (by simp) ..
        · exact pick_none ..
      · refine elements_form (i := .vshuf p t b a d) (act := fun x => x.active p w) (mp := fun x => x.maskPoison p w)
          (srcs := [a.toNat, b.toNat, d.toNat]) _
          (fun _ vals j => pick vals w (if elemAt (valueOf vals d.toNat) w j < n then some (a.toNat, elemAt (valueOf vals d.toNat) w j)
              else if elemAt (valueOf vals d.toNat) w j < 2 * n then some (b.toNat, elemAt (valueOf vals d.toNat) w j - n) else none)
            (elemPoison (poisonOf vals d.toNat) w j))
          rfl hr (by simp) hw rfl (active_spread s.act p w) fun j => ?_
        rw [valueOf_heldBy s (by simp) w j]
        dsimp only
        split
        · exact pick_some s (by simp) ..
        · split
          · exact pick_some s (by simp) ..
          · exact pick_none ..
    · refine elements_form (i := .vslide p sh a d) (act := fun x => x.active p 32) (mp := fun x => x.maskPoison p 32) (srcs := [a.toNat, d.toNat]) _
        (fun _ vals j => pick vals 32 (some (if j + sh.toNat < 32 then (a.toNat, j + sh.toNat) else (d.toNat, j + sh.toNat - 32))) false)
        rfl hr (by simp) (by simp [laneWidth]) rfl (active_spread s.act p 32) fun j => ?_
      dsimp only
      split
      · exact pick_some s (by simp) ..
      · exact pick_some s (by simp) ..

end Sys2Proof.Machine
end

section
/-! O45: reductions into element 0. -/

namespace Sys2Proof.Machine
open Sys2Proof.Safety

theorem reduceOp_form {i i' : Instr} {s : State} {w : Nat} {p : BitVec 1} {a d : BitVec 5} {mode draws : Nat}
    (f : Nat → List Nat → Nat × Flags) (from_ : Nat → Nat → Bool) {g : State → Chk State}
    (hi : exec i s = run s (estream i' 4 g s)) (hg : g s = reduceOp w p a d mode draws f from_ s)
    (hr : EReady s [a, d]) (hw : laneWidth w) :
    LaneForm i s 4 d w (fun _ => true) (if mode = 4 then draws else 0) fun j =>
      if j = 0 then f (s.nextDraw 0) (((List.range (eCount w)).filter (s.act.active p w)).map (elem s a w)) else (0, 0) := by
  obtain ⟨hl, hs, hf⟩ := hr
  have hv : elemAt (valueOf (heldBy s [a.toNat]) a.toNat) w = elem s a w := funext (valueOf_heldBy s (by simp) w)
  refine laneForm_of s 4 [a.toNat] d w mode draws (fun _ _ _ => true) (fun _ _ _ => false) _ g _ _ hi hg hl hs ?_ hw
    (fun _ _ _ => rfl) rfl (by simp) ?_
  · intro r hr
    simp only [List.cons_append, List.nil_append, List.mem_cons, List.not_mem_nil, or_false] at hr
    rcases hr with rfl | rfl
    · exact hf a (by simp)
    · exact hf d (by simp)
  · intro j hj
    rw [getD_map_range _ _ _ _ hj]
    split
    · rw [hv]; exact ⟨rfl, rfl⟩
    · exact ⟨rfl, rfl⟩

theorem isFloatType_of {t : BitVec 4} (h : t.toNat ≤ 4) : isFloatType t = true := decide_eq_true h
theorem not_isFloatType_of {t : BitVec 4} (h : 5 ≤ t.toNat) : isFloatType t = false := decide_eq_false (by omega)

/-- Settles O45: each reduction is `reduceOp` with its function. -/
theorem vectorReductions : Obligations.VectorReductions := by
  intro s p t a d mode hr first
  refine ⟨?_, ?_⟩
  · intro h2 hm f
    have hfl : isFloatType t = true := isFloatType_of (by omega)
    have hw := vecFmt_width t
    refine ⟨?_, ?_, ?_⟩
    · exact reduceOp_form (i := .vrsum p t a d) (fun rnd l =>
        let x := FV.sum (mode == 3) (l.map (vecIn f))
        let r := f.deliver mode (f.deliverAs s.act.e5inf (f != fp32)) rnd x.1
        (r.1, x.2 ||| r.2)) (fun _ _ => true) rfl (by simp only [hfl, if_true, hm, bind_ok]; rfl) hr hw
    · exact reduceOp_form (i := .vrmax p t a d) (mode := 0) (draws := 0) (fun _ l => f.extreme true (l.map (flushIn f)))
        (fun c r => flushIn f c == r || (f.decode r).isNan) rfl (if_pos hfl) hr hw
    · exact reduceOp_form (i := .vrmin p t a d) (mode := 0) (draws := 0) (fun _ l => f.extreme false (l.map (flushIn f)))
        (fun c r => flushIn f c == r || (f.decode r).isNan) rfl (if_pos hfl) hr hw
  · intro h5 h10 w
    have hfl : ¬ isFloatType t = true := by simp [not_isFloatType_of h5]
    obtain ⟨hwidth, -⟩ := intWidth_of h5 h10
    have hw : laneWidth (intWidth t) := by unfold laneWidth; omega
    refine ⟨?_, ?_, ?_⟩
    · exact reduceOp_form (i := .vrsum p t a d) (mode := 0) (draws := 0) (fun _ l => (l.sum % 2 ^ intWidth t, 0)) (fun _ _ => true) rfl
        (if_neg hfl) hr hw
    · exact reduceOp_form (i := .vrmax p t a d) (mode := 0) (draws := 0) (fun _ l => (intExtreme true (intSigned t) (intWidth t) l, 0))
        (fun c r => c == r) rfl (if_neg hfl) hr hw
    · exact reduceOp_form (i := .vrmin p t a d) (mode := 0) (draws := 0) (fun _ l => (intExtreme false (intSigned t) (intWidth t) l, 0))
        (fun c r => c == r) rfl (if_neg hfl) hr hw

end Sys2Proof.Machine
end

section
/-! O46: words to and from the queues, and the predicate registers. -/

namespace Sys2Proof.Machine
open Sys2Proof.Safety

theorem eFlagged_zero {s t : State} (hf : t.act.fflags = s.act.fflags) (he : t.act.eflags = s.act.eflags) (n : Nat) (act : Nat → Bool) :
    EFlagged s t n act fun _ => 0 := by
  intro k
  have : ((List.range n).any fun j => act j && BitVec.getLsbD (0 : Flags) k) = false := by simp
  rw [hf, he, this, Bool.or_false, Bool.or_false]
  exact ⟨rfl, rfl⟩

/-- An entry leaves a queue for some words of a free register. -/
theorem fromQueue_form {i i' : Instr} {s : State} {n : Nat} {d : BitVec 5} {v : Word} {q : Bool} {rest : List QEntry} (words : Nat → Bool)
    (hi : exec i s = run s (estream i' 4 (fromQueue n d words) s)) (hl : s.act.live = true) (hs : s.act.eseq.idle = true)
    (hf : s.boundTo d.toNat = none) (hq : s.act.queue n = (v, q) :: rest) :
    Completes i s (LaneOutcome (s.modAct fun x => x.setQueue n rest) 4 d 64 words 0 fun _ => (v.toNat, 0)) := by
  have hspread : ∀ i j, i * 64 / 8 = j * 64 / 8 → words i = words j := by
    intro i j h
    rw [show i = j by omega]
  obtain ⟨r, p, hw, hv⟩ := writeElems_free (s.modAct fun x => x.setQueue n rest) d.toNat 64 words (fun _ => false)
    (List.replicate 16 { v := v.toNat, poison := q }) (by simp [laneWidth]) hspread rfl hf
  have hop : fromQueue n d words s =
      .ok ((s.modAct fun x => x.setQueue n rest).modAct fun a => { a with e := vset a.e d.toNat r, ep := vset a.ep d.toNat p }) := by
    unfold fromQueue
    rw [hq]
    dsimp only
    rw [show s.checkBound [] [d.toNat] = .ok () by simp [State.checkBound, hf, need], bind_ok]
    exact hw
  refine ⟨_, by rw [hi, estream_idle i' 4 _ s _ hs hop]; exact run_ok hl, ?_, ?_, ?_, ?_⟩
  · unfold EChanges
    rw [show BitVec.ofNat 64 0 = 0#64 from rfl, BitVec.add_zero]
    rfl
  · intro j hj
    refine (congrArg (elemAt · 64 j) (vget_vset_self (α := ERow) _ _ _ d.isLt)).trans ((hv j hj).trans ?_)
    rw [List.map_replicate, List.getD_replicate _ (show j < 16 from hj)]
    rfl
  · intro x hx
    have : d.toNat ≠ x.toNat := fun h => hx (BitVec.eq_of_toNat_eq h).symm
    exact ⟨vget_vset_ne _ _ _ _ this, vget_vset_ne _ _ _ _ this⟩
  · exact eFlagged_zero rfl rfl _ _

theorem predOp_eq (s : State) (b a d : BitVec 3) (f : PRow → PRow → PRow) :
    predOp b a d f s = .ok (s.modAct fun x => { x with
      p := vset x.p d.toNat (f (vget s.act.p a.toNat) (vget s.act.p b.toNat))
      pp := vset x.pp d.toNat (vget s.act.pp a.toNat ||| vget s.act.pp b.toNat) }) := by
  have hall (v old : PRow) : (v &&& BitVec.allOnes 128) ||| (old &&& ~~~BitVec.allOnes 128) = v := by
    rw [BitVec.and_allOnes, BitVec.not_allOnes, BitVec.and_zero, BitVec.or_zero]
  unfold predOp State.writeP
  simp only [hall]

theorem estream_run {i i' : Instr} {s t : State} {len : Nat} {f : State → Chk State} (hi : exec i s = run s (estream i' len f s))
    (hl : s.act.live = true) (hs : s.act.eseq.idle = true) (hop : f s = .ok t) : exec i s = .next (t.advance len) := by
  rw [hi, estream_idle i' len _ s _ hs hop]
  exact run_ok hl

/-- Settles O46: queue moves and predicates of an idle E-stream. -/
theorem queuesAndPredicates : Obligations.QueuesAndPredicates := by
  intro s w4 q1 l1 q2 a d pb pa pd ⟨hl, hs, hf⟩
  refine ⟨?_, ?_, ?_⟩
  · intro hroom
    refine ⟨_, estream_run (show exec (.vtoq w4 a q1) s = run s (estream (.vtoq w4 a q1) 4 _ s) from rfl) hl hs ?_,
      bits (poisonOf (heldBy s [a.toNat]) a.toNat).toNat (2 * w4.toNat) 2 != 0, rfl⟩
    dsimp only
    rw [await_of (decide_eq_true hroom), bind_ok, sources_free s [a.toNat] [] (by simpa using hf a (by simp)), bind_ok]
    dsimp only
    rw [valueOf_free s [a.toNat] a.toNat (by simp)]
    rfl
  · intro v q rest hq u
    exact ⟨fromQueue_form (fun _ => true) rfl hl hs (hf d (by simp)) hq, fromQueue_form (fun j => j == w4.toNat) rfl hl hs (hf d (by simp)) hq⟩
  · intro P Q sets
    refine ⟨estream_run rfl hl hs (predOp_eq ..), estream_run rfl hl hs (predOp_eq ..), ?_, ?_, ?_⟩
    · exact estream_run rfl hl hs ((predOp_eq s pa pa pd fun x _ => ~~~x).trans (by rw [BitVec.or_self]))
    · exact estream_run rfl hl hs ((predOp_eq s pa pa pd fun x _ => x).trans (by rw [BitVec.or_self]))
    · intro hroom
      refine estream_run (show exec (.ptobq l1 pa) s = run s (estream (.ptobq l1 pa) 4 _ s) from rfl) hl hs ?_
      rw [await_of (decide_eq_true hroom), bind_ok]
      rfl

end Sys2Proof.Machine
end


section
/-! O43: vector conversions. Narrowings and widenings by their general forms; VMXQ writes two registers. -/

namespace Sys2Proof.Machine
open Sys2Proof.Safety

theorem typeWidth_cases (t : Nat) : typeWidth t = 4 ∨ typeWidth t = 8 ∨ typeWidth t = 16 ∨ typeWidth t = 32 := by
  unfold typeWidth
  split <;> simp

theorem typeWidth_lane (t : Nat) : laneWidth (typeWidth t) := by have := typeWidth_cases t; unfold laneWidth; omega

theorem typeWidth_le (t : Nat) : typeWidth t ≤ 32 := by have := typeWidth_cases t; omega

section
variable {s : State} {e : BitVec 5} {n : Nat} {l : List Nat} (h : FreeRegs s e.toNat n) (hl : ∀ x ∈ l, s.boundTo x = none)
include h

theorem group_free : ∀ r ∈ group e n, s.boundTo r = none := by
  intro r hr
  obtain ⟨k, hk, rfl⟩ := List.mem_map.1 hr
  exact h k (List.mem_range.1 hk)

include hl

theorem append_group_free : ∀ x ∈ l ++ group e n, s.boundTo x = none := fun x hx =>
  (List.mem_append.1 hx).elim (hl x) (group_free h x)

theorem group_append_free : ∀ x ∈ group e n ++ l, s.boundTo x = none := fun x hx =>
  (List.mem_append.1 hx).elim (group_free h x) (hl x)

end

/-! ## VMXQ -/

/-- The lanes of a block, as VMXQ reads them. -/
def mxBlock (vals : List (Nat × ERow × BitVec 32)) (a j : Nat) : List FV :=
  (List.range 32).map fun i => fp32.decode (elemAt (valueOf vals (a + j)) 32 i)

/-- The exponents of the blocks' scales. -/
def mxExps (t : BitVec 4) (vals : List (Nat × ERow × BitVec 32)) (a : Nat) : List (Option Int) :=
  (List.range (groupOf t)).map fun j => mxExp t (mxBlock vals a j)

/-- The elements VMXQ writes. -/
def mxElems (s : State) (t : BitVec 4) (mode : Nat) (vals : List (Nat × ERow × BitVec 32)) (a : Nat) : List EElem :=
  (List.range (32 * groupOf t)).map fun m =>
    let r := match (mxExps t vals a).getD (m / 32) none with
      | some x => mxElem t mode s.act.e5inf (s.nextDraw m) x ((mxBlock vals a (m / 32)).getD (m % 32) default)
      | none => (0, flagNV)
    { v := r.1, f := r.2, poison := poisonOf vals (a + m / 32) != 0 }

/-- The scales VMXQ writes. -/
def mxScales (t : BitVec 4) (vals : List (Nat × ERow × BitVec 32)) (a : Nat) : List EElem :=
  (List.range 128).map fun j =>
    { v := if j < groupOf t then (match (mxExps t vals a).getD j none with
          | some x => (x + 127).toNat
          | none => 0xFF) else 0
      poison := decide (j < groupOf t) && poisonOf vals (a + j) != 0 }

/-- One of VMXQ's two registers written. -/
def mxRow (s : State) (t : BitVec 4) (mode : Nat) (vals : List (Nat × ERow × BitVec 32)) (a d : Nat) (u : State) (r : Nat) : Chk State :=
  if r = d then u.writeElems r (typeWidth t.toNat) (fun _ => true) (fun _ => false) (mxElems s t mode vals a)
  else u.writeElems r 8 (fun _ => true) (fun _ => false) (mxScales t vals a)

/-- VMXQ of an idle E-stream. -/
def mxQuantise (t : BitVec 4) (mode : Nat) (b a d : BitVec 5) (s : State) : Chk State := do
  let (vals, u) ← s.sources (group a (groupOf t)) [d.toNat, b.toNat]
  let u ← mxRow s t mode vals a.toNat d.toNat u (min d.toNat b.toNat)
  let u ← mxRow s t mode vals a.toNat d.toNat u (max d.toNat b.toNat)
  .ok ((u.drawn mode (eCount (typeWidth t.toNat))).setEFlags (elemFlags (fun _ => true) (mxElems s t mode vals a.toNat)))

theorem vmxq_eq (t : BitVec 4) (b a d : BitVec 5) (s : State) :
    exec (.vmxq t b a d) s = run s (estream (.vmxq t b a d) 4 (fun s => s.act.eMode 7 >>= fun mode => mxQuantise t mode b a d s) s) := rfl

section
variable (s u : State) (t : BitVec 4) (mode : Nat) (vals : List (Nat × ERow × BitVec 32)) (a : Nat) {d b : BitVec 5}

/-- A register of VMXQ's, written with what it takes. -/
theorem mxRow_free (ht : 32 * groupOf t = eCount (typeWidth t.toNat)) {x : BitVec 5} (hx : u.boundTo x.toNat = none) :
    ∃ r q, mxRow s t mode vals a d.toNat u x.toNat = .ok (withE u (vset u.act.e x.toNat r) (vset u.act.ep x.toNat q)) ∧
      (x = d → ∀ j < eCount (typeWidth t.toNat), elemAt r (typeWidth t.toNat) j =
        ((mxElems s t mode vals a).map (·.v)).getD j 0 % 2 ^ typeWidth t.toNat) ∧
      (x ≠ d → ∀ j < 128, elemAt r 8 j = ((mxScales t vals a).map (·.v)).getD j 0 % 2 ^ 8) := by
  unfold mxRow
  by_cases hd : x = d
  · obtain ⟨r, q, hw, hv⟩ := writeElems_free u x.toNat (typeWidth t.toNat) (fun _ => true) (fun _ => false) (mxElems s t mode vals a)
      (typeWidth_lane _) (fun _ _ _ => rfl) (by simp [mxElems, ht]) hx
    rw [if_pos (congrArg BitVec.toNat hd)]
    exact ⟨r, q, hw, fun _ => hv, fun h => absurd hd h⟩
  · obtain ⟨r, q, hw, hv⟩ := writeElems_free u x.toNat 8 (fun _ => true) (fun _ => false) (mxScales t vals a)
      (by simp [laneWidth]) (fun _ _ _ => rfl) (by simp [mxScales, eCount]) hx
    rw [if_neg fun h => hd (BitVec.eq_of_toNat_eq h)]
    exact ⟨r, q, hw, fun h => absurd h hd, fun _ => hv⟩

/-- Both registers, whichever comes first. -/
theorem mxRows_free (ht : 32 * groupOf t = eCount (typeWidth t.toNat)) (hdb : d ≠ b)
    (hd : u.boundTo d.toNat = none) (hb : u.boundTo b.toNat = none) :
    ∃ e q, (mxRow s t mode vals a d.toNat u (min d.toNat b.toNat) >>= fun u => mxRow s t mode vals a d.toNat u (max d.toNat b.toNat)) =
        .ok (withE u e q) ∧
      (∀ j < eCount (typeWidth t.toNat), elemAt (vget e d.toNat) (typeWidth t.toNat) j =
        ((mxElems s t mode vals a).map (·.v)).getD j 0 % 2 ^ typeWidth t.toNat) ∧
      (∀ j < 128, elemAt (vget e b.toNat) 8 j = ((mxScales t vals a).map (·.v)).getD j 0 % 2 ^ 8) ∧
      ∀ r : BitVec 5, r ≠ d → r ≠ b → vget e r.toNat = vget u.act.e r.toNat := by
  have hne : d.toNat ≠ b.toNat := fun h => hdb (BitVec.eq_of_toNat_eq h)
  have other {x y : BitVec 5} (h : x ≠ y) : y.toNat ≠ x.toNat := fun e => h (BitVec.eq_of_toNat_eq e).symm
  rcases Nat.lt_or_gt_of_ne hne with hlt | hlt
  · obtain ⟨rd, qd, hwd, hvd, -⟩ := mxRow_free s u t mode vals a (d := d) ht hd
    obtain ⟨rb, qb, hwb, -, hvb⟩ := mxRow_free s (withE u (vset u.act.e d.toNat rd) (vset u.act.ep d.toNat qd)) t mode vals a (d := d) ht
      (x := b) hb
    refine ⟨vset (vset u.act.e d.toNat rd) b.toNat rb, vset (vset u.act.ep d.toNat qd) b.toNat qb, ?_, ?_, ?_, ?_⟩
    · rw [min_eq_left hlt.le, max_eq_right hlt.le, hwd, bind_ok, hwb]
      rfl
    · rw [vget_vset_ne _ _ _ _ hne.symm, vget_vset_self _ _ _ d.isLt]
      exact hvd rfl
    · rw [vget_vset_self _ _ _ b.isLt]
      exact hvb hdb.symm
    · intro r h1 h2
      rw [vget_vset_ne _ _ _ _ (other h2), vget_vset_ne _ _ _ _ (other h1)]
  · obtain ⟨rb, qb, hwb, -, hvb⟩ := mxRow_free s u t mode vals a (d := d) ht hb
    obtain ⟨rd, qd, hwd, hvd, -⟩ := mxRow_free s (withE u (vset u.act.e b.toNat rb) (vset u.act.ep b.toNat qb)) t mode vals a (d := d) ht
      (x := d) hd
    refine ⟨vset (vset u.act.e b.toNat rb) d.toNat rd, vset (vset u.act.ep b.toNat qb) d.toNat qd, ?_, ?_, ?_, ?_⟩
    · rw [min_eq_right hlt.le, max_eq_left hlt.le, hwb, bind_ok, hwd]
      rfl
    · rw [vget_vset_self _ _ _ d.isLt]
      exact hvd rfl
    · rw [vget_vset_ne _ _ _ _ hne, vget_vset_self _ _ _ b.isLt]
      exact hvb hdb.symm
    · intro r h1 h2
      rw [vget_vset_ne _ _ _ _ (other h1), vget_vset_ne _ _ _ _ (other h2)]

end

/-- Lane `m` of the registers from `a` on. -/
def laneOf (s : State) (a : BitVec 5) (m : Nat) : Nat := elemAt (vget s.act.e (a.toNat + m / 32)) 32 (m % 32)

theorem mxBlock_heldBy {s : State} {a : BitVec 5} {n k : Nat} (hk : k < n) :
    mxBlock (heldBy s (group a n)) a.toNat k = (List.range 32).map fun j => fp32.decode (laneOf s a (32 * k + j)) := by
  have hmem : a.toNat + k ∈ group a n := List.mem_map.2 ⟨k, List.mem_range.2 hk, rfl⟩
  refine List.map_congr_left fun j hj => ?_
  have hj : j < 32 := List.mem_range.1 hj
  rw [show valueOf (heldBy s (group a n)) (a.toNat + k) = _ from valueOf_free s _ _ hmem, laneOf,
    show (32 * k + j) / 32 = k by omega, show (32 * k + j) % 32 = j by omega]

theorem mxExps_heldBy {s : State} {t : BitVec 4} {a : BitVec 5} {k : Nat} (hk : k < groupOf t) :
    (mxExps t (heldBy s (group a (groupOf t))) a.toNat).getD k none =
      mxExp t ((List.range 32).map fun j => fp32.decode (laneOf s a (32 * k + j))) := by
  rw [mxExps, getD_map_range _ _ _ _ hk, mxBlock_heldBy hk]

theorem mxElems_heldBy {s : State} {t : BitVec 4} {mode : Nat} {a : BitVec 5} {m : Nat} (hm : m < 32 * groupOf t) :
    ((mxElems s t mode (heldBy s (group a (groupOf t))) a.toNat).map (·.v)).getD m 0 % 2 ^ typeWidth t.toNat =
      match mxExp t ((List.range 32).map fun j => fp32.decode (laneOf s a (32 * (m / 32) + j))) with
      | some x => (mxElem t mode s.act.e5inf (s.nextDraw m) x (fp32.decode (laneOf s a m))).1 % 2 ^ typeWidth t.toNat
      | none => 0 := by
  have hk : m / 32 < groupOf t := by omega
  have hlane : (mxBlock (heldBy s (group a (groupOf t))) a.toNat (m / 32)).getD (m % 32) default = fp32.decode (laneOf s a m) := by
    rw [mxBlock_heldBy hk, getD_map_range _ _ _ _ (Nat.mod_lt _ (by decide)), Nat.div_add_mod]
  rw [mxElems, List.map_map, getD_map_range _ _ _ _ hm]
  simp only [Function.comp, mxExps_heldBy hk, hlane]
  cases mxExp t ((List.range 32).map fun j => fp32.decode (laneOf s a (32 * (m / 32) + j))) <;> simp

theorem mxScales_heldBy {s : State} {t : BitVec 4} {a : BitVec 5} {k : Nat} (hk : k < 128) :
    ((mxScales t (heldBy s (group a (groupOf t))) a.toNat).map (·.v)).getD k 0 % 2 ^ 8 =
      if k < groupOf t then (match mxExp t ((List.range 32).map fun j => fp32.decode (laneOf s a (32 * k + j))) with
        | some x => (x + 127).toNat % 256
        | none => 0xFF) else 0 := by
  rw [mxScales, List.map_map, getD_map_range _ _ _ _ hk]
  by_cases h : k < groupOf t
  · simp only [Function.comp, mxExps_heldBy h, if_pos h]
    cases mxExp t ((List.range 32).map fun j => fp32.decode (laneOf s a (32 * k + j))) <;> simp
  · simp [h]

theorem groupOf_lanes {t : BitVec 4} : 32 * groupOf t = eCount (typeWidth t.toNat) := by
  unfold groupOf eCount
  rcases typeWidth_cases t.toNat with h | h | h | h <;> rw [h]

theorem sources_held (s : State) (srcs dsts : List Nat) (h : ∀ r ∈ srcs ++ dsts, s.boundTo r = none) :
    s.sources srcs dsts = .ok (heldBy s srcs, s) := sources_free s srcs dsts h

theorem drawn_eq (s : State) (mode n : Nat) :
    s.drawn mode n = s.modAct fun a => { a with srctr := a.srctr + BitVec.ofNat 64 (if mode = 4 then n else 0) } := by
  unfold State.drawn
  by_cases h4 : mode = 4
  · simp only [h4, if_true]
  · simp only [h4, if_false, BitVec.add_zero]
    rfl

/-- A vector instruction's end: what it changed of the e registers, its draws and its flags. -/
theorem eChanges_drawn (s : State) (e : Vector ERow 32) (q : Vector (BitVec 32) 32) (mode n : Nat) (g : Flags) :
    EChanges s ((((withE s e q).drawn mode n).setEFlags g).advance 4) 4 (if mode = 4 then n else 0) ∧
    (((withE s e q).drawn mode n).setEFlags g).act.e = e := by
  rw [drawn_eq]
  exact ⟨rfl, rfl⟩

/-- VMXQ on free registers: the elements in one register and the scales in the other. -/
theorem vmxq_form {s : State} {t : BitVec 4} {mode : Nat} {b a d : BitVec 5} (hl : s.act.live = true) (hs : s.act.eseq.idle = true)
    (hm : s.act.eMode 7 = .ok mode) (hdb : d ≠ b)
    (hg : FreeRegs s a.toNat (groupOf t)) (hd : s.boundTo d.toNat = none) (hb : s.boundTo b.toNat = none) :
    Completes (.vmxq t b a d) s fun u =>
      EChanges s u 4 (if mode = 4 then eCount (typeWidth t.toNat) else 0) ∧
      (∀ m < eCount (typeWidth t.toNat), elem u d (typeWidth t.toNat) m =
        ((mxElems s t mode (heldBy s (group a (groupOf t))) a.toNat).map (·.v)).getD m 0 % 2 ^ typeWidth t.toNat) ∧
      (∀ k < 128, elem u b 8 k = ((mxScales t (heldBy s (group a (groupOf t))) a.toNat).map (·.v)).getD k 0 % 2 ^ 8) ∧
      ∀ r : BitVec 5, r ≠ d → r ≠ b → vget u.act.e r.toNat = vget s.act.e r.toNat := by
  obtain ⟨e, q, hrows, hvals⟩ := mxRows_free s s t mode (heldBy s (group a (groupOf t))) a.toNat groupOf_lanes hdb hd hb
  obtain ⟨u, hop, hE, he⟩ : ∃ u, mxQuantise t mode b a d s = .ok u ∧
      EChanges s (u.advance 4) 4 (if mode = 4 then eCount (typeWidth t.toNat) else 0) ∧ u.act.e = e := by
    refine ⟨_, ?_, eChanges_drawn s e q mode _ (elemFlags (fun _ => true) (mxElems s t mode (heldBy s (group a (groupOf t))) a.toNat))⟩
    unfold mxQuantise
    rw [sources_held s _ _ (group_append_free hg (by simp [hd, hb])), bind_ok]
    dsimp only
    rw [← bind_assoc, hrows, bind_ok]
  subst he
  exact ⟨_, estream_run (vmxq_eq t b a d s) hl hs (by rw [hm, bind_ok]; exact hop), hE, hvals⟩

/-- Settles O43: each conversion by its general form, and VMXQ. -/
theorem vectorConversions : Obligations.VectorConversions := by
  refine ⟨?_, ?_⟩
  · intro s p t r b a d mode _ _ ⟨hl, hs, hf⟩ w n lane active draws narrow widen
    have hw := typeWidth_lane t.toNat
    have hwd := typeWidth_le t.toNat
    have hd : ∀ x ∈ [d.toNat], s.boundTo x = none := by simp [hf d]
    have ha : ∀ x ∈ [a.toNat], s.boundTo x = none := by simp [hf a]
    have hb : ∀ x ∈ [b.toNat], s.boundTo x = none := by simp [hf b]
    refine ⟨fun hm => ⟨fun _ hg => ?_, fun hok hg => ?_⟩, fun hm _ hg => ?_, fun _ => ⟨fun _ hg => ?_, fun hok hg => ?_⟩⟩
    · exact narrowing_form (i := .vcvt p t r a d) s t p mode (eCount (typeWidth t.toNat)) a d []
        (fun _ _ x rnd => asElem ((cvtType t).narrow mode s.act.e5inf rnd (fp32.decode x))) _ rfl (by rw [hm, bind_ok]) hl hs hw hwd
        (by rw [List.append_nil]; exact group_append_free hg hd)
    · have h := widening_form (i := .vcvtWide p t r a d) s t p mode (eCount (typeWidth t.toNat)) a d []
        (fun _ _ x rnd =>
          let v := round32 mode rnd ((cvtType t).value x)
          match cvtType t with
          | .float _ => { v := v.1 }
          | .int _ _ => asElem v) _ rfl (by rw [hm, bind_ok] <;> rfl) hl hs hok (append_group_free hg ha)
      revert h
      generalize cvtType t = c
      cases c <;> exact id
    · have h := narrowing_form (i := .vcvts p t b a d) s t p mode (eCount (typeWidth t.toNat)) a d [b.toNat]
        (fun vals m x rnd =>
          let v := scaledLane (fp32.decode x) (fp32.decode (elemAt (valueOf vals b.toNat) 32 (m % 32)))
          let r := (cvtType t).narrow mode s.act.e5inf rnd v.1
          { v := r.1, f := v.2 ||| r.2, poison := elemPoison (poisonOf vals b.toNat) 32 (m % 32) }) _ rfl (by rw [hm, bind_ok]) hl hs hw hwd
        (by rw [List.append_assoc]; exact group_append_free hg (by simp [hf b, hf d]))
      simp only [valueOf_heldBy s (show b.toNat ∈ group a (groupOf t) ++ [b.toNat] by simp)] at h
      exact h
    · exact narrowing_form (i := .vpack p t a d) s t p 0 0 a d []
        (fun _ _ x _ => { v := wrapInt (intWidth t) (clampInt (intSigned t) (intWidth t) (intOf (intSigned t) 32 x)) }) _ rfl rfl hl hs hw hwd
        (by rw [List.append_nil]; exact group_append_free hg hd)
    · exact widening_form (i := .vunpk p t a d) s t p 0 0 a d []
        (fun _ _ x _ => { v := wrapInt 32 (intOf (intSigned t) (intWidth t) x) }) _ rfl rfl hl hs hok (append_group_free hg ha)
  · intro s t b a d mode _ ⟨hl, hs, hf⟩ hm w n draws
    refine ⟨fun hok hg => ?_, ?_⟩
    · have h := widening_form (i := .vmxd t b a d) s t 0 mode (eCount (typeWidth t.toNat)) a d [b.toNat]
        (fun vals m x rnd =>
          let c := elemAt (valueOf vals b.toNat) 8 (m / 32)
          let v := ((cvtType t).value x).scale ((c : Int) - 127 - (if t = 7 then 6 else 0))
          let r := if c = 0xFF then (fp32.nanCode, 0) else round32 mode rnd v
          { v := r.1, f := r.2, poison := elemPoison (poisonOf vals b.toNat) 8 (m / 32) }) _ rfl (by rw [hm, bind_ok]) hl hs hok
        (append_group_free hg (by simp [hf a, hf b]))
      simp only [valueOf_heldBy s (show b.toNat ∈ [a.toNat, b.toNat] by simp)] at h
      exact h
    · intro _ hg hdb lane exp
      obtain ⟨u, hu, hE, helems, hscales, hother⟩ := vmxq_form hl hs hm hdb hg (hf d (by simp)) (hf b (by simp))
      refine ⟨u, hu, hE, fun m hlt => ?_, fun k hlt => ?_, hother⟩
      · exact (helems m (groupOf_lanes ▸ hlt)).trans (mxElems_heldBy hlt)
      · exact (hscales k hlt).trans (mxScales_heldBy hlt)

end Sys2Proof.Machine
end

section
/-! O44: the shared SFU. A served request is written by the stream its destination had when it was made. -/

namespace Sys2Proof.Machine
open Sys2Proof.Safety

theorem vset_vget {α : Type} [Inhabited α] {n : Nat} (v : Vector α n) (i : Nat) : vset v i (vget v i) = v := by
  unfold vset vget
  split
  next => simp
  next => rfl

theorem vset_vset {α : Type} {n : Nat} (v : Vector α n) (i : Nat) (a b : α) : vset (vset v i a) i b = vset v i b := by
  unfold vset
  split
  next h => simp
  next => rfl

theorem setStream_self (s : State) (n : Nat) : s.setStream n (s.stream n) = s :=
  congrArg (fun v => s.modAct fun a => { a with streams := v }) (vset_vget s.act.streams n)

theorem setStream_setStream (s : State) (n : Nat) (a b : Stream) : (s.setStream n a).setStream n b = s.setStream n b :=
  congrArg (fun v => s.modAct fun a => { a with streams := v }) (vset_vset s.act.streams n a b)

theorem setStream_withE (s : State) (n : Nat) (a : Stream) (e : Vector ERow 32) (q : Vector (BitVec 32) 32) :
    (withE s e q).setStream n a = withE (s.setStream n a) e q := rfl

/-- A served result written to a register that was ordinary when the request was made, and is. -/
theorem writeAsked_free (s : State) (d : BitVec 5) (w : Nat) (act mp : Nat → Bool) (l : List EElem) (hw : laneWidth w)
    (hact : ∀ i j, i * w / 8 = j * w / 8 → act i = act j) (hl : l.length = eCount w) (hb : s.boundTo d.toNat = none)
    (hd : s.act.edst.bound = false) :
    ∃ r q, s.writeAsked d.toNat w act mp l = .ok (withE s (vset s.act.e d.toNat r) (vset s.act.ep d.toNat q)) ∧
      ∀ j < eCount w, elemAt r w j = if act j then (l.map (·.v)).getD j 0 % 2 ^ w else elemAt (vget s.act.e d.toNat) w j := by
  unfold State.writeAsked
  by_cases h28 : d.toNat < 28
  · rw [if_pos h28]
    exact writeElems_free s d.toNat w act mp l hw hact hl hb
  have hbound : (s.setStream (d.toNat - 28) s.act.edst).boundTo d.toNat = none := by
    have hs : (s.setStream (d.toNat - 28) s.act.edst).stream (d.toNat - 28) = s.act.edst :=
      vget_vset_self (α := Stream) _ _ _ (by omega)
    rw [State.boundTo, if_pos (by omega), hs]
    exact if_neg (by simp [hd])
  obtain ⟨r, q, h1, h2⟩ := writeElems_free _ d.toNat w act mp l hw hact hl hbound
  refine ⟨r, q, ?_, h2⟩
  rw [if_neg h28]
  dsimp only
  rw [h1, bind_ok]
  split
  next heq =>
    rw [← eq_of_beq heq, setStream_self]
    rfl
  next =>
    refine congrArg Except.ok ((setStream_withE (s.setStream (d.toNat - 28) s.act.edst) ..).trans ?_)
    rw [setStream_setStream, setStream_self]
    rfl

/-- The flags of the elements of a result. -/
theorem eFlagged_elemFlags {s t : State} {n : Nat} {act : Nat → Bool} {l : List EElem} {f : Nat → Flags} (hn : l.length = n)
    (hf : ∀ j < n, (l.getD j default).f = f j) (h1 : t.act.fflags = s.act.fflags ||| elemFlags act l)
    (h2 : t.act.eflags = s.act.eflags ||| elemFlags act l) : EFlagged s t n act f := by
  intro k
  have : (elemFlags act l).getLsbD k = (List.range n).any fun j => act j && (f j).getLsbD k := by
    rw [elemFlags_getLsbD, hn, Bool.eq_iff_iff, List.any_eq_true, List.any_eq_true]
    constructor <;> rintro ⟨j, hj, h⟩ <;> refine ⟨j, hj, ?_⟩
    · rwa [← hf j (List.mem_range.1 hj)]
    · rwa [hf j (List.mem_range.1 hj)]
  rw [h1, h2, ← this]
  exact ⟨BitVec.getLsbD_or .., BitVec.getLsbD_or ..⟩

/-- A served request is taken by the instruction that made it. -/
theorem takeSfu_free {s : State} {p : BitVec 1} {t : BitVec 4} {d : BitVec 5} (f : FV → FV × Flags) {v q : ERow} {mode : Nat}
    (hm : s.act.eMode 7 = .ok mode) (hb : s.boundTo d.toNat = none) (hd : s.act.edst.bound = false) :
    ∃ u, s.takeSfu p t d f v q = .ok u ∧
      LaneOutcome (s.modAct fun y => { y with ememo := [], edst := {} }) 4 d (vecFmt t).width (s.act.active p (vecFmt t).width)
        (if mode = 4 then eCount (vecFmt t).width else 0) (fun j =>
          let g := f (vecIn (vecFmt t) (elemAt v (vecFmt t).width j))
          let r := (vecFmt t).deliver mode ((vecFmt t).deliverAs s.act.e5inf (vecFmt t != fp32)) (s.nextDraw j) g.1
          (r.1, g.2 ||| r.2)) (u.advance 4) := by
  unfold State.takeSfu
  rw [hm, bind_ok]
  dsimp only
  generalize hl : List.map _ (List.range (eCount (vecFmt t).width)) = l
  have hlen : l.length = eCount (vecFmt t).width := by rw [← hl]; simp
  obtain ⟨r, z, hw, hv⟩ := writeAsked_free s d (vecFmt t).width (s.act.active p (vecFmt t).width) (s.act.maskPoison p (vecFmt t).width) l
    (vecFmt_width t) (active_spread s.act p _) hlen hb hd
  have he : ∀ j < eCount (vecFmt t).width, (l.map (·.v)).getD j 0 = (l.getD j default).v := by
    intro j hj
    simp [hlen, hj]
  rw [hw, bind_ok, drawn_eq]
  refine ⟨_, rfl, rfl, ?_, ?_, ?_⟩
  · intro j hj
    refine (congrArg (elemAt · (vecFmt t).width j) (vget_vset_self (α := ERow) _ _ _ d.isLt)).trans ((hv j hj).trans ?_)
    rw [he j hj, ← hl, getD_map_range _ _ _ _ hj]
    rfl
  · intro x hx
    have : d.toNat ≠ x.toNat := fun h => hx (BitVec.eq_of_toNat_eq h).symm
    exact ⟨vget_vset_ne _ _ _ _ this, vget_vset_ne _ _ _ _ this⟩
  · refine eFlagged_elemFlags hlen (fun j hj => ?_) rfl rfl
    rw [← hl, getD_map_range _ _ _ _ hj]

theorem deliverE_room {s : State} {i : Instr} (len : Nat) (hi : loopBody i = none)
    (hroom : s.act.eseq.pending.length + s.act.eseq.body.length < 16) :
    ∃ q, s.deliverE i len = .ok ((s.modAct fun a => { a with eseq := q }).advance len) := by
  unfold State.deliverE
  dsimp only
  rw [need_of (by simp [hi]), bind_ok, await_of (decide_eq_true hroom), bind_ok]
  exact ⟨_, rfl⟩

/-- An SFU form of an idle E-stream: the request is made, or its result is taken. -/
theorem sfuForm_of {i : Instr} {s : State} {p : BitVec 1} {t : BitVec 4} {a d : BitVec 5} {f : FV → FV × Flags} {v q : ERow} {mode : Nat}
    (hi : exec i s = run s (sfuForm i p t a d f s)) (hloop : loopBody i = none) (hr : EReady s [a, d]) (hw : s.act.ewait = .none)
    (hm : s.act.eMode 7 = .ok mode) :
    (s.act.ememo = [v, q] → s.act.edst.bound = false → Completes i s
      (LaneOutcome (s.modAct fun y => { y with ememo := [], edst := {} }) 4 d (vecFmt t).width (s.act.active p (vecFmt t).width)
        (if mode = 4 then eCount (vecFmt t).width else 0) fun j =>
          let g := f (vecIn (vecFmt t) (elemAt v (vecFmt t).width j))
          let r := (vecFmt t).deliver mode ((vecFmt t).deliverAs s.act.e5inf (vecFmt t != fp32)) (s.nextDraw j) g.1
          (r.1, g.2 ||| r.2))) ∧
    (s.act.ememo = [] → s.act.eseq.pending.length + s.act.eseq.body.length < 16 → Completes i s fun u =>
      ∃ id, u.act.ewait = .sfu id ∧ u.act.edst = s.streamOfReg d.toNat ∧ u.act.e = s.act.e ∧ u.act.pc = s.act.pc + 4 ∧
        look [] u.sfu (s.act.core / 8) = look [] s.sfu (s.act.core / 8) ++ [(s.act.aid, id, i)]) := by
  obtain ⟨hl, hs, hf⟩ := hr
  refine ⟨fun hmemo hd => ?_, fun hmemo hroom => ?_⟩
  · obtain ⟨u, hu, hout⟩ := takeSfu_free (p := p) (t := t) f (v := v) (q := q) hm (hf d (by simp)) hd
    have hop : sfuForm i p t a d f s = .ok (u.advance 4) := by
      unfold sfuForm State.sfuStep
      rw [if_pos hs, hw, hmemo]
      dsimp only
      rw [hu]
      rfl
    exact ⟨_, (hi.trans (congrArg (run s) hop)).trans (run_ok hl), hout⟩
  · have hsrc := sources_held s [a.toNat] [d.toNat] (by simp [hf a, hf d])
    obtain ⟨e, he⟩ := deliverE_room (s := s.askSfu i (valueOf (heldBy s [a.toNat]) a.toNat, poisonOf (heldBy s [a.toNat]) a.toNat) d.toNat)
      4 hloop hroom
    have hop : sfuForm i p t a d f s = .ok (((s.askSfu i (valueOf (heldBy s [a.toNat]) a.toNat, poisonOf (heldBy s [a.toNat]) a.toNat)
        d.toNat).modAct fun a => { a with eseq := e }).advance 4) := by
      unfold sfuForm State.sfuStep
      rw [if_pos hs, hw, hmemo]
      dsimp only
      rw [hsrc]
      exact he
    exact ⟨_, (hi.trans (congrArg (run s) hop)).trans (run_ok hl), s.fresh.1, rfl, rfl, rfl, rfl, look_put_self ..⟩

/-- Settles O44: each form is `sfuForm` with its function. -/
theorem sharedFunctionUnit : Obligations.SharedFunctionUnit := by
  intro s p t a d v q mode _ hr hw hm f w forms
  simp only [forms, List.forall_mem_cons]
  exact ⟨sfuForm_of rfl rfl hr hw hm, sfuForm_of rfl rfl hr hw hm, sfuForm_of rfl rfl hr hw hm, sfuForm_of rfl rfl hr hw hm,
    sfuForm_of rfl rfl hr hw hm, List.forall_mem_nil _⟩

end Sys2Proof.Machine
end


section
/-! O47: the sequencer takes what it is delivered; streams configured, bound, unbound and waited for. -/

namespace Sys2Proof.Machine
open Sys2Proof.Safety

section
variable {s : State} {i : Instr} (len : Nat) (hroom : s.act.eseq.pending.length + s.act.eseq.body.length < 16)
include hroom

/-- What is delivered waits, while no loop of a body still to come has begun. -/
theorem deliverE_waits (hi : s.act.eseq.need = 0 ∨ loopBody i = none) (hb : s.act.eseq.begun = false) :
    s.deliverE i len = .ok ((s.modAct fun x => { x with eseq := { x.eseq with
      pending := x.eseq.pending ++ [i], need := (loopBody i).getD (x.eseq.need - 1) } }).advance len) := by
  unfold State.deliverE
  dsimp only
  rw [need_of (by rcases hi with h | h <;> simp [h]), bind_ok, await_of (decide_eq_true hroom), bind_ok, if_neg (by simp [hb])]
  rfl

/-- What is delivered joins the body of a loop that runs. -/
theorem deliverE_joins (hi : loopBody i = none) (hb : s.act.eseq.begun = true) (hleft : s.act.eseq.left ≠ 0) :
    s.deliverE i len = .ok ((s.modAct fun x => { x with eseq := { x.eseq with
      body := x.eseq.body ++ [i], need := x.eseq.need - 1, begun := decide (x.eseq.need ≠ 1) } }).advance len) := by
  unfold State.deliverE
  dsimp only
  rw [need_of (by simp [hi]), bind_ok, await_of (decide_eq_true hroom), bind_ok, if_pos hb, if_neg hleft]
  rfl

end

/-- An instruction for a busy E-stream is delivered to it. -/
theorem estream_busy {i : Instr} {len : Nat} {f : State → Chk State} {s : State} (h : s.act.eseq.idle = false) :
    estream i len f s = s.deliverE i len := by simp [estream, h]

/-- Settles O47: each way of delivery, and the streams' forms. -/
theorem sequencerAndStreams : Obligations.SequencerAndStreams := by
  refine ⟨?_, ?_⟩
  · intro s n m k q2 q1 e r t b a d hl room delivered
    refine ⟨fun hr hn hb => ⟨?_, ?_⟩, fun hr hs hb => ?_, fun hr hb hn hleft => ?_, fun hs hroom => ?_, fun hs => ?_⟩
    · exact (congrArg (run s) (deliverE_waits (i := .eloop n m) 4 hr (.inl hn) hb)).trans (run_ok hl)
    · exact (congrArg (run s) (deliverE_waits (i := .eloopq q2 m) 4 hr (.inl hn) hb)).trans (run_ok hl)
    · exact (congrArg (run s) ((estream_busy hs).trans (deliverE_waits (i := .vadd 0 t b a d) 4 hr (.inr rfl) hb))).trans (run_ok hl)
    · have hs : s.act.eseq.idle = false := by simp [ESeq.idle, hn]
      exact (congrArg (run s) ((estream_busy hs).trans (deliverE_joins (i := .vadd 0 t b a d) 4 hr rfl hb hleft))).trans (run_ok hl)
    · refine estream_run (show exec (.eflags k q1) s = run s (estream (.eflags k q1) 4 _ s) from rfl) hl hs ?_
      dsimp only
      rw [await_of (decide_eq_true hroom), bind_ok]
      rfl
    · exact estream_run (show exec (.erm e r) s = run s (estream (.erm e r) 4 _ s) from rfl) hl hs rfl
  · intro s n hl
    refine ⟨?_, fun hc => ?_, fun hb => ?_, fun hb => ?_, fun hp => ?_⟩
    · intro t h0 h1 h2 h3 hlocal h2lt h3lt hlen hn1 hn2 ho0 hs1 hs2 hlen32 hlow hhigh ⟨g, hg, hallow⟩
      show execScfg n s = _
      unfold execScfg
      have hformed : (decide ((s.act.getO 0).toNat < 2 ^ 55) && decide ((s.act.getO 2).toNat < 2 ^ 56) && decide ((s.act.getO 3).toNat < 4) &&
          t.len != 0 && t.n1 != 0 && t.n2 != 0) = true := by
        have h0lt : (s.act.getO 0).toNat < 2 ^ 55 := by omega
        simp only [h0lt, h2lt, h3lt, hlen, hn1, hn2, decide_true, bne_iff_ne, ne_eq, not_false_eq_true, Bool.and_self, Bool.and_eq_true, and_self]
      have haligned : ((s.act.getO 0).toNat % 32 == 0 && t.stride1 % 32 == 0 && t.stride2 % 32 == 0 && t.len % 32 == 0) = true := by
        simp [ho0, hs1, hs2, hlen32]
      have hbounds : ((s.act.getO 0).toNat / 2 ^ 48 == 0x70 && decide (0 ≤ t.bounds.1) &&
          decide (t.bounds.2 ≤ s.scratchBytes s.act.core)) = true := by
        rw [beq_of_eq hlocal, decide_eq_true hlow, decide_eq_true hhigh]
        rfl
      have hright : ((s.regionsOf s.act.name s.act.run s.act.core).toList.any fun g =>
          g.allows t.access t.bounds.1.toNat (t.bounds.2 - t.bounds.1).toNat) = true := List.any_eq_true.2 ⟨g, hg, hallow⟩
      rw [ctlO_clean h0, bind_ok, ctlO_clean h1, bind_ok, ctlO_clean h2, bind_ok, ctlO_clean h3, bind_ok]
      dsimp only
      rw [need_of hformed, bind_ok, need_of haligned, bind_ok, need_of hbounds, bind_ok, need_of hright, bind_ok]
      exact run_ok hl
    · show execSbind n s = _
      unfold execSbind
      dsimp only
      rw [need_of (by simp [hc]), bind_ok]
      exact run_ok hl
    · show execSunb n s = _
      unfold execSunb
      dsimp only
      rw [if_pos hb]
      exact run_ok hl
    · show execSunb n s = _
      unfold execSunb
      dsimp only
      rw [if_neg (by simp [hb])]
      exact run_ok hl
    · show execSwait n s = _
      unfold execSwait
      have hnone : (s.mem.pending.any fun w => w.aid == s.act.aid && w.stream == some n.toNat) = false := by
        rw [List.any_eq_false]
        exact fun w hw h => hp w hw (by simpa using h)
      dsimp only
      rw [hnone, await_of (by simp), bind_ok]
      exact run_ok hl

end Sys2Proof.Machine
end


section
/-! What a repair, a merge of dirty logs and a write performed at once leave alone. -/

namespace Sys2Proof.Machine
open Sys2Proof.Safety

/-- A state after bytes were read and written: what is stored, the logs, the links' counters and the partitions' counts may
differ, and memory keeps its form. -/
structure Stored (s t : State) : Prop where
  eq : t = { s with mem := t.mem, logs := t.logs, links := { s.links with links := t.links.links }
                    parts := { s.parts with parts := t.parts.parts } }
  wf : Memory.wf s.mem = true → Memory.wf t.mem = true

theorem Stored.refl (s : State) : Stored s s := ⟨rfl, id⟩

theorem Stored.trans {s t u : State} (h : Stored s t) (g : Stored t u) : Stored s u where
  eq := by rw [g.eq, h.eq]
  wf := g.wf ∘ h.wf

theorem Settled.stored {s t : State} (h : Settled s t) : Stored s t := ⟨h.eq, h.wf⟩

section
variable {s t : State} (h : Stored s t)
include h

theorem Stored.act : t.act = s.act := by rw [h.eq]
theorem Stored.cores : t.cores = s.cores := by rw [h.eq]

end

theorem stored_foldl {α : Type} (f : State → α → State) (hf : ∀ s a, Stored s (f s a)) (l : List α) (s : State) : Stored s (l.foldl f s) := by
  induction l generalizing s with
  | nil => exact Stored.refl s
  | cons a l ih => exact (hf s a).trans (ih _)

theorem writeHbm_stored (s : State) (gen a : Nat) (bs : List Byte) (poison : Bool) : Stored s (s.writeHbm gen a bs poison) := by
  refine ⟨?_, wf_writeHbm s gen a bs poison⟩
  unfold State.writeHbm
  split
  · rfl
  · dsimp only
    rw [(settle_settled s a bs.length).eq]

theorem writeNow_stored (s : State) (gen a : Nat) (bs : List Byte) (poison : Bool) : Stored s (s.writeNow gen a bs poison) := by
  refine ⟨?_, wf_writeNow s gen a bs poison⟩
  unfold State.writeNow
  dsimp only
  split
  · rw [(writeHbm_stored s gen a bs poison).eq]
  · rfl

theorem repair_stored (s : State) (a n : Nat) : Stored s (s.repair a n) :=
  stored_foldl State.settleLine (fun s l => (settleLine_settled s l).stored) _ s

theorem repairWalk_stored (die asid va n : Nat) : ∀ (level page idx : Nat) (s : State),
    Stored s (State.repairWalk die asid va n level page idx s) := by
  induction n with
  | zero => exact fun _ _ _ s => Stored.refl s
  | succ n ih =>
    intro level page idx s
    have h := repair_stored s (hbmKey page (8 * idx)) 8
    rw [State.repairWalk]
    generalize s.repair (hbmKey page (8 * idx)) 8 = u at h ⊢
    generalize u.walkEntry die asid va level page idx = w
    rcases w with _ | ⟨_ | e, v⟩
    · exact h
    · exact h
    · dsimp only
      split
      · exact h
      · exact h.trans (ih ..)

theorem setDirty_stored (s : State) (die : Nat) (e : Nat × Nat) : Stored s (s.setDirty die e) := by
  unfold State.setDirty
  dsimp only
  have h := repairWalk_stored die e.1 (e.2 * 65536) 4 0 (e.1 / 8192) (e.1 % 8192) s
  generalize State.repairWalk die e.1 (e.2 * 65536) 4 0 (e.1 / 8192) (e.1 % 8192) s = u at h ⊢
  split
  · exact h
  next page idx _ =>
    have h' := h.trans (repair_stored u (hbmKey page (idx * 8)) 8)
    split
    next bs poison v gen hr _ => exact (h'.trans (readHbm_settled _ _ _ _ _ _ hr).stored).trans (writeNow_stored ..)
    · exact h'

/-- A merge empties the log of its core, and otherwise only writes memory. -/
theorem mergeDirty_stored (s : State) (core : Nat) : Stored (s.modCore core fun c => { c with dirty := [] }) (s.mergeDirty core) := by
  unfold State.mergeDirty
  exact stored_foldl (fun s e => s.setDirty (dieOf core) e) (fun s e => setDirty_stored s (dieOf core) e) _ _

theorem mergeDirty_act (s : State) (core : Nat) : (s.mergeDirty core).act = s.act := (mergeDirty_stored s core).act

theorem mergeDirty_core (s : State) (core c : Nat) :
    (s.mergeDirty core).core c = if c = core then { s.core c with dirty := [] } else s.core c := by
  have h : (s.mergeDirty core).core c = (s.modCore core fun c => { c with dirty := [] }).core c := by
    rw [State.core, (mergeDirty_stored s core).cores, State.core]
  rw [h, core_modCore]
  split
  next hc => rw [hc]
  · rfl

/-- Merges of several cores' logs. -/
theorem mergeAll (l : List Nat) (s : State) :
    (l.foldl (fun s c => s.mergeDirty c) s).act = s.act ∧
    ∀ c, (l.foldl (fun s c => s.mergeDirty c) s).core c = if c ∈ l then { s.core c with dirty := [] } else s.core c := by
  induction l generalizing s with
  | nil => exact ⟨rfl, fun _ => rfl⟩
  | cons k l ih =>
    obtain ⟨ha, hc⟩ := ih (s.mergeDirty k)
    refine ⟨ha.trans (mergeDirty_act s k), fun c => (hc c).trans ?_⟩
    rw [mergeDirty_core]
    by_cases hck : c = k <;> by_cases hl : c ∈ l <;> simp [hck, hl]

end Sys2Proof.Machine
end

section
/-! O48: service-level forms and requests. -/

namespace Sys2Proof.Machine
open Sys2Proof.Safety

/-- Nothing that counts as outstanding: no write, no entry, nothing deferred and no request to another package. -/
theorem counted_none {s : State} (h : s.counted = []) :
    s.mem.pending = [] ∧ s.entries = [] ∧ s.wire.deferred = [] ∧ s.links.remote = [] := by
  simpa [State.counted, and_assoc] using h

theorem entryById_none {s : State} (h : ∀ e, e ∉ s.entries) (id : Nat) : s.entryById id = none := by
  unfold State.entryById
  rw [List.findSome?_eq_none_iff]
  intro c hc
  rw [List.findSome?_eq_none_iff]
  intro q hq
  rw [List.mem_range] at hq
  have : (vget c.2.queues q).find? (fun e => e.id == id) = none := by
    rw [List.find?_eq_none]
    intro e he _
    refine h e (List.mem_flatMap.2 ⟨c, hc, List.mem_flatten.2 ⟨_, ?_, he⟩⟩)
    simp [vget, hq]
  rw [this]
  rfl

/-- Entries are translated again without leaving or coming. -/
theorem unpack_entries {s : State} (h : s.entries = []) (asid lo hi : Nat) (e : Entry) : e ∉ (s.unpack asid lo hi).entries := by
  intro he
  obtain ⟨c, hc, he⟩ := List.mem_flatMap.1 he
  obtain ⟨c', hc', rfl⟩ := List.mem_map.1 hc
  obtain ⟨q, hq, he⟩ := List.mem_flatten.1 he
  rw [Vector.toList_map] at hq
  obtain ⟨q', hq', rfl⟩ := List.mem_map.1 hq
  obtain ⟨e', he', -⟩ := List.mem_map.1 he
  have : e' ∈ s.entries := List.mem_flatMap.2 ⟨c', hc', List.mem_flatten.2 ⟨q', hq', he'⟩⟩
  rw [h] at this
  cases this

theorem unperformed_none {s : State} (h : s.counted = []) (asid lo hi mark : Nat) :
    (s.invalidate asid lo hi).unperformed asid lo hi mark = false := by
  obtain ⟨hp, he, hd, hr⟩ := counted_none h
  have hflight : (s.invalidate asid lo hi).wire.flights.any (fun f => match f.item with
      | .pushrSector id _ _ va _ _ _ =>
        decide (f.id < mark) && overlaps va 32 lo (hi - lo) &&
          ((s.invalidate asid lo hi).entryById id).any fun t => (s.invalidate asid lo hi).asidOf t.2.2.job t.1 == asid
      | _ => false) = false := by
    rw [List.any_eq_false]
    intro f _ hf
    split at hf
    · rw [entryById_none (s := s.invalidate asid lo hi) (unpack_entries he asid lo hi)] at hf
      simp at hf
    · cases hf
  unfold State.unperformed
  dsimp only
  rw [show (s.invalidate asid lo hi).mem.pending = [] from hp, show (s.invalidate asid lo hi).wire.deferred = [] from hd,
    show (s.invalidate asid lo hi).links.remote = [] from hr]
  simp only [List.any_nil, Bool.false_or]
  exact hflight

theorem oldEntrySeen_none {s : State} (h : s.counted = []) (asid lo hi mark : Nat) : (s.invalidate asid lo hi).oldEntrySeen mark = false := by
  unfold State.oldEntrySeen
  rw [show (s.invalidate asid lo hi).mem.pending = [] from (counted_none h).1]
  rfl

theorem mem_invalidate (s : State) (asid lo hi : Nat) (c : Cached) : c ∈ (s.invalidate asid lo hi).xlat.cached ↔
    c ∈ s.xlat.cached ∧ ¬(c.asid = asid ∧ overlaps (c.tag * reachOf c.level) (reachOf c.level) lo (hi - lo) = true) := by
  refine List.mem_filter.trans (and_congr_right fun _ => ?_)
  simp [imp_iff_not_or]

section
variable {s : State} (hl : s.act.live = true) (hs : s.act.service = true)
include hl hs

theorem sinv_of {l : BitVec 1} {b a : BitVec 5} (ha : Clean s a) (hb : Clean s b) (ho : CleanO s 0) (hlt : (s.act.getO 0).toNat < 65536)
    (hm : s.act.memo = .none) (hc : s.counted = [])
    (hrange : l = 1 ∨ ((s.act.getX a).toNat < 2 ^ 55 ∧ (s.act.getX a).toNat + (s.act.getX b).toNat ≤ 2 ^ 55 ∧ s.act.getX b ≠ 0)) :
    exec (.sinv l b a) s = .next ((s.invalidate (s.act.getO 0).toNat (if l = 1 then 0 else (s.act.getX a).toNat)
      (if l = 1 then 2 ^ 55 else (s.act.getX a).toNat + (s.act.getX b).toNat)).advance 4) := by
  have hcanon : (l == 1 || (decide ((s.act.getX a).toNat < 2 ^ 55) && decide ((s.act.getX a).toNat + (s.act.getX b).toNat ≤ 2 ^ 55))) = true := by
    rcases hrange with h | ⟨h1, h2, -⟩
    · simp [h]
    · rw [decide_eq_true h1, decide_eq_true h2]; simp
  have hsome : ¬ (if l = 1 then 2 ^ 55 else (s.act.getX a).toNat + (s.act.getX b).toNat) ≤ if l = 1 then 0 else (s.act.getX a).toNat := by
    rcases hrange with h | ⟨-, -, h⟩
    · simp [h]
    · have : 0 < (s.act.getX b).toNat := Nat.pos_of_ne_zero fun h0 => h (BitVec.eq_of_toNat_eq h0)
      split <;> omega
  show execSinv l b a s = _
  unfold execSinv
  rw [State.service, need_of hs, bind_ok, ctlO_clean ho, bind_ok, need_of (decide_eq_true hlt), bind_ok, ctlX_clean ha, bind_ok,
    ctlX_clean hb, bind_ok, need_of hcanon, bind_ok]
  dsimp only
  rw [if_neg hsome, hm]
  dsimp only
  rw [oldEntrySeen_none hc, unperformed_none hc]
  exact run_ok hl

theorem frply_of {b a : BitVec 5} (ha : Clean s a) (hb : Clean s b) (hlt : (s.act.getX a).toNat < 2 ^ 32)
    (hform : (s.act.getX b).toNat % 256 = 1 ∨ s.act.getX b = 0) (h16 : (s.act.getX b).toNat < 65536) (hr : s.act.released = true)
    (hf : s.fencesMet s.act = true) :
    exec (.frply b a) s = .next ((s.fly { id := 0, src := s.act.name, dst := s.act.name, die := dieOf s.act.core
                                          item := .faultReply (s.act.getX a).toNat (s.act.getX b)
                                          after := s.waitsFor s.act (BitVec.allOnes 17) 5, scope := 5, aid := s.act.aid }).advance 4) := by
  have hform' : (bits (s.act.getX b).toNat 0 8 == 1 || s.act.getX b == 0) = true := by
    rcases hform with h | h <;> simp [bits, h]
  show execFrply b a s = _
  unfold execFrply
  rw [State.service, need_of hs, bind_ok, ctlX_clean ha, bind_ok, ctlX_clean hb, bind_ok, need_of (decide_eq_true hlt), bind_ok,
    need_of hform', bind_ok, need_of (decide_eq_true h16), bind_ok, commits_released hr, awaitFences_met hf, bind_ok]
  exact run_ok hl

theorem dlogh_of {a : BitVec 5} (ha : Clean s a) (hlt : (s.act.getX a).toNat < 64) :
    exec (.dlogh a) s = .next (((s.coresOf (s.act.getX a).toNat).foldl (fun s c => s.mergeDirty c) s).advance 4) := by
  show execDlogh a s = _
  unfold execDlogh
  rw [State.service, need_of hs, bind_ok, ctlX_clean ha, bind_ok, need_of (decide_eq_true hlt), bind_ok]
  exact run_ok hl

theorem inj_of {b a : BitVec 5} (hsolo : Solo s) (ha : Clean s a) (hb : Clean s b) (h0 : (s.act.getX a).toNat / 2 ^ 7 % 2 ^ 25 = 0)
    (hu : (s.act.getX a).toNat % 16 < 8) (hi : (s.act.getX a).toNat / 16 % 8 < unitIndexes ((s.act.getX a).toNat % 16))
    (hn : (s.act.getX b).toNat < 2 ^ 32) :
    exec (.inj b a) s = .next ((s.arm ((s.act.getX a).toNat % 16) ((s.act.getX a).toNat / 16 % 8) ((s.act.getX a).extractLsb' 32 32)
      ((s.act.getX b).setWidth 32)).advance 4) := by
  have hbits (lo n : Nat) : bits (s.act.getX a).toNat lo n = (s.act.getX a).toNat / 2 ^ lo % 2 ^ n := by
    rw [bits, Nat.shiftRight_eq_div_pow]
  have hform : (bits (s.act.getX a).toNat 7 25 == 0 && decide ((s.act.getX a).toNat % 16 < 8) &&
      decide ((s.act.getX a).toNat / 16 % 8 < unitIndexes ((s.act.getX a).toNat % 16)) && decide ((s.act.getX b).toNat < 2 ^ 32)) = true := by
    rw [hbits, h0, decide_eq_true hu, decide_eq_true hi, decide_eq_true hn]; rfl
  show execInj b a s = _
  unfold execInj
  rw [State.service, need_of hs, bind_ok, ctlX_clean ha, bind_ok, ctlX_clean hb, bind_ok]
  dsimp only
  rw [show bits (s.act.getX a).toNat 0 4 = (s.act.getX a).toNat % 16 by rw [hbits]; simp,
    show bits (s.act.getX a).toNat 4 3 = (s.act.getX a).toNat / 16 % 8 from hbits 4 3, need_of hform, bind_ok, once_solo hsolo]
  exact run_ok hl

end

/-- What is armed of a die once a unit is armed or disarmed. -/
theorem arm_armed (s : State) (unit index : Nat) (loc count : Word32) :
    (vget (s.arm unit index loc count).logs (loc.toNat / 2 ^ 18 % 4)).armed =
      let rest := (vget s.logs (loc.toNat / 2 ^ 18 % 4)).armed.filter fun t => !(t.1 == unit && t.2.1 == index && t.2.2.1 == loc)
      if count = 0 then rest else rest ++ [(unit, index, loc, count)] := by
  have hdie : bits loc.toNat 18 2 = loc.toNat / 2 ^ 18 % 4 := by rw [bits, Nat.shiftRight_eq_div_pow]; rfl
  unfold State.arm
  dsimp only
  rw [hdie]
  exact congrArg DieLog.armed (vget_vset_self _ _ _ (show loc.toNat / 2 ^ 18 % 4 < 4 from Nat.mod_lt _ (by decide)))

/-- The request that KEYREQ or ATTEST makes of a record in the local window. -/
def requestOf (s : State) (va : Word) (bs : List Byte) (attest : Bool) : KReq :=
  { id := s.fresh.1, aid := s.act.aid, who := s.me, core := s.act.core, record := localKey s va, bytes := bs, attest := attest }

/-- A request handed over, and the wait for its answer. -/
def State.asked (s : State) (r : KReq) : State :=
  { s.fresh.2 with key := { s.key with mailbox := s.key.mailbox ++ [r] } }.modAct fun t => { t with wait := .keystone r.id }

/-- The entry of a flip that MFLIP asks for. -/
def flipEntry (s : State) (v target : Word) : Entry :=
  { id := s.fresh.1, aid := s.act.aid, actor := s.act.name, job := 0, op := .mflip v target s.act.aid }

/-- A flip put in queue 4 of its core, and the wait for its outcome. -/
def State.flipping (s : State) (core : Nat) (v target : Word) : State :=
  (s.fresh.2.enqueue core 4 (flipEntry s v target)).modAct fun t => { t with wait := .flip s.fresh.1 }

section
variable {s : State} (hl : s.act.live = true) (hs : s.act.service = true) (hsolo : Solo s) {a d : BitVec 5}
include hl hs hsolo

/-- The answer of a request that has come. -/
theorem answered_of (ha : Clean s a) {v : Word} {p : Bool} (hm : s.act.memo = .value v p) :
    exec (.keyreq a d) s = .next (s.result 4 d v) ∧ exec (.attest a d) s = .next (s.result 4 d v) ∧
      exec (.mflip a d) s = .next (s.result 4 d v) := by
  have request (attest : Bool) : s.keystone a d attest = .ok (s.result 4 d v) := by
    unfold State.keystone
    rw [State.service, need_of hs, bind_ok, ctlX_clean ha, bind_ok, hm]
    dsimp only
    rw [once_solo hsolo, ite_self]
  refine ⟨(congrArg (run s) (request false)).trans (run_ok hl), (congrArg (run s) (request true)).trans (run_ok hl), ?_⟩
  show execMflip a d s = _
  unfold execMflip
  rw [State.service, need_of hs, bind_ok, hm]
  dsimp only
  rw [once_solo hsolo]
  exact run_ok hl

variable (hm : s.act.memo = .none) (hw : s.act.wait = .none) (hr : s.act.released = true)
include hm hw hr

/-- A request handed over. -/
theorem asks_of (ha : Clean s a) (hlocal : LocalOk s (s.act.getX a) 64 64 .atomic) (hp : (s.core s.act.core).ports = [])
    (hroom : s.key.mailbox.length < 64) {bs : List Byte} (hb : s.readPlain (dieOf s.act.core) (localKey s (s.act.getX a)) 64 = (bs, false))
    (attest : Bool) : run s (s.keystone a d attest) = .next (s.asked (requestOf s (s.act.getX a) bs attest)) := by
  have hrecord : s.requestRecord (s.act.getX a) = .ok ((s.act.getX a).toNat % 2 ^ 48) := by
    rw [State.requestRecord, checkLocal_local hlocal, bind_ok, awaitPorts_none hp, bind_ok]
  have hb' : s.readPlain (dieOf s.act.core) (poolKey s.act.core ((s.act.getX a).toNat % 2 ^ 48)) 64 = (bs, false) := hb
  have hhand : s.handOver (s.act.getX a) attest = .ok (s.asked (requestOf s (s.act.getX a) bs attest)) := by
    unfold State.handOver
    rw [hrecord, bind_ok]
    dsimp only
    rw [hb']
    dsimp only
    rw [need_of (by rfl), bind_ok, await_of (decide_eq_true hroom), bind_ok]
    rfl
  unfold State.keystone
  rw [State.service, need_of hs, bind_ok, ctlX_clean ha, bind_ok, hm, hw]
  dsimp only
  rw [hrecord, bind_ok, commits_released hr, once_solo hsolo, ite_self, hhand]
  exact run_ok hl

theorem mflip_of (ha : Clean s a) (hform : flipFormed (s.act.getX a) = true) (h0 : CleanO s 0) (h1 : CleanO s 1) :
    (locatedCore (s.act.getO 0) = none → exec (.mflip a d) s = .next (s.result 4 d 0)) ∧
    ∀ core, locatedCore (s.act.getO 0) = some core → (vget (s.core core).queues 4).length < 16 →
      exec (.mflip a d) s = .next (s.flipping core (s.act.getX a) (s.act.getO 1)) := by
  have hstart : exec (.mflip a d) s = run s (match locatedCore (s.act.getO 0) with
      | none => .ok (s.result 4 d 0)
      | some core => await (s.room core 4) >>= fun _ => .ok (s.flipping core (s.act.getX a) (s.act.getO 1))) := by
    show execMflip a d s = _
    unfold execMflip
    rw [State.service, need_of hs, bind_ok, hm, hw]
    dsimp only
    rw [ctlX_clean ha, bind_ok, ctlO_clean h0, bind_ok, ctlO_clean h1, bind_ok, need_of hform, bind_ok, commits_released hr, once_solo hsolo] <;>
      rfl
  refine ⟨fun hno => ?_, fun core hc hroom => ?_⟩
  · rw [hstart, hno]
    exact run_ok hl
  · rw [hstart, hc]
    dsimp only
    rw [await_of (c := s.room core 4) (decide_eq_true hroom), bind_ok]
    exact run_ok hl

end

/-- Settles O48: what each form does of its own, and what that leaves. -/
theorem serviceAndRequestForms : Obligations.ServiceAndRequestForms := by
  refine ⟨?_, ?_⟩
  · intro s l b a hl hs hsolo ha hb A B moved
    refine ⟨fun ho hlt hm hc hrange => ?_, fun h32 hform h16 hr hf => ?_, fun hlt => ?_, ?_⟩
    · refine ⟨_, sinv_of hl hs ha hb ho hlt hm hc hrange, rfl, rfl, fun c => (mem_invalidate _ _ _ _ c).trans ?_⟩
      have hlen : (if l = 1 then 2 ^ 55 else A.toNat + B.toNat) - (if l = 1 then 0 else A.toNat) = if l = 1 then 2 ^ 55 else B.toNat := by
        split <;> omega
      rw [hlen]
    · exact ⟨_, frply_of hl hs ha hb h32 hform h16 hr hf, rfl, rfl, _, rfl, rfl⟩
    · obtain ⟨hact, hcore⟩ := mergeAll (s.coresOf A.toNat) s
      refine ⟨_, dlogh_of hl hs ha hlt, congrArg (fun x : Act => ({ s with act := x } : State).advance 4 |>.act) hact, fun c hc => ?_, fun c hc => ?_⟩
      · exact congrArg Core.dirty ((hcore c).trans (if_pos hc))
      · exact (hcore c).trans (if_neg hc)
    · intro unit index loc die h0 hu hi hn
      refine ⟨_, inj_of hl hs hsolo ha hb h0 hu hi hn, rfl, rfl, fun hB => ?_, fun hB => ?_⟩
      · have hB32 : B.setWidth 32 ≠ 0 := by
          intro h
          have := congrArg BitVec.toNat h
          rw [BitVec.toNat_setWidth, Nat.mod_eq_of_lt hn] at this
          exact hB (BitVec.eq_of_toNat_eq this)
        refine (arm_armed s unit index loc (B.setWidth 32)).symm ▸ ?_
        dsimp only
        rw [if_neg hB32]
        exact List.mem_append_right _ (List.mem_singleton_self _)
      · have hB32 : B.setWidth 32 = 0 := by rw [hB]; rfl
        intro x hx
        have hx' : x ∈ (vget (s.arm unit index loc (B.setWidth 32)).logs (loc.toNat / 2 ^ 18 % 4)).armed := hx
        rw [arm_armed] at hx'
        dsimp only at hx'
        rw [if_pos hB32] at hx'
        have := (List.mem_filter.1 hx').2
        simp only [Bool.not_eq_true', Bool.and_eq_false_iff, beq_eq_false_iff_ne] at this
        tauto
  · intro s a d hl hs hsolo ha
    refine ⟨fun v p hm => answered_of hl hs hsolo ha hm, fun hm hw hr => ⟨fun hlocal hp hroom bs hb => ?_, fun hform h0 h1 => ?_⟩⟩
    · intro asks
      exact ⟨⟨_, asks_of hl hs hsolo hm hw hr ha hlocal hp hroom hb false, _, rfl, rfl, rfl, rfl, rfl, rfl, rfl, rfl⟩,
        ⟨_, asks_of hl hs hsolo hm hw hr ha hlocal hp hroom hb true, _, rfl, rfl, rfl, rfl, rfl, rfl, rfl, rfl⟩⟩
    · obtain ⟨hno, hyes⟩ := mflip_of (d := d) hl hs hsolo hm hw hr ha hform h0 h1
      refine ⟨hno, fun core hc hroom => ?_⟩
      have hq := enqueue_queue_self s.fresh.2 (core := core) (flipEntry s (s.act.getX a) (s.act.getO 1)) (show 4 < 7 by decide)
      obtain ⟨w, g, hj⟩ := joined_eq (s.fresh.2.core core) 4 (flipEntry s (s.act.getX a) (s.act.getO 1)) s.fresh.2.env.time
      rw [hj] at hq
      exact ⟨_, hyes core hc hroom, _, hq, rfl, rfl, rfl, rfl⟩

end Sys2Proof.Machine
end


section
/-! Counters zeroed, cores taken and cleared, and records sealed: what they change and what they keep. -/

namespace Sys2Proof.Machine
open Sys2Proof.Safety

/-! ## Counters of a core zeroed -/

/-- Cores changed, and what the activations have been told of their counters. -/
structure CoresSet (s t : State) : Prop where
  eq : ∃ m, t = { s with act := { s.act with memo := m }, acts := t.acts, cores := t.cores }

theorem CoresSet.trans {s t u : State} (h : CoresSet s t) (g : CoresSet t u) : CoresSet s u := by
  obtain ⟨m, hm⟩ := h.eq
  obtain ⟨n, hn⟩ := g.eq
  exact ⟨n, by rw [hn, hm]⟩

theorem CoresSet.refl (s : State) : CoresSet s s := ⟨s.act.memo, rfl⟩

theorem modCore_coresSet (s : State) (c : Nat) (f : Core → Core) : CoresSet s (s.modCore c f) := ⟨s.act.memo, rfl⟩

theorem setCounter_coresSet (s : State) (c n : Nat) (v : Word32) : CoresSet s (s.setCounter c n v) := by
  obtain ⟨m, hm⟩ := setCounter_act s c n v
  refine ⟨m, ?_⟩
  rw [← hm]
  rfl

theorem coresSet_foldl {α : Type} (f : State → α → State) (hf : ∀ s a, CoresSet s (f s a)) (l : List α) (s : State) :
    CoresSet s (l.foldl f s) := by
  induction l generalizing s with
  | nil => exact CoresSet.refl s
  | cons a l ih => exact (hf s a).trans (ih _)

theorem zeroCounters_coresSet (s : State) (c : Nat) : CoresSet s (s.zeroCounters c) := by
  unfold State.zeroCounters
  exact coresSet_foldl (fun (s : State) (k : Nat × Word32) => s.setCounter c k.1 0) (fun s k => setCounter_coresSet s c k.1 0)
    (s.core c).counters s

theorem setX_memo (a : Act) (m : Memo) (d : BitVec 5) (v : Word) : ({ a with memo := m } : Act).setX d v = { a.setX d v with memo := m } := by
  unfold Act.setX
  split <;> rfl

section
variable {s t : State} (h : CoresSet s t)
include h

theorem CoresSet.mem : t.mem = s.mem := by obtain ⟨m, hm⟩ := h.eq; rw [hm]
theorem CoresSet.parts : t.parts = s.parts := by obtain ⟨m, hm⟩ := h.eq; rw [hm]
theorem CoresSet.dir : t.dir = s.dir := by obtain ⟨m, hm⟩ := h.eq; rw [hm]
theorem CoresSet.result (n : Nat) (d : BitVec 5) (v : Word) : (t.result n d v).act = (s.result n d v).act := by
  obtain ⟨m, hm⟩ := h.eq
  rw [hm]
  exact congrArg (fun a : Act => ({ s with act := a }.advance n).act) (setX_memo s.act m d v)

end

theorem setCounter_core_ne (s : State) {c k : Nat} (n : Nat) (v : Word32) (h : k ≠ c) : (s.setCounter c n v).core k = s.core k :=
  core_modCore_ne s (fun x => (x.setCounter n v).observeGate n v) h

theorem setCounter_core_self (s : State) (c n : Nat) (v : Word32) :
    ∃ q, (s.setCounter c n v).core c = { s.core c with counters := put 0 n v (s.core c).counters, queues := q } := by
  obtain ⟨q, hq⟩ := observeGate_eq ((s.core c).setCounter n v) n v
  refine ⟨q, ?_⟩
  show (s.modCore c fun x => (x.setCounter n v).observeGate n v).core c = _
  rw [core_modCore_self, hq]
  rfl

theorem zeroCounters_core_ne (s : State) {c k : Nat} (h : k ≠ c) : (s.zeroCounters c).core k = s.core k := by
  unfold State.zeroCounters
  generalize (s.core c).counters = l
  induction l generalizing s with
  | nil => rfl
  | cons x l ih => exact (ih _).trans (setCounter_core_ne s x.1 0 h)

/-- Counters zeroed one by one: each is zero that was listed, and the others are as before. -/
theorem zeroList_core_self (c : Nat) (l : List (Nat × Word32)) (s : State) :
    ∃ k q, (l.foldl (fun s x => s.setCounter c x.1 0) s).core c = { s.core c with counters := k, queues := q } ∧
      ∀ n, look 0 k n = if n ∈ l.map (·.1) then 0 else look 0 (s.core c).counters n := by
  induction l generalizing s with
  | nil => exact ⟨(s.core c).counters, (s.core c).queues, rfl, fun n => (if_neg List.not_mem_nil).symm⟩
  | cons x l ih =>
    obtain ⟨q', hq'⟩ := setCounter_core_self s c x.1 0
    obtain ⟨k, q, hc, hk⟩ := ih (s.setCounter c x.1 0)
    refine ⟨k, q, by rw [List.foldl_cons, hc, hq'], fun n => ?_⟩
    rw [hk n, hq', List.map_cons]
    simp only [look_put, List.mem_cons]
    by_cases h2 : n = x.1
    · simp only [h2, true_or, if_true, ite_self]
    · simp only [h2, false_or, if_false]

theorem zeroCounters_core_self (s : State) (c : Nat) :
    ∃ k q, (s.zeroCounters c).core c = { s.core c with counters := k, queues := q } ∧ ∀ n, look 0 k n = 0 := by
  obtain ⟨k, q, hc, hk⟩ := zeroList_core_self c (s.core c).counters s
  refine ⟨k, q, hc, fun n => (hk n).trans ?_⟩
  split
  · rfl
  next hn => exact look_unlisted 0 fun x hx h => hn (List.mem_map.2 ⟨x, hx, h⟩)

/-! ## Partitions -/

theorem part_modPart (s : State) {p : Nat} (f : Part → Part) (hp : p < 48) : (s.modPart p f).part p = f (s.part p) := by
  simp [State.part, State.modPart, hp]

theorem modPart_act (s : State) (p : Nat) (f : Part → Part) : (s.modPart p f).act = s.act := by
  obtain ⟨ps, h⟩ := State.modPart_parts s p f; rw [h]
theorem modPart_acts (s : State) (p : Nat) (f : Part → Part) : (s.modPart p f).acts = s.acts := by
  obtain ⟨ps, h⟩ := State.modPart_parts s p f; rw [h]
theorem modPart_mem (s : State) (p : Nat) (f : Part → Part) : (s.modPart p f).mem = s.mem := by
  obtain ⟨ps, h⟩ := State.modPart_parts s p f; rw [h]
theorem modPart_cores (s : State) (p : Nat) (f : Part → Part) : (s.modPart p f).cores = s.cores := by
  obtain ⟨ps, h⟩ := State.modPart_parts s p f; rw [h]
theorem modPart_dir (s : State) (p : Nat) (f : Part → Part) : (s.modPart p f).dir = s.dir := by
  obtain ⟨ps, h⟩ := State.modPart_parts s p f; rw [h]

theorem modPart_core (s : State) (p : Nat) (f : Part → Part) (c : Nat) : (s.modPart p f).core c = s.core c := by
  rw [State.core, modPart_cores, State.core]
theorem modPart_inPart (s : State) (p : Nat) (f : Part → Part) (j : Half) (q : Nat) : (s.modPart p f).inPart j q = s.inPart j q := by
  unfold State.modPart
  split <;> rfl
theorem result_part (s : State) (n : Nat) (d : BitVec 5) (v : Word) (p : Nat) : (s.result n d v).part p = s.part p := rfl
theorem modPart_result (s : State) (p : Nat) (f : Part → Part) (n : Nat) (d : BitVec 5) (v : Word) :
    ((s.modPart p f).result n d v).act = (s.result n d v).act := by
  obtain ⟨ps, h⟩ := State.modPart_parts s p f; rw [h]; rfl

theorem part_lt {s : State} {p : Nat} (h : (s.part p).state ≠ 0) : p < 48 := by
  by_contra hp
  exact h (by simp [State.part, hp])

/-- Cores written one after another, each with a property that the writes of other cores keep. -/
theorem foldl_cores {α : Type} (key : α → Nat) (f : State → α → State) (P : Core → Prop) (hself : ∀ s a, P ((f s a).core (key a)))
    (hne : ∀ s a c, c ≠ key a → (f s a).core c = s.core c) (l : List α) (s : State) {c : Nat} (h : c ∈ l.map key ∨ P (s.core c)) :
    P ((l.foldl f s).core c) := by
  induction l generalizing s with
  | nil => exact h.resolve_left (List.not_mem_nil)
  | cons a l ih =>
    refine ih _ ?_
    by_cases hc : c = key a
    · exact .inr (hc ▸ hself s a)
    · rw [hne s a c hc]
      simpa [hc] using h

theorem map_fst_numbered (l : List Nat) (base : Nat) : (numbered l base).map (·.1) = l := by
  rw [numbered, List.map_map]
  exact List.zipIdx_map_fst 0 l

end Sys2Proof.Machine
end

section
/-! O49: PREEMPT and HALT. -/

namespace Sys2Proof.Machine
open Sys2Proof.Safety

/-! ## Resume: cores taken -/

/-- One core made a partition's own. -/
def State.takeCore (p : Nat) (s : State) (t : Nat × Half) : State :=
  (s.zeroCounters t.1).modCore t.1 fun c => { c with
    part := some p, lcore := t.2, restored := false
    word := if (s.residentNumbers t.1).isEmpty then Config.partitionWord (s.part p).asid.toNat t.2.toNat else c.word }

theorem takeCores_eq (s : State) (p : Nat) :
    s.takeCores p = (numbered ((s.coresOf p).filter fun c => !isService c) 0 ++ numbered ((s.coresOf p).filter isService) 0x8000).foldl
      (State.takeCore p) s := rfl

theorem takeCores_coresSet (s : State) (p : Nat) : CoresSet s (s.takeCores p) := by
  rw [takeCores_eq]
  exact coresSet_foldl (State.takeCore p) (fun s t => (zeroCounters_coresSet s t.1).trans (modCore_coresSet ..)) _ s

theorem takeCores_part (s : State) (p c : Nat) (hc : c ∈ s.coresOf p) : ((s.takeCores p).core c).part = some p := by
  rw [takeCores_eq]
  refine foldl_cores (fun t : Nat × Half => t.1) (State.takeCore p) (fun c => c.part = some p) (fun s t => ?_) (fun s t c h => ?_) _ s (.inl ?_)
  · exact congrArg Core.part (core_modCore_self ..)
  · exact (core_modCore_ne _ _ h).trans (zeroCounters_core_ne s h)
  · rw [List.map_append, map_fst_numbered, map_fst_numbered, List.mem_append, List.mem_filter, List.mem_filter]
    cases isService c <;> simp [hc]

/-! ## Clear -/

theorem look_filter {α : Type} (d : α) (p : Nat → Bool) (k : Nat) (l : List (Nat × α)) :
    look d (l.filter fun c => p c.1) k = if p k then look d l k else d := by
  induction l with
  | nil => simp [look]
  | cons c l ih =>
    obtain ⟨a, v⟩ := c
    by_cases hk : k = a
    · subst hk
      cases hp : p k
      · rw [List.filter_cons_of_neg (by simp [hp]), ih, hp]; rfl
      · rw [List.filter_cons_of_pos (by simp [hp])]; simp [look]
    · cases hp : p a
      · rw [List.filter_cons_of_neg (by simp [hp]), ih]; simp [look, hk]
      · rw [List.filter_cons_of_pos (by simp [hp])]; simp [look, hk, ih]

/-- A core's pool holds nothing, and its state is that of a core of no partition. -/
def Core.Cleared (c : Core) : Prop := c.part = none ∧ c.ports = [] ∧ c.bufs = [] ∧ ∀ n, c.counter n = 0

/-- No byte of a core's pool is listed, nor any sector of it as poisoned. -/
def Mem.PoolZero (m : Mem) (core : Nat) : Prop :=
  ∀ k, poolKey core 0 ≤ k → k < poolKey core 0 + 2 ^ 24 → look 0 m.cells k = 0 ∧ ¬(k / 32 ∈ m.poisonSectors)

theorem clearCore_parts (s : State) (c : Nat) : (s.clearCore c).parts = s.parts := (zeroCounters_coresSet _ c).parts

theorem clearCore_result (s : State) (c n : Nat) (d : BitVec 5) (v : Word) : ((s.clearCore c).result n d v).act = (s.result n d v).act :=
  ((zeroCounters_coresSet _ c).trans (modCore_coresSet ..)).result n d v

theorem cleared_core (s : State) (c : Nat) {f : Core → Core}
    (hf : ∀ x, (f x).part = none ∧ (f x).ports = [] ∧ (f x).bufs = [] ∧ (f x).counters = x.counters) :
    (((s.zeroCounters c).modCore c f).core c).Cleared := by
  obtain ⟨k, q, hc, hk⟩ := zeroCounters_core_self s c
  rw [core_modCore_self]
  obtain ⟨h1, h2, h3, h4⟩ := hf ((s.zeroCounters c).core c)
  exact ⟨h1, h2, h3, fun n => by rw [Core.counter, h4, hc]; exact hk n⟩

theorem clearCore_core_self (s : State) (c : Nat) : ((s.clearCore c).core c).Cleared := cleared_core _ c fun _ => ⟨rfl, rfl, rfl, rfl⟩

theorem clearCore_core_ne (s : State) {c k : Nat} (h : k ≠ c) : (s.clearCore c).core k = s.core k := by
  unfold State.clearCore
  dsimp only
  rw [core_modCore_ne _ _ h, zeroCounters_core_ne _ h]
  rfl

/-- Whether a byte lies in a core's pool. -/
def inPool (core k : Nat) : Bool := decide (poolKey core 0 ≤ k) && decide (k < poolKey core 0 + 2 ^ 24)

theorem clearCore_mem (s : State) (c : Nat) : (s.clearCore c).mem =
    { s.mem with cells := s.mem.cells.filter fun x => !inPool c x.1
                 poisonSectors := s.mem.poisonSectors.filter fun k => !inPool c (k * 32) } :=
  ((zeroCounters_coresSet _ c).trans (modCore_coresSet ..)).mem

theorem clearCore_actors (s : State) (c : Nat) : (s.clearCore c).dir.actors =
    mapIf (fun a : Actor => a.core == c && a.life != .saved) (fun a => { a with onCore := [] }) s.dir.actors :=
  congrArg (·.actors) ((zeroCounters_coresSet _ c).trans (modCore_coresSet ..)).dir

/-- Cleared cores lose what they hold; of the rest nothing comes. -/
theorem clearCore_poolZero (s : State) (c core : Nat) (h : core = c ∨ s.mem.PoolZero core) : (s.clearCore c).mem.PoolZero core := by
  intro k hlo hhi
  rw [clearCore_mem]
  refine ⟨(look_filter 0 (fun k => !inPool c k) k s.mem.cells).trans ?_, fun hmem => ?_⟩
  · rcases h with rfl | h
    · rw [show inPool core k = true by rw [inPool, decide_eq_true hlo, decide_eq_true hhi]; rfl]; rfl
    · split
      · exact (h k hlo hhi).1
      · rfl
  · obtain ⟨hold, hin⟩ := List.mem_filter.1 hmem
    rcases h with rfl | h
    · have : inPool core (k / 32 * 32) = true := by
        unfold poolKey at hlo hhi
        have h1 : poolKey core 0 ≤ k / 32 * 32 := by unfold poolKey; omega
        have h2 : k / 32 * 32 < poolKey core 0 + 2 ^ 24 := by unfold poolKey; omega
        rw [inPool, decide_eq_true h1, decide_eq_true h2]
        rfl
      rw [this] at hin
      cases hin
    · exact (h k hlo hhi).2 hold

/-- Cores cleared one after another. -/
theorem clearCores (l : List Nat) (s : State) :
    (∀ c ∈ l, ((l.foldl State.clearCore s).core c).Cleared ∧ (l.foldl State.clearCore s).mem.PoolZero c) ∧
    (l.foldl State.clearCore s).parts = s.parts ∧
    (∀ n d v, ((l.foldl State.clearCore s).result n d v).act = (s.result n d v).act) ∧
    ∀ x ∈ (l.foldl State.clearCore s).dir.actors, ∃ y ∈ s.dir.actors, y.job = x.job ∧ y.life = x.life := by
  refine ⟨fun c hc => ⟨?_, ?_⟩, ?_, ?_, ?_⟩
  · exact foldl_cores id State.clearCore Core.Cleared clearCore_core_self (fun s a c h => clearCore_core_ne s h) l s (.inl (by simpa using hc))
  · suffices H : ∀ (l : List Nat) (s : State), c ∈ l ∨ s.mem.PoolZero c → (l.foldl State.clearCore s).mem.PoolZero c from H l s (.inl hc)
    intro l
    induction l with
    | nil => exact fun s h => h.resolve_left List.not_mem_nil
    | cons a l ih =>
      intro s h
      refine ih _ ?_
      by_cases ha : c = a
      · exact .inr (clearCore_poolZero s a c (.inl ha))
      · exact h.imp (fun h => (List.mem_cons.1 h).resolve_left ha) fun h => clearCore_poolZero s a c (.inr h)
  · induction l generalizing s with
    | nil => rfl
    | cons a l ih => exact (ih _).trans (clearCore_parts s a)
  · intro n d v
    induction l generalizing s with
    | nil => rfl
    | cons a l ih => exact (ih _).trans (clearCore_result s a n d v)
  · induction l generalizing s with
    | nil => exact fun x hx => ⟨x, hx, rfl, rfl⟩
    | cons a l ih =>
      intro x hx
      obtain ⟨y, hy, hj, hlife⟩ := ih _ x hx
      rw [clearCore_actors] at hy
      obtain ⟨z, hz, rfl⟩ := List.mem_map.1 hy
      refine ⟨z, hz, ?_⟩
      rw [← hj, ← hlife]
      split <;> exact ⟨rfl, rfl⟩

/-- Of a cleared partition's actors none is live. -/
theorem clearPart_actors {s : State} {p : Nat} {x : Actor}
    (hx : x ∈ mapIf (fun a => s.inPart a.job p && a.life == .live) s.saveActor s.dir.actors) (hp : s.inPart x.job p = true) : x.life ≠ .live := by
  obtain ⟨y, -, rfl⟩ := List.mem_map.1 hx
  split
  · exact fun h => by cases h
  next hno =>
    rw [if_neg hno] at hp
    simpa [hp] using hno

/-! ## HALT -/

theorem sealRecord_unsealed {s : State} {j : Half} {h : Bool} {r : Attest} (hr : r ∈ (s.sealRecord j h).key.records) (hu : r.sealed = false) :
    r.job ≠ j ∧ r ∈ s.key.records := by
  obtain ⟨hm, -⟩ := List.mem_filter.1 hr
  obtain ⟨r', hr', rfl⟩ := List.mem_map.1 hm
  split at hu
  · cases hu
  next hno =>
    rw [if_neg hno]
    rw [hu] at hno
    exact ⟨by simpa using hno, hr'⟩

theorem sealAll_sealed (s : State) (h : Bool) : ∀ r ∈ (s.sealAll h).key.records, r.sealed = true := by
  suffices H : ∀ (l : List Half) (s : State) (r : Attest), r ∈ (l.foldl (fun s j => s.sealRecord j h) s).key.records → r.sealed = false →
      r.job ∉ l ∧ r ∈ s.key.records by
    intro r hr
    by_contra hu
    rw [Bool.not_eq_true] at hu
    obtain ⟨hno, hold⟩ := H _ s r hr hu
    exact hno (List.mem_map.2 ⟨r, List.mem_filter.2 ⟨hold, by simp [hu]⟩, rfl⟩)
  intro l
  induction l with
  | nil => exact fun s r hr _ => ⟨List.not_mem_nil, hr⟩
  | cons j l ih =>
    intro s r hr hu
    obtain ⟨hno, hold⟩ := ih _ r hr hu
    obtain ⟨hj, hold⟩ := sealRecord_unsealed hold hu
    exact ⟨by simp [hj, hno], hold⟩

theorem sealAll_mem (s : State) (h : Bool) : (s.sealAll h).mem = s.mem := by
  unfold State.sealAll
  generalize (s.key.records.filter fun r => !r.sealed).map (·.job) = l
  induction l generalizing s with
  | nil => rfl
  | cons j l ih => exact ih (s.sealRecord j h)

section
variable {s : State} (hl : s.act.live = true) (hs : s.act.service = true) (hsolo : Solo s) {a d : BitVec 5} (ha : Clean s a)
include hl hs hsolo ha

section
variable (hv : (s.act.getX a).toNat < 64) (hr : s.act.released = true)
include hv hr

theorem preemptResume_of : exec (.preemptResume a d) s =
    .next ((s.resumePart (s.act.getX a).toNat).1.result 4 d (s.resumePart (s.act.getX a).toNat).2) := by
  show execPreemptResume a d s = _
  unfold execPreemptResume
  rw [State.service, need_of hs, bind_ok, ctlX_clean ha, bind_ok, need_of (decide_eq_true hv), bind_ok, commits_released hr, once_solo hsolo]
  exact run_ok hl

theorem preemptClear_of : exec (.preemptClear a d) s =
    .next ((s.clearPart (s.act.getX a).toNat).1.result 4 d (s.clearPart (s.act.getX a).toNat).2) := by
  show execPreemptClear a d s = _
  unfold execPreemptClear
  rw [State.service, need_of hs, bind_ok, ctlX_clean ha, bind_ok, need_of (decide_eq_true hv), bind_ok, commits_released hr, once_solo hsolo]
  exact run_ok hl

omit hl in
theorem preemptStop_of (hm : s.act.memo = .none) (hw : s.act.wait = .none) : exec (.preemptStop a d) s =
    run s (if (s.part (s.act.getX a).toNat).state ≠ 1 then .ok (s.result 4 d 1)
      else .ok (((s.modPart (s.act.getX a).toNat fun t => { t with state := 2, stoppers := [s.act.aid] }).stopActs
        (s.act.getX a).toNat).modAct fun x => { x with wait := .stop (s.act.getX a).toNat })) := by
  show execPreemptStop a d s = _
  unfold execPreemptStop
  rw [State.service, need_of hs, bind_ok, hm, hw]
  dsimp only
  rw [ctlX_clean ha, bind_ok, need_of (decide_eq_true hv), bind_ok, commits_released hr, once_solo hsolo]

end

omit ha in
theorem preemptStop_answered {v : Word} {p : Bool} (hm : s.act.memo = .value v p) : exec (.preemptStop a d) s = .next (s.result 4 d v) := by
  show execPreemptStop a d s = _
  unfold execPreemptStop
  rw [State.service, need_of hs, bind_ok, hm]
  dsimp only
  rw [once_solo hsolo]
  exact run_ok hl

omit hsolo in
theorem halt_of (hv : (s.act.getX a).toNat < 2) :
    exec (.halt a) s = .next (if s.act.getX a = 1 then s.haltSteps.warmReset else s.haltSteps) := by
  show execHalt a s = _
  unfold execHalt
  rw [State.service, need_of hs, bind_ok, ctlX_clean ha, bind_ok, need_of (decide_eq_true hv), bind_ok]
  exact run_ok hl

end

theorem stopActs_none {s : State} {p : Nat} (h : s.stoppable p = []) : s.stopActs p = s := by rw [State.stopActs, h]; rfl

/-- Settles O49: each form's outcome by the partition's state. -/
theorem partitionForms : Obligations.PartitionForms := by
  intro s a d hl hs hsolo ha v answers
  refine ⟨fun hv hr => ⟨fun hmin h3 => ?_, fun h0 hset => ?_, fun hno => ?_, fun hno => ?_, fun h3 => ?_, fun hm hw => ⟨fun hno => ?_, fun h1 hacts => ?_⟩⟩,
    fun n p hm => preemptStop_answered hl hs hsolo hm, fun h0 => ?_, fun h1 => ?_⟩
  · have hp : s.resumePart v = (s.modPart v fun t => { t with state := 1 }, 0) := by simp [State.resumePart, hmin, h3]
    have hlt : v < 48 := part_lt (by rw [h3]; decide)
    refine ⟨_, preemptResume_of hl hs hsolo ha hv hr, ?_⟩
    rw [hp]
    exact ⟨modPart_result .., congrArg Part.state ((result_part ..).trans (part_modPart s _ hlt)), modPart_mem ..⟩
  · have hmin : s.boot.minimal = false := by
      cases h : s.boot.minimal
      · rfl
      · simp [State.setUp, h] at hset
    have hp : s.resumePart v = ((s.takeCores v).modPart v fun t => { t with state := 1 }, 0) := by
      simp [State.resumePart, hmin, h0, hset]
    have hlt : v < 48 := by
      simp only [State.setUp, Bool.and_eq_true, decide_eq_true_eq] at hset
      exact hset.2
    have htake := takeCores_coresSet s v
    refine ⟨_, preemptResume_of hl hs hsolo ha hv hr, ?_⟩
    rw [hp]
    generalize hu : s.takeCores v = u at htake
    dsimp only [answers]
    rw [modPart_result, htake.result, result_part, part_modPart u _ hlt]
    refine ⟨rfl, rfl, (modPart_mem u v _).trans htake.mem, fun c hc => ?_⟩
    rw [show State.core (State.result _ 4 d 0) c = u.core c from modPart_core u v _ c, ← hu]
    exact takeCores_part s v c hc
  · have hp : s.resumePart v = (s, 1) := by
      unfold State.resumePart
      rcases hno with h | h | h | ⟨h, hset⟩
      · simp [h]
      · simp [h]
      · simp [h]
      · simp [h, hset]
    refine (preemptResume_of hl hs hsolo ha hv hr).trans ?_
    rw [hp]
  · refine (preemptClear_of hl hs hsolo ha hv hr).trans ?_
    rw [State.clearPart, if_pos hno]
  · have hlt : v < 48 := part_lt (by rw [h3]; decide)
    refine ⟨_, preemptClear_of hl hs hsolo ha hv hr, ?_⟩
    rw [State.clearPart, if_neg (not_not.2 h3)]
    dsimp only
    generalize hu : ({ s with dir := { s.dir with
      actors := mapIf (fun a => s.inPart a.job v && a.life == .live) s.saveActor s.dir.actors
      pools := mapIf (fun q => s.inPart q.job v && q.life == .live) s.savePool s.dir.pools } } : State) = u
    obtain ⟨hcores, hparts, hact, hactors⟩ := clearCores (s.coresOf v) u
    generalize (s.coresOf v).foldl State.clearCore u = t at hcores hparts hact hactors
    have hcore (c : Nat) : ((t.modPart v fun x => { x with state := 0, replays := 0 }).result 4 d 0).core c = t.core c :=
      modPart_core ..
    have hmem : ((t.modPart v fun x => { x with state := 0, replays := 0 }).result 4 d 0).mem = t.mem := modPart_mem ..
    have hdir : ((t.modPart v fun x => { x with state := 0, replays := 0 }).result 4 d 0).dir = t.dir := modPart_dir ..
    dsimp only [answers]
    rw [modPart_result, hact, result_part, part_modPart t _ hlt]
    refine ⟨?_, rfl, fun c hc => ?_, fun x hx hp => ?_⟩
    · rw [← hu]
      rfl
    · obtain ⟨⟨hpart, hports, hbufs, hzero⟩, hpool⟩ := hcores c hc
      rw [hcore, hmem]
      exact ⟨hpart, hports, hbufs, hzero, hpool⟩
    · rw [hdir] at hx
      obtain ⟨y, hy, hj, hlife⟩ := hactors x hx
      rw [← hlife]
      rw [← hu] at hy
      exact clearPart_actors hy (by rwa [hj])
  · exact (preemptStop_of hs hsolo ha hv hr hm hw).trans (by rw [if_pos hno]; exact run_ok hl)
  · have hlt : v < 48 := part_lt (by rw [h1]; decide)
    have hcommitted : s.act.committed = true := (Bool.and_eq_true _ _ ▸ hr : _ ∧ _).1
    have hnone : (s.modPart v fun t => { t with state := 2, stoppers := [s.act.aid] }).stoppable v = [] := by
      refine List.filter_eq_nil_iff.2 fun x hx hstop => ?_
      rw [modPart_inPart, Bool.and_eq_true, Bool.and_eq_true] at hstop
      obtain ⟨⟨hin, hpre⟩, -⟩ := hstop
      rcases List.mem_append.1 hx with h | h
      · rw [modPart_act, if_pos hl, List.mem_singleton] at h
        rw [h, hcommitted] at hpre
        cases hpre
      · rw [modPart_acts] at h
        rw [hacts x h] at hin
        cases hin
    refine ⟨_, (preemptStop_of hs hsolo ha hv hr hm hw).trans (by rw [if_neg (not_not.2 h1)]; exact run_ok hl), ?_⟩
    rw [show State.stopActs _ (s.act.getX a).toNat = _ from stopActs_none hnone]
    refine ⟨congrArg Part.state (part_modPart s _ hlt), ?_, modPart_mem ..⟩
    exact congrArg (fun x : Act => { x with wait := .stop v }) (modPart_act ..)
  · have h1 : s.act.getX a ≠ 1 := fun h => by
      have : v = 1 := congrArg BitVec.toNat h
      omega
    refine ⟨_, halt_of hl hs ha (by omega), ?_⟩
    rw [if_neg h1]
    exact ⟨rfl, rfl, rfl, rfl, sealAll_mem s true, sealAll_sealed s true⟩
  · have h1 : s.act.getX a = 1 := BitVec.eq_of_toNat_eq h1
    refine ⟨_, halt_of hl hs ha (by omega), ?_⟩
    rw [if_pos h1]
    exact ⟨rfl, rfl, rfl, rfl, rfl⟩

end Sys2Proof.Machine
end


section
/-! What events are, and the facts about mailboxes and levels that they share. -/

namespace Sys2Proof.Machine
open Sys2Proof.Safety

theorem event_some {s : State} (h : Running s) (t : State) : event s (some t) = .next t := by
  rw [event, not_stopped h]
  rfl

theorem event_none {s : State} (h : Running s) : event s none = .next s := by
  rw [event, not_stopped h]
  rfl

/-! ## Levels that settle -/

theorem settleLevels_dir (s : State) : s.settleLevels.dir.actors = s.dir.actors ∧ s.settleLevels.dir.pools = s.dir.pools := by
  obtain ⟨exp, ph, la, env, wire, h⟩ := settleLevels_eq s
  rw [h]
  exact ⟨rfl, rfl⟩

theorem settleLevels_acts (s : State) : s.settleLevels.acts = s.acts := by
  obtain ⟨exp, ph, la, env, wire, h⟩ := settleLevels_eq s
  rw [h]

theorem settleLevels_mem (s : State) : s.settleLevels.mem = s.mem := by
  obtain ⟨exp, ph, la, env, wire, h⟩ := settleLevels_eq s
  rw [h]

theorem settleLevels_aside (s : State) : Aside s s.settleLevels := ⟨settleLevels_act s, settleLevels_mem s⟩

theorem aside_trans {s t u : State} (h : Aside s t) (g : Aside t u) : Aside s u := ⟨g.1.trans h.1, g.2.trans h.2⟩

/-! ## Actors -/

theorem bears_actors {s t : State} {n : Word} {a : Actor} (h : Bears s n a) (he : t.dir.actors = s.dir.actors) : Bears t n a :=
  ⟨h.1, by rw [he]; exact h.2⟩

theorem bears_settleLevels {s : State} {n : Word} {a : Actor} (h : Bears s n a) : Bears s.settleLevels n a := bears_actors h (settleLevels_dir s).1

theorem bears_modActor {s : State} {n : Word} {a : Actor} (h : Bears s n a) {f : Actor → Actor} (hf : ∀ a : Actor, (f a).name = a.name) :
    Bears (s.modActor n f) n (f a) := ⟨h.1, find?_modActor hf h.2⟩

/-- Actors changed in what does not count for their core's mailboxes take the room they took. -/
theorem mailUsed_modActor (s : State) (n : Word) {f : Actor → Actor} (hlife : ∀ a, (f a).life = a.life) (hcore : ∀ a, (f a).core = a.core)
    (hbox : ∀ a, (f a).onCore = a.onCore) (core : Nat) : (s.modActor n f).mailUsed core = s.mailUsed core := by
  unfold State.mailUsed State.residents
  show ((s.dir.actors.map fun a => if a.name == n then f a else a).filter _).foldl _ 0 = _
  generalize s.dir.actors = l
  generalize (0 : Nat) = k
  induction l generalizing k with
  | nil => rfl
  | cons a l ih =>
    have hres : (resident (if a.name == n then f a else a) && (if a.name == n then f a else a).core == core) = (resident a && a.core == core) := by
      split
      · rw [resident, hlife, hcore, resident]
      · rfl
    have hlen : (if a.name == n then f a else a).onCore.length = a.onCore.length := by
      split
      · rw [hbox]
      · rfl
    rw [List.map_cons, List.filter_cons, List.filter_cons, hres]
    split
    · rw [List.foldl_cons, List.foldl_cons, hlen]
      exact ih _
    · exact ih k

/-- A live actor with room takes a message. -/
theorem accept_taken {s : State} {a : Actor} (m : Msg) (h : Bears s a.name a) (ht : TakesMail s a) :
    Aside s (s.accept a m) ∧ HasMail s (s.accept a m) a m := by
  obtain ⟨-, hspill, hroom⟩ := ht
  have hroom' : (s.modActor a.name fun t => { t with nextSeq := (t.nextSeq + 1) % 2 ^ 44 }).mailUsed a.core < mailSlots a.core := by
    rw [mailUsed_modActor s a.name (f := fun t => { t with nextSeq := (t.nextSeq + 1) % 2 ^ 44 }) (fun _ => rfl) (fun _ => rfl) (fun _ => rfl)]
    exact hroom
  unfold State.accept
  dsimp only
  rw [hspill, if_neg (by simp), if_pos hroom']
  exact ⟨⟨rfl, rfl⟩, bears_modActor (bears_modActor h (f := fun t => { t with nextSeq := (t.nextSeq + 1) % 2 ^ 44 }) fun _ => rfl)
    (f := fun t => { t with onCore := t.onCore ++ [{ msg := m, seq := a.nextSeq, arrived := s.env.time, deadline := s.effective a.job m }] })
    fun _ => rfl⟩

theorem hasMail_settleLevels {s t : State} {a : Actor} {m : Msg} (h : HasMail s t a m) : HasMail s t.settleLevels a m := bears_settleLevels h

theorem onward_here {s : State} {src dst : Word} (h : s.elsewhere dst = none) : s.onward src dst = none := by
  rw [State.onward, h]
  rfl

end Sys2Proof.Machine
end

section
/-! O50: messages arrive, spilled ones come back, and heads are dispatched. -/

namespace Sys2Proof.Machine
open Sys2Proof.Safety

section
variable {s : State} (hr : Running s)
include hr

/-- A flight that may arrive does so. -/
theorem messageArrival_of {f : Flight} {t : State} (hf : Arrives s f) (ht : s.arrive f = some t) :
    exec (.messageArrival f.id) s = .next t.settleLevels := by
  obtain ⟨hfind, hready⟩ := hf
  show execMessageArrival f.id s = _
  unfold execMessageArrival
  rw [hfind]
  show event s (if s.flightReady f then (s.arrive f).map State.settleLevels else none) = _
  rw [hready, if_pos rfl, ht]
  exact event_some hr _

omit hr in
/-- A head that a core chooses is dispatched. -/
theorem dispatch_of {core : Nat} {h : Head} (hc : s.choose core = some h) : exec (.dispatch core) s =
    event s (if s.lateDrop h then some (s.dropLate core h)
      else if (s.freeSlot core).isSome then some (s.start core h)
      else do
        let v ← s.victim core
        if s.marginMet v h then some ((s.preempt v).start core h) else none) := by
  show execDispatch core s = _
  unfold execDispatch
  rw [hc]
  rfl

end

theorem arrive_msg {s : State} {f : Flight} {m : Msg} (hm : f.item = .msg m) (he : s.elsewhere m.w0 = none) :
    s.arrive f = (s.removeFlight f.id).deliver f.die f.src m := by
  unfold State.arrive
  rw [hm]
  dsimp only
  rw [onward_here he]

/-- A message that its sender may send, for a live actor that bears its name. -/
theorem deliver_live {s : State} {die : Nat} {src : Word} {m : Msg} {a : Actor} (hh : isHostName m.w0 = false)
    (hs : isHardware m = true ∨ (reachable (nameJob src) m.w0 = true ∧ (calicoOnly m.w0 = true → nameJob src = 0)))
    (hp : s.poolOf m.w0 = none) (ha : s.entryOf m.w0 = some a) (hl : a.life = .live) (hi : incOk m.w0 a.inc = true) :
    s.deliver die src m = some (s.accept a m) := by
  have hmay : (!isHardware m && (!reachable (nameJob src) m.w0 || (calicoOnly m.w0 && nameJob src != 0))) = false := by
    rcases hs with h | ⟨h, hc⟩
    · simp [h]
    · cases hcal : calicoOnly m.w0
      · simp [h]
      · have h0 := hc hcal
        rw [h0] at h ⊢
        rw [h]
        simp
  unfold State.deliver
  simp only [hh, hmay, hp, ha, hl, hi, Bool.false_eq_true, if_false, if_true]

/-- A message whose name nothing bears, and that asked for no NOACTOR. -/
theorem deliver_nobody {s : State} {die : Nat} {src : Word} {m : Msg} (hh : isHostName m.w0 = false)
    (hp : s.poolOf m.w0 = none) (ha : s.entryOf m.w0 = none) (hf : msgFlag m 1 = false) : s.deliver die src m = some s := by
  have hno : s.noActor die m = s := by simp [State.noActor, hf]
  unfold State.deliver
  simp only [hh, hp, ha, hno, Bool.false_eq_true, if_false, ite_self]

/-- A mailbox's head leaves it. -/
theorem bears_pop {s : State} {a : Actor} {q : QMsg} {rest : List QMsg} (h : Bears s a.name a) (hq : a.onCore = q :: rest) :
    Bears (s.pop (.mailbox a.name q)) a.name { a with onCore := rest } := by
  have := bears_modActor h (f := fun a => if a.onCore.isEmpty then { a with spill := a.spill.drop 1 } else { a with onCore := a.onCore.drop 1 })
    fun a => by split <;> rfl
  rwa [hq] at this

/-- The activation that a head without a grant starts. -/
def startedAct (s : State) (core slot : Nat) (a : Actor) (q : QMsg) : Act :=
  entryState s.fresh.1 core slot 0 a.name a.image.entry { q with landed := true }

theorem begin_eq {s : State} {core k : Nat} (n e : Word) {q : QMsg} (hk : s.freeSlot core = some k) (hg : q.msg.grant = none) :
    s.begin core 0 n e { q with landed := true } =
      { s.fresh.2 with acts := s.acts ++ [entryState s.fresh.1 core k 0 n e { q with landed := true }] } := by
  have hmsg : ({ q.msg with grant := none } : Msg) = q.msg := by rw [← hg]
  unfold State.begin
  dsimp only
  rw [hmsg, show s.fresh.2.freeSlot core = some k from hk]
  rfl

theorem start_mailbox {s : State} {core k : Nat} {a : Actor} {q : QMsg} {rest : List QMsg} (h : Bears s a.name a) (hq : a.onCore = q :: rest)
    (hk : s.freeSlot core = some k) (hg : q.msg.grant = none) (hm : a.mirror = []) :
    s.start core (.mailbox a.name q) =
      { (s.pop (.mailbox a.name q)).fresh.2 with acts := s.acts ++ [startedAct s core k a q] } := by
  obtain ⟨-, hfind⟩ := bears_pop h hq
  have hland (u : State) : (if q.landed then (true, u) else u.land a.regions core q.msg) = (true, u) := by
    rw [State.land, hg]
    exact ite_self _
  unfold State.start
  dsimp only [Head.msg]
  rw [hfind]
  dsimp only
  rw [hland, hm]
  exact begin_eq (s := s.pop (.mailbox a.name q)) a.name a.image.entry hk hg

/-- An activation begins with its actor's name and its message's words in x3 to x10. -/
theorem startedAct_words (s : State) (core slot : Nat) (a : Actor) (q : QMsg) :
    (startedAct s core slot a q).getX 3 = a.name ∧ (startedAct s core slot a q).getX 4 = q.msg.w1 ∧
    (startedAct s core slot a q).getX 5 = q.msg.w2 ∧ (startedAct s core slot a q).getX 6 = q.msg.w3 ∧
    (startedAct s core slot a q).getX 7 = q.msg.w4 ∧ (startedAct s core slot a q).getX 8 = q.msg.w5 ∧
    (startedAct s core slot a q).getX 9 = q.msg.w6 ∧ (startedAct s core slot a q).getX 10 = q.msg.w7 := by
  simp [startedAct, entryState, Act.getX]

/-- Settles O50: each event by what heads the queue it serves. -/
theorem messageEvents : Obligations.MessageEvents := by
  intro s hr
  refine ⟨fun f m a hf hm hh he hs hp ha hi hb ht => ?_, fun f m hf hm hh he hp ha hfl => ?_, fun core a q rest hroom hfrom hb hq => ?_,
    fun core k a q rest hc hlate hk hg hmir hq hb => ?_, fun core a q rest hc hlate hq hb => ?_⟩
  · have harr : s.arrive f = some ((s.removeFlight f.id).accept a m) :=
      (arrive_msg hm he).trans (deliver_live (s := s.removeFlight f.id) hh hs hp ha ht.1 hi)
    obtain ⟨haside, hmail⟩ := accept_taken (s := s.removeFlight f.id) m hb ht
    exact ⟨_, messageArrival_of hr hf harr, aside_trans haside (settleLevels_aside _), hasMail_settleLevels hmail⟩
  · exact messageArrival_of hr hf ((arrive_msg hm he).trans (deliver_nobody (s := s.removeFlight f.id) hh hp ha hfl))
  · refine ⟨s.modActor a.name fun t => { t with onCore := t.onCore ++ t.spill.head?.toList, spill := t.spill.drop 1 }, ?_, ⟨rfl, rfl⟩, ?_⟩
    · show execMailboxRefill core s = _
      unfold execMailboxRefill
      rw [if_pos hroom, hfrom]
      exact event_some hr _
    · have := bears_modActor hb (f := fun t => { t with onCore := t.onCore ++ t.spill.head?.toList, spill := t.spill.drop 1 }) fun _ => rfl
      rwa [hq] at this
  · have hstart := start_mailbox (core := core) hb hq hk hg hmir
    refine ⟨s.start core (.mailbox a.name q), ?_, ?_⟩
    · rw [dispatch_of hc, hlate, if_neg Bool.false_ne_true, hk]
      exact event_some hr _
    · rw [hstart]
      obtain ⟨h3, h4⟩ := startedAct_words s core k a q
      refine ⟨⟨rfl, rfl⟩, bears_pop hb hq, _, rfl, rfl, rfl, rfl, rfl, rfl, ?_, rfl, rfl, h3, h4⟩
      rfl
  · refine ⟨s.dropLate core (.mailbox a.name q), ?_, ?_, ?_, ?_⟩
    · rw [dispatch_of hc, hlate]
      exact event_some hr _
    · exact settleLevels_aside _
    · exact settleLevels_acts _
    · exact bears_settleLevels (bears_pop hb hq)

end Sys2Proof.Machine
end


section
/-! O51: actors exit, hear of exits, and are restarted. -/

namespace Sys2Proof.Machine
open Sys2Proof.Safety

/-! ## What leaves every directory entry at its index -/

/-- The index that a directory entry stands for (02 R33). -/
def Actor.spot (a : Actor) : Half × Bool × Nat := (a.job, a.service, a.index)

/-- Neither the running activation nor memory has changed, and every directory entry stands for the index it stood for. -/
structure Posted (s t : State) : Prop where
  act : t.act = s.act
  mem : t.mem = s.mem
  spots : t.dir.actors.map Actor.spot = s.dir.actors.map Actor.spot

theorem Posted.refl (s : State) : Posted s s := ⟨rfl, rfl, rfl⟩

theorem Posted.trans {s t u : State} (h : Posted s t) (g : Posted t u) : Posted s u :=
  ⟨g.act.trans h.act, g.mem.trans h.mem, g.spots.trans h.spots⟩

theorem posted_foldl {α : Type} {f : State → α → State} (h : ∀ s a, Posted s (f s a)) (l : List α) (s : State) : Posted s (l.foldl f s) := by
  induction l generalizing s with
  | nil => exact .refl s
  | cons a l ih => exact (h s a).trans (ih _)

theorem modActor_posted (s : State) (n : Word) {f : Actor → Actor} (hf : ∀ a, (f a).spot = a.spot) : Posted s (s.modActor n f) := by
  refine ⟨rfl, rfl, ?_⟩
  show (mapIf (fun a => a.name == n) f s.dir.actors).map Actor.spot = _
  rw [mapIf, List.map_map]
  refine List.map_congr_left fun a _ => ?_
  show (if a.name == n then f a else a).spot = a.spot
  split
  · exact hf a
  · rfl

theorem modLinks_posted (s : State) (n : Word) (f : List LinkEntry → List LinkEntry) : Posted s (s.modLinks n f) :=
  (modActor_posted s n (f := fun a => { a with links := f a.links }) fun _ => rfl).trans ⟨rfl, rfl, rfl⟩

theorem fly_posted (s : State) (f : Flight) : Posted s (s.fly f) := ⟨rfl, rfl, rfl⟩

theorem hardSend_posted (s : State) (die : Nat) (m : Msg) : Posted s (s.hardSend die m) := ⟨rfl, rfl, rfl⟩

theorem noActor_posted (s : State) (die : Nat) (m : Msg) : Posted s (s.noActor die m) := by
  unfold State.noActor
  split
  · exact hardSend_posted _ _ _
  · exact .refl s

theorem dropHeld_posted (s : State) (die : Nat) (held : List QMsg) : Posted s (s.dropHeld die held) :=
  posted_foldl (f := fun s (q : QMsg) => s.noActor die q.msg) (fun s q => noActor_posted s die q.msg) held s

theorem exitSignals_posted (s : State) (die : Nat) (name : Word) (reason : Nat) (dropped : Word) (l : List LinkEntry) :
    Posted s (s.exitSignals die name reason dropped l) := by
  refine posted_foldl (fun s e => ?_) l s
  dsimp only
  cases e.type with
  | link =>
    dsimp only
    split
    · exact modLinks_posted _ _ _
    · exact fly_posted _ _
  | monitored => exact fly_posted _ _
  | monitor => exact modLinks_posted _ _ _

theorem tellMonitor_posted (s : State) (a : Actor) (dropped : Word) : Posted s (s.tellMonitor a dropped) := by
  unfold State.tellMonitor
  dsimp only
  split
  · exact .refl s
  · exact hardSend_posted _ _ _

theorem settleLevels_posted (s : State) : Posted s s.settleLevels :=
  ⟨settleLevels_act s, settleLevels_mem s, congrArg (List.map Actor.spot) (settleLevels_dir s).1⟩

theorem supNotice_posted (s : State) (a : Actor) (f : Word → Nat → Flight) : Posted s (match a.supervisor with
    | some (sup, i) => if a.quiet then s else s.fly (f sup i)
    | none => s) := by
  split
  · split
    · exact .refl s
    · exact fly_posted _ _
  · exact .refl s

/-! ## An exit (02 R66) -/

theorem zeroPool_cells (s : State) (core off n : Nat) {c : Nat × Byte} (h : c ∈ (s.zeroPool core off n).mem.cells) : c ∈ s.mem.cells :=
  (List.mem_filter.1 h).1

/-- What a region's scrub zeroes. -/
def State.scrubRegion (core : Nat) (s : State) (r : Region) : State := if r.state = .empty then s else s.zeroPool core r.offset r.size

theorem scrubRegion_eq (core : Nat) (s : State) (r : Region) : ∃ mem, State.scrubRegion core s r = { s with mem := mem } := by
  unfold State.scrubRegion
  split
  · exact ⟨s.mem, rfl⟩
  · exact ⟨_, rfl⟩

theorem scrubRegions_zero (core k : Nat) (l : List Region) (s : State) (h : ∀ c ∈ s.mem.cells, c.1 ≠ k) :
    ∀ c ∈ (l.foldl (State.scrubRegion core) s).mem.cells, c.1 ≠ k := by
  induction l generalizing s with
  | nil => exact h
  | cons r l ih =>
    refine ih _ fun c hc => ?_
    unfold State.scrubRegion at hc
    split at hc
    · exact h c hc
    · exact h c (zeroPool_cells _ _ _ _ hc)

theorem scrubRegions_region {core k : Nat} {l : List Region} {g : Region} (hg : g ∈ l) (hs : g.state ≠ .empty) (s : State)
    (h1 : poolKey core g.offset ≤ k) (h2 : k < poolKey core g.offset + g.size) :
    ∀ c ∈ (l.foldl (State.scrubRegion core) s).mem.cells, c.1 ≠ k := by
  induction l generalizing s with
  | nil => cases hg
  | cons r l ih =>
    rcases List.mem_cons.1 hg with rfl | hg'
    · refine scrubRegions_zero core k l _ fun c hc hk => ?_
      rw [State.scrubRegion, if_neg hs] at hc
      have := (List.mem_filter.1 hc).2
      rw [hk, Bool.or_eq_true, decide_eq_true_iff, decide_eq_true_iff] at this
      omega
    · exact ih hg' _

theorem scrubRegions_eq (core : Nat) (l : List Region) (s : State) : ∃ mem, l.foldl (State.scrubRegion core) s = { s with mem := mem } := by
  induction l generalizing s with
  | nil => exact ⟨s.mem, rfl⟩
  | cons r l ih =>
    obtain ⟨m, hm⟩ := scrubRegion_eq core s r
    obtain ⟨m', hm'⟩ := ih { s with mem := m }
    exact ⟨m', by rw [List.foldl_cons, hm, hm']⟩

/-- What a place's scrub zeroes. -/
def State.scrubPlace (s : State) (p : Nat × Vector Region 8) : State := p.2.toList.foldl (State.scrubRegion p.1) s

theorem scrub_eq (l : List (Nat × Vector Region 8)) (s : State) : ∃ mem, s.scrub l = { s with mem := mem } := by
  show ∃ mem, l.foldl State.scrubPlace s = _
  induction l generalizing s with
  | nil => exact ⟨s.mem, rfl⟩
  | cons p l ih =>
    obtain ⟨m, hm⟩ : ∃ mem, s.scrubPlace p = { s with mem := mem } := scrubRegions_eq p.1 _ s
    obtain ⟨m', hm'⟩ := ih { s with mem := m }
    exact ⟨m', by rw [List.foldl_cons, hm, hm']⟩

/-- A scrub zeroes every region of every place. -/
theorem scrub_zero {l : List (Nat × Vector Region 8)} {p : Nat × Vector Region 8} {g : Region} {k : Nat} (hp : p ∈ l) (hg : g ∈ p.2.toList)
    (hs : g.state ≠ .empty) (s : State) (h1 : poolKey p.1 g.offset ≤ k) (h2 : k < poolKey p.1 g.offset + g.size) :
    look 0 (s.scrub l).mem.cells k = 0 := by
  refine look_unlisted 0 ?_
  show ∀ c ∈ (l.foldl State.scrubPlace s).mem.cells, c.1 ≠ k
  have hstay (l : List (Nat × Vector Region 8)) (s : State) (h : ∀ c ∈ s.mem.cells, c.1 ≠ k) :
      ∀ c ∈ (l.foldl State.scrubPlace s).mem.cells, c.1 ≠ k := by
    induction l generalizing s with
    | nil => exact h
    | cons p l ih => exact ih _ (scrubRegions_zero p.1 k _ s h)
  induction l generalizing s with
  | nil => cases hp
  | cons q l ih =>
    rcases List.mem_cons.1 hp with rfl | hp'
    · exact hstay l _ (scrubRegions_region hg hs s h1 h2)
    · exact ih hp' _

theorem placesOf_own {s : State} {a : Actor} (h : Bears s a.name a) (hp : s.poolOf a.name = none) : (a.core, a.regions) ∈ s.placesOf a.name := by
  rw [State.placesOf, hp]
  refine List.mem_flatMap.2 ⟨a, List.mem_filter.2 ⟨List.mem_of_find?_eq_some h.2, beq_self_eq_true _⟩, List.mem_cons_self⟩

/-- The entry of an index removed, none stands for it. -/
theorem removeActor_gone (s : State) (a : Actor) : ∀ x ∈ (s.removeActor a).dir.actors.map Actor.spot, x ≠ a.spot := by
  intro x hx he
  rw [State.removeActor, (dropHeld_posted _ (dieOf a.core) a.held).spots] at hx
  obtain ⟨y, hy, rfl⟩ := List.mem_map.1 hx
  have hn : (!(y.job == a.job && y.service == a.service && y.index == a.index)) = true := (List.mem_filter.1 hy).2
  obtain ⟨h1, h2, h3⟩ : y.job = a.job ∧ y.service = a.service ∧ y.index = a.index := by
    simpa only [Actor.spot, Prod.mk.injEq] using he
  rw [h1, h2, h3] at hn
  simp at hn

theorem removeActor_mem (s : State) (a : Actor) : (s.removeActor a).act = s.act ∧ (s.removeActor a).mem = s.mem := by
  rw [State.removeActor]
  exact ⟨(dropHeld_posted _ _ _).act, (dropHeld_posted _ _ _).mem⟩

/-- What an exit with no heir removes and zeroes; the rest of it is messages. -/
theorem exitAs_gone {s : State} {a : Actor} {reason : Nat} (dropped : Word) (hh : s.heir a reason = none) (hrec : a.record = none) :
    Posted (((s.scrub (s.placesOf a.name)).dropPorts fun p => p.actor == a.name).removeActor a) (s.exitAs a reason dropped) := by
  unfold State.exitAs
  dsimp only
  rw [hh, hrec]
  dsimp only
  generalize ((s.scrub (s.placesOf a.name)).dropPorts fun p => p.actor == a.name).removeActor a = u
  refine ((exitSignals_posted u (dieOf a.core) a.name reason dropped a.links).trans ?_).trans (settleLevels_posted _)
  generalize u.exitSignals (dieOf a.core) a.name reason dropped a.links = v
  exact (supNotice_posted v a fun sup i => { id := 0, src := a.name, dst := sup, die := dieOf a.core, item := .supNotice i reason dropped }).trans
    (tellMonitor_posted _ a dropped)

theorem actorExit_of {s : State} {a : Actor} {r : Nat} (hr : Running s) (hb : Bears s a.name a) (hl : a.life = .exiting r)
    (hn : r ≠ 0 ∨ s.lingering a.name = false) : exec (.actorExit a.name) s = .next (s.exitActor a r) := by
  obtain ⟨hk, hfind⟩ := hb
  have hpool : (s.dir.pools.find? fun p => p.name == a.name && nameKind a.name == 1) = none :=
    List.find?_eq_none.2 fun p _ => by rw [beq_eq_false_iff_ne.2 hk, Bool.and_false]; exact Bool.false_ne_true
  have hgo : (decide (r = 0) && s.lingering a.name) = false := by
    rcases hn with h | h
    · simp [h]
    · simp [h]
  show execActorExit a.name s = _
  unfold execActorExit
  rw [hpool]
  dsimp only
  rw [hfind]
  dsimp only
  rw [hl]
  dsimp only
  rw [hgo, if_neg Bool.false_ne_true]
  exact event_some hr _

/-! ## Signals (03 R71, R73) -/

theorem poolOf_modPool_none {s : State} {n : Word} {f : Pool → Pool} (hf : ∀ p, (f p).job = p.job ∧ (f p).index = p.index) {m : Word}
    (h : s.poolOf m = none) : (s.modPool n f).poolOf m = none := by
  have hfind (i : Nat) : (mapIf (fun p => p.name == n) f s.dir.pools).find? (fun p => p.job == nameJob m && p.index == i) =
      (s.dir.pools.find? fun p => p.job == nameJob m && p.index == i).map fun p => if p.name == n then f p else p :=
    find?_mapIf _ fun p _ => by rw [(hf p).1, (hf p).2]
  rw [State.poolOf, Option.bind_eq_none_iff] at h ⊢
  intro i hi
  exact (hfind i).trans (by rw [h i hi]; rfl)

theorem poolOf_modLinks_none {s : State} {n m : Word} {f : List LinkEntry → List LinkEntry} (h : s.poolOf m = none) :
    (s.modLinks n f).poolOf m = none := poolOf_modPool_none (s := s.modActor n fun a => { a with links := f a.links }) (f := fun p => { p with links := f p.links }) (fun _ => ⟨rfl, rfl⟩) h

theorem bears_modLinks {s : State} {n : Word} {a : Actor} (h : Bears s n a) (f : List LinkEntry → List LinkEntry) :
    Bears (s.modLinks n f) n { a with links := f a.links } := bears_modActor h (f := fun a => { a with links := f a.links }) fun _ => rfl

theorem exitSignalArrival_of {s t : State} {f : Flight} (hr : Running s) (hf : Arrives s f) (ht : s.takeSignal f = some t) :
    exec (.exitSignalArrival f.id) s = .next t.settleLevels := by
  obtain ⟨hfind, hready⟩ := hf
  show execExitSignalArrival f.id s = _
  unfold execExitSignalArrival
  rw [hfind]
  show event s (if s.flightReady f then (s.takeSignal f).map State.settleLevels else none) = _
  rw [hready, if_pos rfl, ht]
  exact event_some hr _

/-- A kill of a live actor makes it exit. -/
theorem killActor_exiting {s : State} {n : Word} {me : Actor} (hb : Bears s n me) (hp : s.poolOf n = none) (hl : me.life = .live) (r : Nat) :
    Bears (s.killActor n r) n { me with life := .exiting r } := by
  obtain ⟨ps, h⟩ := killActor_down r (killable_live hp hb.2 hl)
  rw [h]
  exact ⟨hb.1, takeDown_actor (s := { s with parts := ps }) hb.2⟩

theorem takeSignal_kill {s : State} {f : Flight} {r : Nat} {n : Word} (hi : f.item = .kill r) (hk : s.killTarget f.src f.dst = some n) :
    s.takeSignal f = some ((s.removeFlight f.id).killActor n r) := by
  have hk' : (s.removeFlight f.id).killTarget f.src f.dst = some n := hk
  unfold State.takeSignal
  rw [hi]
  dsimp only [Item.abroad]
  cases s.onward f.src f.dst <;>
    · dsimp only
      rw [hk']

section
variable {s : State} {f : Flight} {me : Actor} {r : Nat} {dropped : Word} (hb : Bears s f.dst me) (hp : s.poolOf f.dst = none)
  (he : s.elsewhere f.dst = none) (hi : f.item = .exitSignal r dropped) (hl : me.life = .live)
  (hlink : ∃ e ∈ me.links, e.partner = f.src ∧ e.type = .link)
include hb hp he hi hl hlink

/-- A signal of a partner finds its link, and removes it. -/
theorem takeSignal_exit :
    let t := (s.removeFlight f.id).modLinks f.dst (dropEntry f.src .link none)
    s.takeSignal f = some (if t.trapsExits f.dst then t.receive f.dst f.die { hwMsg f.dst f.src 0xFF01 none (BitVec.ofNat 64 r) dropped 0 with epoch := f.epoch }
      else t.killActor f.dst 13) := by
  intro t
  have hkill : (s.removeFlight f.id).killable f.dst = true := killable_live (s := s.removeFlight f.id) hp hb.2 hl
  have hlinks : (s.removeFlight f.id).linksOf f.dst = me.links := by
    rw [State.linksOf, show (s.removeFlight f.id).poolOf f.dst = none from hp]
    show ((s.dir.actors.find? _).map (·.links)).getD [] = _
    rw [hb.2]
    rfl
  have hholds : (me.links.any fun e => e.partner == f.src && e.type == .link && ((none : Option Word32) == none || (none : Option Word32) == some e.ref)) = true := by
    obtain ⟨e, hm, h1, h2⟩ := hlink
    exact List.any_eq_true.2 ⟨e, hm, by rw [h1, h2]; simp⟩
  unfold State.takeSignal
  dsimp only
  rw [onward_here he]
  dsimp only
  rw [hi]
  dsimp only
  rw [hlinks]
  exact if_neg (by rw [hkill, hholds]; exact Bool.false_ne_true)

end

theorem trapsExits_modLinks {s : State} {n m : Word} {f : List LinkEntry → List LinkEntry} (hp : s.poolOf m = none) :
    (s.modLinks n f).trapsExits m = s.trapsExits m := by
  rw [State.trapsExits, State.trapsExits, hp, poolOf_modLinks_none hp]
  show (mapIf (fun a => a.name == n) (fun a => { a with links := f a.links }) s.dir.actors).any (fun a => a.name == m && a.trapx) =
    s.dir.actors.any fun a => a.name == m && a.trapx
  rw [mapIf, List.any_map]
  refine congrArg s.dir.actors.any (funext fun a => ?_)
  rw [Function.comp_apply]
  cases a.name == n with
  | true => rfl
  | false => rfl

theorem mailUsed_modLinks (s : State) (n : Word) (f : List LinkEntry → List LinkEntry) (core : Nat) :
    (s.modLinks n f).mailUsed core = s.mailUsed core := by
  rw [← mailUsed_modActor s n (f := fun a => { a with links := f a.links }) (fun _ => rfl) (fun _ => rfl) (fun _ => rfl) core]
  rfl

/-- A live actor whose mailbox has room receives a message. -/
theorem receive_taken {s : State} {n : Word} {die : Nat} {a : Actor} (m : Msg) (hb : Bears s n a) (hp : s.poolOf n = none) (ht : TakesMail s a) :
    Aside s (s.receive n die m) ∧ HasMail s (s.receive n die m) a m := by
  have hn : a.name = n := beq_iff_eq.1 (List.find?_some (p := fun x : Actor => x.name == n) hb.2)
  have hrec : s.receive n die m = s.accept a m := by
    rw [State.receive, hp]
    dsimp only
    rw [hb.2]
    dsimp only
    rw [ht.1]
    rfl
  rw [hrec]
  exact accept_taken m (hn ▸ hb) ht

/-! ## Restarts (03 R80) -/

/-- The first of a list that passes one test, where that one passes another too, is the first that passes both. -/
theorem find?_and {α : Type} {l : List α} {p q : α → Bool} {a : α} (h : l.find? p = some a) (hq : q a = true) :
    l.find? (fun x => p x && q x) = some a := by
  induction l with
  | nil => cases h
  | cons b l ih =>
    rw [List.find?_cons] at h ⊢
    cases hp : p b with
    | true =>
      rw [hp] at h
      obtain rfl := Option.some.inj h
      rw [hq]
      rfl
    | false =>
      rw [hp] at h
      exact ih h

theorem recordOf_live {s : State} {n : Word} {me : Actor} (hb : Bears s n me) (hp : s.poolOf n = none) (hl : me.life = .live) :
    s.recordOf n = me.record := by
  rw [State.recordOf, hp]
  dsimp only
  rw [find?_and (q := fun a : Actor => a.life == .live || a.life == .saved) hb.2 (by rw [hl]; rfl)]
  rfl

theorem bears_modRecord {s : State} {n : Word} {a : Actor} (h : Bears s n a) (f : SupRec → SupRec) :
    Bears (s.modRecord n f) n { a with record := a.record.map f } :=
  bears_modActor h (f := fun a => { a with record := a.record.map f }) fun _ => rfl

theorem modRecord_aside (s : State) (n : Word) (f : SupRec → SupRec) : Aside s (s.modRecord n f) := ⟨rfl, rfl⟩

/-- An index marked restarting leaves who is in the directory as it is. -/
theorem markRestarting_bears {s : State} {n : Word} {a : Actor} (h : Bears s n a) (job : Half) (img : Image) (sup : Word) (i : Nat) :
    Bears (s.markRestarting job img sup i) n a ∧ Aside s (s.markRestarting job img sup i) := by
  unfold State.markRestarting
  split
  · exact ⟨h, rfl, rfl⟩
  next hnone =>
    have hany : s.dir.actors.any (fun t => t.job == job && t.service == (job == 0) && t.index == img.index) = false :=
      List.any_eq_false.2 fun t ht => List.find?_eq_none.1 hnone t ht
    dsimp only
    split
    · refine ⟨⟨h.1, ?_⟩, rfl, rfl⟩
      show (if s.dir.actors.any (fun t => t.job == job && t.service == (job == 0) && t.index == img.index) then _ else _ : List Actor).find? _ = _
      rw [hany, if_neg Bool.false_ne_true]
      exact find?_append_left h.2
    · exact ⟨h, rfl, rfl⟩

/-- One child of a record changed. -/
theorem children_getD {l : List Child} {i : Nat} (h : i < l.length) (f : Child → Child) :
    (l.zipIdx.map fun t => if t.2 = i then f t.1 else t.1).getD i default = f (l.getD i default) := by
  rw [List.getD_eq_getElem?_getD, List.getD_eq_getElem?_getD, List.getElem?_map, List.getElem?_zipIdx, List.getElem?_eq_getElem h]
  simp

/-- The child that is to be placed again. -/
def Child.owing (c : Child) (reason : Nat) : Child := { c with owed := some (c.owed.getD reason), placed := false, copied := [], rooms := [] }

/-- A child is owed a placement. -/
theorem owe_bears {s : State} {n : Word} {me : Actor} (hb : Bears s n me) (r : SupRec) (i reason : Nat) :
    Bears (s.owe n r i reason) n { me with record := me.record.map fun r =>
      { r with children := r.children.zipIdx.map fun t => if t.2 = i then t.1.owing reason else t.1 } } ∧ Aside s (s.owe n r i reason) := by
  obtain ⟨h1, h2⟩ := markRestarting_bears (bears_modRecord hb fun r => { r with children := r.children.zipIdx.map fun t => if t.2 = i then t.1.owing reason else t.1 })
    (nameJob n) (r.children.getD i default).image n i
  exact ⟨h1, h2⟩

section
variable {s : State} {sup child : Word} {me : Actor} {rec : SupRec} {i reason : Nat} (hb : Bears s sup me) (hp : s.poolOf sup = none)
  (hl : me.life = .live) (hrec : me.record = some rec)
include hb hp hl hrec

/-- A child that calls for a restart, within its supervisor's intensity, is owed a placement. -/
theorem notice_owes (hg : rec.group = false) (hn : (rec.children.getD i default).owed = none)
    (hinc : ∀ a, s.entryAt (nameJob sup) (nameJob sup == 0) (rec.children.getD i default).image.index = some a → a.inc = nameInc child)
    (hcall : callsRestart (rec.children.getD i default) reason = true)
    (hint : rec.intensity = 0 ∨ rec.recent s.env.time < rec.intensity) (die : Nat) (dropped : Word) :
    s.notice sup child die i reason dropped =
      (s.modRecord sup fun r => { r with restarts := r.restarts ++ [s.env.time] }).owe sup rec i reason := by
  have hrepl : (s.entryAt (nameJob sup) (nameJob sup == 0) (rec.children.getD i default).image.index).any
      (fun a => a.inc != nameInc child && a.supervisor == some (sup, i)) = false := by
    cases he : s.entryAt (nameJob sup) (nameJob sup == 0) (rec.children.getD i default).image.index with
    | none => rfl
    | some a => simp [hinc a he]
  have hlim : ¬(rec.intensity ≠ 0 ∧ rec.intensity ≤ rec.recent s.env.time) := by omega
  unfold State.notice
  rw [recordOf_live hb hp hl, hrec]
  dsimp only
  rw [hn, hrepl, hcall, if_neg hlim, hg]
  rfl

end

theorem restartNotice_of {s : State} {f : Flight} {i reason : Nat} {dropped : Word} (hr : Running s) (hf : Arrives s f)
    (hi : f.item = .supNotice i reason dropped) :
    exec (.restartNotice f.id) s = .next ((s.removeFlight f.id).notice f.dst f.src f.die i reason dropped).settleLevels := by
  obtain ⟨hfind, hready⟩ := hf
  show execRestartNotice f.id s = _
  unfold execRestartNotice
  rw [hfind, Option.bind_eq_bind, Option.bind_some]
  rw [hi]
  dsimp only
  rw [hready, if_pos rfl]
  exact event_some hr _

/-! ## A child placed (03 R84) -/

theorem putActor_entryAt (s : State) (a : Actor) : (s.putActor a).entryAt a.job a.service a.index = some a := by
  let same : Actor → Bool := fun t => t.job == a.job && t.service == a.service && t.index == a.index
  have hself : same a = true := by simp [same]
  show (if s.dir.actors.any same then mapIf same (fun _ => a) s.dir.actors else s.dir.actors ++ [a]).find? same = some a
  cases hany : s.dir.actors.any same with
  | true =>
    rw [if_pos rfl, find?_mapIf _ fun x hx => hself.trans hx.symm]
    obtain ⟨x, hx⟩ := Option.isSome_iff_exists.1 (List.find?_isSome.2 (List.any_eq_true.1 hany))
    rw [hx, Option.map_some, if_pos (List.find?_some hx)]
  | false =>
    rw [if_neg Bool.false_ne_true, List.find?_append, List.find?_eq_none.2 (List.any_eq_false.1 hany)]
    rw [Option.none_or, List.find?_cons, hself]

/-- An actor installed on one core has its index's entry. -/
theorem install_entryAt (s : State) (job : Half) (img : Image) (room : Room) (data : List (List Byte × Bool)) (sup : Option (Word × Nat)) :
    ∃ u, s.install job img [room] data sup = some (newActor s job img room sup, u) ∧ u.act = s.act ∧ u.wire = s.wire ∧ u.env = s.env ∧
      u.entryAt job (job == 0) img.index = some (newActor s job img room sup) := by
  obtain ⟨mem, hm⟩ := fillRoom_eq s img room data
  refine ⟨_, rfl, ?_, ?_, ?_, putActor_entryAt _ (newActor s job img room sup)⟩
  all_goals
    rw [List.foldl_cons, List.foldl_nil, hm]
    rfl

theorem entryAt_modRecord {s : State} {n : Word} {f : SupRec → SupRec} {job : Half} {service : Bool} {index : Nat} {a : Actor}
    (h : s.entryAt job service index = some a) :
    ∃ r, (s.modRecord n f).entryAt job service index = some { a with record := r } := by
  have := find?_mapIf (p := fun a : Actor => a.name == n) (q := fun t : Actor => t.job == job && t.service == service && t.index == index)
    (f := fun a => { a with record := a.record.map f }) s.dir.actors fun _ _ => rfl
  rw [show s.dir.actors.find? _ = some a from h, Option.map_some] at this
  refine (em ((a.name == n) = true)).elim (fun hn => ⟨a.record.map f, this.trans ?_⟩) (fun hn => ⟨a.record, this.trans ?_⟩)
  · rw [if_pos hn]
  · rw [if_neg hn]

theorem resendFaults_job (s : State) {a : Actor} (h : a.job ≠ 0) : s.resendFaults a = s := by
  unfold State.resendFaults
  rw [beq_eq_false_iff_ne.2 h, Bool.and_false, if_neg Bool.false_ne_true]

/-- What RESTARTED says (03 R84). -/
def State.restarted (s : State) (sup : Word) (die i reason dropped : Nat) (a : Actor) : Flight :=
  { id := 0, src := engineName sup, dst := sup, die := die
    item := .msg (s.stamped (hwMsg sup a.name 0xFF03 none (BitVec.ofNat 64 reason) (BitVec.ofNat 64 i) (BitVec.ofNat 64 dropped))) }

section
variable {s : State} {sup : Word} {i reason : Nat} {rec : SupRec} {c : Child} {a : Actor} {how : Nat} {room : Room}
  (hrec : s.recordOf sup = some rec) (hc : rec.children.getD i default = c) (hj : nameJob sup ≠ 0) (ho : c.owed = some reason)
  (hm : c.mirror = false) (hrooms : c.rooms = []) (hinit : initPieces c.image = [])
  (ha : s.entryAt (nameJob sup) false c.image.index = some a) (hl : a.life = .restarting how) (hs : a.supervisor = some (sup, i))
  (hheld : a.held = []) (hx : s.xlat.tickets.any (fun t => t.restarts.contains (sup, i)) = false)
  (hroom : s.findRoom c.image (s.coresFor (nameJob sup) c.image.service) (s.lastDieOf (nameJob sup) false c.image.index) = some room)
include hrec hc hj ho hm hrooms hinit ha hl hs hheld hx hroom

/-- A child with nothing to copy is placed at once. -/
theorem tryPlace_places : ∃ u : State, u.act = s.act ∧ u.wire = s.wire ∧ u.env = s.env ∧
    u.entryAt (nameJob sup) false c.image.index = some (newActor s (nameJob sup) c.image room (some (sup, i))) ∧
    s.tryPlace sup i = some (
      let v := (u.modChild sup i fun c => { c with owed := none, placed := true, copied := [], rooms := [] }).dropKept (s.supervisorWho sup i)
      v.fly (v.restarted sup (s.supervisorWho sup i).die i reason a.heldDropped (newActor s (nameJob sup) c.image room (some (sup, i))))) := by
  have hjob : (nameJob sup == 0) = false := beq_eq_false_iff_ne.2 hj
  let t := s.modChild sup i fun c => { c with copied := c.copied ++ [], rooms := [room] }
  obtain ⟨u, hu, h1, h2, h3, h4⟩ : ∃ u, t.install (nameJob sup) c.image [room] ((c.copied ++ []).take 0) (some (sup, i)) =
      some (newActor s (nameJob sup) c.image room (some (sup, i)), u) ∧ u.act = t.act ∧ u.wire = t.wire ∧ u.env = t.env ∧
      u.entryAt (nameJob sup) (nameJob sup == 0) c.image.index = some (newActor s (nameJob sup) c.image room (some (sup, i))) :=
    install_entryAt t _ _ _ _ _
  rw [hjob] at h4
  refine ⟨u, h1, h2, h3, h4, ?_⟩
  have hcr : s.childRooms (nameJob sup) c (s.lastDieOf (nameJob sup) false c.image.index) = some [room] := by
    rw [State.childRooms, hrooms, State.roomsFor, hroom, hm]
    rfl
  unfold State.tryPlace
  rw [hrec]
  dsimp only
  rw [hc, ho]
  dsimp only
  rw [hjob, ha, hcr, hx, hinit, List.drop_nil]
  refine (if_neg (by rw [Option.any_some, hl, hs]; simp)).trans ?_
  dsimp only [State.copyPieces, List.length_nil]
  rw [hu]
  dsimp only
  rw [Option.map_some, Option.map_some, hheld]
  exact congrArg some (resendFaults_job _ hj)

end

theorem hwMsg_kind (dst w1 p0 p1 p2 : Word) {kind : Nat} (h : kind < 65536) : msgKind (hwMsg dst w1 kind none p0 p1 p2) = kind := by
  show ((0 : Word) ||| BitVec.ofNat 64 kind).toNat % 65536 = kind
  rw [BitVec.toNat_or, BitVec.toNat_ofNat]
  show (0 ||| kind % 2 ^ 64) % 65536 = kind
  rw [Nat.zero_or]
  omega

theorem sends_fly {s u : State} {f : Flight} {p : Flight → Prop} (h : u.wire.flights = s.wire.flights) (hp : p { f with id := u.fresh.1 }) :
    Sends s (u.fly f) p := by
  refine ⟨_, ?_, hp⟩
  show u.wire.flights ++ _ = _
  rw [h]
  rfl

theorem sends_restarted {s v : State} (h : v.wire.flights = s.wire.flights) (sup : Word) (die i reason dropped : Nat) (a : Actor) :
    Sends s (v.fly (v.restarted sup die i reason dropped a)) fun f => f.dst = sup ∧ ∃ m, f.item = .msg m ∧ msgKind m = 0xFF03 :=
  sends_fly h ⟨rfl, _, rfl, hwMsg_kind sup a.name (BitVec.ofNat 64 reason) (BitVec.ofNat 64 i) (BitVec.ofNat 64 dropped) (by decide)⟩

theorem restartPlacement_of {s t : State} {sup : Word} {i : Nat} {rec : SupRec} {a : Actor} (hr : Running s) (hrec : s.recordOf sup = some rec)
    (hi : i < rec.children.length) (hj : nameJob sup ≠ 0) (ho : (rec.children.getD i default).owed.isSome = true)
    (ha : s.entryAt (nameJob sup) false (rec.children.getD i default).image.index = some a) (hb : s.behindSibling sup i = false)
    (ht : s.tryPlace sup i = some t) : exec (.restartPlacement sup i) s = .next t := by
  have hc : rec.children[i]? = some (rec.children.getD i default) := by
    rw [List.getD_eq_getElem?_getD, List.getElem?_eq_getElem hi]
    rfl
  have hmark : s.markRestarting (nameJob sup) (rec.children.getD i default).image sup i = s := by
    unfold State.markRestarting
    rw [beq_eq_false_iff_ne.2 hj, ha]
  show execRestartPlacement sup i s = _
  unfold execRestartPlacement
  rw [hrec, Option.bind_eq_bind, Option.bind_some, hc, Option.bind_eq_bind, Option.bind_some, if_pos ho, hmark, State.placeChild, hb,
    if_neg Bool.false_ne_true, ht]
  exact event_some hr _

/-! ## Digests that agree (03 R86) -/

theorem mirrorDigestCompare_agrees {s : State} {a : Actor} {m : Mirror} {d : List Byte} (hr : Running s) (hb : Bears s a.name a) (hl : a.life = .live)
    (hd : a.digest = some d) (h1 : a.mirror.find? (fun x => x.run == 1) = some m) (hm : m.digest = some d)
    (h2 : a.mirror.find? (fun x => x.run == 2) = none) : exec (.mirrorDigestCompare a.name) s = .next (s.agree a.name) := by
  have hcmp : s.compare a = some (s.agree a.name) := by
    unfold State.compare
    rw [hd, Option.bind_eq_bind, Option.bind_some, h1, Option.bind_eq_bind, Option.bind_some, hm, Option.bind_some, h2]
    exact if_pos rfl
  show execMirrorDigestCompare a.name s = _
  unfold execMirrorDigestCompare
  rw [find?_and (q := fun a : Actor => a.life == .live) hb.2 (by rw [hl]; rfl), Option.bind_eq_bind, Option.bind_some, hcmp]
  exact event_some hr _

/-- Settles O51: exits, signals, notices and placements, each by what its event finds in the directory. -/
theorem exitAndRestartEvents : Obligations.ExitAndRestartEvents := by
  intro s hr
  refine ⟨fun a r hb hl hn hp hh hrec => ?_, fun f me r hf hb hp hl hi hk => ?_, fun f me r dropped hf hb hp he hi hl hlink => ⟨fun ht => ?_, fun ht hm => ?_⟩,
    ?_, ?_, fun a m d hb hl hd h1 hm h2 => ?_⟩
  · have hpost := exitAs_gone (BitVec.ofNat 64 (a.onCore.length + a.spill.length + a.again.length)) hh hrec
    obtain ⟨mem, hscrub⟩ := scrub_eq (s.placesOf a.name) s
    obtain ⟨hact, hmem⟩ := removeActor_mem ((s.scrub (s.placesOf a.name)).dropPorts fun p => p.actor == a.name) a
    refine ⟨_, actorExit_of hr hb hl hn, ?_, fun x hx hs => ?_, fun g hg hne k h1 h2 => ?_⟩
    · rw [State.exitActor, hpost.act, hact, hscrub]
      rfl
    · have := List.mem_map_of_mem (f := Actor.spot) hx
      rw [State.exitActor, hpost.spots] at this
      exact removeActor_gone _ a _ this (by rw [Actor.spot, hs.1, hs.2.1, hs.2.2]; rfl)
    · rw [State.exitActor, hpost.mem, hmem]
      exact scrub_zero (placesOf_own hb hp) hg hne s h1 h2
  · exact ⟨_, exitSignalArrival_of hr hf (takeSignal_kill hi hk), _,
      bears_settleLevels (killActor_exiting (s := s.removeFlight f.id) hb hp hl r), rfl⟩
  · have hx := takeSignal_exit hb hp he hi hl hlink
    dsimp only at hx
    rw [trapsExits_modLinks (s := s.removeFlight f.id) hp, show (s.removeFlight f.id).trapsExits f.dst = false from ht] at hx
    exact ⟨_, exitSignalArrival_of hr hf hx, _, bears_settleLevels (killActor_exiting (bears_modLinks (s := s.removeFlight f.id) hb _)
      (poolOf_modLinks_none (s := s.removeFlight f.id) hp) hl 13), rfl⟩
  · have hx := takeSignal_exit hb hp he hi hl hlink
    dsimp only at hx
    rw [trapsExits_modLinks (s := s.removeFlight f.id) hp, show (s.removeFlight f.id).trapsExits f.dst = true from ht, if_pos rfl] at hx
    have htake : TakesMail ((s.removeFlight f.id).modLinks f.dst (dropEntry f.src .link none))
        { me with links := dropEntry f.src .link none me.links } :=
      ⟨hm.1, hm.2.1, by rw [mailUsed_modLinks]; exact hm.2.2⟩
    obtain ⟨haside, hmail⟩ := receive_taken (die := f.die) { hwMsg f.dst f.src 0xFF01 none (BitVec.ofNat 64 r) dropped 0 with epoch := f.epoch }
      (bears_modLinks (s := s.removeFlight f.id) hb _) (poolOf_modLinks_none (s := s.removeFlight f.id) hp) htake
    exact ⟨_, exitSignalArrival_of hr hf hx, aside_trans haside (settleLevels_aside _), hasMail_settleLevels hmail⟩
  · intro f me rec child reason dropped hf hb hp hl hrec hg hi hlen c hinc hn hcall hint
    refine ⟨_, restartNotice_of hr hf hi, ?_⟩
    rw [notice_owes (s := s.removeFlight f.id) hb hp hl hrec hg hn hinc hcall hint]
    obtain ⟨hb', ha'⟩ := owe_bears (bears_modRecord (s := s.removeFlight f.id) hb fun r => { r with restarts := r.restarts ++ [s.env.time] }) rec child reason
    simp only [hrec, Option.map_some] at hb'
    refine ⟨aside_trans ha' (settleLevels_aside _), _, _, bears_settleLevels hb', rfl, rfl, ?_⟩
    · refine (children_getD hlen fun c => c.owing reason).trans ?_
      show c.owing reason = _
      rw [Child.owing, hn]
      rfl
  · intro sup child rec reason a how room hrec hlen hj c ho hbe hm hrooms hinit ha hl hs hheld hx hroom
    obtain ⟨u, h1, h2, h3, h4, h5⟩ := tryPlace_places hrec rfl hj ho hm hrooms hinit ha hl hs hheld hx hroom
    obtain ⟨r, h6⟩ := entryAt_modRecord (n := sup) (f := fun r => { r with children := r.children.zipIdx.map fun t =>
      if t.2 = child then { t.1 with owed := none, placed := true, copied := [], rooms := [] } else t.1 }) h4
    refine ⟨_, restartPlacement_of hr hrec hlen hj (by rw [show (rec.children.getD child default).owed = some reason from ho]; rfl) ha hbe h5, h1,
      ⟨_, h6, rfl, rfl, rfl, rfl, rfl, ?_⟩,
      sends_restarted (congrArg Wire.flights h2) _ _ _ _ _ _⟩
    show s.nextInc (nameJob sup) (nameJob sup == 0) c.image.index = _
    rw [beq_eq_false_iff_ne.2 hj]
  · refine ⟨_, mirrorDigestCompare_agrees hr hb hl hd h1 hm h2, rfl, ?_, _,
      bears_modActor (s := { s with act := _, acts := _ }) hb (f := fun a => { a with digest := none, mirror := a.mirror.map fun m => { m with digest := none } }) fun _ => rfl, rfl, ?_⟩
    · show (if s.act.name == a.name && s.act.wait == .digest then _ else s.act) = _
      by_cases h : s.act.name = a.name ∧ s.act.wait = .digest
      · rw [if_pos h, if_pos (by simp [h.1, h.2])]
      · rw [if_neg h, if_neg fun hx => h (by simpa using hx)]
    · intro x hx
      obtain ⟨y, -, rfl⟩ := List.mem_map.1 hx
      rfl

end Sys2Proof.Machine
end


section
/-! O52: timers, watchdogs, waits, increments, completions and answers. -/

namespace Sys2Proof.Machine
open Sys2Proof.Safety

/-! ## Increments of a counter on several cores -/

theorem addCounter_core_ne (s : State) {c k : Nat} (n : Nat) (v : Word32) (h : k ≠ c) : (s.addCounter c n v).core k = s.core k :=
  setCounter_core_ne s n _ h

theorem addCounters_core_ne {s : State} {l : List Nat} {k : Nat} (n : Nat) (v : Word32) (h : k ∉ l) : (s.addCounters l n v).core k = s.core k := by
  induction l generalizing s with
  | nil => rfl
  | cons c l ih =>
    rw [List.mem_cons, not_or] at h
    exact (ih h.2).trans (addCounter_core_ne s n v h.1)

/-- Each core of a list without repetition has its counter raised once, and its others as before. -/
theorem addCounters_counter {s : State} {l : List Nat} (hl : l.Nodup) (n : Nat) (v : Word32) {c : Nat} (hc : c ∈ l) (k : Nat) :
    ((s.addCounters l n v).core c).counter k = if k = n then (s.core c).counter n + v else (s.core c).counter k := by
  induction l generalizing s with
  | nil => cases hc
  | cons d l ih =>
    rw [List.nodup_cons] at hl
    show (((s.addCounter d n v).addCounters l n v).core c).counter k = _
    rcases List.mem_cons.1 hc with rfl | hc'
    · rw [addCounters_core_ne n v hl.1]
      exact setCounter_counter s c n _ k
    · rw [ih hl.2 hc', addCounter_core_ne s n v fun (h : c = d) => hl.1 (h ▸ hc')]

theorem addCounters_coresSet (s : State) (l : List Nat) (n : Nat) (v : Word32) : CoresSet s (s.addCounters l n v) :=
  coresSet_foldl (fun (s : State) (k : Nat) => s.addCounter k n v) (fun s k => setCounter_coresSet s k n _) l s

/-! ## The events -/

section
variable {s : State} (hr : Running s)
include hr

theorem timeout_of {me : Actor} {ref : Word32} (hb : Bears s me.name me) (hp : s.poolOf me.name = none) (hl : me.life = .live)
    (h : ∃ x ∈ me.timers, x.ref = ref ∧ x.due ≤ s.env.time) : ∃ die, exec (.timeout me.name ref) s = .next
      ((s.modTimers me.name fun l => l.filter fun t => t.ref != ref).hardSend die (timeoutMsg me.name ref s.env.time)) := by
  have htimers : s.timersOf me.name = me.timers := by
    rw [State.timersOf, hp]
    dsimp only
    rw [hb.2]
    rfl
  have hdue : (me.timers.any fun t => t.ref == ref && decide (t.due ≤ s.env.time)) = true := by
    obtain ⟨x, hx, h1, h2⟩ := h
    exact List.any_eq_true.2 ⟨x, hx, by simp [h1, h2]⟩
  refine ⟨((s.placesOf me.name).head?.map fun p => dieOf p.1).getD 0, ?_⟩
  show execTimeout me.name ref s = _
  unfold execTimeout
  rw [killable_live hp hb.2 hl, htimers, hdue, Bool.and_self, if_pos rfl]
  exact event_some hr _

theorem watchdogExpiry_of {aid : Nat} {a : Act} (hf : s.allActs.find? (fun a => a.aid == aid) = some a) (hc : a.committed = true)
    (ht : a.commitAt + s.wdogOf a.job < s.env.time) : exec (.watchdogExpiry aid) s = .next (s.killActor a.name 7) := by
  show execWatchdogExpiry aid s = _
  unfold execWatchdogExpiry
  rw [hf, Option.bind_eq_bind, Option.bind_some, hc, decide_eq_true ht, Bool.and_self, if_pos rfl]
  exact event_some hr _

/-- What waits longer than it may kills its actor. -/
theorem postActivationWaitExpiry_of {op since limit : Nat} {name : Word} (hw : s.boundedWait op = some (name, since, limit))
    (ht : since + limit < s.env.time) : exec (.postActivationWaitExpiry op) s = .next (s.killAnyway name 7) := by
  show execPostActivationWaitExpiry op s = _
  unfold execPostActivationWaitExpiry
  rw [hw, Option.bind_eq_bind, Option.bind_some]
  dsimp only
  rw [if_pos ht]
  exact event_some hr _

omit hr in
theorem boundedWait_entry {op core q since : Nat} {e : Entry} (he : s.entryById op = some (core, q, e))
    (ha : s.allActs.any (fun a => a.aid == e.aid) = false) (hm : s.mayGoOn core e = false) (hw : e.waitSince = some since) :
    s.boundedWait op = some (e.actor, since, s.wdogOf e.job) := by
  rw [State.boundedWait, he]
  dsimp only
  rw [if_neg (by rw [ha, hm]; exact Bool.false_ne_true), hw]
  rfl

omit hr in
theorem boundedWait_deferred {op : Nat} {d : Deferred} (he : s.entryById op = none)
    (hd : s.wire.deferred.find? (fun d => d.id == op && d.ticket.isSome && !s.allActs.any fun a => a.aid == d.who.aid) = some d) :
    s.boundedWait op = some (d.who.name, d.since, s.wdogOf (nameJob d.who.name)) := by
  rw [State.boundedWait, he]
  dsimp only
  rw [hd]

theorem waitcMet_of {aid n : Nat} {a : Act} {target : Word32} (hf : s.allActs.find? (fun a => a.aid == aid) = some a)
    (hw : a.wait = .counter n target) (hm : ((s.core a.core).counter n - target).msb = false) :
    exec (.waitcMet aid) s = .next (s.modAid aid fun x => { x with memo := .met, wait := .none }) := by
  have hawaits : a.awaits = some (n, target) := by rw [Act.awaits, hw]
  have hlimit : a.waitLimit = none := by rw [Act.waitLimit, hw]
  show execWaitcMet aid s = _
  unfold execWaitcMet
  rw [hf, Option.bind_eq_bind, Option.bind_some, hawaits, Option.bind_eq_bind, Option.bind_some, hlimit]
  dsimp only
  rw [reached_of hm, Bool.and_self, Bool.or_true, if_pos rfl]
  exact event_some hr _

theorem waitctLimitExpiry_of {aid n limit : Nat} {a : Act} {target : Word32} {ex : Bool} (hf : s.allActs.find? (fun a => a.aid == aid) = some a)
    (hw : a.wait = .counterLimit n target limit ex) (hm : a.memo ≠ .met) (ht : limit < s.env.time) :
    exec (.waitctLimitExpiry aid) s = .next (s.modAid aid fun x => { x with memo := .expired, wait := .none }) := by
  have hlimit : a.waitLimit = some limit := by rw [Act.waitLimit, hw]
  have hmemo : (a.memo != .met) = true := bne_iff_ne.2 hm
  show execWaitctLimitExpiry aid s = _
  unfold execWaitctLimitExpiry
  rw [hf, Option.bind_eq_bind, Option.bind_some, hlimit, Option.bind_eq_bind, Option.bind_some, hmemo, decide_eq_true ht, Bool.and_self, if_pos rfl]
  exact event_some hr _

theorem globalCincArrival_of {f : Flight} {a : Actor} {n : Nat} {v : Word32} (hf : Arrives s f) (hi : f.item = .cinc n v)
    (he : s.elsewhere f.dst = none) (hreach : reachable (nameJob f.src) f.dst = true) (ha : s.entryOf f.dst = some a) (hl : a.life = .live)
    (hinc : incOk f.dst a.inc = true) :
    exec (.globalCincArrival f.id) s = .next ((s.removeFlight f.id).addCounters (s.runCores f.dst) n v) := by
  obtain ⟨hfind, hready⟩ := hf
  have htarget : s.cincTarget f = some (some a.core) := by
    rw [State.cincTarget, hreach, ha, Bool.or_true]
    dsimp only
    rw [hl, hinc]
    rfl
  show execGlobalCincArrival f.id s = _
  unfold execGlobalCincArrival
  rw [hfind, Option.bind_eq_bind, Option.bind_some, hi]
  dsimp only
  rw [hready, he]
  dsimp only
  rw [htarget]
  exact event_some hr _

theorem launchCompletion_of {f : Flight} {a : Actor} {num : Word32} {n core : Nat} (hf : Arrives s f) (hi : f.item = .launchDone num n core)
    (hafter : f.after = []) (he : s.elsewhere f.dst = none) (hp : s.poolOf f.dst = none) (hb : Bears s f.dst a) (hl : a.life = .live) :
    exec (.launchCompletion f.id) s = .next ((s.removeFlight f.id).addCounters (s.runCores f.dst) n 1) := by
  have hplace : s.issuerPlace f.dst core = some (s.runCores f.dst) := by
    rw [State.issuerPlace, hp]
    dsimp only
    rw [hb.2, Option.map_some, hl]
    dsimp only
    rw [if_neg hb.1]
  show execLaunchCompletion f.id s = _
  unfold execLaunchCompletion
  rw [hf.1, Option.bind_eq_bind, Option.bind_some, hi]
  dsimp only
  rw [hafter, performed_nil, he]
  dsimp only
  rw [hplace]
  exact event_some hr _

theorem faultreply_of {f : Flight} {ticket : Nat} {outcome : Word} {k : Ticket} (hf : s.wire.flights.find? (fun g => g.id == f.id) = some f)
    (hafter : f.after = []) (hi : f.item = .faultReply ticket outcome) (hk : s.xlat.tickets.find? (fun x => x.num == ticket) = some k)
    (ho : outcome.toNat % 256 ≠ 1) : exec (.faultreply f.id) s = .next ((s.removeFlight f.id).replayTicket k) := by
  have hanswer : (s.removeFlight f.id).answer ticket outcome = (s.removeFlight f.id).replayTicket k := by
    unfold State.answer
    rw [show (s.removeFlight f.id).xlat.tickets.find? _ = some k from hk]
    exact if_neg ho
  show execFaultreply f.id s = _
  unfold execFaultreply
  rw [hf, Option.bind_eq_bind, Option.bind_some, hi]
  dsimp only
  rw [hafter, performed_nil, if_pos rfl, hanswer]
  exact event_some hr _

end

theorem runCores_own {s : State} {n : Word} {a : Actor} (h : s.entryOf n = some a) : a.core ∈ s.runCores n := by
  rw [State.runCores, h]
  exact List.mem_cons_self

/-- Settles O52: each event by what it waits for. -/
theorem timeAndCounterEvents : Obligations.TimeAndCounterEvents := by
  intro s hr
  refine ⟨fun me ref hb hp hl h => ?_, fun aid a hf hc ht => watchdogExpiry_of hr hf hc ht,
    fun op core q e since he ha hm hw ht => postActivationWaitExpiry_of hr (boundedWait_entry he ha hm hw) ht,
    fun op d he hd ht => postActivationWaitExpiry_of hr (boundedWait_deferred he hd) ht,
    fun aid a n target hf => ⟨fun hw hm => waitcMet_of hr hf hw hm, fun limit ex hw hm ht => waitctLimitExpiry_of hr hf hw hm ht⟩,
    fun f a n v hf hi he hreach ha hl hinc hnd => ?_, fun f a num n core hf hi hafter he hp hb hl hnd => ?_,
    fun f ticket outcome k hf hafter hi hk ho => ?_⟩
  · obtain ⟨die, hd⟩ := timeout_of hr hb hp hl h
    exact ⟨_, hd, ⟨rfl, rfl⟩, bears_modActor hb (f := fun a => { a with timers := a.timers.filter fun t => t.ref != ref }) fun _ => rfl, _, rfl, rfl, rfl⟩
  · have hset := addCounters_coresSet (s.removeFlight f.id) (s.runCores f.dst) n v
    refine ⟨_, globalCincArrival_of hr hf hi he hreach ha hl hinc, hset.mem, hset.dir, runCores_own ha, fun c hc => ⟨?_, fun k hk => ?_⟩⟩
    · rw [addCounters_counter hnd n v hc, if_pos rfl]
      rfl
    · rw [addCounters_counter hnd n v hc, if_neg hk]
      rfl
  · have hset := addCounters_coresSet (s.removeFlight f.id) (s.runCores f.dst) n 1
    refine ⟨_, launchCompletion_of hr hf hi hafter he hp hb hl, hset.mem, hset.dir, fun c hc => ?_⟩
    rw [addCounters_counter hnd n 1 hc, if_pos rfl]
    rfl
  · have hnum : k.num = ticket := beq_iff_eq.1 (List.find?_some (p := fun x : Ticket => x.num == ticket) hk)
    refine ⟨_, faultreply_of hr hf hafter hi hk ho, rfl, rfl, by rw [← hnum]; rfl, ?_⟩
    show (if k.acts.contains s.act.aid && s.act.wait == .ticket k.num then { s.act with wait := .none } else s.act) = _
    rw [hnum]
    by_cases h : k.acts.contains s.act.aid ∧ s.act.wait = .ticket ticket
    · rw [if_pos h, if_pos (by rw [h.1, h.2, beq_self_eq_true, Bool.and_self])]
    · rw [if_neg h, if_neg fun hx => h (by simpa using hx)]

end Sys2Proof.Machine
end


section
/-! O53: heads of queues performed or begun, sectors of a push, gates and rendezvous. -/

namespace Sys2Proof.Machine
open Sys2Proof.Safety

/-! ## Heads of queues and tiles -/

theorem vget_some_lt {α : Type} {n i : Nat} {v : Vector (List α) n} {a : α} {l : List α} (h : vget v i = a :: l) : i < n := by
  by_contra hn
  rw [vget, dif_neg hn] at h
  cases h

theorem head_of {s : State} {core q : Nat} {e : Entry} {rest : List Entry} (h : vget (s.core core).queues q = e :: rest) : s.head core q = some e := by
  rw [State.head, h]
  rfl

theorem checkPool_mem (s : State) (core : Nat) : (s.checkPool core).mem = s.mem := inject_mem s core 3 0

theorem modHead_self {s : State} {core q : Nat} {e : Entry} {rest : List Entry} (h : vget (s.core core).queues q = e :: rest) (f : Entry → Entry) :
    vget ((s.modHead core q f).core core).queues q = f e :: rest := by
  rw [State.modHead, core_modCore_self, vget_vset_self _ _ _ (vget_some_lt h), h]

theorem modHead_ne (s : State) {core q c : Nat} (f : Entry → Entry) (h : c ≠ core) : (s.modHead core q f).core c = s.core c :=
  core_modCore_ne s _ h

/-- An entry done, whose activation goes on: the others move up, and no tile is freed. -/
theorem dropHead_live {s : State} {core q : Nat} {e : Entry} (h : s.head core q = some e) (hl : s.act.live = true) (ha : s.act.aid = e.aid) :
    s.dropHead core q = s.modCore core fun c => ({ c with queues := vset c.queues q ((vget c.queues q).drop 1) } : Core).settleHeads s.env.time := by
  have hany : ((s.modCore core fun c => ({ c with queues := vset c.queues q ((vget c.queues q).drop 1) } : Core).settleHeads s.env.time).allActs.any
      fun a => a.aid == e.aid) = true := by
    show ((if s.act.live then [s.act] else []) ++ s.acts).any (fun a => a.aid == e.aid) = true
    rw [hl, if_pos rfl, List.any_append, List.any_cons, ha, beq_self_eq_true, Bool.true_or, Bool.true_or]
  unfold State.dropHead
  rw [h]
  dsimp only [Option.map_some, Option.getD_some]
  rw [State.releaseTiles, hany, Bool.true_or, if_pos rfl]

theorem headedQueue_length (c : Core) (time : Nat) (q : List Entry) : (c.headedQueue time q).length = q.length := by
  cases q <;> rfl

theorem settleHeads_length (c : Core) (time : Nat) {q : Nat} (hq : q < 7) : (vget (c.settleHeads time).queues q).length = (vget c.queues q).length := by
  rw [Core.settleHeads, vget_map _ _ hq, headedQueue_length]

theorem tile_modTile {s : State} {core n : Nat} {x : Tile} (h : s.tile core n = some x) (f : Tile → Tile) (hf : ∀ t, t.num = n → (f t).num = n) :
    (s.modTile core n f).tile core n = some (f x) := by
  have hx : (x.num == n) = true := List.find?_some (p := fun t : Tile => t.num == n) h
  rw [State.tile, State.modTile, core_modCore_self]
  refine (find?_mapIf (s.core core).tiles fun t ht => by rw [hf t (beq_iff_eq.1 ht), beq_self_eq_true, ht]).trans ?_
  rw [show (s.core core).tiles.find? _ = some x from h, Option.map_some, if_pos hx]

/-! ## The head performed -/

theorem performHead_mzero {s : State} {core tile : Nat} {e : Entry} (he : s.head core 4 = some e) (hop : e.op = .mzero tile)
    (hm : s.mayStart core e = true) :
    s.performHead core 4 = some (((s.inject core 4 0).modTile core tile fun t => { num := t.num, owner := t.owner }).dropHead core 4) := by
  have hg : e.gated = false := by rw [Entry.gated, hop, Bool.and_false]
  unfold State.performHead
  rw [he, Option.bind_eq_bind, Option.bind_some, hm, hg]
  simp only [State.matrixOp, EOp.moves, EOp.ranges, hop]
  rfl

/-- What moves sectors waits for no gate and no rendezvous. -/
theorem gated_moves {e : Entry} (h : e.op.moves = true) : e.gated = false := by
  rw [Entry.gated]
  revert h
  cases e.op <;> simp [EOp.moves]

/-- An entry that moves sectors without a list begins. -/
theorem performHead_moves {s : State} {core q : Nat} {e : Entry} (he : s.head core q = some e) (hmv : e.op.moves = true) (hlist : e.op.list = none)
    (hp : e.op.pieces [] ≠ []) (hst : e.started = false) (hm : s.mayStart core e = true) :
    s.performHead core q = some ((s.inject core 4 0).modHead core q fun e => { e with started := true, index := [] }) := by
  have hbegin (t : State) : t.beginCopy core q e = .ok (t.modHead core q fun e => { e with started := true, index := [] }) := by
    unfold State.beginCopy
    rw [hlist]
    exact if_neg (by rwa [List.isEmpty_iff])
  unfold State.performHead
  rw [he, Option.bind_eq_bind, Option.bind_some, hm, gated_moves hmv, hmv, Bool.or_true]
  revert hmv hlist
  cases hop : e.op <;> simp [EOp.moves, EOp.list, hbegin, hst]

/-! ## A sector of a push (11 R298) -/

/-- A push without conversion is performed sector by sector, each from a sector of its source. -/
theorem pieces_push (index : List Int) {port pad len off k : Nat} {cores : BitVec 5} {inf : Bool} (h : k < len / 32) :
    (EOp.pieces index (.push port pad len off cores none inf))[k]? = some (.group k) := by
  show ((List.range (len / 32 / 1)).map Piece.group)[k]? = _
  rw [List.getElem?_map, List.getElem?_range (by omega)]
  rfl

theorem sources_push (index : List Int) (port pad len off k : Nat) (cores : BitVec 5) (inf : Bool) :
    (EOp.push port pad len off cores none inf).sources index (.group k) = [pad / 32 + k] := by
  show (spanNats (pad / 32 + k * 1) 1).eraseDups = _
  rw [Nat.mul_one]
  rfl

theorem readSectors_pad {s : State} {w : Who} {q k n : Nat} {e : Entry} (h : 32 * n / 2 ^ 48 = 0x70) :
    State.readSectors w q e k [n] s =
      .ok (some [(n, leNat (s.padRead w.core (32 * n) 32).1, (s.padRead w.core (32 * n) 32).2)], s.checkPool w.core) := by
  have hone : s.readSector w q e k n =
      .ok (some (leNat (s.padRead w.core (32 * n) 32).1, (s.padRead w.core (32 * n) 32).2), s.checkPool w.core) := by
    unfold State.readSector
    dsimp only
    rw [if_pos h]
  rw [State.readSectors, hone]
  rfl

/-- The bits of one sector, whole. -/
theorem bitsFrom_one (n v : Nat) (p : Bool) (h : v < 2 ^ 256) : bitsFrom [(n, v, p)] (256 * n) 256 = v := by
  have h1 : 256 * n / 256 = n := by omega
  have h2 : 256 * n % 256 = 0 := by omega
  have h3 : (n == n + 1) = false := beq_eq_false_iff_ne.2 (by omega)
  rw [bitsFrom]
  dsimp only
  rw [h1, h2, List.find?_cons, List.find?_cons, beq_self_eq_true, h3]
  dsimp only [Option.map_some, Option.getD_some]
  rw [List.find?_nil]
  dsimp only [Option.map_none, Option.getD_none]
  rw [Nat.zero_mul, Nat.add_zero, Nat.pow_zero, Nat.div_one, Nat.mod_eq_of_lt h]

theorem poisonFrom_one (n v : Nat) (p : Bool) : poisonFrom [(n, v, p)] (256 * n) 256 = p := by
  have h : overlaps (256 * n) 256 (256 * n) 256 = true := by simp [overlaps]
  rw [poisonFrom, List.any_cons, List.any_nil, h, Bool.and_true, Bool.or_false]

/-- One value laid out from its first bit. -/
theorem layBits_one {w v : Nat} (h : v < 2 ^ w) (n : Nat) : (layBits w [(0, v)] 0 n).1 = leBytes n v := by
  rw [layBits, List.foldl_cons, List.foldl_nil]
  dsimp only
  rw [Nat.zero_add, Nat.zero_add, Nat.sub_zero, Nat.mod_eq_of_lt h, Nat.mul_div_cancel _ (Nat.two_pow_pos w)]

/-- The flight of one delivered sector to a core. -/
def State.sectorFlight (s : State) (e : Entry) (port at_ size : Nat) (data : List Byte) (poison : Bool) (c : Nat) : Flight :=
  { id := 0, src := e.actor, dst := 0, die := dieOf c, aid := e.aid, item := .pushSector e.id c port at_ size (s.armedBy c port) data poison }

/-- Sectors that leave for several cores. -/
theorem foldl_sectorFlight (e : Entry) (port at_ size : Nat) (data : List Byte) (poison : Bool) (dests : List Nat) (s : State) :
    ∃ l : List Flight, (dests.foldl (fun s c => s.fly (s.sectorFlight e port at_ size data poison c)) s).wire.flights = s.wire.flights ++ l ∧
      (dests.foldl (fun s c => s.fly (s.sectorFlight e port at_ size data poison c)) s).mem = s.mem ∧
      l.map (·.item) = dests.map fun c => .pushSector e.id c port at_ size (s.armedBy c port) data poison := by
  induction dests generalizing s with
  | nil => exact ⟨[], (List.append_nil _).symm, rfl, rfl⟩
  | cons c dests ih =>
    obtain ⟨l, hf, hm, hl⟩ := ih (s.fly (s.sectorFlight e port at_ size data poison c))
    refine ⟨{ s.sectorFlight e port at_ size data poison c with id := s.fresh.1 } :: l, ?_, hm, ?_⟩
    · rw [List.foldl_cons, hf]
      exact List.append_assoc _ [_] l
    · rw [List.map_cons, hl]
      rfl

section
variable {s : State} {core q k : Nat} {e : Entry} {port pad len off : Nat} {cores : BitVec 5} {inf : Bool}
  (hop : e.op = .push port pad len off cores none inf)
include hop

/-- The cores of its cluster that a push names. -/
theorem performPiece_push {w : Who} {data : List Byte} {poison : Bool} (hd : data.length = 32) (hpad : pad % 32 = 0) :
    s.performPiece w q e k (.group k) [(pad / 32 + k, leNat data, poison)] =
      .ok (true, (((List.range 5).filter fun c => cores.getLsbD c).map (w.core / 8 * 8 + ·)).foldl
        (fun s c => s.fly (s.sectorFlight e port (off + 32 * k) len data poison c)) s) := by
  have hlt : leNat data < 2 ^ 256 := by
    have := leNat_lt data
    rwa [hd] at this
  have hfirst : 8 * (pad + 32 * (1 * k)) = 256 * (pad / 32 + k) := by omega
  unfold State.performPiece
  rw [hop]
  dsimp only [pushGroup, Option.map_none, Option.getD_none]
  rw [show List.range (256 * 1 / 256) = [0] from rfl]
  simp only [List.map_cons, List.map_nil, List.any_cons, List.any_nil]
  rw [Nat.zero_mul, Nat.add_zero, hfirst]
  dsimp only [fromSource]
  rw [bitsFrom_one _ _ _ hlt, poisonFrom_one, layBits_one hlt, Nat.mul_one, ← hd, leBytes_leNat, hd]
  have hsize : delivered none len = len := by rw [delivered, pushGroup, Nat.div_one, Nat.mul_one]
  have hover : (poison && overlaps 0 256 0 256 || false) = poison := by
    rw [show overlaps 0 256 0 256 = true from rfl, Bool.and_true, Bool.or_false]
  have htake : (data.drop (32 * 0)).take 32 = data := List.take_of_length_le (by rw [Nat.mul_zero, List.drop_zero, hd])
  have hoff : 1 * k + 0 = k := by omega
  unfold State.pushSectors
  rw [hop]
  dsimp only [pushGroup]
  rw [hsize, hover, show List.range 1 = [0] from rfl, List.foldl_cons, List.foldl_nil, htake, hoff]
  rfl

end

/-! ## A piece done (11 R301) -/

/-- Neither memory nor what is on its way has changed. -/
def SameWire (s t : State) : Prop := t.mem = s.mem ∧ t.wire = s.wire

theorem releaseTiles_sameWire (s : State) (aid : Nat) : SameWire s (s.releaseTiles aid) := by
  obtain ⟨cores, h⟩ := releaseTiles_eq s aid
  rw [h]
  exact ⟨rfl, rfl⟩

theorem completeHead_sameWire (s : State) (core q : Nat) : SameWire s (s.completeHead core q) := by
  unfold State.completeHead
  split
  · split
    · exact releaseTiles_sameWire _ _
    · exact ⟨rfl, rfl⟩
  · exact ⟨rfl, rfl⟩

theorem post_sameWire (s : State) (core : Nat) (e : Entry) (n : Nat) : SameWire s (s.post core e n) := by
  unfold State.post
  split
  · exact ⟨rfl, rfl⟩
  · dsimp only
    split
    · exact ⟨rfl, rfl⟩
    · exact ⟨rfl, rfl⟩

theorem pieceDone_sameWire (s : State) (core q : Nat) (e : Entry) (k : Nat) : SameWire s (s.pieceDone core q e k) := by
  unfold State.pieceDone
  dsimp only
  have hkept (u : State) (h : SameWire s u) : SameWire s ((u.modHead core q fun e => { e with done := e.done ++ [k] }).completeHead core q) := by
    have hc := completeHead_sameWire (u.modHead core q fun e => { e with done := e.done ++ [k] }) core q
    exact ⟨hc.1.trans h.1, hc.2.trans h.2⟩
  refine hkept _ ?_
  split
  · exact ⟨rfl, rfl⟩
  · exact post_sameWire { s with links := { s.links with remote := _ } } core e _

/-- A sector of a push leaves for the cores it names. -/
theorem sectorStep_push {s : State} {core q k : Nat} {e : Entry} {port pad len off : Nat} {cores : BitVec 5} {inf : Bool}
    (hop : e.op = .push port pad len off cores none inf) (he : s.head core q = some e) (hst : e.started = true) (ht : e.ticket = none)
    (hk : k ∉ e.done) (hlen : k < len / 32) (hpool : (pad + 32 * k) / 2 ^ 48 = 0x70) (hpad : pad % 32 = 0) :
    s.sectorStep core q k = some (((((List.range 5).filter fun c => cores.getLsbD c).map (core / 8 * 8 + ·)).foldl
      (fun t c => t.fly (t.sectorFlight e port (off + 32 * k) len (s.padRead core (pad + 32 * k) 32).1 (s.padRead core (pad + 32 * k) 32).2 c))
      (s.checkPool core)).pieceDone core q e k) := by
  have hva : 32 * (pad / 32 + k) = pad + 32 * k := by omega
  have hsrc := readSectors_pad (s := s) (w := s.entryWho core e) (q := q) (k := k) (e := e) (n := pad / 32 + k) (by rw [hva]; exact hpool)
  rw [hva] at hsrc
  have hd : (s.padRead core (pad + 32 * k) 32).1.length = 32 := by
    show ((spanNats _ 32).map _).length = 32
    rw [List.length_map]
    rfl
  have hpiece := performPiece_push (s := s.checkPool core) (q := q) (k := k) hop (w := s.entryWho core e) (poison := (s.padRead core (pad + 32 * k) 32).2) hd hpad
  have hdone : e.done.contains k = false := by simpa using hk
  have horder : e.inOrder k = true := by rw [Entry.inOrder, hop]
  unfold State.sectorStep
  rw [he, Option.bind_eq_bind, Option.bind_some, hop, pieces_push _ hlen, Option.bind_eq_bind, Option.bind_some, hst, ht, hdone, horder, sources_push]
  dsimp only
  rw [hsrc, bind_ok]
  dsimp only [State.entryWho] at hpiece ⊢
  rw [hpiece, bind_ok]
  rfl

/-! ## Gates and rendezvous (10 R272, R276) -/

theorem mmacGateMet_of {s : State} {core tile buf fmt kk m base pitch spitch n : Nat} {target : Word32} {e : Entry} (hr : Running s)
    (he : s.head core 4 = some e) (hst : e.started = false) (hop : e.op = .mma tile buf fmt kk m base pitch spitch (some (n, target)))
    (hm : ((s.core core).counter n - target).msb = false) :
    exec (.mmacGateMet core) s = .next (s.modHead core 4 fun e => { e with started := true, waitSince := none }) := by
  show execMmacGateMet core s = _
  unfold execMmacGateMet
  rw [he, Option.bind_eq_bind, Option.bind_some, hop]
  dsimp only
  rw [hst, reached_of hm, Bool.or_true]
  exact event_some hr _

theorem spanGrid_eq (die span : Nat) : spanGrid die span = (spanGrid 0 span).map (die * 512 + ·) := by
  rw [spanGrid, spanGrid, List.map_flatMap]
  refine List.flatMap_congr fun c _ => ?_
  rw [List.map_map]
  refine List.map_congr_left fun k _ => ?_
  rw [Function.comp_apply]
  omega

/-- A span's grid is sixteen cores. -/
theorem spanGrid_nodup {span : Nat} (die : Nat) (h : span < 12) : (spanGrid die span).Nodup ∧ (spanGrid die span).length = 16 := by
  have hzero : ∀ n < 12, (spanGrid 0 n).Nodup ∧ (spanGrid 0 n).length = 16 := by decide
  obtain ⟨hn, hl⟩ := hzero span h
  rw [spanGrid_eq]
  exact ⟨hn.map fun a b hab => Nat.add_left_cancel hab, by rw [List.length_map, hl]⟩

theorem mapM_some {α β : Type} {f : α → Option β} {g : α → β} {l : List α} (h : ∀ a ∈ l, f a = some (g a)) : l.mapM f = some (l.map g) := by
  induction l with
  | nil => rfl
  | cons a l ih =>
    rw [List.mapM_cons, h a List.mem_cons_self, ih fun b hb => h b (List.mem_cons_of_mem a hb)]
    rfl

theorem all_zip_map {α β : Type} (p : α × β → Bool) (g : α → β) (l : List α) : (l.zip (l.map g)).all p = l.all fun a => p (a, g a) := by
  induction l with
  | nil => rfl
  | cons a l ih => rw [List.map_cons, List.zip_cons_cons, List.all_cons, List.all_cons, ih]

section
variable {s : State} {die span tag fmt wfmt ks : Nat} {job : Half} {ent : Nat → Entry} {rows cols : Nat → Nat} (hspan : span < 12)
  (h : ∀ c ∈ spanGrid die span, s.mmasAt tag c = some (ent c) ∧ (ent c).job = job ∧ (ent c).started = false ∧ s.mayStart c (ent c) = true ∧
    (ent c).op.span = some (fmt, wfmt, tag, ks, rows ((spanGrid die span).idxOf c / 4), cols ((spanGrid die span).idxOf c % 4)))
include hspan h

/-- All the participants are there. -/
theorem rendezvous_forms : s.rendezvous die span tag = some ((spanGrid die span).map ent) := by
  obtain ⟨c0, l, hl⟩ : ∃ c0 l, spanGrid die span = c0 :: l := List.exists_cons_of_length_pos (by rw [(spanGrid_nodup die hspan).2]; decide)
  have hc0 : c0 ∈ spanGrid die span := by rw [hl]; exact List.mem_cons_self
  have hhead : ((spanGrid die span).map ent).head? = some (ent c0) := by rw [hl]; rfl
  have hsame : (((spanGrid die span).map ent).all fun e => e.job == (ent c0).job && !e.started) = true := by
    rw [List.all_eq_true]
    intro e he
    obtain ⟨c, hc, rfl⟩ := List.mem_map.1 he
    rw [(h c hc).2.1, (h c0 hc0).2.1, (h c hc).2.2.1, beq_self_eq_true]
    rfl
  have hmay : (((spanGrid die span).zip ((spanGrid die span).map ent)).all fun t => s.mayStart t.1 t.2) = true := by
    rw [all_zip_map, List.all_eq_true]
    exact fun c hc => (h c hc).2.2.2.1
  unfold State.rendezvous
  dsimp only
  rw [mapM_some fun c hc => (h c hc).1, Option.bind_eq_bind, Option.bind_some, hhead, Option.bind_eq_bind, Option.bind_some, hsame, hmay]
  rfl

omit hspan in
/-- What a participant asks for, by its place in the grid. -/
theorem participant_span (hn : (spanGrid die span).Nodup) {i : Nat} (hi : i < (spanGrid die span).length) :
    ((((spanGrid die span).map ent).getD i default).op.span).getD default = (fmt, wfmt, tag, ks, rows (i / 4), cols (i % 4)) := by
  have hidx : (spanGrid die span).idxOf (spanGrid die span)[i] = i := List.get_idxOf hn ⟨i, hi⟩
  have hc := (h _ (List.getElem_mem hi)).2.2.2.2
  rw [hidx] at hc
  rw [List.getD_eq_getElem?_getD, List.getElem?_map, List.getElem?_eq_getElem hi, Option.map_some, Option.getD_some, hc, Option.getD_some]

theorem participants_agree : mmasAgree ((spanGrid die span).map ent) = true := by
  obtain ⟨hn, hlen⟩ := spanGrid_nodup die hspan
  have hof {i : Nat} (hi : i < 16) := participant_span h hn (i := i) (by rw [hlen]; exact hi)
  unfold mmasAgree
  dsimp only
  rw [List.all_eq_true]
  intro i hi
  have hi' := List.mem_range.1 hi
  have h4 : i / 4 * 4 / 4 = i / 4 := by omega
  have hm : i % 4 % 4 = i % 4 := by omega
  rw [hof hi', hof (i := 0) (by decide), hof (i := i / 4 * 4) (by omega), hof (i := i % 4) (by omega), h4, hm]
  simp

end

theorem queue_of {s : State} {core q : Nat} {e : Entry} (h : s.head core q = some e) : ∃ rest, vget (s.core core).queues q = e :: rest := by
  rw [State.head] at h
  cases hv : vget (s.core core).queues q with
  | nil =>
    rw [hv] at h
    cases h
  | cons a rest =>
    rw [hv] at h
    exact ⟨rest, by rw [Option.some.inj h]⟩

theorem foldl_modHead_ne {q : Nat} {f : Entry → Entry} {l : List Nat} (s : State) {c : Nat} (h : c ∉ l) :
    (l.foldl (fun s c => s.modHead c q f) s).core c = s.core c := by
  induction l generalizing s with
  | nil => rfl
  | cons d l ih =>
    rw [List.mem_cons, not_or] at h
    exact (ih _ h.2).trans (modHead_ne s f h.1)

/-- The heads of several cores' queues changed, each core once. -/
theorem foldl_modHead {q : Nat} {f : Entry → Entry} {ent : Nat → Entry} {l : List Nat} (hl : l.Nodup) {s : State}
    (h : ∀ c ∈ l, s.head c q = some (ent c)) :
    Aside s (l.foldl (fun s c => s.modHead c q f) s) ∧ ∀ c ∈ l, (l.foldl (fun s c => s.modHead c q f) s).head c q = some (f (ent c)) := by
  induction l generalizing s with
  | nil => exact ⟨⟨rfl, rfl⟩, fun c hc => absurd hc List.not_mem_nil⟩
  | cons d l ih =>
    rw [List.nodup_cons] at hl
    have hrest : ∀ c ∈ l, (s.modHead d q f).head c q = some (ent c) := fun c hc => by
      rw [State.head, modHead_ne s f fun (hcd : c = d) => hl.1 (hcd ▸ hc)]
      exact h c (List.mem_cons_of_mem d hc)
    obtain ⟨haside, hheads⟩ := ih hl.2 hrest
    refine ⟨haside, fun c hc => ?_⟩
    rcases List.mem_cons.1 hc with rfl | hc'
    · rw [List.foldl_cons, State.head, foldl_modHead_ne _ hl.1]
      obtain ⟨rest, hq⟩ := queue_of (h c List.mem_cons_self)
      exact head_of (modHead_self hq f)
    · exact hheads c hc'

theorem mmasRendezvous_of {s : State} {die span tag : Nat} {es : List Entry} (hr : Running s) (h : s.rendezvous die span tag = some es)
    (ha : mmasAgree es = true) : exec (.mmasRendezvous die span tag) s =
      .next ((spanGrid die span).foldl (fun s c => s.modHead c 4 fun e => { e with started := true, waitSince := none }) s) := by
  show execMmasRendezvous die span tag s = _
  unfold execMmasRendezvous
  rw [h, Option.bind_eq_bind, Option.bind_some]
  dsimp only
  rw [ha, if_pos rfl]
  exact event_some hr _

theorem head_of_mmasAt {s : State} {tag c : Nat} {e : Entry} (h : s.mmasAt tag c = some e) : s.head c 4 = some e := by
  unfold State.mmasAt at h
  obtain ⟨e', he', hif⟩ := Option.bind_eq_some_iff.1 h
  split at hif
  · rw [he', ← Option.some.inj hif]
  · cases hif

/-- Settles O53: each event by what heads the queue it serves. -/
theorem engineEvents : Obligations.EngineEvents := by
  intro s hr
  refine ⟨fun core e rest tile x hq hop hm hl ha hx => ?_, fun core q e rest hq hmv hlist hp hst hm => ?_,
    fun core q e rest k port pad len off cores inf hq hop hst ht hk hlen hpool hpad => ?_,
    fun core e rest tile buf fmt kk m base pitch spitch n target hq hst hop hm => ?_, fun die span tag job fmt wfmt ks ent rows cols hspan h => ?_⟩
  · have hi := inject_settled s core 4 0
    have hcore : (s.inject core 4 0).core core = s.core core := by rw [State.core, hi.cores, State.core]
    have hhead : ((s.inject core 4 0).modTile core tile fun t => { num := t.num, owner := t.owner }).head core 4 = some e := by
      rw [State.head, State.modTile, core_modCore_self, hcore, hq]
      rfl
    have hdrop := dropHead_live hhead (by rw [← hl, ← hi.act]; rfl) (by rw [← ha, ← hi.act]; rfl)
    have hperf := performHead_mzero (head_of hq) hop hm
    rw [hdrop] at hperf
    refine ⟨_, (congrArg (event s) hperf).trans (event_some hr _), ⟨hi.act, inject_mem s core 4 0⟩, ?_, ?_⟩
    · rw [State.tile, core_modCore_self]
      exact tile_modTile (s := s.inject core 4 0) (by rw [State.tile, hcore]; exact hx) _ fun t ht => ht
    · rw [core_modCore_self, settleHeads_length _ _ (by decide), vget_vset_self _ _ _ (by decide), State.modTile, core_modCore_self, hcore, hq]
      rfl
  · have hi := inject_settled s core 4 0
    have hcore : (s.inject core 4 0).core core = s.core core := by rw [State.core, hi.cores, State.core]
    exact ⟨_, (congrArg (event s) (performHead_moves (head_of hq) hmv hlist hp hst hm)).trans (event_some hr _), ⟨hi.act, inject_mem s core 4 0⟩,
      modHead_self (by rw [hcore]; exact hq) _⟩
  · have hstep := sectorStep_push hop (head_of hq) hst ht hk hlen hpool hpad
    obtain ⟨l, hf, hmem, hl⟩ := foldl_sectorFlight e port (off + 32 * k) len (s.padRead core (pad + 32 * k) 32).1 (s.padRead core (pad + 32 * k) 32).2
      (((List.range 5).filter fun c => cores.getLsbD c).map (core / 8 * 8 + ·)) (s.checkPool core)
    have hc := checkPool_settled s core
    rw [hc.wire] at hf
    refine ⟨_, (congrArg (event s) hstep).trans (event_some hr _), ?_, l, ?_, ?_⟩
    · exact (pieceDone_sameWire _ core q e k).1.trans (hmem.trans (checkPool_mem s core))
    · exact (congrArg Wire.flights (pieceDone_sameWire _ core q e k).2).trans hf
    · rw [hl, List.map_map]
      refine List.map_congr_left fun c _ => ?_
      rw [Function.comp_apply, State.armedBy, State.core, hc.cores]
      rfl
  · have he := head_of hq
    exact ⟨_, mmacGateMet_of hr he hst hop hm, ⟨rfl, rfl⟩, modHead_self hq _⟩
  · obtain ⟨haside, hheads⟩ := foldl_modHead (f := fun e => { e with started := true, waitSince := none }) (spanGrid_nodup die hspan).1
      fun c hc => head_of_mmasAt (h c hc).1
    exact ⟨_, mmasRendezvous_of hr (rendezvous_forms hspan h) (participants_agree hspan h), haside, hheads⟩

end Sys2Proof.Machine
end


section
/-! Bytes that a write puts in memory, at its home and in a die's view. -/

namespace Sys2Proof.Machine
open Sys2Proof.Safety

/-! ## At the home -/

/-- A line written: its slice's bytes, and nothing below the line that is not of the slice. -/
theorem look_writeLine (m : Mem) (gen line a : Nat) (bs : List Byte) (poison : Bool) (k : Nat) (h : (a ≤ k ∧ k < a + bs.length) ∨ k < line * 64) :
    look 0 (m.writeLine gen line a bs poison).cells k = if a ≤ k ∧ k < a + bs.length then bs.getD (k - a) 0 else look 0 m.cells k := by
  unfold Mem.writeLine
  dsimp only
  rw [look_putN]
  by_cases hk : a ≤ k ∧ k < a + bs.length
  · rw [if_pos hk, if_pos hk]
  · rw [if_neg hk, if_neg hk]
    split
    · rfl
    · rw [look_putN, if_neg (by omega)]

theorem slice_length (unit b a : Nat) (bs : List Byte) :
    (slice unit b a bs).2.length = min (b * unit + unit - max a (b * unit)) (bs.length - (max a (b * unit) - a)) := by
  rw [slice, List.length_take, List.length_drop]

theorem slice_getD (unit b a : Nat) (bs : List Byte) {k : Nat} (h1 : max a (b * unit) ≤ k) (h2 : k < b * unit + unit) :
    (slice unit b a bs).2.getD (k - max a (b * unit)) 0 = bs.getD (k - a) 0 := by
  rw [slice, List.getD_eq_getElem?_getD, List.getD_eq_getElem?_getD, List.getElem?_take_of_lt (by omega), List.getElem?_drop]
  congr 2
  omega

/-- The lines of a write, lowest first, hold its bytes. -/
theorem look_writeLines (gen a : Nat) (bs : List Byte) (poison : Bool) (n : Nat) (m : Mem) (k : Nat) (h1 : a ≤ k) (h2 : k < a + bs.length)
    (h3 : k / 64 < a / 64 + n) :
    look 0 ((spanNats (a / 64) n).foldl (fun m l => m.writeLine gen l (slice 64 l a bs).1 (slice 64 l a bs).2 poison) m).cells k = bs.getD (k - a) 0 := by
  induction n with
  | zero => omega
  | succ n ih =>
    rw [spanNats, List.range_succ, List.map_append, List.foldl_append]
    show look 0 (Mem.writeLine _ gen (a / 64 + n) (max a ((a / 64 + n) * 64)) (slice 64 (a / 64 + n) a bs).2 poison).cells k = _
    have hlen := slice_length 64 (a / 64 + n) a bs
    by_cases hk : k / 64 < a / 64 + n
    · rw [look_writeLine _ _ _ _ _ _ _ (.inr (by omega)), if_neg (by omega)]
      exact ih hk
    · have hin : max a ((a / 64 + n) * 64) ≤ k ∧ k < max a ((a / 64 + n) * 64) + (slice 64 (a / 64 + n) a bs).2.length := by omega
      rw [look_writeLine _ _ _ _ _ _ _ (.inl hin), if_pos hin]
      exact slice_getD _ _ _ _ hin.1 (by omega)

theorem look_writeHbm (s : State) (gen a : Nat) (bs : List Byte) (poison : Bool) {i : Nat} (h : i < bs.length) :
    look 0 (s.writeHbm gen a bs poison).mem.cells (a + i) = bs.getD i 0 := by
  have hn : bs.length ≠ 0 := by omega
  unfold State.writeHbm
  dsimp only
  rw [blocks, if_neg hn, look_writeLines gen a bs poison _ _ _ (Nat.le_add_right a i) (by omega) (by omega), Nat.add_sub_cancel_left]

/-- What a write's home holds of it. -/
theorem look_applyHome (s : State) (w : PendWrite) {i : Nat} (h : i < w.bytes.length) :
    look 0 (s.applyHome w).mem.cells (w.addr + i) = w.bytes.getD i 0 := by
  unfold State.applyHome
  dsimp only
  split
  · exact look_writeHbm _ _ _ _ _ h
  · show look 0 (putN w.addr w.bytes s.mem.cells) (w.addr + i) = _
    rw [look_putN, if_pos (by omega), Nat.add_sub_cancel_left]

theorem look_applyPlace (s : State) (w : PendWrite) {i : Nat} (h : i < w.bytes.length) :
    look 0 (s.applyPlace w).mem.cells (w.addr + i) = w.bytes.getD i 0 := look_applyHome _ w h

/-! ## In a die's view -/

/-- The last of several puts of one address counts; here there is one. -/
theorem look?_puts (v : List Host.Cell) (l : List (Nat × Byte)) (k : Nat) (b : Byte) (hm : (k, b) ∈ l) (hu : ∀ t ∈ l, t.1 = k → t.2 = b) :
    look? (l.foldl (fun v t => put? t.1 t.2 v) v) k = some b := by
  induction l generalizing v with
  | nil => cases hm
  | cons t l ih =>
    rw [List.foldl_cons]
    by_cases hl : ∃ t' ∈ l, t'.1 = k
    · obtain ⟨t', ht', hk⟩ := hl
      have hb := hu t' (List.mem_cons_of_mem t ht') hk
      exact ih _ (by rwa [← hk, ← hb]) fun x hx => hu x (List.mem_cons_of_mem t hx)
    · rw [look?_overlay _ _ _ fun t' ht' hk => hl ⟨t', ht', hk⟩]
      rcases List.mem_cons.1 hm with rfl | hm'
      · exact look?_put?_self _ _ _
      · exact absurd ⟨_, hm', rfl⟩ hl

theorem byteAt_overlay_self (m : Mem) (die : Nat) (l : List (Nat × Byte)) (marks : List (Nat × Bool)) (k : Nat) (b : Byte) (hm : (k, b) ∈ l)
    (hu : ∀ t ∈ l, t.1 = k → t.2 = b) : (m.overlay die l marks).byteAt die k = b := by
  show (look? ((m.setView die (l.foldl (fun v t => put? t.1 t.2 v) (m.view die))).view die) k).getD (look 0 m.cells k) = _
  rw [view_setView, if_pos rfl, look?_puts _ _ _ _ hm hu]
  rfl

theorem mem_zip_span {a : Nat} {bs : List Byte} {t : Nat × Byte} : t ∈ (spanNats a bs.length).zip bs ↔ ∃ i < bs.length, t = (a + i, bs.getD i 0) := by
  rw [List.mem_iff_getElem]
  constructor
  · rintro ⟨i, hi, rfl⟩
    rw [List.length_zip, spanNats, List.length_map, List.length_range, Nat.min_self] at hi
    refine ⟨i, hi, ?_⟩
    rw [List.getElem_zip, List.getD_eq_getElem?_getD, List.getElem?_eq_getElem hi]
    simp [spanNats]
  · rintro ⟨i, hi, rfl⟩
    refine ⟨i, by rw [List.length_zip, spanNats, List.length_map, List.length_range, Nat.min_self]; exact hi, ?_⟩
    rw [List.getElem_zip, List.getD_eq_getElem?_getD, List.getElem?_eq_getElem hi]
    simp [spanNats]

/-- A die sees the bytes of a write applied there, but for those over which it already sees a later one. -/
theorem byteAt_applyAway (s : State) (w : PendWrite) (die : Nat) {i : Nat} (h : i < w.bytes.length) (hc : s.covered? w die (w.addr + i) = false) :
    (s.applyAway w die).mem.byteAt die (w.addr + i) = w.bytes.getD i 0 := by
  refine byteAt_overlay_self _ _ _ _ _ _ (List.mem_filter.2 ⟨mem_zip_span.2 ⟨i, h, rfl⟩, by rw [hc]; rfl⟩) fun t ht hk => ?_
  obtain ⟨j, hj, rfl⟩ := mem_zip_span.1 (List.mem_filter.1 ht).1
  have : j = i := by have : w.addr + j = w.addr + i := hk; omega
  rw [this]

end Sys2Proof.Machine
end

section
/-! O54: what lands. -/

namespace Sys2Proof.Machine
open Sys2Proof.Safety

/-! ## Counters of a core, and entries done -/

theorem releaseTiles_counters (s : State) (aid c : Nat) : ((s.releaseTiles aid).core c).counters = (s.core c).counters := by
  unfold State.releaseTiles
  split
  · rfl
  · exact look_map_snd Core.counters (fun c : Core => { c with tiles := c.tiles.filter fun t => !(t.owner == aid), bufs := c.bufs.filter fun b => !(b.owner == aid) })
      (fun _ => rfl) s.cores c

theorem dropHead_counters (s : State) (core q c : Nat) : ((s.dropHead core q).core c).counters = (s.core c).counters := by
  unfold State.dropHead
  rw [releaseTiles_counters, core_modCore]
  split
  next h => rw [h]; rfl
  · rfl

theorem completeHead_counter (s : State) (core q c n : Nat) : ((s.completeHead core q).core c).counter n = (s.core c).counter n := by
  unfold State.completeHead
  split
  · split
    · exact congrArg (look 0 · n) (dropHead_counters s core q c)
    · rfl
  · rfl

/-- What a sector that lands leaves in memory and in its counter. -/
theorem landed_sector (s : State) (id core src q n : Nat) {a : Nat} (data : List Byte) (poison : Bool) (ha : isHbm a = false) :
    let t := ((((s.removeFlight id).writeNow 0 a data poison).checkPool core).addCounter core n 32).completeHead src q
    t.mem = (s.writeNow 0 a data poison).mem ∧ (t.core core).counter n = (s.core core).counter n + 32 := by
  intro t
  let u := (s.removeFlight id).writeNow 0 a data poison
  have hc := checkPool_settled u core
  have hw := writeNow_stored (s.removeFlight id) 0 a data poison
  have hmem : u.mem = (s.writeNow 0 a data poison).mem := by
    show (State.writeNow _ 0 a data poison).mem = _
    rw [State.writeNow, State.writeNow, ha]
    rfl
  refine ⟨?_, ?_⟩
  · rw [(completeHead_sameWire _ src q).1]
    exact (checkPool_mem u core).trans hmem
  · rw [completeHead_counter]
    refine (setCounter_counter (u.checkPool core) core n _ n).trans ?_
    rw [if_pos rfl, State.core, hc.cores, hw.cores]
    rfl

theorem landPush_lands {s : State} {f : Flight} {id core port off size src q pad len o : Nat} {actor : Word} {data : List Byte} {poison : Bool}
    {e : Entry} {p : Port} {cores : BitVec 5} {conv : Option (Nat × Nat × Nat)} {inf : Bool}
    (hi : f.item = .pushSector id core port off size actor data poison) (he : s.entryById id = some (src, q, e))
    (hop : e.op = .push port pad len o cores conv inf)
    (hp : (s.core core).ports.find? (fun p => p.num == port && nameJob p.actor == e.job && (actor == 0 || p.actor == actor)) = some p)
    (ho : (s.portRegion core p).state = .owned) (hsize : o + size ≤ (s.portRegion core p).size) :
    s.landPush f = some (((((s.removeFlight f.id).writeNow 0 (poolKey core ((s.portRegion core p).offset + off)) data poison).checkPool core).addCounter core
      p.counter 32).completeHead src q) := by
  unfold State.landPush
  rw [hi]
  dsimp only
  rw [he]
  dsimp only
  rw [hp]
  dsimp only
  rw [hop]
  exact if_pos ⟨ho, hsize⟩

theorem landPushr_lands {s : State} {f : Flight} {id core off va src q n : Nat} {data : List Byte} {poison : Bool} {e : Entry}
    (hi : f.item = .pushrSector id core off va data poison (some n)) (he : s.entryById id = some (src, q, e)) (hl : s.pushrLands src core off e = true) :
    s.landPushr f = some (((((s.removeFlight f.id).writeNow 0 (poolKey core off) data poison).checkPool core).addCounter core n 32).completeHead src q) := by
  unfold State.landPushr
  rw [hi]
  dsimp only
  rw [he]
  dsimp only
  rw [if_pos hl]

/-! ## A write applied at a die -/

theorem tick_clock (m : Mem) {die src : Nat} (v : Word32) (hd : die < 4) (hs : src < 4) : ((m.tick die src v).clock die).getD src 0 = v := by
  have h : (vset m.clocks die (vset (vget m.clocks die) src v))[die] = vset (vget m.clocks die) src v := by
    rw [vset, dif_pos hd, Vector.getElem_set_self]
  have h' : (vset (vget m.clocks die) src v)[src] = v := by
    rw [vset, dif_pos hs, Vector.getElem_set_self]
  rw [Mem.clock, dif_pos hd]
  show List.getD (vset m.clocks die (vset (vget m.clocks die) src v))[die].toList src 0 = v
  rw [h, List.getD_eq_getElem?_getD, List.getElem?_eq_getElem (by simpa using hs), Option.getD_some, Vector.getElem_toList, h']

theorem retire_act (s : State) (w : PendWrite) : (s.retire w).act = s.act := by
  unfold State.retire
  split <;> rfl

theorem unviews_rest (m : Mem) (ks : Nat → List Nat) :
    let n := (List.range 4).foldl (fun m d => if (m.view d).isEmpty then m else m.unview d (ks d)) m
    n.cells = m.cells ∧ n.clocks = m.clocks ∧ n.pending = m.pending := by
  intro n
  refine ⟨(unviews_same m ks).1, ?_⟩
  show ((List.range 4).foldl _ m).clocks = m.clocks ∧ ((List.range 4).foldl _ m).pending = m.pending
  generalize List.range 4 = l
  induction l generalizing m with
  | nil => exact ⟨rfl, rfl⟩
  | cons e l ih =>
    obtain ⟨h1, h2⟩ := ih (if (m.view e).isEmpty then m else m.unview e (ks e))
    refine ⟨h1.trans ?_, h2.trans ?_⟩
    all_goals split <;> rfl

theorem retire_mem (s : State) (w : PendWrite) : (s.retire w).mem.cells = s.mem.cells ∧ (s.retire w).mem.clocks = s.mem.clocks ∧
    ∀ p ∈ (s.retire w).mem.pending, p ∈ s.mem.pending := by
  unfold State.retire
  dsimp only
  split
  · generalize (List.filter _ (spanNats w.addr w.bytes.length)) = ks
    obtain ⟨h1, h2, h3⟩ := unviews_rest { s.mem with pending := s.mem.pending.filter fun p => p.id != w.id } (fun _ => ks)
    refine ⟨h1, h2, fun p hp => ?_⟩
    rw [show _ = s.mem.pending.filter _ from h3] at hp
    exact List.mem_of_mem_filter hp
  · exact ⟨rfl, rfl, fun p hp => hp⟩

theorem retire_not {s : State} {w : PendWrite} (h : s.retired w = false) : s.retire w = s := by
  unfold State.retire
  rw [h]
  rfl

/-- A write that takes part in the home's order, or that a die comes to see. -/
def State.placed (s : State) (w : PendWrite) (die : Nat) : State :=
  if die = w.home then s.applyPlace w else if isPool w.addr then s else s.applyAway w die

theorem placed_act (s : State) (w : PendWrite) (die : Nat) : (s.placed w die).act = s.act := by
  unfold State.placed
  split
  · show (State.applyHome _ w).act = s.act
    unfold State.applyHome
    dsimp only
    split
    · exact (writeHbm_stored _ _ _ _ _).act
    · rfl
  · split <;> rfl

theorem noteSeen_act (s : State) (w : PendWrite) (die : Nat) : (s.noteSeen w die).act = { s.act with early := (s.noteSeen w die).act.early } := by
  unfold State.noteSeen State.noteWrite
  dsimp only
  split <;> rfl

/-- What is left of a write applied at a die before it retires. -/
def State.marked (s : State) (w : PendWrite) (die : Nat) : State :=
  let u := (s.placed w die).noteSeen w die
  ({ u with mem := { u.mem.tick die w.die (w.stamp.getD w.die 0) with
    pending := mapIf (fun p => p.id == w.id) (fun p => { p with applied := die :: p.applied }) u.mem.pending } } : State).inject (die * 512) 6
    (if die ^^^ w.die = 2 then 1 else 0)

section
variable {s : State} {w : PendWrite} {die : Nat}

theorem perform_eq (hr : w.replicas = none) : s.perform w die = (s.marked w die).retire { w with applied := die :: w.applied } := by
  unfold State.perform State.applyAt
  rw [hr]
  rfl

theorem marked_mem : (s.marked w die).mem = { (s.placed w die).mem.tick die w.die (w.stamp.getD w.die 0) with
    pending := mapIf (fun p => p.id == w.id) (fun p => { p with applied := die :: p.applied }) (s.placed w die).mem.pending } := inject_mem _ _ _ _

theorem perform_act (hr : w.replicas = none) : (s.perform w die).act = { s.act with early := (s.perform w die).act.early } := by
  have h : (s.perform w die).act = ((s.placed w die).noteSeen w die).act := by
    rw [perform_eq hr, retire_act]
    exact (inject_settled _ _ _ _).act
  rw [h, noteSeen_act, placed_act]

theorem perform_clock (hr : w.replicas = none) (hd : die < 4) (hw : w.die < 4) :
    ((s.perform w die).mem.clock die).getD w.die 0 = w.stamp.getD w.die 0 := by
  have h : (s.perform w die).mem.clocks = ((s.placed w die).mem.tick die w.die (w.stamp.getD w.die 0)).clocks := by
    rw [perform_eq hr, (retire_mem _ _).2.1, marked_mem]
  unfold Mem.clock
  rw [h]
  exact tick_clock _ _ hd hw

theorem perform_applied (hr : w.replicas = none) {p : PendWrite} (hp : p ∈ (s.perform w die).mem.pending) (hi : p.id = w.id) : die ∈ p.applied := by
  rw [perform_eq hr] at hp
  have hm := (retire_mem _ _).2.2 p hp
  rw [marked_mem] at hm
  obtain ⟨q, -, rfl⟩ := List.mem_map.1 hm
  by_cases hq : (q.id == w.id) = true
  · exact (if_pos hq : (if q.id == w.id then _ else q) = _) ▸ List.mem_cons_self
  · have hid : q.id = w.id := by rwa [show (if (fun p : PendWrite => p.id == w.id) q = true then _ else q) = q from if_neg hq] at hi
    exact absurd (beq_iff_eq.2 hid) hq

theorem perform_home (hr : w.replicas = none) (hd : die = w.home) {i : Nat} (h : i < w.bytes.length) :
    look 0 (s.perform w die).mem.cells (w.addr + i) = w.bytes.getD i 0 := by
  rw [perform_eq hr, (retire_mem _ _).1, marked_mem]
  show look 0 (s.placed w die).mem.cells _ = _
  rw [State.placed, if_pos hd]
  exact look_applyPlace s w h

theorem perform_away (hr : w.replicas = none) (hd : die ≠ w.home) (hp : isPool w.addr = false)
    (hret : s.retired { w with applied := die :: w.applied } = false) {i : Nat} (h : i < w.bytes.length) (hc : s.covered? w die (w.addr + i) = false) :
    (s.perform w die).mem.byteAt die (w.addr + i) = w.bytes.getD i 0 := by
  have hplaced : s.placed w die = s.applyAway w die := by
    rw [State.placed, if_neg hd, hp]
    rfl
  have hlost : (s.marked w die).retired { w with applied := die :: w.applied } = false := by
    have hi : (s.marked w die).links.lostDies = s.links.lostDies := by
      rw [State.marked, (inject_settled _ _ _ _).eq, hplaced]
      rfl
    unfold State.retired at hret ⊢
    rw [hi]
    exact hret
  rw [perform_eq hr, retire_not hlost]
  show (look? ((s.marked w die).mem.view die) _).getD (look 0 (s.marked w die).mem.cells _) = _
  rw [marked_mem, hplaced]
  exact byteAt_applyAway s w die h hc

end

/-- An activation whose request to the shared unit is served. -/
def Act.served (aid id : Nat) (a : Act) : Act := if a.aid == aid && a.ewait == .sfu id then { a with ewait := .none } else a

theorem sfuRequestService_of {s : State} {cluster aid id : Nat} {i : Instr} {rest : List (Nat × Nat × Instr)} (hr : Running s)
    (h : look [] s.sfu cluster = (aid, id, i) :: rest) : exec (.sfuRequestService cluster) s =
      .next { s with sfu := put [] cluster rest s.sfu, act := s.act.served aid id, acts := s.acts.map (Act.served aid id) } := by
  show execSfuRequestService cluster s = _
  unfold execSfuRequestService
  rw [h]
  exact event_some hr _

theorem served_eq (a : Act) (aid id : Nat) : a.served aid id = if a.aid = aid ∧ a.ewait = .sfu id then { a with ewait := .none } else a := by
  rw [Act.served]
  by_cases hk : a.aid = aid ∧ a.ewait = .sfu id
  · rw [if_pos hk, if_pos (by rw [hk.1, hk.2, beq_self_eq_true, beq_self_eq_true, Bool.and_self])]
  · rw [if_neg hk, if_neg fun hx => hk (by simpa using hx)]

theorem isHbm_poolKey (core off : Nat) : isHbm (poolKey core off) = false := by
  rw [isHbm, poolKey]
  exact decide_eq_false (by omega)

/-- Settles O54: each event by what lands. -/
theorem landingEvents : Obligations.LandingEvents := by
  intro s hr
  refine ⟨fun f id core port off size actor data poison src q e p pad len o cores conv inf hf hi he hop hp ho hsize => ?_,
    fun f id core off va data poison n src q e hf hi he hl => ?_, fun w die hf hd hw hstream hrep happ hland => ?_,
    fun cluster aid id i rest h => ⟨_, sfuRequestService_of hr h, rfl, look_put_self _ _ _ _, served_eq s.act aid id⟩, fun core hfull => ?_⟩
  · refine ⟨_, ?_, landed_sector s f.id core src q p.counter data poison (isHbm_poolKey _ _)⟩
    show execPushSectorArrival f.id s = _
    unfold execPushSectorArrival
    rw [hf, Option.bind_eq_bind, Option.bind_some, landPush_lands hi he hop hp ho hsize]
    exact event_some hr _
  · refine ⟨_, ?_, landed_sector s f.id core src q n data poison (isHbm_poolKey _ _)⟩
    show execPushrSectorLanding f.id s = _
    unfold execPushrSectorLanding
    rw [hf, Option.bind_eq_bind, Option.bind_some, landPushr_lands hi he hl]
    exact event_some hr _
  · refine ⟨s.perform w die, ?_, perform_act hrep, perform_clock hrep hd hw, fun p hp hpid => perform_applied hrep hp hpid,
      fun hhome i h => perform_home hrep hhome h, fun hne hpool hret i h hc => perform_away hrep hne hpool hret h hc⟩
    show execWritePerformed w.id die s = _
    unfold execWritePerformed
    rw [hf, Option.bind_eq_bind, Option.bind_some, happ, if_neg (by simpa using hd), hstream, hland]
    exact event_some hr _
  · refine ⟨s.mergeDirty core, ?_, mergeDirty_act s core, ?_, fun c hc => ?_⟩
    · show execDirtyLogMerge core s = _
      unfold execDirtyLogMerge
      rw [if_pos hfull]
      exact event_some hr _
    · rw [mergeDirty_core, if_pos rfl]
    · rw [mergeDirty_core, if_neg hc]

end Sys2Proof.Machine
end


section
/-! O55: experts' messages, fetches, copies and evictions, and the tables that Calico writes. -/

namespace Sys2Proof.Machine
open Sys2Proof.Safety

/-! ## What leaves the residency table alone -/

/-- The residency table, the fetches and the copies under way are as before. -/
structure SameTables (s t : State) : Prop where
  entries : t.exp.entries = s.exp.entries
  fetches : t.exp.fetches = s.exp.fetches
  copies : t.exp.copies = s.exp.copies

theorem SameTables.refl (s : State) : SameTables s s := ⟨rfl, rfl, rfl⟩

theorem SameTables.trans {s t u : State} (h : SameTables s t) (g : SameTables t u) : SameTables s u :=
  ⟨g.entries.trans h.entries, g.fetches.trans h.fetches, g.copies.trans h.copies⟩

theorem SameTables.entry {s t : State} (h : SameTables s t) (n : Nat) : t.expEntry n = s.expEntry n := by
  rw [State.expEntry, h.entries, State.expEntry]

theorem sameTables_of {s t : State} (h : t.exp = s.exp) : SameTables s t := ⟨by rw [h], by rw [h], by rw [h]⟩

theorem sameTables_foldl {α : Type} {f : State → α → State} (h : ∀ s a, SameTables s (f s a)) (l : List α) (s : State) : SameTables s (l.foldl f s) := by
  induction l generalizing s with
  | nil => exact .refl s
  | cons a l ih => exact (h s a).trans (ih _)

theorem settleLevels_sameTables (s : State) : SameTables s s.settleLevels := by
  unfold State.settleLevels
  dsimp only
  refine SameTables.trans (t := s.endPhases fun p => p.closed && s.phaseCount p.job p.id == 0) ⟨rfl, rfl, rfl⟩ ?_
  generalize (s.endPhases fun p => p.closed && s.phaseCount p.job p.id == 0) = u
  obtain ⟨env, wire, h⟩ := foldl_fly_eq (fun s (l : Launch) => match l.notify with
    | some (name, c) =>
      s.fly { id := 0, src := name, dst := name, die := 0, item := .launchDone l.num c l.core, after := l.after, scope := l.scope }
    | none => s) (fun s l => by
      split
      · exact .inr ⟨_, rfl⟩
      · exact .inl rfl) (u.dir.launches.filter fun l => u.launchCount l.job l.num == 0 && !u.wire.tails.any fun t => ofLaunch l.job l.num t.act.msg)
    { u with dir := { u.dir with launches := u.dir.launches.filter fun l => !(u.launchCount l.job l.num == 0 && !u.wire.tails.any fun t => ofLaunch l.job l.num t.act.msg) } }
  exact sameTables_of ((congrArg State.exp h).trans rfl)

theorem killActor_sameTables (s : State) (n : Word) (r : Nat) : SameTables s (s.killActor n r) := by
  obtain ⟨-, h⟩ | ⟨-, ps, h⟩ := s.killActor_cases n r
  · rw [h]
    exact .refl s
  · rw [h]
    exact sameTables_of rfl

theorem acceptPool_sameTables (s : State) (p : Pool) (die : Nat) (m : Msg) (arrived : Nat) (deadline : Word32) (capture : Option (Nat × Nat)) :
    SameTables s (s.acceptPool p die m arrived deadline capture) := by
  unfold State.acceptPool
  dsimp only
  split
  · exact SameTables.trans (t := s.modPool p.name _) (sameTables_of rfl) (killActor_sameTables _ _ _)
  · exact sameTables_of rfl

theorem queueExpert_sameTables (s : State) (e : ExpEntry) (k : Nat) (q : QMsg) : SameTables s (s.queueExpert e k q) := by
  unfold State.queueExpert
  split
  · exact .refl s
  · exact acceptPool_sameTables _ _ _ _ _ _ _

theorem stored_sameTables {s t : State} (h : Stored s t) : SameTables s t := sameTables_of (by rw [h.eq])

theorem writeLeaf_stored (s : State) (die asid va : Nat) (e : Word) : Stored s (s.writeLeaf die asid va e) := by
  unfold State.writeLeaf
  split
  · dsimp only
    split
    · exact writeNow_stored _ _ _ _ _
    · exact .refl s
  · exact .refl s

theorem mapWindow_sameTables (s : State) (e : ExpEntry) (w : WSet) (key : Option Byte) : SameTables s (s.mapWindow e w key) := by
  unfold State.mapWindow
  exact (sameTables_foldl (fun s i => stored_sameTables (writeLeaf_stored s _ _ _ _)) _ s).trans (sameTables_of rfl)

theorem mapWindow_act (s : State) (e : ExpEntry) (w : WSet) (key : Option Byte) : (s.mapWindow e w key).act = s.act := by
  unfold State.mapWindow
  exact (stored_foldl _ (fun s i => writeLeaf_stored s _ _ _ _) _ s).act

theorem answerWindow_sameTables (s : State) (e : ExpEntry) (w : WSet) : SameTables s (s.answerWindow e w) := by
  unfold State.answerWindow
  refine sameTables_foldl (fun s t => ?_) _ s
  exact sameTables_of rfl

theorem reserve_sameTables (s : State) (e : ExpEntry) (die first n : Nat) : SameTables s (s.reserve e die first n) := by
  unfold State.reserve
  dsimp only
  split
  · exact ⟨rfl, rfl, rfl⟩
  · exact .refl s

theorem scrubFetch_sameTables (s : State) (e : ExpEntry) (k : Nat) : SameTables s (s.scrubFetch e k) := by
  unfold State.scrubFetch
  dsimp only
  split
  · exact .refl s
  · split
    · exact stored_sameTables (writeNow_stored _ _ _ _ _)
    · exact .refl s

/-! ## Sets changed -/

theorem expEntry_num {s : State} {n : Nat} {e : ExpEntry} (h : s.expEntry n = some e) : e.num = n :=
  beq_iff_eq.1 (List.find?_some (p := fun t : ExpEntry => t.num == n) h)

/-- A set of an entry, changed. -/
def ExpEntry.withSet (e : ExpEntry) (k : Nat) (f : WSet → WSet) : ExpEntry := { e with sets := vset e.sets k (f (vget e.sets k)) }

theorem withSet_set (e : ExpEntry) {k : Nat} (f : WSet → WSet) (hk : k < 2) : vget (e.withSet k f).sets k = f (vget e.sets k) := vget_vset_self _ _ _ hk

theorem modEntry_entry {s : State} {n : Nat} {e : ExpEntry} (h : s.expEntry n = some e) {f : ExpEntry → ExpEntry} (hf : ∀ e, (f e).num = e.num) :
    (s.modEntry n f).expEntry n = some (f e) := by
  rw [expEntry_mapIf (s := s) hf rfl, h, Option.map_some, expEntry_num h, beq_self_eq_true, if_pos rfl]

theorem modSet_entry {s : State} {n : Nat} {e : ExpEntry} (h : s.expEntry n = some e) (k : Nat) (f : WSet → WSet) :
    (s.modSet n k f).expEntry n = some (e.withSet k f) := modEntry_entry h fun _ => rfl

/-- An absent set that is wanted is fetched. -/
theorem wantSet_absent {s : State} {n k : Nat} {e : ExpEntry} (h : s.expEntry n = some e) (hs : (vget e.sets k).state = 2) :
    s.wantSet n k = { s.modSet n k (fun w => { w with state := 1 }) with
      exp := { (s.modSet n k fun w => { w with state := 1 }).exp with fetches := s.exp.fetches ++ [{ entry := n, set := k }] } } := by
  unfold State.wantSet
  rw [show s.exp.entries.find? (fun e => e.num == n) = some e from h]
  exact if_pos hs

/-! ## A message for an absent set (13 R349) -/

theorem park_room {s : State} {p : Pool} {e : ExpEntry} {k : Nat} {q : QMsg} (hq : (vget e.sets k).waiting.length < p.image.quota)
    (hr : s.spillRoom p.job e.home.toNat = true) : s.park p e k q = s.modSet e.num k fun w => { w with waiting := w.waiting ++ [q] } := by
  unfold State.park
  dsimp only
  rw [decide_eq_false (by omega), hr, Bool.not_true, Bool.or_false, if_neg Bool.false_ne_true]

/-- An entry that has counted one message more. -/
def ExpEntry.counted (e : ExpEntry) : ExpEntry := { e with load := if e.load == 0xFFFFFFFF then e.load else e.load + 1 }

/-- A message counted for a set that is not resident starts no copy. -/
theorem countLoad_absent {s : State} {n k : Nat} {e : ExpEntry} (h : s.expEntry n = some e) (hs : (vget e.sets k).state ≠ 0) :
    s.countLoad n k = s.modEntry n ExpEntry.counted := by
  have hentry : (s.modEntry n ExpEntry.counted).expEntry n = some e.counted := modEntry_entry h fun _ => rfl
  have hne : ((vget e.counted.sets k).state != 0) = true := bne_iff_ne.2 hs
  unfold State.countLoad
  show (match (s.modEntry n ExpEntry.counted).expEntry n with | none => _ | some e => _) = _
  rw [hentry]
  dsimp only
  exact if_pos (by rw [hne, Bool.or_true, Bool.true_or])

/-- A message that waits for its set, as it is queued. -/
def State.parked (s : State) (p : Pool) (e : ExpEntry) (k src : Nat) (m : Msg) : QMsg :=
  { msg := m, seq := 0, arrived := s.env.time, deadline := s.effective p.job m, capture := some (e.num, k), src := s.senderDie src m }

theorem captured_lt (s : State) (e : ExpEntry) (p : Word32) : s.captured e p < 2 := by
  unfold State.captured
  dsimp only
  split <;> decide

/-- A set that waits with one message more. -/
def WSet.waitsFor (w : WSet) (q : QMsg) : WSet := { w with waiting := w.waiting ++ [q] }
def WSet.wanted (w : WSet) : WSet := { w with state := 1 }

/-- A message for an absent set waits, and the set is fetched. -/
theorem expertArrive_absent {s : State} {p : Pool} {e : ExpEntry} {src k : Nat} {m : Msg}
    (hf : s.exp.entries.find? (fun x => x.valid && x.job == p.job && x.pool == p.index) = some e) (he : s.expEntry e.num = some e)
    (hkill : s.killable p.name = true) (hk : s.captured e m.epoch = k) (hst : (vget e.sets k).state = 2)
    (hq : (vget e.sets k).waiting.length < p.image.quota) (hr : s.spillRoom p.job e.home.toNat = true) :
    (s.expertArrive p src m).expEntry e.num = some ((e.withSet k (·.waitsFor (s.parked p e k src m))).withSet k WSet.wanted).counted ∧
      (s.expertArrive p src m).exp.fetches = s.exp.fetches ++ [{ entry := e.num, set := k }] ∧ Aside s (s.expertArrive p src m) := by
  have hk2 : k < 2 := hk ▸ captured_lt s e m.epoch
  let u := s.modSet e.num k (·.waitsFor (s.parked p e k src m))
  have hu : u.expEntry e.num = some (e.withSet k (·.waitsFor (s.parked p e k src m))) := modSet_entry he k _
  have hu2 : (vget (e.withSet k (·.waitsFor (s.parked p e k src m))).sets k).state = 2 := by
    rw [withSet_set _ _ hk2]
    exact hst
  have hwant := wantSet_absent hu hu2
  have hv : (u.wantSet e.num k).expEntry e.num = some ((e.withSet k (·.waitsFor (s.parked p e k src m))).withSet k WSet.wanted) := by
    rw [hwant]
    exact (show _ = (u.modSet e.num k WSet.wanted).expEntry e.num from rfl).trans (modSet_entry hu k WSet.wanted)
  have hcount := countLoad_absent (k := k) hv (by rw [withSet_set _ _ hk2]; exact (by decide : (1 : BitVec 2) ≠ 0))
  have hkill' : (u.wantSet e.num k).killable p.name = true := by
    rw [hwant]
    exact hkill
  have harr : s.expertArrive p src m = (u.wantSet e.num k).modEntry e.num ExpEntry.counted := by
    unfold State.expertArrive
    rw [hf]
    dsimp only
    have hresident : ((vget e.sets k).state == 0 && (vget e.sets k).waiting.isEmpty) = false := by
      rw [hst]
      rfl
    have hpark : s.park p e k (s.parked p e k src m) = u := park_room hq hr
    unfold State.parked at hpark
    rw [hk, hresident, if_neg Bool.false_ne_true, hpark, if_pos hkill', hcount]
  rw [harr]
  refine ⟨modEntry_entry hv fun _ => rfl, ?_, ?_⟩
  · rw [hwant]
    rfl
  · rw [hwant]
    exact ⟨rfl, rfl⟩

theorem counted_load (e : ExpEntry) : e.counted.load = if e.load = 0xFFFFFFFF then e.load else e.load + 1 := by
  show (if (e.load == 0xFFFFFFFF) = true then e.load else e.load + 1) = _
  simp only [beq_iff_eq]

/-! ## What evictions, fetches and copies leave behind -/

theorem reserve_expOnly (s : State) (e : ExpEntry) (die first n : Nat) : ExpOnly s (s.reserve e die first n) := by
  unfold State.reserve
  dsimp only
  split
  · exact ⟨_, rfl⟩
  · exact .refl s

theorem ExpOnly.aside {s t : State} (h : ExpOnly s t) : Aside s t := by
  obtain ⟨exp, rfl⟩ := h
  exact ⟨rfl, rfl⟩

/-- A set whose copies are freed. -/
def WSet.evicted (w : WSet) : WSet := { w with state := 2, present := 0, epoch := Vector.replicate 4 0, page := Vector.replicate 4 0, owed := false }
/-- A set whose fetch has failed. -/
def WSet.failed (w : WSet) : WSet := { w with state := 2, page := Vector.replicate 4 0 }
/-- A set whose home copy alone is present. -/
def WSet.landed (w : WSet) (home : Nat) : WSet := { w with state := 0, present := 1#4 <<< home }

/-- A fetch that is over is listed no more. -/
theorem fetchOver_gone (s : State) (e : ExpEntry) (k : Nat) : ∀ y ∈ (s.fetchOver e k).exp.fetches, ¬(y.entry = e.num ∧ y.set = k) := by
  rintro y hy ⟨hn, hk⟩
  have h := List.of_mem_filter hy
  rw [Fetch.isOf, hn, hk, beq_self_eq_true, beq_self_eq_true] at h
  exact Bool.false_ne_true h

theorem killFound_sameTables {u v : State} (h : SameTables u v) (o : Option Pool) (reason : Nat) :
    SameTables u (match o with
      | some p => v.killActor p.name reason
      | none => v) := by
  cases o with
  | none => exact h
  | some p => exact h.trans (killActor_sameTables v p.name reason)

theorem reserveIf_sameTables (s : State) (b : Bool) (e : ExpEntry) (die first n : Nat) : SameTables s (if b then s.reserve e die first n else s) := by
  cases b with
  | false => exact .refl s
  | true => exact reserve_sameTables s e die first n

theorem fetchFails_set {s : State} {e : ExpEntry} (k reason : Nat) (he : s.expEntry e.num = some e) :
    (s.fetchFails e k reason).expEntry e.num = some (e.withSet k WSet.failed) ∧
      ∀ y ∈ (s.fetchFails e k reason).exp.fetches, ¬(y.entry = e.num ∧ y.set = k) := by
  have hentry : (((s.scrubFetch e k).modSet e.num k WSet.failed).fetchOver e k).expEntry e.num = some (e.withSet k WSet.failed) :=
    modSet_entry (((scrubFetch_sameTables s e k).entry e.num).trans he) k WSet.failed
  have hsame : SameTables (((s.scrubFetch e k).modSet e.num k WSet.failed).fetchOver e k) (s.fetchFails e k reason) := by
    unfold State.fetchFails
    exact killFound_sameTables (reserveIf_sameTables _ (s.exp.fetches.any fun f => f.isOf e.num k && f.started) e _ _ _) _ reason
  refine ⟨(hsame.entry _).trans hentry, ?_⟩
  rw [hsame.fetches]
  exact fetchOver_gone _ e k

/-- An entry stays listed, with a set's state and copies, and no fetch comes or goes. -/
structure SetStill (n k : Nat) (s t : State) : Prop where
  fetches : t.exp.fetches = s.exp.fetches
  entry : ∀ x, s.expEntry n = some x → ∃ y, t.expEntry n = some y ∧ (vget y.sets k).state = (vget x.sets k).state ∧ (vget y.sets k).present = (vget x.sets k).present

theorem SameTables.still {n k : Nat} {s t : State} (h : SameTables s t) : SetStill n k s t :=
  ⟨h.fetches, fun x hx => ⟨x, (h.entry n).trans hx, rfl, rfl⟩⟩

theorem SetStill.trans {n k : Nat} {s t u : State} (h : SetStill n k s t) (g : SetStill n k t u) : SetStill n k s u := by
  refine ⟨g.fetches.trans h.fetches, fun x hx => ?_⟩
  obtain ⟨y, hy, hs, hp⟩ := h.entry x hx
  obtain ⟨z, hz, gs, gp⟩ := g.entry y hy
  exact ⟨z, hz, gs.trans hs, gp.trans hp⟩

theorem setStill_foldl {α : Type} {n k : Nat} {f : State → α → State} (h : ∀ s a, SetStill n k s (f s a)) (l : List α) (s : State) :
    SetStill n k s (l.foldl f s) := by
  induction l generalizing s with
  | nil => exact (SameTables.refl s).still
  | cons a l ih => exact (h s a).trans (ih _)

/-- A set that waits with its first message taken. -/
def WSet.taken (w : WSet) : WSet := { w with waiting := w.waiting.drop 1 }

theorem taken_still (s : State) (n : Nat) {k : Nat} (hk : k < 2) : SetStill n k s (s.modSet n k WSet.taken) := by
  refine ⟨rfl, fun x hx => ⟨_, modSet_entry hx k WSet.taken, ?_⟩⟩
  rw [withSet_set _ _ hk]
  exact ⟨rfl, rfl⟩

/-- Messages drained from a wait queue leave its set as it was. -/
theorem drain_still (s : State) (n : Nat) {k : Nat} (hk : k < 2) : SetStill n k s (s.drain n k) := by
  unfold State.drain
  split
  · exact (SameTables.refl s).still
  · split
    · exact (SameTables.refl s).still
    · refine setStill_foldl (fun s q => ?_) _ s
      split
      · exact (taken_still s n hk).trans (queueExpert_sameTables _ _ _ _).still
      · exact (SameTables.refl s).still

/-- The state in which a fetch's bytes have landed and its set is resident, before what waited is let go. -/
def State.resident (s : State) (e : ExpEntry) (k gen : Nat) (bs : List Byte) : State :=
  ((s.writeNow gen (hbmKey (e.home.toNat * 2 ^ 22 + vget (vget e.sets k).page e.home.toNat) 0) bs false).modSet e.num k
    fun w => w.landed e.home.toNat).fetchOver e k

theorem fetchLands_still (s : State) (e : ExpEntry) {k : Nat} (gen : Nat) (key : Byte) (bs : List Byte) (hk : k < 2) :
    SetStill e.num k (s.resident e k gen bs) (s.fetchLands e k gen key bs) :=
  SetStill.trans (t := ((s.resident e k gen bs).mapWindow e { vget e.sets k with present := 1#4 <<< e.home.toNat } (some key)).answerWindow e (vget e.sets k))
    ((mapWindow_sameTables _ _ _ _).trans (answerWindow_sameTables _ _ _)).still (drain_still _ e.num hk)

theorem landed_entry {t : State} {e : ExpEntry} (k : Nat) (ht : t.expEntry e.num = some e) :
    ((t.modSet e.num k fun w => w.landed e.home.toNat).fetchOver e k).expEntry e.num = some (e.withSet k fun w => w.landed e.home.toNat) :=
  modSet_entry ht k fun w => w.landed e.home.toNat

theorem written_entry {s : State} {n : Nat} {e : ExpEntry} (gen a : Nat) (bs : List Byte) (poison : Bool) (he : s.expEntry n = some e) :
    (s.writeNow gen a bs poison).expEntry n = some e := ((stored_sameTables (writeNow_stored s gen a bs poison)).entry n).trans he

theorem resident_entry {s : State} {e : ExpEntry} (k gen : Nat) (bs : List Byte) (he : s.expEntry e.num = some e) :
    (s.resident e k gen bs).expEntry e.num = some (e.withSet k fun w => w.landed e.home.toNat) :=
  landed_entry k (written_entry gen _ bs false he)

theorem fetchLands_set {s : State} {e : ExpEntry} {k : Nat} (gen : Nat) (key : Byte) (bs : List Byte) (he : s.expEntry e.num = some e) (hk : k < 2) :
    (∃ x, (s.fetchLands e k gen key bs).expEntry e.num = some x ∧ (vget x.sets k).state = 0 ∧ (vget x.sets k).present = 1#4 <<< e.home.toNat) ∧
      ∀ y ∈ (s.fetchLands e k gen key bs).exp.fetches, ¬(y.entry = e.num ∧ y.set = k) := by
  have hstill := fetchLands_still s e gen key bs hk
  obtain ⟨x, hx, hstate, hpresent⟩ := hstill.entry _ (resident_entry k gen bs he)
  rw [withSet_set _ _ hk] at hstate hpresent
  refine ⟨⟨x, hx, hstate, hpresent⟩, ?_⟩
  rw [hstill.fetches]
  exact fetchOver_gone _ e k

/-- The first entry that meets a test, where those before it that met it are taken away. -/
theorem find?_filter_append {α : Type} {p q : α → Bool} {a : α} (l : List α) (hq : ∀ x, q x = !p x) (ha : p a = true) : (l.filter q ++ [a]).find? p = some a := by
  have hnone : (l.filter q).find? p = none := List.find?_eq_none.2 fun x hx => by
    have h := List.of_mem_filter hx
    rw [hq, Bool.not_eq_true'] at h
    rw [h]
    exact Bool.false_ne_true
  rw [List.find?_append, hnone, Option.none_or, List.find?_cons_of_pos ha]

/-- A copy leaves the list of those under way. -/
def State.dropCopy (s : State) (c : Nat × Nat × Nat × Nat) : State := { s with exp := { s.exp with copies := s.exp.copies.filter fun t => t != c } }

theorem dropCopy_gone (s : State) (c : Nat × Nat × Nat × Nat) : c ∉ (s.dropCopy c).exp.copies := fun h =>
  absurd (List.of_mem_filter h) (by rw [bne_self_eq_false]; exact Bool.false_ne_true)

/-- A copy written and in force leaves the list, and the running activation as it was. -/
theorem copied_gone (u : State) (gen a : Nat) (bs : List Byte) (poison : Bool) (c : Nat × Nat × Nat × Nat) (n set : Nat) (f : WSet → WSet) (e : ExpEntry)
    (w : WSet) (key : Option Byte) : let t := (((u.writeNow gen a bs poison).dropCopy c).modSet n set f).mapWindow e w key
    t.act = u.act ∧ c ∉ t.exp.copies := by
  refine ⟨(mapWindow_act _ _ _ _).trans (writeNow_stored u _ _ _ _).act, ?_⟩
  rw [(mapWindow_sameTables _ _ _ _).copies]
  exact dropCopy_gone _ c

theorem sendReads_host (s : State) (e : ExpEntry) (set page : Nat) : ∃ host, s.sendReads e set page = { s with host := host } := by
  unfold State.sendReads
  dsimp only
  split
  · exact ⟨_, rfl⟩
  · split
    · exact ⟨_, rfl⟩
    · exact ⟨s.host, rfl⟩

/-- A fetch of an entry's set has started now. -/
def Fetch.begun (t : Fetch) (entry set time : Nat) : Fetch := if t.isOf entry set then { t with started := true, since := time } else t

/-- A set whose copy on a die is about to take a page. -/
def WSet.placed (w : WSet) (die page : Nat) : WSet := { w with page := vset w.page die page }

/-! ## The events -/

section
variable {s : State} (hr : Running s)
include hr

theorem expertMessageArrival_of {f : Flight} {m : Msg} {p : Pool} (hf : Arrives s f) (hi : f.item = .msg m) (hs : isHardware m = false)
    (hreach : reachable (nameJob f.src) m.w0 = true) (hp : s.poolOf m.w0 = some p) (hd : f.dst = m.w0) (hl : p.life = .live)
    (hinc : incOk m.w0 p.inc = true) (hx : s.isExpertPool p = true) :
    exec (.expertMessageArrival f.id) s = .next ((s.removeFlight f.id).expertArrive p f.die m).settleLevels := by
  obtain ⟨hfind, hready⟩ := hf
  have hto : f.to = m.w0 := by
    unfold Flight.to
    rw [hi]
    exact hd
  show execExpertMessageArrival f.id s = _
  unfold execExpertMessageArrival
  rw [hfind, Option.bind_eq_bind, Option.bind_some, hto, hp, Option.bind_eq_bind, Option.bind_some, hready, hl, hx, hinc]
  dsimp only
  rw [if_neg (by decide), hi]
  dsimp only
  rw [hs, hreach, if_neg (by decide)]
  exact event_some hr _

theorem message_waits (f : Flight) (m : Msg) (p : Pool) (e : ExpEntry) (hf : Arrives s f) (hi : f.item = .msg m) (hs : isHardware m = false)
    (hreach : reachable (nameJob f.src) m.w0 = true) (hp : s.poolOf m.w0 = some p) (hd : f.dst = m.w0) (hl : p.life = .live)
    (hinc : incOk m.w0 p.inc = true) (hkill : s.killable p.name = true)
    (hx : s.exp.entries.find? (fun x => x.valid && x.job == p.job && x.pool == p.index) = some e) (he : s.expEntry e.num = some e) :
    let k := s.captured e m.epoch
    (vget e.sets k).state = 2 → (vget e.sets k).waiting.length < p.image.quota → s.spillRoom p.job e.home.toNat = true →
    Completes (.expertMessageArrival f.id) s fun t => Aside s t ∧ ∃ x q, t.expEntry e.num = some x ∧
      (vget x.sets k).waiting = (vget e.sets k).waiting ++ [q] ∧ q.msg = m ∧ q.capture = some (e.num, k) ∧ q.src = s.senderDie f.die m ∧
      (vget x.sets k).state = 1 ∧ x.load = (if e.load = 0xFFFFFFFF then e.load else e.load + 1) ∧
      ∃ y ∈ t.exp.fetches, y.entry = e.num ∧ y.set = k := by
  intro k hst hq hroom
  obtain ⟨hentry, hfetch, hside⟩ := expertArrive_absent (s := s.removeFlight f.id) (src := f.die) (m := m) hx he hkill (k := k) rfl hst hq hroom
  have hk2 : k < 2 := captured_lt s e m.epoch
  have hsettled := settleLevels_sameTables ((s.removeFlight f.id).expertArrive p f.die m)
  have hpool : s.isExpertPool p = true := List.any_eq_true.2 ⟨e, List.mem_of_find?_eq_some hx, List.find?_some (p := fun x : ExpEntry => x.valid && x.job == p.job && x.pool == p.index) hx⟩
  have hset : vget ((e.withSet k (·.waitsFor ((s.removeFlight f.id).parked p e k f.die m))).withSet k WSet.wanted).counted.sets k =
      ((vget e.sets k).waitsFor ((s.removeFlight f.id).parked p e k f.die m)).wanted :=
    (withSet_set _ _ hk2).trans (congrArg _ (withSet_set _ _ hk2))
  refine ⟨_, expertMessageArrival_of hr hf hi hs hreach hp hd hl hinc hpool, aside_trans hside (settleLevels_aside _), _,
    (s.removeFlight f.id).parked p e k f.die m, (hsettled.entry _).trans hentry, ?_, rfl, rfl, rfl, ?_, counted_load e, ⟨{ entry := e.num, set := k }, ?_, rfl, rfl⟩⟩
  · rw [hset]
    rfl
  · rw [hset]
    rfl
  · rw [hsettled.fetches, hfetch]
    exact List.mem_append_right _ List.mem_cons_self

theorem fetch_starts (die : Nat) (e : ExpEntry) (set : Nat) (f : Fetch) (page : Nat) (key : Byte) (he : s.expEntry e.num = some e) (hd : die < 4) (hset : set < 2) :
    let l := (s.waitingFetches die).filter fun x => !s.noSource x
    let older := l.takeWhile fun x => !x.isOf e.num set
    l.find? (fun x => x.isOf e.num set) = some f →
    (∀ i < older.length, ∀ x, older[i]? = some x → s.roomBehind die (older.take i) x = none) →
    (s.exp.fetches.filter fun x => x.started && (s.expEntry x.entry).any fun y => y.home.toNat == die).length < 8 →
    s.roomBehind die older f = some (page, key) →
    Completes (.expertFetchStart die e.num set) s fun t => Aside s t ∧
      (∃ x, t.expEntry e.num = some x ∧ vget (vget x.sets set).page die = page) ∧
      ∃ y ∈ t.exp.fetches, y.entry = e.num ∧ y.set = set ∧ y.started = true := by
  intro l older hf hold hfew hroom
  have hpassed : ((List.range older.length).any fun i => (older[i]?).any fun t => (s.roomBehind die (older.take i) t).isSome) = false := by
    rw [List.any_eq_false]
    intro i hi
    rw [Option.any_eq_true_iff_get]
    rintro ⟨hs, h⟩
    rw [hold i (List.mem_range.1 hi) _ (Option.some_get hs).symm] at h
    exact Bool.false_ne_true h
  let u : State := { s with exp := { s.exp with fetches := s.exp.fetches.map fun t => t.begun e.num set s.env.time
                                                reserved := s.exp.reserved.filter fun r => !(r.die == die && f.isOf r.entry r.set) } }
  have hexec : exec (.expertFetchStart die e.num set) s = .next ((u.modSet e.num set fun w => w.placed die page).sendReads e set page) := by
    show execExpertFetchStart die e.num set s = _
    unfold execExpertFetchStart
    rw [he, Option.bind_eq_bind, Option.bind_some]
    show event s (Option.bind (l.find? fun x => x.isOf e.num set) _) = _
    rw [hf, Option.bind_some]
    refine (congrArg (event s) (if_neg ?_)).trans ?_
    · show ¬(_ || ((List.range older.length).any _)) = true
      rw [hpassed, Bool.or_false, decide_eq_true_iff]
      exact Nat.not_le.2 hfew
    · show event s (match s.roomBehind die older f with | some (page, _) => _ | none => _) = _
      rw [hroom]
      exact event_some hr _
  obtain ⟨host, hhost⟩ := sendReads_host (u.modSet e.num set fun w => w.placed die page) e set page
  have hentry : (u.modSet e.num set fun w => w.placed die page).expEntry e.num = some (e.withSet set fun w => w.placed die page) :=
    modSet_entry (s := u) he set fun w => w.placed die page
  have hmem := List.mem_of_find?_eq_some hf
  have hof : f.isOf e.num set = true := List.find?_some (p := fun x : Fetch => x.isOf e.num set) hf
  refine ⟨_, hexec, ?_, ⟨_, (congrArg (·.expEntry e.num) hhost).trans hentry, ?_⟩, ⟨f.begun e.num set s.env.time, ?_, ?_⟩⟩
  · rw [hhost]
    exact ⟨rfl, rfl⟩
  · rw [withSet_set _ _ hset]
    exact vget_vset_self _ _ _ hd
  · rw [hhost]
    exact List.mem_map_of_mem (List.mem_of_mem_filter (List.mem_of_mem_filter hmem))
  · unfold Fetch.begun
    rw [if_pos hof]
    obtain ⟨hn, hk⟩ := Bool.and_eq_true_iff.1 hof
    exact ⟨beq_iff_eq.1 hn, beq_iff_eq.1 hk, rfl⟩

theorem eviction_completes (e : ExpEntry) (set : Nat) (he : s.expEntry e.num = some e) (hv : e.valid = true) (hset : set < 2) (hst : (vget e.sets set).state = 3) :
    Completes (.evictionComplete e.num set) s fun t => Aside s t ∧ ∃ x, t.expEntry e.num = some x ∧
      (vget x.sets set).state = (if (vget e.sets set).owed then 1 else 2) ∧ (vget x.sets set).present = 0 := by
  let reserve (s : State) (d : Nat) : State := s.reserve e d (vget (vget e.sets set).page d) (vget e.sets set).size
  let u := ((List.range 4).filter (vget e.sets set).present.getLsbD).foldl reserve s
  have hu : SameTables s u := sameTables_foldl (fun s d => reserve_sameTables s _ _ _ _) _ s
  have hx : ExpOnly s u := foldl_expOnly (fun s d => reserve_expOnly s _ _ _ _) _ s
  have hentry : (u.modSet e.num set WSet.evicted).expEntry e.num = some (e.withSet set WSet.evicted) :=
    modSet_entry ((hu.entry _).trans he) set WSet.evicted
  have hevicted : ExpOnly s (u.modSet e.num set WSet.evicted) := hx.trans ⟨_, rfl⟩
  have hexec : exec (.evictionComplete e.num set) s = .next (if (vget e.sets set).owed then (u.modSet e.num set WSet.evicted).wantSet e.num set
      else u.modSet e.num set WSet.evicted) := by
    show execEvictionComplete e.num set s = _
    unfold execEvictionComplete
    rw [he, Option.bind_eq_bind, Option.bind_some]
    refine (congrArg (event s) (if_neg ?_)).trans (event_some hr _)
    show ¬(!e.valid || decide (2 ≤ set) || (vget e.sets set).state != 3) = true
    rw [hv, hst, decide_eq_false (Nat.not_le.2 hset)]
    decide
  cases ho : (vget e.sets set).owed with
  | false =>
    rw [ho, if_neg Bool.false_ne_true] at hexec
    refine ⟨_, hexec, hevicted.aside, _, hentry, ?_⟩
    rw [withSet_set _ _ hset]
    exact ⟨rfl, rfl⟩
  | true =>
    rw [ho, if_pos rfl] at hexec
    have hwant := wantSet_absent hentry (by rw [withSet_set _ _ hset]; rfl)
    refine ⟨_, hexec, (hevicted.trans (wantSet_expOnly _ _ _)).aside, _, (congrArg (·.expEntry e.num) hwant).trans (modSet_entry hentry set WSet.wanted), ?_⟩
    rw [withSet_set _ _ hset, withSet_set _ _ hset]
    exact ⟨rfl, rfl⟩

theorem fetch_unanswered (e : ExpEntry) (set : Nat) (f : Fetch) (he : s.expEntry e.num = some e) (hset : set < 2)
    (hf : s.exp.fetches.find? (fun x => x.entry == e.num && x.set == set) = some f)
    (h : (vget e.sets set).kind = 2 ∨ (f.started = true ∧ f.since + s.links.rto.toNat * 1000 < s.env.time)) :
    Completes (.expertFetchComplete e.num set .unanswered) s fun t =>
      (∃ x, t.expEntry e.num = some x ∧ (vget x.sets set).state = 2) ∧ ∀ y ∈ t.exp.fetches, ¬(y.entry = e.num ∧ y.set = set) := by
  have hexec : ∃ reason, exec (.expertFetchComplete e.num set .unanswered) s = .next (s.fetchFails e set reason).settleLevels := by
    by_cases hkind : (vget e.sets set).kind = 2
    · refine ⟨20, ?_⟩
      show execExpertFetchComplete e.num set .unanswered s = _
      unfold execExpertFetchComplete
      rw [he, Option.bind_eq_bind, Option.bind_some, hf, Option.bind_eq_bind, Option.bind_some]
      exact (congrArg (event s) (if_pos hkind)).trans (event_some hr _)
    · refine ⟨7, ?_⟩
      obtain ⟨hstarted, hlate⟩ := h.resolve_left hkind
      show execExpertFetchComplete e.num set .unanswered s = _
      unfold execExpertFetchComplete
      rw [he, Option.bind_eq_bind, Option.bind_some, hf, Option.bind_eq_bind, Option.bind_some]
      refine (congrArg (event s) ((if_neg hkind).trans ((if_neg (by rw [hstarted]; decide)).trans ?_))).trans (event_some hr _)
      dsimp only
      rw [if_neg (fun h => absurd h.1 (by decide))]
      exact if_neg (Nat.not_le.2 hlate)
  obtain ⟨reason, hexec⟩ := hexec
  obtain ⟨hentry, hgone⟩ := fetchFails_set set reason he
  have hsame := settleLevels_sameTables (s.fetchFails e set reason)
  refine ⟨_, hexec, ⟨_, (hsame.entry _).trans hentry, ?_⟩, ?_⟩
  · rw [withSet_set _ _ hset]
    rfl
  · rw [hsame.fetches]
    exact hgone

theorem fetch_complete (e : ExpEntry) (set : Nat) (f : Fetch) (he : s.expEntry e.num = some e) (hset : set < 2)
    (hf : s.exp.fetches.find? (fun x => x.entry == e.num && x.set == set) = some f) (hkind : (vget e.sets set).kind ≠ 2) (hstarted : f.started = true)
    (hread : let r := s.readPlain e.home.toNat (sourceKey e.home.toNat (vget e.sets set)) ((vget e.sets set).size * 65536)
      r.2 = false ∧ s.digestOk e set r.1 = true)
    (hkey : ∀ key, ∃ gen, s.keyGen e.home.toNat key = .ok gen) :
    Completes (.expertFetchComplete e.num set .complete) s fun t =>
      (∃ x, t.expEntry e.num = some x ∧ (vget x.sets set).state = 0 ∧ (vget x.sets set).present = 1#4 <<< e.home.toNat) ∧
      ∀ y ∈ t.exp.fetches, ¬(y.entry = e.num ∧ y.set = set) := by
  obtain ⟨hclean, hdigest⟩ := hread
  obtain ⟨gen, hgen⟩ := hkey (s.pageKey (s.partOf e.job 0) e.home.toNat (vget (vget e.sets set).page e.home.toNat))
  have hexec : exec (.expertFetchComplete e.num set .complete) s = .next (s.fetchLands e set gen
      (s.pageKey (s.partOf e.job 0) e.home.toNat (vget (vget e.sets set).page e.home.toNat))
      (s.readPlain e.home.toNat (sourceKey e.home.toNat (vget e.sets set)) ((vget e.sets set).size * 65536)).1).settleLevels := by
    show execExpertFetchComplete e.num set .complete s = _
    unfold execExpertFetchComplete
    rw [he, Option.bind_eq_bind, Option.bind_some, hf, Option.bind_eq_bind, Option.bind_some]
    refine (congrArg (event s) ((if_neg hkind).trans ((if_neg (by rw [hstarted]; decide)).trans ?_))).trans (event_some hr _)
    dsimp only
    rw [if_neg (fun h => absurd h.2 (by rw [hclean]; decide))]
    dsimp only
    rw [hdigest, if_neg (by decide), hgen]
  obtain ⟨⟨x, hx, hstate⟩, hgone⟩ := fetchLands_set gen (s.pageKey (s.partOf e.job 0) e.home.toNat (vget (vget e.sets set).page e.home.toNat))
    (s.readPlain e.home.toNat (sourceKey e.home.toNat (vget e.sets set)) ((vget e.sets set).size * 65536)).1 he hset
  have hsame := settleLevels_sameTables (s.fetchLands e set gen
      (s.pageKey (s.partOf e.job 0) e.home.toNat (vget (vget e.sets set).page e.home.toNat))
      (s.readPlain e.home.toNat (sourceKey e.home.toNat (vget e.sets set)) ((vget e.sets set).size * 65536)).1)
  refine ⟨_, hexec, ⟨x, (hsame.entry _).trans hx, hstate⟩, ?_⟩
  rw [hsame.fetches]
  exact hgone

/-- An event whose copy has been dropped, or has been written and is in force. -/
theorem dropCopy_ends {u : State} (c : Nat × Nat × Nat × Nat) (hu : u.act = s.act) :
    ∃ t, event s (some (u.dropCopy c)) = .next t ∧ t.act = s.act ∧ c ∉ t.exp.copies := ⟨_, event_some hr _, hu, dropCopy_gone u c⟩

theorem copy_ends {u : State} (gen a : Nat) (bs : List Byte) (poison : Bool) (c : Nat × Nat × Nat × Nat) (n set : Nat) (f : WSet → WSet) (e : ExpEntry)
    (w : WSet) (key : Option Byte) (hu : u.act = s.act) :
    ∃ t, event s (some ((((u.writeNow gen a bs poison).dropCopy c).modSet n set f).mapWindow e w key)) = .next t ∧ t.act = s.act ∧ c ∉ t.exp.copies := by
  obtain ⟨hact, hgone⟩ := copied_gone u gen a bs poison c n set f e w key
  exact ⟨_, event_some hr _, hact.trans hu, hgone⟩

theorem replica_completes (e : ExpEntry) (set die : Nat) (c : Nat × Nat × Nat × Nat) (he : s.expEntry e.num = some e)
    (hc : s.exp.copies.find? (fun x => x.1 == e.num && x.2.1 == set && x.2.2.1 == die) = some c) :
    Completes (.replicaCopyComplete e.num set die) s fun t => t.act = s.act ∧ c ∉ t.exp.copies := by
  show ∃ t, execReplicaCopyComplete e.num set die s = .next t ∧ _
  unfold execReplicaCopyComplete
  rw [he, Option.bind_eq_bind, Option.bind_some, hc, Option.bind_eq_bind, Option.bind_some]
  extract_lets +onlyGivenNames w home key u
  have hu : Stored s u := repair_stored s _ _
  split
  next bs poison v gen hread _ =>
    have hv : Settled u v := readHbm_settled _ _ _ _ _ _ hread
    exact copy_ends hr gen _ bs poison c _ _ _ e _ _ (hv.act.trans hu.act)
  · exact dropCopy_ends hr c hu.act

end

section
variable {s : State} (hc : s.calico = true)
include hc

theorem expertTableWrite_of (target : TableTarget) (d : List Word) : exec (.expertTableWrite target d) s = .next (s.tableAnswer (match target with
    | .entry n => s.writeEntry n d
    | .model n => s.writeModel n d
    | .range job => s.writeRange job d)) := by
  show execExpertTableWrite target d s = _
  unfold execExpertTableWrite
  rw [hc, if_neg (by decide)]
  exact run_ok (Bool.and_eq_true_iff.1 hc).1

theorem range_written (job : Half) (base count : Word) (h : base.toNat + count.toNat ≤ 65536) :
    Completes (.expertTableWrite (.range job) [base, count]) s fun t => Aside s t ∧ t.exp.answer = some true ∧ t.exp.entries = s.exp.entries ∧
      t.exp.ranges.find? (fun r => r.1 == job) = some (job, base.toNat, count.toNat) := by
  have hw : s.writeRange job [base, count] =
      some { s with exp := { s.exp with ranges := (s.exp.ranges.filter fun r => r.1 != job) ++ [(job, base.toNat, count.toNat)] } } := by
    unfold State.writeRange
    exact if_neg (by
      show ¬(false || decide (65536 < base.toNat + count.toNat)) = true
      rw [decide_eq_false (Nat.not_lt.2 h)]
      decide)
  refine ⟨_, (expertTableWrite_of hc _ _).trans (congrArg (fun o => Host.Outcome.next (s.tableAnswer o)) hw), ⟨rfl, rfl⟩, rfl, rfl, ?_⟩
  exact find?_filter_append (p := fun r : Half × Nat × Nat => r.1 == job) _ (fun _ => rfl) (beq_self_eq_true job)

theorem range_refused (job : Half) (base count : Word) (h : 65536 < base.toNat + count.toNat) :
    Completes (.expertTableWrite (.range job) [base, count]) s fun t => Aside s t ∧ t.exp = { s.exp with answer := some false } := by
  have hw : s.writeRange job [base, count] = none := by
    unfold State.writeRange
    exact if_pos (by
      show (false || decide (65536 < base.toNat + count.toNat)) = true
      rw [decide_eq_true h]
      rfl)
  exact ⟨_, (expertTableWrite_of hc _ _).trans (congrArg (fun o => Host.Outcome.next (s.tableAnswer o)) hw), ⟨rfl, rfl⟩, rfl⟩

theorem model_written (n : Nat) (a b : Word) (hn : n < 1024) (hnew : s.exp.models.find? (fun r => r.num == n) = none)
    (h15 : a.toNat / 2 ^ 48 % 2 ^ 15 = 0) (h9 : a.toNat / 2 ^ 7 % 2 ^ 9 = 0) :
    Completes (.expertTableWrite (.model n) [a, b]) s fun t => Aside s t ∧ ∃ r, t.exp.models.find? (fun r => r.num == n) = some r ∧
      r.valid = a.getLsbD 63 ∧ r.job = a.extractLsb' 32 16 ∧ r.model = a.extractLsb' 16 16 ∧ r.force = false ∧ r.ver = 0 := by
  let v : ModelRec := { num := n, valid := a.getLsbD 63, job := a.extractLsb' 32 16, model := a.extractLsb' 16 16 }
  have hw : s.writeModel n [a, b] = some { s with exp := { s.exp with models := (s.exp.models.filter fun r => r.num != n) ++ [v] } } := by
    unfold State.writeModel
    rw [hnew]
    exact if_neg (by
      show ¬(decide (1024 ≤ n) || false || false || decide (bits a.toNat 48 15 ≠ 0) || decide (bits a.toNat 7 9 ≠ 0)) = true
      rw [decide_eq_false (Nat.not_le.2 hn), bits, Nat.shiftRight_eq_div_pow, h15, bits, Nat.shiftRight_eq_div_pow, h9]
      decide)
  exact ⟨_, (expertTableWrite_of hc _ _).trans (congrArg (fun o => Host.Outcome.next (s.tableAnswer o)) hw), ⟨rfl, rfl⟩, v,
    find?_filter_append (p := fun r : ModelRec => r.num == n) _ (fun _ => rfl) (beq_self_eq_true n), rfl, rfl, rfl, rfl, rfl⟩

/-- The entry that a first write leaves: what its words say, absent. -/
def ExpEntry.asWritten (e : ExpEntry) (n : Nat) : ExpEntry :=
  let set (k : Nat) : WSet := { state := 2, pages := (vget e.sets k).pages, window := (vget e.sets k).window, kind := (vget e.sets k).kind, address := (vget e.sets k).address }
  { num := n, valid := e.valid, pool := e.pool, expert := e.expert, job := e.job, model := e.model, home := e.home, sets := #v[set 0, set 1] }

omit hc in
theorem writeEntry_new {n : Nat} {d : List Word} {e : ExpEntry} (hn : n < 65536) (hnew : s.expEntry n = none) (hp : parseEntry n d = some e) (hv : e.valid = true) :
    s.writeEntry n d = some { s with exp := { s.exp with entries := (s.exp.entries.takeWhile fun t => decide (t.num < n)) ++ [e.asWritten n] ++
      (s.exp.entries.filter fun t => decide (n < t.num)) } } := by
  have hfree (k : Nat) : s.setFree { num := n } k = true := if_pos rfl
  unfold State.writeEntry
  rw [hnew, hp]
  dsimp only [Option.getD_none]
  refine (if_neg ?_).trans ?_
  · rw [decide_eq_false (Nat.not_le.2 hn), List.all_cons, List.all_cons, List.all_nil, hfree, hfree, Bool.or_true, Bool.or_true, Bool.false_and]
    decide
  · rw [ExpEntry.asWritten, hv]
    rfl

omit hc in
/-- A table kept in the order of its numbers finds what is put in its place. -/
theorem find?_entry_placed (l m : List ExpEntry) (e : ExpEntry) :
    (l.takeWhile (fun t => decide (t.num < e.num)) ++ [e] ++ m).find? (fun t => t.num == e.num) = some e := by
  have hnone : (l.takeWhile fun t => decide (t.num < e.num)).find? (fun t => t.num == e.num) = none := List.find?_eq_none.2 fun x hx heq => by
    have hlt : decide (x.num < e.num) = true := List.mem_takeWhile_imp (p := fun t : ExpEntry => decide (t.num < e.num)) hx
    exact absurd (beq_iff_eq.1 heq) (Nat.ne_of_lt (decide_eq_true_iff.1 hlt))
  rw [List.append_assoc, List.find?_append, hnone, Option.none_or, List.singleton_append,
    List.find?_cons_of_pos (p := fun t : ExpEntry => t.num == e.num) (beq_self_eq_true e.num)]

theorem entry_written (n : Nat) (d : List Word) (e : ExpEntry) (hn : n < 65536) (hnew : s.expEntry n = none) (hp : parseEntry n d = some e) (hv : e.valid = true) :
    Completes (.expertTableWrite (.entry n) d) s fun t => Aside s t ∧ ∃ x, t.expEntry n = some x ∧ x.valid = true ∧ x.pool = e.pool ∧
      x.expert = e.expert ∧ x.job = e.job ∧ x.model = e.model ∧ x.home = e.home ∧ x.pins = 0 ∧ x.load = 0 ∧
      ∀ k < 2, (vget x.sets k).state = 2 ∧ (vget x.sets k).window = (vget e.sets k).window ∧ (vget x.sets k).address = (vget e.sets k).address := by
  refine ⟨_, (expertTableWrite_of hc _ _).trans (congrArg (fun o => Host.Outcome.next (s.tableAnswer o)) (writeEntry_new hn hnew hp hv)), ⟨rfl, rfl⟩,
    e.asWritten n, find?_entry_placed _ _ (e.asWritten n), hv, rfl, rfl, rfl, rfl, rfl, rfl, rfl, fun k hk => ?_⟩
  match k, hk with
  | 0, _ => exact ⟨rfl, rfl, rfl⟩
  | 1, _ => exact ⟨rfl, rfl, rfl⟩

end

/-- Settles O55: a message's set is fetched, a fetch starts, and lands or fails, an eviction and a copy are over, and Calico's tables take what is written. -/
theorem expertEvents : Obligations.ExpertEvents := fun _ =>
  ⟨fun hr => ⟨message_waits hr, fetch_starts hr, eviction_completes hr, fetch_unanswered hr, fetch_complete hr, replica_completes hr⟩,
   fun hc => ⟨range_written hc, range_refused hc, model_written hc, entry_written hc⟩⟩

end Sys2Proof.Machine
end


section
/-! O56: pools created, first actors placed and saved actors restored by Calico. -/

namespace Sys2Proof.Machine
open Sys2Proof.Safety

/-! ## A pool created (02 R40, R58) -/

theorem fillRooms_eq (img : Image) (data : List (List Byte × Bool)) (l : List Room) (s : State) :
    ∃ mem, l.foldl (fun s r => s.fillRoom img r data) s = { s with mem := mem } := by
  induction l generalizing s with
  | nil => exact ⟨s.mem, rfl⟩
  | cons r l ih =>
    obtain ⟨m, hm⟩ := fillRoom_eq s img r data
    obtain ⟨n, hn⟩ := ih (s.fillRoom img r data)
    refine ⟨n, hn.trans ?_⟩
    rw [hm]

/-- An image without initialisers has nothing to read. -/
theorem calicoData_none {s : State} {job : Half} {img : Image} (h : initPieces img = []) : s.calicoData job img = some [] := by
  unfold State.calicoData
  rw [h]
  rfl

/-- The dies that a pool serves, listed. -/
def servedDies (dies : BitVec 4) : List Nat := (List.range 4).filter fun d => dies.getLsbD d

theorem servedDies_contains (dies : BitVec 4) (d : Nat) : (servedDies dies).contains d = dies.getLsbD d := by
  rw [Bool.eq_iff_iff, List.contains_iff_mem, servedDies, List.mem_filter, List.mem_range]
  exact ⟨fun h => h.2, fun h => ⟨BitVec.lt_of_getLsbD h, h⟩⟩

theorem servedDies_ne {dies : BitVec 4} (h : dies ≠ 0) : (servedDies dies).isEmpty = false := by
  rw [List.isEmpty_eq_false_iff_exists_mem]
  by_contra hnone
  refine h (BitVec.eq_of_getLsbD_eq fun i hi => ?_)
  rw [← servedDies_contains, BitVec.ofNat_eq_ofNat, BitVec.getLsbD_zero]
  cases hc : (servedDies dies).contains i with
  | false => rfl
  | true => exact absurd ⟨i, List.contains_iff_mem.1 hc⟩ hnone

/-- The pool of an image, with a member for each room and an empty queue for each die. -/
def State.newPool (s : State) (job : Half) (img : Image) (dies : BitVec 4) (rooms : List Room) : Pool :=
  { job := job, index := img.index, inc := s.nextInc job false (2 ^ 30 + img.index), image := img, dies := dies
    queues := (servedDies dies).map fun d => { die := d, num := s.queueNumber d }
    members := rooms.map fun r => { core := r.core, resident := r.resident, regions := r.regions }, trapx := img.trapx }

/-- A pool put in the directory. -/
def State.addPool (s : State) (p : Pool) : State := { s with dir := { s.dir with pools := s.dir.pools ++ [p] } }

/-! ## A root actor placed and an actor restored (16 R372, R374, R375) -/

theorem entryAt_modActor {s : State} {n : Word} {f : Actor → Actor} {job : Half} {service : Bool} {index : Nat} {a : Actor} (hn : a.name = n)
    (hf : ∀ a : Actor, (f a).job = a.job ∧ (f a).service = a.service ∧ (f a).index = a.index) (h : s.entryAt job service index = some a) :
    (s.modActor n f).entryAt job service index = some (f a) := by
  have hall := find?_mapIf (p := fun a : Actor => a.name == n) (q := fun t : Actor => t.job == job && t.service == service && t.index == index)
    (f := f) s.dir.actors fun x _ => by
      obtain ⟨hj, hs, hi⟩ := hf x
      rw [hj, hs, hi]
  refine hall.trans ?_
  rw [show s.dir.actors.find? _ = some a from h, Option.map_some, if_pos (beq_iff_eq.2 hn)]

theorem job_modJob (s : State) {j : Half} {f : Job → Job} (hf : ∀ x : Job, (f x).id = x.id) : ∃ x, (s.modJob j f).job? j = some (f x) := by
  unfold State.modJob State.job?
  dsimp only
  cases hany : s.parts.jobs.any (·.id == j) with
  | true =>
    obtain ⟨x, hx⟩ := Option.isSome_iff_exists.1 (List.find?_isSome.2 (List.any_eq_true.1 hany))
    refine ⟨x, ?_⟩
    rw [if_pos rfl, find?_mapIf s.parts.jobs fun x _ => congrArg (· == j) (hf x), hx, Option.map_some, if_pos (List.find?_some hx)]
  | false =>
    refine ⟨{ id := j }, ?_⟩
    rw [if_neg Bool.false_ne_true, List.find?_append, List.find?_eq_none.2 (List.any_eq_false.1 hany), Option.none_or]
    exact List.find?_cons_of_pos (beq_iff_eq.2 (hf _))

theorem restoreCounters_coresSet (s : State) (core : Nat) (saved : List (Nat × Word32)) : CoresSet s (s.restoreCounters core saved) := by
  unfold State.restoreCounters
  split
  · exact .refl s
  · refine (coresSet_foldl _ (fun s n => ?_) saved s).trans (modCore_coresSet _ _ _)
    split
    · exact setCounter_coresSet _ _ _ _
    · exact .refl s

/-- Places restored: bytes written, counters set and ports given. -/
theorem restorePlace_cores (s : State) (saved : Saved) (i core : Nat) (lcore : Half) (regions : Vector Region 8) :
    ∃ mem, CoresSet { s with mem := mem } (s.restorePlace saved i core lcore regions) := by
  have hbytes (put : State → Nat × Nat × List (Byte × Bool) → State) (hput : ∀ s b, ∃ mem, put s b = { s with mem := mem })
      (l : List (Nat × Nat × List (Byte × Bool))) (s : State) : ∃ mem, l.foldl put s = { s with mem := mem } := by
    induction l generalizing s with
    | nil => exact ⟨s.mem, rfl⟩
    | cons b l ih =>
      obtain ⟨m, hm⟩ := hput s b
      obtain ⟨n, hn⟩ := ih (put s b)
      exact ⟨n, hn.trans (by rw [hm])⟩
  unfold State.restorePlace
  obtain ⟨mem, hm⟩ := hbytes _ (fun s b => ⟨_, rfl⟩) (saved.bytes.filter fun b => b.1 == i) s
  refine ⟨mem, ?_⟩
  rw [hm]
  exact (restoreCounters_coresSet _ _ _).trans (modCore_coresSet _ _ _)

theorem nameJob_mkName (job : Half) (kind : BitVec 2) (index inc : Nat) : nameJob (mkName job kind index inc) = job := by
  ext i hi
  simp only [nameJob, mkName, BitVec.getElem_extractLsb', BitVec.getLsbD_append]
  have h1 : ¬ 48 + i < 16 := by omega
  have h2 : ¬ 48 + i - 16 < 30 := by omega
  have h3 : ¬ 48 + i - 16 - 30 < 2 := by omega
  have h4 : 48 + i - 16 - 30 - 2 = i := by omega
  simp only [h1, h2, h3, h4, if_false]
  exact BitVec.getLsbD_eq_getElem hi

/-- An actor restored in its place. -/
def Actor.restoredAt (a : Actor) (core number : Nat) (regions : Vector Region 8) (mirror : List Mirror) : Actor :=
  { a with life := .live, core := core, resident := number, regions := regions, held := [], saved := {}, mirror := mirror }

section
variable {s : State} (hr : Running s)
include hr

theorem pool_created (job : Half) (image : Word) (dies : BitVec 4) (img : Image) (j : Job) (hj : s.job? job = some j) (hv : j.valid = true)
    (himg : s.calicoImage job image = some img) (hinit : initPieces img = []) (hdies : dies ≠ 0) (hshard : s.shardRoom (mkName job 1 img.index 0) = true)
    (hnew : s.dir.pools.any (fun p => p.job == job && p.index == img.index) = false) :
    let rooms := ((s.coresFor job false).filter fun c => dies.getLsbD (dieOf c)).filterMap fun c => s.roomOn img c
    rooms ≠ [] →
    Completes (.poolCreation job image dies) s fun t => t.act = s.act ∧ ∃ p, t.dir.pools = s.dir.pools ++ [p] ∧ p.job = job ∧
      p.index = img.index ∧ p.life = .live ∧ p.dies = dies ∧ p.members.map (·.core) = rooms.map (·.core) ∧
      p.queues.map (·.die) = (List.range 4).filter (fun d => dies.getLsbD d) ∧ ∀ q ∈ p.queues, q.msgs = [] := by
  intro rooms hrooms
  obtain ⟨mem, hm⟩ := fillRooms_eq img [] rooms s
  have hexec : exec (.poolCreation job image dies) s = .next ((({ s with mem := mem } : State).setInc job false (2 ^ 30 + img.index)
      (s.nextInc job false (2 ^ 30 + img.index))).addPool (s.newPool job img dies rooms)) := by
    show execPoolCreation job image dies s = _
    unfold execPoolCreation
    rw [hj, Option.bind_eq_bind, Option.bind_some, himg, Option.bind_eq_bind, Option.bind_some, calicoData_none hinit, Option.bind_eq_bind, Option.bind_some]
    have hserved : (fun c => ((List.range 4).filter fun d => dies.getLsbD d).contains (dieOf c)) = fun c => dies.getLsbD (dieOf c) :=
      funext fun c => servedDies_contains dies (dieOf c)
    have hsome : rooms.isEmpty = false := List.isEmpty_eq_false_iff.2 hrooms
    dsimp only
    rw [hserved]
    refine (congrArg (event s) (if_neg ?_)).trans ?_
    · show ¬(!j.valid || (servedDies dies).isEmpty || rooms.isEmpty || !s.shardRoom (mkName job 1 img.index 0) || _) = true
      rw [hv, servedDies_ne hdies, hsome, hshard, hnew]
      decide
    · show event s (some (((rooms.foldl (fun s r => s.fillRoom img r []) s).setInc job false (2 ^ 30 + img.index)
        (s.nextInc job false (2 ^ 30 + img.index))).addPool _)) = _
      rw [hm]
      exact event_some hr _
  refine ⟨_, hexec, rfl, _, rfl, rfl, rfl, rfl, rfl, ?_, ?_, ?_⟩
  · exact List.map_map
  · exact List.map_map.trans (List.map_id _)
  · intro q hq
    obtain ⟨d, -, rfl⟩ := List.mem_map.1 hq
    rfl

theorem root_placed (job : Half) (image : Word) (img : Image) (j : Job) (room : Room) (hj : s.job? job = some j) (hv : j.valid = true) (h0 : job ≠ 0)
    (hruns : s.runs job = true) (himg : s.calicoImage job image = some img) (hinit : initPieces img = [])
    (hshard : s.shardRoom (mkName job 0 img.index 0) = true) (hnew : s.entryAt job false img.index = none)
    (hroom : s.findRoom img (s.coresFor job img.service) none = some room) :
    Completes (.rootActorPlacement job image) s fun t => t.act = s.act ∧
      (∃ a, t.entryAt job false img.index = some a ∧ a.life = .live ∧ a.root = true ∧ a.core = room.core ∧ a.resident = room.resident ∧
        a.regions = room.regions ∧ a.image = img ∧ a.onCore = [] ∧ a.inc = s.nextInc job false img.index) ∧
      ∃ k, t.job? job = some k ∧ k.started = true := by
  have hj0 : (job == 0) = false := beq_eq_false_iff_ne.2 h0
  obtain ⟨u, hu, hact, -, -, hentry⟩ := install_entryAt s job img room [] none
  rw [hj0] at hentry
  have hexec : exec (.rootActorPlacement job image) s = .next ((u.modActor (newActor s job img room none).name fun t => { t with root := true }).modJob job
      fun t => { t with started := true }) := by
    show execRootActorPlacement job image s = _
    unfold execRootActorPlacement
    rw [hj, Option.bind_eq_bind, Option.bind_some, himg, Option.bind_eq_bind, Option.bind_some, calicoData_none hinit, Option.bind_eq_bind, Option.bind_some,
      hv, hj0, hruns, hnew, hshard, if_neg (by decide), hroom, Option.bind_eq_bind, Option.bind_some, hu, Option.bind_eq_bind, Option.bind_some]
    exact event_some hr _
  obtain ⟨k, hk⟩ := job_modJob (u.modActor (newActor s job img room none).name fun t => { t with root := true }) (j := job)
    (f := fun t => { t with started := true }) fun _ => rfl
  refine ⟨_, hexec, hact, ⟨_, entryAt_modActor rfl (f := fun t => { t with root := true }) (fun _ => ⟨rfl, rfl, rfl⟩) hentry, rfl, rfl, rfl, rfl, rfl, rfl, rfl, ?_⟩,
    _, hk, rfl⟩
  show s.nextInc job (job == 0) img.index = _
  rw [hj0]

theorem actor_restored (a : Actor) (lcore : Half) (resident core number : Nat) (regions : Vector Region 8) (hb : Bears s a.name a) (hl : a.life = .saved)
    (hruns : s.runs a.job = true) (hw : s.writing a.job = false) (hheld : a.held = []) (hplaces : a.saved.places = [(lcore, resident, regions)])
    (hplace : s.placeFor a.job (lcore, resident, regions) = some (core, lcore, number, regions)) :
    Completes (.actorRestore a.name) s fun t => t.act = { s.act with memo := t.act.memo } ∧
      ∃ b, Bears t a.name b ∧ b.life = .live ∧ b.core = core ∧ b.resident = number ∧ b.regions = regions ∧ b.spill = a.spill := by
  obtain ⟨hkind, hfind⟩ := hb
  have hpool : s.dir.pools.find? (fun p => p.name == a.name && nameKind a.name == 1) = none :=
    List.find?_eq_none.2 fun p _ => by rw [beq_eq_false_iff_ne.2 hkind, Bool.and_false]; exact Bool.false_ne_true
  obtain ⟨mem, hcores⟩ := restorePlace_cores s a.saved 0 core lcore regions
  let f (t : Actor) : Actor := t.restoredAt core number regions
    ((t.mirror.zip ([] : List (Nat × Half × Nat × Vector Region 8))).map fun x => { x.1 with core := x.2.1, resident := x.2.2.2.1, regions := x.2.2.2.2 })
  have hexec : exec (.actorRestore a.name) s = .next (((s.restorePlace a.saved 0 core lcore regions).modActor a.name f).setLastDie a.job a.service a.index (dieOf core)) := by
    show execActorRestore a.name s = _
    unfold execActorRestore
    rw [show nameJob a.name = a.job from nameJob_mkName _ _ _ _, hruns, if_neg (by decide), hpool]
    dsimp only
    rw [hfind, Option.bind_eq_bind, Option.bind_some, hl, hw, if_neg (by decide), hplaces, hheld]
    rw [List.mapM_cons, hplace, List.mapM_nil]
    exact event_some hr _
  have hbears : Bears (s.restorePlace a.saved 0 core lcore regions) a.name a := ⟨hkind, by rw [hcores.dir]; exact hfind⟩
  refine ⟨_, hexec, ?_, f a, bears_modActor hbears (f := f) fun _ => rfl, rfl, rfl, rfl, rfl, rfl⟩
  obtain ⟨m, hm⟩ := hcores.eq
  show (s.restorePlace a.saved 0 core lcore regions).act = { s.act with memo := (s.restorePlace a.saved 0 core lcore regions).act.memo }
  rw [hm]

end

/-- Settles O56: Calico creates a pool, places a job's first actor and restores a saved one, where there is room. -/
theorem placementEvents : Obligations.PlacementEvents := fun _ hr => ⟨pool_created hr, root_placed hr, actor_restored hr⟩

end Sys2Proof.Machine
end


section
/-! O57: Keystone's requests, records read, the scrubber, flip requests and a partition's stop. -/

namespace Sys2Proof.Machine
open Sys2Proof.Safety

/-! ## A request answered (16 R365, R367) -/

theorem bits_div (v lo n : Nat) : bits v lo n = v / 2 ^ lo % 2 ^ n := by rw [bits, Nat.shiftRight_eq_div_pow]

/-- An activation that has had its answer. -/
def Act.answered (a : Act) (status : Nat) : Act := { a with memo := .value (BitVec.ofNat 64 status) false, wait := .none }

/-- A state whose running activation has had Keystone's answer, and whose mailbox is what was behind the request. -/
def State.answeredBy (s : State) (aid status : Nat) (rest : List KReq) : State :=
  ({ s with key := { s.key with mailbox := rest } } : State).modAid aid fun a => a.answered status

/-- The running activation waits for the answer to the request at the head of the mailbox. -/
structure Awaits (s : State) (r : KReq) (rest : List KReq) : Prop where
  mailbox : s.key.mailbox = r :: rest
  only : ∀ x ∈ rest, x.id ≠ r.id
  live : s.act.live = true
  aid : s.act.aid = r.aid
  wait : s.act.wait = .keystone r.id

section
variable {s : State} {r : KReq} {rest : List KReq} (h : Awaits s r rest)
include h

theorem Awaits.waits : s.allActs.any (fun a => a.aid == r.aid && a.wait == .keystone r.id) = true := by
  unfold State.allActs
  rw [h.live, if_pos rfl, List.singleton_append, List.any_cons, h.aid, h.wait, beq_self_eq_true, beq_self_eq_true]
  rfl

theorem Awaits.served : s.key.mailbox.filter (fun t => t.id != r.id) = rest := by
  rw [h.mailbox, List.filter_cons_of_neg (by rw [bne_self_eq_false]; exact Bool.false_ne_true), List.filter_eq_self]
  exact fun x hx => bne_iff_ne.2 (h.only x hx)

theorem respond_of (status : Nat) : s.respond r status = s.answeredBy r.aid status rest := by
  unfold State.respond
  dsimp only
  rw [h.waits, h.served]
  rfl

/-- An answer that writes into the request's record. -/
theorem respond_writing (status off : Nat) (bs : List Byte) : s.respond r status (some (off, bs)) =
    (({ s with key := { s.key with mailbox := rest } } : State).writeNow 0 (r.record + off) bs false).modAid r.aid fun a => a.answered status := by
  unfold State.respond
  dsimp only
  rw [h.waits, h.served]
  rfl

theorem answeredBy_act (status : Nat) : (s.answeredBy r.aid status rest).act = s.act.answered status := by
  show (if (s.act.live && s.act.aid == r.aid) = true then _ else _) = _
  rw [h.live, h.aid, beq_self_eq_true]
  rfl

theorem request_of (ha : r.attest = false) {code : Nat} (hc : r.code = code) : s.request code = some r := by
  unfold State.request
  rw [h.mailbox, List.head?_cons, Option.bind_eq_bind, Option.bind_some, ha, hc, beq_self_eq_true]
  rfl

end

/-- A state that keeps the running activation and Keystone's mailbox. -/
theorem Awaits.of {s u : State} {r : KReq} {rest : List KReq} (h : Awaits s r rest) (hact : u.act = s.act) (hkey : u.key.mailbox = s.key.mailbox) :
    Awaits u r rest := by
  obtain ⟨hm, ho, hl, ha, hw⟩ := h
  exact ⟨hkey.trans hm, ho, by rw [hact, hl], by rw [hact, ha], by rw [hact, hw]⟩

/-- Bytes written outside HBM for every observer at once stand in the cells. -/
theorem look_writeNow_plain (s : State) (gen a : Nat) (bs : List Byte) (poison : Bool) (ha : isHbm a = false) {i : Nat} (hi : i < bs.length) :
    look 0 (s.writeNow gen a bs poison).mem.cells (a + i) = bs.getD i 0 := by
  have hput : look 0 (s.mem.writePlain a bs poison).cells (a + i) = bs.getD i 0 := by
    refine (look_putN a bs s.mem.cells (a + i)).trans ?_
    rw [if_pos (by omega), Nat.add_sub_cancel_left]
  unfold State.writeNow
  rw [ha, if_neg Bool.false_ne_true]
  dsimp only
  rw [(unviews_same _ _).1]
  split
  · exact hput
  · exact hput

theorem isHbm_above {a : Nat} (h : isHbm a = false) (n : Nat) : isHbm (a + n) = false :=
  decide_eq_false fun hlt => of_decide_eq_false h (Nat.lt_of_le_of_lt (Nat.le_add_right a n) hlt)

/-! ## The requests -/

section
variable {s : State} (hr : Running s) {r : KReq} {rest : List KReq} (h : Awaits s r rest)
include hr h

/-- An answered request: what the step leaves, if it answers a state that keeps the running activation and the mailbox. -/
theorem completes_answered {i : Instr} {status : Nat} {u : State} {p : State → Prop} (hact : u.act = s.act) (hkey : u.key.mailbox = s.key.mailbox)
    (hexec : exec i s = event s (some (u.respond r status))) (hp : p (u.answeredBy r.aid status rest)) :
    Completes i s fun t => t.act = { s.act with memo := .value (BitVec.ofNat 64 status) false, wait := .none } ∧ t.key.mailbox = rest ∧ p t := by
  have hu := h.of hact hkey
  refine ⟨_, (hexec.trans (by rw [respond_of hu])).trans (event_some hr _), ?_, rfl, hp⟩
  rw [answeredBy_act hu, hact]
  rfl

section
variable (ha : r.attest = false)
include ha

theorem key_installed (hf : r.formed = true) (hc : r.code = 1) (hz : r.arg / 2 ^ 6 % 2 ^ 26 = 0) (hn : r.arg % 2 ^ 5 < 20) (l : Link)
    (hl : (s.link (r.arg % 2 ^ 5)).install (r.arg.testBit 5) = some l) :
    Completes .installLinkKey s fun t => t.act = { s.act with memo := .value (BitVec.ofNat 64 0) false, wait := .none } ∧ t.key.mailbox = rest ∧
      t.link (r.arg % 2 ^ 5) = l ∧ t.mem = s.mem := by
  refine completes_answered hr h (u := s.modLink (r.arg % 2 ^ 5) fun _ => l) rfl rfl ?_ ⟨vget_vset_self _ _ _ hn, rfl⟩
  show execInstallLinkKey s = _
  unfold execInstallLinkKey
  rw [request_of h ha hc]
  dsimp only
  have hfield : bits r.arg 0 5 = r.arg % 2 ^ 5 := by rw [bits_div, pow_zero, Nat.div_one]
  rw [hfield, bits_div r.arg 6 26, hz, hf, hl, if_neg]
  rw [decide_eq_false (Nat.not_le.2 hn)]
  decide

theorem key_bound (key : Nat) (hk : s.keyArg r = .inr key) (hc : r.code = 2) (hfree : look? s.mem.keySlots key = none) :
    Completes .bindMemoryKey s fun t => t.act = { s.act with memo := .value (BitVec.ofNat 64 0) false, wait := .none } ∧ t.key.mailbox = rest ∧
      t.mem = { s.mem with keySlots := t.mem.keySlots } ∧ look? t.mem.keySlots key = some (s.key.generation + 1) ∧
      t.key.generation = s.key.generation + 1 := by
  refine completes_answered hr h (u := { s with mem := { s.mem with keySlots := put? key (s.key.generation + 1) s.mem.keySlots }
                                                key := { s.key with generation := s.key.generation + 1 } }) rfl rfl ?_
    ⟨rfl, look?_put?_self _ _ _, rfl⟩
  show execBindMemoryKey s = _
  unfold execBindMemoryKey
  rw [request_of h ha hc, Option.bind_eq_bind, Option.bind_some, hk]
  dsimp only
  rw [hfree, if_neg (by decide)]

theorem key_taken (key : Nat) (hk : s.keyArg r = .inr key) (hc : r.code = 2) (hheld : (look? s.mem.keySlots key).isSome = true) :
    Completes .bindMemoryKey s fun t => t.act = { s.act with memo := .value (BitVec.ofNat 64 1) false, wait := .none } ∧ t.key.mailbox = rest ∧
      t.mem = s.mem := by
  refine completes_answered hr h (u := s) rfl rfl ?_ rfl
  show execBindMemoryKey s = _
  unfold execBindMemoryKey
  rw [request_of h ha hc, Option.bind_eq_bind, Option.bind_some, hk]
  dsimp only
  rw [hheld, if_pos rfl]

theorem key_retired (key : Nat) (hk : s.keyArg r = .inr key) (hc : r.code = 3) (hheld : (look? s.mem.keySlots key).isSome = true) (hidle : s.keyBusy key = false) :
    Completes .retireMemoryKey s fun t => t.act = { s.act with memo := .value (BitVec.ofNat 64 0) false, wait := .none } ∧ t.key.mailbox = rest ∧
      t.mem = { s.mem with keySlots := t.mem.keySlots } ∧ look? t.mem.keySlots key = none := by
  refine completes_answered hr h (u := { s with mem := { s.mem with keySlots := del? key s.mem.keySlots } }) rfl rfl ?_ ⟨rfl, look?_del_self _ _⟩
  show execRetireMemoryKey s = _
  unfold execRetireMemoryKey
  rw [request_of h ha hc, Option.bind_eq_bind, Option.bind_some, hk]
  dsimp only
  rw [Option.isNone_eq_false_iff.2 hheld, hidle, if_neg Bool.false_ne_true, if_neg Bool.false_ne_true]

theorem record_sealed (hf : r.formed = true) (hc : r.code = 5) (hz : r.arg / 2 ^ 16 = 0) (hopen : (s.openRecord (BitVec.ofNat 16 r.arg)).isSome = true) :
    Completes .sealAttestationRecord s fun t => t.act = { s.act with memo := .value (BitVec.ofNat 64 0) false, wait := .none } ∧ t.key.mailbox = rest ∧
      t.mem = s.mem ∧ t.openRecord (BitVec.ofNat 16 r.arg) = none := by
  have hnone : (s.sealRecord (BitVec.ofNat 16 r.arg) false).openRecord (BitVec.ofNat 16 r.arg) = none := by
    refine List.find?_eq_none.2 fun x hx hopen => ?_
    obtain ⟨hj, hu⟩ := Bool.and_eq_true_iff.1 hopen
    exact (sealRecord_unsealed hx (by rwa [Bool.not_eq_true'] at hu)).1 (beq_iff_eq.1 hj)
  refine completes_answered hr h (u := s.sealRecord (BitVec.ofNat 16 r.arg) false) rfl rfl ?_ ⟨rfl, hnone⟩
  show execSealAttestationRecord s = _
  unfold execSealAttestationRecord
  rw [request_of h ha hc, Option.bind_eq_bind, Option.bind_some, hf, bits_div, hz]
  dsimp only
  rw [Option.isNone_eq_false_iff.2 hopen, if_neg (by decide), if_neg Bool.false_ne_true]

end

/-- A measurement added to a job's open record. -/
def State.measured (s : State) (job : Half) (m : Nat × List Byte) : State :=
  { s with key := { s.key with records := mapIf (fun t => t.job == job && !t.sealed) (fun t => { t with entries := t.entries ++ [m] }) s.key.records } }

/-- A model record's set vouched for by Keystone, with its digest. -/
def State.vouched (s : State) (num set : Nat) (job : Half) (digest : List Byte) : State :=
  let models := mapIf (fun x => x.num == num) (fun x => x.verified set (spansDomains job) digest) s.exp.models
  { s with exp := { s.exp with models := models }, key := { s.key with verified := s.key.verified ++ [(job, digest)] } }

omit hr h in
theorem verified_ver (m : ModelRec) {set : Nat} (ingress : Bool) (digest : List Byte) (h : set < 2) : (m.verified set ingress digest).ver.getLsbD set = true := by
  show (m.ver ||| (1#2 <<< set)).getLsbD set = true
  rw [BitVec.getLsbD_or, BitVec.getLsbD_shiftLeft, decide_eq_true h, decide_eq_false (Nat.lt_irrefl set), Nat.sub_self]
  simp

omit hr h in
theorem killActor_tables (s : State) (n : Word) (reason : Nat) : (s.killActor n reason).key = s.key ∧ (s.killActor n reason).exp = s.exp := by
  obtain ⟨-, hk⟩ | ⟨-, ps, hk⟩ := s.killActor_cases n reason
  · rw [hk]
    exact ⟨rfl, rfl⟩
  · rw [hk]
    exact ⟨rfl, rfl⟩

omit hr h in
theorem measured_open {job : Half} {rec : Attest} (hopen : s.openRecord job = some rec) (m : Nat × List Byte) :
    (s.measured job m).openRecord job = some { rec with entries := rec.entries ++ [m] } := by
  have hfind : s.key.records.find? (fun t => t.job == job && !t.sealed) = some rec := hopen
  refine (find?_mapIf (f := fun t : Attest => { t with entries := t.entries ++ [m] }) s.key.records fun _ _ => rfl).trans ?_
  rw [hfind, Option.map_some, if_pos (List.find?_some (p := fun t : Attest => t.job == job && !t.sealed) hfind)]

theorem measurement_appended (rec : Attest) (ha : r.attest = true) (hkind : r.word 0 / 2 ^ 16 = 2) (hzero : ∀ b ∈ (r.bytes.drop 40).take 24, b = 0)
    (hopen : s.openRecord (BitVec.ofNat 16 (r.word 0)) = some rec) (hroom : rec.entries.length < 4096) :
    Completes .appendMeasurement s fun t => t.act = { s.act with memo := .value (BitVec.ofNat 64 0) false, wait := .none } ∧ t.key.mailbox = rest ∧
      t.mem = s.mem ∧ t.openRecord (BitVec.ofNat 16 (r.word 0)) = some { rec with entries := rec.entries ++ [(2, (r.bytes.drop 8).take 32)] } := by
  refine completes_answered hr h (u := s.measured (BitVec.ofNat 16 (r.word 0)) (2, (r.bytes.drop 8).take 32)) rfl rfl ?_ ⟨rfl, measured_open hopen _⟩
  have hk : bits (r.word 0) 16 4 = 2 := by
    rw [bits_div, hkind]
    rfl
  have hz : bits (r.word 0) 20 44 = 0 := by
    rw [bits_div, show (2 : Nat) ^ 20 = 2 ^ 16 * 2 ^ 4 from rfl, ← Nat.div_div_eq_div_mul, hkind]
    rfl
  have hclean : ((r.bytes.drop 40).take 24).any (· != 0) = false := List.any_eq_false.2 fun b hb => by
    rw [hzero b hb]
    decide
  show execAppendMeasurement s = _
  unfold execAppendMeasurement
  rw [h.mailbox, List.head?_cons, Option.bind_eq_bind, Option.bind_some, ha, hk, hz, hclean]
  dsimp only
  rw [hopen, if_neg (by decide), if_neg (by decide)]
  dsimp only
  rw [if_neg]
  · rfl
  · rw [decide_eq_false (Nat.not_le.2 hroom), Bool.or_false]
    simp

theorem identity_read (ha : r.attest = false) (hf : r.formed = true) (hc : r.code = 6) (hplain : isHbm r.record = false) :
    Completes .readIdentity s fun t => t.act = { s.act with memo := .value (BitVec.ofNat 64 0) false, wait := .none } ∧ t.key.mailbox = rest ∧
      ∀ i < 32, look 0 t.mem.cells (r.record + 16 + i) = Config.identityDigest.getD i 0 := by
  let bs := (List.range 32).map fun k => Config.identityDigest.getD k 0
  have hact (v : State) (hv : v.act = s.act) : (v.modAid r.aid fun a => a.answered 0).act = s.act.answered 0 := by
    show (if (v.act.live && v.act.aid == r.aid) = true then _ else _) = _
    rw [hv, h.live, h.aid, beq_self_eq_true]
    rfl
  have hstored := writeNow_stored { s with key := { s.key with mailbox := rest } } 0 (r.record + 16) bs false
  have hexec : exec .readIdentity s = .next ((({ s with key := { s.key with mailbox := rest } } : State).writeNow 0 (r.record + 16) bs false).modAid r.aid
      fun a => a.answered 0) := by
    show execReadIdentity s = _
    unfold execReadIdentity
    rw [h.mailbox, List.head?_cons, Option.bind_eq_bind, Option.bind_some, ha, hc, hf, if_neg (by decide), if_neg (by decide), respond_writing h]
    exact event_some hr _
  refine ⟨_, hexec, hact _ hstored.act, ?_, fun i hi => ?_⟩
  · show (State.writeNow _ _ _ _ _).key.mailbox = rest
    rw [hstored.eq]
  · refine (look_writeNow_plain _ _ _ _ _ (isHbm_above hplain 16) (by rw [List.length_map, List.length_range]; exact hi)).trans ?_
    rw [List.getD_eq_getElem?_getD, List.getElem?_map, List.getElem?_range hi]
    rfl

theorem signature_verified (ha : r.attest = false) (hf : r.formed = true) (hc : r.code = 4) (hz : r.arg / 2 ^ 16 = 0) (h1 : r.word 1 / 2 % 2 ^ 15 = 0)
    (h2 : r.word 1 / 2 ^ 32 = 0) (m : ModelRec) (sig : List Byte) (u : State)
    (hm : s.modelOf (BitVec.ofNat 16 r.arg) (BitVec.ofNat 16 (r.word 1 / 2 ^ 16 % 2 ^ 16)) = some m)
    (hsig : s.readRecord r.who (r.word 2) 16224 32 = .ok (some sig, u)) (hact : u.act = s.act) (_ : u.acts = s.acts) (hkey : u.key = s.key) (hexp : u.exp = s.exp) :
    Completes .verifyWeightSetSignature s fun t => t.key.mailbox = rest ∧
      (Config.verifies ((r.bytes.drop 24).take 32) sig = true → t.act.memo = .value 0 false ∧
        ∃ x ∈ t.exp.models, x.num = m.num ∧ x.ver.getLsbD (r.word 1 % 2) = true ∧
          vget x.manifest (r.word 1 % 2) = (r.bytes.drop 24).take 32) ∧
      (Config.verifies ((r.bytes.drop 24).take 32) sig = false → t.exp.models = s.exp.models ∧
        (spansDomains (BitVec.ofNat 16 r.arg) = true → t.act.memo = .value 1 false)) := by
  have hset : bits (r.word 1) 0 1 = r.word 1 % 2 := by rw [bits_div, pow_zero, Nat.div_one, pow_one]
  have hdrop : Awaits (u.dropKept r.who) r rest := h.of (u := u.dropKept r.who) hact (congrArg Keystone.mailbox hkey)
  have hexec : exec .verifyWeightSetSignature s = event s (some (if Config.verifies ((r.bytes.drop 24).take 32) sig
      then ((u.dropKept r.who).vouched m.num (r.word 1 % 2) (BitVec.ofNat 16 r.arg) ((r.bytes.drop 24).take 32)).respond r 0
      else if spansDomains (BitVec.ofNat 16 r.arg) then (u.dropKept r.who).respond r 1 else ((u.dropKept r.who).respond r 1).killActor r.who.name 16)) := by
    show execVerifyWeightSetSignature s = _
    unfold execVerifyWeightSetSignature
    rw [request_of h ha hc, Option.bind_eq_bind, Option.bind_some]
    dsimp only
    rw [hset, hf, bits_div, bits_div, bits_div, bits_div, hz, pow_one, h1, h2, if_neg (by decide), hm]
    dsimp only
    rw [hsig]
    dsimp only
    split
    · rfl
    · rfl
  cases hv : Config.verifies ((r.bytes.drop 24).take 32) sig with
  | true =>
    have hvouched : Awaits ((u.dropKept r.who).vouched m.num (r.word 1 % 2) (BitVec.ofNat 16 r.arg) ((r.bytes.drop 24).take 32)) r rest := hdrop.of rfl rfl
    rw [hv, if_pos rfl, respond_of hvouched] at hexec
    refine ⟨_, hexec.trans (event_some hr _), rfl, fun _ => ⟨?_, ?_⟩, fun hno => absurd hno (by decide)⟩
    · rw [answeredBy_act hvouched]
      rfl
    · have hmem : m ∈ u.exp.models := by
        rw [hexp]
        exact List.mem_of_find?_eq_some hm
      refine ⟨m.verified (r.word 1 % 2) (spansDomains (BitVec.ofNat 16 r.arg)) ((r.bytes.drop 24).take 32), ?_, rfl, ?_, ?_⟩
      · exact List.mem_map.2 ⟨m, hmem, if_pos (beq_self_eq_true m.num)⟩
      · exact verified_ver m _ _ (Nat.mod_lt _ (by decide))
      · exact vget_vset_self _ _ _ (Nat.mod_lt _ (by decide))
  | false =>
    rw [hv, if_neg Bool.false_ne_true, respond_of hdrop] at hexec
    cases hd : spansDomains (BitVec.ofNat 16 r.arg) with
    | true =>
      rw [hd, if_pos rfl] at hexec
      refine ⟨_, hexec.trans (event_some hr _), rfl, fun hno => absurd hno (by decide), fun _ => ⟨congrArg Exp.models hexp, fun _ => ?_⟩⟩
      rw [answeredBy_act hdrop]
      rfl
    | false =>
      rw [hd, if_neg Bool.false_ne_true] at hexec
      obtain ⟨hkill, hmodels⟩ := killActor_tables ((u.dropKept r.who).answeredBy r.aid 1 rest) r.who.name 16
      refine ⟨_, hexec.trans (event_some hr _), ?_, fun hno => absurd hno (by decide), fun _ => ⟨?_, fun hno => absurd hno (by decide)⟩⟩
      · rw [hkill]
        rfl
      · rw [hmodels]
        exact congrArg Exp.models hexp

end

/-! ## Records read, the scrubber, flip requests and stops -/

/-- A line read by the scrubber, whose place in its stack moves on. -/
def State.scrubRead (s : State) (k line : Nat) : State :=
  let pos := look 0 s.mem.scrub k
  let t := s.settle (line * 64) 64
  let start := if pos = 0 then put? k s.env.time t.mem.scrubStart else t.mem.scrubStart
  { t with mem := { t.mem with scrub := put 0 k ((pos + 1) % stackLines) t.mem.scrub, scrubStart := start } }

theorem scrubRead_act (s : State) (k line : Nat) : (s.scrubRead k line).act = s.act := (settle_settled s (line * 64) 64).act

theorem scrubRead_moves (s : State) (k line : Nat) : look 0 (s.scrubRead k line).mem.scrub k = (look 0 s.mem.scrub k + 1) % stackLines :=
  look_put_self _ _ _ _

theorem settleLevels_core (s : State) (c : Nat) : s.settleLevels.core c = s.core c := by
  obtain ⟨exp, ph, la, env, wire, h⟩ := settleLevels_eq s
  rw [h]
  rfl

theorem vget_mem_toList {α : Type} [Inhabited α] {n k : Nat} (v : Vector α n) (h : k < n) : vget v k ∈ v.toList := by
  unfold vget
  rw [dif_pos h]
  exact Vector.mem_toList_iff.2 (Vector.getElem_mem h)

/-- A partition with nothing to wait for has empty queues. -/
theorem headsOf_idle {s : State} {p : Nat} (h : s.busy p = false) : s.headsOf p = [] := by
  unfold State.busy at h
  simp only [Bool.or_eq_false_iff, List.any_eq_false, Bool.not_eq_true, Bool.not_eq_false'] at h
  obtain ⟨⟨⟨⟨-, hqueued⟩, -⟩, -⟩, -⟩ := h
  refine List.flatMap_eq_nil_iff.2 fun c hc => List.filterMap_eq_nil_iff.2 fun q hq => ?_
  have hempty : (s.core c).queues.toList.flatten = [] := List.isEmpty_iff.1 (hqueued c hc)
  have hnil : vget (s.core c).queues q = [] := List.flatten_eq_nil_iff.1 hempty _ (vget_mem_toList _ (List.mem_range.1 hq))
  rw [State.head, hnil]
  rfl

theorem stopDone_parts (s : State) (p : Nat) : ∃ act acts, s.stopDone p =
    { ((s.coresOf p).foldl (fun s c => s.mergeDirty c) s).modPart p (fun t => { t with state := 3, stoppers := [] }) with act := act, acts := acts } := by
  have hfold (l : List Nat) (u : State) : ∃ act acts, l.foldl (fun s aid => s.modAid aid fun a => if a.wait == .stop p then { a with memo := .value 0 false, wait := .none } else a) u =
      { u with act := act, acts := acts } := by
    induction l generalizing u with
    | nil => exact ⟨u.act, u.acts, rfl⟩
    | cons aid l ih => exact ih _
  exact hfold _ _

theorem stopDone_part (s : State) {p : Nat} (hp : p < 48) : ((s.stopDone p).part p).state = 3 := by
  obtain ⟨act, acts, h⟩ := stopDone_parts s p
  rw [h]
  exact congrArg Part.state (part_modPart _ (fun t => { t with state := 3, stoppers := [] }) hp)

theorem stopDone_clean (s : State) (p c : Nat) (hc : c ∈ s.coresOf p) : ((s.stopDone p).core c).dirty = [] := by
  obtain ⟨act, acts, h⟩ := stopDone_parts s p
  rw [h]
  refine (congrArg Core.dirty (modPart_core _ p (fun t => { t with state := 3, stoppers := [] }) c)).trans ?_
  rw [(mergeAll (s.coresOf p) s).2 c, if_pos hc]


section
variable {s : State} (hr : Running s)
include hr

theorem record_read (job : Half) (r : Attest) (h : s.key.records.find? (fun t => t.job == job && t.sealed) = some r) :
    Completes (.attestationRecordRead job) s fun t => Aside s t ∧ t.host.response = (0, r.body ++ r.signature) ∧ t.key.records = s.key.records.erase r := by
  refine ⟨{ s with key := { s.key with records := s.key.records.erase r }, host := { s.host with response := (0, r.body ++ r.signature) } }, ?_, ⟨rfl, rfl⟩, rfl, rfl⟩
  show execAttestationRecordRead job s = _
  unfold execAttestationRecordRead
  rw [h]
  exact event_some hr _

theorem line_scrubbed (die stack : Nat) (hd : die < 4) (hs : stack < 3) (hsteps : 4 ≤ s.boot.steps)
    (hmin : s.boot.minimal = false ∨ (die = 0 ∧ stack = 0 ∧ s.boot.hbm = true)) (hdue : s.mem.passDue (die * 3 + stack) s.env.time = true) :
    Completes (.patrolScrubRead die stack) s fun t => t.act = s.act ∧
      look 0 t.mem.scrub (die * 3 + stack) = (look 0 s.mem.scrub (die * 3 + stack) + 1) % stackLines := by
  have hguard : (decide (4 ≤ die) || decide (3 ≤ stack) || decide (s.boot.steps < 4) || (s.boot.minimal && !(die == 0 && stack == 0 && s.boot.hbm)) ||
      !s.mem.passDue (die * 3 + stack) s.env.time) = false := by
    rw [decide_eq_false (Nat.not_le.2 hd), decide_eq_false (Nat.not_le.2 hs), decide_eq_false (Nat.not_lt.2 hsteps), hdue]
    obtain hm | ⟨rfl, rfl, hhbm⟩ := hmin
    · rw [hm]
      rfl
    · rw [hhbm, beq_self_eq_true, Bool.and_self, Bool.and_self, Bool.not_true, Bool.and_false]
      rfl
  have hexec : exec (.patrolScrubRead die stack) s =
      .next (s.scrubRead (die * 3 + stack) ((die * 4 + stack) * 2 ^ 30 + look 0 s.mem.scrub (die * 3 + stack))) := by
    show execPatrolScrubRead die stack s = _
    unfold execPatrolScrubRead
    exact (congrArg (event s) (if_neg (by rw [hguard]; exact Bool.false_ne_true))).trans (event_some hr _)
  exact ⟨_, hexec, scrubRead_act _ _ _, scrubRead_moves _ _ _⟩

theorem flip_requested (core : Nat) (a : Actor) (q : QMsg) (rest : List QMsg) (r : Actor) (ha : s.resolve diagnosticName = some a) (hcore : a.core = core)
    (hbox : a.onCore = q :: rest) (hkind : msgKind q.msg = 0x0100) (hidle : s.allActs.any (fun t => t.name == a.name) = false)
    (hr' : s.flipFrom q.msg = some r) (hsvc : isService r.core = false) (hroom : (vget (s.core r.core).queues 4).length < 16) :
    Completes (.flipRequest core) s fun t => Aside s t ∧ ∃ e, vget (t.core r.core).queues 4 = vget (s.core r.core).queues 4 ++ [e] ∧
      e.op = .mflip q.msg.w4 r.name 0 ∧ e.post = some q.msg.w5.toNat := by
  let e : Entry := { id := s.env.nextId, aid := 0, actor := a.name, job := 0, op := .mflip q.msg.w4 r.name 0, post := some q.msg.w5.toNat }
  have hexec : exec (.flipRequest core) s = .next (((s.pop (.mailbox a.name q)).fresh.2.enqueue r.core 4 e).settleLevels) := by
    show execFlipRequest core s = _
    unfold execFlipRequest
    rw [ha, Option.bind_eq_bind, Option.bind_some, hbox, List.cons_append, List.head?_cons, Option.bind_eq_bind, Option.bind_some]
    refine (congrArg (event s) (if_neg ?_)).trans ?_
    · rw [hidle, decide_eq_false (not_not.2 hcore), decide_eq_false (not_not.2 hkind)]
      decide
    · rw [hr']
      dsimp only
      rw [hsvc, if_neg Bool.false_ne_true, State.room, decide_eq_true hroom]
      exact event_some hr _
  have hqueue := enqueue_queue_self (s.pop (.mailbox a.name q)).fresh.2 (core := r.core) (q := 4) e (by decide)
  obtain ⟨w, g, hjoined⟩ := joined_eq ((s.pop (.mailbox a.name q)).fresh.2.core r.core) 4 e (s.pop (.mailbox a.name q)).fresh.2.env.time
  refine ⟨_, hexec, aside_trans ⟨rfl, rfl⟩ (settleLevels_aside _), _, (congrArg (fun c : Core => vget c.queues 4) (settleLevels_core _ _)).trans hqueue, ?_, ?_⟩
  · rw [hjoined]
  · rw [hjoined]

theorem stop_completes (p : Nat) (hstate : (s.part p).state = 2) (hstop : s.stoppable p = []) (hbusy : s.busy p = false) :
    Completes (.partitionStopComplete p) s fun t => (t.part p).state = 3 ∧ ∀ c ∈ s.coresOf p, (t.core c).dirty = [] := by
  have hheads := headsOf_idle hbusy
  have hexec : exec (.partitionStopComplete p) s = .next (s.stopDone p) := by
    show execPartitionStopComplete p s = _
    unfold execPartitionStopComplete
    rw [hstate, hstop, hheads, hbusy, if_neg (by decide), if_neg (by decide), List.isEmpty_nil, Bool.not_true, Bool.and_false, Bool.false_and,
      if_neg (by decide), if_neg (by decide)]
    exact event_some hr _
  have hp : p < 48 := part_lt (by rw [hstate]; decide)
  exact ⟨_, hexec, stopDone_part s hp, stopDone_clean s p⟩

end

/-- Settles O57: each request that Keystone serves is answered and leaves the mailbox; records are read, lines scrubbed, flips queued and stops end. -/
theorem keystoneEvents : Obligations.KeystoneEvents := fun s hr =>
  ⟨fun r rest hm hid hl ha hw =>
    have h : Awaits s r rest := ⟨hm, hid, hl, ha, hw⟩
    ⟨fun hatt hf => ⟨fun hc hz hn l hl => key_installed hr h hatt hf hc hz hn l hl,
        fun key hk => ⟨key_bound hr h hatt key hk, key_taken hr h hatt key hk, key_retired hr h hatt key hk⟩,
        signature_verified hr h hatt hf, record_sealed hr h hatt hf, identity_read hr h hatt hf⟩,
      measurement_appended hr h⟩,
    record_read hr, line_scrubbed hr, flip_requested hr, stop_completes hr⟩

end Sys2Proof.Machine
end


section
/-! O58: power, resets, the start's steps, fatal errors and cooling. -/

namespace Sys2Proof.Machine
open Sys2Proof.Safety

/-! ## Resets (20 R447) -/

/-- The volatile part of a package after a reset. -/
structure Fresh (t : State) (kind : BitVec 2) : Prop where
  act : t.act = {}
  acts : t.acts = []
  dir : t.dir = {}
  cores : t.cores = []
  reset : t.boot.reset = kind
  steps : t.boot.steps = 0
  halted : t.boot.halted = false
  tripped : t.boot.tripped = false
  powered : t.boot.powered = true

/-- A state after a warm reset of another. -/
structure Warmed (s t : State) : Prop where
  fresh : Fresh t 1
  cells : t.mem.cells = s.mem.cells.filter fun c => isHbm c.1 || outside c.1
  keys : t.mem.keySlots = []

theorem coldReset_fresh (s : State) : Fresh s.coldReset 0 := ⟨rfl, rfl, rfl, rfl, rfl, rfl, rfl, rfl, rfl⟩

theorem warmReset_warmed {s u : State} (h : u.mem = s.mem) : Warmed s u.warmReset :=
  ⟨⟨rfl, rfl, rfl, rfl, rfl, rfl, rfl, rfl, rfl⟩, congrArg (fun m : Mem => m.cells.filter fun c : Host.Cell => isHbm c.1 || outside c.1) h, rfl⟩

theorem Fresh.all {t : State} {kind : BitVec 2} (h : Fresh t kind) : t.act = {} ∧ t.acts = [] ∧ t.dir = {} ∧ t.cores = [] ∧ t.boot.reset = kind ∧
    t.boot.steps = 0 ∧ t.boot.halted = false ∧ t.boot.tripped = false ∧ t.boot.powered = true :=
  ⟨h.act, h.acts, h.dir, h.cores, h.reset, h.steps, h.halted, h.tripped, h.powered⟩

theorem Warmed.all {s t : State} (h : Warmed s t) : (t.act = {} ∧ t.acts = [] ∧ t.dir = {} ∧ t.cores = [] ∧ t.boot.reset = 1 ∧
    t.boot.steps = 0 ∧ t.boot.halted = false ∧ t.boot.tripped = false ∧ t.boot.powered = true) ∧
    t.mem.cells = s.mem.cells.filter (fun c => isHbm c.1 || outside c.1) ∧ t.mem.keySlots = [] := ⟨h.fresh.all, h.cells, h.keys⟩

theorem sealAll_key (s : State) (halted : Bool) : ∃ key, s.sealAll halted = { s with key := key } := by
  unfold State.sealAll
  generalize (s.key.records.filter fun r => !r.sealed).map (·.job) = l
  induction l generalizing s with
  | nil => exact ⟨s.key, rfl⟩
  | cons j l ih => exact ih (s.sealRecord j halted)

/-! ## With power -/

theorem powered_of {s : State} (h : s.boot.powered = true) (c : Option State) : powered s c = .next (c.getD s) := by
  unfold powered
  rw [h, if_neg (by decide)]

section
variable {s : State} (hp : s.boot.powered = true)
include hp

theorem perst_warms : Completes .perst s (Warmed s) := ⟨_, powered_of hp _, warmReset_warmed rfl⟩

theorem recovery_warms (ht : s.boot.tripped = true) : Completes .thermalRecovery s (Warmed s) := by
  refine ⟨s.warmReset, (powered_of hp _).trans ?_, warmReset_warmed rfl⟩
  rw [ht, if_pos rfl]
  rfl

theorem level_reset (port : Nat) (hport : s.hasPort port = true) :
    Completes (.functionLevelReset port) s fun t => t.boot = { s.boot with limit := 2800 } ∧ Aside s t ∧ t.dir = s.dir ∧
      vget t.host.ports port = {} ∧ ∀ p, t.rxq p = (if (s.rxq p).port = (port == 1) then {} else s.rxq p) := by
  let h : HostSide := { s.host with rxq := s.host.rxq.map fun q => if q.port == (port == 1) then ({} : Rxq) else q, ports := vset s.host.ports port {} }
  have hlt : port < 2 := by
    unfold State.hasPort at hport
    simp only [Bool.or_eq_true, Bool.and_eq_true, beq_iff_eq] at hport
    omega
  refine ⟨{ s with host := h, boot := { s.boot with limit := 2800 } }, (powered_of hp _).trans ?_, rfl, ⟨rfl, rfl⟩, rfl, vget_vset_self _ _ _ hlt, fun p => ?_⟩
  · rw [hport, if_neg (by decide)]
    rfl
  · by_cases h48 : p < 48
    · refine (vget_map s.host.rxq (fun q => if q.port == (port == 1) then ({} : Rxq) else q) h48).trans ?_
      simp only [beq_iff_eq]
      rfl
    · have hnone {v : Vector Rxq 48} : vget v p = {} := dif_neg h48
      exact hnone.trans (by rw [State.rxq, hnone, ite_self])

theorem retry_early (port : Nat) (v : Word32) (hport : s.hasPort port = true) (h0 : s.boot.steps = 0) :
    Completes (.bootRetry port v) s fun t => Aside s t ∧ t.boot = s.boot ∧ t.host.response = (2, []) := by
  refine ⟨s.respondHost 2 [], (powered_of hp _).trans ?_, ⟨rfl, rfl⟩, rfl, rfl⟩
  rw [hport, h0, if_neg (by decide), if_pos rfl]
  rfl

theorem limit_early (port : Nat) (v : Word32) (hport : s.hasPort port = true) (h0 : s.boot.steps = 0) :
    Completes (.pwrLimitWrite port v) s fun t => Aside s t ∧ t.boot = s.boot ∧ t.host.response = (2, []) := by
  refine ⟨s.respondHost 2 [], (powered_of hp _).trans ?_, ⟨rfl, rfl⟩, rfl, rfl⟩
  rw [hport, h0, if_pos (by decide)]
  rfl

theorem retry_warms (port : Nat) (v : Word32) (hport : s.hasPort port = true) (h0 : s.boot.steps ≠ 0) (hv : v.getLsbD 0 = true) (hm : s.boot.mode = 2) :
    Completes (.bootRetry port v) s fun t => Warmed s t ∧ t.boot.starts = 0 := by
  refine ⟨({ s with boot := { s.boot with starts := 0 } } : State).warmReset, (powered_of hp _).trans ?_, warmReset_warmed rfl, rfl⟩
  rw [hport, if_neg (by decide), if_neg h0, hv, hm, if_pos (by decide)]
  rfl

theorem retry_idle (port : Nat) (v : Word32) (hport : s.hasPort port = true) (h0 : s.boot.steps ≠ 0) (hm : s.boot.mode ≠ 2) :
    exec (.bootRetry port v) s = .next s := by
  refine (powered_of hp _).trans ?_
  rw [hport, if_neg (by decide), if_neg h0, beq_eq_false_iff_ne.2 hm, Bool.and_false, if_neg Bool.false_ne_true]
  rfl

theorem limit_written (port : Nat) (v : Word32) (hport : s.hasPort port = true) (h0 : s.boot.steps ≠ 0) :
    Completes (.pwrLimitWrite port v) s fun t => t = { s with boot := { s.boot with limit := BitVec.ofNat 12 (max 1200 (min 2800 (v.toNat % 4096))) } } := by
  refine ⟨_, (powered_of hp _).trans ?_, rfl⟩
  rw [hport, beq_eq_false_iff_ne.2 h0, Bool.and_false, if_neg Bool.false_ne_true, if_pos rfl]
  rfl

theorem trip_stops (ht : s.boot.tripped = false) :
    Completes .thermalTrip s fun t => Aside s t ∧ t.boot.tripped = true ∧ t.boot.mode = 3 ∧ t.key = s.key := by
  show ∃ t, execThermalTrip s = .next t ∧ _
  unfold execThermalTrip
  rw [powered_of hp, ht, if_neg Bool.false_ne_true]
  by_cases h : s.boot.steps < 8
  · simp only [if_pos h]
    exact ⟨_, rfl, ⟨rfl, rfl⟩, rfl, rfl, rfl⟩
  · simp only [if_neg h]
    exact ⟨_, rfl, ⟨rfl, rfl⟩, rfl, rfl, rfl⟩

end

/-! ## The start (20 R442 to R445) and fatal errors (18 R417) -/

section
variable {s : State}

theorem bootStep_first (h : s.boot.steps = 0) : s.bootStep = some s.phaseDone := by
  unfold State.bootStep
  rw [h]
  rfl

theorem bootStep_mode (h : s.boot.steps = 1) : s.bootStep = some s.chooseMode.phaseDone := by
  unfold State.bootStep
  rw [h]
  rfl

theorem bootStep_image (h : s.boot.steps = 2) : s.bootStep = some (if s.boot.imageOk then s.phaseDone else s.failStart 2 0) := by
  unfold State.bootStep
  rw [h]
  rfl

theorem bootStep_links (h : s.boot.steps = 5) : s.bootStep = if s.links.links.toList.any fun l => l.state == 1 then none else some s.phaseDone := by
  unfold State.bootStep
  rw [h]
  rfl

theorem bootStep_root (h : s.boot.steps = 6) : s.bootStep =
    some { s.placeRoot.getD s with boot := { (s.placeRoot.getD s).boot with steps := 7, rootSince := (s.placeRoot.getD s).env.time } } := by
  unfold State.bootStep
  rw [h]
  rfl

theorem bootFail_image (h : s.boot.steps = 2) (unit : Nat) : s.bootFail unit = if s.boot.imageOk then none else some (s.failStart 2 0) := by
  unfold State.bootFail
  rw [h]
  rfl

theorem serviceWords_env (s : State) : s.serviceWords.env = s.env := by
  unfold State.serviceWords
  generalize s.coresFor 0 true = l
  induction l generalizing s with
  | nil => rfl
  | cons c l ih => exact (ih _).trans rfl

theorem placeRoot_env (s : State) : (s.placeRoot.getD s).env = s.env := by
  cases h : s.placeRoot with
  | none => rfl
  | some t =>
    unfold State.placeRoot at h
    dsimp only at h
    split at h
    · cases h
    · obtain ⟨room, -, h⟩ := Option.bind_eq_some_iff.1 h
      obtain ⟨u, hu, -, -, henv, -⟩ := install_entryAt s.serviceWords 0 (rootImageOf s.serviceWords.boot.image.1) room (rootData s.serviceWords.boot.image.1) none
      rw [hu] at h
      cases h
      exact henv.trans (serviceWords_env s)

end

section
variable {s : State} (hr : Running s)
include hr

theorem fault_early (h : s.boot.steps < 8) : Completes (.fatalError .controllerFault) s fun t => Warmed s t ∧ t.boot.reason = 6 := by
  refine ⟨(s.noteFatal 0).failStart 6 0, ?_, warmReset_warmed rfl, rfl⟩
  show execFatalError .controllerFault s = _
  unfold execFatalError
  dsimp only
  rw [if_neg Bool.false_ne_true, if_pos h]
  exact event_some hr _

theorem fault_late (h : 8 ≤ s.boot.steps) : Completes (.fatalError .controllerFault) s fun t => Warmed s t ∧ (0, 0) ∈ t.host.msix ∧
    ∀ r ∈ t.key.records, r.sealed = true := by
  let u : State := { s.noteFatal 0 with host := { (s.noteFatal 0).host with msix := (s.noteFatal 0).host.msix ++ [(0, 0)] } }
  obtain ⟨key, hkey⟩ := sealAll_key u true
  have hexec : exec (.fatalError .controllerFault) s = .next u.haltSteps.warmReset := by
    show execFatalError .controllerFault s = _
    unfold execFatalError
    dsimp only
    rw [if_neg Bool.false_ne_true, if_neg (Nat.not_lt.2 h)]
    exact event_some hr _
  refine ⟨_, hexec, warmReset_warmed ?_, ?_, fun r hrec => (List.mem_filter.1 hrec).2⟩
  · show (u.sealAll true).mem = s.mem
    rw [hkey]
    rfl
  · show (0, 0) ∈ (u.sealAll true).host.msix
    rw [hkey]
    exact List.mem_append_right _ List.mem_cons_self

theorem step_of {t : State} (h : s.bootStep = some t) : exec (.bootPhaseComplete none) s = .next t := by
  show event s s.bootStep = _
  rw [h]
  exact event_some hr _

theorem phase_completes (h : s.boot.steps = 0 ∨ (s.boot.steps = 2 ∧ s.boot.imageOk = true) ∨ (s.boot.steps = 5 ∧ ∀ k < 20, (s.link k).state ≠ 1)) :
    Completes (.bootPhaseComplete none) s fun t => t = { s with boot := { s.boot with steps := s.boot.steps + 1, phase := BitVec.ofNat 4 s.boot.steps } } := by
  refine ⟨_, step_of hr (t := s.phaseDone) ?_, rfl⟩
  obtain h | ⟨h, hok⟩ | ⟨h, hlinks⟩ := h
  · exact bootStep_first h
  · exact (bootStep_image h).trans (by rw [hok, if_pos rfl])
  · have hnone : s.links.links.toList.any (fun l => l.state == 1) = false := List.any_eq_false.2 fun l hl => by
      obtain ⟨k, hk, rfl⟩ := List.getElem_of_mem hl
      have hk20 : k < 20 := by rwa [Vector.length_toList] at hk
      have hne := hlinks k hk20
      rw [State.link, vget, dif_pos hk20] at hne
      rw [Vector.getElem_toList, beq_eq_false_iff_ne.2 hne]
      exact Bool.false_ne_true
    exact (bootStep_links h).trans (by rw [hnone, if_neg Bool.false_ne_true])

theorem start_counted (h : s.boot.steps = 1) (hs : s.boot.starts.toNat < 3) :
    Completes (.bootPhaseComplete none) s fun t => t = { s with boot := { s.boot with steps := 2, phase := 1, starts := s.boot.starts + 1 } } := by
  refine ⟨_, step_of hr (bootStep_mode h), ?_⟩
  rw [State.chooseMode, if_neg (Nat.not_le.2 hs)]
  unfold State.phaseDone
  dsimp only
  rw [h]
  rfl

theorem image_refused (h : s.boot.steps = 2) (hbad : s.boot.imageOk = false) (failed : Option Nat) :
    Completes (.bootPhaseComplete failed) s fun t => Warmed s t ∧ t.boot.reason = 2 := by
  have hfails : (match failed with
      | none => s.bootStep
      | some unit => s.bootFail unit) = some (s.failStart 2 0) := by
    cases failed with
    | none => exact (bootStep_image h).trans (by rw [hbad, if_neg Bool.false_ne_true])
    | some unit => exact (bootFail_image h unit).trans (by rw [hbad, if_neg Bool.false_ne_true])
  exact ⟨_, (congrArg (event s) hfails).trans (event_some hr _), warmReset_warmed rfl, rfl⟩

theorem root_started (h : s.boot.steps = 6) : Completes (.bootPhaseComplete none) s fun t => t.boot.steps = 7 ∧ t.boot.rootSince = s.env.time :=
  ⟨_, step_of hr (bootStep_root h), rfl, congrArg Env.time (placeRoot_env s)⟩

theorem root_ready (h : s.boot.steps = 7) (htime : s.env.time ≤ s.boot.rootSince + 10000000000) (hlive : s.rootLive = true) (hmin : s.boot.minimal = false) :
    Completes .rootReady s fun t => t = { s with boot := { s.boot with steps := 8, phase := 6, mode := 1, starts := 0, reason := 0, detail := 0 } } := by
  refine ⟨_, ?_, rfl⟩
  show execRootReady s = _
  unfold execRootReady
  rw [if_pos ⟨h, htime, hlive⟩]
  dsimp only
  rw [hmin]
  exact event_some hr _

theorem root_late (h : s.boot.steps = 7) (htime : s.boot.rootSince + 10000000000 < s.env.time) :
    Completes .rootReadyTimeout s fun t => Warmed s t ∧ t.boot.reason = 5 := by
  refine ⟨s.failStart 5 0, ?_, warmReset_warmed rfl, rfl⟩
  show execRootReadyTimeout s = _
  unfold execRootReadyTimeout
  rw [if_pos ⟨h, htime⟩]
  exact event_some hr _

end

/-- Settles O58: resets leave a fresh package, a start's steps follow one another, and a failed start or a fatal error resets it. -/
theorem startEvents : Obligations.StartEvents := by
  intro s port point v fresh warm only
  refine ⟨fun h => ⟨s.coldReset, ?_, (coldReset_fresh s).all, rfl⟩, fun hp => ⟨⟨_, powered_of hp _, rfl⟩, ?_, fun ht => ?_, fun hport => ⟨level_reset hp port hport,
    fun h0 => ⟨retry_early hp port v hport h0, limit_early hp port v hport h0⟩, fun h0 => ⟨fun hv hm => ?_, retry_idle hp port v hport h0, limit_written hp port v hport h0⟩⟩,
    ⟨_, powered_of hp _, rfl⟩, trip_stops hp⟩, fun hr => ⟨fun h => ?_, fun h => ?_, phase_completes hr, start_counted hr, fun h hbad failed => ?_, root_started hr,
    root_ready hr, fun h htime => ?_⟩⟩
  · show execPowerOn s = _
    unfold execPowerOn
    rw [h, if_neg Bool.false_ne_true]
  · exact (perst_warms hp).imp fun t ht => ⟨ht.1, ht.2.all⟩
  · exact (recovery_warms hp ht).imp fun t ht => ⟨ht.1, ht.2.all⟩
  · exact (retry_warms hp port v hport h0 hv hm).imp fun t ht => ⟨ht.1, ht.2.1.all, ht.2.2⟩
  · exact (fault_early hr h).imp fun t ht => ⟨ht.1, ht.2.1.all, ht.2.2⟩
  · exact (fault_late hr h).imp fun t ht => ⟨ht.1, ht.2.1.all, ht.2.2⟩
  · exact (image_refused hr h hbad failed).imp fun t ht => ⟨ht.1, ht.2.1.all, ht.2.2⟩
  · exact (root_late hr h htime).imp fun t ht => ⟨ht.1, ht.2.1.all, ht.2.2⟩

end Sys2Proof.Machine
end


section
/-! O59: the host's registers, requests and messages, and the registers that Calico writes. -/

namespace Sys2Proof.Machine
open Sys2Proof.Safety

/-! ## Receive queues (19 R440) -/

theorem rxq_modRxq (s : State) {p : Nat} (f : Rxq → Rxq) (hp : p < 48) : (s.modRxq p f).rxq p = f (s.rxq p) := vget_vset_self _ _ _ hp

theorem modPart_rxq (s : State) (p : Nat) (f : Part → Part) (q : Nat) : (s.modPart p f).rxq q = s.rxq q := by
  obtain ⟨ps, h⟩ := s.modPart_parts p f
  rw [h]
  rfl

theorem modPart_aside (s : State) (p : Nat) (f : Part → Part) : Aside s (s.modPart p f) := ⟨modPart_act s p f, modPart_mem s p f⟩

theorem refillRing_idle {s : State} {p : Nat} (h : (s.part p).hostSpill = []) : s.refillRing p = s.modPart p fun t => { t with hostSpill := [] } := by
  unfold State.refillRing
  rw [h]
  rfl

section
variable {s : State} (hp : s.boot.powered = true) (ht : s.boot.tripped = false) (hsteps : 3 ≤ s.boot.steps) {p : Nat} (hlt : p < 48)
include ht hsteps hlt

omit hp in
theorem queuesAnswer_of : s.queuesAnswer p = true := by
  unfold State.queuesAnswer
  rw [ht, decide_eq_true hlt, decide_eq_true hsteps]
  rfl

include hp

theorem base_written (v : Word) (hv : v.toNat % 4096 = 0) : exec (.rxqBaseWrite p v) s = .next (s.modRxq p fun q => { q with base := v }) := by
  refine (powered_of hp _).trans ?_
  rw [queuesAnswer_of ht hsteps hlt, if_neg (by decide), if_pos hv]
  rfl

theorem base_refused (v : Word) (hv : v.toNat % 4096 ≠ 0) : exec (.rxqBaseWrite p v) s = .next s := by
  refine (powered_of hp _).trans ?_
  rw [queuesAnswer_of ht hsteps hlt, if_neg (by decide), if_neg hv]
  rfl

theorem size_written (v : Word) (hspill : (s.part p).hostSpill = []) (hv : ringSize v.toNat = true) :
    Completes (.rxqSizeWrite p v) s fun t => Aside s t ∧ t.rxq p = { s.rxq p with size := v } := by
  refine ⟨_, (powered_of hp _).trans ?_, aside_trans ⟨rfl, rfl⟩ (modPart_aside (s.modRxq p fun q => { q with size := v }) p fun t => { t with hostSpill := [] }),
    (modPart_rxq _ _ _ _).trans (rxq_modRxq s (fun q => { q with size := v }) hlt)⟩
  rw [queuesAnswer_of ht hsteps hlt, if_neg (by decide), if_pos hv, refillRing_idle (s := s.modRxq p fun q => { q with size := v }) hspill]
  rfl

theorem head_written (v : Word) (hspill : (s.part p).hostSpill = []) :
    Completes (.rxqHeadWrite p v) s fun t => Aside s t ∧ t.rxq p = { s.rxq p with head := v } := by
  refine ⟨_, (powered_of hp _).trans ?_, aside_trans ⟨rfl, rfl⟩ (modPart_aside (s.modRxq p fun q => { q with head := v }) p fun t => { t with hostSpill := [] }),
    (modPart_rxq _ _ _ _).trans (rxq_modRxq s (fun q => { q with head := v }) hlt)⟩
  rw [queuesAnswer_of ht hsteps hlt, if_neg (by decide), refillRing_idle (s := s.modRxq p fun q => { q with head := v }) hspill]
  rfl

theorem tail_kept (v : Word) : exec (.registerWrite (.rxqTail p) v) s = .next s := by
  exact (powered_of hp _).trans (congrArg (fun o : Option State => Host.Outcome.next (o.getD s)) (if_pos (queuesAnswer_of ht hsteps hlt)))

theorem overflow_cleared (v : Word) : exec (.registerWrite (.rxqOverflow p) v) s = .next (s.modRxq p fun q => { q with overflow := q.overflow &&& ~~~v }) := by
  exact (powered_of hp _).trans (congrArg (fun o : Option State => Host.Outcome.next (o.getD s)) (if_pos (queuesAnswer_of ht hsteps hlt)))

end

/-! ## Requests of the host (19 R438, 20 R446) -/

section
variable {s : State} (hp : s.boot.powered = true) {port : Nat} (hport : s.hasPort port = true)
include hp hport

theorem unsupported_answered : Completes (.unsupportedRequest port) s fun t => Aside s t ∧ t.host.response = (1, []) := by
  refine ⟨s.respondHost 1 [], (powered_of hp _).trans ?_, ⟨rfl, rfl⟩, rfl⟩
  rw [hport, if_pos rfl]
  rfl

theorem config_early (h0 : s.boot.steps = 0) (k : Nat) : Completes (.configurationRequest port k) s fun t => Aside s t ∧ t.host.response = (2, []) := by
  refine ⟨s.respondHost 2 [], (powered_of hp _).trans ?_, ⟨rfl, rfl⟩, rfl⟩
  rw [hport, if_neg (by decide), if_pos h0]
  rfl

theorem config_answered (h0 : s.boot.steps ≠ 0) (k : Nat) :
    Completes (.configurationRequest port k) s fun t => Aside s t ∧ t.host.response = (0, leBytes 4 (s.configRead port k)) := by
  refine ⟨s.respondHost 0 (leBytes 4 (s.configRead port k)), (powered_of hp _).trans ?_, ⟨rfl, rfl⟩, rfl⟩
  rw [hport, if_neg (by decide), if_neg h0]
  rfl

end

/-! ## CXL.mem and messages (19 R438 to R440) -/

theorem respondHost_aside (s : State) (status : Nat) (bs : List Byte) : Aside s (s.respondHost status bs) := ⟨rfl, rfl⟩

/-- What lies outside a window. -/
theorem outside_of {n k : Nat} {a b : Bool} (h : ¬(k ≤ n ∧ a = true ∧ b = true)) : n < k ∨ !a ∨ !b := by
  by_contra hno
  rw [not_or, not_or] at hno
  obtain ⟨hk, ha, hb⟩ := hno
  exact h ⟨Nat.not_lt.1 hk, by simpa using ha, by simpa using hb⟩

/-- A phase opened leaves what runs, memory and the flights. -/
theorem openPhase_keeps (s : State) (job ph : Half) : Aside s (s.openPhase job ph).2 ∧ (s.openPhase job ph).2.wire = s.wire := by
  unfold State.openPhase
  split
  · exact ⟨⟨rfl, rfl⟩, rfl⟩
  · split
    · exact ⟨⟨rfl, rfl⟩, rfl⟩
    · exact ⟨⟨rfl, rfl⟩, rfl⟩

/-- A receive queue whose tail moves on, with its vector raised. -/
theorem advance_ring {s u : State} (h : Stored s u) {p : Nat} (hp : p < 48) : let t := (u.modRxq p fun q => { q with tail := q.tail + 1 }).raiseVector p
    t.act = s.act ∧ t.rxq p = { s.rxq p with tail := (s.rxq p).tail + 1 } ∧ t.host.msix = s.host.msix ++ [((s.rxq p).port.toNat, 1 + p)] := by
  intro t
  have hhost : u.host = s.host := by rw [h.eq]
  have hrxq : u.rxq p = s.rxq p := congrArg (fun h : HostSide => vget h.rxq p) hhost
  have htail := rxq_modRxq u (fun q => { q with tail := q.tail + 1 }) hp
  rw [hrxq] at htail
  refine ⟨h.act, htail, ?_⟩
  show u.host.msix ++ [(((u.modRxq p fun q => { q with tail := q.tail + 1 }).rxq p).port.toNat, 1 + p)] = _
  rw [htail, hhost]

/-- A message in a receive queue's ring. -/
theorem enterRing_keeps (s : State) {p : Nat} (m : Msg) (hp : p < 48) : (s.enterRing p m).act = s.act ∧
    (s.enterRing p m).rxq p = { s.rxq p with tail := (s.rxq p).tail + 1 } ∧
    (s.enterRing p m).host.msix = s.host.msix ++ [((s.rxq p).port.toNat, 1 + p)] := by
  unfold State.enterRing
  exact advance_ring (writeNow_stored _ _ _ _ _) hp

theorem settleLevels_host (s : State) : s.settleLevels.host = s.host := by
  obtain ⟨exp, ph, la, env, wire, h⟩ := settleLevels_eq s
  rw [h]

theorem settleLevels_rxq (s : State) (p : Nat) : s.settleLevels.rxq p = s.rxq p := congrArg (fun h : HostSide => vget h.rxq p) (settleLevels_host s)

theorem removeFlight_rxq (s : State) (id p : Nat) : (s.removeFlight id).rxq p = s.rxq p := rfl

section
variable {s : State} (hr : Running s)
include hr

omit hr in
/-- A line of a window onto HBM written: put there, or refused as no memory of the window. -/
theorem windowAccess_write {port offset gen : Nat} {w : Nat × Nat} {bs : List Byte} (hsteps : 8 ≤ s.boot.steps) (hport : s.hasPort port = true)
    (hal : offset % 64 = 0) (hkey : look? s.mem.keySlots 0 = some gen) (hbs : bs.length = 64) :
    s.windowAccess port offset w (some bs) = some (if w.2 < offset + 64 ∨ !isHbm (w.1 + offset) ∨ !s.hbmHere (w.1 + offset)
      then s.respondHost 1 [] else (s.writeNow gen (w.1 + offset) bs false).respondHost 0 []) := by
  have hgen (die : Nat) : s.keyGen die 0 = .ok gen := by
    unfold State.keyGen
    rw [show (0 : Byte).toNat = 0 from rfl, hkey]
  unfold State.windowAccess
  dsimp only
  rw [hport, hal, decide_eq_false (Nat.not_lt.2 hsteps), if_neg (by decide)]
  by_cases hout : w.2 < offset + 64 ∨ !isHbm (w.1 + offset) ∨ !s.hbmHere (w.1 + offset)
  · rw [if_pos hout, if_pos hout]
  · rw [if_neg hout, if_neg hout, hgen]
    exact if_pos hbs

theorem line_accessed (hsteps : 8 ≤ s.boot.steps) (port offset : Nat) (hport : s.hasPort port = true) (hal : offset % 64 = 0) (gen : Nat)
    (hkey : look? s.mem.keySlots 0 = some gen) (bs : List Byte) (hbs : bs.length = 64) :
    let w := ((Config.cxlWindow port).1, min (Config.cxlWindow port).2 64000000000)
    let inside := offset + 64 ≤ w.2 ∧ isHbm (w.1 + offset) = true ∧ s.hbmHere (w.1 + offset) = true
    Completes (.cxlMemAccess port offset (some bs)) s fun t => t.act = s.act ∧
      (inside → t.host.response = (0, []) ∧ t.mem = (s.writeNow gen (w.1 + offset) bs false).mem) ∧
      (¬inside → t.host.response = (1, []) ∧ t.mem = s.mem) := by
  intro w inside
  have hw := windowAccess_write (w := w) hsteps hport hal hkey hbs
  by_cases hin : inside
  · obtain ⟨hend, hhbm, hhere⟩ := hin
    rw [if_neg (by rw [hhbm, hhere]; simpa using hend)] at hw
    refine ⟨_, (congrArg (event s) hw).trans (event_some hr _), ?_, fun _ => ⟨rfl, (respondHost_aside _ _ _).2⟩, fun hno => absurd ⟨hend, hhbm, hhere⟩ hno⟩
    exact (respondHost_aside _ _ _).1.trans (writeNow_stored _ _ _ _ _).act
  · rw [if_pos (outside_of hin)] at hw
    exact ⟨_, (congrArg (event s) hw).trans (event_some hr _), rfl, fun hyes => absurd hyes hin, fun _ => ⟨rfl, rfl⟩⟩

theorem slot_written (hsteps : 8 ≤ s.boot.steps) (p offset : Nat) (data : List Byte) (hlen : data.length = 64) (hp : p ≤ 48) (hal : offset % 64 = 0)
    (hoff : offset < 4096) (htakes : s.gatewayTakes p (msgOfBytes data) = true) :
    Completes (.gatewaySlotWrite p offset data) s fun t => Aside s t ∧ Sends s t fun f => f.dst = (msgOfBytes data).w0 ∧
      f.src = hostName (nameJob (msgOfBytes data).w0) (offset / 64) ∧ ∃ m, f.item = .msg m ∧ m.w1 = f.src ∧ m.w4 = (msgOfBytes data).w4 := by
  let name := hostName (nameJob (msgOfBytes data).w0) (offset / 64)
  let m : Msg := { msgOfBytes data with w1 := name, w2 := ((msgOfBytes data).w2 &&& ~~~0x00000000FEE00000) ||| 0x100000, w3 := (msgOfBytes data).w3 &&& 0xFFFFFFFF }
  obtain ⟨hside, hwire⟩ := openPhase_keeps s (msgJob m) (msgPhase m)
  have hexec : exec (.gatewaySlotWrite p offset data) s = .next ((s.openPhase (msgJob m) (msgPhase m)).2.fly
      { id := 0, src := name, dst := m.w0, die := 0, item := .msg { m with epoch := (s.openPhase (msgJob m) (msgPhase m)).1 } }) := by
    show execGatewaySlotWrite p offset data s = _
    unfold execGatewaySlotWrite
    dsimp only
    rw [decide_eq_false (Nat.not_lt.2 hp), decide_eq_false (Nat.not_lt.2 hsteps), if_neg (by decide), if_pos ⟨hlen, hal, hoff, htakes⟩]
    exact event_some hr _
  let g : Flight := { id := 0, src := name, dst := m.w0, die := 0, item := .msg { m with epoch := (s.openPhase (msgJob m) (msgPhase m)).1 } }
  exact ⟨_, hexec, aside_trans hside ⟨rfl, rfl⟩, { g with id := (s.openPhase (msgJob m) (msgPhase m)).2.env.nextId },
    congrArg (fun w : Wire => w.flights ++ [_]) hwire, rfl, rfl, _, rfl, rfl, rfl⟩

theorem slot_refused (hsteps : 8 ≤ s.boot.steps) (p offset : Nat) (data : List Byte) (hlen : data.length ≠ 64) (hp : p ≤ 48) :
    exec (.gatewaySlotWrite p offset data) s = .next (s.modPart p fun x => { x with gatewayErrors := x.gatewayErrors + 1 }) := by
  show execGatewaySlotWrite p offset data s = _
  unfold execGatewaySlotWrite
  dsimp only
  rw [decide_eq_false (Nat.not_lt.2 hp), decide_eq_false (Nat.not_lt.2 hsteps), if_neg (by decide), if_neg fun h => hlen h.1]
  exact event_some hr _

theorem message_delivered (p : Nat) (f : Flight) (m : Msg) (hf : Arrives s f) (hi : f.item = .msg m) (hhost : isHostName m.w0 = true)
    (hs : isHardware m = false) (hreach : reachable (nameJob f.src) m.w0 = true) (hpart : s.partOfJob (nameJob m.w0) = some p) (hp : p < 48)
    (hspill : (s.part p).hostSpill = []) (hroom : (s.rxq p).full = false) :
    Completes (.hostMessageDelivery f.id) s fun t => t.act = s.act ∧ t.rxq p = { s.rxq p with tail := (s.rxq p).tail + 1 } ∧
      t.host.msix = s.host.msix ++ [((s.rxq p).port.toNat, 1 + p)] := by
  obtain ⟨hfind, hready⟩ := hf
  have hexec : exec (.hostMessageDelivery f.id) s = .next ((s.removeFlight f.id).enterRing p m).settleLevels := by
    show execHostMessageDelivery f.id s = _
    unfold execHostMessageDelivery
    rw [hfind, Option.bind_eq_bind, Option.bind_some, hi]
    dsimp only
    rw [hhost, hready, if_neg (by decide), hs, hreach, if_neg (by decide), hpart]
    dsimp only
    rw [State.toHost, show ((s.removeFlight f.id).part p).hostSpill = [] from hspill, show ((s.removeFlight f.id).rxq p).full = false from hroom,
      if_pos (by decide)]
    exact event_some hr _
  obtain ⟨hact, hrxq, hmsix⟩ := enterRing_keeps (s.removeFlight f.id) m hp
  rw [removeFlight_rxq] at hrxq hmsix
  exact ⟨_, hexec, (settleLevels_act _).trans hact, (settleLevels_rxq _ p).trans hrxq, (congrArg HostSide.msix (settleLevels_host _)).trans hmsix⟩

end

/-! ## Registers that Calico writes (16 R371, R372; 18 R416; 19 R424, R425) -/

theorem link_modLink (s : State) {n : Nat} (f : Link → Link) (h : n < 20) : (s.modLink n f).link n = f (s.link n) := vget_vset_self _ _ _ h

section
variable {s : State} (hc : s.calico = true) (v : Word)
include hc

theorem calico_live : s.act.live = true := (Bool.and_eq_true_iff.1 hc).1

theorem thr_written (p : Nat) (hp : p < 20) : Completes (.linkThrWrite p v) s fun t => Aside s t ∧ t.link p = (if 1 ≤ v.toNat ∧ v.toNat ≤ 2 ^ 40
    then { s.link p with thr := v.setWidth 41 } else { s.link p with err := true }) := by
  have hexec : exec (.linkThrWrite p v) s = .next (s.writeThr p v) := (if_pos ⟨hc, hp⟩).trans (run_ok (calico_live hc))
  refine ⟨_, hexec, ?_⟩
  unfold State.writeThr
  split
  · exact ⟨⟨rfl, rfl⟩, link_modLink s (fun l => { l with thr := v.setWidth 41 }) hp⟩
  · exact ⟨⟨rfl, rfl⟩, link_modLink s (fun l => { l with err := true }) hp⟩

theorem rto_written : Completes (.linkRtoWrite v) s fun t => Aside s t ∧
    (10 ≤ v.toNat → v.toNat ≤ 10000 → t.links.rto = v.setWidth 32) ∧ (10000 < v.toNat → (t.link 0).err = true ∧ t.links.rto = s.links.rto) := by
  have hexec : exec (.linkRtoWrite v) s = .next (s.writeRto v) := (if_pos hc).trans (run_ok (calico_live hc))
  refine ⟨_, hexec, ?_⟩
  unfold State.writeRto
  split
  next h => exact ⟨⟨rfl, rfl⟩, fun _ _ => rfl, fun hbig => absurd h.2 (Nat.not_le.2 hbig)⟩
  next h =>
    exact ⟨⟨rfl, rfl⟩, fun hlo hhi => absurd ⟨hlo, hhi⟩ h,
      fun _ => ⟨congrArg Link.err (link_modLink s (n := 0) (fun l => { l with err := true }) (by decide)), rfl⟩⟩

theorem log_head_written (p : Nat) (hp : p < 4) (hv : ((v.setWidth 32) - (vget s.logs p).head).toNat ≤ ((vget s.logs p).tail - (vget s.logs p).head).toNat) :
    Completes (.errorLogHeadWrite p v) s fun t => Aside s t ∧ vget t.logs p = { vget s.logs p with head := v.setWidth 32 } := by
  have hexec : exec (.errorLogHeadWrite p v) s = .next { s with logs := vset s.logs p ((vget s.logs p).setHead (v.setWidth 32)) } :=
    (if_pos ⟨hc, hp⟩).trans (run_ok (calico_live hc))
  exact ⟨_, hexec, ⟨rfl, rfl⟩, (vget_vset_self _ _ _ hp).trans (if_pos hv)⟩

theorem job_started (p : Nat) (hj : s.act.jsel ≠ 0) (hv : v = 1 ||| BitVec.ofNat 64 (256 * (p % 64))) (hp : p < 48) (hstate : (s.part p).state = 1)
    (hroom : (s.parts.jobs.filter (·.valid)).length < 1024) (hnew : s.job? s.act.jsel = none) :
    Completes (.jobCtlWrite v) s fun t => Aside s t ∧ (∃ j, t.job? s.act.jsel = some j ∧ j.valid = true ∧ j.diag = false ∧ j.part = p) ∧
      ∃ r, t.key.records = s.key.records ++ [r] ∧ r.job = s.act.jsel ∧ r.part = p ∧ r.sealed = false ∧
        ∀ d ∈ t.dir.slots, (s.part p).depends d.num = false := by
  have hfields : v &&& ~~~0x3F03#64 = 0 ∧ v.getLsbD 0 = true ∧ v.getLsbD 1 = false ∧ bits v.toNat 8 6 = p := by
    have hall : ∀ p < 48, let v : Word := 1 ||| BitVec.ofNat 64 (256 * (p % 64))
        v &&& ~~~0x3F03#64 = 0 ∧ v.getLsbD 0 = true ∧ v.getLsbD 1 = false ∧ bits v.toNat 8 6 = p := by decide
    rw [hv]
    exact hall p hp
  obtain ⟨hz, h0, h1, hbits⟩ := hfields
  let r : Attest := { job := s.act.jsel, part := p, asid := (s.part p).asid, keys := (s.part p).keys, start := s.env.time, entries := s.boot.measurements }
  let u := s.modJob s.act.jsel fun t => { t with valid := true, diag := false, part := p }
  have hset : s.setJobCtl s.act.jsel v = .ok { u with
      key := { s.key with records := s.key.records ++ [r] }, dir := { s.dir with slots := s.dir.slots.filter fun d => !(s.part p).depends d.num } } := by
    unfold State.setJobCtl
    rw [hz, h0, h1, hbits, hnew]
    dsimp only [Option.map_none, Option.getD_none]
    rw [need_of (by decide), bind_ok, if_pos rfl, need_of (by rw [decide_eq_true hp, hstate]; decide), bind_ok, decide_eq_true hroom, need_of (by decide),
      if_pos (by decide)]
    rfl
  have hw : s.writePrivileged 0x821 v = s.setJobCtl s.act.jsel v := by
    show (need (s.act.jsel != 0) 3 >>= fun _ => s.setJobCtl s.act.jsel v) = _
    rw [need_of (bne_iff_ne.2 hj), bind_ok]
  obtain ⟨x, hx⟩ := job_modJob s (j := s.act.jsel) (f := fun t => { t with valid := true, diag := false, part := p }) fun _ => rfl
  refine ⟨_, (if_pos hc).trans ((congrArg (run s) (hw.trans hset)).trans (run_ok (calico_live hc))), ⟨rfl, rfl⟩, ⟨_, hx, rfl, rfl, rfl⟩, r, rfl, rfl, rfl, rfl, fun d hd => ?_⟩
  have hdep := List.of_mem_filter hd
  rwa [Bool.not_eq_true'] at hdep

theorem wdog_written (hlo : 1000 ≤ v.toNat) (hhi : v.toNat < 2 ^ 32) (_ : s.act.psel.toNat < 48)
    (hidle : (s.modPart s.act.psel.toNat fun t => { t with wdog := v.setWidth 32 }).overdue s.act.psel.toNat = []) :
    exec (.pWdogWrite v) s = .next (s.modPart s.act.psel.toNat fun t => { t with wdog := v.setWidth 32 }) := by
  have hset : s.setWatchdog s.act.psel.toNat (v.setWidth 32) = s.modPart s.act.psel.toNat fun t => { t with wdog := v.setWidth 32 } := by
    unfold State.setWatchdog
    dsimp only
    rw [hidle]
    rfl
  have hw : s.writePrivileged 0x819 v = .ok (s.modPart s.act.psel.toNat fun t => { t with wdog := v.setWidth 32 }) := by
    show (need (decide (v.toNat < 2 ^ 32)) 3 >>= fun _ => need (decide (1000 ≤ v.toNat)) 3 >>= fun _ => _) = _
    rw [need_of (decide_eq_true hhi), bind_ok, need_of (decide_eq_true hlo), bind_ok, hset]
  exact (if_pos hc).trans (by rw [hw]; exact run_ok (calico_live hc))

end

/-- Settles O59: the host's registers and requests answer, messages pass both ways, and Calico's registers take what is written. -/
theorem hostAndRegisterEvents : Obligations.HostAndRegisterEvents := by
  intro s v p port offset
  refine ⟨fun hp ht hsteps hlt => ⟨base_written hp ht hsteps hlt v, base_refused hp ht hsteps hlt v,
      fun hspill => ⟨size_written hp ht hsteps hlt v hspill, head_written hp ht hsteps hlt v hspill⟩, tail_kept hp ht hsteps hlt v, overflow_cleared hp ht hsteps hlt v⟩,
    fun hp hport => ⟨unsupported_answered hp hport, config_early hp hport, fun h0 => ⟨config_answered hp hport h0 0x0C, config_answered hp hport h0 0x14⟩⟩,
    fun hr hsteps => ⟨line_accessed hr hsteps port offset, fun data => slot_written hr hsteps p offset data, fun data => slot_refused hr hsteps p offset data⟩,
    fun hr f m => message_delivered hr p f m,
    fun hc => ⟨thr_written hc v p, rto_written hc v, log_head_written hc v p, job_started hc v p, wdog_written hc v⟩⟩

end Sys2Proof.Machine
end


section
/-! O60: links, heartbeats, lost packages and dies. -/

namespace Sys2Proof.Machine
open Sys2Proof.Safety

/-! ## One link changed -/

/-- Only a link has changed, to a value. -/
def OneLink (s : State) (n : Nat) (m : Link) (t : State) : Prop := Aside s t ∧ t.link n = m ∧ ∀ k, k ≠ n → t.link k = s.link k

theorem link_modLink_ne (s : State) {n k : Nat} (f : Link → Link) (h : k ≠ n) : (s.modLink n f).link k = s.link k :=
  vget_vset_ne _ _ _ _ h.symm

theorem oneLink_modLink (s : State) {n : Nat} (f : Link → Link) (h : n < 20) : OneLink s n (f (s.link n)) (s.modLink n f) :=
  ⟨⟨rfl, rfl⟩, link_modLink s f h, fun _ hk => link_modLink_ne s f hk⟩

theorem OneLink.modLink {s t : State} {n : Nat} {m : Link} (h : OneLink s n m t) (f : Link → Link) (hn : n < 20) :
    OneLink s n (f m) (t.modLink n f) := by
  obtain ⟨ha, hl, ho⟩ := h
  exact ⟨ha, (link_modLink t f hn).trans (congrArg f hl), fun k hk => (link_modLink_ne t f hk).trans (ho k hk)⟩

/-! ## Sending (19 R426, R430) -/

section
variable {s : State} {n : Nat} (hr : Running s) (hn : n < 20) (hup : (s.link n).state = 2)
include hr hn hup

theorem flitTransmit_ack (ho : (s.link n).out = []) :
    Completes (.flitTransmit n) s (OneLink s n ((s.link n).send ((s.link n).control false) s.env.time)) := by
  refine ⟨_, ?_, oneLink_modLink s (fun l => l.send (l.control false) s.env.time) hn⟩
  show execFlitTransmit n s = _
  unfold execFlitTransmit
  dsimp only
  rw [hup, decide_eq_false (Nat.not_le.2 hn), if_neg (by decide), ho]
  exact event_some hr _

theorem flitTransmit_data {pkg : Nat} {x : Transaction} {rest : List (Nat × Transaction)} (hk : (s.link n).keywait = false)
    (ho : (s.link n).out = (pkg, x) :: rest) (hc : (s.link n).txctr.toNat < (s.link n).thr.toNat) (hroom : (s.link n).replay.length < 512) :
    let l := s.link n
    let f := l.flit l.txnext 0 (.data Config.packageNumber.toNat pkg x)
    Completes (.flitTransmit n) s fun t =>
      OneLink s n { l.send f s.env.time with replay := l.replay ++ [f], txnext := l.txnext + 1, out := rest } t ∧
      ∀ r ∈ s.links.remote, txNumber x = some r.id → r.sent = false → { r with sentAt := s.env.time, sent := true } ∈ t.links.remote := by
  intro l f
  have hexec : exec (.flitTransmit n) s = .next ((s.firstSent x).modLink n fun l =>
      let f := l.flit l.txnext 0 (.data Config.packageNumber.toNat pkg x)
      { l.send f s.env.time with replay := l.replay ++ [f], txnext := l.txnext + 1, out := rest }) := by
    show execFlitTransmit n s = _
    unfold execFlitTransmit
    dsimp only
    rw [hup, decide_eq_false (Nat.not_le.2 hn), if_neg (by decide), ho]
    dsimp only
    rw [hk, if_neg (by decide), Link.due, decide_eq_false (Nat.not_le.2 hc), if_neg (by decide), if_neg (Nat.not_le.2 hroom)]
    exact event_some hr _
  refine ⟨_, hexec, ?_, fun r hmem hid hsent => ?_⟩
  · exact OneLink.modLink (m := l) ⟨⟨rfl, rfl⟩, rfl, fun _ _ => rfl⟩ (fun l =>
      let f := l.flit l.txnext 0 (.data Config.packageNumber.toNat pkg x)
      { l.send f s.env.time with replay := l.replay ++ [f], txnext := l.txnext + 1, out := rest }) hn
  · exact List.mem_map.2 ⟨r, hmem, if_pos ⟨hid, hsent⟩⟩

theorem idleFlitTimer_sends (hk : (s.link n).keywait = false) (ht : (s.link n).lastSent + 100000 ≤ s.env.time)
    (hc : (s.link n).txctr.toNat < (s.link n).thr.toNat) :
    Completes (.idleFlitTimer n) s (OneLink s n ((s.link n).send ((s.link n).flit (s.link n).txnext 3 .zero) s.env.time)) := by
  refine ⟨_, ?_, oneLink_modLink s (fun l => l.send (l.flit l.txnext 3 .zero) s.env.time) hn⟩
  show execIdleFlitTimer n s = _
  unfold execIdleFlitTimer
  dsimp only
  rw [hup, decide_eq_false (Nat.not_le.2 hn), hk, decide_eq_false (Nat.not_lt.2 ht), if_neg (by decide), Link.due,
    decide_eq_false (Nat.not_le.2 hc), if_neg (by decide)]
  exact event_some hr _

end

/-! ## Transactions queued for a package -/

/-- What queuing transactions changes: the lists of what is to leave, of links that are up, and the list of what waits. -/
structure Queues (s t : State) : Prop where
  aside : Aside s t
  flights : t.wire.flights = s.wire.flights
  peers : t.links.peers = s.links.peers
  beats : t.links.lastBeat = s.links.lastBeat
  link : ∀ k, ∃ o, t.link k = { s.link k with out := o }
  down : ∀ k, (s.link k).state ≠ 2 → t.link k = s.link k

theorem Queues.refl (s : State) : Queues s s := ⟨⟨rfl, rfl⟩, rfl, rfl, rfl, fun _ => ⟨_, rfl⟩, fun _ _ => rfl⟩

theorem Queues.trans {s t u : State} (h : Queues s t) (g : Queues t u) : Queues s u := by
  refine ⟨aside_trans h.aside g.aside, g.flights.trans h.flights, g.peers.trans h.peers, g.beats.trans h.beats, fun k => ?_, fun k hk => ?_⟩
  · obtain ⟨o, ho⟩ := h.link k
    obtain ⟨o', ho'⟩ := g.link k
    exact ⟨o', ho'.trans (by rw [ho])⟩
  · have hs := h.down k hk
    exact (g.down k (by rw [hs]; exact hk)).trans hs

theorem queues_foldl {α : Type} {f : State → α → State} (h : ∀ s a, Queues s (f s a)) (l : List α) (s : State) : Queues s (l.foldl f s) := by
  induction l generalizing s with
  | nil => exact .refl s
  | cons a l ih => exact (h s a).trans (ih _)

/-- A link that a transaction leaves by is up. -/
theorem linkTo_up {s : State} {pkg n : Nat} {src : Option (Bool × Nat)} (h : s.linkTo pkg src = some n) : (s.link n).state = 2 := by
  have hup : ∀ k ∈ (List.range 20).filter (fun n => (s.link n).state == 2 && ((s.link n).peer == some pkg || Config.reaches n pkg)),
      (s.link k).state = 2 := fun k hk =>
    beq_iff_eq.1 (Bool.and_eq_true_iff.1 (List.mem_filter.1 hk).2).1
  unfold State.linkTo at h
  dsimp only at h
  split at h
  · next hf => exact hup n (by rw [← Option.some.inj h]; exact List.mem_of_find?_eq_some hf)
  · exact hup n (List.mem_of_head? h)

theorem transmit_queues (s : State) (pkg : Nat) (t : Transaction) : Queues s (s.transmit pkg t) := by
  unfold State.transmit
  split
  · next n hn =>
    refine ⟨⟨rfl, rfl⟩, rfl, rfl, rfl, fun k => ?_, fun k hk => ?_⟩
    · by_cases hkn : k = n
      · subst hkn
        by_cases h20 : k < 20
        · exact ⟨_, link_modLink s _ h20⟩
        · refine ⟨(s.link k).out, ?_⟩
          simp only [State.link, State.modLink, vset, dif_neg h20]
      · exact ⟨_, link_modLink_ne s _ hkn⟩
    · exact link_modLink_ne s _ fun h => hk (h ▸ linkTo_up hn)
  · split
    · exact .refl s
    · exact ⟨⟨rfl, rfl⟩, rfl, rfl, rfl, fun _ => ⟨_, rfl⟩, fun _ _ => rfl⟩

theorem transmits_queues (l : List (Nat × Transaction)) (s : State) : Queues s (l.foldl (fun s t => s.transmit t.1 t.2) s) :=
  queues_foldl (f := fun s (t : Nat × Transaction) => s.transmit t.1 t.2) (fun s t => transmit_queues s t.1 t.2) l s

/-! ## A link down, and trained (19 R433) -/

theorem note_aside (s : State) (n : Note) : Aside s (s.note n) := by
  unfold State.note
  dsimp only
  split
  · rw [if_neg (by decide)]
    exact modPart_aside { s with logs := _ } _ _
  · exact ⟨rfl, rfl⟩

theorem linkDown_clears (s : State) {n : Nat} (hn : n < 20) :
    Aside s (s.linkDown n) ∧ ((s.linkDown n).link n).state = 0 ∧ ((s.linkDown n).link n).replay = [] ∧ ((s.linkDown n).link n).out = [] := by
  unfold State.linkDown
  generalize ({ die := linkDie n, cls := 10, unit := 7, location := location (linkDie n * 512) } : Note) = note
  dsimp only
  generalize hf : (fun l : Link =>
    { l with state := 0, keywait := false, tx := Vector.replicate 2 0, rx := Vector.replicate 2 0, replay := [], held := [], out := [] }) = f
  have hl := link_modLink (s.note note) f hn
  have hq := transmits_queues (s.link n).owed ((s.note note).modLink n f)
  have hdown := hq.down n (by rw [hl, ← hf]; exact (by decide : (0 : BitVec 2) ≠ 2))
  rw [hdown, hl, ← hf]
  rw [← hf] at hq
  exact ⟨aside_trans (aside_trans (note_aside s note) ⟨rfl, rfl⟩) hq.aside, rfl, rfl, rfl⟩

theorem linkVerifyTimeout_clears {s : State} {n : Nat} (hr : Running s) (hn : n < 20) (hup : (s.link n).state = 2)
    (ht : (s.link n).lastVerified + 300000 ≤ s.env.time) :
    Completes (.linkVerifyTimeout n) s fun t => Aside s t ∧ (t.link n).state = 0 ∧ (t.link n).replay = [] ∧ (t.link n).out = [] := by
  refine ⟨_, ?_, linkDown_clears s hn⟩
  show execLinkVerifyTimeout n s = _
  unfold execLinkVerifyTimeout
  rw [if_pos ⟨hn, hup, ht⟩]
  exact event_some hr _

theorem linkTrainingComplete_up {s : State} {n : Nat} (hr : Running s) (hn : n < 20) (hup : (s.link n).state ≠ 2) (hm : s.boot.minimal = false)
    (hb : 5 ≤ s.boot.steps) (pkg : Nat) (txsalt rxsalt : Word32) :
    Completes (.linkTrainingComplete n pkg txsalt rxsalt) s fun t => Aside s t ∧ (t.link n).state = 2 ∧ (t.link n).txsalt = txsalt ∧
      (t.link n).rxsalt = rxsalt ∧ (t.link n).txctr = 0 ∧ (t.link n).txgen = 0 ∧ (t.link n).peer = (if pkg < 4096 then some pkg else none) := by
  let l := s.link n
  let up : Link := { state := 2, err := l.err, thr := l.thr, tx := #v[2, 0], rx := #v[2, 0], failTotal := l.failTotal, rxsalt := rxsalt
                     txsalt := txsalt, out := l.out, peer := if pkg < 4096 then some pkg else none, lastSent := s.env.time
                     lastVerified := s.env.time }
  have trained (t : State) (ht : Aside s t) (hl : t.link n = up) : Aside s t.sendWaiting ∧ ∃ o, t.sendWaiting.link n = { up with out := o } := by
    have hq := transmits_queues t.links.waiting { t with links := { t.links with waiting := [] } }
    obtain ⟨o, ho⟩ := hq.link n
    exact ⟨aside_trans ht hq.aside, o, ho.trans (congrArg (fun l : Link => { l with out := o }) hl)⟩
  have hone := link_modLink s (fun _ => up) hn
  obtain ⟨t, hexec, ht, hl⟩ : ∃ t, exec (.linkTrainingComplete n pkg txsalt rxsalt) s = .next t.sendWaiting ∧ Aside s t ∧ t.link n = up := by
    have hgo : (20 ≤ n || (s.link n).state == 2 || s.boot.minimal || decide (s.boot.steps < 5)) = false := by
      rw [decide_eq_false (Nat.not_le.2 hn), beq_eq_false_iff_ne.2 hup, hm, decide_eq_false (Nat.not_lt.2 hb)]
      rfl
    by_cases hp : pkg < 4096
    · refine ⟨{ s.modLink n fun _ => up with
        links := { (s.modLink n fun _ => up).links with peers := (s.links.peers.filter fun t => t.1 != pkg) ++ [(pkg, s.env.time, false)] } },
        ?_, ⟨rfl, rfl⟩, hone⟩
      show execLinkTrainingComplete n pkg txsalt rxsalt s = _
      unfold execLinkTrainingComplete
      dsimp only
      rw [hgo, if_neg (by decide), if_pos hp]
      refine (event_some hr _).trans ?_
      simp only [up, if_pos hp]
      rfl
    · refine ⟨s.modLink n fun _ => up, ?_, ⟨rfl, rfl⟩, hone⟩
      show execLinkTrainingComplete n pkg txsalt rxsalt s = _
      unfold execLinkTrainingComplete
      dsimp only
      rw [hgo, if_neg (by decide), if_neg hp]
      refine (event_some hr _).trans ?_
      simp only [up, if_neg hp]
      rfl
  obtain ⟨hside, o, ho⟩ := trained t ht hl
  refine ⟨_, hexec, hside, ?_⟩
  rw [ho]
  exact ⟨rfl, rfl, rfl, rfl, rfl, rfl⟩

/-! ## Receiving (19 R429, R432) -/

theorem dieOf_link {n : Nat} (hn : n < 20) : dieOf (linkDie n * 512) = n / 5 := by
  unfold dieOf linkDie
  omega

theorem inject_idle {s : State} {core : Nat} (h : (vget s.logs (dieOf core)).armed = []) (unit index : Nat) : s.inject core unit index = s := by
  unfold State.inject
  dsimp only
  rw [h]
  rfl

/-- What taking a flit that acknowledges nothing new and asks for nothing does to its link. -/
def Link.verified (l : Link) (time : Nat) : Link := { l with failRun := 0, lastVerified := time }

theorem accepts_quiet {l : Link} {f : Flit} (hslot : vget l.rx f.slot.toNat = 2) (hack : f.ack = l.txold) (hnak : f.nakv = false) (time : Nat) :
    l.accepts f time = l.verified time := by
  unfold Link.accepts
  dsimp only
  rw [hslot, if_neg (show ¬(2 : BitVec 2) = 1 by decide), if_neg (show ¬f.nakv = true by rw [hnak]; decide), hack, BitVec.sub_self, if_pos (show (0#16).toNat ≤ _ from Nat.zero_le _)]
  rfl

section
variable {s : State} {n : Nat} {f : Flit} (hr : Running s) (hn : n < 20) (hup : (s.link n).state = 2)
  (harm : (vget s.logs (n / 5)).armed = []) (hheld : (s.link n).held = []) (hslot : vget (s.link n).rx f.slot.toNat = 2)
  (hauth : f.authentic = true) (hnak : f.nakv = false) (hack : f.ack = (s.link n).txold)
include hn hup harm hheld hslot hnak hack

/-- A flit without a number of its own, or not next, is not held. -/
theorem takeFlit_bare (hgood : (s.link n).refuses f = false) (hbare : (f.type == 0 || f.type == 1) = false) :
    s.takeFlit n f = some (s.modLink n fun l => l.accepts f s.env.time) := by
  have hdie : dieOf (linkDie n * 512) = n / 5 := dieOf_link hn
  have hone := link_modLink s (fun l => l.accepts f s.env.time) hn
  unfold State.takeFlit
  rw [if_neg (Nat.not_le.2 hn), hup, if_neg (by decide), hgood, if_neg (by decide), inject_idle (by rw [hdie]; exact harm)]
  dsimp only
  rw [hbare, Bool.false_and, Bool.false_and, if_neg (by decide), hone, accepts_quiet hslot hack hnak]
  show some (State.deliverHeld n (s.link n).held.length _) = _
  rw [hheld]
  rfl

/-- The next flit is held and at once delivered. -/
theorem takeFlit_next (hgood : (s.link n).refuses f = false) (hfresh : (f.type == 0 || f.type == 1) = true) (hseq : f.seq = (s.link n).rxnext) :
    s.takeFlit n f = some (State.deliverHeld n 1
      ((s.modLink n fun l => l.accepts f s.env.time).modLink n fun l => { l with held := l.held ++ [f] })) := by
  have hdie : dieOf (linkDie n * 512) = n / 5 := dieOf_link hn
  have hone : (s.modLink n fun l => l.accepts f s.env.time).link n = (s.link n).verified s.env.time :=
    (link_modLink s (fun l => l.accepts f s.env.time) hn).trans (accepts_quiet hslot hack hnak _)
  have htwo := link_modLink (s.modLink n fun l => l.accepts f s.env.time) (fun l => { l with held := l.held ++ [f] }) hn
  rw [hone] at htwo
  have hahead : decide (ahead f.seq ((s.link n).verified s.env.time).rxnext < 512) = true := by
    rw [hseq, ahead]
    show decide (((s.link n).rxnext - (s.link n).rxnext).toNat < 512) = true
    rw [BitVec.sub_self]
    rfl
  have hnone : (((s.link n).verified s.env.time).held.any fun g => g.seq == f.seq) = false := by
    show ((s.link n).held.any _) = false
    rw [hheld]
    rfl
  unfold State.takeFlit
  rw [if_neg (Nat.not_le.2 hn), hup, if_neg (by decide), hgood, if_neg (by decide), inject_idle (by rw [hdie]; exact harm)]
  dsimp only
  rw [hone, hfresh, hahead, hnone, if_pos (by decide), htwo]
  show some (State.deliverHeld n ((s.link n).held ++ [f]).length _) = _
  rw [hheld]
  rfl

end

/-- The window admits the next number that is missing. -/
theorem inWindow_next {f : Flit} {r : Half} (h : f.seq = r) : inWindow f r = true := by
  unfold inWindow
  rw [h, ahead, BitVec.sub_self, decide_eq_true (show (0#16).toNat < 512 by decide), Bool.or_true]
  rfl

section
variable {l : Link} {f : Flit} (hslot : vget l.rx f.slot.toNat = 2) (hauth : f.authentic = true)
include hslot hauth

theorem refuses_not_idle (ht : f.type = 3) : l.refuses f = false := by
  unfold Link.refuses inWindow
  rw [hslot, hauth, ht]
  rfl

theorem refuses_not_control (ht : f.type = 2) (hseq : f.seq = l.rxnext) : l.refuses f = false := by
  unfold Link.refuses
  rw [inWindow_next hseq, hslot, hauth, ht]
  rfl

theorem refuses_not_marker {b : Bool} (ht : f.type = 1) (hp : f.plain = .marker b) (hseq : f.seq = l.rxnext) : l.refuses f = false := by
  unfold Link.refuses
  rw [inWindow_next hseq, hslot, hauth, ht, hp]
  rfl

theorem refuses_not_heartbeat {src dst pkg time : Nat} (ht : f.type = 0) (hp : f.plain = .data src dst (.heartbeat pkg time))
    (hseq : f.seq = l.rxnext) : l.refuses f = false := by
  unfold Link.refuses
  rw [inWindow_next hseq, hslot, hauth, ht, hp]
  rfl

end

/-- A held flit leaves the list, and the next number is awaited. -/
def Link.passed (f : Flit) (l : Link) : Link := { l with rxnext := l.rxnext + 1, held := l.held.filter fun g => g.seq != f.seq }

section
variable {s : State} {n : Nat} {f : Flit} (hh : (s.link n).held = [f]) (hseq : f.seq = (s.link n).rxnext)
include hh hseq

theorem next_held : ((s.link n).held.find? fun g => g.seq == (s.link n).rxnext) = some f := by
  rw [hh]
  exact List.find?_cons_of_pos (beq_iff_eq.2 hseq)

theorem deliverHeld_marker {b : Bool} (hp : f.plain = .marker b) : State.deliverHeld n 1 s = s.modLink n (Link.passed f) := by
  unfold State.deliverHeld
  dsimp only
  rw [next_held hh hseq]
  dsimp only
  rw [hp]
  rfl

theorem deliverHeld_heartbeat {src dst pkg time : Nat} (hp : f.plain = .data src dst (.heartbeat pkg time)) (hsrc : s.lostPackage src = false) :
    State.deliverHeld n 1 s = (s.modLink n (Link.passed f)).heard pkg := by
  unfold State.deliverHeld
  dsimp only
  rw [next_held hh hseq]
  dsimp only
  rw [hp]
  dsimp only
  rw [show (s.modLink n fun l => { l with rxnext := l.rxnext + 1, held := l.held.filter fun g => g.seq != f.seq }).lostPackage src = false from hsrc,
    if_neg (by decide)]
  rfl

end

section
variable {s : State} {n : Nat} {f : Flit} (hn : n < 20) (hslot : vget (s.link n).rx f.slot.toNat = 2) (hnak : f.nakv = false)
  (hack : f.ack = (s.link n).txold)
include hn hslot hnak hack

theorem accepts_oneLink : OneLink s n ((s.link n).verified s.env.time) (s.modLink n fun l => l.accepts f s.env.time) := by
  have h := oneLink_modLink s (fun l => l.accepts f s.env.time) hn
  rwa [accepts_quiet hslot hack hnak] at h

/-- A flit that has been verified and held. -/
def State.holds (s : State) (n : Nat) (f : Flit) : State :=
  (s.modLink n fun l => l.accepts f s.env.time).modLink n fun l => { l with held := l.held ++ [f] }

variable (hheld : (s.link n).held = [])
include hheld

theorem holds_oneLink : OneLink s n { (s.link n).verified s.env.time with held := [f] } (s.holds n f) := by
  have h := (accepts_oneLink hn hslot hnak hack).modLink (fun l => { l with held := l.held ++ [f] }) hn
  rwa [show ((s.link n).verified s.env.time).held = [] from hheld] at h

/-- A held flit that was next has passed: its number alone is new. -/
theorem passed_oneLink :
    OneLink s n { (s.link n).verified s.env.time with rxnext := (s.link n).rxnext + 1 } ((s.holds n f).modLink n (Link.passed f)) := by
  have h := (holds_oneLink hn hslot hnak hack hheld).modLink (Link.passed f) hn
  have hempty : ([f].filter fun g => g.seq != f.seq) = (s.link n).held := by rw [hheld]; simp
  rw [Link.passed, hempty] at h
  exact h

end

section
variable {s : State} {n : Nat} {f : Flit} (hr : Running s) (hn : n < 20) (hup : (s.link n).state = 2)
  (harm : (vget s.logs (n / 5)).armed = []) (hheld : (s.link n).held = []) (hslot : vget (s.link n).rx f.slot.toNat = 2)
  (hauth : f.authentic = true) (hnak : f.nakv = false) (hack : f.ack = (s.link n).txold)
include hr hn hup harm hheld hslot hauth hnak hack

theorem idleFlit_verifies (ht : f.type = 3) : Completes (.idleFlit n f) s (OneLink s n ((s.link n).verified s.env.time)) := by
  refine ⟨_, ?_, accepts_oneLink hn hslot hnak hack⟩
  show execIdleFlit n f s = _
  unfold execIdleFlit
  rw [ht, if_pos (by decide), takeFlit_bare hn hup harm hheld hslot hnak hack (refuses_not_idle hslot hauth ht) (by rw [ht]; decide)]
  exact event_some hr _

theorem controlFlit_verifies (ht : f.type = 2) (hseq : f.seq = (s.link n).rxnext) :
    Completes (.controlFlit n f) s (OneLink s n ((s.link n).verified s.env.time)) := by
  refine ⟨_, ?_, accepts_oneLink hn hslot hnak hack⟩
  show execControlFlit n f s = _
  unfold execControlFlit
  rw [ht, if_pos (by decide), takeFlit_bare hn hup harm hheld hslot hnak hack (refuses_not_control hslot hauth ht hseq) (by rw [ht]; decide)]
  exact event_some hr _

theorem marker_passes {b : Bool} (ht : f.type = 1) (hp : f.plain = .marker b) (hseq : f.seq = (s.link n).rxnext) :
    Completes (.marker n f) s (OneLink s n { (s.link n).verified s.env.time with rxnext := (s.link n).rxnext + 1 }) := by
  obtain ⟨_, hlink, _⟩ := holds_oneLink hn hslot hnak hack hheld
  refine ⟨_, ?_, passed_oneLink hn hslot hnak hack hheld⟩
  show execMarker n f s = _
  unfold execMarker
  rw [ht, if_pos (by decide), takeFlit_next hn hup harm hheld hslot hnak hack (refuses_not_marker hslot hauth ht hp hseq) (by rw [ht]; decide) hseq]
  exact (event_some hr _).trans (congrArg _ (deliverHeld_marker (s := s.holds n f) (by rw [hlink]) (by rw [hlink]; exact hseq) hp))

theorem heartbeat_heard {src dst pkg time : Nat} (ht : f.type = 0) (hp : f.plain = .data src dst (.heartbeat pkg time))
    (hseq : f.seq = (s.link n).rxnext) (hsrc : s.lostPackage src = false) (hpkg : s.lostPackage pkg = false) :
    Completes (.dataFlit n f) s fun t => OneLink s n { (s.link n).verified s.env.time with rxnext := (s.link n).rxnext + 1 } t ∧
      (pkg, s.env.time, false) ∈ t.links.peers := by
  obtain ⟨_, hlink, _⟩ := holds_oneLink hn hslot hnak hack hheld
  have hexec : exec (.dataFlit n f) s = .next (((s.holds n f).modLink n (Link.passed f)).heard pkg) := by
    show execDataFlit n f s = _
    unfold execDataFlit
    rw [ht, if_pos (by decide), takeFlit_next hn hup harm hheld hslot hnak hack (refuses_not_heartbeat hslot hauth ht hp hseq) (by rw [ht]; decide) hseq]
    exact (event_some hr _).trans (congrArg _ (deliverHeld_heartbeat (s := s.holds n f) (by rw [hlink]) (by rw [hlink]; exact hseq) hp hsrc))
  refine ⟨_, hexec, ?_⟩
  rw [State.heard, show ((s.holds n f).modLink n (Link.passed f)).lostPackage pkg = false from hpkg, if_neg (by decide)]
  obtain ⟨hside, hl, ho⟩ := passed_oneLink hn hslot hnak hack hheld
  exact ⟨⟨hside, hl, ho⟩, List.mem_append_right _ (List.mem_singleton.2 rfl)⟩

end

/-! ## Heartbeats (19 R434) -/

theorem heartbeatSend_beats {s : State} {n : Nat} (hr : Running s) (hp : s.peersOf.contains n = true)
    (hdue : s.links.lastBeat.find? (fun t => t.1 == n) = none ∨
      ∃ x, s.links.lastBeat.find? (fun t => t.1 == n) = some x ∧ x.2 + 100000 ≤ s.env.time) :
    Completes (.heartbeatSend n) s fun t => Aside s t ∧ (n, s.env.time) ∈ t.links.lastBeat := by
  let peers := if s.links.peers.any fun t => t.1 == n then s.links.peers else s.links.peers ++ [(n, s.env.time, false)]
  let beats := (s.links.lastBeat.filter fun t => t.1 != n) ++ [(n, s.env.time)]
  have hexec : exec (.heartbeatSend n) s = .next ({ s with links := { s.links with lastBeat := beats, peers := peers } }.transmit n
      (.heartbeat Config.packageNumber.toNat s.env.time)) := by
    show execHeartbeatSend n s = _
    unfold execHeartbeatSend
    dsimp only
    refine (congrArg (event s) (if_neg ?_)).trans (event_some hr _)
    rw [hp]
    obtain hnone | ⟨x, hx, hxt⟩ := hdue
    · rw [hnone]
      exact Bool.false_ne_true
    · rw [hx]
      dsimp only
      rw [decide_eq_true hxt]
      decide
  have hq := transmit_queues { s with links := { s.links with lastBeat := beats, peers := peers } } n
    (.heartbeat Config.packageNumber.toNat s.env.time)
  refine ⟨_, hexec, hq.aside, ?_⟩
  rw [hq.beats]
  exact List.mem_append_right _ (List.mem_singleton.2 rfl)

/-! ## A lost package (03 R77, 19 R434 to R436) -/

/-- The directory entry that a pool stands for. -/
def Pool.spot (p : Pool) : Half × Nat := (p.job, p.index)

/-- What the signals of a lost package's actors leave as it is, and that no flight is lost: the links, and where a name leads. -/
structure Signalled (s t : State) : Prop where
  posted : Posted s t
  links : t.links = s.links
  remote : t.dir.remote = s.dir.remote
  aliases : t.dir.aliases = s.dir.aliases
  pools : t.dir.pools.map Pool.spot = s.dir.pools.map Pool.spot
  flights : s.wire.flights ⊆ t.wire.flights

theorem Signalled.refl (s : State) : Signalled s s := ⟨.refl s, rfl, rfl, rfl, rfl, fun _ h => h⟩

theorem Signalled.trans {s t u : State} (h : Signalled s t) (g : Signalled t u) : Signalled s u :=
  ⟨h.posted.trans g.posted, g.links.trans h.links, g.remote.trans h.remote, g.aliases.trans h.aliases, g.pools.trans h.pools,
    fun _ hf => g.flights (h.flights hf)⟩

theorem signalled_foldl {α : Type} {f : State → α → State} (h : ∀ s a, Signalled s (f s a)) (l : List α) (s : State) : Signalled s (l.foldl f s) := by
  induction l generalizing s with
  | nil => exact .refl s
  | cons a l ih => exact (h s a).trans (ih _)

/-- A search by a key finds something in two lists of the same keys, or in neither. -/
theorem find?_isSome_key {α β : Type} (key : α → β) (p : β → Bool) {l l' : List α} (h : l'.map key = l.map key) :
    (l'.find? fun a => p (key a)).isSome = (l.find? fun a => p (key a)).isSome := by
  have hany (l : List α) : (l.find? fun a => p (key a)).isSome = (l.map key).any p := by
    rw [Bool.eq_iff_iff, List.find?_isSome, List.any_map, List.any_eq_true]
    rfl
  rw [hany, hany, h]

/-- The actor's entry of a name is read from the directory alone. -/
def Dir.entryOf (d : Dir) (n : Word) : Option Actor :=
  if nameKind n == 2 && nameJob n != 0 then
    match d.bound (nameJob n) (nameIndex n) with
    | some i => d.actors.find? fun a => a.job == nameJob n && !a.service && a.index == i
    | none => none
  else if nameKind n == 1 || nameKind n == 3 then none
  else d.actors.find? fun a => a.job == nameJob n && a.service == (nameKind n == 2) && a.index == nameIndex n

theorem entryOf_eq (s : State) (n : Word) : s.entryOf n = s.dir.entryOf n := rfl

theorem Signalled.entryOf {s t : State} (h : Signalled s t) (n : Word) : (t.entryOf n).isSome = (s.entryOf n).isSome := by
  have hfind (p : Half × Bool × Nat → Bool) := find?_isSome_key Actor.spot p h.posted.spots
  rw [entryOf_eq, entryOf_eq, Dir.entryOf, Dir.entryOf, Dir.bound, Dir.bound, h.aliases]
  split
  · split
    · next i _ => exact hfind fun k => k.1 == nameJob n && !k.2.1 && k.2.2 == i
    · rfl
  · split
    · rfl
    · exact hfind fun k => k.1 == nameJob n && k.2.1 == (nameKind n == 2) && k.2.2 == nameIndex n

theorem Signalled.poolOf {s t : State} (h : Signalled s t) (n : Word) : (t.poolOf n).isSome = (s.poolOf n).isSome := by
  rw [poolOf_eq, poolOf_eq, Dir.poolOf, Dir.poolOf, Dir.bound, Dir.bound, h.aliases]
  generalize (if nameKind n == 1 then some (nameIndex n) else _ : Option Nat) = index
  cases index with
  | none => rfl
  | some i => exact find?_isSome_key Pool.spot (fun k => k.1 == nameJob n && k.2 == i) h.pools

theorem Signalled.elsewhere {s t : State} (h : Signalled s t) (n : Word) : t.elsewhere n = s.elsewhere n := by
  unfold State.elsewhere State.located State.homePackage State.lostPackage
  rw [h.entryOf, h.poolOf, h.remote, h.links]

theorem fly_signalled (s : State) (f : Flight) : Signalled s (s.fly f) := ⟨fly_posted s f, rfl, rfl, rfl, rfl, List.subset_append_left _ _⟩

theorem modLinks_signalled (s : State) (n : Word) (f : List LinkEntry → List LinkEntry) : Signalled s (s.modLinks n f) := by
  refine ⟨modLinks_posted s n f, rfl, rfl, rfl, ?_, fun _ h => h⟩
  show (mapIf (fun p => p.name == n) _ s.dir.pools).map Pool.spot = _
  rw [mapIf, List.map_map]
  refine List.map_congr_left fun p _ => ?_
  show (if p.name == n then _ else p : Pool).spot = p.spot
  split <;> rfl

/-- The signal, or the removal, of one link or monitor entry. -/
def State.signalEntry (owner : Word) (die : Nat) (s : State) (e : LinkEntry) : State :=
  let send (i : Item) : State := s.fly { id := 0, src := e.partner, dst := owner, die := die, item := i }
  match e.type with
  | .link => send (.exitSignal 8 0xFFFFFFFFFFFFFFFF)
  | .monitor => send (.down 8 0xFFFFFFFFFFFFFFFF e.ref)
  | .monitored => s.modLinks owner (dropEntry e.partner .monitored (some e.ref))

theorem signalEntry_signalled (owner : Word) (die : Nat) (s : State) (e : LinkEntry) : Signalled s (s.signalEntry owner die e) := by
  unfold State.signalEntry
  dsimp only
  split
  · exact fly_signalled _ _
  · exact fly_signalled _ _
  · exact modLinks_signalled _ _ _

theorem signalLost_fold (s : State) (pkg : Nat) (owner : Word) (die : Nat) (l : List LinkEntry) :
    s.signalLost pkg owner die l = (l.filter fun e => s.elsewhere e.partner == some pkg).foldl (State.signalEntry owner die) s := rfl

theorem signalLost_signalled (s : State) (pkg : Nat) (owner : Word) (die : Nat) (l : List LinkEntry) :
    Signalled s (s.signalLost pkg owner die l) := by
  rw [signalLost_fold]
  exact signalled_foldl (signalEntry_signalled owner die) _ s

/-- What some step of a fold sends is there at its end. -/
theorem signalled_foldl_mem {α : Type} {f : State → α → State} (hf : ∀ s a, Signalled s (f s a)) {p : Flight → Prop} {s₀ : State} {a : α}
    (ha : ∀ s, Signalled s₀ s → ∃ x ∈ (f s a).wire.flights, p x)
    (l : List α) (s : State) (hs : Signalled s₀ s) (hmem : a ∈ l) : ∃ x ∈ (l.foldl f s).wire.flights, p x := by
  induction l generalizing s with
  | nil => exact absurd hmem List.not_mem_nil
  | cons b l ih =>
    obtain rfl | hmem := List.mem_cons.1 hmem
    · obtain ⟨x, hx, hp⟩ := ha s hs
      exact ⟨x, (signalled_foldl hf l _).flights hx, hp⟩
    · exact ih _ (hs.trans (hf s b)) hmem

/-- The exit signal of a linked actor that was lost. -/
def IsExitOf (partner owner : Word) (f : Flight) : Prop := f.src = partner ∧ f.dst = owner ∧ f.item = .exitSignal 8 0xFFFFFFFFFFFFFFFF

theorem signalLost_sends {s : State} {pkg : Nat} {owner : Word} {die : Nat} {l : List LinkEntry} {e : LinkEntry} (he : e ∈ l) (hl : e.type = .link)
    (hp : s.elsewhere e.partner = some pkg) : ∃ f ∈ (s.signalLost pkg owner die l).wire.flights, IsExitOf e.partner owner f := by
  rw [signalLost_fold]
  refine signalled_foldl_mem (signalEntry_signalled owner die) (s₀ := s) (a := e) (fun t _ => ?_) _ s (.refl s)
    (List.mem_filter.2 ⟨he, by rw [hp]; exact beq_self_eq_true _⟩)
  unfold State.signalEntry
  rw [hl]
  exact ⟨_, List.mem_append_right _ (List.mem_singleton.2 rfl), rfl, rfl, rfl⟩

/-- What goes on after a lost package's links are fenced: no flight is lost, and a fenced link stays so. -/
structure Fenced (s t : State) : Prop where
  aside : Aside s t
  peers : t.links.peers = s.links.peers
  link : ∀ k, (s.link k).state = 3 → (t.link k).state = 3
  flights : s.wire.flights ⊆ t.wire.flights

theorem Fenced.refl (s : State) : Fenced s s := ⟨⟨rfl, rfl⟩, rfl, fun _ h => h, fun _ h => h⟩

theorem Fenced.trans {s t u : State} (h : Fenced s t) (g : Fenced t u) : Fenced s u :=
  ⟨aside_trans h.aside g.aside, g.peers.trans h.peers, fun k hk => g.link k (h.link k hk), fun _ hf => g.flights (h.flights hf)⟩

theorem fenced_foldl {α : Type} {f : State → α → State} (h : ∀ s a, Fenced s (f s a)) (l : List α) (s : State) : Fenced s (l.foldl f s) := by
  induction l generalizing s with
  | nil => exact .refl s
  | cons a l ih => exact (h s a).trans (ih _)

theorem Queues.fenced {s t : State} (h : Queues s t) : Fenced s t := by
  refine ⟨h.aside, h.peers, fun k hk => ?_, by rw [h.flights]; exact fun _ hf => hf⟩
  rw [h.down k (by rw [hk]; decide)]
  exact hk

theorem noActor_fenced (s : State) (die : Nat) (m : Msg) : Fenced s (s.noActor die m) := by
  unfold State.noActor
  split
  · exact ⟨⟨rfl, rfl⟩, rfl, fun _ h => h, List.subset_append_left _ _⟩
  · exact .refl s

theorem discardTx_fenced (s : State) (l : List Transaction) : Fenced s (s.discardTx l) := by
  refine fenced_foldl (fun s t => ?_) l s
  split
  · exact fenced_foldl (fun s m => noActor_fenced s 0 m) _ s
  · exact .refl s

theorem confirm_fenced (s : State) (n : Word) : Fenced s (s.confirm n) := by
  unfold State.confirm
  split
  · exact .refl s
  · next t _ =>
    refine Fenced.trans ?_ (fenced_foldl (f := fun s m => s.transmit t.pkg (.messages [m]))
      (fun s m => (transmit_queues s t.pkg (.messages [m])).fenced) t.held _)
    exact ⟨⟨rfl, rfl⟩, rfl, fun _ h => h, fun _ h => h⟩

theorem forget_fenced (s : State) (pkg : Nat) : Fenced s (s.forget pkg) := by
  refine Fenced.trans (t := { s with dir := { s.dir with remote := s.dir.remote.filter fun t => t.pkg != pkg } })
    ⟨⟨rfl, rfl⟩, rfl, fun _ h => h, fun _ h => h⟩ ?_
  exact (fenced_foldl (f := fun s (t : Located) => s.confirm (mkName t.job 0 t.index 0)) (fun s t => confirm_fenced s _) _ _).trans
    (discardTx_fenced _ _)

/-- A link of a lost package: what is to leave by it for that package goes, and all that it holds when it reaches it directly. -/
def Link.cut (pkg : Nat) (l : Link) : Link :=
  let l := { l with out := l.out.filter fun t => t.1 != pkg }
  if l.peer == some pkg then { l with state := 3, keywait := false, out := [], replay := [], held := [] } else l

theorem Link.cut_state (pkg : Nat) (l : Link) : (l.cut pkg).state = if l.peer == some pkg then 3 else l.state := by
  unfold Link.cut
  dsimp only
  split <;> rfl

theorem cutOff_fenced (s : State) (pkg : Nat) :
    Fenced s (s.cutOff pkg) ∧ ∀ k < 20, (s.link k).peer = some pkg → ((s.cutOff pkg).link k).state = 3 := by
  let t : State := { s with links := { s.links with links := s.links.links.map (Link.cut pkg), waiting := s.links.waiting.filter fun t => t.1 != pkg } }
  have hlink (k : Nat) (hk : k < 20) : t.link k = (s.link k).cut pkg := vget_map s.links.links (Link.cut pkg) hk
  have hcut : Fenced t (s.cutOff pkg) := discardTx_fenced t _
  have ht : Fenced s t := by
    refine ⟨⟨rfl, rfl⟩, rfl, fun k hk => ?_, fun _ h => h⟩
    by_cases h20 : k < 20
    · rw [hlink k h20, Link.cut_state, hk]
      exact ite_self _
    · rw [State.link, vget, dif_neg h20]
      rwa [State.link, vget, dif_neg h20] at hk
  refine ⟨ht.trans hcut, fun k hk hp => hcut.link k ?_⟩
  rw [hlink k hk, Link.cut_state, hp, if_pos (beq_self_eq_true _)]

theorem losePackage_tells (s : State) (pkg : Nat) : Aside s (s.losePackage pkg) ∧ (s.losePackage pkg).links.peers = s.links.peers ∧
    (∀ a ∈ s.dir.actors, ∀ e ∈ a.links, e.type = .link → s.elsewhere e.partner = some pkg →
      ∃ f ∈ (s.losePackage pkg).wire.flights, IsExitOf e.partner a.name f) ∧
    ∀ k < 20, (s.link k).peer = some pkg → ((s.losePackage pkg).link k).state = 3 := by
  let ofActor (s : State) (a : Actor) : State := s.signalLost pkg a.name (dieOf a.core) a.links
  let ofPool (s : State) (p : Pool) : State := s.signalLost pkg p.name (((p.members.head?).map fun m => dieOf m.core).getD 0) p.links
  let t := s.dir.actors.foldl ofActor s
  let u := t.dir.pools.foldl ofPool t
  have hof (s : State) (a : Actor) : Signalled s (ofActor s a) := signalLost_signalled s pkg a.name _ a.links
  have ht : Signalled s t := signalled_foldl hof _ s
  have hu : Signalled t u := signalled_foldl (f := ofPool) (fun s p => signalLost_signalled s pkg p.name _ p.links) _ t
  have hsu := ht.trans hu
  obtain ⟨hcut, hdown⟩ := cutOff_fenced u pkg
  have hforget := forget_fenced (u.cutOff pkg) pkg
  have hend : Fenced u (s.losePackage pkg) := hcut.trans hforget
  refine ⟨aside_trans ⟨hsu.posted.act, hsu.posted.mem⟩ hend.aside, hend.peers.trans (congrArg Links.peers hsu.links), fun a ha e he hl hp => ?_,
    fun k hk hp => hforget.link k (hdown k hk ?_)⟩
  · obtain ⟨f, hf, hexit⟩ := signalled_foldl_mem hof (s₀ := s) (a := a)
      (fun v hv => signalLost_sends he hl ((hv.elsewhere e.partner).trans hp)) _ s (.refl s) ha
    exact ⟨f, hend.flights (hu.flights hf), hexit⟩
  · rw [State.link, hsu.links]
    exact hp

/-- The loss of a package is noted with its last heartbeat. -/
def State.markLost (s : State) (pkg : Nat) : State :=
  { s with links := { s.links with peers := s.links.peers.map fun t => if t.1 == pkg then (pkg, t.2.1, true) else t } }

theorem markLost_lost {s : State} {pkg since : Nat} {b : Bool} (h : (pkg, since, b) ∈ s.links.peers) : (s.markLost pkg).lostPackage pkg = true :=
  List.any_eq_true.2 ⟨(pkg, since, true), List.mem_map.2 ⟨(pkg, since, b), h, if_pos (beq_self_eq_true pkg)⟩,
    Bool.and_eq_true_iff.2 ⟨beq_self_eq_true pkg, rfl⟩⟩

theorem markLost_keeps (s : State) (pkg : Nat) : Aside s (s.markLost pkg) ∧ (s.markLost pkg).wire = s.wire ∧ (s.markLost pkg).link = s.link :=
  ⟨⟨rfl, rfl⟩, rfl, rfl⟩

theorem packageHeartbeatLoss_of {s : State} {n since : Nat} (hr : Running s)
    (hpeer : s.links.peers.find? (fun p => p.1 == n) = some (n, since, false)) (ht : since + 300000 ≤ s.env.time) :
    exec (.packageHeartbeatLoss n) s = .next ((s.losePackage n).markLost n) := by
  show execPackageHeartbeatLoss n s = _
  unfold execPackageHeartbeatLoss
  rw [hpeer, Option.bind_eq_bind, Option.bind_some]
  dsimp only
  rw [decide_eq_false (Nat.not_lt.2 ht), if_neg (by decide)]
  exact event_some hr _

theorem packageHeartbeatLoss_tells {s : State} {n since : Nat} (hr : Running s)
    (hpeer : s.links.peers.find? (fun p => p.1 == n) = some (n, since, false)) (ht : since + 300000 ≤ s.env.time) :
    Completes (.packageHeartbeatLoss n) s fun t => Aside s t ∧ t.lostPackage n = true ∧
      (∀ a ∈ s.dir.actors, ∀ e ∈ a.links, e.type = .link → s.elsewhere e.partner = some n →
        ∃ f ∈ t.wire.flights, IsExitOf e.partner a.name f) ∧
      ∀ k < 20, (s.link k).peer = some n → (t.link k).state = 3 := by
  obtain ⟨hside, hpeers, hsignal, hfence⟩ := losePackage_tells s n
  have hmem : (n, since, false) ∈ (s.losePackage n).links.peers := by
    rw [hpeers]
    exact List.mem_of_find?_eq_some hpeer
  obtain ⟨hmark, hwire, hlink⟩ := markLost_keeps (s.losePackage n) n
  rw [← hwire] at hsignal
  rw [← hlink] at hfence
  exact ⟨_, packageHeartbeatLoss_of hr hpeer ht, aside_trans hside hmark, markLost_lost hmem, hsignal, hfence⟩

/-! ## Exits leave the links as they are -/

/-- The links' part of the state has not changed. -/
def SameLinks (s t : State) : Prop := t.links = s.links

theorem SameLinks.refl (s : State) : SameLinks s s := rfl

theorem SameLinks.trans {s t u : State} (h : SameLinks s t) (g : SameLinks t u) : SameLinks s u := Eq.trans g h

theorem sameLinks_foldl {α : Type} {f : State → α → State} (h : ∀ s a, SameLinks s (f s a)) (l : List α) (s : State) : SameLinks s (l.foldl f s) := by
  induction l generalizing s with
  | nil => exact .refl s
  | cons a l ih => exact (h s a).trans (ih _)

theorem noActor_sameLinks (s : State) (die : Nat) (m : Msg) : SameLinks s (s.noActor die m) := by
  unfold State.noActor
  split <;> rfl

theorem dropHeld_sameLinks (s : State) (die : Nat) (held : List QMsg) : SameLinks s (s.dropHeld die held) :=
  sameLinks_foldl (f := fun s (q : QMsg) => s.noActor die q.msg) (fun s q => noActor_sameLinks s die q.msg) held s

theorem removeActor_sameLinks (s : State) (a : Actor) : SameLinks s (s.removeActor a) := by
  unfold State.removeActor
  exact SameLinks.trans rfl (dropHeld_sameLinks _ _ _)

theorem exitSignals_sameLinks (s : State) (die : Nat) (name : Word) (reason : Nat) (dropped : Word) (l : List LinkEntry) :
    SameLinks s (s.exitSignals die name reason dropped l) := by
  refine sameLinks_foldl (fun s e => ?_) l s
  dsimp only
  split
  · split <;> rfl
  · rfl
  · rfl

theorem scrub_sameLinks (s : State) (l : List (Nat × Vector Region 8)) : SameLinks s (s.scrub l) := by
  obtain ⟨mem, h⟩ := scrub_eq l s
  rw [h]
  rfl

theorem killActor_sameLinks (s : State) (n : Word) (r : Nat) : SameLinks s (s.killActor n r) := by
  obtain ⟨-, h⟩ | ⟨-, ps, h⟩ := s.killActor_cases n r
  · rw [h]
    exact .refl s
  · rw [h]
    rfl

/-- What a supervisor's exit does to one of its children. -/
theorem orphan_sameLinks (s : State) (a : Actor) : SameLinks s (match a.life with
    | .live | .saved => (s.modActor a.name fun t => { t with quiet := true }).killActor a.name 13
    | .restarting _ => s.removeActor a
    | .exiting _ => s) := by
  cases a.life with
  | live => exact SameLinks.trans rfl (killActor_sameLinks _ _ _)
  | saved => exact SameLinks.trans rfl (killActor_sameLinks _ _ _)
  | restarting _ => exact removeActor_sameLinks s a
  | exiting _ => exact .refl s

theorem orphans_sameLinks (s : State) (sup : Word) (r : Option SupRec) : SameLinks s (s.orphans sup r) := by
  unfold State.orphans
  split
  · exact .refl s
  · exact SameLinks.trans (sameLinks_foldl orphan_sameLinks _ s) rfl

theorem settleLevels_sameLinks (s : State) : SameLinks s s.settleLevels := by
  obtain ⟨exp, ph, la, env, wire, h⟩ := settleLevels_eq s
  rw [h]
  rfl

theorem tellMonitor_sameLinks (s : State) (a : Actor) (dropped : Word) : SameLinks s (s.tellMonitor a dropped) := by
  unfold State.tellMonitor
  dsimp only
  split <;> rfl

theorem exitAs_sameLinks (s : State) (a : Actor) (reason : Nat) (dropped : Word) : SameLinks s (s.exitAs a reason dropped) := by
  unfold State.exitAs
  extract_lets name heir u v w x
  have hu : SameLinks s u := (scrub_sameLinks s _).trans rfl
  have hv : SameLinks u v := by
    show SameLinks u (match heir with | some (sup, img) => _ | none => _)
    clear_value heir
    obtain _ | ⟨⟨sup, i⟩, img⟩ := heir
    · exact removeActor_sameLinks u a
    · exact SameLinks.trans rfl (dropHeld_sameLinks (u.modActor name _) _ _)
  have hw : SameLinks v w := exitSignals_sameLinks v _ _ _ _ _
  have hx : SameLinks w x := by
    show SameLinks w (match a.supervisor with | some (sup, i) => _ | none => _)
    split
    · split <;> rfl
    · exact .refl w
  exact (((hu.trans hv).trans hw).trans hx).trans
    (((tellMonitor_sameLinks x a dropped).trans (orphans_sameLinks _ _ _)).trans (settleLevels_sameLinks _))

theorem exitPoolAs_sameLinks (s : State) (p : Pool) (reason : Nat) (dropped : Word) : SameLinks s (s.exitPoolAs p reason dropped) := by
  unfold State.exitPoolAs
  extract_lets name mine die entries u aliases e d v
  have hu : SameLinks s u := (scrub_sameLinks s _).trans rfl
  have hv : SameLinks s v := hu.trans rfl
  exact ((hv.trans (dropHeld_sameLinks v _ _)).trans (exitSignals_sameLinks _ _ _ _ _ _)).trans
    ((orphans_sameLinks _ _ _).trans (settleLevels_sameLinks _))

theorem takeDown_sameLinks (s : State) (n : Word) (r : Nat) : SameLinks s (s.takeDown n r) := rfl

theorem loseActor_sameLinks (s : State) (a : Actor) : SameLinks s (s.loseActor a) := by
  unfold State.loseActor
  split
  · exact .refl s
  · exact (takeDown_sameLinks s _ 9).trans (exitAs_sameLinks _ _ _ _)

theorem losePool_sameLinks (s : State) (die : Nat) (p : Pool) : SameLinks s (s.losePool die p) := by
  unfold State.losePool
  extract_lets members t u
  have ht : SameLinks s t := rfl
  split
  · have hu : SameLinks s u := ht.trans (takeDown_sameLinks t p.name 9)
    split
    · exact hu.trans (exitPoolAs_sameLinks u _ _ _)
    · exact hu
  · exact ht

/-! ## A lost die (03 R76, R77) -/

theorem dropDie_keeps (s : State) (die : Nat) : SameLinks s (s.dropDie die) ∧ (∀ a ∈ (s.dropDie die).acts, dieOf a.core ≠ die) ∧
    ((s.dropDie die).act.live = true → dieOf (s.dropDie die).act.core ≠ die) := by
  refine ⟨rfl, fun a ha hd => ?_, fun hl hd => ?_⟩
  · have hmem : a ∈ s.acts.filter fun a => !(dieOf a.core == die) := ha
    rw [List.mem_filter, hd, beq_self_eq_true] at hmem
    exact Bool.false_ne_true hmem.2
  · have hact : (s.dropDie die).act = if s.act.live && dieOf s.act.core == die then {} else s.act := rfl
    rw [hact] at hl hd
    by_cases hgone : (s.act.live && dieOf s.act.core == die) = true
    · rw [if_pos hgone] at hl
      exact Bool.false_ne_true hl
    · rw [if_neg hgone] at hl hd
      exact hgone (Bool.and_eq_true_iff.2 ⟨hl, beq_iff_eq.2 hd⟩)

theorem loseDie_drops (s : State) {n : Nat} (hn : n < 4) : (s.loseDie n).links.lostDies.getLsbD n = true ∧
    (∀ a ∈ (s.loseDie n).acts, dieOf a.core ≠ n) ∧ ((s.loseDie n).act.live = true → dieOf (s.loseDie n).act.core ≠ n) := by
  unfold State.loseDie
  extract_lets t l u held there v w
  have hv : SameLinks u v := sameLinks_foldl loseActor_sameLinks _ u
  have hw : SameLinks v w := sameLinks_foldl (f := fun s p => s.losePool n p) (fun s p => losePool_sameLinks s n p) _ v
  obtain ⟨hlinks, hacts, hact⟩ := dropDie_keeps w n
  have hall := ((hv.trans hw).trans hlinks).trans (settleLevels_sameLinks _)
  rw [settleLevels_acts, settleLevels_act, show (w.dropDie n).settleLevels.links = u.links from hall]
  refine ⟨?_, hacts, hact⟩
  show (t.links.lostDies ||| (1#4 <<< n)).getLsbD n = true
  simp [hn]

theorem bridgeHeartbeatLoss_drops {s : State} {n : Nat} (hr : Running s) (hn : n < 4) (hlost : s.links.lostDies.getLsbD n = false)
    (hm : s.boot.minimal = false) (hb : 5 ≤ s.boot.steps) (hg : s.dieGone n = true) :
    Completes (.bridgeHeartbeatLoss n) s fun t => t.links.lostDies.getLsbD n = true ∧ (∀ a ∈ t.acts, dieOf a.core ≠ n) ∧
      (t.act.live = true → dieOf t.act.core ≠ n) := by
  refine ⟨_, ?_, loseDie_drops s hn⟩
  show execBridgeHeartbeatLoss n s = _
  unfold execBridgeHeartbeatLoss
  rw [decide_eq_false (Nat.not_le.2 hn), hlost, hm, decide_eq_false (Nat.not_lt.2 hb), hg, if_neg (by decide)]
  exact event_some hr _

/-! ## Requests left unanswered (19 R425) -/

theorem remoteRequestTimeout_kills {s : State} {n : Nat} {r : RemoteReq} (hr : Running s)
    (hfind : s.links.remote.find? (fun r => r.id == n) = some r) (hans : r.answer = none) (hsent : s.unsent r = false)
    (ht : r.sentAt + s.links.rto.toNat * 1000 ≤ s.env.time) (he : r.entry ≠ earlyEntry) :
    exec (.remoteRequestTimeout n) s = .next ((s.dropRemote n).killAnyway r.actor 7) := by
  show execRemoteRequestTimeout n s = _
  unfold execRemoteRequestTimeout
  rw [hfind, Option.bind_eq_bind, Option.bind_some, hans, hsent, decide_eq_false (Nat.not_lt.2 ht), if_neg (by decide),
    beq_eq_false_iff_ne.2 he, if_neg (by decide)]
  exact event_some hr _

/-- Settles O60: a link's events change that link and queue what is to leave; a lost package or die fences its links, drops what ran
there and sends the signals of its actors. -/
theorem linkEvents : Obligations.LinkEvents := by
  intro s n hr l alone
  refine ⟨fun hn hup => ⟨fun pkg x rest hk ho hc hroom => flitTransmit_data hr hn hup hk ho hc hroom, flitTransmit_ack hr hn hup,
      idleFlitTimer_sends hr hn hup, linkVerifyTimeout_clears hr hn hup, fun f harm hheld hslot hauth hnak hack =>
      ⟨idleFlit_verifies hr hn hup harm hheld hslot hauth hnak hack, controlFlit_verifies hr hn hup harm hheld hslot hauth hnak hack,
        fun hseq => ⟨fun b ht hp => marker_passes hr hn hup harm hheld hslot hauth hnak hack ht hp hseq,
          fun src dst pkg time ht hp hsrc hpkg => heartbeat_heard hr hn hup harm hheld hslot hauth hnak hack ht hp hseq hsrc hpkg⟩⟩⟩,
    linkTrainingComplete_up hr, heartbeatSend_beats hr, fun since hp ht => packageHeartbeatLoss_tells hr hp ht,
    bridgeHeartbeatLoss_drops hr, fun r hfind hans hsent ht he => remoteRequestTimeout_kills hr hfind hans hsent ht he⟩

end Sys2Proof.Machine
end


section
/-! O11: a store's frame fails where an outstanding write of another activation already bears the number that a new write is given. -/

namespace Sys2Proof.Machine
open Sys2Proof.Safety Sys2Proof.Tests

/-- A write of one byte to line 1 that its home has still to apply, under the number that the second write from now is given. -/
def sameNumber (s : State) : PendWrite :=
  { id := s.env.nextId + 1, aid := 9, core := 8, asid := 0, va := 0, addr := 64, bytes := [1], poison := false, key := 0, die := 0, home := 0
    replicas := none, stamp := [], applied := [], tags := { aid := 9 } }

/-- An activation that has committed, with x8 on a page of HBM, and that write outstanding. -/
def twoWrites : State :=
  let s := withX [(8, 0x10000)] (mapped (committed st))
  { s with mem := { s.mem with pending := [sameNumber s] } }

/-- Byte 64 after an instruction. -/
def byteAfter (i : Instr) (s : State) : Option Byte := match exec i s with
  | .next t => some (look 0 t.mem.cells 64)
  | _ => none

theorem next_of_byteAfter {i : Instr} {s : State} {b : Byte} (h : byteAfter i s = some b) : ∃ t, exec i s = .next t ∧ look 0 t.mem.cells 64 = b := by
  unfold byteAfter at h
  split at h
  · exact ⟨_, ‹_›, Option.some.inj h⟩
  · exact absurd h (Option.some_ne_none b).symm

/-- The atomic's address leads to bytes 0x40000 to 0x40007, away from line 1. -/
theorem twoWrites_translates : ∃ p u, twoWrites.translate twoWrites.me.die twoWrites.me.asid (twoWrites.act.getX 8).toNat .atomic
    twoWrites.me.service = .ok (p, u) ∧ p.type ≠ 6 ∧ p.addr = 0x40000 :=
  ⟨_, _, rfl, by decide +kernel, by decide +kernel⟩

/-- Refutes O11: an atomic in HBM is performed at its home by the number of its write, and looks that number up among the outstanding
writes. Where another of them already bears it, which no hypothesis excludes, that one is performed instead, at its own address:
here byte 64 becomes 1, though the atomic's bytes lie from 0x40000. -/
theorem not_storesFrame : ¬Obligations.StoresFrame := by
  intro h
  obtain ⟨t, hexec, hbyte⟩ := next_of_byteAfter (i := .amoAdd 0 0 0 1 8 0) (s := twoWrites) (b := 1) (by decide +kernel)
  obtain ⟨p, u, htr, htype, haddr⟩ := twoWrites_translates
  obtain ⟨-, -, -, -, -, -, -, hamo⟩ := h twoWrites t 0 0 0 0 0 0 1 8 0 0
  obtain ⟨-, -, -, hfar, -⟩ := hamo (.inl rfl) (.amoAdd 0 0 0 1 8 0) (by simp) hexec
  obtain ⟨hcell, -⟩ := hfar rfl (by decide +kernel) (by decide +kernel) p u htr htype 64 (by rw [haddr]; decide)
    fun hline => absurd hline (by rw [haddr]; decide)
  rw [hbyte, show look 0 twoWrites.mem.cells 64 = 0 by decide +kernel] at hcell
  exact absurd hcell (by decide)

end Sys2Proof.Machine
end


section
/-! O8, its parts: computations, options and outcomes whose states keep memory canonical. -/

namespace Sys2Proof.Machine
open Sys2Proof.Safety

/-! ## What keeps memory canonical -/

/-- A state with the memory of one whose memory is canonical. -/
theorem canonical_congr {s t : State} (h : MemCanonical s) (e : t.mem = s.mem) : MemCanonical t := by
  rw [MemCanonical, e]
  exact h

theorem canonical_foldl {α : Type} {f : State → α → State} {s : State} {l : List α} (hf : ∀ s a, MemCanonical s → MemCanonical (f s a))
    (h : MemCanonical s) : MemCanonical (l.foldl f s) := by
  induction l generalizing s with
  | nil => exact h
  | cons a l ih => exact ih (hf s a h)

theorem canonical_snd {α : Type} {p : α × State} {a : α} {t : State} (h : MemCanonical p.2) (hp : p = (a, t)) : MemCanonical t := by
  rw [hp] at h
  exact h

theorem canonical_fst {α : Type} {p : State × α} {a : α} {t : State} (h : MemCanonical p.1) (hp : p = (t, a)) : MemCanonical t := by
  rw [hp] at h
  exact h

theorem yields_foldlM {α : Type} {f : State → α → Chk State} {s : State} {l : List α}
    (hf : ∀ s a, MemCanonical s → Yields (f s a) MemCanonical) (h : MemCanonical s) : Yields (l.foldlM f s) MemCanonical := by
  induction l generalizing s with
  | nil => exact yields_ok.2 h
  | cons a l ih => exact (hf s a h).bind fun t ht => ih ht

/-- What an optional value holds, if anything, satisfies `P`: for the state that an event gives. -/
def Gives {α : Type} (o : Option α) (P : α → Prop) : Prop := ∀ t, o = some t → P t

theorem gives_some {α : Type} {a : α} {P : α → Prop} : Gives (some a) P ↔ P a :=
  ⟨fun h => h a rfl, fun h _ e => Option.some.inj e ▸ h⟩

theorem gives_none {α : Type} (P : α → Prop) : Gives none P := fun _ e => by cases e

theorem Gives.bind {α β : Type} {o : Option α} {f : α → Option β} {P : α → Prop} {Q : β → Prop} (ho : Gives o P)
    (hf : ∀ a, P a → Gives (f a) Q) : Gives (o >>= f) Q := by
  cases o with
  | none => exact gives_none Q
  | some a => exact hf a (ho a rfl)

theorem Gives.after {α β : Type} {o : Option α} {f : α → Option β} {Q : β → Prop} (hf : ∀ a, Gives (f a) Q) : Gives (o >>= f) Q :=
  Gives.bind (P := fun _ => True) (fun _ _ => trivial) fun a _ => hf a

theorem Gives.map {α β : Type} {o : Option α} {f : α → β} {P : α → Prop} {Q : β → Prop} (ho : Gives o P) (hf : ∀ a, P a → Q (f a)) :
    Gives (o.map f) Q := by
  cases o with
  | none => exact gives_none Q
  | some a => exact gives_some.2 (hf a (ho a rfl))

theorem Gives.getD {o : Option State} (ho : Gives o MemCanonical) {s : State} (h : MemCanonical s) : MemCanonical (o.getD s) := by
  cases o with
  | none => exact h
  | some t => exact ho t rfl

/-- The next state of an outcome has canonical memory. -/
def Ends (o : Host.Outcome State Fault Refusal) : Prop := ∀ t, o = .next t → MemCanonical t

theorem ends_next {s : State} (h : MemCanonical s) : Ends (.next s) := fun _ e => Host.Outcome.next.inj e ▸ h

theorem ends_fault (f : Fault) : Ends (.fault f) := fun _ e => by cases e

theorem ends_refused (r : Refusal) : Ends (.refused r) := fun _ e => by cases e

theorem event_canonical {s : State} {o : Option State} (h : MemCanonical s) (ho : Gives o MemCanonical) : Ends (event s o) := by
  unfold event
  split
  · exact ends_fault _
  · exact ends_next (ho.getD h)

end Sys2Proof.Machine
end


section
/-! O8, its parts: the state's own operations, memory's, translation and the registers of the links keep memory canonical. -/

namespace Sys2Proof.Machine
open Sys2Proof.Safety

/-! ## Writes (05 R117, 18 R405) -/

theorem settleLine_canonical {s : State} {line : Nat} (h : MemCanonical s) : MemCanonical (s.settleLine line) := wf_settleLine s line h

theorem zeroPool_canonical {s : State} {core off n : Nat} (h : MemCanonical s) : MemCanonical
    (s.zeroPool core off n) := wf_zeroPool s core off n h

theorem settle_canonical {s : State} {a n : Nat} (h : MemCanonical s) : MemCanonical (s.settle a n) := wf_settle s a n h

theorem readHbm_canonical {s : State} {die : Nat} {key : Byte} {a n : Nat} (h : MemCanonical s) :
    Yields (s.readHbm die key a n) fun r => MemCanonical r.2.2 := fun r hr => wf_readHbm s die key a n r h hr

theorem writeNow_canonical {s : State} {gen a : Nat} {bs : List Byte} {poison : Bool} (h : MemCanonical s) :
    MemCanonical (s.writeNow gen a bs poison) := wf_writeNow s gen a bs poison h

theorem issueWrite_canonical {s : State} {w : PendWrite} (h : MemCanonical s) : MemCanonical (s.issueWrite w) := wf_issueWrite s w h

theorem perform_canonical {s : State} {w : PendWrite} {die : Nat} (h : MemCanonical s) : MemCanonical
    (s.perform w die) := wf_perform s w die h

theorem performPush_canonical {s : State} {w : PendWrite} (h : MemCanonical s) : MemCanonical (s.performPush w) := wf_performPush s w h

theorem inject_canonical {s : State} {core unit index : Nat} (h : MemCanonical s) : MemCanonical (s.inject core unit index) :=
  (inject_settled s core unit index).wf h

theorem note_canonical {s : State} {n : Note} {injected : Bool} (h : MemCanonical s) : MemCanonical (s.note n injected) :=
  (note_settled s n injected).wf h

/-- What a run of a mirrored child does once, or its answer taken (03 R85). -/
theorem once_canonical {s : State} {len : Nat} {d : BitVec 5} {f : State → Chk State} (h : MemCanonical s)
    (hf : Yields (f s) MemCanonical) :
    Yields (s.once len d f) MemCanonical := by
  unfold State.once
  split
  · exact hf
  · split
    · exact yields_ok.2 h
    · split
      · exact yields_stall _
      · refine hf.bind fun u hu => yields_ok.2 ?_
        split <;> exact hu

theorem modAct_canonical {s : State} {f : Act → Act} (h : MemCanonical s) : MemCanonical (s.modAct f) := h

theorem advance_canonical {s : State} {len : Nat} (h : MemCanonical s) : MemCanonical (s.advance len) := h

theorem result_canonical {s : State} {len : Nat} {d : BitVec 5} {v : Word} {poison : Bool} (h : MemCanonical s) :
    MemCanonical (s.result len d v poison) := h

theorem modCore_canonical {s : State} {c : Nat} {f : Core → Core} (h : MemCanonical s) : MemCanonical (s.modCore c f) := h

theorem setCounter_canonical {s : State} {core n : Nat} {v : Word32} (h : MemCanonical s) : MemCanonical (s.setCounter core n v) := h

theorem addCounter_canonical {s : State} {core n : Nat} {v : Word32} (h : MemCanonical s) : MemCanonical (s.addCounter core n v) := h

theorem modActor_canonical {s : State} {n : Word} {f : Actor → Actor} (h : MemCanonical s) : MemCanonical (s.modActor n f) := h

theorem modPool_canonical {s : State} {n : Word} {f : Pool → Pool} (h : MemCanonical s) : MemCanonical (s.modPool n f) := h

theorem setDigest_canonical {s : State} {name : Word} {run : Nat} {d : Option (List Byte)} (h : MemCanonical s) :
    MemCanonical (s.setDigest name run d) := h

theorem modJob_canonical {s : State} {j : Half} {f : Job → Job} (h : MemCanonical s) : MemCanonical (s.modJob j f) := h

theorem modPart_canonical {s : State} {p : Nat} {f : Part → Part} (h : MemCanonical s) : MemCanonical (s.modPart p f) := by
  unfold State.modPart
  split <;> exact h

theorem fresh_canonical {s : State} (h : MemCanonical s) : MemCanonical (s.fresh).2 := h

theorem freshRef_canonical {s : State} {used : List Nat} (h : MemCanonical s) : MemCanonical (s.freshRef used).2 := h

theorem checkPool_canonical {s : State} {core : Nat} (h : MemCanonical s) : MemCanonical (s.checkPool core) := inject_canonical h

theorem dropEntries_canonical {s : State} {p : Entry → Bool} (h : MemCanonical s) : MemCanonical (s.dropEntries p) := h

theorem freeTiles_canonical {s : State} {p : Nat → Bool} (h : MemCanonical s) : MemCanonical (s.freeTiles p) := h

theorem dropPorts_canonical {s : State} {p : Port → Bool} (h : MemCanonical s) : MemCanonical (s.dropPorts p) := h

theorem abandon_canonical {s : State} {gone : Entry → Bool} (h : MemCanonical s) : MemCanonical (s.abandon gone) := h

theorem leaveTickets_canonical {s : State} {gone : Nat → Bool} (h : MemCanonical s) : MemCanonical (s.leaveTickets gone) := h

theorem dropActs_canonical {s : State} {gone : Act → Bool} (h : MemCanonical s) : MemCanonical (s.dropActs gone) := h

theorem takeDown_canonical {s : State} {name : Word} {reason : Nat} (h : MemCanonical s) : MemCanonical (s.takeDown name reason) := h

theorem killActor_canonical {s : State} {name : Word} {reason : Nat} (h : MemCanonical s) : MemCanonical (s.killActor name reason) := by
  unfold State.killActor
  split
  · exact h
  · dsimp only
    refine takeDown_canonical ?_
    split
    · exact modPart_canonical h
    · exact h

theorem killAnyway_canonical {s : State} {name : Word} {reason : Nat} (h : MemCanonical s) : MemCanonical (s.killAnyway name reason) :=
  killActor_canonical (modPool_canonical (modActor_canonical h))

theorem noteKill_canonical {s : State} {job : Half} {core reason : Nat} {note : Option Note} (h : MemCanonical s) :
    MemCanonical (s.noteKill job core reason note) := by
  unfold State.noteKill
  dsimp only
  split
  · exact note_canonical h
  · split
    · exact note_canonical h
    · exact h

theorem raise_canonical {s : State} {reason : Nat} {note : Option Note} (h : MemCanonical s) : MemCanonical (s.raise reason note) :=
  killActor_canonical (noteKill_canonical h)

theorem repair_canonical {s : State} {a n : Nat} (h : MemCanonical s) : MemCanonical (s.repair a n) :=
  canonical_foldl (fun _ _ h1 => settleLine_canonical h1) h

theorem noteStore_canonical {s : State} {core addr n : Nat} (h : MemCanonical s) : MemCanonical (s.noteStore core addr n) := h

theorem tableEntry_canonical {s : State} {die page idx : Nat} (h : MemCanonical s) :
    Yields (s.tableEntry die page idx) fun r => MemCanonical r.2 := by
  unfold State.tableEntry
  refine Yields.after fun x1 => (readHbm_canonical h).bind ?_
  rintro ⟨x2, x3, t1⟩ h1
  dsimp only
  exact Yields.after fun x4 => yields_ok.2 h1

theorem walkEntry_canonical {s : State} {die asid va level page idx : Nat} (h : MemCanonical s) :
    Yields (s.walkEntry die asid va level page idx) fun r => MemCanonical r.2 := by
  unfold State.walkEntry
  split
  · exact yields_ok.2 h
  · refine (tableEntry_canonical h).bind ?_
    rintro ⟨x1, t1⟩ h1
    dsimp only
    split
    · exact yields_ok.2 h1
    · split
      · exact yields_error _ _
      · exact yields_ok.2 h1

theorem walk_canonical {s : State} {die asid va : Nat} (h : MemCanonical s) : Yields (s.walk die asid va) fun r => MemCanonical r.2 := by
  unfold State.walk
  refine (walkEntry_canonical h).bind ?_
  rintro ⟨x1, t1⟩ h1
  dsimp only
  split
  · exact yields_ok.2 h1
  · refine (walkEntry_canonical h1).bind ?_
    rintro ⟨x2, t2⟩ h2
    dsimp only
    split
    · exact yields_ok.2 h2
    · refine (walkEntry_canonical h2).bind ?_
      rintro ⟨x3, t3⟩ h3
      dsimp only
      split
      · exact yields_ok.2 h3
      · split
        · split
          · exact yields_ok.2 h3
          · exact yields_error _ _
        · refine (walkEntry_canonical h3).bind ?_
          rintro ⟨x4, t4⟩ h4
          dsimp only
          split <;> exact yields_ok.2 h4

theorem atSlice_canonical {s : State} {die va : Nat} (h : MemCanonical s) : MemCanonical (s.atSlice die va) := inject_canonical h

theorem walkChecked_canonical {s : State} {die asid va : Nat} {acc : Access} {queue : Nat} {service : Bool} {only : Option Nat}
    (h : MemCanonical s) :
    Yields (s.walkChecked die asid va acc queue service only) fun r => MemCanonical r.2 := by
  unfold State.walkChecked
  refine (walk_canonical h).bind ?_
  rintro ⟨x1, t1⟩ h1
  dsimp only
  split
  · exact yields_error _ _
  · split
    · exact yields_kill _ _
    · exact yields_ok.2 (atSlice_canonical h1)

theorem translate_canonical {s : State} {die asid va : Nat} {acc : Access} {service : Bool} {queue : Nat} {only : Option Nat}
    (h : MemCanonical s) :
    Yields (s.translate die asid va acc service queue only) fun r => MemCanonical r.2 := by
  unfold State.translate
  split
  · split
    · exact yields_ok.2 (atSlice_canonical h)
    · split
      · exact walkChecked_canonical h
      · exact yields_kill _ _
  · exact walkChecked_canonical h

theorem hardSend_canonical {s : State} {die : Nat} {m : Msg} (h : MemCanonical s) : MemCanonical (s.hardSend die m) := h

theorem wantSet_canonical {s : State} {n set : Nat} (h : MemCanonical s) : MemCanonical (s.wantSet n set) := by
  unfold State.wantSet
  split
  · exact h
  · dsimp only
    split
    · exact h
    · split <;> exact h

theorem windowFault_canonical {s : State} {asid va : Nat} (h : MemCanonical s) : MemCanonical (s.windowFault asid va) := by
  unfold State.windowFault
  dsimp only
  refine canonical_foldl (fun s a h => ?_) h
  refine canonical_foldl (fun s a h => ?_) h
  split
  · exact wantSet_canonical h
  · exact h

theorem raiseMiss_canonical {s : State} {die core part : Nat} {actor : Word} {deadline : Word32} {m : Miss} {join : Ticket → Ticket}
    (h : MemCanonical s) :
    MemCanonical (s.raiseMiss die core part actor deadline m join).2 := by
  unfold State.raiseMiss
  dsimp only
  split
  · exact canonical_congr (windowFault_canonical h) rfl
  · exact hardSend_canonical (canonical_congr (windowFault_canonical h) rfl)

theorem missAct_canonical {s : State} {m : Miss} (h : MemCanonical s) : MemCanonical (s.missAct m) := by
  unfold State.missAct
  dsimp only
  exact modAct_canonical (raiseMiss_canonical h)

theorem modLink_canonical {s : State} {n : Nat} {f : Link → Link} (h : MemCanonical s) : MemCanonical (s.modLink n f) := h

theorem writeThr_canonical {s : State} {n : Nat} {v : Word} (h : MemCanonical s) : MemCanonical (s.writeThr n v) := by
  unfold State.writeThr
  split <;> exact modLink_canonical h

theorem writeRto_canonical {s : State} {v : Word} (h : MemCanonical s) : MemCanonical (s.writeRto v) := by
  unfold State.writeRto
  split
  · exact h
  · exact modLink_canonical h

theorem writeLinkReg_canonical {s : State} {n off : Nat} {v : Word} (h : MemCanonical s) : MemCanonical (s.writeLinkReg n off v) := by
  unfold State.writeLinkReg
  split
  · split
    · exact modLink_canonical h
    · exact h
  · exact writeThr_canonical h
  · exact writeRto_canonical h
  · exact h

theorem ioWrite_canonical {s : State} {page off n : Nat} {v : Word} (h : MemCanonical s) : Yields
    (s.ioWrite page off n v) MemCanonical := by
  unfold State.ioWrite
  split
  · exact yields_error _ _
  · split
    · exact yields_kill _ _
    · split
      · dsimp only
        split
        · exact yields_kill _ _
        · refine yields_ok.2 ?_
          split <;> exact h
      · split
        · exact yields_kill _ _
        · exact yields_ok.2 (writeLinkReg_canonical h)

theorem run_canonical {s : State} {c : Chk State} (h : MemCanonical s) (hc : Yields c MemCanonical) : Ends (run s c) := by
  intro t ht
  obtain ⟨-, hok | ⟨r, n, rfl⟩ | ⟨w, rfl⟩ | ⟨m, rfl⟩ | ⟨l, rfl⟩⟩ := run_next ht
  · exact hc t hok
  · exact raise_canonical h
  · exact modAct_canonical h
  · exact missAct_canonical h
  · exact settleLine_canonical h

end Sys2Proof.Machine
end


section
/-! O8, its parts: operands, fetches and the scalar forms' shared operations keep memory canonical. -/

namespace Sys2Proof.Machine
open Sys2Proof.Safety

theorem settleAcquires_canonical {s : State} (h : MemCanonical s) : MemCanonical (s.settleAcquires) := by
  unfold State.settleAcquires
  split
  · exact h
  · exact modAct_canonical h

theorem firstSent_canonical {s : State} {t : Transaction} (h : MemCanonical s) : MemCanonical (s.firstSent t) := h

theorem transmit_canonical {s : State} {pkg : Nat} {t : Transaction} (h : MemCanonical s) : MemCanonical (s.transmit pkg t) := by
  unfold State.transmit
  split
  · exact modLink_canonical h
  · split <;> exact h

theorem ask_canonical {s : State} {w : Who} {p : Phys} {n : Nat} {store : Bool} {tags : Tags} {entry : Option (Nat × Nat)}
    {tx : Nat → Transaction} (h : MemCanonical s) :
    Yields (s.ask w p n store tags entry tx) fun r => MemCanonical r.2 := by
  unfold State.ask
  exact Yields.after fun _ => yields_ok.2 (transmit_canonical h)

theorem dropRemote_canonical {s : State} {id : Nat} (h : MemCanonical s) : MemCanonical (s.dropRemote id) := h

theorem named_canonical {α : Type} {s : State} {p : Phys} {c : Chk α} {P : α → Prop} (hc : Yields c P) : Yields (s.named p c) P := by
  unfold State.named
  split
  · exact yields_error _ _
  · exact hc

theorem readPhys_canonical {s : State} {die : Nat} {p : Phys} {n : Nat} (h : MemCanonical s) :
    Yields (s.readPhys die p n) fun r => MemCanonical r.2.2 := by
  unfold State.readPhys
  split
  · dsimp only
    refine (named_canonical (readHbm_canonical h)).bind ?_
    rintro ⟨_, _, t1⟩ h1
    dsimp only
    exact yields_ok.2 h1
  · exact yields_ok.2 h
  · exact yields_ok.2 h
  · exact yields_ok.2 h
  · refine (named_canonical (readHbm_canonical h)).bind ?_
    rintro ⟨_, _, t2⟩ h2
    dsimp only
    exact yields_ok.2 h2

theorem passEarly_canonical {s : State} {aid place n : Nat} (h : MemCanonical s) : MemCanonical (s.passEarly aid place n) := h

theorem passPage_canonical {s : State} {aid : Nat} {p : Phys} (h : MemCanonical s) : MemCanonical (s.passPage aid p) := h

theorem dropAhead_canonical {s : State} {w : Who} {place : Nat} (h : MemCanonical s) : MemCanonical (s.dropAhead w place) := by
  unfold State.dropAhead
  dsimp only
  split <;> exact h

theorem readFar_canonical {s : State} {w : Who} {p : Phys} {n : Nat} (h : MemCanonical s) :
    Yields (s.readFar w p n) fun r => MemCanonical r.2.2 := by
  unfold State.readFar
  refine (readPhys_canonical h).bind ?_
  rintro ⟨_, _, t1⟩ h1
  dsimp only
  split <;> exact yields_ok.2 (passEarly_canonical h1)

theorem loadBytes_canonical {s : State} {w : Who} {va : Word} {n al : Nat} (h : MemCanonical s) :
    Yields (s.loadBytes w va n al) fun r => MemCanonical r.2 := by
  unfold State.loadBytes
  refine Yields.after fun _ => ?_
  dsimp -zeta only
  extract_lets +onlyGivenNames s1
  have h1 : MemCanonical s1 := settleAcquires_canonical h
  clear_value s1
  refine Yields.after fun _ => ?_
  split
  · extract_lets +onlyGivenNames place
    exact Yields.after fun _ => Yields.after fun _ => Yields.after fun _ => yields_ok.2 (checkPool_canonical (passEarly_canonical h1))
  · refine (translate_canonical h1).bind ?_
    rintro ⟨_, t1⟩ h3
    dsimp only
    refine Yields.after fun _ => ?_
    split
    · split
      · split
        · exact yields_ok.2 (passEarly_canonical (dropRemote_canonical h3))
        · exact yields_error _ _
      · refine Yields.after fun _ => (ask_canonical h3).bind ?_
        rintro ⟨_, t2⟩ h4
        dsimp only
        exact yields_ok.2 (modAct_canonical h4)
    · exact Yields.after fun _ => yields_ok.2 h3
    · refine Yields.after fun _ => Yields.after fun _ => (readFar_canonical h3).bind ?_
      rintro ⟨_, _, t3⟩ h5
      dsimp only
      exact yields_ok.2 h5

theorem readEarly_canonical {s : State} {va n : Nat} (h : MemCanonical s) : MemCanonical (s.readEarly va n) := by
  unfold State.readEarly
  extract_lets +onlyGivenNames w keep r
  have h2 : ∀ x0 x1, MemCanonical x0 → MemCanonical (keep x0 x1) := by
    intro t1 _ h3
    dsimp only [keep]
    exact modAct_canonical h3
  clear_value keep
  have h4 : Yields r MemCanonical := by
    dsimp only [r]
    refine Yields.after fun _ => Yields.after fun _ => Yields.after fun _ => ?_
    split
    · exact Yields.after fun _ => Yields.after fun _ => Yields.after fun _ => yields_ok.2 (h2 _ _ h)
    · refine (translate_canonical h).bind ?_
      rintro ⟨_, t2⟩ h5
      dsimp only
      refine Yields.after fun _ => ?_
      split
      · refine Yields.after fun _ => Yields.after fun _ => (readPhys_canonical h).bind ?_
        rintro ⟨_, _, t3⟩ h6
        dsimp only
        exact yields_ok.2 (h2 _ _ h)
      · refine Yields.after fun _ => Yields.after fun _ => (readPhys_canonical h).bind ?_
        rintro ⟨_, _, t4⟩ h7
        dsimp only
        exact yields_ok.2 (h2 _ _ h)
      · refine Yields.after fun _ => Yields.after fun _ => (readPhys_canonical h).bind ?_
        rintro ⟨_, _, t5⟩ h8
        dsimp only
        exact yields_ok.2 (h2 _ _ h)
      · refine Yields.after fun _ => (ask_canonical h).bind ?_
        rintro ⟨_, t6⟩ h9
        dsimp only
        exact yields_ok.2 (h2 _ _ h9)
      · exact yields_ok.2 h
  clear_value r
  split
  · rename_i t7
    exact yields_ok.1 h4
  · exact settleLine_canonical h
  · exact h

theorem loadRecord_canonical {s : State} {w : Who} {va : Word} {n al : Nat} (h : MemCanonical s) :
    Yields (s.loadRecord w va n al) fun r => MemCanonical r.2 := by
  unfold State.loadRecord
  refine (loadBytes_canonical h).bind ?_
  rintro ⟨_, t1⟩ h1
  dsimp only
  split
  · exact yields_ok.2 h1
  · exact Yields.after fun _ => yields_ok.2 h1

theorem appendDirty_canonical {s : State} {core : Nat} {e : Nat × Nat} (h : MemCanonical s) : MemCanonical (s.appendDirty core e) := by
  unfold State.appendDirty
  split
  · exact h
  · exact modCore_canonical h

theorem logDirty_canonical {s : State} {core : Nat} {p : Phys} (h : MemCanonical s) : Yields (s.logDirty core p) MemCanonical := by
  unfold State.logDirty
  split
  · exact Yields.after fun _ => yields_ok.2 (appendDirty_canonical h)
  · exact yields_ok.2 h

theorem pend_canonical {s : State} {w : Who} {p : Phys} {bs : List Byte} {poison : Bool} {tags : Tags} (h : MemCanonical s) :
    MemCanonical (s.pend w p bs poison tags).2 := h

theorem askWrite_canonical {s : State} {w : Who} {p : Phys} {bs : List Byte} {tags : Tags} (h : MemCanonical s) :
    Yields (s.askWrite w p bs tags) MemCanonical := by
  unfold State.askWrite
  dsimp only
  refine yields_foldlM (fun s a h => ?_) h
  refine (ask_canonical (dropAhead_canonical h)).bind ?_
  rintro ⟨_, t1⟩ h3
  dsimp only
  exact yields_ok.2 h3

theorem writePhys_canonical {s : State} {w : Who} {p : Phys} {bs : List Byte} {poison : Bool} {tags : Tags} (h : MemCanonical s) :
    Yields (s.writePhys w p bs poison tags) MemCanonical := by
  unfold State.writePhys
  refine (logDirty_canonical h).bind fun t1 h1 => ?_
  dsimp only
  split
  · split
    · exact yields_kill _ _
    · exact askWrite_canonical h1
  · split
    · exact yields_kill _ _
    · exact yields_ok.2 (issueWrite_canonical (pend_canonical h1))
  · split
    · exact Yields.after fun _ => yields_ok.2 (writeNow_canonical h1)
    · exact yields_ok.2 (issueWrite_canonical (pend_canonical h1))
  · exact ioWrite_canonical h1
  · exact Yields.after fun _ => yields_ok.2 (issueWrite_canonical (pend_canonical h1))

theorem storeNow_canonical {s : State} {w : Who} {va n : Nat} {v : Word} {poison : Bool} {tags : Tags} {before : Nat} (h : MemCanonical s) :
    Yields (s.storeNow w va n v poison tags before) MemCanonical := by
  unfold State.storeNow
  refine Yields.after fun _ => ?_
  dsimp only
  refine Yields.after fun _ => ?_
  split
  · exact yields_ok.2 (checkPool_canonical (passEarly_canonical (noteStore_canonical (writeNow_canonical h))))
  · refine (translate_canonical h).bind ?_
    rintro ⟨_, t1⟩ h1
    dsimp only
    exact writePhys_canonical (passPage_canonical (passEarly_canonical h1))

theorem deferAs_canonical {s : State} {id : Nat} {w : Who} {eff : Eff} {after : List Nat} {scope : Nat} {tags : Tags} (h : MemCanonical s) :
    MemCanonical (s.deferAs id w eff after scope tags) := h

theorem defer_canonical {s : State} {w : Who} {eff : Eff} {after : List Nat} {scope : Nat} {tags : Tags} (h : MemCanonical s) :
    MemCanonical (s.defer w eff after scope tags) := h

theorem effectStore_canonical {s : State} {a : Act} {eff : Eff} {va n : Nat} {v : Word} {poison : Bool} {mask : BitVec 17} {scope : Nat}
    (h : MemCanonical s) :
    Yields (s.effectStore a eff va n v poison mask scope) MemCanonical := by
  unfold State.effectStore
  extract_lets +onlyGivenNames w
  split
  · exact yields_ok.2 h
  · refine Yields.after fun _ => ?_
    extract_lets +onlyGivenNames tags
    refine Yields.after fun _ => ?_
    extract_lets +onlyGivenNames scope1 after
    split
    · exact storeNow_canonical h
    · exact Yields.after fun _ => yields_ok.2 (defer_canonical h)

theorem stage_canonical {s : State} {eff : Eff} (h : MemCanonical s) : Yields (s.stage eff) MemCanonical := by
  unfold State.stage
  extract_lets +onlyGivenNames used
  split
  · exact yields_ok.2 (modAct_canonical h)
  · exact yields_kill _ _

theorem issueStore_canonical {s : State} {eff : Eff} {va : Word} {n : Nat} {v : Word} {poison : Bool} {mask : BitVec 17} {scope : Nat}
    (h : MemCanonical s) :
    Yields (s.issueStore eff va n v poison mask scope) MemCanonical := by
  unfold State.issueStore
  refine Yields.after fun _ => ?_
  dsimp only
  refine Yields.after fun _ => ?_
  split
  · split
    · refine (translate_canonical h).bind ?_
      rintro ⟨_, t1⟩ h1
      dsimp only
      exact stage_canonical h1
    · exact stage_canonical h
  · exact effectStore_canonical h

theorem amoPool_canonical {s : State} {core off : Nat} {op : BitVec 3} {n v c : Nat} {vp leaf : Bool} (h : MemCanonical s) :
    Yields (s.amoPool core off op n v c vp leaf) fun r => MemCanonical r.2.2 := by
  unfold State.amoPool
  dsimp only
  refine Yields.after fun _ => ?_
  split
  · exact yields_ok.2 (writeNow_canonical h)
  · exact yields_ok.2 h

theorem amoHome_canonical {s : State} {w : Who} {p : Phys} {op : BitVec 3} {n v c : Nat} {vp : Bool} {tags : Tags} (h : MemCanonical s) :
    Yields (s.amoHome w p op n v c vp tags) fun r => MemCanonical r.2.2 := by
  unfold State.amoHome
  extract_lets +onlyGivenNames home same near page go
  have h5 : ∀ x0, Yields (go x0) fun r => MemCanonical r.2.2 := by
    intro _
    dsimp only [go]
    refine (named_canonical (readHbm_canonical h)).bind ?_
    rintro ⟨_, _, t1⟩ h6
    dsimp only
    refine Yields.after fun _ => ?_
    split
    · exact yields_ok.2 h6
    · refine (logDirty_canonical h6).bind fun t2 h7 => ?_
      split
      · refine yields_ok.2 ?_
        dsimp only
        split
        · exact issueWrite_canonical (pend_canonical h7)
        · exact perform_canonical (issueWrite_canonical (pend_canonical h7))
      · exact yields_ok.2 (issueWrite_canonical (pend_canonical h7))
  clear_value go
  split <;> exact Yields.after fun _ => Yields.after fun _ => h5 _

theorem amoNow_canonical {s : State} {w : Who} {va : Nat} {op : BitVec 3} {narrow : Bool} {v c : Word} {vp : Bool} {order : BitVec 2}
    {scope : Nat} {tags : Tags} {wait : Bool} {before : Nat} (h : MemCanonical s) :
    Yields (s.amoNow w va op narrow v c vp order scope tags wait before) fun r => MemCanonical r.2 := by
  unfold State.amoNow
  extract_lets +onlyGivenNames n
  refine Yields.after fun _ => ?_
  dsimp -zeta only
  refine Yields.after fun _ => ?_
  split
  · refine (amoPool_canonical h).bind ?_
    rintro ⟨_, _, t1⟩ h2
    dsimp only
    exact yields_ok.2 (checkPool_canonical (passEarly_canonical (noteStore_canonical h2)))
  · refine (translate_canonical h).bind ?_
    rintro ⟨_, t2⟩ h3
    dsimp -zeta only
    split
    · split
      · split
        · dsimp only
          exact Yields.after fun _ => yields_ok.2 (passEarly_canonical (dropRemote_canonical h3))
        · exact yields_error _ _
      · split
        · exact yields_kill _ _
        · refine Yields.after fun _ => Yields.after fun _ => Yields.after fun _ => ?_
          extract_lets +onlyGivenNames go
          have h4 : ∀ x0, MemCanonical x0 → Yields (go x0) fun r => MemCanonical r.2 := by
            intro t3 h5
            dsimp only [go]
            refine (ask_canonical (dropAhead_canonical h5)).bind ?_
            rintro ⟨_, t4⟩ h6
            dsimp only
            split
            · exact yields_ok.2 (modAct_canonical h6)
            · exact yields_ok.2 h6
          clear_value go
          split
          · exact (yields_ok.2 h3).bind fun t5 h7 => h4 _ h7
          · exact (logDirty_canonical h3).bind fun t6 h8 => h4 _ h8
    · dsimp only
      refine Yields.after fun _ => Yields.after fun _ => (amoPool_canonical h3).bind ?_
      rintro ⟨_, _, t7⟩ h9
      dsimp only
      exact yields_ok.2 h9
    · refine (amoHome_canonical h3).bind ?_
      rintro ⟨_, _, t8⟩ h10
      dsimp only
      exact yields_ok.2 (passPage_canonical (passEarly_canonical h10))

theorem acquireLater_canonical {s : State} {w : Who} {q : Acquire} (h : MemCanonical s) : MemCanonical (s.acquireLater w q) := by
  unfold State.acquireLater
  split
  · exact modAct_canonical h
  · exact h

theorem effectAmo_canonical {s : State} {a : Act} {eff : Eff} {va : Nat} {op : BitVec 3} {narrow : Bool} {v c : Word} {vp : Bool}
    {order : BitVec 2} {mask : BitVec 17} {scope : Nat} (h : MemCanonical s) :
    Yields (s.effectAmo a eff va op narrow v c vp order mask scope) MemCanonical := by
  unfold State.effectAmo
  extract_lets +onlyGivenNames w
  split
  · exact yields_ok.2 h
  · refine Yields.after fun _ => ?_
    extract_lets +onlyGivenNames n
    dsimp -zeta only
    extract_lets +onlyGivenNames tags
    extract_lets +onlyGivenNames tags1
    refine Yields.after fun _ => ?_
    extract_lets +onlyGivenNames scope1 waits after s1
    have h8 : MemCanonical s1 := by
      dsimp only [s1]
      split
      · exact acquireLater_canonical (fresh_canonical h)
      · exact fresh_canonical h
    clear_value s1
    split
    · refine (amoNow_canonical h8).bind ?_
      rintro ⟨_, t1⟩ h9
      dsimp only
      exact yields_ok.2 h9
    · exact Yields.after fun _ => yields_ok.2 (deferAs_canonical h8)

theorem fetchPool_canonical {s : State} {w : Who} {a : Nat} (h : MemCanonical s) : Yields (s.fetchPool w a) fun r => MemCanonical r.2 := by
  unfold State.fetchPool
  refine Yields.after fun _ => ?_
  dsimp only
  exact Yields.after fun _ => yields_ok.2 (checkPool_canonical h)

theorem fetchHalf_canonical {s : State} {va : Word} (h : MemCanonical s) : Yields (s.fetchHalf va) fun r => MemCanonical r.2 := by
  unfold State.fetchHalf
  dsimp only
  refine Yields.after fun _ => Yields.after fun _ => ?_
  split
  · exact fetchPool_canonical h
  · refine Yields.after fun _ => (translate_canonical h).bind ?_
    rintro ⟨_, t1⟩ h1
    dsimp only
    split
    · split
      · split
        · exact Yields.after fun _ => yields_ok.2 h1
        · exact yields_error _ _
      · refine (ask_canonical h1).bind ?_
        rintro ⟨_, t2⟩ h2
        dsimp only
        exact yields_ok.2 (modAct_canonical h2)
    · refine (readPhys_canonical h1).bind ?_
      rintro ⟨_, _, t3⟩ h3
      dsimp only
      exact Yields.after fun _ => yields_ok.2 h3

theorem readCode_canonical {s : State} {va : Nat} (h : MemCanonical s) : MemCanonical (s.readCode va) := by
  unfold State.readCode
  split
  · exact settleLine_canonical h
  · rename_i t1 hx1
    have h1 : MemCanonical t1 := fetchHalf_canonical h _ hx1
    split
    · exact modAct_canonical h
    · exact h
  · exact h

theorem reuseCode_canonical {s : State} {va k : Nat} (h : MemCanonical s) : MemCanonical (s.reuseCode va k) := by
  unfold State.reuseCode
  split
  · exact modAct_canonical h
  · exact h

theorem fetch_canonical {s : State} (h : MemCanonical s) : Yields (s.fetch) fun r => MemCanonical r.2 := by
  unfold State.fetch
  refine (fetchHalf_canonical h).bind ?_
  rintro ⟨_, t1⟩ h1
  dsimp only
  split
  · exact yields_ok.2 h1
  · split
    · refine (fetchHalf_canonical h1).bind ?_
      rintro ⟨_, t2⟩ h2
      dsimp only
      split <;> exact yields_ok.2 h2
    · exact yields_ok.2 h1

theorem fetched_canonical {s : State} {bs : List Byte} (h : MemCanonical s) : MemCanonical (s.fetched bs) := by
  unfold State.fetched
  extract_lets +onlyGivenNames mine s1
  extract_lets +onlyGivenNames s2
  have h3 : MemCanonical s2 := by
    dsimp only [s2]
    split <;> exact h
  clear_value s2
  exact modAct_canonical h3

theorem loadInto_canonical {s : State} {n : Nat} {signed : Bool} {off : Word} {a d : BitVec 5} {len : Nat} (h : MemCanonical s) :
    Yields (loadInto n signed off a d len s) MemCanonical := by
  unfold loadInto
  refine Yields.after fun _ => (loadBytes_canonical h).bind ?_
  rintro ⟨_, t1⟩ h1
  dsimp only
  split
  · exact yields_ok.2 h1
  · exact yields_ok.2 (result_canonical h1)

theorem storeFrom_canonical {s : State} {n : Nat} {off : Word} {a d : BitVec 5} {len : Nat} (h : MemCanonical s) :
    Yields (storeFrom n off a d len s) MemCanonical := by
  unfold storeFrom
  refine Yields.after fun _ => ?_
  dsimp only
  exact (issueStore_canonical h).bind fun t1 h1 => yields_ok.2 (advance_canonical h1)

theorem jump_canonical {s : State} {t : Word} (h : MemCanonical s) : Yields (s.jump t) MemCanonical := by
  unfold State.jump
  exact Yields.after fun _ => yields_ok.2 (modAct_canonical h)

theorem branchIf_canonical {s : State} {n : Nat} {o : BitVec n} {b a : BitVec 5} {len : Nat} {c : Word → Word → Bool} (h : MemCanonical s) :
    Yields (branchIf o b a len s c) MemCanonical := by
  unfold branchIf
  refine Yields.after fun _ => Yields.after fun _ => ?_
  split
  · exact jump_canonical h
  · exact yields_ok.2 (advance_canonical h)

theorem branchBit_canonical {s : State} {o : BitVec 12} {want : Bool} (h : MemCanonical s) : Yields (branchBit o want s) MemCanonical := by
  unfold branchBit
  split
  · exact yields_stall _
  · refine Yields.after fun _ => ?_
    extract_lets +onlyGivenNames s1
    have h1 : MemCanonical s1 := modAct_canonical h
    clear_value s1
    split
    · exact jump_canonical h1
    · exact yields_ok.2 (advance_canonical h1)

theorem jumpLink_canonical {s : State} {t : Word} {d : BitVec 5} {len : Nat} (h : MemCanonical s) :
    Yields (jumpLink t d len s) MemCanonical := by
  unfold jumpLink
  dsimp only
  exact (jump_canonical h).bind fun t1 h1 => yields_ok.2 (modAct_canonical h1)

theorem amoOp_canonical {s : State} {op : BitVec 3} {w : BitVec 1} {sc : BitVec 4} {o : BitVec 2} {b a d : BitVec 5}
    {commit : State → Chk State} (h : MemCanonical s) (hcommit : ∀ x0, MemCanonical x0 → Yields (commit x0) MemCanonical) :
    Yields (amoOp op w sc o b a d commit s) MemCanonical := by
  unfold amoOp
  refine Yields.after fun _ => Yields.after fun _ => Yields.after fun _ => Yields.after fun _ => ?_
  extract_lets +onlyGivenNames n v vp
  refine Yields.after fun _ => ?_
  dsimp -zeta only
  refine Yields.after fun _ => ?_
  extract_lets +onlyGivenNames eff
  split
  · split
    · exact (effectAmo_canonical h).bind fun t1 h5 => yields_ok.2 (advance_canonical h5)
    · refine Yields.bind (P := MemCanonical) ?_ ?_
      · split
        · refine (translate_canonical h).bind ?_
          rintro ⟨_, t2⟩ h6
          dsimp only
          exact yields_ok.2 h6
        · exact yields_ok.2 h
      · intro t3 h7
        exact (stage_canonical h7).bind fun t4 h8 => yields_ok.2 (advance_canonical h8)
  · split
    · exact hcommit _ h
    · extract_lets +onlyGivenNames go
      have h9 : ∀ x0, MemCanonical x0 → Yields (go x0) MemCanonical := by
        intro t5 h10
        dsimp only [go]
        split
        · refine Yields.after fun _ => Yields.after fun _ => Yields.after fun _ => (amoNow_canonical h10).bind ?_
          rintro ⟨_, t6⟩ h11
          dsimp only
          split
          · exact yields_ok.2 h11
          · refine yields_ok.2 (result_canonical ?_)
            split
            · exact modAct_canonical h11
            · exact h11
        · refine (amoNow_canonical h10).bind ?_
          rintro ⟨_, t7⟩ h12
          dsimp only
          split
          · exact yields_ok.2 h12
          · refine yields_ok.2 (result_canonical ?_)
            split
            · exact modAct_canonical h12
            · exact h12
      clear_value go
      split
      · exact h9 _ h
      · exact once_canonical h (h9 _ h)

theorem fence_canonical {s : State} {mask : BitVec 17} {scope : Nat} (h : MemCanonical s) : MemCanonical (s.fence mask scope) := by
  unfold State.fence
  extract_lets +onlyGivenNames after s1
  have h2 : MemCanonical s1 := by
    dsimp only [s1]
    split
    · exact h
    · exact modAct_canonical h
  clear_value s1
  split
  · exact h2
  · exact modAct_canonical h2

theorem enqueue_canonical {s : State} {core q : Nat} {e : Entry} (h : MemCanonical s) : MemCanonical (s.enqueue core q e) := h

theorem setGuard_canonical {s : State} {slot : BitVec 4} {g : Guard} (h : MemCanonical s) : MemCanonical (s.setGuard slot g) := h

end Sys2Proof.Machine
end


section
/-! O8, its parts: messages, registers, releases and actors keep memory canonical. -/

namespace Sys2Proof.Machine
open Sys2Proof.Safety

theorem openPhase_canonical {s : State} {job ph : Half} (h : MemCanonical s) : MemCanonical (s.openPhase job ph).2 := by
  unfold State.openPhase
  split
  · exact h
  · split <;> exact h

theorem fly_canonical {s : State} {f : Flight} (h : MemCanonical s) : MemCanonical (s.fly f) := h

theorem endPhases_canonical {s : State} {ended : Phase → Bool} (h : MemCanonical s) : MemCanonical (s.endPhases ended) := h

theorem settleLevels_canonical {s : State} (h : MemCanonical s) : MemCanonical (s.settleLevels) := by
  unfold State.settleLevels
  extract_lets +onlyGivenNames s2 done launches s3
  have h2 : MemCanonical s2 := endPhases_canonical h
  clear_value s2
  extract_lets +onlyGivenNames s5
  have h7 : MemCanonical s5 := h2
  clear_value s5
  refine canonical_foldl (fun s a h => ?_) h7
  split
  · exact fly_canonical h
  · exact h

theorem sendAbroad_canonical {s : State} {src : Word} {pkg : Nat} {m : Msg} (h : MemCanonical s) :
    MemCanonical (s.sendAbroad src pkg m) := by
  unfold State.sendAbroad
  split
  · split
    · exact h
    · exact transmit_canonical h
  · exact transmit_canonical h

theorem learn_canonical {s : State} {n : Word} {pkg : Nat} (h : MemCanonical s) : MemCanonical (s.learn n pkg) := by
  unfold State.learn
  split <;> exact h

theorem confirm_canonical {s : State} {n : Word} (h : MemCanonical s) : MemCanonical (s.confirm n) := by
  unfold State.confirm
  split
  · exact h
  · exact canonical_foldl (fun _ _ h1 => transmit_canonical h1) h

theorem releaseMsg_canonical {s : State} {a : Act} {m : Msg} {after : List Nat} {scope : Nat} (h : MemCanonical s) :
    Yields (s.releaseMsg a m after scope) MemCanonical := by
  unfold State.releaseMsg
  dsimp only
  exact Yields.after fun _ => yields_ok.2 (fly_canonical (openPhase_canonical h))

theorem setSlot_canonical {s : State} {v : DepSlot} (h : MemCanonical s) : MemCanonical (s.setSlot v) := h

theorem trigger_canonical {s : State} {h' : Nat} (h : MemCanonical s) : MemCanonical (s.trigger h') := by
  unfold State.trigger
  dsimp only
  split
  · exact h
  · exact fly_canonical (setSlot_canonical h)

theorem placeOnSlot_canonical {s : State} {a : Act} {m : Msg} {h' : Nat} {after : List Nat} {scope : Nat} (h : MemCanonical s) :
    Yields (s.placeOnSlot a m h' after scope) MemCanonical := by
  unfold State.placeOnSlot
  dsimp only
  exact Yields.after fun _ => Yields.after fun _ => yields_ok.2 (setSlot_canonical (openPhase_canonical h))

theorem depSet_canonical {s : State} {h' n : Nat} (h : MemCanonical s) : MemCanonical (s.depSet h' n) := by
  unfold State.depSet
  extract_lets +onlyGivenNames s1
  extract_lets +onlyGivenNames s2
  have h2 : MemCanonical s2 := setSlot_canonical h
  clear_value s2
  split
  · exact trigger_canonical h2
  · exact h2

theorem depAdd_canonical {s : State} {h' n : Nat} (h : MemCanonical s) : Yields (s.depAdd h' n) MemCanonical := by
  unfold State.depAdd
  dsimp only
  split
  · exact yields_kill _ _
  · refine yields_ok.2 ?_
    split
    · exact trigger_canonical (setSlot_canonical h)
    · exact setSlot_canonical h

theorem depDec_canonical {s : State} {core h' : Nat} (h : MemCanonical s) : Yields (s.depDec core h') MemCanonical := by
  unfold State.depDec
  dsimp only
  split
  · exact yields_error _ _
  · refine yields_ok.2 ?_
    split
    · exact trigger_canonical (setSlot_canonical h)
    · exact setSlot_canonical h

theorem enterQueue_canonical {s : State} {a : Act} {queue : Nat} {op : EOp} {post : Option Nat} {after : List Nat} {scope : Nat}
    {early : Bool} (h : MemCanonical s) :
    Yields (s.enterQueue a queue op post after scope early) MemCanonical := by
  unfold State.enterQueue
  refine Yields.after fun _ => ?_
  extract_lets +onlyGivenNames tags
  exact Yields.after fun _ => yields_ok.2 (enqueue_canonical h)

theorem routeBegin_canonical {s : State} {a : Act} {r : RouteOps} {mask : BitVec 17} {scope : Nat} (h : MemCanonical s) :
    Yields (s.routeBegin a r mask scope) fun r => MemCanonical r.2.2 := by
  unfold State.routeBegin
  extract_lets +onlyGivenNames w n
  refine Yields.after fun _ => ?_
  dsimp -zeta only
  refine Yields.after fun _ => ?_
  extract_lets +onlyGivenNames pairs
  refine Yields.after fun _ => Yields.after fun _ => ?_
  extract_lets +onlyGivenNames sends s1
  have h5 : MemCanonical s1 := by
    dsimp only [s1]
    split
    · exact h
    · exact checkPool_canonical h
  clear_value s1
  refine Yields.bind (P := MemCanonical) ?_ ?_
  · split
    · exact yields_ok.2 h5
    · exact depAdd_canonical h5
  · intro t1 h6
    dsimp only
    exact yields_ok.2 h6

theorem routeSend_canonical {s : State} {a : Act} {va : Nat} {bs : List Byte} {m : Msg} {mask : BitVec 17} {scope : Nat}
    (h : MemCanonical s) :
    Yields (s.routeSend a va bs m mask scope) MemCanonical := by
  unfold State.routeSend
  dsimp only
  refine Yields.after fun _ => Yields.after fun _ => (translate_canonical h).bind ?_
  rintro ⟨_, t1⟩ h1
  dsimp only
  exact (writePhys_canonical h1).bind fun t2 h2 => releaseMsg_canonical h2

theorem releaseLaunch_canonical {s : State} {a : Act} {m : Msg} {grid : Word} {rec : Option (Word × Word × Word × Word)} {after : List Nat}
    {scope : Nat} (h : MemCanonical s) : Yields (s.releaseLaunch a m grid rec after scope) MemCanonical := by
  unfold State.releaseLaunch
  refine Yields.after fun _ => ?_
  dsimp only
  split
  · exact yields_ok.2 (settleLevels_canonical (canonical_congr h rfl))
  · exact yields_ok.2 (fly_canonical (openPhase_canonical (canonical_congr h rfl)))

theorem effectCinc_canonical {s : State} {a : Act} {eff : Eff} {name : Option Word} {c : Nat} {v : Word32} {mask : BitVec 17}
    {scope : Nat} (h : MemCanonical s) :
    Yields (s.effectCinc a eff name c v mask scope) MemCanonical := by
  unfold State.effectCinc
  split
  · dsimp only
    split
    · exact yields_ok.2 (addCounter_canonical h)
    · exact yields_ok.2 (defer_canonical h)
  · exact yields_ok.2 (fly_canonical h)

theorem effectDepdec_canonical {s : State} {a : Act} {h' : Nat} {mask : BitVec 17} {scope : Nat} (h : MemCanonical s) :
    Yields (s.effectDepdec a h' mask scope) MemCanonical := by
  unfold State.effectDepdec
  dsimp only
  split
  · exact depDec_canonical h
  · exact yields_ok.2 (defer_canonical h)

theorem effect_canonical {s : State} {a : Act} {e : Eff} (h : MemCanonical s) : Yields (s.effect a e) fun r => MemCanonical r.2 := by
  unfold State.effect
  refine Yields.after fun _ => Yields.after fun _ => Yields.after fun _ => ?_
  split
  · exact yields_ok.2 h
  · split
    · exact (effectStore_canonical h).bind fun t1 h1 => yields_ok.2 h1
    · exact (effectStore_canonical h).bind fun t2 h2 => yields_ok.2 h2
    · exact (effectAmo_canonical h).bind fun t3 h3 => yields_ok.2 h3
    · exact (releaseMsg_canonical h).bind fun t4 h4 => yields_ok.2 h4
    · exact (placeOnSlot_canonical h).bind fun t5 h5 => yields_ok.2 h5
    · exact (releaseLaunch_canonical h).bind fun t6 h6 => yields_ok.2 h6
    · exact (effectCinc_canonical h).bind fun t7 h7 => yields_ok.2 h7
    · refine (routeBegin_canonical h).bind ?_
      rintro ⟨_, _, t8⟩ h8
      dsimp only
      exact yields_ok.2 h8
    · exact (routeSend_canonical h).bind fun t9 h9 => yields_ok.2 h9
    · dsimp only
      exact (enterQueue_canonical h).bind fun t10 h10 => yields_ok.2 h10
    · exact (effectDepdec_canonical h).bind fun t11 h11 => yields_ok.2 h11
    · exact yields_ok.2 h

theorem releaseFlat_canonical {a : Act} {l : List Eff} {s : State} (h : MemCanonical s) : MemCanonical (State.releaseFlat a l s).1 := by
  induction l generalizing s with
  | nil => exact h
  | cons e es ih =>
    unfold State.releaseFlat
    split
    · rename_i he
      exact ih (effect_canonical h _ he)
    · exact h

theorem releaseAll_canonical {a : Act} {l : List Eff} {s : State} (h : MemCanonical s) : MemCanonical (State.releaseAll a l s).2.1 := by
  induction l generalizing a s with
  | nil => exact h
  | cons e es ih =>
    unfold State.releaseAll
    split
    · exact h
    · rename_i more t he
      have ht : MemCanonical t := effect_canonical h _ he
      have hf : MemCanonical (State.releaseFlat a more t).1 := releaseFlat_canonical ht
      split
      · rename_i hr
        exact ih (canonical_fst hf hr)
      · rename_i hr
        exact canonical_fst hf hr

theorem releaseStaged_canonical {s : State} (h : MemCanonical s) : MemCanonical s.releaseStaged.1 :=
  modAct_canonical (releaseAll_canonical h)

theorem issue_canonical {s : State} {e : Eff} (h : MemCanonical s) : Yields (s.issue e) MemCanonical := by
  unfold State.issue
  split
  · refine (effect_canonical h).bind ?_
    rintro ⟨_, t1⟩ h1
    dsimp only
    exact yields_ok.2 (modAct_canonical h1)
  · exact Yields.after fun _ => stage_canonical h

theorem setWatchdog_canonical {s : State} {p : Nat} {v : Word32} (h : MemCanonical s) : MemCanonical (s.setWatchdog p v) :=
  canonical_foldl (fun _ _ h1 => killAnyway_canonical h1) (modPart_canonical h)

theorem setJobCtl_canonical {s : State} {j : Half} {v : Word} (h : MemCanonical s) : Yields (s.setJobCtl j v) MemCanonical := by
  unfold State.setJobCtl
  refine Yields.after fun _ => ?_
  extract_lets +onlyGivenNames valid p was go
  have h4 : MemCanonical go := modJob_canonical h
  clear_value go
  extract_lets +onlyGivenNames go1
  extract_lets +onlyGivenNames go2
  extract_lets +onlyGivenNames go3
  extract_lets +onlyGivenNames go4
  extract_lets +onlyGivenNames go5
  extract_lets +onlyGivenNames go6
  have h10 : ∀ x0, Yields (go6 x0) MemCanonical := by
    intro _
    dsimp only [go6]
    split
    · exact yields_ok.2 h4
    · split <;> exact yields_ok.2 h4
  clear_value go6
  split
  · exact Yields.after fun _ => Yields.after fun _ => h10 _
  · exact h10 _

theorem writePrivileged_canonical {s : State} {n : Nat} {v : Word} (h : MemCanonical s) : Yields (s.writePrivileged n v) MemCanonical := by
  unfold State.writePrivileged
  dsimp only
  split
  · exact Yields.after fun _ => yields_ok.2 (modAct_canonical h)
  · exact Yields.after fun _ => Yields.after fun _ => yields_ok.2 (modPart_canonical h)
  · exact Yields.after fun _ => Yields.after fun _ => yields_ok.2 (modPart_canonical h)
  · exact Yields.after fun _ => Yields.after fun _ => yields_ok.2 (modPart_canonical h)
  · exact Yields.after fun _ => Yields.after fun _ => yields_ok.2 (modPart_canonical h)
  · exact Yields.after fun _ => yields_ok.2 (modPart_canonical h)
  · exact Yields.after fun _ => yields_ok.2 (modPart_canonical h)
  · exact Yields.after fun _ => yields_ok.2 (modPart_canonical h)
  · exact Yields.after fun _ => yields_ok.2 (modPart_canonical h)
  · exact Yields.after fun _ => Yields.after fun _ => yields_ok.2 (setWatchdog_canonical h)
  · exact Yields.after fun _ => yields_ok.2 (modPart_canonical h)
  · exact Yields.after fun _ => Yields.after fun _ => yields_ok.2 (modAct_canonical h)
  · exact Yields.after fun _ => setJobCtl_canonical h
  · exact Yields.after fun _ => yields_ok.2 (modJob_canonical h)
  · exact Yields.after fun _ => yields_ok.2 (modJob_canonical h)
  · exact Yields.after fun _ => yields_ok.2 (modPart_canonical h)
  · exact yields_kill _ _

theorem writeUser_canonical {s : State} {n : Nat} {v : Word} (h : MemCanonical s) : Yields (s.writeUser n v) MemCanonical := by
  unfold State.writeUser
  split
  · exact yields_ok.2 (modAct_canonical h)
  · exact Yields.after fun _ => yields_ok.2 (modAct_canonical h)
  · exact yields_ok.2 (modAct_canonical h)
  · split <;> exact yields_kill _ _

theorem stopped_canonical {s : State} {x : Option Stop} (h : MemCanonical s) : Yields (s.stopped x) MemCanonical := by
  unfold State.stopped
  split
  · exact yields_ok.2 h
  · exact yields_ok.2 (raise_canonical h)
  · exact yields_ok.2 (modAct_canonical h)
  · exact yields_ok.2 (missAct_canonical h)
  · exact yields_ok.2 (settleLine_canonical h)
  · exact yields_error _ _
  · exact yields_error _ _

theorem holdForDigest_canonical {s : State} (h : MemCanonical s) : MemCanonical (s.holdForDigest) := h

theorem clearRecord_canonical {s : State} {aid : Nat} (h : MemCanonical s) : MemCanonical (s.clearRecord aid) := h

theorem markCommitted_canonical {s : State} (h : MemCanonical s) : MemCanonical (s.markCommitted) := h

theorem commitStep_canonical {s : State} (h : MemCanonical s) : Yields (s.commitStep) MemCanonical := by
  unfold State.commitStep
  split
  · exact yields_ok.2 (holdForDigest_canonical h)
  · extract_lets +onlyGivenNames t r
    have h1 : MemCanonical t := by
      dsimp only [t]
      split
      · exact h
      · exact markCommitted_canonical h
    clear_value t
    have h2 : MemCanonical r.1 := releaseStaged_canonical h1
    clear_value r
    exact stopped_canonical h2

theorem commits_canonical {s : State} {f : State → Chk State} (h : MemCanonical s)
    (hf : ∀ x0, MemCanonical x0 → Yields (f x0) MemCanonical) :
    Yields (s.commits f) MemCanonical := by
  unfold State.commits
  split
  · exact hf _ h
  · exact commitStep_canonical h

theorem commitOp_canonical {s : State} {len : Nat} (h : MemCanonical s) : Yields (commitOp len s) MemCanonical := by
  unfold commitOp
  refine Yields.after fun _ => ?_
  split
  · exact yields_ok.2 (advance_canonical h)
  · refine (commitStep_canonical h).bind fun t1 h1 => yields_ok.2 ?_
    split
    · exact advance_canonical h1
    · exact h1

theorem releaseTiles_canonical {s : State} {aid : Nat} (h : MemCanonical s) : MemCanonical (s.releaseTiles aid) := by
  unfold State.releaseTiles
  split
  · exact h
  · exact freeTiles_canonical h

theorem launchCovers_canonical {s : State} {a : Act} (h : MemCanonical s) : MemCanonical (s.launchCovers a) := by
  unfold State.launchCovers
  split <;> exact h

theorem endAct_canonical {s : State} {a : Act} {left : List Eff} (h : MemCanonical s) : MemCanonical (s.endAct a left) :=
  settleLevels_canonical (releaseTiles_canonical (clearRecord_canonical (canonical_congr (launchCovers_canonical h) rfl)))

theorem releaseAndEnd_canonical {s : State} (h : MemCanonical s) : Yields s.releaseAndEnd MemCanonical := by
  unfold State.releaseAndEnd
  split
  · exact yields_ok.2 (endAct_canonical h)
  · have hr := releaseAll_canonical (a := { s.act with committed := true }) (l := s.act.staged) h
    dsimp only
    split
    · exact yields_ok.2 (raise_canonical hr)
    · exact yields_error _ _
    · exact yields_error _ _
    · exact yields_ok.2 (endAct_canonical hr)

theorem doneOp_canonical {s : State} (h : MemCanonical s) : Yields (doneOp s) MemCanonical := by
  unfold doneOp
  refine Yields.after fun _ => ?_
  split
  · exact yields_ok.2 (holdForDigest_canonical h)
  · exact releaseAndEnd_canonical h

theorem exitNormally_canonical {s : State} {name : Word} {aid : Nat} (h : MemCanonical s) : MemCanonical (s.exitNormally name aid) := h

theorem sendOp_canonical {s : State} {sc : BitVec 4} {a : BitVec 5} {len : Nat} (h : MemCanonical s) :
    Yields (sendOp sc a len s) MemCanonical := by
  unfold sendOp
  exact Yields.after fun _ => Yields.after fun _ => (issue_canonical h).bind fun t1 h1 => yields_ok.2 (advance_canonical h1)

theorem modRegion_canonical {s : State} {a : Act} {i : Nat} {f : Region → Region} (h : MemCanonical s) :
    MemCanonical (s.modRegion a i f) := h

theorem dropRegionPorts_canonical {s : State} {i : Nat} (h : MemCanonical s) : MemCanonical (s.dropRegionPorts i) := h

theorem cincOp_canonical {s : State} {n : Nat} {sc : BitVec 4} {b a : BitVec 5} {len : Nat} (h : MemCanonical s) :
    Yields (cincOp n sc b a len s) MemCanonical := by
  unfold cincOp
  refine Yields.after fun _ => Yields.after fun _ => Yields.after fun _ => Yields.after fun _ => (issue_canonical h).bind fun t1 h1 => ?_
  exact yields_ok.2 (advance_canonical h1)

theorem waitcOp_canonical {s : State} {n : Nat} {sc : BitVec 4} {b a : BitVec 5} {len : Nat} (h : MemCanonical s) :
    Yields (waitcOp n sc b a len s) MemCanonical := by
  unfold waitcOp
  refine Yields.after fun _ => Yields.after fun _ => Yields.after fun _ => ?_
  split
  · exact yields_ok.2 (advance_canonical (modAct_canonical h))
  · exact yields_error _ _

theorem modLinks_canonical {s : State} {n : Word} {f : List LinkEntry → List LinkEntry} (h : MemCanonical s) :
    MemCanonical (s.modLinks n f) := h

theorem noTarget_canonical {s : State} {die : Nat} {who target : Word} (h : MemCanonical s) : MemCanonical (s.noTarget die who target) := h

theorem modTimers_canonical {s : State} {n : Word} {f : List Timer → List Timer} (h : MemCanonical s) : MemCanonical (s.modTimers n f) := h

theorem cancelled_canonical {s : State} {code : Nat} {m : Msg} (h : MemCanonical s) : MemCanonical (s.cancelled code m) := by
  unfold State.cancelled
  split
  · exact hardSend_canonical h
  · exact h

theorem discardOf_canonical {s : State} {names : List Word} {code : Nat} (h : MemCanonical s) : MemCanonical (s.discardOf names code) :=
  canonical_foldl (fun _ _ h1 => cancelled_canonical h1) h

theorem discard_canonical {s : State} {p : Msg → Bool} {kept : List Nat} {code : Nat} (h : MemCanonical s) :
    MemCanonical (s.discard p kept code) := canonical_foldl (fun _ _ h1 => cancelled_canonical h1) h

theorem cancel_canonical {s : State} {level : Nat} {xa : Word} (h : MemCanonical s) : MemCanonical (s.cancel level xa) := by
  unfold State.cancel
  extract_lets +onlyGivenNames me job runsOf killAll
  have hkill : ∀ t names, MemCanonical t → MemCanonical (killAll t names) := by
    intro t names ht
    have hall : MemCanonical ((names.filter (· != me)).foldl (fun s n => s.killActor n 15) t) :=
      canonical_foldl (fun _ _ hs => killActor_canonical hs) ht
    dsimp only [killAll]
    split
    · exact killActor_canonical hall
    · exact hall
  clear_value killAll
  split
  · exact killActor_canonical h
  · exact settleLevels_canonical (hkill _ _ (discard_canonical h))
  · split
    · exact h
    · refine settleLevels_canonical (hkill _ _ ?_)
      split
      · exact modPool_canonical (modActor_canonical (discardOf_canonical h))
      · exact discardOf_canonical h
  · split
    · exact h
    · exact settleLevels_canonical (endPhases_canonical (hkill _ _ (discard_canonical h)))
  · exact settleLevels_canonical (hkill _ _ (discard_canonical h))
end Sys2Proof.Machine
end


section
/-! O8, its parts: copies, floating point, streams and vectors keep memory canonical. -/

namespace Sys2Proof.Machine
open Sys2Proof.Safety

theorem issueEntry_canonical {s : State} {staged : Bool} {queue : Nat} {op : EOp} {c : EngineCtl} {mask : BitVec 17} (h : MemCanonical s) :
    Yields (s.issueEntry staged queue op c mask) MemCanonical := by
  unfold State.issueEntry
  split
  · exact issue_canonical h
  · extract_lets +onlyGivenNames go
    extract_lets +onlyGivenNames go1
    have h2 : ∀ x0, Yields (go1 x0) MemCanonical := by
      intro _
      dsimp only [go1]
      exact enterQueue_canonical h
    clear_value go1
    split
    · exact Yields.after fun _ => h2 _
    · exact h2 _

theorem drawn_canonical {s : State} {mode n : Nat} (h : MemCanonical s) : MemCanonical (s.drawn mode n) := by
  unfold State.drawn
  split
  · exact modAct_canonical h
  · exact h

theorem setFlags_canonical {s : State} {f : Flags} (h : MemCanonical s) : MemCanonical (s.setFlags f) := h

theorem fpResult_canonical {s : State} {d : BitVec 5} {v : Nat} {f : Flags} {poison : Bool} (h : MemCanonical s) :
    MemCanonical (s.fpResult d v f poison) := h

theorem fpRound_canonical {s : State} {r : BitVec 3} {d : BitVec 5} {poison : Bool} {x : Bool → FV × Flags} (h : MemCanonical s) :
    Yields (fpRound r d poison s x) MemCanonical := by
  unfold fpRound
  exact Yields.after fun _ => yields_ok.2 (fpResult_canonical (drawn_canonical h))

theorem fpMinMax_canonical {s : State} {max : Bool} {b a d : BitVec 5} (h : MemCanonical s) : Yields (fpMinMax max b a d s) MemCanonical :=
  yields_ok.2 (fpResult_canonical h)

theorem fpCompare_canonical {s : State} {v : Bool × Flags} {b a d : BitVec 5} (h : MemCanonical s) :
    Yields (fpCompare v b a d s) MemCanonical := yields_ok.2 (fpResult_canonical h)

theorem deliverE_canonical {s : State} {i : Instr} {len : Nat} (h : MemCanonical s) : Yields (s.deliverE i len) MemCanonical := by
  unfold State.deliverE
  extract_lets +onlyGivenNames q
  exact Yields.after fun _ => Yields.after fun _ => yields_ok.2 (advance_canonical (modAct_canonical h))

theorem estream_canonical {s : State} {i : Instr} {len : Nat} {f : State → Chk State} (h : MemCanonical s)
    (hf : ∀ x0, MemCanonical x0 → Yields (f x0) MemCanonical) :
    Yields (estream i len f s) MemCanonical := by
  unfold estream
  split
  · split
    · exact deliverE_canonical h
    · exact deliverE_canonical (settleLine_canonical h)
    · exact yields_error _ _
    · rename_i t1 hx1
      have h1 : MemCanonical t1 := hf _ h _ hx1
      exact yields_ok.2 (advance_canonical h1)
  · exact deliverE_canonical h

theorem beginLoop_canonical {s : State} {i : Instr} (h : MemCanonical s) : Gives (s.beginLoop i) fun c => Yields c MemCanonical := by
  unfold State.beginLoop
  extract_lets q go
  have hgo : ∀ t m count, MemCanonical t → MemCanonical (go t m count) := fun _ _ _ ht => modAct_canonical ht
  clear_value go
  split
  · exact gives_none _
  · split
    · exact gives_some.2 (yields_ok.2 (hgo _ _ _ h))
    · split
      · exact gives_none _
      · exact gives_some.2 (Yields.after fun _ => yields_ok.2 (hgo _ _ _ (modAct_canonical h)))
    · exact gives_none _

theorem afterE_canonical {s t : State} (h : MemCanonical t) : MemCanonical (s.afterE t) := by
  unfold State.afterE
  split
  · exact modAct_canonical h
  · exact h

theorem forE_canonical {s : State} (h : MemCanonical s) : MemCanonical (s.forE) := h

theorem qputOp_canonical {s : State} {n : Nat} {a : BitVec 5} {len : Nat} (h : MemCanonical s) :
    Yields (qputOp n a len s) MemCanonical := by
  unfold qputOp
  dsimp only
  exact Yields.after fun _ => yields_ok.2 (advance_canonical (modAct_canonical h))

theorem qgetOp_canonical {s : State} {n : Nat} {d : BitVec 5} {len : Nat} (h : MemCanonical s) :
    Yields (qgetOp n d len s) MemCanonical := by
  unfold qgetOp
  split
  · exact yields_stall _
  · exact yields_ok.2 (result_canonical (modAct_canonical h))

theorem setStream_canonical {s : State} {n : Nat} {t : Stream} (h : MemCanonical s) : MemCanonical (s.setStream n t) := h

theorem nextBeat_canonical {s : State} {n : Nat} {t : Stream} (h : MemCanonical s) :
    Yields (s.nextBeat n t) fun r => MemCanonical r.2.2 := by
  unfold State.nextBeat
  refine Yields.after fun _ => ?_
  dsimp only
  exact Yields.after fun _ => yields_ok.2 (setStream_canonical h)

theorem popBeat_canonical {s : State} {n : Nat} {t : Stream} (h : MemCanonical s) : Yields (s.popBeat n t) fun r => MemCanonical r.2 := by
  unfold State.popBeat
  refine (nextBeat_canonical h).bind ?_
  rintro ⟨_, _, t1⟩ h1
  dsimp -zeta only
  extract_lets +onlyGivenNames core
  exact Yields.after fun _ => Yields.after fun _ => Yields.after fun _ => Yields.after fun _ => yields_ok.2 (checkPool_canonical h1)

theorem pushBeat_canonical {s : State} {n : Nat} {t : Stream} {v : ERow} {poison : BitVec 32} {mask : PRow} (h : MemCanonical s) :
    Yields (s.pushBeat n t v poison mask) MemCanonical := by
  unfold State.pushBeat
  refine (nextBeat_canonical h).bind ?_
  rintro ⟨_, _, t1⟩ h1
  dsimp only
  refine Yields.after fun _ => Yields.after fun _ => yields_ok.2 (canonical_foldl (fun s _ hs => ?_) h1)
  exact wf_congr (m := s.mem) rfl rfl rfl hs

theorem popAll_canonical {l : List Nat} {s : State} (h : MemCanonical s) : Yields (State.popAll l s) fun r => MemCanonical r.2 := by
  induction l generalizing s with
  | nil => exact yields_ok.2 h
  | cons r l ih =>
    unfold State.popAll
    refine Yields.bind (P := fun r => MemCanonical r.2) ?_ ?_
    · split
      · exact popBeat_canonical h
      · exact yields_ok.2 h
    · rintro ⟨_, t1⟩ h1
      refine (ih h1).bind ?_
      rintro ⟨_, t2⟩ h2
      exact yields_ok.2 h2

theorem sources_canonical {s : State} {srcs dsts : List Nat} (h : MemCanonical s) :
    Yields (s.sources srcs dsts) fun r => MemCanonical r.2 := by
  unfold State.sources
  exact Yields.after fun _ => popAll_canonical h

theorem writeRow_canonical {s : State} {d : Nat} {v : ERow} {poison : BitVec 32} {mask : PRow} (h : MemCanonical s) :
    Yields (s.writeRow d v poison mask) MemCanonical := by
  unfold State.writeRow
  split
  · exact pushBeat_canonical h
  · exact yields_ok.2 (modAct_canonical h)

theorem setEFlags_canonical {s : State} {f : Flags} (h : MemCanonical s) : MemCanonical (s.setEFlags f) := h

theorem writeElems_canonical {s : State} {d w : Nat} {act mp : Nat → Bool} {l : List EElem} (h : MemCanonical s) :
    Yields (s.writeElems d w act mp l) MemCanonical := writeRow_canonical h

theorem vectorOp_canonical {s : State} {srcs dsts : List Nat} {w mode draws : Nat} {act mp : Act → Nat → Nat → Bool}
    {res : Act → List (Nat × ERow × BitVec 32) → (Nat → Nat) → Nat → List EElem} (h : MemCanonical s) :
    Yields (vectorOp s srcs dsts w mode draws act mp res) MemCanonical := by
  unfold vectorOp
  refine (sources_canonical h).bind ?_
  rintro ⟨_, t1⟩ h1
  dsimp only
  exact (yields_foldlM (fun _ _ h2 => writeElems_canonical h2) h1).bind fun t2 h3 => yields_ok.2 (setEFlags_canonical (drawn_canonical h3))

theorem lanewise_canonical {s : State} {w : Nat} {p : BitVec 1} {mode draws : Nat} {srcs : List (BitVec 5)} {d : BitVec 5}
    {f : Nat → List Nat → Nat → Nat × Flags} (h : MemCanonical s) :
    Yields (lanewise w p mode draws srcs d f s) MemCanonical := vectorOp_canonical h

theorem vfp_canonical {s : State} {t : BitVec 4} {p : BitVec 1} {srcs : List (BitVec 5)} {d : BitVec 5}
    {f : Bool → List FV → List Nat → FV × Flags} (h : MemCanonical s) :
    Yields (vfp t p srcs d f s) MemCanonical := by
  unfold vfp
  exact Yields.after fun _ => lanewise_canonical h

theorem vraw_canonical {s : State} {t : BitVec 4} {p : BitVec 1} {srcs : List (BitVec 5)} {d : BitVec 5} {f : List Nat → Nat × Flags}
    (h : MemCanonical s) :
    Yields (vraw t p srcs d f s) MemCanonical := lanewise_canonical h

theorem vfmaOp_canonical {s : State} {t : BitVec 4} {p : BitVec 1} {b a d : BitVec 5} (h : MemCanonical s) :
    Yields (vfmaOp t p b a d s) MemCanonical := vfp_canonical h

theorem writeP_canonical {s : State} {d : Nat} {v poison mask : PRow} (h : MemCanonical s) : MemCanonical (s.writeP d v poison mask) := h

theorem compareOp_canonical {s : State} {w : Nat} {p : BitVec 1} {b a : BitVec 5} {d : BitVec 3} {f : Nat → Nat → Bool × Flags}
    (h : MemCanonical s) :
    Yields (compareOp w p b a d f s) MemCanonical := by
  unfold compareOp
  refine (sources_canonical h).bind ?_
  rintro ⟨_, t1⟩ h1
  dsimp -zeta only
  exact yields_ok.2 (setEFlags_canonical (writeP_canonical h1))

theorem vecCompare_canonical {s : State} {t : BitVec 4} {p : BitVec 1} {b a : BitVec 5} {d : BitVec 3} {f : FV → FV → Bool × Flags}
    (h : MemCanonical s) :
    Yields (vecCompare t p b a d f s) MemCanonical := compareOp_canonical h

theorem vmovOp_canonical {s : State} {p : BitVec 1} {a d : BitVec 5} (h : MemCanonical s) : Yields (vmovOp p a d s) MemCanonical :=
  lanewise_canonical h

theorem vint_canonical {s : State} {t : BitVec 4} {p : BitVec 1} {srcs : List (BitVec 5)} {d : BitVec 5} {f : Nat → List Nat → ℤ}
    (h : MemCanonical s) :
    Yields (vint t p srcs d f s) MemCanonical := by
  unfold vint
  exact lanewise_canonical h

theorem vintTyped_canonical {s : State} {t : BitVec 4} {p : BitVec 1} {b a d : BitVec 5} {f : ℤ → ℤ → ℤ} (h : MemCanonical s) :
    Yields (vintTyped t p b a d f s) MemCanonical := by
  unfold vintTyped
  exact vint_canonical h

theorem narrowing_canonical {s : State} {t : BitVec 4} {p : BitVec 1} {mode draws : Nat} {a d : BitVec 5} {more : List Nat}
    {f : List (Nat × ERow × BitVec 32) → Nat → Nat → Nat → EElem} (h : MemCanonical s) :
    Yields (narrowing t p mode draws a d more f s) MemCanonical := by
  unfold narrowing
  exact vectorOp_canonical h

theorem widening_canonical {s : State} {t : BitVec 4} {p : BitVec 1} {mode draws : Nat} {a d : BitVec 5} {more : List Nat}
    {f : List (Nat × ERow × BitVec 32) → Nat → Nat → Nat → EElem} (h : MemCanonical s) :
    Yields (widening t p mode draws a d more f s) MemCanonical := by
  unfold widening
  exact vectorOp_canonical h

theorem askSfu_canonical {s : State} {i : Instr} {v : ERow × BitVec 32} {d : Nat} (h : MemCanonical s) : MemCanonical (s.askSfu i v d) := h

theorem writeAsked_canonical {s : State} {d w : Nat} {act mp : Nat → Bool} {l : List EElem} (h : MemCanonical s) :
    Yields (s.writeAsked d w act mp l) MemCanonical := by
  unfold State.writeAsked
  split
  · exact writeElems_canonical h
  · dsimp only
    refine (writeElems_canonical (setStream_canonical h)).bind fun t1 h1 => yields_ok.2 ?_
    split
    · exact h1
    · exact setStream_canonical h1

theorem takeSfu_canonical {s : State} {p : BitVec 1} {t : BitVec 4} {d : BitVec 5} {f : FV → FV × Flags} {v poison : ERow}
    (h : MemCanonical s) :
    Yields (s.takeSfu p t d f v poison) MemCanonical := by
  unfold State.takeSfu
  refine Yields.after fun _ => ?_
  dsimp only
  exact (writeAsked_canonical h).bind fun t1 h1 => yields_ok.2 (modAct_canonical (setEFlags_canonical (drawn_canonical h1)))

theorem sfuStep_canonical {s : State} {i : Instr} {p : BitVec 1} {t : BitVec 4} {a d : BitVec 5} {f : FV → FV × Flags}
    (h : MemCanonical s) :
    Yields (s.sfuStep i p t a d f) fun r => MemCanonical r.2 := by
  unfold State.sfuStep
  split
  · exact (takeSfu_canonical h).bind fun t1 h1 => yields_ok.2 h1
  · refine (sources_canonical h).bind ?_
    rintro ⟨_, t2⟩ h2
    dsimp only
    exact yields_ok.2 (askSfu_canonical h2)
  · exact yields_stall _

theorem sfuForm_canonical {s : State} {i : Instr} {p : BitVec 1} {t : BitVec 4} {a d : BitVec 5} {f : FV → FV × Flags}
    (h : MemCanonical s) :
    Yields (sfuForm i p t a d f s) MemCanonical := by
  unfold sfuForm
  split
  · split
    · exact deliverE_canonical h
    · exact deliverE_canonical (settleLine_canonical h)
    · exact yields_error _ _
    · rename_i t1 hx1
      have h1 : MemCanonical t1 := sfuStep_canonical h _ hx1
      exact yields_ok.2 (advance_canonical h1)
    · rename_i t2 hx2
      have h2 : MemCanonical t2 := sfuStep_canonical h _ hx2
      exact deliverE_canonical h2
  · exact deliverE_canonical h

theorem reduceOp_canonical {s : State} {w : Nat} {p : BitVec 1} {a d : BitVec 5} {mode draws : Nat} {f : Nat → List Nat → Nat × Flags}
    {from_ : Nat → Nat → Bool} (h : MemCanonical s) :
    Yields (reduceOp w p a d mode draws f from_ s) MemCanonical := vectorOp_canonical h

theorem reduceExtreme_canonical {s : State} {max : Bool} {p : BitVec 1} {t : BitVec 4} {a d : BitVec 5} (h : MemCanonical s) :
    Yields (reduceExtreme max p t a d s) MemCanonical := by
  unfold reduceExtreme
  split <;> exact reduceOp_canonical h

theorem fromQueue_canonical {s : State} {n : Nat} {d : BitVec 5} {words : Nat → Bool} (h : MemCanonical s) :
    Yields (fromQueue n d words s) MemCanonical := by
  unfold fromQueue
  split
  · exact yields_stall _
  · exact Yields.after fun _ => writeElems_canonical (modAct_canonical h)

theorem predOp_canonical {s : State} {b a d : BitVec 3} {f : PRow → PRow → PRow} (h : MemCanonical s) :
    Yields (predOp b a d f s) MemCanonical := yields_ok.2 (writeP_canonical h)

end Sys2Proof.Machine
end


section
/-! O8, its parts: matrix forms, mailboxes and engines keep memory canonical. -/

namespace Sys2Proof.Machine
open Sys2Proof.Safety

theorem claim_canonical {s : State} {tiles : List Nat} (h : MemCanonical s) : Yields (s.claim tiles) MemCanonical := by
  unfold State.claim
  dsimp only
  exact Yields.after fun _ => yields_ok.2 (modCore_canonical h)

theorem claimBuf_canonical {s : State} {n : Nat} {issued : Nat × Nat × Nat} (h : MemCanonical s) :
    Yields (s.claimBuf n issued) MemCanonical := by
  unfold State.claimBuf
  extract_lets +onlyGivenNames core
  exact Yields.after fun _ => yields_ok.2 (modCore_canonical h)

theorem issueMatrix_canonical {s : State} {op : EOp} {claims : State → Chk State} (h : MemCanonical s)
    (hclaims : ∀ x0, MemCanonical x0 → Yields (claims x0) MemCanonical) :
    Yields (s.issueMatrix op claims) MemCanonical := by
  unfold State.issueMatrix
  exact (enterQueue_canonical h).bind fun t1 h1 => (hclaims _ h1).bind fun t2 h2 => yields_ok.2 (advance_canonical h2)

theorem mmaOp_canonical {s : State} {f : BitVec 5} {w : BitVec 1} {a : BitVec 5} {d : BitVec 4} {gate : State → Chk (Option Gate)}
    (h : MemCanonical s) :
    Yields (mmaOp f w a d gate s) MemCanonical := by
  unfold mmaOp
  refine Yields.after fun _ => Yields.after fun _ => Yields.after fun _ => Yields.after fun _ => Yields.after fun _ => ?_
  refine Yields.after fun _ => Yields.after fun _ => ?_
  dsimp only
  refine Yields.after fun _ => Yields.after fun _ => Yields.after fun _ => Yields.after fun _ => Yields.after fun _ => ?_
  refine issueMatrix_canonical h fun t1 h3 => (claim_canonical h3).bind fun t2 h4 => yields_ok.2 ?_
  split
  · exact acquireLater_canonical h4
  · exact h4

theorem padWrite_canonical {s : State} {core va : Nat} {bs : List Byte} {bad : Nat → Nat → Bool} (h : MemCanonical s) :
    MemCanonical (s.padWrite core va bs bad) := canonical_foldl (fun _ _ h1 => writeNow_canonical h1) h

theorem spillTo_canonical {s : State} {a : Actor} {q : QMsg} (h : MemCanonical s) : MemCanonical (s.spillTo a q) := by
  unfold State.spillTo
  extract_lets +onlyGivenNames full t
  have h2 : MemCanonical t := modActor_canonical h
  clear_value t
  split
  · exact killActor_canonical h2
  · exact h2

theorem accept_canonical {s : State} {a : Actor} {m : Msg} (h : MemCanonical s) : MemCanonical (s.accept a m) := by
  unfold State.accept
  extract_lets +onlyGivenNames q s1 take
  have h2 : MemCanonical s1 := modActor_canonical h
  clear_value s1
  have h3 : ∀ x0, MemCanonical x0 → MemCanonical (take x0) := by
    intro t1 h4
    dsimp only [take]
    exact modActor_canonical h4
  clear_value take
  split
  · exact spillTo_canonical h2
  · split
    · exact h3 _ h2
    · split
      · split
        · exact spillTo_canonical h2
        · split
          · exact modActor_canonical h2
          · exact h3 _ (modActor_canonical h2)
      · exact spillTo_canonical h2

theorem acceptPool_canonical {s : State} {p : Pool} {die : Nat} {m : Msg} {arrived : Nat} {deadline : Word32}
    {capture : Option (Nat × Nat)} (h : MemCanonical s) :
    MemCanonical (s.acceptPool p die m arrived deadline capture) := by
  unfold State.acceptPool
  extract_lets +onlyGivenNames len full put t
  have h4 : MemCanonical t := modPool_canonical h
  clear_value t
  split
  · exact killActor_canonical h4
  · exact h4

theorem noActor_canonical {s : State} {die : Nat} {m : Msg} (h : MemCanonical s) : MemCanonical (s.noActor die m) := by
  unfold State.noActor
  split
  · exact hardSend_canonical h
  · exact h

theorem hold_canonical {s : State} {a : Actor} {m : Msg} {die : Nat} (h : MemCanonical s) : MemCanonical (s.hold a m die) := by
  unfold State.hold
  split
  · exact noActor_canonical h
  · split
    · exact modActor_canonical h
    · exact noActor_canonical (modActor_canonical h)

theorem holdPool_canonical {s : State} {p : Pool} {m : Msg} {die : Nat} (h : MemCanonical s) : MemCanonical (s.holdPool p m die) := by
  unfold State.holdPool
  split
  · exact modPool_canonical h
  · exact noActor_canonical h

theorem removeFlight_canonical {s : State} {id : Nat} (h : MemCanonical s) : MemCanonical (s.removeFlight id) := h

theorem deliver_canonical {s : State} {die : Nat} {src : Word} {m : Msg} (h : MemCanonical s) :
    Gives (s.deliver die src m) MemCanonical := by
  unfold State.deliver
  dsimp only
  split
  · exact gives_none _
  · split
    · exact gives_some.2 (noActor_canonical h)
    · split
      · split
        · exact gives_some.2 (noActor_canonical h)
        · split
          · exact gives_some.2 (holdPool_canonical h)
          · split
            · exact gives_none _
            · split
              · exact gives_none _
              · exact gives_some.2 (acceptPool_canonical h)
      · split
        · exact gives_some.2 (noActor_canonical h)
        · split
          · split
            · exact gives_some.2 (accept_canonical h)
            · exact gives_some.2 (noActor_canonical h)
          · exact gives_some.2 (hold_canonical h)
          · exact gives_some.2 (hold_canonical h)
          · split
            · exact gives_some.2 (hold_canonical h)
            · exact gives_none _

theorem pointAbroad_canonical {s : State} {m : Msg} (h : MemCanonical s) : MemCanonical (s.pointAbroad m) := by
  unfold State.pointAbroad
  split <;> exact h

theorem pointsDone_canonical {s : State} {job : Half} {num : Word32} {n : Nat} (h : MemCanonical s) :
    MemCanonical (s.pointsDone job num n) := settleLevels_canonical h

theorem arrive_canonical {s : State} {f : Flight} (h : MemCanonical s) : Gives (s.arrive f) MemCanonical := by
  unfold State.arrive
  extract_lets go
  have hgo : ∀ m t, MemCanonical t → Gives (go m t) MemCanonical := by
    intro m t ht
    dsimp only [go]
    split
    · refine gives_some.2 ?_
      split
      · exact noActor_canonical ht
      · exact pointAbroad_canonical (sendAbroad_canonical ht)
    · exact deliver_canonical ht
  clear_value go
  split
  · exact hgo _ _ (removeFlight_canonical h)
  · refine hgo _ _ ?_
    split
    · exact h
    · exact removeFlight_canonical h
  · exact gives_none _

theorem pop_canonical {s : State} {h' : Head} (h : MemCanonical s) : MemCanonical (s.pop h') := by
  unfold State.pop
  split
  · exact modActor_canonical h
  · exact modPool_canonical h
  · exact modActor_canonical h

theorem dropLate_canonical {s : State} {core : Nat} {h' : Head} (h : MemCanonical s) : MemCanonical (s.dropLate core h') :=
  settleLevels_canonical (hardSend_canonical (pop_canonical h))

theorem land_canonical {s : State} {regions : Vector Region 8} {core : Nat} {m : Msg} (h : MemCanonical s) :
    MemCanonical (s.land regions core m).2 := by
  unfold State.land
  split
  · exact h
  · dsimp only
    split
    · exact wf_congr (m := Mem.writePlain _ _ _ false) rfl rfl rfl (wf_writePlain _ _ false (zeroPool_canonical h))
    · exact h

theorem begin_canonical {s : State} {core run : Nat} {name entry : Word} {q : QMsg} (h : MemCanonical s) :
    MemCanonical (s.begin core run name entry q) := h

theorem touchExpert_canonical {s : State} {q : QMsg} (h : MemCanonical s) : MemCanonical (s.touchExpert q) := by
  unfold State.touchExpert
  split <;> exact h

theorem start_canonical {s : State} {core : Nat} {h' : Head} (h : MemCanonical s) : MemCanonical (s.start core h') := by
  unfold State.start
  extract_lets +onlyGivenNames q t
  have ht : MemCanonical t := pop_canonical h
  clear_value t
  have hland : ∀ regions, MemCanonical (if q.landed then (true, t) else t.land regions core q.msg).2 := by
    intro regions
    split
    · exact ht
    · exact land_canonical ht
  split
  · split
    · exact ht
    · extract_lets +onlyGivenNames regions r
      have hr : MemCanonical r.2 := hland regions
      clear_value r
      split
      · exact begin_canonical (touchExpert_canonical hr)
      · exact killActor_canonical ht
  · split
    · exact ht
    · exact begin_canonical ht
  · split
    · exact ht
    · rename_i a _
      extract_lets +onlyGivenNames r
      have hr : MemCanonical r.2 := hland a.regions
      clear_value r
      split
      · exact killActor_canonical ht
      · extract_lets +onlyGivenNames land all
        have hall : MemCanonical all := by
          refine canonical_foldl (fun u m hu => ?_) hr
          dsimp only [land]
          split
          · exact hu
          · exact land_canonical hu
        clear_value all
        refine canonical_foldl (fun _ _ hu => begin_canonical hu) (begin_canonical ?_)
        split
        · exact hall
        · exact modActor_canonical hall

theorem requeueBox_canonical {s : State} {name : Word} {q : QMsg} (h : MemCanonical s) : MemCanonical (s.requeueBox name q) := by
  unfold State.requeueBox
  split
  · exact h
  · exact modActor_canonical h

theorem requeue_canonical {s : State} {a : Act} (h : MemCanonical s) : MemCanonical (s.requeue a) := by
  unfold State.requeue
  dsimp only
  split
  · exact modPool_canonical h
  · split
    · exact modActor_canonical h
    · exact requeueBox_canonical h

theorem returnGrants_canonical {s : State} {a : Act} (h : MemCanonical s) : MemCanonical (s.returnGrants a) := by
  unfold State.returnGrants
  refine canonical_foldl (fun s a h => ?_) h
  split
  · exact modRegion_canonical h
  · exact h

theorem zeroScratch_canonical {s : State} {a : Act} (h : MemCanonical s) : MemCanonical (s.zeroScratch a) := by
  unfold State.zeroScratch
  refine canonical_foldl (fun s a h => ?_) h
  split
  · exact zeroPool_canonical h
  · exact h

theorem undo_canonical {s : State} {a : Act} (h : MemCanonical s) : MemCanonical (s.undo a) := by
  unfold State.undo
  extract_lets +onlyGivenNames mine s2 s3 s4 deferred s5 s6 s7 s8 s9 s10 remote
  have h3 : MemCanonical s2 := returnGrants_canonical h
  clear_value s2
  have h4 : MemCanonical s3 := abandon_canonical h3
  clear_value s3
  have h5 : MemCanonical s4 := dropEntries_canonical h4
  clear_value s4
  have h8 : MemCanonical s6 := h5
  clear_value s6
  have h9 : MemCanonical s7 := canonical_foldl (fun _ _ h10 => addCounter_canonical h10) h8
  clear_value s7
  have h11 : MemCanonical s8 := dropPorts_canonical h9
  clear_value s8
  have h12 : MemCanonical s9 := zeroScratch_canonical h11
  clear_value s9
  have h13 : MemCanonical s10 := freeTiles_canonical (dropActs_canonical h12)
  clear_value s10
  have h14 : MemCanonical remote := leaveTickets_canonical h13
  clear_value remote
  exact h14

theorem preempt_canonical {s : State} {v : Act} (h : MemCanonical s) : MemCanonical (s.preempt v) :=
  requeue_canonical (setDigest_canonical (undo_canonical h))

theorem modAid_canonical {s : State} {aid : Nat} {f : Act → Act} (h : MemCanonical s) : MemCanonical (s.modAid aid f) := h

theorem modHead_canonical {s : State} {core queue : Nat} {f : Entry → Entry} (h : MemCanonical s) :
    MemCanonical (s.modHead core queue f) := h

theorem dropHead_canonical {s : State} {core queue : Nat} (h : MemCanonical s) : MemCanonical (s.dropHead core queue) :=
  releaseTiles_canonical (modCore_canonical h)

theorem failEntry_canonical {s : State} {core queue : Nat} {e : Entry} {reason : Nat} {note : Option Note} (h : MemCanonical s) :
    MemCanonical (s.failEntry core queue e reason note) := by
  unfold State.failEntry
  extract_lets +onlyGivenNames s1
  have h1 : MemCanonical s1 := killAnyway_canonical (noteKill_canonical h)
  clear_value s1
  split
  · split
    · exact dropHead_canonical h1
    · exact h1
  · exact h1

theorem post_canonical {s : State} {core : Nat} {e : Entry} {bytes : Nat} (h : MemCanonical s) : MemCanonical (s.post core e bytes) := by
  unfold State.post
  split
  · exact h
  · dsimp only
    refine addCounter_canonical ?_
    split
    · exact modAid_canonical h
    · exact h

theorem modTile_canonical {s : State} {core n : Nat} {f : Tile → Tile} (h : MemCanonical s) : MemCanonical (s.modTile core n f) := h

theorem mark_canonical {s : State} {aid : Nat} {f : Flags} (h : MemCanonical s) : MemCanonical (s.mark aid f) := h

theorem setTile_canonical {s : State} {core aid n : Nat} {r : Tile × Flags} (h : MemCanonical s) :
    MemCanonical (s.setTile core aid n r) := h

theorem countReplay_canonical {s : State} {core : Nat} (h : MemCanonical s) : MemCanonical (s.countReplay core) := by
  unfold State.countReplay
  split
  · exact modPart_canonical h
  · exact h

theorem residueStrike_canonical {s : State} {core queue : Nat} {e : Entry} (h : MemCanonical s) :
    Gives (s.residueStrike core queue e) fun r => MemCanonical r.1 := by
  unfold State.residueStrike
  dsimp only
  split
  · exact gives_none _
  · split
    · exact gives_some.2 (modCore_canonical h)
    · exact gives_some.2 (modAid_canonical (modHead_canonical (countReplay_canonical (note_canonical (modCore_canonical h)))))

theorem residueCheck_canonical {s : State} {core : Nat} (h : MemCanonical s) : MemCanonical (s.residueCheck core) := by
  unfold State.residueCheck
  split
  · exact modCore_canonical h
  · exact inject_canonical h

theorem writeLines_canonical {s : State} {core base pitch w : Nat} {lines : List (List (Nat × Bool))} (h : MemCanonical s) :
    MemCanonical (s.writeLines core base pitch w lines) := canonical_foldl (fun _ _ h1 => padWrite_canonical h1) h

theorem matrixOp_canonical {s : State} {core : Nat} {e : Entry} (h : MemCanonical s) : Yields (s.matrixOp core e) MemCanonical := by
  unfold State.matrixOp
  split
  · exact yields_ok.2 (modCore_canonical h)
  · exact yields_ok.2 (setTile_canonical (residueCheck_canonical h))
  · exact yields_ok.2 (modTile_canonical h)
  · exact yields_ok.2 (mark_canonical (writeLines_canonical h))
  · exact yields_ok.2 (modTile_canonical h)
  · exact yields_ok.2 (writeLines_canonical h)
  · exact yields_ok.2 (setTile_canonical h)
  · exact yields_ok.2 (setTile_canonical h)
  · exact yields_ok.2 (modTile_canonical h)
  · exact yields_ok.2 (setTile_canonical h)
  · exact yields_ok.2 (setTile_canonical h)
  · exact yields_ok.2 (modTile_canonical h)
  · exact yields_ok.2 h

theorem flip_canonical {s : State} {core : Nat} {e : Entry} {spec target : Word} {asker : Nat} (h : MemCanonical s) :
    MemCanonical (s.flip core e spec target asker) := by
  unfold State.flip
  extract_lets +onlyGivenNames n k held turn s1
  have h5 : MemCanonical s1 := by
    dsimp only [s1]
    split
    · exact modTile_canonical h
    · exact h
  clear_value s1
  split
  · exact fly_canonical h5
  · exact modAid_canonical h5

theorem takeA_canonical {s : State} {core : Nat} (h : MemCanonical s) : MemCanonical (s.takeA core).2 := by
  unfold State.takeA
  split
  · exact h
  · exact modHead_canonical h

theorem takeB_canonical {s : State} {core : Nat} (h : MemCanonical s) : MemCanonical (s.takeB core).2 := by
  unfold State.takeB
  split
  · exact h
  · exact modHead_canonical h

theorem mmasStep_canonical {s : State} {core : Nat} {e : Entry} {step : Nat} (h : MemCanonical s) :
    Yields (s.mmasStep core e step) MemCanonical := by
  unfold State.mmasStep
  extract_lets +onlyGivenNames s1 cores place
  have h1 : MemCanonical s1 := residueCheck_canonical h
  clear_value s1
  split
  rename_i t1 hx1
  have h4 : MemCanonical t1 := canonical_snd (takeA_canonical h1) hx1
  split
  rename_i t2 hx2
  have h5 : MemCanonical t2 := canonical_snd (takeB_canonical h4) hx2
  split
  · exact yields_ok.2 (canonical_foldl (fun _ _ h6 => setTile_canonical h6) h5)
  · exact yields_ok.2 h5

theorem mmasEnd_canonical {s : State} {core tag : Nat} (h : MemCanonical s) : MemCanonical (s.mmasEnd core tag) := by
  unfold State.mmasEnd
  dsimp only
  split
  · exact canonical_foldl (fun _ _ h1 => dropHead_canonical h1) h
  · exact h

theorem beginCopy_canonical {s : State} {core queue : Nat} {e : Entry} (h : MemCanonical s) :
    Yields (s.beginCopy core queue e) MemCanonical := by
  unfold State.beginCopy
  refine Yields.after fun _ => ?_
  split
  · exact yields_ok.2 (dropHead_canonical h)
  · exact yields_ok.2 (modHead_canonical h)

theorem entryStop_canonical {s : State} {core queue : Nat} {e : Entry} {x : Stop} (h : MemCanonical s) :
    Gives (s.entryStop core queue e x) MemCanonical := by
  unfold State.entryStop
  split
  · exact gives_some.2 (failEntry_canonical h)
  · exact gives_some.2 (settleLine_canonical h)
  · exact gives_none _

theorem performHead_canonical {s : State} {core queue : Nat} (h : MemCanonical s) : Gives (s.performHead core queue) MemCanonical := by
  unfold State.performHead
  refine Gives.after fun e => ?_
  split
  · exact gives_none _
  · extract_lets s1 r product
    have h1 : MemCanonical s1 := by
      refine inject_canonical ?_
      split
      · exact h
      · exact checkPool_canonical h
    clear_value s1
    have hr : Gives r fun c => Yields c MemCanonical := by
      dsimp only [r]
      split
      · split
        · refine gives_some.2 (yields_ok.2 (canonical_foldl (fun t q ht => ?_) h1))
          split
          · exact dropHead_canonical ht
          · exact ht
        · exact gives_none _
      · split
        · exact gives_some.2 ((mmasStep_canonical h1).bind fun _ ht => yields_ok.2 (mmasEnd_canonical (modHead_canonical ht)))
        · exact gives_none _
      · exact gives_some.2 (yields_ok.2 (dropHead_canonical (flip_canonical h1)))
      · split
        · split
          · exact gives_none _
          · exact gives_some.2 (beginCopy_canonical h1)
        · exact gives_some.2 ((matrixOp_canonical h1).bind fun _ ht => yields_ok.2 (dropHead_canonical ht))
    clear_value r
    have hstrike : Gives (if product then s1.residueStrike core queue e else none) fun t => MemCanonical t.1 := by
      split
      · exact residueStrike_canonical h1
      · exact gives_none _
    split
    · rename_i t ht
      exact gives_some.2 (hstrike _ ht)
    · rename_i t ht
      exact gives_some.2 (failEntry_canonical (hstrike _ ht))
    · split
      · exact gives_none _
      · exact gives_some.2 (hr _ rfl _ rfl)
      · exact entryStop_canonical h1

theorem readSector_canonical {s : State} {w : Who} {queue : Nat} {e : Entry} {k sector : Nat} (h : MemCanonical s) :
    Yields (s.readSector w queue e k sector) fun r => MemCanonical r.2 := by
  unfold State.readSector
  dsimp only
  split
  · exact yields_ok.2 (checkPool_canonical h)
  · refine (translate_canonical h).bind ?_
    rintro ⟨_, t1⟩ h1
    dsimp only
    split
    · split
      · exact yields_ok.2 h1
      · refine (ask_canonical h1).bind ?_
        rintro ⟨_, t2⟩ h2
        dsimp only
        exact yields_ok.2 h2
    · refine Yields.after fun _ => (readPhys_canonical h1).bind ?_
      rintro ⟨_, _, t3⟩ h3
      dsimp only
      exact yields_ok.2 h3

theorem readSectors_canonical {w : Who} {queue : Nat} {e : Entry} {k : Nat} {l : List Nat} {s : State} (h : MemCanonical s) :
    Yields (State.readSectors w queue e k l s) fun r => MemCanonical r.2 := by
  induction l generalizing s with
  | nil => exact yields_ok.2 h
  | cons n l ih =>
    unfold State.readSectors
    exact (readSector_canonical h).bind fun _ h1 => (ih h1).bind fun _ h2 => yields_ok.2 h2

theorem packSector_canonical {s : State} {w : Who} {queue : Nat} {e : Entry} {k : Nat} {p : Phys} {bs : List Byte} (h : MemCanonical s) :
    Yields (s.packSector w queue e k p bs) MemCanonical := by
  unfold State.packSector
  extract_lets held s1 have_ flit parts
  have h1 : MemCanonical s1 := by
    dsimp only [s1]
    split
    · exact h
    · exact modHead_canonical h
  clear_value s1
  split
  · exact yields_ok.2 h1
  · refine Yields.after fun _ => (logDirty_canonical h1).bind ?_
    rintro t ht
    exact yields_ok.2 (transmit_canonical (canonical_congr ht rfl))

theorem wholeHalf_canonical {s : State} {a entry : Nat} (h : MemCanonical s) : MemCanonical { s with mem := s.mem.wholeHalf a entry } := by
  unfold Mem.wholeHalf
  dsimp only
  split
  · exact wf_congr (m := s.mem) rfl rfl rfl h
  · split
    · exact wf_congr (m := s.mem) rfl rfl rfl h
    · exact h

theorem engineWrite_canonical {s : State} {w : Who} {queue : Nat} {e : Entry} {k va : Nat} {bs masks : List Byte} {poison : Bool}
    (h : MemCanonical s) : Yields (s.engineWrite w queue e k va bs masks poison) fun r => MemCanonical r.2 := by
  unfold State.engineWrite
  refine (translate_canonical h).bind ?_
  rintro ⟨p, t⟩ ht
  replace ht : MemCanonical t := ht
  dsimp only
  split
  · split
    · exact yields_kill _ _
    · split
      · exact yields_ok.2 ht
      · split
        · exact yields_ok.2 ht
        · split
          · exact (packSector_canonical ht).bind fun _ hu => yields_ok.2 hu
          · refine (logDirty_canonical ht).bind fun _ hu => (ask_canonical hu).bind fun _ hv => yields_ok.2 hv
  · split
    · exact yields_kill _ _
    · exact Yields.after fun _ => yields_ok.2 (writeNow_canonical ht)
  · exact Yields.after fun _ => yields_ok.2 (writeNow_canonical ht)
  · refine Yields.after fun gen => (logDirty_canonical ht).bind fun u hu => Yields.after fun _ => ?_
    refine (yields_foldlM (fun v a hv => ?_) hu).bind fun _ hv => yields_ok.2 hv
    refine Yields.after fun _ => yields_ok.2 ?_
    split
    · exact wholeHalf_canonical (writeNow_canonical hv)
    · exact writeNow_canonical hv

theorem storeRow_canonical {s : State} {w : Who} {queue : Nat} {e : Entry} {k : Nat} {t : Tensor} {lineBit : Nat} {run : Nat × Nat}
    {sector : Nat} {src : List (Nat × Nat × Bool)} {at_ : Nat → Nat} {conv : Option (Nat × Nat)} {e5inf : Bool} (h : MemCanonical s) :
    Yields (s.storeRow w queue e k t lineBit run sector src at_ conv e5inf) fun r => MemCanonical r.2 := engineWrite_canonical h

theorem storeScales_canonical {w : Who} {queue : Nat} {e : Entry} {k : Nat} {l : List (Nat × List Byte × Bool)} {s : State}
    (h : MemCanonical s) :
    Yields (State.storeScales w queue e k l s) fun r => MemCanonical r.2 := by
  induction l generalizing s with
  | nil => exact yields_ok.2 h
  | cons x l ih =>
    unfold State.storeScales
    exact (engineWrite_canonical h).bind fun _ h1 => (ih h1).bind fun _ h2 => yields_ok.2 h2

theorem pushSectors_canonical {s : State} {w : Who} {e : Entry} {k : Nat} {bs : List Byte} {poison : List Bool} (h : MemCanonical s) :
    Yields (s.pushSectors w e k bs poison) MemCanonical := by
  unfold State.pushSectors
  split
  · exact yields_ok.2 (canonical_foldl (fun _ _ h1 => canonical_foldl (fun _ _ h2 => fly_canonical h2) h1) h)
  · exact yields_ok.2 h

theorem pushrSectors_canonical {w : Who} {queue : Nat} {e : Entry} {va : Nat} {post : Option Nat} {l : List (List Byte × Bool)} {s : State}
    (h : MemCanonical s) : Yields (State.pushrSectors w queue e va post l s) MemCanonical := by
  induction l generalizing va s with
  | nil => exact yields_ok.2 h
  | cons x l ih =>
    unfold State.pushrSectors
    exact (translate_canonical h).bind fun _ h1 => ih (fly_canonical h1)

theorem performPiece_canonical {s : State} {w : Who} {queue : Nat} {e : Entry} {k : Nat} {p : Piece} {src : List (Nat × Nat × Bool)}
    (h : MemCanonical s) :
    Yields (s.performPiece w queue e k p src) fun r => MemCanonical r.2 := by
  unfold State.performPiece
  extract_lets +onlyGivenNames land
  have h1 : ∀ x0 x1 x2 x3 x4 x5, Yields (land x0 x1 x2 x3 x4 x5) fun r => MemCanonical r.2 := by
    intro _ _ _ _ _ _
    dsimp only [land]
    exact yields_ok.2 (checkPool_canonical (writeNow_canonical h))
  clear_value land
  split
  · exact h1 _ _ _ _ _ _
  · exact h1 _ _ _ _ _ _
  · exact yields_ok.2 (checkPool_canonical (writeNow_canonical h))
  · exact yields_ok.2 (checkPool_canonical (writeNow_canonical h))
  · exact storeRow_canonical h
  · exact storeRow_canonical h
  · exact storeScales_canonical h
  · exact storeScales_canonical h
  · split
    dsimp only
    split
    · exact (pushrSectors_canonical h).bind fun t1 h2 => yields_ok.2 h2
    · exact (pushSectors_canonical h).bind fun t2 h3 => yields_ok.2 h3
  · split
    dsimp only
    split
    · exact (pushrSectors_canonical h).bind fun t3 h4 => yields_ok.2 h4
    · exact (pushSectors_canonical h).bind fun t4 h5 => yields_ok.2 h5
  · exact yields_ok.2 h

theorem completeHead_canonical {s : State} {core queue : Nat} (h : MemCanonical s) : MemCanonical (s.completeHead core queue) := by
  unfold State.completeHead
  split
  · split
    · exact dropHead_canonical h
    · exact h
  · exact h

theorem pieceDone_canonical {s : State} {core queue : Nat} {e : Entry} {k : Nat} (h : MemCanonical s) :
    MemCanonical (s.pieceDone core queue e k) := by
  unfold State.pieceDone
  extract_lets +onlyGivenNames remote s1 s2
  have h3 : MemCanonical s2 := h
  clear_value s2
  extract_lets +onlyGivenNames s3
  have h4 : MemCanonical s3 := by
    dsimp only [s3]
    split
    · exact h3
    · exact post_canonical h3
  clear_value s3
  exact completeHead_canonical (modHead_canonical h4)

theorem haltEntry_canonical {s : State} {core queue : Nat} {e : Entry} {m : Miss} (h : MemCanonical s) :
    MemCanonical (s.haltEntry core queue e m) := by
  unfold State.haltEntry
  dsimp only
  exact modHead_canonical (raiseMiss_canonical h)

theorem sectorStep_canonical {s : State} {core queue k : Nat} (h : MemCanonical s) : Gives (s.sectorStep core queue k) MemCanonical := by
  unfold State.sectorStep
  refine Gives.after fun e => Gives.after fun p => ?_
  split
  · exact gives_none _
  · extract_lets w r
    have hr : Yields r MemCanonical := by
      refine (readSectors_canonical h).bind ?_
      rintro ⟨src, t⟩ ht
      replace ht : MemCanonical t := ht
      dsimp only
      split
      · exact yields_ok.2 ht
      · refine (performPiece_canonical ht).bind ?_
        rintro ⟨now, u⟩ hu
        refine yields_ok.2 ?_
        dsimp only
        split
        · exact pieceDone_canonical hu
        · exact hu
    clear_value r
    split
    · exact gives_some.2 (yields_ok.1 hr)
    · exact gives_some.2 (haltEntry_canonical h)
    · exact entryStop_canonical h

theorem failPush_canonical {s : State} {id core : Nat} (h : MemCanonical s) : MemCanonical (s.failPush id core) := by
  unfold State.failPush
  extract_lets +onlyGivenNames mine flights s1
  extract_lets +onlyGivenNames s2
  have h4 : MemCanonical s2 := h
  clear_value s2
  split
  · exact failEntry_canonical h4
  · exact h4

theorem landPush_canonical {s : State} {f : Flight} (h : MemCanonical s) : Gives (s.landPush f) MemCanonical := by
  unfold State.landPush
  split
  · extract_lets +onlyGivenNames t
    have h1 : MemCanonical t := removeFlight_canonical h
    clear_value t
    split
    · exact gives_some.2 h1
    · split
      · exact gives_some.2 (failPush_canonical h)
      · extract_lets +onlyGivenNames r start
        split
        · extract_lets +onlyGivenNames t1
          have h4 : MemCanonical t1 := addCounter_canonical (checkPool_canonical (writeNow_canonical h1))
          clear_value t1
          exact gives_some.2 (completeHead_canonical h4)
        · exact gives_some.2 (failPush_canonical h)
  · exact gives_none _

theorem landPushr_canonical {s : State} {f : Flight} (h : MemCanonical s) : Gives (s.landPushr f) MemCanonical := by
  unfold State.landPushr
  split
  · extract_lets +onlyGivenNames t
    have h1 : MemCanonical t := removeFlight_canonical h
    clear_value t
    split
    · exact gives_some.2 h1
    · split
      · extract_lets +onlyGivenNames t1 t2
        have h2 : MemCanonical t1 := checkPool_canonical (writeNow_canonical h1)
        clear_value t1
        have h3 : MemCanonical t2 := by
          dsimp only [t2]
          split
          · exact addCounter_canonical h2
          · exact h2
        clear_value t2
        exact gives_some.2 (completeHead_canonical h3)
      · exact gives_some.2 (failPush_canonical h)
  · exact gives_none _

theorem turnAway_canonical {s : State} {w : PendWrite} {die : Nat} (h : MemCanonical s) : MemCanonical (s.turnAway w die) :=
  killAnyway_canonical (perform_canonical (wf_congr (m := s.mem) rfl rfl rfl h))

theorem repairWalk_canonical {die asid va n level page idx : Nat} {s : State} (h : MemCanonical s) :
    MemCanonical (State.repairWalk die asid va n level page idx s) := by
  induction n generalizing level page idx s with
  | zero => exact h
  | succ n ih =>
    have hr : MemCanonical (s.repair (hbmKey page (8 * idx)) 8) := repair_canonical h
    unfold State.repairWalk
    dsimp only
    split
    · split
      · exact hr
      · exact ih hr
    · exact hr

theorem setDirty_canonical {s : State} {die : Nat} {e : Nat × Nat} (h : MemCanonical s) : MemCanonical (s.setDirty die e) := by
  unfold State.setDirty
  extract_lets +onlyGivenNames s1
  have h1 : MemCanonical s1 := repairWalk_canonical h
  clear_value s1
  split
  · exact h1
  · extract_lets +onlyGivenNames addr s2
    have h3 : MemCanonical s2 := repair_canonical h1
    clear_value s2
    split
    · rename_i t1 _ hx1 _
      have h4 : MemCanonical t1 := readHbm_canonical h3 _ hx1
      exact writeNow_canonical h4
    · exact h3

theorem mergeDirty_canonical {s : State} {core : Nat} (h : MemCanonical s) : MemCanonical (s.mergeDirty core) :=
  canonical_foldl (fun _ _ h1 => setDirty_canonical h1) (modCore_canonical h)

theorem replayTicket_canonical {s : State} {t : Ticket} (h : MemCanonical s) : MemCanonical (s.replayTicket t) := h

theorem answer_canonical {s : State} {ticket : Nat} {outcome : Word} (h : MemCanonical s) : MemCanonical (s.answer ticket outcome) := by
  unfold State.answer
  split
  · exact h
  · extract_lets +onlyGivenNames s1 r
    have h1 : MemCanonical s1 := replayTicket_canonical h
    clear_value s1
    split
    · exact killAnyway_canonical h1
    · exact h1

end Sys2Proof.Machine
end


section
/-! O8, its parts: experts, placement and the life of actors keep memory canonical. -/

namespace Sys2Proof.Machine
open Sys2Proof.Safety

theorem modEntry_canonical {s : State} {n : Nat} {f : ExpEntry → ExpEntry} (h : MemCanonical s) : MemCanonical (s.modEntry n f) := h

theorem modSet_canonical {s : State} {n k : Nat} {f : WSet → WSet} (h : MemCanonical s) : MemCanonical (s.modSet n k f) := h

theorem queueExpert_canonical {s : State} {e : ExpEntry} {k : Nat} {q : QMsg} (h : MemCanonical s) :
    MemCanonical (s.queueExpert e k q) := by
  unfold State.queueExpert
  split
  · exact h
  · exact acceptPool_canonical h

theorem writeLeaf_canonical {s : State} {die asid va : Nat} {e : Word} (h : MemCanonical s) : MemCanonical (s.writeLeaf die asid va e) := by
  unfold State.writeLeaf
  split
  · dsimp only
    split
    · exact writeNow_canonical h
    · exact h
  · exact h

theorem dropCached_canonical {s : State} {asid first n : Nat} (h : MemCanonical s) : MemCanonical (s.dropCached asid first n) := h

theorem mapWindow_canonical {s : State} {e : ExpEntry} {w : WSet} {key : Option Byte} (h : MemCanonical s) :
    MemCanonical (s.mapWindow e w key) := dropCached_canonical (canonical_foldl (fun _ _ h1 => writeLeaf_canonical h1) h)

theorem reserve_canonical {s : State} {e : ExpEntry} {die first n : Nat} (h : MemCanonical s) : MemCanonical (s.reserve e die first n) := by
  unfold State.reserve
  dsimp only
  split <;> exact h

theorem evict_canonical {s : State} {e : ExpEntry} {k : Nat} (h : MemCanonical s) : MemCanonical (s.evict e k) := by
  unfold State.evict
  extract_lets +onlyGivenNames s2 mine gone
  have h2 : MemCanonical s2 := mapWindow_canonical (modSet_canonical h)
  clear_value s2
  exact canonical_foldl (fun _ _ h5 => reserve_canonical h5) h2

theorem dropReads_canonical {s : State} {e : ExpEntry} {k : Nat} (h : MemCanonical s) : MemCanonical (s.dropReads e k) := h

theorem sendReads_canonical {s : State} {e : ExpEntry} {set page : Nat} (h : MemCanonical s) : MemCanonical (s.sendReads e set page) := by
  unfold State.sendReads
  dsimp only
  split
  · exact h
  · split <;> exact h

theorem drain_canonical {s : State} {entry set : Nat} (h : MemCanonical s) : MemCanonical (s.drain entry set) := by
  unfold State.drain
  split
  · exact h
  · split
    · exact h
    · refine canonical_foldl (fun s a h => ?_) h
      split
      · exact queueExpert_canonical (modSet_canonical h)
      · exact h

theorem fetchOver_canonical {s : State} {e : ExpEntry} {k : Nat} (h : MemCanonical s) : MemCanonical (s.fetchOver e k) := h

theorem scrubFetch_canonical {s : State} {e : ExpEntry} {k : Nat} (h : MemCanonical s) : MemCanonical (s.scrubFetch e k) := by
  unfold State.scrubFetch
  dsimp only
  split
  · exact h
  · split
    · exact writeNow_canonical h
    · exact h

theorem fetchFails_canonical {s : State} {e : ExpEntry} {k reason : Nat} (h : MemCanonical s) : MemCanonical (s.fetchFails e k reason) := by
  unfold State.fetchFails
  extract_lets +onlyGivenNames w started s1 s2 s3
  have h3 : MemCanonical s1 := modSet_canonical (scrubFetch_canonical h)
  clear_value s1
  have h4 : MemCanonical s2 := fetchOver_canonical h3
  clear_value s2
  have h5 : MemCanonical s3 := by
    dsimp only [s3]
    split
    · exact reserve_canonical h4
    · exact h4
  clear_value s3
  split
  · exact killActor_canonical h5
  · exact h5

theorem answerWindow_canonical {s : State} {e : ExpEntry} {w : WSet} (h : MemCanonical s) : MemCanonical (s.answerWindow e w) :=
  canonical_foldl (fun _ _ h1 => fly_canonical h1) h

theorem fetchLands_canonical {s : State} {e : ExpEntry} {k gen : Nat} {key : Byte} {bs : List Byte} (h : MemCanonical s) :
    MemCanonical (s.fetchLands e k gen key bs) :=
  drain_canonical (answerWindow_canonical (mapWindow_canonical (fetchOver_canonical (modSet_canonical (writeNow_canonical h)))))

theorem countLoad_canonical {s : State} {n k : Nat} (h : MemCanonical s) : MemCanonical (s.countLoad n k) := by
  unfold State.countLoad
  extract_lets +onlyGivenNames s1
  have h1 : MemCanonical s1 := modEntry_canonical h
  clear_value s1
  split
  · exact h1
  · dsimp only
    split
    · exact h1
    · split <;> exact h1

theorem park_canonical {s : State} {p : Pool} {e : ExpEntry} {k : Nat} {q : QMsg} (h : MemCanonical s) : MemCanonical (s.park p e k q) := by
  unfold State.park
  extract_lets +onlyGivenNames full t
  have h2 : MemCanonical t := modSet_canonical h
  clear_value t
  split
  · exact killActor_canonical h2
  · exact h2

theorem expertArrive_canonical {s : State} {p : Pool} {src : Nat} {m : Msg} (h : MemCanonical s) :
    MemCanonical (s.expertArrive p src m) := by
  unfold State.expertArrive
  split
  · exact h
  · extract_lets +onlyGivenNames k q resident s1
    have h4 : MemCanonical s1 := by
      dsimp only [s1]
      split
      · exact queueExpert_canonical h
      · exact wantSet_canonical (park_canonical h)
    clear_value s1
    split
    · exact countLoad_canonical h4
    · exact h4

theorem routeGo_canonical {s : State} {d : BitVec 5} {n : Word} (h : MemCanonical s) : Yields (s.routeGo d n) MemCanonical := by
  unfold State.routeGo
  extract_lets +onlyGivenNames r
  have h1 : MemCanonical r.1 := releaseStaged_canonical h
  clear_value r
  split
  · exact yields_ok.2 (result_canonical h1)
  · exact stopped_canonical h1

theorem weightSet_canonical {s : State} {m : ModelRec} {set : Bool} (h : MemCanonical s) : Yields (s.weightSet m set) MemCanonical := by
  unfold State.weightSet
  split
  · exact yields_ok.2 h
  · exact Yields.after fun _ => Yields.after fun _ => yields_ok.2 h

theorem writeEntry_canonical {s : State} {n : Nat} {d : List Word} (h : MemCanonical s) : Gives (s.writeEntry n d) MemCanonical := by
  unfold State.writeEntry
  dsimp only
  split
  · exact gives_none _
  · split
    · exact gives_none _
    · exact gives_some.2 h

theorem writeModel_canonical {s : State} {n : Nat} {d : List Word} (h : MemCanonical s) : Gives (s.writeModel n d) MemCanonical := by
  unfold State.writeModel
  dsimp only
  split
  · exact gives_none _
  · exact gives_some.2 h

theorem writeRange_canonical {s : State} {job : Half} {d : List Word} (h : MemCanonical s) : Gives (s.writeRange job d) MemCanonical := by
  unfold State.writeRange
  dsimp only
  split
  · exact gives_none _
  · exact gives_some.2 h

theorem tableAnswer_canonical {s : State} {r : Option State} (h : MemCanonical s) (hr : Gives r MemCanonical) :
    MemCanonical (s.tableAnswer r) := canonical_congr (hr.getD h) rfl

theorem readPiece_canonical {s : State} {w : Who} {acc : Access} {va n : Nat} (h : MemCanonical s) :
    Yields (s.readPiece w acc va n) fun r => MemCanonical r.2 := by
  unfold State.readPiece
  refine Yields.after fun _ => ?_
  split
  split
  · exact Yields.after fun _ => Yields.after fun _ => yields_ok.2 h
  · refine (translate_canonical h).bind ?_
    rintro ⟨_, t1⟩ h1
    dsimp only
    refine Yields.after fun _ => ?_
    split
    · split
      · split
        · exact yields_ok.2 h1
        · exact yields_error _ _
      · refine Yields.after fun _ => (ask_canonical h1).bind ?_
        rintro ⟨_, t2⟩ h2
        dsimp only
        exact yields_ok.2 (modAct_canonical h2)
    · exact Yields.after fun _ => yields_ok.2 h1
    · refine Yields.after fun _ => Yields.after fun _ => (readPhys_canonical h1).bind ?_
      rintro ⟨_, _, t3⟩ h3
      dsimp only
      exact yields_ok.2 h3

theorem canonical_third {α β : Type} {p : α × β × State} {a : α} {b : β} {t : State} (h : MemCanonical p.2.2) (hp : p = (a, b, t)) :
    MemCanonical t := by
  rw [hp] at h
  exact h

theorem readPieces_canonical {w : Who} {acc : Access} {l : List (Nat × Nat)} {s : State} (h : MemCanonical s) :
    Yields (State.readPieces w acc l s) fun r => MemCanonical r.2 := by
  induction l generalizing s with
  | nil => exact yields_ok.2 h
  | cons x l ih =>
    unfold State.readPieces
    refine (readPiece_canonical h).bind ?_
    rintro ⟨r, t⟩ ht
    replace ht : MemCanonical t := ht
    dsimp only
    split
    · exact yields_ok.2 ht
    · exact (ih ht).bind fun _ h2 => yields_ok.2 h2

theorem readRecord_canonical {s : State} {w : Who} {va n unit : Nat} (h : MemCanonical s) :
    Yields (s.readRecord w va n unit) fun r => MemCanonical r.2 := by
  unfold State.readRecord
  refine (readPieces_canonical h).bind ?_
  rintro ⟨_, t1⟩ h1
  dsimp only
  split
  · exact yields_ok.2 h1
  · exact Yields.after fun _ => yields_ok.2 h1

theorem dropKept_canonical {s : State} {w : Who} (h : MemCanonical s) : MemCanonical (s.dropKept w) := h

theorem readImage_canonical {s : State} {w : Who} {va : Nat} (h : MemCanonical s) :
    Yields (s.readImage w va) fun r => MemCanonical r.2 := by
  unfold State.readImage
  refine Yields.after fun _ => (readRecord_canonical h).bind ?_
  rintro ⟨_, t1⟩ h1
  dsimp only
  split
  · exact yields_ok.2 h1
  · split
    · exact yields_kill _ _
    · exact Yields.after fun _ => yields_ok.2 h1

theorem fillRegion_canonical {s : State} {core : Nat} {r : Region} {pieces : List (List Byte × Bool)} (h : MemCanonical s) :
    MemCanonical (s.fillRegion core r pieces) :=
  canonical_foldl (fun _ _ hs => wf_writePlain _ _ _ hs) (zeroPool_canonical h)

theorem fillRegions_canonical {core : Nat} {l : List (RegInit × Region)} {data : List (List Byte × Bool)} {s : State} (h : MemCanonical s) :
    MemCanonical (State.fillRegions core l data s) := by
  induction l generalizing data s with
  | nil => exact h
  | cons x l ih =>
    unfold State.fillRegions
    refine ih ?_
    split
    · exact h
    · exact fillRegion_canonical h

theorem fillRoom_canonical {s : State} {img : Image} {room : Room} {data : List (List Byte × Bool)} (h : MemCanonical s) :
    MemCanonical (s.fillRoom img room data) := fillRegions_canonical h

theorem setInc_canonical {s : State} {job : Half} {service : Bool} {index inc : Nat} (h : MemCanonical s) :
    MemCanonical (s.setInc job service index inc) := h

theorem setLastDie_canonical {s : State} {job : Half} {service : Bool} {index die : Nat} (h : MemCanonical s) :
    MemCanonical (s.setLastDie job service index die) := h

theorem putActor_canonical {s : State} {a : Actor} (h : MemCanonical s) : MemCanonical (s.putActor a) := h

theorem install_canonical {s : State} {job : Half} {img : Image} {rooms : List Room} {data : List (List Byte × Bool)}
    {supervisor : Option (Word × Nat)} (h : MemCanonical s) :
    Gives (s.install job img rooms data supervisor) fun r => MemCanonical r.2 := by
  unfold State.install
  split
  · exact gives_none _
  · exact gives_some.2 (putActor_canonical (setLastDie_canonical (setInc_canonical
      (canonical_foldl (fun _ _ hs => fillRoom_canonical hs) h))))

theorem resendFaults_canonical {s : State} {a : Actor} (h : MemCanonical s) : MemCanonical (s.resendFaults a) := by
  unfold State.resendFaults
  split
  · exact canonical_foldl (fun _ _ h1 => hardSend_canonical h1) h
  · exact h

theorem modRecord_canonical {s : State} {sup : Word} {f : SupRec → SupRec} (h : MemCanonical s) : MemCanonical (s.modRecord sup f) := h

theorem modChild_canonical {s : State} {sup : Word} {i : Nat} {f : Child → Child} (h : MemCanonical s) :
    MemCanonical (s.modChild sup i f) := h

theorem markRestarting_canonical {s : State} {job : Half} {img : Image} {sup : Word} {i : Nat} (h : MemCanonical s) :
    MemCanonical (s.markRestarting job img sup i) := by
  unfold State.markRestarting
  split
  · exact h
  · dsimp only
    split
    · exact putActor_canonical h
    · exact h

theorem admitHeld_canonical {name : Word} {l : List QMsg} {s : State} (h : MemCanonical s) :
    MemCanonical (State.admitHeld name l s) := by
  induction l generalizing s with
  | nil => exact h
  | cons q l ih =>
    unfold State.admitHeld
    split
    · exact ih (accept_canonical h)
    · exact h

theorem copyPieces_canonical {w : Who} {l : List (Nat × Nat)} {s : State} (h : MemCanonical s) :
    MemCanonical (State.copyPieces w l s).2.2 := by
  induction l generalizing s with
  | nil => exact h
  | cons x l ih =>
    unfold State.copyPieces
    split
    · exact h
    · rename_i hx
      exact readPiece_canonical h _ hx
    · rename_i hx
      exact ih (readPiece_canonical h _ hx)

theorem tryPlace_canonical {s : State} {sup : Word} {i : Nat} (h : MemCanonical s) : Gives (s.tryPlace sup i) MemCanonical := by
  unfold State.tryPlace
  split
  · exact gives_none _
  · extract_lets +onlyGivenNames c job
    split
    · exact gives_none _
    · extract_lets +onlyGivenNames old mine prev
      split
      · exact gives_none _
      · split
        · exact gives_none _
        · extract_lets +onlyGivenNames w fresh
          split
          rename_i t1 hx1
          have h8 : MemCanonical t1 := canonical_third (copyPieces_canonical h) hx1
          extract_lets +onlyGivenNames s1
          have h9 : MemCanonical s1 := modChild_canonical h8
          clear_value s1
          split
          · extract_lets +onlyGivenNames s2
            have h10 : MemCanonical s2 := by
              dsimp only [s2]
              split
              · exact note_canonical h9
              · exact h9
            clear_value s2
            exact gives_some.2 (killActor_canonical h10)
          · dsimp only
            exact gives_some.2 (raiseMiss_canonical h9)
          · exact gives_some.2 (settleLine_canonical h9)
          · split
            · exact gives_none _
            · exact gives_some.2 h9
          · exact gives_some.2 h9
          · dsimp only
            split
            · exact gives_none _
            · rename_i t2 hx2
              have h11 : MemCanonical t2 := install_canonical h9 _ hx2
              refine gives_some.2 ?_
              exact resendFaults_canonical (fly_canonical (admitHeld_canonical (dropKept_canonical (modChild_canonical h11))))

theorem placeChild_canonical {s : State} {sup : Word} {child : Nat} (h : MemCanonical s) : Gives (s.placeChild sup child) MemCanonical := by
  unfold State.placeChild
  split
  · exact gives_none _
  · exact tryPlace_canonical h

theorem readImages_canonical {w : Who} {l : List (Nat × Bool × BitVec 2)} {s : State} (h : MemCanonical s) :
    Yields (State.readImages w l s) fun r => MemCanonical r.2 := by
  induction l generalizing s with
  | nil => exact yields_ok.2 h
  | cons x l ih =>
    unfold State.readImages
    refine (readImage_canonical h).bind ?_
    rintro ⟨img, t⟩ ht
    replace ht : MemCanonical t := ht
    dsimp only
    split
    · exact yields_ok.2 ht
    · exact (ih ht).bind fun _ h2 => yields_ok.2 h2

theorem scrub_canonical {s : State} {places : List (Nat × Vector Region 8)} (h : MemCanonical s) : MemCanonical (s.scrub places) := by
  unfold State.scrub
  refine canonical_foldl (fun s a h => ?_) h
  refine canonical_foldl (fun s a h => ?_) h
  split
  · exact h
  · exact zeroPool_canonical h

theorem exitSignals_canonical {s : State} {die : Nat} {name : Word} {reason : Nat} {dropped : Word} {l : List LinkEntry}
    (h : MemCanonical s) :
    MemCanonical (s.exitSignals die name reason dropped l) := by
  unfold State.exitSignals
  extract_lets +onlyGivenNames send
  have h2 : ∀ x0 x1 x2, MemCanonical x0 → MemCanonical (send x0 x1 x2) := by
    intro t1 _ _ h3
    dsimp only [send]
    exact fly_canonical h3
  clear_value send
  refine canonical_foldl (fun s a h => ?_) h
  split
  · split
    · exact modLinks_canonical h
    · exact h2 _ _ _ h
  · exact h2 _ _ _ h
  · exact modLinks_canonical h

theorem dropHeld_canonical {s : State} {die : Nat} {held : List QMsg} (h : MemCanonical s) : MemCanonical (s.dropHeld die held) :=
  canonical_foldl (fun _ _ h1 => noActor_canonical h1) h

theorem removeActor_canonical {s : State} {a : Actor} (h : MemCanonical s) : MemCanonical (s.removeActor a) := dropHeld_canonical h

theorem orphans_canonical {s : State} {sup : Word} {r : Option SupRec} (h : MemCanonical s) : MemCanonical (s.orphans sup r) := by
  unfold State.orphans
  split
  · exact h
  · extract_lets +onlyGivenNames mine s2 tickets
    have h3 : MemCanonical s2 := by
      dsimp only [s2]
      refine canonical_foldl (fun s a h => ?_) h
      split
      · exact killActor_canonical (modActor_canonical h)
      · exact killActor_canonical (modActor_canonical h)
      · exact removeActor_canonical h
      · exact h
    clear_value s2
    exact leaveTickets_canonical h3

theorem tellMonitor_canonical {s : State} {a : Actor} {dropped : Word} (h : MemCanonical s) : MemCanonical (s.tellMonitor a dropped) := by
  unfold State.tellMonitor
  dsimp only
  split
  · exact h
  · exact hardSend_canonical h

theorem exitAs_canonical {s : State} {a : Actor} {reason : Nat} {dropped : Word} (h : MemCanonical s) :
    MemCanonical (s.exitAs a reason dropped) := by
  unfold State.exitAs
  extract_lets name heir s1 s2 s3 s4
  have h1 : MemCanonical s1 := dropPorts_canonical (scrub_canonical h)
  have h2 : MemCanonical s2 := by
    dsimp only [s2]
    clear_value heir s1
    split
    · exact dropHeld_canonical (modActor_canonical h1)
    · exact removeActor_canonical h1
  have h3 : MemCanonical s3 := exitSignals_canonical h2
  have h4 : MemCanonical s4 := by
    dsimp only [s4]
    split
    · split
      · exact h3
      · exact fly_canonical h3
    · exact h3
  exact settleLevels_canonical (orphans_canonical (tellMonitor_canonical h4))

theorem exitActor_canonical {s : State} {a : Actor} {reason : Nat} (h : MemCanonical s) : MemCanonical (s.exitActor a reason) :=
  exitAs_canonical h

theorem exitPoolAs_canonical {s : State} {p : Pool} {reason : Nat} {dropped : Word} (h : MemCanonical s) :
    MemCanonical (s.exitPoolAs p reason dropped) :=
  settleLevels_canonical (orphans_canonical (exitSignals_canonical (dropHeld_canonical (canonical_congr (scrub_canonical h) rfl))))

theorem exitPool_canonical {s : State} {p : Pool} {reason : Nat} (h : MemCanonical s) : MemCanonical (s.exitPool p reason) :=
  exitPoolAs_canonical h

theorem receive_canonical {s : State} {n : Word} {die : Nat} {m : Msg} (h : MemCanonical s) : MemCanonical (s.receive n die m) := by
  unfold State.receive
  split
  · split
    · exact h
    · split
      · exact holdPool_canonical h
      · split
        · exact expertArrive_canonical h
        · split
          · exact acceptPool_canonical h
          · exact h
  · split
    · split
      · exact accept_canonical h
      · split
        · exact hold_canonical h
        · exact h
    · exact h

theorem takeSignal_canonical {s : State} {f : Flight} (h : MemCanonical s) : Gives (s.takeSignal f) MemCanonical := by
  unfold State.takeSignal
  extract_lets +onlyGivenNames t
  have h1 : MemCanonical t := removeFlight_canonical h
  clear_value t
  split
  · refine gives_some.2 ?_
    split
    · exact h1
    · exact sendAbroad_canonical h1
  · dsimp only
    split
    · split
      · exact gives_some.2 h1
      · refine gives_some.2 ?_
        split
        · exact receive_canonical (modLinks_canonical h1)
        · exact killActor_canonical (modLinks_canonical h1)
    · split
      · exact gives_some.2 h1
      · exact gives_some.2 (receive_canonical (modLinks_canonical h1))
    · refine gives_some.2 ?_
      split
      · exact killActor_canonical h1
      · exact h1
    · exact gives_none _

theorem childDown_canonical {s : State} {sup child : Word} {die reason : Nat} {dropped : Word} (h : MemCanonical s) :
    MemCanonical (s.childDown sup child die reason dropped) := receive_canonical h

theorem owe_canonical {s : State} {sup : Word} {r : SupRec} {i reason : Nat} (h : MemCanonical s) : MemCanonical (s.owe sup r i reason) :=
  markRestarting_canonical (modChild_canonical h)

theorem groupRestart_canonical {s : State} {sup : Word} {r : SupRec} {child reason : Nat} (h : MemCanonical s) :
    MemCanonical (s.groupRestart sup r child reason) := by
  unfold State.groupRestart
  extract_lets +onlyGivenNames ids s2
  have h3 : MemCanonical s2 := by
    dsimp only [s2]
    refine canonical_foldl (fun s a h => ?_) h
    split
    · exact h
    · split
      · split
        · exact killActor_canonical (modActor_canonical h)
        · exact h
      · exact h
  clear_value s2
  refine canonical_foldl (fun s a h => ?_) h3
  split
  · exact h
  · exact owe_canonical h

theorem notice_canonical {s : State} {sup childName : Word} {die child reason : Nat} {dropped : Word} (h : MemCanonical s) :
    MemCanonical (s.notice sup childName die child reason dropped) := by
  unfold State.notice
  split
  · exact h
  · extract_lets +onlyGivenNames c replaced
    split
    · exact h
    · split
      · exact childDown_canonical (modChild_canonical h)
      · split
        · extract_lets +onlyGivenNames s1
          have h3 : MemCanonical s1 := by
            dsimp only [s1]
            split
            · split
              · exact removeActor_canonical h
              · exact h
            · exact h
          clear_value s1
          exact killActor_canonical h3
        · extract_lets +onlyGivenNames s2
          have h4 : MemCanonical s2 := modRecord_canonical h
          clear_value s2
          split
          · exact groupRestart_canonical h4
          · exact owe_canonical h4

theorem agree_canonical {s : State} {name : Word} (h : MemCanonical s) : MemCanonical (s.agree name) := h

theorem writeRegion_canonical {s : State} {a : Nat} {bs : List Byte} {l : List Nat} (h : MemCanonical s) :
    MemCanonical { s with mem := { s.mem.writePlain a bs false with poisonSectors := l } } :=
  wf_congr (m := s.mem.writePlain a bs false) rfl rfl rfl (wf_writePlain a bs false h)

theorem copyRegions_canonical {s : State} {src dst : Nat × Vector Region 8} (h : MemCanonical s) :
    MemCanonical (s.copyRegions src dst) := by
  refine canonical_foldl (fun t i ht => ?_) h
  dsimp only
  split
  · exact ht
  · exact writeRegion_canonical (zeroPool_canonical ht)

theorem followRun_canonical {s : State} {a : Actor} {src dst : Nat} (h : MemCanonical s) : MemCanonical (s.followRun a src dst) := by
  unfold State.followRun
  extract_lets +onlyGivenNames place s1 take s2
  have h2 : MemCanonical s1 := copyRegions_canonical h
  clear_value s1
  have h4 : MemCanonical s2 := modActor_canonical h2
  clear_value s2
  split <;> exact h4

theorem removeThird_canonical {s : State} {a : Actor} (h : MemCanonical s) : MemCanonical (s.removeThird a) :=
  modActor_canonical (freeTiles_canonical (dropActs_canonical (dropEntries_canonical (scrub_canonical h))))

theorem addThird_canonical {s : State} {a : Actor} (h : MemCanonical s) : Gives (s.addThird a) MemCanonical := by
  unfold State.addThird
  refine Gives.after fun x => Gives.after fun m => Gives.after fun room => ?_
  split
  · exact gives_none _
  · exact gives_some.2 (begin_canonical (modActor_canonical
      (canonical_foldl (fun _ _ hs => writeRegion_canonical hs) (fillRoom_canonical h))))

theorem compare_canonical {s : State} {a : Actor} (h : MemCanonical s) : Gives (s.compare a) MemCanonical := by
  unfold State.compare
  refine Gives.after fun _ => Gives.after fun _ => Gives.after fun _ => ?_
  split
  · split
    · exact gives_some.2 (agree_canonical h)
    · exact addThird_canonical h
  · refine Gives.after fun _ => ?_
    split
    · exact gives_some.2 (agree_canonical (removeThird_canonical (followRun_canonical h)))
    · split
      · exact gives_some.2 (agree_canonical (removeThird_canonical (followRun_canonical h)))
      · exact gives_some.2 (killActor_canonical (modActor_canonical h))

theorem addCounters_canonical {s : State} {cores : List Nat} {c : Nat} {v : Word32} (h : MemCanonical s) :
    MemCanonical (s.addCounters cores c v) := canonical_foldl (fun _ _ h1 => addCounter_canonical h1) h

theorem restoreCounters_canonical {s : State} {core : Nat} {saved : List (Nat × Word32)} (h : MemCanonical s) :
    MemCanonical (s.restoreCounters core saved) := by
  unfold State.restoreCounters
  split
  · exact h
  · extract_lets +onlyGivenNames t
    have h2 : MemCanonical t := by
      dsimp only [t]
      refine canonical_foldl (fun s a h => ?_) h
      split
      · exact setCounter_canonical h
      · exact h
    clear_value t
    exact modCore_canonical h2

theorem restorePlace_canonical {s : State} {saved : Saved} {i core : Nat} {lcore : Half} {regions : Vector Region 8} (h : MemCanonical s) :
    MemCanonical (s.restorePlace saved i core lcore regions) :=
  modCore_canonical (restoreCounters_canonical (canonical_foldl (fun _ _ hs => writeRegion_canonical hs) h))

theorem releaseDeferred_canonical {s : State} {id : Nat} (h : MemCanonical s) : Gives (s.releaseDeferred id) MemCanonical := by
  unfold State.releaseDeferred
  refine Gives.after fun _ => ?_
  extract_lets +onlyGivenNames rest t
  extract_lets +onlyGivenNames t1
  have h3 : MemCanonical t1 := h
  clear_value t1
  split
  · exact gives_none _
  · extract_lets +onlyGivenNames w tags r
    extract_lets +onlyGivenNames r1
    have h7 : Yields r1 MemCanonical := by
      dsimp only [r1]
      split
      · exact storeNow_canonical h3
      · exact storeNow_canonical h3
      · refine (amoNow_canonical h3).bind ?_
        rintro ⟨_, t2⟩ h8
        dsimp only
        exact yields_ok.2 h8
      · exact yields_ok.2 (addCounter_canonical h3)
      · exact depDec_canonical h3
      · exact yields_ok.2 h3
    clear_value r1
    split
    · rename_i t3
      exact gives_some.2 (yields_ok.1 h7)
    · exact gives_some.2 (killAnyway_canonical (noteKill_canonical h3))
    · exact gives_some.2 (settleLine_canonical h)
    · dsimp only
      exact gives_some.2 (modAid_canonical (canonical_congr (raiseMiss_canonical h) rfl))
    · exact gives_none _

theorem releaseTail_canonical {s : State} {aid : Nat} (h : MemCanonical s) : Gives (s.releaseTail aid) MemCanonical := by
  unfold State.releaseTail
  refine Gives.after fun x => ?_
  have hr := releaseAll_canonical (a := x.act) (l := x.act.staged) h
  dsimp only
  split
  · exact gives_some.2 (settleLevels_canonical (releaseTiles_canonical (launchCovers_canonical (canonical_congr hr rfl))))
  · exact gives_some.2 (killAnyway_canonical (noteKill_canonical (canonical_congr hr rfl)))
  · exact gives_some.2 (canonical_congr (settleLine_canonical hr) rfl)
  · exact gives_some.2 (canonical_congr (raiseMiss_canonical hr) rfl)
  · split
    · exact gives_some.2 (canonical_congr hr rfl)
    · exact gives_none _

theorem timingReplay_canonical {s : State} {core : Nat} {inArray : Bool} {aid : Nat} (h : MemCanonical s) :
    MemCanonical (s.timingReplay core inArray aid) := by
  unfold State.timingReplay
  extract_lets +onlyGivenNames die s1 s2 l recent s3
  have h2 : MemCanonical s1 := countReplay_canonical h
  clear_value s1
  have h3 : MemCanonical s2 := by
    dsimp only [s2]
    split
    · exact modAid_canonical h2
    · exact h2
  clear_value s2
  have h6 : MemCanonical s3 := h3
  clear_value s3
  split
  · exact note_canonical h6
  · exact h6

theorem lost_canonical {s : State} {core unit : Nat} {part : Option Nat} {before : Bool} {reason : Half} {asid : Nat} (h : MemCanonical s) :
    MemCanonical (s.lost core unit part before reason asid) := note_canonical h

theorem lostOf_canonical {s : State} {job : Half} {core unit : Nat} {before : Bool} {reason : Half} (h : MemCanonical s) :
    MemCanonical (s.lostOf job core unit before reason) := lost_canonical h

theorem lostAct_canonical {s : State} {aid : Nat} {before : Act → Bool} (h : MemCanonical s) : MemCanonical (s.lostAct aid before) := by
  unfold State.lostAct
  split
  · exact lostOf_canonical h
  · exact h

theorem lostName_canonical {s : State} {name : Word} {unit : Nat} {before : Bool} {reason : Half} (h : MemCanonical s) :
    MemCanonical (s.lostName name unit before reason) := lostOf_canonical h

theorem strike_canonical {s : State} {x : Strike} (h : MemCanonical s) : MemCanonical (s.strike x) := by
  unfold State.strike
  split
  · exact wf_congr (m := s.mem) rfl rfl rfl h
  · split
    · exact lost_canonical (wf_spoil _ (wf_congr (m := s.mem) rfl rfl rfl h))
    · exact lost_canonical (wf_congr (m := s.mem) rfl rfl rfl h)
  · exact modAid_canonical (lostAct_canonical h)
  · exact modAid_canonical (lostAct_canonical h)
  · exact modAid_canonical (lostAct_canonical h)
  · exact modAid_canonical (lostAct_canonical h)
  · exact lostName_canonical (modPool_canonical (modActor_canonical h))
  · exact lostName_canonical (modPool_canonical (modActor_canonical h))
  · split
    · exact h
    · exact lost_canonical h
  · dsimp only
    split
    · exact h
    · exact lost_canonical (setSlot_canonical h)
  · split
    · exact h
    · exact lost_canonical (modSet_canonical h)
  · exact lost_canonical (modTile_canonical h)
  · exact note_canonical h
  · extract_lets +onlyGivenNames v t
    have h3 : MemCanonical t := lost_canonical (setSlot_canonical h)
    clear_value t
    refine settleLevels_canonical ?_
    split
    · exact killActor_canonical (cancelled_canonical h3)
    · exact h3
  · split
    · exact killActor_canonical (lostName_canonical h)
    · exact lostName_canonical h
  · exact killActor_canonical (lostName_canonical h)
  · exact timingReplay_canonical h
  · exact modCore_canonical h
  · exact h
  · exact h
end Sys2Proof.Machine
end


section
/-! O8, its parts: bring-up, Keystone and the service forms keep memory canonical. -/

namespace Sys2Proof.Machine
open Sys2Proof.Safety

theorem powered_canonical {s : State} {c : Option State} (h : MemCanonical s) (hc : Gives c MemCanonical) : Ends (powered s c) := by
  unfold powered
  split
  · exact ends_fault _
  · exact ends_next (hc.getD h)

theorem sealRecord_canonical {s : State} {job : Half} {halted : Bool} (h : MemCanonical s) : MemCanonical (s.sealRecord job halted) := h

theorem sealAll_canonical {s : State} {halted : Bool} (h : MemCanonical s) : MemCanonical (s.sealAll halted) :=
  canonical_foldl (fun _ _ h1 => sealRecord_canonical h1) h

theorem coldReset_canonical {s : State} (h : MemCanonical s) : MemCanonical s.coldReset := wf_cold h

theorem warmReset_canonical {s : State} (h : MemCanonical s) : MemCanonical s.warmReset := wf_warm h

theorem failStart_canonical {s : State} {reason detail : Nat} (h : MemCanonical s) : MemCanonical (s.failStart reason detail) :=
  warmReset_canonical h

theorem haltSteps_canonical {s : State} (h : MemCanonical s) : MemCanonical (s.haltSteps) := canonical_congr (sealAll_canonical h) rfl

theorem noteFatal_canonical {s : State} {die : Nat} (h : MemCanonical s) : MemCanonical (s.noteFatal die) := h

theorem serviceWords_canonical {s : State} (h : MemCanonical s) : MemCanonical (s.serviceWords) :=
  canonical_foldl (fun _ _ h1 => modCore_canonical h1) h

theorem placeRoot_canonical {s : State} (h : MemCanonical s) : Gives s.placeRoot MemCanonical := by
  unfold State.placeRoot
  dsimp only
  split
  · exact gives_none _
  · exact Gives.after fun _ => (install_canonical (serviceWords_canonical h)).bind fun r hr => gives_some.2 (canonical_congr hr rfl)

theorem storeImage_canonical {s : State} {image signature : List Byte} (h : MemCanonical s) :
    MemCanonical (s.storeImage image signature) := by
  unfold State.storeImage
  split <;> exact h

theorem trained_canonical {s : State} (h : MemCanonical s) : MemCanonical s.trained := wf_congr (m := s.mem.zeroRoot) rfl rfl rfl
    (wf_zeroRoot h)

theorem beginTraining_canonical {s : State} (h : MemCanonical s) : MemCanonical (s.beginTraining) := h

theorem chooseMode_canonical {s : State} (h : MemCanonical s) : MemCanonical (s.chooseMode) := by
  unfold State.chooseMode
  split <;> exact h

theorem phaseDone_canonical {s : State} (h : MemCanonical s) : MemCanonical (s.phaseDone) := h

theorem bootStep_canonical {s : State} (h : MemCanonical s) : Gives (s.bootStep) MemCanonical := by
  unfold State.bootStep
  split
  · exact gives_some.2 (phaseDone_canonical h)
  · refine gives_some.2 ?_
    split
    · exact phaseDone_canonical h
    · exact failStart_canonical h
  · exact gives_some.2 (phaseDone_canonical (chooseMode_canonical h))
  · exact gives_some.2 (phaseDone_canonical (canonical_congr (trained_canonical h) rfl))
  · refine gives_some.2 ?_
    split
    · exact phaseDone_canonical h
    · exact beginTraining_canonical (phaseDone_canonical h)
  · split
    · exact gives_none _
    · exact gives_some.2 (phaseDone_canonical h)
  · extract_lets +onlyGivenNames t
    have h1 : MemCanonical t := (placeRoot_canonical h).getD h
    clear_value t
    exact gives_some.2 h1
  · exact gives_none _

theorem bootFail_canonical {s : State} {unit : Nat} (h : MemCanonical s) : Gives (s.bootFail unit) MemCanonical := by
  unfold State.bootFail
  split
  · exact gives_some.2 (failStart_canonical h)
  · split
    · exact gives_none _
    · exact gives_some.2 (failStart_canonical h)
  · split
    · exact gives_some.2 (phaseDone_canonical h)
    · split
      · exact gives_some.2 (failStart_canonical h)
      · exact gives_none _
  · split
    · exact gives_none _
    · exact gives_some.2 (failStart_canonical h)
  · split
    · exact gives_none _
    · extract_lets +onlyGivenNames die t
      have h2 : MemCanonical t := note_canonical h
      clear_value t
      refine gives_some.2 ?_
      split
      · exact modLink_canonical h2
      · exact h2
  · exact gives_none _

theorem respondHost_canonical {s : State} {status : Nat} {bs : List Byte} (h : MemCanonical s) : MemCanonical (s.respondHost status bs) := h

theorem int2_canonical {s : State} {w : BitVec 1} {b a d : BitVec 5} {len : Nat} {f : Nat → Nat → Nat → ℤ} (h : MemCanonical s) :
    Yields (int2 w b a d len s f) MemCanonical := yields_ok.2 (result_canonical h)

theorem intShift_canonical {s : State} {w : BitVec 1} {b a d : BitVec 5} {f : Nat → Nat → Nat → ℤ} (h : MemCanonical s) :
    Yields (intShift w b a d s f) MemCanonical := yields_ok.2 (result_canonical h)

theorem int1_canonical {s : State} {w : BitVec 1} {a d : BitVec 5} {f : Nat → Nat → Nat} (h : MemCanonical s) :
    Yields (int1 w a d s f) MemCanonical := yields_ok.2 (result_canonical h)

theorem intImm_canonical {s : State} {i : BitVec 12} {a d : BitVec 5} {len : Nat} {f : Word → Word → Word} (h : MemCanonical s) :
    Yields (intImm i a d len s f) MemCanonical := yields_ok.2 (result_canonical h)

theorem intShiftImm_canonical {s : State} {n : BitVec 6} {a d : BitVec 5} {len : Nat} {f : Nat → Nat → ℤ} (h : MemCanonical s) :
    Yields (intShiftImm n a d len s f) MemCanonical := yields_ok.2 (result_canonical h)

theorem handOver_canonical {s : State} {va : Word} {attest : Bool} (h : MemCanonical s) : Yields (s.handOver va attest) MemCanonical := by
  unfold State.handOver
  refine Yields.after fun _ => ?_
  dsimp only
  exact Yields.after fun _ => Yields.after fun _ => yields_ok.2 (modAct_canonical (canonical_congr (fresh_canonical h) rfl))

theorem keystone_canonical {s : State} {a d : BitVec 5} {attest : Bool} (h : MemCanonical s) :
    Yields (s.keystone a d attest) MemCanonical := by
  unfold State.keystone
  refine Yields.after fun _ => Yields.after fun _ => ?_
  split
  · split
    · exact once_canonical h (yields_ok.2 (result_canonical h))
    · exact yields_ok.2 (result_canonical h)
  · exact yields_error _ _
  · refine Yields.after fun _ => commits_canonical h fun t1 h3 => ?_
    split
    · exact once_canonical h3 (handOver_canonical h3)
    · exact handOver_canonical h3

theorem respond_canonical {s : State} {r : KReq} {status : Nat} {out : Option (Nat × List Byte)} (h : MemCanonical s) :
    MemCanonical (s.respond r status out) := by
  unfold State.respond
  extract_lets +onlyGivenNames waits s1
  extract_lets +onlyGivenNames s2
  have h3 : MemCanonical s2 := h
  clear_value s2
  split
  · exact h3
  · extract_lets +onlyGivenNames s3
    have h4 : MemCanonical s3 := by
      dsimp only [s3]
      split
      · exact writeNow_canonical h3
      · exact h3
    clear_value s3
    exact modAid_canonical h4

theorem ownInstall_canonical {s : State} (h : MemCanonical s) : Gives s.ownInstall MemCanonical := by
  unfold State.ownInstall
  dsimp only
  split
  · exact gives_some.2 (modLink_canonical h)
  · intro t ht
    obtain ⟨x, _, rfl⟩ := Option.map_eq_some_iff.1 ht
    exact modLink_canonical h

theorem ingress_canonical {s : State} {num set : Nat} {manifest : List Byte} (h : MemCanonical s) :
    MemCanonical (s.ingress num set manifest) := by
  unfold State.ingress
  dsimp only
  split <;> exact h

theorem invalidate_canonical {s : State} {asid lo hi : Nat} (h : MemCanonical s) : MemCanonical (s.invalidate asid lo hi) := h

theorem arm_canonical {s : State} {unit index : Nat} {loc count : Word32} (h : MemCanonical s) :
    MemCanonical (s.arm unit index loc count) := h

theorem zeroCounters_canonical {s : State} {core : Nat} (h : MemCanonical s) : MemCanonical (s.zeroCounters core) :=
  canonical_foldl (fun _ _ h1 => setCounter_canonical h1) h

theorem takeCores_canonical {s : State} {p : Nat} (h : MemCanonical s) : MemCanonical (s.takeCores p) :=
  canonical_foldl (fun _ _ h1 => modCore_canonical (zeroCounters_canonical h1)) h

theorem resumePart_canonical {s : State} {p : Nat} (h : MemCanonical s) : MemCanonical (s.resumePart p).1 := by
  unfold State.resumePart
  dsimp only
  split
  · exact h
  · split
    · exact modPart_canonical h
    · split
      · exact modPart_canonical (takeCores_canonical h)
      · exact h

theorem stopActs_canonical {s : State} {p : Nat} (h : MemCanonical s) : MemCanonical (s.stopActs p) := by
  unfold State.stopActs
  refine canonical_foldl (fun s a h => ?_) h
  split
  · exact preempt_canonical h
  · exact h

theorem dropWaiting_canonical {s : State} {p : Nat} (h : MemCanonical s) : MemCanonical (s.dropWaiting p) := h

theorem stopDone_canonical {s : State} {p : Nat} (h : MemCanonical s) : MemCanonical (s.stopDone p) :=
  canonical_foldl (fun _ _ h2 => modAid_canonical h2) (modPart_canonical (canonical_foldl (fun _ _ h1 => mergeDirty_canonical h1) h))

theorem clearCore_canonical {s : State} {core : Nat} (h : MemCanonical s) : MemCanonical (s.clearCore core) :=
  modCore_canonical (zeroCounters_canonical (wf_cells (m := s.mem) (wf_filter _ (wf_memory.1 h).1) rfl rfl h))

theorem clearPart_canonical {s : State} {p : Nat} (h : MemCanonical s) : MemCanonical (s.clearPart p).1 := by
  unfold State.clearPart
  split
  · exact h
  · exact modPart_canonical (canonical_foldl (fun _ _ h1 => clearCore_canonical h1) h)

end Sys2Proof.Machine
end


section
/-! O8, its parts: links and the host's ports keep memory canonical. -/

namespace Sys2Proof.Machine
open Sys2Proof.Safety

theorem keyFault_canonical {s : State} {die : Nat} (h : MemCanonical s) : MemCanonical (s.keyFault die) := h

theorem mergeSector_canonical {s : State} {gen addr : Nat} {w : WSector} (h : MemCanonical s) :
    MemCanonical (s.mergeSector gen addr w) := by
  unfold State.mergeSector
  dsimp only
  split <;> exact writeNow_canonical h

theorem putSector_canonical {s : State} {gen addr op : Nat} {w : WSector} (h : MemCanonical s) :
    MemCanonical (s.putSector gen addr op w) := by
  unfold State.putSector
  dsimp only
  split
  · exact wholeHalf_canonical (mergeSector_canonical h)
  · exact mergeSector_canonical h

theorem remoteWrite_canonical {s : State} {pkg addr : Nat} {key : Byte} {sectors : List WSector} {src seq : Nat} (h : MemCanonical s) :
    MemCanonical (s.remoteWrite pkg addr key sectors src seq) := by
  unfold State.remoteWrite
  split
  · exact transmit_canonical (keyFault_canonical h)
  · exact transmit_canonical (canonical_foldl (fun _ _ h1 => putSector_canonical (repair_canonical h1)) h)

theorem remoteRead_canonical {s : State} {pkg addr : Nat} {key : Byte} {len src seq : Nat} (h : MemCanonical s) :
    MemCanonical (s.remoteRead pkg addr key len src seq) := by
  unfold State.remoteRead
  split
  · rename_i t1 hx1
    have h1 : MemCanonical t1 := (readHbm_canonical (repair_canonical h)) _ hx1
    exact transmit_canonical h1
  · exact transmit_canonical (keyFault_canonical h)

theorem remoteAtomic_canonical {s : State} {pkg addr : Nat} {key : Byte} {op : BitVec 3} {narrow : Bool} {v c : Word} {src seq : Nat}
    (h : MemCanonical s) :
    MemCanonical (s.remoteAtomic pkg addr key op narrow v c src seq) := by
  unfold State.remoteAtomic
  extract_lets +onlyGivenNames w s1
  have h2 : MemCanonical s1 := repair_canonical h
  clear_value s1
  split
  · rename_i t1 _ hx1 _
    have h3 : MemCanonical t1 := readHbm_canonical h2 _ hx1
    extract_lets +onlyGivenNames old t
    have h5 : MemCanonical t := by
      dsimp only [t]
      split
      · split
        · exact h3
        · exact writeNow_canonical h3
      · exact h3
    clear_value t
    exact transmit_canonical h5
  · exact transmit_canonical (keyFault_canonical h2)

theorem logAnswer_canonical {s : State} {r : RemoteReq} {bs : List Byte} (h : MemCanonical s) : MemCanonical (s.logAnswer r bs) := by
  unfold State.logAnswer
  split
  · split
    · exact appendDirty_canonical h
    · exact h
  · exact h

theorem denied_canonical {s : State} {seq : Nat} (h : MemCanonical s) : MemCanonical (s.denied seq) := by
  unfold State.denied
  split
  · exact h
  · split
    · exact dropRemote_canonical h
    · exact killAnyway_canonical (dropRemote_canonical h)

theorem answered_canonical {s : State} {seq : Nat} {bs : List Byte} {poison : Bool} (h : MemCanonical s) :
    MemCanonical (s.answered seq bs poison) := by
  unfold State.answered
  split
  · exact h
  · extract_lets +onlyGivenNames s1
    have h1 : MemCanonical s1 := logAnswer_canonical h
    clear_value s1
    split
    · dsimp only
      split
      · exact killAnyway_canonical (note_canonical (dropRemote_canonical h1))
      · exact dropRemote_canonical h1
    · exact h1

theorem heard_canonical {s : State} {pkg : Nat} (h : MemCanonical s) : MemCanonical (s.heard pkg) := by
  unfold State.heard
  split <;> exact h

theorem deliverTx_canonical {s : State} {n pkg : Nat} {x : Transaction} (h : MemCanonical s) : MemCanonical (s.deliverTx n pkg x) := by
  unfold State.deliverTx
  split
  · exact remoteWrite_canonical h
  · exact remoteRead_canonical h
  · exact answered_canonical h
  · exact remoteAtomic_canonical h
  · exact answered_canonical h
  · exact canonical_foldl (fun _ _ h1 => answered_canonical h1) h
  · exact canonical_foldl (fun _ _ h2 => fly_canonical h2) h
  · exact fly_canonical h
  · exact fly_canonical h
  · exact heard_canonical h
  · exact denied_canonical h
  · exact h

theorem linkDown_canonical {s : State} {n : Nat} (h : MemCanonical s) : MemCanonical (s.linkDown n) :=
  canonical_foldl (fun _ _ h1 => transmit_canonical h1) (modLink_canonical (note_canonical h))

theorem sendWaiting_canonical {s : State} (h : MemCanonical s) : MemCanonical (s.sendWaiting) :=
  canonical_foldl (fun _ _ h1 => transmit_canonical h1) h

theorem flitFails_canonical {s : State} {n : Nat} (h : MemCanonical s) : MemCanonical (s.flitFails n) := by
  unfold State.flitFails
  extract_lets +onlyGivenNames s1 s2
  have h1 : MemCanonical s1 := note_canonical h
  clear_value s1
  have h2 : MemCanonical s2 := modLink_canonical h1
  clear_value s2
  split
  · exact h2
  · extract_lets +onlyGivenNames s3
    have h3 : MemCanonical s3 := modLink_canonical h2
    clear_value s3
    split
    · exact linkDown_canonical h3
    · exact h3

theorem deliverHeld_canonical {n fuel : Nat} {s : State} (h : MemCanonical s) : MemCanonical (State.deliverHeld n fuel s) := by
  induction fuel generalizing s with
  | zero => exact h
  | succ fuel ih =>
    unfold State.deliverHeld
    dsimp only
    split
    · exact h
    · refine ih ?_
      split
      · split
        · exact modLink_canonical h
        · exact deliverTx_canonical (modLink_canonical h)
      · exact modLink_canonical h

theorem takeFlit_canonical {s : State} {n : Nat} {f : Flit} (h : MemCanonical s) : Gives (s.takeFlit n f) MemCanonical := by
  unfold State.takeFlit
  split
  · exact gives_none _
  · split
    · exact gives_some.2 h
    · split
      · exact gives_some.2 (flitFails_canonical h)
      · extract_lets +onlyGivenNames s1 s2 l fresh s3
        have h1 : MemCanonical s1 := inject_canonical h
        clear_value s1
        have h2 : MemCanonical s2 := modLink_canonical h1
        clear_value s2
        have h5 : MemCanonical s3 := by
          dsimp only [s3]
          split
          · exact modLink_canonical h2
          · exact h2
        clear_value s3
        exact gives_some.2 (deliverHeld_canonical h5)

theorem signalLost_canonical {s : State} {pkg : Nat} {owner : Word} {die : Nat} {l : List LinkEntry} (h : MemCanonical s) :
    MemCanonical (s.signalLost pkg owner die l) := by
  unfold State.signalLost
  refine canonical_foldl (fun s a h => ?_) h
  extract_lets +onlyGivenNames send
  have h3 : ∀ x0, MemCanonical (send x0) := by
    intro _
    dsimp only [send]
    exact fly_canonical h
  clear_value send
  split
  · exact h3 _
  · exact h3 _
  · exact modLinks_canonical h

theorem discardTx_canonical {s : State} {l : List Transaction} (h : MemCanonical s) : MemCanonical (s.discardTx l) := by
  unfold State.discardTx
  refine canonical_foldl (fun s a h => ?_) h
  split
  · exact canonical_foldl (fun _ _ h3 => noActor_canonical h3) h
  · exact h

theorem cutOff_canonical {s : State} {pkg : Nat} (h : MemCanonical s) : MemCanonical (s.cutOff pkg) := discardTx_canonical h

theorem forget_canonical {s : State} {pkg : Nat} (h : MemCanonical s) : MemCanonical (s.forget pkg) :=
  discardTx_canonical (canonical_foldl (fun _ _ h1 => confirm_canonical h1) h)

theorem losePackage_canonical {s : State} {pkg : Nat} (h : MemCanonical s) : MemCanonical (s.losePackage pkg) :=
  forget_canonical (cutOff_canonical (canonical_foldl (fun _ _ h2 => signalLost_canonical h2) (canonical_foldl
    (fun _ _ h1 => signalLost_canonical h1) h)))

theorem loseActor_canonical {s : State} {a : Actor} (h : MemCanonical s) : MemCanonical (s.loseActor a) := by
  unfold State.loseActor
  split
  · exact h
  · exact exitAs_canonical (takeDown_canonical h)

theorem losePool_canonical {s : State} {die : Nat} {p : Pool} (h : MemCanonical s) : MemCanonical (s.losePool die p) := by
  unfold State.losePool
  extract_lets +onlyGivenNames members s1
  have h2 : MemCanonical s1 := modPool_canonical h
  clear_value s1
  split
  · extract_lets +onlyGivenNames s2
    have h3 : MemCanonical s2 := takeDown_canonical h2
    clear_value s2
    split
    · exact exitPoolAs_canonical h3
    · exact h3
  · exact h2

theorem dropDie_canonical {s : State} {die : Nat} (h : MemCanonical s) : MemCanonical (s.dropDie die) := h

theorem loseDie_canonical {s : State} {die : Nat} (h : MemCanonical s) : MemCanonical (s.loseDie die) :=
  settleLevels_canonical (dropDie_canonical (canonical_foldl (fun _ _ h2 => losePool_canonical h2) (canonical_foldl
    (fun _ _ h1 => loseActor_canonical h1) h)))

theorem modRxq_canonical {s : State} {p : Nat} {f : Rxq → Rxq} (h : MemCanonical s) : MemCanonical (s.modRxq p f) := h

theorem raiseVector_canonical {s : State} {p : Nat} (h : MemCanonical s) : MemCanonical (s.raiseVector p) := h

theorem enterRing_canonical {s : State} {p : Nat} {m : Msg} (h : MemCanonical s) : MemCanonical (s.enterRing p m) :=
  raiseVector_canonical (modRxq_canonical (writeNow_canonical h))

theorem drainRing_canonical {p : Nat} {l : List Msg} {s : State} (h : MemCanonical s) : MemCanonical (State.drainRing p l s) := by
  induction l generalizing s with
  | nil => exact modPart_canonical h
  | cons m l ih =>
    unfold State.drainRing
    split
    · exact modPart_canonical h
    · exact ih (enterRing_canonical h)

theorem refillRing_canonical {s : State} {p : Nat} (h : MemCanonical s) : MemCanonical (s.refillRing p) := drainRing_canonical h

theorem toHost_canonical {s : State} {die p : Nat} {m : Msg} (h : MemCanonical s) : MemCanonical (s.toHost die p m) := by
  unfold State.toHost
  dsimp only
  split
  · exact enterRing_canonical h
  · split
    · exact modPart_canonical h
    · exact noActor_canonical (raiseVector_canonical (modRxq_canonical h))

theorem hostRead_canonical {s : State} {page off : Nat} (h : MemCanonical s) : MemCanonical (s.hostRead page off) := by
  unfold State.hostRead
  split
  · exact h
  · split
    · split
      · exact respondHost_canonical h
      · exact h
    · split
      · split
        · exact respondHost_canonical h
        · exact h
      · exact h

theorem windowAccess_canonical {s : State} {port offset : Nat} {w : Nat × Nat} {write : Option (List Byte)} (h : MemCanonical s) :
    Gives (s.windowAccess port offset w write) MemCanonical := by
  unfold State.windowAccess
  dsimp only
  split
  · exact gives_none _
  · split
    · exact gives_some.2 (respondHost_canonical h)
    · split
      · split
        · split
          · exact gives_some.2 (respondHost_canonical (writeNow_canonical h))
          · exact gives_none _
        · exact gives_some.2 (keyFault_canonical h)
      · split
        · rename_i t1 hx1
          have h1 : MemCanonical t1 := (readHbm_canonical (repair_canonical h)) _ hx1
          exact gives_some.2 (respondHost_canonical h1)
        · exact gives_some.2 (keyFault_canonical h)

theorem peer_canonical {s : State} {port off : Nat} {write : Option (List Byte)} (h : MemCanonical s) :
    MemCanonical (s.peer port off write) := (windowAccess_canonical h).getD h

theorem modPort_canonical {s : State} {port : Nat} {f : PortConfig → PortConfig} (h : MemCanonical s) :
    MemCanonical (s.modPort port f) := by
  unfold State.modPort
  split <;> exact h

theorem barWrite_canonical {s : State} {port bar : Nat} {v : Word} (h : MemCanonical s) : MemCanonical (s.barWrite port bar v) :=
  modPort_canonical h

theorem msixWrite_canonical {s : State} {port vector : Nat} {e : MsixEntry} (h : MemCanonical s) :
    MemCanonical (s.msixWrite port vector e) := by
  unfold State.msixWrite
  split
  · exact h
  · exact modPort_canonical h

theorem calicoVector_canonical {s : State} {port vector : Nat} (h : MemCanonical s) : MemCanonical (s.calicoVector port vector) := by
  unfold State.calicoVector
  split <;> exact h

end Sys2Proof.Machine
end


section
/-! O8: each instruction and event keeps memory canonical. -/

namespace Sys2Proof.Machine
open Sys2Proof.Safety

theorem execJalr_canonical {s : State} {i : BitVec 12} {a d : BitVec 5} (h : MemCanonical s) : Ends (execJalr i a d s) :=
  run_canonical h (Yields.after fun _ => jumpLink_canonical h)

theorem execFenceRel_canonical {s : State} {m : BitVec 16} {r : BitVec 1} {sc : BitVec 4} (h : MemCanonical s) :
    Ends (execFenceRel m r sc s) := run_canonical h (Yields.after fun _ => yields_ok.2 (advance_canonical (fence_canonical h)))

theorem execFenceAcq_canonical {s : State} {m : BitVec 16} {r : BitVec 1} {sc : BitVec 4} (h : MemCanonical s) :
    Ends (execFenceAcq m r sc s) :=
  run_canonical h (Yields.after fun _ => yields_ok.2 (advance_canonical (modAct_canonical (settleAcquires_canonical h))))

theorem execFenceFull_canonical {s : State} {m : BitVec 16} {r : BitVec 1} {sc : BitVec 4} (h : MemCanonical s) :
    Ends (execFenceFull m r sc s) := by
  refine run_canonical h (Yields.after fun _ => ?_)
  exact yields_ok.2 (advance_canonical (modAct_canonical (settleAcquires_canonical (fence_canonical h))))

theorem execQfence_canonical {s : State} {q : BitVec 7} (h : MemCanonical s) : Ends (execQfence q s) := by
  refine run_canonical h ?_
  dsimp only
  exact Yields.after fun _ => yields_ok.2 (advance_canonical (canonical_foldl (fun _ _ h1 => enqueue_canonical h1) (fresh_canonical h)))

theorem execRdef_canonical {s : State} {b a : BitVec 5} {d : BitVec 4} (h : MemCanonical s) : Ends (execRdef b a d s) := by
  refine run_canonical h (Yields.after fun _ => Yields.after fun _ => Yields.after fun _ => Yields.after fun _ => ?_)
  exact yields_ok.2 (advance_canonical (setGuard_canonical h))

theorem execHdef_canonical {s : State} {a : BitVec 5} {d : BitVec 4} (h : MemCanonical s) : Ends (execHdef a d s) := by
  refine run_canonical h (Yields.after fun _ => Yields.after fun _ => (loadRecord_canonical h).bind ?_)
  rintro ⟨_, t1⟩ h1
  dsimp only
  split
  · exact yields_ok.2 h1
  · split
    · exact yields_kill _ _
    · exact yields_ok.2 (advance_canonical (setGuard_canonical h1))

theorem execRclr_canonical {s : State} {d : BitVec 4} (h : MemCanonical s) : Ends (execRclr d s) :=
  run_canonical h (Yields.after fun _ => yields_ok.2 (advance_canonical (setGuard_canonical h)))

theorem execRstat_canonical {s : State} {a d : BitVec 5} (h : MemCanonical s) : Ends (execRstat a d s) :=
  run_canonical h (Yields.after fun _ => yields_ok.2 (result_canonical h))

theorem execLdaq_canonical {s : State} {w : BitVec 1} {sc : BitVec 4} {b a d : BitVec 5} (h : MemCanonical s) :
    Ends (execLdaq w sc b a d s) := by
  refine run_canonical h (Yields.after fun _ => Yields.after fun _ => Yields.after fun _ => ?_)
  dsimp only
  refine (loadInto_canonical h).bind fun t1 h1 => yields_ok.2 ?_
  split
  · exact h1
  · exact modAct_canonical h1

theorem execStrl_canonical {s : State} {w : BitVec 1} {sc : BitVec 4} {b a d : BitVec 5} (h : MemCanonical s) :
    Ends (execStrl w sc b a d s) := by
  refine run_canonical h (Yields.after fun _ => Yields.after fun _ => Yields.after fun _ => Yields.after fun _ => ?_)
  extract_lets +onlyGivenNames n v p
  exact (issueStore_canonical h).bind fun t1 h4 => yields_ok.2 (advance_canonical h4)

theorem execMfs_canonical {s : State} {n : BitVec 12} {d : BitVec 5} (h : MemCanonical s) : Ends (execMfs n d s) := by
  refine run_canonical h ?_
  split
  · refine Yields.after fun _ => ?_
    split
    · exact yields_ok.2 (result_canonical h)
    · exact yields_kill _ _
  · extract_lets +onlyGivenNames go
    have h1 : ∀ x0, Yields (go x0) MemCanonical := by
      intro _
      dsimp only [go]
      split
      · exact yields_ok.2 (result_canonical h)
      · exact yields_kill _ _
    clear_value go
    split
    · exact Yields.after fun _ => h1 _
    · exact h1 _

theorem execMts_canonical {s : State} {n : BitVec 12} {a : BitVec 5} (h : MemCanonical s) : Ends (execMts n a s) := by
  refine run_canonical h ?_
  extract_lets +onlyGivenNames go
  have h1 : ∀ x0, Yields (go x0) MemCanonical := by
    intro _
    dsimp only [go]
    refine Yields.after fun _ => ?_
    split
    · exact (writePrivileged_canonical h).bind fun t1 h2 => yields_ok.2 (advance_canonical h2)
    · split
      · exact Yields.after fun _ => (writeUser_canonical h).bind fun t2 h3 => yields_ok.2 (advance_canonical h3)
      · exact (writeUser_canonical h).bind fun t3 h4 => yields_ok.2 (advance_canonical h4)
  clear_value go
  split
  · exact Yields.after fun _ => h1 _
  · exact h1 _

theorem execMox_canonical {s : State} {o : BitVec 3} {a : BitVec 5} (h : MemCanonical s) : Ends (execMox o a s) :=
  run_canonical h (Yields.after fun _ => yields_ok.2 (advance_canonical (modAct_canonical h)))

theorem execJobCtlWrite_canonical {s : State} {v : Word} (h : MemCanonical s) : Ends (execJobCtlWrite v s) := by
  unfold execJobCtlWrite
  split
  · exact run_canonical h (writePrivileged_canonical h)
  · exact ends_next h

theorem execPWdogWrite_canonical {s : State} {v : Word} (h : MemCanonical s) : Ends (execPWdogWrite v s) := by
  unfold execPWdogWrite
  split
  · exact run_canonical h (writePrivileged_canonical h)
  · exact ends_next h

theorem execExit_canonical {s : State} {a : BitVec 5} (h : MemCanonical s) : Ends (execExit a s) := by
  refine run_canonical h (Yields.after fun _ => Yields.after fun _ => ?_)
  split
  · split
    · exact yields_ok.2 (holdForDigest_canonical h)
    · split
      · exact yields_stall _
      · dsimp only
        exact (releaseAndEnd_canonical h).bind fun t1 h1 => yields_ok.2 (exitNormally_canonical h1)
  · split
    · exact yields_stall _
    · exact yields_ok.2 (takeDown_canonical h)

theorem execReply_canonical {s : State} {sc : BitVec 4} {a : BitVec 5} (h : MemCanonical s) : Ends (execReply sc a s) := by
  refine run_canonical h (Yields.after fun _ => Yields.after fun _ => (issue_canonical h).bind fun t1 h1 => ?_)
  exact yields_ok.2 (advance_canonical h1)

theorem execGive_canonical {s : State} {sc : BitVec 4} {m : BitVec 3} {a : BitVec 5} {n : BitVec 3} (h : MemCanonical s) :
    Ends (execGive sc m a n s) := by
  refine run_canonical h (Yields.after fun _ => ?_)
  dsimp only
  refine Yields.after fun _ => Yields.after fun _ => Yields.after fun _ => Yields.after fun _ => Yields.after fun _ => ?_
  refine (issue_canonical (dropRegionPorts_canonical (modRegion_canonical (checkPool_canonical h)))).bind fun t1 h1 => ?_
  exact yields_ok.2 (advance_canonical h1)

theorem execSendn_canonical {s : State} {sc : BitVec 4} {b a d : BitVec 5} (h : MemCanonical s) : Ends (execSendn sc b a d s) := by
  refine run_canonical h (Yields.after fun _ => Yields.after fun _ => Yields.after fun _ => Yields.after fun _ => ?_)
  dsimp only
  refine Yields.after fun _ => Yields.after fun _ => Yields.after fun _ => (issue_canonical h).bind fun t1 h1 => ?_
  exact yields_ok.2 (advance_canonical h1)

theorem execSendd_canonical {s : State} {sc : BitVec 4} {b a : BitVec 5} (h : MemCanonical s) : Ends (execSendd sc b a s) := by
  refine run_canonical h (Yields.after fun _ => Yields.after fun _ => Yields.after fun _ => Yields.after fun _ => ?_)
  dsimp only
  exact (issue_canonical h).bind fun t1 h1 => yields_ok.2 (advance_canonical h1)

theorem execDepset_canonical {s : State} {b a : BitVec 5} (h : MemCanonical s) : Ends (execDepset b a s) := by
  refine run_canonical h (Yields.after fun _ => Yields.after fun _ => Yields.after fun _ => Yields.after fun _ => commits_canonical h ?_)
  intro t1 h3
  exact once_canonical h3 (Yields.after fun _ => yields_ok.2 (advance_canonical (depSet_canonical h3)))

theorem execDepdec_canonical {s : State} {sc : BitVec 4} {b a : BitVec 5} (h : MemCanonical s) : Ends (execDepdec sc b a s) := by
  refine run_canonical h (Yields.after fun _ => Yields.after fun _ => Yields.after fun _ => commits_canonical h fun t1 h3 => ?_)
  exact (issue_canonical h3).bind fun t2 h4 => yields_ok.2 (advance_canonical h4)

theorem execCset_canonical {s : State} {h' : BitVec 1} {a c : BitVec 5} (h : MemCanonical s) : Ends (execCset h' a c s) :=
  run_canonical h (Yields.after fun _ => Yields.after fun _ => yields_ok.2 (advance_canonical (setCounter_canonical h)))

theorem execCaddl_canonical {s : State} {h' : BitVec 1} {a c : BitVec 5} (h : MemCanonical s) : Ends (execCaddl h' a c s) := by
  refine run_canonical h (Yields.after fun _ => Yields.after fun _ => ?_)
  exact yields_ok.2 (advance_canonical (addCounter_canonical (modAct_canonical h)))

theorem execWaitct_canonical {s : State} {h' : BitVec 1} {sc : BitVec 4} {d a c : BitVec 5} (h : MemCanonical s) :
    Ends (execWaitct h' sc d a c s) := by
  refine run_canonical h (Yields.after fun _ => Yields.after fun _ => Yields.after fun _ => Yields.after fun _ => ?_)
  dsimp only
  split
  · exact yields_ok.2 (result_canonical (modAct_canonical h))
  · split
    · split
      · exact yields_kill _ _
      · exact yields_ok.2 (result_canonical h)
    · exact yields_error _ _

theorem execKill_canonical {s : State} {b a : BitVec 5} (h : MemCanonical s) : Ends (execKill b a s) := by
  refine run_canonical h (Yields.after fun _ => Yields.after fun _ => ?_)
  extract_lets +onlyGivenNames r
  refine Yields.after fun _ => Yields.after fun _ => commits_canonical h fun t1 h4 => once_canonical h4 (Yields.after fun _ => ?_)
  split
  · exact yields_ok.2 (killActor_canonical h4)
  · exact yields_ok.2 (advance_canonical (fly_canonical h4))

theorem execLink_canonical {s : State} {a : BitVec 5} (h : MemCanonical s) : Ends (execLink a s) := by
  refine run_canonical h (Yields.after fun _ => Yields.after fun _ => ?_)
  dsimp only
  refine once_canonical h ?_
  split
  · exact yields_ok.2 (advance_canonical (noTarget_canonical h))
  · split
    · exact yields_ok.2 (advance_canonical h)
    · exact Yields.after fun _ => yields_ok.2 (advance_canonical (modLinks_canonical (modLinks_canonical h)))

theorem execUnlink_canonical {s : State} {a : BitVec 5} (h : MemCanonical s) : Ends (execUnlink a s) := by
  refine run_canonical h (Yields.after fun _ => Yields.after fun _ => ?_)
  dsimp only
  refine once_canonical h ?_
  split
  · exact yields_ok.2 (advance_canonical h)
  · exact yields_ok.2 (advance_canonical (modLinks_canonical (modLinks_canonical h)))

theorem execMon_canonical {s : State} {a d : BitVec 5} (h : MemCanonical s) : Ends (execMon a d s) := by
  refine run_canonical h (Yields.after fun _ => Yields.after fun _ => ?_)
  dsimp only
  refine once_canonical h ?_
  split
  · exact yields_ok.2 (result_canonical (noTarget_canonical h))
  · split
    · exact yields_ok.2 (result_canonical h)
    · split
      · exact yields_ok.2 (result_canonical h)
      · exact Yields.after fun _ => yields_ok.2 (result_canonical (modLinks_canonical (modLinks_canonical (freshRef_canonical h))))

theorem execDemon_canonical {s : State} {a : BitVec 5} (h : MemCanonical s) : Ends (execDemon a s) := by
  refine run_canonical h (Yields.after fun _ => Yields.after fun _ => ?_)
  dsimp only
  refine once_canonical h ?_
  split
  · exact yields_ok.2 (advance_canonical h)
  · exact yields_ok.2 (advance_canonical (modLinks_canonical (modLinks_canonical h)))

theorem execTrapx_canonical {s : State} {a : BitVec 5} (h : MemCanonical s) : Ends (execTrapx a s) := by
  refine run_canonical h (Yields.after fun _ => Yields.after fun _ => ?_)
  exact once_canonical h (yields_ok.2 (advance_canonical (modPool_canonical (modActor_canonical h))))

theorem execTimer_canonical {s : State} {a d : BitVec 5} (h : MemCanonical s) : Ends (execTimer a d s) := by
  refine run_canonical h (Yields.after fun _ => Yields.after fun _ => ?_)
  extract_lets +onlyGivenNames me
  refine Yields.after fun _ => commits_canonical h fun t1 h4 => once_canonical h4 ?_
  dsimp -zeta only
  extract_lets +onlyGivenNames s1
  have h5 : MemCanonical s1 := by
    dsimp only [s1]
    split
    · exact hardSend_canonical (freshRef_canonical h4)
    · exact modTimers_canonical (freshRef_canonical h4)
  clear_value s1
  exact yields_ok.2 (result_canonical h5)

theorem execTcan_canonical {s : State} {a d : BitVec 5} (h : MemCanonical s) : Ends (execTcan a d s) := by
  refine run_canonical h (Yields.after fun _ => Yields.after fun _ => ?_)
  dsimp only
  refine once_canonical h ?_
  split
  · exact yields_ok.2 (result_canonical (modTimers_canonical h))
  · exact yields_ok.2 (result_canonical h)

theorem execLvl_canonical {s : State} {b a d : BitVec 5} (h : MemCanonical s) : Ends (execLvl b a d s) := by
  refine run_canonical h (Yields.after fun _ => Yields.after fun _ => Yields.after fun _ => ?_)
  exact once_canonical h (yields_ok.2 (result_canonical (settleLevels_canonical h)))

theorem execCancel_canonical {s : State} {b a : BitVec 5} (h : MemCanonical s) : Ends (execCancel b a s) := by
  refine run_canonical h (Yields.after fun _ => Yields.after fun _ => Yields.after fun _ => commits_canonical h fun t1 h3 => ?_)
  refine once_canonical h3 (Yields.after fun _ => ?_)
  extract_lets +onlyGivenNames t
  have h4 : MemCanonical t := cancel_canonical h3
  clear_value t
  refine yields_ok.2 ?_
  split
  · exact advance_canonical h4
  · exact h4

theorem execNamereg_canonical {s : State} {a d : BitVec 5} (h : MemCanonical s) : Ends (execNamereg a d s) := by
  refine run_canonical h (Yields.after fun _ => Yields.after fun _ => commits_canonical h fun t1 h3 => ?_)
  extract_lets +onlyGivenNames me
  split
  · exact yields_ok.2 (result_canonical h3)
  · split <;> exact yields_ok.2 (result_canonical h3)

theorem execWhereIs_canonical {s : State} {a d : BitVec 5} (h : MemCanonical s) : Ends (execWhereIs a d s) := by
  refine run_canonical h (Yields.after fun _ => ?_)
  dsimp only
  split
  · exact yields_ok.2 (result_canonical h)
  · split
    · exact yields_ok.2 (result_canonical h)
    · split <;> exact yields_ok.2 (result_canonical h)

theorem execPart_canonical {s : State} {b a d : BitVec 5} (h : MemCanonical s) : Ends (execPart b a d s) :=
  run_canonical h (Yields.after fun _ => Yields.after fun _ => Yields.after fun _ => yields_ok.2 (result_canonical h))

theorem execRnew_canonical {s : State} {n : BitVec 3} (h : MemCanonical s) : Ends (execRnew n s) := by
  refine run_canonical h ?_
  dsimp only
  refine Yields.after fun _ => Yields.after fun _ => ?_
  exact yields_ok.2 (advance_canonical (modRegion_canonical (dropRegionPorts_canonical (zeroPool_canonical h))))

theorem execTload_canonical {s : State} {q : BitVec 2} {b a : BitVec 5} {d : BitVec 4} (h : MemCanonical s) :
    Ends (execTload q b a d s) := by
  refine run_canonical h (Yields.after fun _ => Yields.after fun _ => Yields.after fun _ => Yields.after fun _ => Yields.after fun _ => ?_)
  refine Yields.after fun _ => Yields.after fun _ => Yields.after fun _ => (issueEntry_canonical h).bind fun t1 h1 => ?_
  exact yields_ok.2 (advance_canonical h1)

theorem execTstore_canonical {s : State} {q : BitVec 2} {b a : BitVec 5} {d : BitVec 4} (h : MemCanonical s) :
    Ends (execTstore q b a d s) := by
  refine run_canonical h (Yields.after fun _ => Yields.after fun _ => Yields.after fun _ => Yields.after fun _ => Yields.after fun _ => ?_)
  refine Yields.after fun _ => Yields.after fun _ => Yields.after fun _ => Yields.after fun _ => ?_
  extract_lets +onlyGivenNames conv
  exact (issueEntry_canonical h).bind fun t1 h2 => yields_ok.2 (advance_canonical h2)

theorem execPush_canonical {s : State} {q : BitVec 3} {b a : BitVec 5} {d : BitVec 4} (h : MemCanonical s) : Ends (execPush q b a d s) := by
  refine run_canonical h (Yields.after fun _ => Yields.after fun _ => Yields.after fun _ => Yields.after fun _ => Yields.after fun _ => ?_)
  refine Yields.after fun _ => ?_
  dsimp only
  refine Yields.after fun _ => Yields.after fun _ => Yields.after fun _ => (issueEntry_canonical h).bind fun t1 h1 => ?_
  exact yields_ok.2 (advance_canonical h1)

theorem execPushr_canonical {s : State} {q : BitVec 3} {b a : BitVec 5} (h : MemCanonical s) : Ends (execPushr q b a s) := by
  refine run_canonical h (Yields.after fun _ => Yields.after fun _ => Yields.after fun _ => Yields.after fun _ => Yields.after fun _ => ?_)
  refine Yields.after fun _ => Yields.after fun _ => ?_
  dsimp only
  refine Yields.after fun _ => Yields.after fun _ => Yields.after fun _ => (issueEntry_canonical h).bind fun t1 h1 => ?_
  exact yields_ok.2 (advance_canonical h1)

theorem execGather_canonical {s : State} {b a : BitVec 5} {d : BitVec 4} (h : MemCanonical s) : Ends (execGather b a d s) := by
  refine run_canonical h (Yields.after fun _ => Yields.after fun _ => Yields.after fun _ => Yields.after fun _ => Yields.after fun _ => ?_)
  refine Yields.after fun _ => Yields.after fun _ => Yields.after fun _ => (issueEntry_canonical h).bind fun t1 h1 => ?_
  exact yields_ok.2 (advance_canonical h1)

theorem execScatter_canonical {s : State} {b a : BitVec 5} {d : BitVec 4} (h : MemCanonical s) : Ends (execScatter b a d s) := by
  refine run_canonical h (Yields.after fun _ => Yields.after fun _ => Yields.after fun _ => Yields.after fun _ => Yields.after fun _ => ?_)
  refine Yields.after fun _ => Yields.after fun _ => ?_
  extract_lets +onlyGivenNames conv
  exact Yields.after fun _ => (issueEntry_canonical h).bind fun t1 h2 => yields_ok.2 (advance_canonical h2)

theorem execArm_canonical {s : State} {a : BitVec 5} {d : BitVec 4} (h : MemCanonical s) : Ends (execArm a d s) := by
  refine run_canonical h (Yields.after fun _ => Yields.after fun _ => ?_)
  dsimp only
  exact Yields.after fun _ => Yields.after fun _ => yields_ok.2 (advance_canonical (modCore_canonical h))

theorem execFcvti_canonical {s : State} {w u : BitVec 1} {r : BitVec 3} {a d : BitVec 5} (h : MemCanonical s) :
    Ends (execFcvti w u r a d s) :=
  run_canonical h (Yields.after fun _ => yields_ok.2 (result_canonical (setFlags_canonical (drawn_canonical h))))

theorem execScfg_canonical {s : State} {n : BitVec 2} (h : MemCanonical s) : Ends (execScfg n s) := by
  refine run_canonical h (Yields.after fun _ => Yields.after fun _ => Yields.after fun _ => Yields.after fun _ => ?_)
  dsimp only
  refine Yields.after fun _ => Yields.after fun _ => Yields.after fun _ => Yields.after fun _ => ?_
  exact yields_ok.2 (advance_canonical (setStream_canonical h))

theorem execSbind_canonical {s : State} {n : BitVec 2} (h : MemCanonical s) : Ends (execSbind n s) := by
  refine run_canonical h ?_
  dsimp only
  exact Yields.after fun _ => yields_ok.2 (advance_canonical (setStream_canonical h))

theorem execSunb_canonical {s : State} {n : BitVec 2} (h : MemCanonical s) : Ends (execSunb n s) := by
  refine run_canonical h ?_
  dsimp only
  split
  · exact yields_ok.2 (advance_canonical (modAct_canonical (setStream_canonical h)))
  · exact yields_ok.2 (advance_canonical h)

theorem execSwait_canonical {s : State} {n : BitVec 2} (h : MemCanonical s) : Ends (execSwait n s) := by
  refine run_canonical h ?_
  dsimp only
  exact Yields.after fun _ => yields_ok.2 (advance_canonical h)

theorem execEflags_canonical {s : State} {k : BitVec 5} {q : BitVec 1} (h : MemCanonical s) : Ends (execEflags k q s) := by
  refine run_canonical h (estream_canonical h fun t1 h4 => ?_)
  dsimp only
  exact Yields.after fun _ => yields_ok.2 (modAct_canonical h4)

theorem execVcvt_canonical {s : State} {p : BitVec 1} {t : BitVec 4} {r : BitVec 3} {a d : BitVec 5} (h : MemCanonical s) :
    Ends (execVcvt p t r a d s) := run_canonical h (estream_canonical h fun _ h4 => Yields.after fun _ => narrowing_canonical h4)

theorem execVcvtWide_canonical {s : State} {p : BitVec 1} {t : BitVec 4} {r : BitVec 3} {a d : BitVec 5} (h : MemCanonical s) :
    Ends (execVcvtWide p t r a d s) := run_canonical h (estream_canonical h fun _ h4 => Yields.after fun _ => widening_canonical h4)

theorem execVcvts_canonical {s : State} {p : BitVec 1} {t : BitVec 4} {b a d : BitVec 5} (h : MemCanonical s) :
    Ends (execVcvts p t b a d s) := run_canonical h (estream_canonical h fun _ h4 => Yields.after fun _ => narrowing_canonical h4)

theorem execVmxq_canonical {s : State} {t : BitVec 4} {b a d : BitVec 5} (h : MemCanonical s) : Ends (execVmxq t b a d s) := by
  refine run_canonical h (estream_canonical h fun u hu => Yields.after fun mode => (sources_canonical hu).bind ?_)
  rintro ⟨vals, v⟩ hv
  replace hv : MemCanonical v := hv
  have hrow : ∀ (x : State) (r n : Nat) all none_ elems scales, MemCanonical x →
      Yields (if r = n then x.writeElems r (typeWidth t.toNat) all none_ elems else x.writeElems r 8 all none_ scales) MemCanonical := by
    intro x r n all none_ elems scales hx
    split <;> exact writeElems_canonical hx
  refine (hrow _ _ _ _ _ _ _ hv).bind fun x hx => (hrow _ _ _ _ _ _ _ hx).bind fun y hy => ?_
  exact yields_ok.2 (setEFlags_canonical (drawn_canonical hy))

theorem execVmxd_canonical {s : State} {t : BitVec 4} {b a d : BitVec 5} (h : MemCanonical s) : Ends (execVmxd t b a d s) :=
  run_canonical h (estream_canonical h fun _ h4 => Yields.after fun _ => widening_canonical h4)

theorem execSfuRequestService_canonical {s : State} {cluster : Nat} (h : MemCanonical s) : Ends (execSfuRequestService cluster s) := by
  refine event_canonical h ?_
  split
  · exact gives_none _
  · dsimp only
    exact gives_some.2 h

theorem execVrsum_canonical {s : State} {p : BitVec 1} {t : BitVec 4} {a d : BitVec 5} (h : MemCanonical s) :
    Ends (execVrsum p t a d s) := by
  refine run_canonical h (estream_canonical h fun t1 h4 => ?_)
  split
  · exact Yields.after fun _ => reduceOp_canonical h4
  · exact reduceOp_canonical h4

theorem execVtoq_canonical {s : State} {w : BitVec 4} {a : BitVec 5} {q : BitVec 1} (h : MemCanonical s) : Ends (execVtoq w a q s) := by
  refine run_canonical h (estream_canonical h fun t1 h4 => ?_)
  dsimp only
  refine Yields.after fun _ => (sources_canonical h4).bind ?_
  rintro ⟨_, t2⟩ h5
  dsimp only
  exact yields_ok.2 (modAct_canonical h5)

theorem execPtobq_canonical {s : State} {l : BitVec 1} {a : BitVec 3} (h : MemCanonical s) : Ends (execPtobq l a s) :=
  run_canonical h (estream_canonical h fun _ h4 => Yields.after fun _ => yields_ok.2 (modAct_canonical h4))

theorem execMldw_canonical {s : State} {f a : BitVec 5} {w : BitVec 1} (h : MemCanonical s) : Ends (execMldw f a w s) := by
  refine run_canonical h (Yields.after fun _ => Yields.after fun _ => Yields.after fun _ => Yields.after fun _ => Yields.after fun _ => ?_)
  refine Yields.after fun _ => ?_
  dsimp only
  exact Yields.after fun _ => Yields.after fun _ => issueMatrix_canonical h (fun _ h1 => claimBuf_canonical h1)

theorem execMzero_canonical {s : State} {d : BitVec 4} (h : MemCanonical s) : Ends (execMzero d s) :=
  run_canonical h (Yields.after fun _ => Yields.after fun _ => issueMatrix_canonical h (fun _ h1 => claim_canonical h1))

theorem execMstore_canonical {s : State} {f a : BitVec 5} {d : BitVec 4} (h : MemCanonical s) : Ends (execMstore f a d s) := by
  refine run_canonical h (Yields.after fun _ => Yields.after fun _ => Yields.after fun _ => Yields.after fun _ => Yields.after fun _ => ?_)
  refine Yields.after fun _ => Yields.after fun _ => ?_
  dsimp only
  refine Yields.after fun _ => Yields.after fun _ => Yields.after fun _ => Yields.after fun _ => Yields.after fun _ => ?_
  refine Yields.after fun _ => (issueMatrix_canonical h (fun _ h1 => claim_canonical h1)).bind fun t1 h2 => yields_ok.2 ?_
  split
  · exact modAct_canonical h2
  · exact h2

theorem execMmas_canonical {s : State} {f a : BitVec 5} {d : BitVec 4} (h : MemCanonical s) : Ends (execMmas f a d s) := by
  refine run_canonical h (Yields.after fun _ => ?_)
  dsimp only
  refine Yields.after fun _ => Yields.after fun _ => Yields.after fun _ => Yields.after fun _ => Yields.after fun _ => ?_
  refine Yields.after fun _ => Yields.after fun _ => Yields.after fun _ => Yields.after fun _ => Yields.after fun _ => ?_
  exact Yields.after fun _ => Yields.after fun _ => Yields.after fun _ => issueMatrix_canonical h (fun _ h1 => claim_canonical h1)

theorem execMtopk_canonical {s : State} {b : BitVec 4} {a : BitVec 5} {d : BitVec 4} (h : MemCanonical s) : Ends (execMtopk b a d s) := by
  refine run_canonical h (Yields.after fun _ => Yields.after fun _ => Yields.after fun _ => Yields.after fun _ => ?_)
  dsimp only
  exact Yields.after fun _ => issueMatrix_canonical h (fun _ h1 => claim_canonical h1)

theorem execMtkr_canonical {s : State} {a : BitVec 5} {d : BitVec 4} (h : MemCanonical s) : Ends (execMtkr a d s) := by
  refine run_canonical h (Yields.after fun _ => Yields.after fun _ => Yields.after fun _ => Yields.after fun _ => Yields.after fun _ => ?_)
  refine Yields.after fun _ => Yields.after fun _ => ?_
  dsimp only
  exact Yields.after fun _ => Yields.after fun _ => issueMatrix_canonical h (fun _ h1 => claim_canonical h1)

theorem execMscl_canonical {s : State} {r : BitVec 1} {a : BitVec 5} {d : BitVec 4} (h : MemCanonical s) : Ends (execMscl r a d s) := by
  refine run_canonical h (Yields.after fun _ => Yields.after fun _ => Yields.after fun _ => ?_)
  extract_lets +onlyGivenNames go
  have h1 : ∀ x0, Yields (go x0) MemCanonical := by
    intro _
    dsimp only [go]
    exact issueMatrix_canonical h (fun _ h2 => claim_canonical h2)
  clear_value go
  extract_lets +onlyGivenNames go1
  have h3 : ∀ x0, Yields (go1 x0) MemCanonical := by
    intro _
    dsimp only [go1]
    split
    · exact Yields.after fun _ => h1 _
    · exact h1 _
  clear_value go1
  split
  · exact Yields.after fun _ => h3 _
  · exact h3 _

theorem execMstat_canonical {s : State} {c : BitVec 1} {b : BitVec 4} {d : BitVec 5} (h : MemCanonical s) : Ends (execMstat c b d s) := by
  refine run_canonical h (Yields.after fun _ => Yields.after fun _ => ?_)
  extract_lets +onlyGivenNames core
  refine Yields.after fun _ => ?_
  extract_lets +onlyGivenNames mine v s1
  have h4 : MemCanonical s1 := by
    dsimp only [s1]
    split
    · exact modAct_canonical (modCore_canonical h)
    · exact h
  clear_value s1
  exact yields_ok.2 (result_canonical h4)

theorem execMchk_canonical {s : State} {d : BitVec 4} (h : MemCanonical s) : Ends (execMchk d s) :=
  run_canonical h (Yields.after fun _ => Yields.after fun _ => issueMatrix_canonical h (fun _ h1 => claim_canonical h1))

theorem execMcorr_canonical {s : State} {d : BitVec 4} (h : MemCanonical s) : Ends (execMcorr d s) :=
  run_canonical h (Yields.after fun _ => Yields.after fun _ => issueMatrix_canonical h (fun _ h1 => claim_canonical h1))

theorem execMacc_canonical {s : State} {b d : BitVec 4} (h : MemCanonical s) : Ends (execMacc b d s) :=
  run_canonical h (Yields.after fun _ => Yields.after fun _ => issueMatrix_canonical h (fun _ h1 => claim_canonical h1))

theorem execMlda_canonical {s : State} {f : BitVec 1} {a : BitVec 5} {d : BitVec 4} (h : MemCanonical s) : Ends (execMlda f a d s) := by
  refine run_canonical h (Yields.after fun _ => Yields.after fun _ => Yields.after fun _ => Yields.after fun _ => Yields.after fun _ => ?_)
  refine Yields.after fun _ => Yields.after fun _ => ?_
  dsimp only
  exact Yields.after fun _ => issueMatrix_canonical h (fun _ h1 => claim_canonical h1)

theorem execMessageArrival_canonical {s : State} {flight : Nat} (h : MemCanonical s) : Ends (execMessageArrival flight s) := by
  refine event_canonical h (Gives.after fun _ => ?_)
  split
  · exact (arrive_canonical h).map fun _ ht => settleLevels_canonical ht
  · exact gives_none _

theorem execMailboxRefill_canonical {s : State} {core : Nat} (h : MemCanonical s) : Ends (execMailboxRefill core s) := by
  refine event_canonical h ?_
  extract_lets +onlyGivenNames go
  extract_lets +onlyGivenNames go1
  have h2 : ∀ x0, Gives (go1 x0) MemCanonical := by
    intro _
    dsimp only [go1]
    exact gives_some.2 (modActor_canonical h)
  clear_value go1
  split <;> exact Gives.after fun _ => h2 _

theorem execDispatch_canonical {s : State} {core : Nat} (h : MemCanonical s) : Ends (execDispatch core s) := by
  refine event_canonical h (Gives.after fun _ => ?_)
  split
  · exact gives_some.2 (dropLate_canonical h)
  · split
    · exact gives_some.2 (start_canonical h)
    · refine Gives.after fun _ => ?_
      split
      · exact gives_some.2 (start_canonical (preempt_canonical h))
      · exact gives_none _

theorem execMmasRendezvous_canonical {s : State} {die span tag : Nat} (h : MemCanonical s) : Ends (execMmasRendezvous die span tag s) := by
  refine event_canonical h (Gives.after fun _ => ?_)
  dsimp only
  split
  · exact gives_some.2 (canonical_foldl (fun _ _ h1 => modHead_canonical h1) h)
  · exact gives_some.2 (canonical_foldl (fun _ _ h3 => killAnyway_canonical h3) (canonical_foldl (fun _ _ h2 => dropHead_canonical h2) h))

theorem execMmacGateMet_canonical {s : State} {core : Nat} (h : MemCanonical s) : Ends (execMmacGateMet core s) := by
  refine event_canonical h (Gives.after fun _ => ?_)
  split
  · split
    · exact gives_some.2 (modHead_canonical h)
    · exact gives_none _
  · exact gives_none _

theorem execPushSectorArrival_canonical {s : State} {flight : Nat} (h : MemCanonical s) : Ends (execPushSectorArrival flight s) :=
  event_canonical h (Gives.after fun _ => landPush_canonical h)

theorem execPushrSectorLanding_canonical {s : State} {flight : Nat} (h : MemCanonical s) : Ends (execPushrSectorLanding flight s) :=
  event_canonical h (Gives.after fun _ => landPushr_canonical h)

theorem execWritePerformed_canonical {s : State} {write die : Nat} (h : MemCanonical s) : Ends (execWritePerformed write die s) := by
  refine event_canonical h (Gives.after fun _ => ?_)
  split
  · exact gives_none _
  · refine gives_some.2 ?_
    split
    · exact performPush_canonical h
    · split
      · exact perform_canonical h
      · exact turnAway_canonical h

theorem execDirtyLogMerge_canonical {s : State} {core : Nat} (h : MemCanonical s) : Ends (execDirtyLogMerge core s) := by
  refine event_canonical h ?_
  split
  · exact gives_some.2 (mergeDirty_canonical h)
  · exact gives_none _

theorem execFaultreply_canonical {s : State} {flight : Nat} (h : MemCanonical s) : Ends (execFaultreply flight s) := by
  refine event_canonical h (Gives.after fun _ => ?_)
  split
  · split
    · exact gives_some.2 (answer_canonical (removeFlight_canonical h))
    · exact gives_none _
  · exact gives_none _

theorem execEvictionComplete_canonical {s : State} {entry set : Nat} (h : MemCanonical s) : Ends (execEvictionComplete entry set s) := by
  refine event_canonical h (Gives.after fun _ => ?_)
  dsimp only
  split
  · exact gives_none _
  · refine gives_some.2 ?_
    split
    · exact wantSet_canonical (modSet_canonical (canonical_foldl (fun _ _ h1 => reserve_canonical h1) h))
    · exact modSet_canonical (canonical_foldl (fun _ _ h2 => reserve_canonical h2) h)

theorem execExpertFetchStart_canonical {s : State} {die entry set : Nat} (h : MemCanonical s) :
    Ends (execExpertFetchStart die entry set s) := by
  refine event_canonical h (Gives.after fun _ => ?_)
  dsimp only
  refine Gives.after fun _ => ?_
  split
  · exact gives_none _
  · split
    · exact gives_some.2 (sendReads_canonical (modSet_canonical h))
    · split
      · exact gives_none _
      · exact Gives.after fun _ => gives_some.2 (evict_canonical h)

theorem execExpertFetchComplete_canonical {s : State} {entry set : Nat} {outcome : FetchEnd} (h : MemCanonical s) :
    Ends (execExpertFetchComplete entry set outcome s) := by
  refine event_canonical h (Gives.after fun _ => Gives.after fun _ => ?_)
  dsimp only
  split
  · exact gives_some.2 (settleLevels_canonical (fetchFails_canonical h))
  · split
    · exact gives_none _
    · split
      · split
        · exact gives_none _
        · exact gives_some.2 (settleLevels_canonical (fetchFails_canonical h))
      · split
        · exact gives_some.2 (settleLevels_canonical (fetchFails_canonical h))
        · exact gives_some.2 (sendReads_canonical (dropReads_canonical h))
      · split
        · exact gives_some.2 (settleLevels_canonical (fetchFails_canonical h))
        · split
          · exact gives_some.2 (settleLevels_canonical (fetchLands_canonical h))
          · exact gives_some.2 (settleLevels_canonical (fetchFails_canonical h))

theorem copied_canonical {s : State} {gen a : Nat} {bs : List Byte} {poison : Bool} {c : Nat × Nat × Nat × Nat} {n set : Nat}
    {f : WSet → WSet}
    {e : ExpEntry} {w : WSet} {key : Option Byte} (h : MemCanonical s) :
    MemCanonical ((((s.writeNow gen a bs poison).dropCopy c).modSet n set f).mapWindow e w key) :=
  mapWindow_canonical (modSet_canonical (canonical_congr (writeNow_canonical h) rfl))

theorem dropCopy_canonical {s : State} {c : Nat × Nat × Nat × Nat} (h : MemCanonical s) : MemCanonical (s.dropCopy c) := h

theorem execReplicaCopyComplete_canonical {s : State} {entry set die : Nat} (h : MemCanonical s) :
    Ends (execReplicaCopyComplete entry set die s) := by
  refine event_canonical h (Gives.after fun e => Gives.after fun c => ?_)
  extract_lets +onlyGivenNames w home key s1
  have hr : MemCanonical s1 := repair_canonical h
  clear_value s1
  split
  · rename_i hx _
    exact gives_some.2 (copied_canonical (readHbm_canonical hr _ hx))
  · exact gives_some.2 (dropCopy_canonical (c := c) hr)

theorem execExpertMessageArrival_canonical {s : State} {flight : Nat} (h : MemCanonical s) : Ends (execExpertMessageArrival flight s) := by
  refine event_canonical h (Gives.after fun _ => Gives.after fun _ => ?_)
  split
  · exact gives_none _
  · split
    · split
      · exact gives_none _
      · exact gives_some.2 (settleLevels_canonical (expertArrive_canonical (removeFlight_canonical h)))
    · extract_lets +onlyGivenNames total step rest
      extract_lets +onlyGivenNames rest1
      have h4 : MemCanonical rest1 := by
        dsimp only [rest1]
        split
        · exact h
        · exact removeFlight_canonical h
      clear_value rest1
      exact gives_some.2 (settleLevels_canonical (expertArrive_canonical h4))
    · exact gives_none _

theorem execRoute_canonical {s : State} {sc : BitVec 4} {a d : BitVec 5} (h : MemCanonical s) : Ends (execRoute sc a d s) := by
  refine run_canonical h ?_
  split
  · split
    · exact routeGo_canonical h
    · exact once_canonical h (routeGo_canonical h)
  · refine Yields.after fun _ => Yields.after fun _ => ?_
    dsimp -zeta only
    extract_lets +onlyGivenNames o p6 go
    have h3 : ∀ x0, MemCanonical x0 → Yields (go x0) MemCanonical := by
      intro t1 h4
      dsimp only [go]
      refine Yields.after fun _ => (routeBegin_canonical h4).bind ?_
      rintro ⟨_, _, t2⟩ h5
      dsimp only
      exact routeGo_canonical (modAct_canonical h5)
    clear_value go
    split
    · split
      · split
        · exact yields_ok.2 (advance_canonical h)
        · exact h3 _ h
      · exact (stage_canonical h).bind fun t3 h6 => yields_ok.2 (advance_canonical h6)
    · exact commits_canonical h (fun _ h7 => once_canonical h7 (h3 _ h7))

theorem execErq_canonical {s : State} {a d : BitVec 5} (h : MemCanonical s) : Ends (execErq a d s) :=
  run_canonical h (Yields.after fun _ => Yields.after fun _ => Yields.after fun _ => yields_ok.2 (result_canonical h))

theorem execEpin_canonical {s : State} {a : BitVec 5} (h : MemCanonical s) : Ends (execEpin a s) := by
  refine run_canonical h (Yields.after fun _ => Yields.after fun _ => Yields.after fun _ => Yields.after fun _ => commits_canonical h ?_)
  intro t1 h3
  refine once_canonical h3 (Yields.after fun _ => Yields.after fun _ => ?_)
  exact yields_ok.2 (advance_canonical (wantSet_canonical (modEntry_canonical h3)))

theorem execEunpin_canonical {s : State} {a : BitVec 5} (h : MemCanonical s) : Ends (execEunpin a s) := by
  refine run_canonical h (Yields.after fun _ => Yields.after fun _ => Yields.after fun _ => commits_canonical h fun t1 h3 => ?_)
  exact once_canonical h3 (Yields.after fun _ => yields_ok.2 (advance_canonical (modEntry_canonical h3)))

theorem execWset_canonical {s : State} {a : BitVec 5} (h : MemCanonical s) : Ends (execWset a s) := by
  refine run_canonical h (Yields.after fun _ => Yields.after fun _ => ?_)
  dsimp only
  refine Yields.after fun _ => Yields.after fun _ => commits_canonical h fun t1 h3 => ?_
  exact once_canonical h3 (Yields.after fun _ => (weightSet_canonical h3).bind fun t2 h4 => yields_ok.2 (advance_canonical h4))

theorem execEloadc_canonical {s : State} {t : BitVec 1} {a d : BitVec 5} (h : MemCanonical s) : Ends (execEloadc t a d s) := by
  refine run_canonical h (Yields.after fun _ => Yields.after fun _ => Yields.after fun _ => ?_)
  split
  · exact yields_ok.2 (result_canonical h)
  · exact commits_canonical h fun t1 h3 => once_canonical h3 (Yields.after fun _ => yields_ok.2 (result_canonical (modEntry_canonical h3)))

theorem execExpertTableWrite_canonical {s : State} {target : TableTarget} {data : List Word} (h : MemCanonical s) :
    Ends (execExpertTableWrite target data s) := by
  unfold execExpertTableWrite
  split
  · exact ends_next h
  · refine run_canonical h (yields_ok.2 (tableAnswer_canonical h ?_))
    split
    · exact writeEntry_canonical h
    · exact writeModel_canonical h
    · exact writeRange_canonical h

theorem execSpawn_canonical {s : State} {t : BitVec 1} {a d : BitVec 5} (h : MemCanonical s) : Ends (execSpawn t a d s) := by
  refine run_canonical h (Yields.after fun _ => Yields.after fun _ => ?_)
  extract_lets +onlyGivenNames w
  refine (readImage_canonical h).bind ?_
  rintro ⟨_, t1⟩ h2
  dsimp -zeta only
  split
  · exact yields_ok.2 h2
  · refine commits_canonical h2 fun t2 h5 => once_canonical h5 ?_
    extract_lets +onlyGivenNames job mine name busy
    split
    · split
      · exact yields_ok.2 (result_canonical (modAct_canonical (dropKept_canonical h5)))
      · exact yields_kill _ _
    · extract_lets +onlyGivenNames keep
      have h10 : ∀ x0, MemCanonical x0 → MemCanonical (keep x0) := by
        intro t3 h11
        dsimp only [keep]
        exact modAct_canonical h11
      clear_value keep
      split
      · exact stopped_canonical (h10 _ h5)
      · rename_i t4 hx1
        have h12 : MemCanonical t4 := readPieces_canonical h5 _ hx1
        exact yields_ok.2 (h10 _ h12)
      · rename_i t5 hx2
        have h13 : MemCanonical t5 := readPieces_canonical h5 _ hx2
        exact yields_ok.2 (result_canonical (modAct_canonical (resendFaults_canonical (dropKept_canonical (modLinks_canonical
          (modLinks_canonical (putActor_canonical (setLastDie_canonical (setInc_canonical (canonical_foldl
          (fun _ _ h14 => fillRoom_canonical h14) h13))))))))))

theorem execRestartPlacement_canonical {s : State} {sup : Word} {child : Nat} (h : MemCanonical s) :
    Ends (execRestartPlacement sup child s) := by
  refine event_canonical h (Gives.after fun _ => Gives.after fun _ => placeChild_canonical ?_)
  split
  · exact markRestarting_canonical h
  · exact h

theorem execSupv_canonical {s : State} {a : BitVec 5} (h : MemCanonical s) : Ends (execSupv a s) := by
  refine run_canonical h (Yields.after fun _ => Yields.after fun _ => Yields.after fun _ => ?_)
  dsimp only
  refine (readRecord_canonical h).bind ?_
  rintro ⟨_, t1⟩ h1
  dsimp only
  split
  · exact yields_ok.2 h1
  · split
    · exact yields_kill _ _
    · refine (readRecord_canonical h1).bind ?_
      rintro ⟨_, t2⟩ h2
      dsimp only
      split
      · exact yields_ok.2 h2
      · split
        · exact Yields.after fun _ => yields_ok.2 (advance_canonical (dropKept_canonical h2))
        · split
          · exact yields_kill _ _
          · refine (readImages_canonical h2).bind ?_
            rintro ⟨_, t3⟩ h3
            dsimp only
            split
            · exact yields_ok.2 h3
            · exact yields_ok.2 (canonical_foldl (fun _ _ h5 => (placeChild_canonical h5).getD h5) (canonical_foldl
                (fun _ _ h4 => markRestarting_canonical h4) (advance_canonical (modPool_canonical (modActor_canonical
                (dropKept_canonical h3))))))

theorem execPoolCreation_canonical {s : State} {job : Half} {image : Word} {dies : BitVec 4} (h : MemCanonical s) :
    Ends (execPoolCreation job image dies s) := by
  refine event_canonical h (Gives.after fun _ => Gives.after fun _ => Gives.after fun _ => ?_)
  extract_lets +onlyGivenNames served rooms
  split
  · exact gives_none _
  · extract_lets +onlyGivenNames inc queues members s1 s2 p
    have h6 : MemCanonical s1 := canonical_foldl (fun _ _ h7 => fillRoom_canonical h7) h
    clear_value s1
    have h8 : MemCanonical s2 := setInc_canonical h6
    clear_value s2
    exact gives_some.2 h8

theorem execRootActorPlacement_canonical {s : State} {job : Half} {image : Word} (h : MemCanonical s) :
    Ends (execRootActorPlacement job image s) := by
  refine event_canonical h (Gives.after fun _ => Gives.after fun _ => Gives.after fun _ => ?_)
  split
  · exact gives_none _
  · refine Gives.after fun _ => (install_canonical h).bind ?_
    rintro ⟨_, t1⟩ h1
    dsimp only
    exact gives_some.2 (modJob_canonical (modActor_canonical h1))

theorem execActorExit_canonical {s : State} {name : Word} (h : MemCanonical s) : Ends (execActorExit name s) := by
  refine event_canonical h ?_
  split
  · split
    · split
      · exact gives_none _
      · exact gives_some.2 (exitPool_canonical h)
    · exact gives_none _
  · split
    · split
      · split
        · exact gives_none _
        · exact gives_some.2 (exitActor_canonical h)
      · exact gives_none _
    · exact gives_none _

theorem execExitSignalArrival_canonical {s : State} {flight : Nat} (h : MemCanonical s) : Ends (execExitSignalArrival flight s) := by
  refine event_canonical h (Gives.after fun _ => ?_)
  split
  · exact (takeSignal_canonical h).map fun _ ht => settleLevels_canonical ht
  · exact gives_none _

theorem execRestartNotice_canonical {s : State} {flight : Nat} (h : MemCanonical s) : Ends (execRestartNotice flight s) := by
  refine event_canonical h (Gives.after fun _ => ?_)
  split
  · split
    · exact gives_some.2 (settleLevels_canonical (notice_canonical (removeFlight_canonical h)))
    · exact gives_none _
  · exact gives_none _

theorem execMirrorDigestCompare_canonical {s : State} {name : Word} (h : MemCanonical s) : Ends (execMirrorDigestCompare name s) :=
  event_canonical h (Gives.after fun _ => compare_canonical h)

theorem execTimeout_canonical {s : State} {name : Word} {ref : Word32} (h : MemCanonical s) : Ends (execTimeout name ref s) := by
  refine event_canonical h ?_
  split
  · extract_lets +onlyGivenNames t die
    have h1 : MemCanonical t := modTimers_canonical h
    clear_value t
    exact gives_some.2 (hardSend_canonical h1)
  · exact gives_none _

theorem execWatchdogExpiry_canonical {s : State} {aid : Nat} (h : MemCanonical s) : Ends (execWatchdogExpiry aid s) := by
  refine event_canonical h (Gives.after fun _ => ?_)
  split
  · exact gives_some.2 (killActor_canonical h)
  · exact gives_none _

theorem execPostActivationWaitExpiry_canonical {s : State} {op : Nat} (h : MemCanonical s) : Ends (execPostActivationWaitExpiry op s) := by
  refine event_canonical h (Gives.after fun _ => ?_)
  dsimp only
  split
  · exact gives_some.2 (killAnyway_canonical h)
  · exact gives_none _

theorem execWaitcMet_canonical {s : State} {aid : Nat} (h : MemCanonical s) : Ends (execWaitcMet aid s) := by
  refine event_canonical h (Gives.after fun _ => Gives.after fun _ => ?_)
  dsimp -zeta only
  extract_lets +onlyGivenNames inTime
  split
  · exact gives_some.2 (modAid_canonical h)
  · exact gives_none _

theorem execWaitctLimitExpiry_canonical {s : State} {aid : Nat} (h : MemCanonical s) : Ends (execWaitctLimitExpiry aid s) := by
  refine event_canonical h (Gives.after fun _ => Gives.after fun _ => ?_)
  split
  · exact gives_some.2 (modAid_canonical h)
  · exact gives_none _

theorem execGlobalCincArrival_canonical {s : State} {flight : Nat} (h : MemCanonical s) : Ends (execGlobalCincArrival flight s) := by
  refine event_canonical h (Gives.after fun _ => ?_)
  split
  · split
    · exact gives_none _
    · split
      · exact gives_some.2 (transmit_canonical (removeFlight_canonical h))
      · refine Gives.after fun _ => gives_some.2 ?_
        split
        · exact addCounters_canonical (removeFlight_canonical h)
        · exact noTarget_canonical (removeFlight_canonical h)
  · exact gives_none _

theorem execLaunchCompletion_canonical {s : State} {flight : Nat} (h : MemCanonical s) : Ends (execLaunchCompletion flight s) := by
  refine event_canonical h (Gives.after fun f => ?_)
  have hf : MemCanonical (s.removeFlight f.id) := removeFlight_canonical h
  split
  · split
    · exact gives_none _
    · dsimp only
      split
      · exact gives_some.2 (transmit_canonical hf)
      · exact Gives.map (P := fun _ => True) (fun _ _ => trivial) fun _ _ => addCounters_canonical hf
  · exact gives_none _

theorem execActorRestore_canonical {s : State} {name : Word} (h : MemCanonical s) : Ends (execActorRestore name s) := by
  refine event_canonical h ?_
  split
  · exact gives_none _
  · split
    · split
      · exact gives_none _
      · refine Gives.after fun _ => ?_
        extract_lets +onlyGivenNames s1 dies
        have h1 : MemCanonical s1 := canonical_foldl (fun _ _ h2 => restorePlace_canonical h2) h
        clear_value s1
        refine Gives.after fun _ => ?_
        extract_lets +onlyGivenNames move queues merged s3 s4
        have h7 : MemCanonical s3 := modPool_canonical h1
        clear_value s3
        have h8 : MemCanonical s4 := canonical_foldl (fun _ _ h9 => drain_canonical (drain_canonical h9)) h7
        clear_value s4
        exact gives_some.2 (canonical_foldl (fun _ _ h10 => receive_canonical h10) h8)
    · refine Gives.after fun _ => ?_
      split
      · exact gives_none _
      · refine Gives.after fun _ => Gives.after fun _ => ?_
        extract_lets +onlyGivenNames s7 s8
        have h11 : MemCanonical s7 := canonical_foldl (fun _ _ h12 => restorePlace_canonical h12) h
        clear_value s7
        have h13 : MemCanonical s8 := modActor_canonical h11
        clear_value s8
        exact gives_some.2 (admitHeld_canonical (setLastDie_canonical h13))

theorem execFatalError_canonical {s : State} {cause : FatalCause} (h : MemCanonical s) : Ends (execFatalError cause s) := by
  refine event_canonical h ?_
  extract_lets +onlyGivenNames die
  split
  · split
    · exact gives_none _
    · extract_lets +onlyGivenNames t
      have h2 : MemCanonical t := noteFatal_canonical h
      clear_value t
      split
      · exact gives_some.2 (failStart_canonical h2)
      · extract_lets +onlyGivenNames t1
        extract_lets +onlyGivenNames t2
        have h4 : MemCanonical t2 := h2
        clear_value t2
        split
        · refine gives_some.2 ?_
          split
          · rename_i t3 hx1
            have h5 : MemCanonical t3 := (placeRoot_canonical h4) _ hx1
            exact h5
          · exact warmReset_canonical (haltSteps_canonical h4)
        · exact gives_some.2 (warmReset_canonical (haltSteps_canonical h4))
  · split
    · exact gives_none _
    · extract_lets +onlyGivenNames t
      have h6 : MemCanonical t := noteFatal_canonical h
      clear_value t
      split
      · exact gives_some.2 (failStart_canonical h6)
      · extract_lets +onlyGivenNames t4
        extract_lets +onlyGivenNames t5
        have h8 : MemCanonical t5 := h6
        clear_value t5
        split
        · refine gives_some.2 ?_
          split
          · rename_i t6 hx2
            have h9 : MemCanonical t6 := (placeRoot_canonical h8) _ hx2
            exact h9
          · exact warmReset_canonical (haltSteps_canonical h8)
        · exact gives_some.2 (warmReset_canonical (haltSteps_canonical h8))

theorem execBootPhaseComplete_canonical {s : State} {failed : Option Nat} (h : MemCanonical s) : Ends (execBootPhaseComplete failed s) := by
  refine event_canonical h ?_
  split
  · exact bootStep_canonical h
  · exact bootFail_canonical h

theorem execRootReady_canonical {s : State} (h : MemCanonical s) : Ends (execRootReady s) := by
  refine event_canonical h ?_
  split
  · extract_lets +onlyGivenNames b
    extract_lets +onlyGivenNames b1
    exact gives_some.2 h
  · exact gives_none _

theorem execRootReadyTimeout_canonical {s : State} (h : MemCanonical s) : Ends (execRootReadyTimeout s) := by
  refine event_canonical h ?_
  split
  · exact gives_some.2 (failStart_canonical h)
  · exact gives_none _

theorem execPowerOn_canonical {s : State} (h : MemCanonical s) : Ends (execPowerOn s) := by
  unfold execPowerOn
  refine ends_next ?_
  split
  · exact h
  · exact coldReset_canonical h

theorem execPowerLoss_canonical {s : State} (h : MemCanonical s) : Ends (execPowerLoss s) := powered_canonical h (gives_some.2 h)

theorem execPerst_canonical {s : State} (h : MemCanonical s) : Ends (execPerst s) :=
  powered_canonical h (gives_some.2 (warmReset_canonical h))

theorem execFunctionLevelReset_canonical {s : State} {port : Nat} (h : MemCanonical s) : Ends (execFunctionLevelReset port s) := by
  refine powered_canonical h ?_
  split
  · exact gives_none _
  · extract_lets +onlyGivenNames h1
    extract_lets +onlyGivenNames h3
    exact gives_some.2 h

theorem execBootRetry_canonical {s : State} {port : Nat} {v : Word32} (h : MemCanonical s) : Ends (execBootRetry port v s) := by
  refine powered_canonical h ?_
  split
  · exact gives_none _
  · split
    · exact gives_some.2 (respondHost_canonical h)
    · split
      · exact gives_some.2 (warmReset_canonical h)
      · exact gives_some.2 h

theorem execPwrLimitWrite_canonical {s : State} {port : Nat} {v : Word32} (h : MemCanonical s) : Ends (execPwrLimitWrite port v s) := by
  refine powered_canonical h ?_
  split
  · exact gives_some.2 (respondHost_canonical h)
  · split
    · exact gives_some.2 h
    · exact gives_none _

theorem execOperatingPointChange_canonical {s : State} {point : BitVec 2} (h : MemCanonical s) :
    Ends (execOperatingPointChange point s) := powered_canonical h (gives_some.2 h)

theorem execThermalTrip_canonical {s : State} (h : MemCanonical s) : Ends (execThermalTrip s) := by
  refine powered_canonical h ?_
  split
  · exact gives_none _
  · extract_lets +onlyGivenNames t b t1
    have h1 : MemCanonical t := noteFatal_canonical h
    clear_value t
    extract_lets +onlyGivenNames t2
    extract_lets +onlyGivenNames t3
    have h5 : MemCanonical t3 := by
      dsimp only [t3]
      split <;> exact h1
    clear_value t3
    exact gives_some.2 h5

theorem execThermalRecovery_canonical {s : State} (h : MemCanonical s) : Ends (execThermalRecovery s) := by
  refine powered_canonical h ?_
  split
  · exact gives_some.2 (warmReset_canonical h)
  · exact gives_none _

theorem execBins_canonical {s : State} {w : BitVec 1} {b a d : BitVec 5} (h : MemCanonical s) : Ends (execBins w b a d s) := by
  unfold execBins
  dsimp only
  exact run_canonical h (yields_ok.2 (result_canonical h))

theorem execCVfma_canonical {s : State} {d a : BitVec 4} {b : BitVec 3} (h : MemCanonical s) : Ends (execCVfma d a b s) := by
  unfold execCVfma
  dsimp only
  exact run_canonical h (estream_canonical h (fun _ h1 => vfmaOp_canonical h1))

theorem execInstallLinkKey_canonical {s : State} (h : MemCanonical s) : Ends (execInstallLinkKey s) := by
  refine event_canonical h ?_
  split
  · exact ownInstall_canonical h
  · dsimp only
    refine gives_some.2 ?_
    split
    · exact respond_canonical h
    · split
      · exact respond_canonical (modLink_canonical h)
      · exact respond_canonical h

theorem execBindMemoryKey_canonical {s : State} (h : MemCanonical s) : Ends (execBindMemoryKey s) := by
  refine event_canonical h (Gives.after fun _ => gives_some.2 ?_)
  split
  · exact respond_canonical h
  · split
    · exact respond_canonical h
    · exact respond_canonical (wf_congr (m := s.mem) rfl rfl rfl h)

theorem execRetireMemoryKey_canonical {s : State} (h : MemCanonical s) : Ends (execRetireMemoryKey s) := by
  refine event_canonical h (Gives.after fun _ => ?_)
  split
  · exact gives_some.2 (respond_canonical h)
  · split
    · exact gives_some.2 (respond_canonical h)
    · split
      · exact gives_none _
      · exact gives_some.2 (respond_canonical (wf_congr (m := s.mem) rfl rfl rfl h))

theorem execVerifyWeightSetSignature_canonical {s : State} (h : MemCanonical s) : Ends (execVerifyWeightSetSignature s) := by
  refine event_canonical h (Gives.after fun r => ?_)
  dsimp only
  split
  · exact gives_some.2 (respond_canonical h)
  · split
    · rename_i m _
      have hread : Yields (s.readRecord r.who (r.word 2) 16224 32) fun x => MemCanonical x.2 := readRecord_canonical h
      split
      · rename_i hx
        have ht := hread _ hx
        split
        · exact gives_some.2 (respond_canonical (canonical_congr (dropKept_canonical (w := r.who) ht) rfl))
        · refine gives_some.2 ?_
          split
          · exact respond_canonical (dropKept_canonical ht)
          · exact killActor_canonical (respond_canonical (dropKept_canonical ht))
      · rename_i hx
        exact gives_some.2 (hread _ hx)
      · exact gives_some.2 (settleLine_canonical h)
      · exact gives_some.2 (respond_canonical h)
    · exact gives_some.2 (respond_canonical h)

theorem execSealAttestationRecord_canonical {s : State} (h : MemCanonical s) : Ends (execSealAttestationRecord s) := by
  refine event_canonical h (Gives.after fun _ => ?_)
  dsimp only
  refine gives_some.2 ?_
  split
  · exact respond_canonical h
  · split
    · exact respond_canonical h
    · exact respond_canonical (sealRecord_canonical h)

theorem execReadIdentity_canonical {s : State} (h : MemCanonical s) : Ends (execReadIdentity s) := by
  refine event_canonical h (Gives.after fun _ => ?_)
  split
  · exact gives_none _
  · split <;> exact gives_some.2 (respond_canonical h)

theorem execAppendMeasurement_canonical {s : State} (h : MemCanonical s) : Ends (execAppendMeasurement s) := by
  refine event_canonical h (Gives.after fun _ => ?_)
  split
  · exact gives_none _
  · dsimp only
    refine gives_some.2 ?_
    split
    · exact respond_canonical h
    · split
      · exact respond_canonical h
      · split <;> exact respond_canonical h

theorem execAttestationRecordRead_canonical {s : State} {job : Half} (h : MemCanonical s) : Ends (execAttestationRecordRead job s) :=
  event_canonical h (Gives.after fun _ => gives_some.2 h)

theorem execTrap_canonical {s : State} {b a : BitVec 5} (h : MemCanonical s) : Ends (execTrap b a s) := by
  refine run_canonical h (Yields.after fun _ => Yields.after fun _ => ?_)
  split
  · exact yields_ok.2 (advance_canonical h)
  · exact yields_kill _ _

theorem execSinv_canonical {s : State} {l : BitVec 1} {b a : BitVec 5} (h : MemCanonical s) : Ends (execSinv l b a s) := by
  refine run_canonical h (Yields.after fun _ => Yields.after fun _ => Yields.after fun _ => Yields.after fun _ => Yields.after fun _ => ?_)
  refine Yields.after fun _ => ?_
  extract_lets +onlyGivenNames lo hi
  split
  · exact yields_ok.2 (advance_canonical h)
  · extract_lets +onlyGivenNames mark t again
    have h4 : MemCanonical t := invalidate_canonical h
    clear_value t
    have h5 : ∀ x0, MemCanonical (again x0) := by
      intro _
      dsimp only [again]
      exact modAct_canonical h4
    clear_value again
    split
    · exact yields_ok.2 (h5 _)
    · split
      · exact yields_ok.2 (h5 _)
      · exact yields_ok.2 (advance_canonical h4)

theorem execFrply_canonical {s : State} {b a : BitVec 5} (h : MemCanonical s) : Ends (execFrply b a s) := by
  refine run_canonical h (Yields.after fun _ => Yields.after fun _ => Yields.after fun _ => Yields.after fun _ => Yields.after fun _ => ?_)
  exact Yields.after fun _ => commits_canonical h fun t1 h3 => Yields.after fun _ => yields_ok.2 (advance_canonical (fly_canonical h3))

theorem execDlogh_canonical {s : State} {a : BitVec 5} (h : MemCanonical s) : Ends (execDlogh a s) := by
  refine run_canonical h (Yields.after fun _ => Yields.after fun _ => Yields.after fun _ => ?_)
  exact yields_ok.2 (advance_canonical (canonical_foldl (fun _ _ h1 => mergeDirty_canonical h1) h))

theorem execInj_canonical {s : State} {b a : BitVec 5} (h : MemCanonical s) : Ends (execInj b a s) := by
  refine run_canonical h (Yields.after fun _ => Yields.after fun _ => Yields.after fun _ => ?_)
  dsimp only
  exact Yields.after fun _ => once_canonical h (yields_ok.2 (advance_canonical (arm_canonical h)))

theorem execMflip_canonical {s : State} {a d : BitVec 5} (h : MemCanonical s) : Ends (execMflip a d s) := by
  refine run_canonical h (Yields.after fun _ => ?_)
  split
  · exact once_canonical h (yields_ok.2 (result_canonical h))
  · exact yields_error _ _
  · refine Yields.after fun _ => Yields.after fun _ => Yields.after fun _ => Yields.after fun _ => commits_canonical h fun t1 h3 => ?_
    refine once_canonical h3 ?_
    split
    · exact yields_ok.2 (result_canonical h3)
    · exact Yields.after fun _ => yields_ok.2 (modAct_canonical (enqueue_canonical h3))

theorem execFlipRequest_canonical {s : State} {core : Nat} (h : MemCanonical s) : Ends (execFlipRequest core s) := by
  refine event_canonical h (Gives.after fun _ => Gives.after fun _ => ?_)
  split
  · exact gives_none _
  · extract_lets +onlyGivenNames t
    have h1 : MemCanonical t := pop_canonical h
    clear_value t
    split
    · exact gives_some.2 (settleLevels_canonical (noActor_canonical h1))
    · dsimp only
      split
      · exact gives_some.2 (settleLevels_canonical (fly_canonical h1))
      · split
        · exact gives_none _
        · exact gives_some.2 (settleLevels_canonical (enqueue_canonical (fresh_canonical h1)))

theorem execPreemptResume_canonical {s : State} {a d : BitVec 5} (h : MemCanonical s) : Ends (execPreemptResume a d s) := by
  refine run_canonical h (Yields.after fun _ => Yields.after fun _ => Yields.after fun _ => ?_)
  exact commits_canonical h (fun _ h1 => once_canonical h1 (yields_ok.2 (result_canonical (resumePart_canonical h1))))

theorem execPreemptStop_canonical {s : State} {a d : BitVec 5} (h : MemCanonical s) : Ends (execPreemptStop a d s) := by
  refine run_canonical h (Yields.after fun _ => ?_)
  split
  · exact once_canonical h (yields_ok.2 (result_canonical h))
  · exact yields_error _ _
  · refine Yields.after fun _ => Yields.after fun _ => commits_canonical h fun t1 h3 => once_canonical h3 ?_
    dsimp only
    split
    · exact yields_ok.2 (result_canonical h3)
    · exact yields_ok.2 (modAct_canonical (stopActs_canonical (modPart_canonical h3)))

theorem execPartitionStopComplete_canonical {s : State} {part : Nat} (h : MemCanonical s) : Ends (execPartitionStopComplete part s) := by
  refine event_canonical h ?_
  split
  · exact gives_none _
  · split
    · exact gives_some.2 (stopActs_canonical h)
    · split
      · exact gives_some.2 (dropWaiting_canonical h)
      · split
        · exact gives_none _
        · exact gives_some.2 (stopDone_canonical h)

theorem execPreemptClear_canonical {s : State} {a d : BitVec 5} (h : MemCanonical s) : Ends (execPreemptClear a d s) := by
  refine run_canonical h (Yields.after fun _ => Yields.after fun _ => Yields.after fun _ => ?_)
  exact commits_canonical h (fun _ h1 => once_canonical h1 (yields_ok.2 (result_canonical (clearPart_canonical h1))))

theorem execHalt_canonical {s : State} {a : BitVec 5} (h : MemCanonical s) : Ends (execHalt a s) := by
  refine run_canonical h (Yields.after fun _ => Yields.after fun _ => Yields.after fun _ => yields_ok.2 ?_)
  split
  · exact warmReset_canonical (haltSteps_canonical h)
  · exact haltSteps_canonical h

/-- What the scrubber notes of its pass is no byte of memory. -/
theorem passNoted_canonical {s : State} {pos : List (Nat × Nat)} {start : List (Nat × Nat)} (h : MemCanonical s) :
    MemCanonical { s with mem := { s.mem with scrub := pos, scrubStart := start } } := wf_congr (m := s.mem) rfl rfl rfl h

theorem execPatrolScrubRead_canonical {s : State} {die stack : Nat} (h : MemCanonical s) : Ends (execPatrolScrubRead die stack s) := by
  refine event_canonical h ?_
  dsimp only
  split
  · exact gives_none _
  · exact gives_some.2 (passNoted_canonical (settle_canonical h))

theorem execFlitTransmit_canonical {s : State} {link : Nat} (h : MemCanonical s) : Ends (execFlitTransmit link s) := by
  refine event_canonical h ?_
  extract_lets +onlyGivenNames l ackOnly
  have h2 : Gives ackOnly MemCanonical := by
    dsimp only [ackOnly]
    exact gives_some.2 (modLink_canonical h)
  clear_value ackOnly
  split
  · exact gives_none _
  · split
    · exact h2
    · split
      · exact h2
      · split
        · split
          · exact h2
          · exact gives_some.2 (modLink_canonical h)
        · split
          · exact h2
          · exact gives_some.2 (modLink_canonical (firstSent_canonical h))

theorem execIdleFlitTimer_canonical {s : State} {link : Nat} (h : MemCanonical s) : Ends (execIdleFlitTimer link s) := by
  refine event_canonical h ?_
  dsimp only
  split
  · exact gives_none _
  · split
    · split
      · exact gives_none _
      · exact gives_some.2 (modLink_canonical h)
    · exact gives_some.2 (modLink_canonical h)

theorem execLinkVerifyTimeout_canonical {s : State} {link : Nat} (h : MemCanonical s) : Ends (execLinkVerifyTimeout link s) := by
  refine event_canonical h ?_
  split
  · exact gives_some.2 (linkDown_canonical h)
  · exact gives_none _

theorem execLinkTrainingComplete_canonical {s : State} {link pkg : Nat} {txsalt rxsalt : Word32} (h : MemCanonical s) :
    Ends (execLinkTrainingComplete link pkg txsalt rxsalt s) := by
  refine event_canonical h ?_
  dsimp only
  split
  · exact gives_none _
  · refine gives_some.2 (sendWaiting_canonical ?_)
    split <;> exact h

theorem execDataFlit_canonical {s : State} {link : Nat} {f : Flit} (h : MemCanonical s) : Ends (execDataFlit link f s) := by
  refine event_canonical h ?_
  split
  · exact takeFlit_canonical h
  · exact gives_none _

theorem execMarker_canonical {s : State} {link : Nat} {f : Flit} (h : MemCanonical s) : Ends (execMarker link f s) := by
  refine event_canonical h ?_
  split
  · exact takeFlit_canonical h
  · exact gives_none _

theorem execControlFlit_canonical {s : State} {link : Nat} {f : Flit} (h : MemCanonical s) : Ends (execControlFlit link f s) := by
  refine event_canonical h ?_
  split
  · exact takeFlit_canonical h
  · exact gives_none _

theorem execIdleFlit_canonical {s : State} {link : Nat} {f : Flit} (h : MemCanonical s) : Ends (execIdleFlit link f s) := by
  refine event_canonical h ?_
  split
  · exact takeFlit_canonical h
  · exact gives_none _

theorem execHeartbeatSend_canonical {s : State} {pkg : Nat} (h : MemCanonical s) : Ends (execHeartbeatSend pkg s) := by
  refine event_canonical h ?_
  extract_lets +onlyGivenNames due
  split
  · exact gives_none _
  · extract_lets +onlyGivenNames beats peers
    exact gives_some.2 (transmit_canonical h)

theorem execPackageHeartbeatLoss_canonical {s : State} {pkg : Nat} (h : MemCanonical s) : Ends (execPackageHeartbeatLoss pkg s) := by
  refine event_canonical h (Gives.after fun _ => ?_)
  split
  · exact gives_none _
  · extract_lets +onlyGivenNames s1
    have h1 : MemCanonical s1 := losePackage_canonical h
    clear_value s1
    exact gives_some.2 h1

theorem execBridgeHeartbeatLoss_canonical {s : State} {die : Nat} (h : MemCanonical s) : Ends (execBridgeHeartbeatLoss die s) := by
  refine event_canonical h ?_
  split
  · exact gives_none _
  · exact gives_some.2 (loseDie_canonical h)

theorem execRemoteRequestTimeout_canonical {s : State} {req : Nat} (h : MemCanonical s) : Ends (execRemoteRequestTimeout req s) := by
  refine event_canonical h (Gives.after fun _ => ?_)
  split
  · exact gives_none _
  · split
    · exact gives_some.2 (dropRemote_canonical h)
    · exact gives_some.2 (killAnyway_canonical (dropRemote_canonical h))

theorem execLinkThrWrite_canonical {s : State} {link : Nat} {v : Word} (h : MemCanonical s) : Ends (execLinkThrWrite link v s) := by
  unfold execLinkThrWrite
  split
  · exact run_canonical h (yields_ok.2 (writeThr_canonical h))
  · exact ends_next h

theorem execLinkRtoWrite_canonical {s : State} {v : Word} (h : MemCanonical s) : Ends (execLinkRtoWrite v s) := by
  unfold execLinkRtoWrite
  split
  · exact run_canonical h (yields_ok.2 (writeRto_canonical h))
  · exact ends_next h

theorem execErrorLogHeadWrite_canonical {s : State} {die : Nat} {v : Word} (h : MemCanonical s) : Ends (execErrorLogHeadWrite die v s) := by
  unfold execErrorLogHeadWrite
  split
  · exact run_canonical h (yields_ok.2 h)
  · exact ends_next h

theorem execGatewaySlotWrite_canonical {s : State} {page offset : Nat} {data : List Byte} (h : MemCanonical s) :
    Ends (execGatewaySlotWrite page offset data s) := by
  refine event_canonical h ?_
  dsimp only
  split
  · exact gives_none _
  · split
    · exact gives_some.2 (fly_canonical (openPhase_canonical h))
    · exact gives_some.2 (modPart_canonical h)

theorem execHostMessageDelivery_canonical {s : State} {flight : Nat} (h : MemCanonical s) : Ends (execHostMessageDelivery flight s) := by
  refine event_canonical h (Gives.after fun _ => ?_)
  split
  · split
    · exact gives_none _
    · extract_lets +onlyGivenNames t
      have h1 : MemCanonical t := removeFlight_canonical h
      clear_value t
      split
      · exact gives_some.2 (settleLevels_canonical (noActor_canonical h1))
      · split
        · exact gives_some.2 (settleLevels_canonical (toHost_canonical h1))
        · exact gives_some.2 (settleLevels_canonical (noActor_canonical h1))
  · exact gives_none _

theorem execRxqBaseWrite_canonical {s : State} {part : Nat} {v : Word} (h : MemCanonical s) : Ends (execRxqBaseWrite part v s) := by
  refine powered_canonical h ?_
  split
  · exact gives_none _
  · refine gives_some.2 ?_
    split
    · exact modRxq_canonical h
    · exact h

theorem execRxqSizeWrite_canonical {s : State} {part : Nat} {v : Word} (h : MemCanonical s) : Ends (execRxqSizeWrite part v s) := by
  refine powered_canonical h ?_
  split
  · exact gives_none _
  · refine gives_some.2 ?_
    split
    · exact refillRing_canonical (modRxq_canonical h)
    · exact h

theorem execRxqHeadWrite_canonical {s : State} {part : Nat} {v : Word} (h : MemCanonical s) : Ends (execRxqHeadWrite part v s) := by
  refine powered_canonical h ?_
  split
  · exact gives_none _
  · exact gives_some.2 (refillRing_canonical (modRxq_canonical h))

theorem execRegisterWrite_canonical {s : State} {reg : HostReg} {v : Word} (h : MemCanonical s) : Ends (execRegisterWrite reg v s) := by
  refine powered_canonical h ?_
  split
  · split
    · exact gives_some.2 h
    · exact gives_none _
  · split
    · exact gives_some.2 (modRxq_canonical h)
    · exact gives_none _
  · split
    · exact gives_some.2 (modRxq_canonical h)
    · exact gives_none _
  · split
    · exact gives_some.2 h
    · exact gives_none _
  · split
    · exact gives_some.2 (writeLinkReg_canonical h)
    · exact gives_none _
  · split
    · exact gives_some.2 (writeLinkReg_canonical h)
    · exact gives_none _

theorem execUnsupportedRequest_canonical {s : State} {port : Nat} (h : MemCanonical s) : Ends (execUnsupportedRequest port s) := by
  refine powered_canonical h ?_
  split
  · exact gives_some.2 (respondHost_canonical h)
  · exact gives_none _

theorem execConfigurationRequest_canonical {s : State} {port offset : Nat} (h : MemCanonical s) :
    Ends (execConfigurationRequest port offset s) := by
  refine powered_canonical h ?_
  split
  · exact gives_none _
  · split <;> exact gives_some.2 (respondHost_canonical h)
theorem exec_canonical {i : Instr} {s : State} (h : MemCanonical s) : Ends (exec i s) := by
  cases i <;> dsimp only [exec]
  case add | sub | and | or | xor | mul | mulh | mulhn | div | divn | rem | remn | min | max | minn | maxn | slt | sltn | seq | andn |
      cMv | cAdd | cSub => exact run_canonical h (int2_canonical h)
  case shl | shr | sra | bext => exact run_canonical h (intShift_canonical h)
  case clz | ctz | popc => exact run_canonical h (int1_canonical h)
  case bins => exact execBins_canonical h
  case addi | andi | ori | xori | slti | cAddi | cLi | cAndi | cNop => exact run_canonical h (intImm_canonical h)
  case shli | shri | srai | cShli => exact run_canonical h (intShiftImm_canonical h)
  case lih | addpc | lox => exact run_canonical h (yields_ok.2 (result_canonical h))
  case ldb | ldh | ldw | ldd | ldbn | ldhn | ldwn | cLdd | cLdw => exact run_canonical h (loadInto_canonical h)
  case stb | sth | stw | std | cStd | cStw => exact run_canonical h (storeFrom_canonical h)
  case beq | bne | blt | bge | bltn | bgen | cBeqz | cBnez => exact run_canonical h (branchIf_canonical h)
  case bqt | bqf => exact run_canonical h (branchBit_canonical h)
  case jal | cJ => exact run_canonical h (jumpLink_canonical h)
  case jalr => exact execJalr_canonical h
  case amoSwap | amoAdd | amoAnd | amoOr | amoXor | amoMax | amoMin |
      amoCas => exact run_canonical h (amoOp_canonical h (fun _ h1 => commitStep_canonical h1))
  case fenceRel => exact execFenceRel_canonical h
  case fenceAcq => exact execFenceAcq_canonical h
  case fenceFull => exact execFenceFull_canonical h
  case qfence => exact execQfence_canonical h
  case rdef => exact execRdef_canonical h
  case hdef => exact execHdef_canonical h
  case rclr => exact execRclr_canonical h
  case ldaq => exact execLdaq_canonical h
  case strl => exact execStrl_canonical h
  case rstat => exact execRstat_canonical h
  case qput | cQput => exact run_canonical h (qputOp_canonical h)
  case qget | cQget => exact run_canonical h (qgetOp_canonical h)
  case scfg => exact execScfg_canonical h
  case sbind => exact execSbind_canonical h
  case sunb => exact execSunb_canonical h
  case swait => exact execSwait_canonical h
  case mfs => exact execMfs_canonical h
  case mts => exact execMts_canonical h
  case mox => exact execMox_canonical h
  case spawn => exact execSpawn_canonical h
  case kill => exact execKill_canonical h
  case exit => exact execExit_canonical h
  case link => exact execLink_canonical h
  case unlink => exact execUnlink_canonical h
  case mon => exact execMon_canonical h
  case demon => exact execDemon_canonical h
  case trapx => exact execTrapx_canonical h
  case supv => exact execSupv_canonical h
  case timer => exact execTimer_canonical h
  case tcan => exact execTcan_canonical h
  case commit | cCommit => exact run_canonical h (commitOp_canonical h)
  case cDone => exact run_canonical h (doneOp_canonical h)
  case cancel => exact execCancel_canonical h
  case lvl => exact execLvl_canonical h
  case namereg => exact execNamereg_canonical h
  case whereIs => exact execWhereIs_canonical h
  case part => exact execPart_canonical h
  case rnew => exact execRnew_canonical h
  case send | cSend => exact run_canonical h (sendOp_canonical h)
  case sendn => exact execSendn_canonical h
  case reply => exact execReply_canonical h
  case give => exact execGive_canonical h
  case sendd => exact execSendd_canonical h
  case depset => exact execDepset_canonical h
  case depdec => exact execDepdec_canonical h
  case tload => exact execTload_canonical h
  case tstore => exact execTstore_canonical h
  case push => exact execPush_canonical h
  case pushr => exact execPushr_canonical h
  case gather => exact execGather_canonical h
  case scatter => exact execScatter_canonical h
  case arm => exact execArm_canonical h
  case disarm => exact run_canonical h (yields_ok.2 (advance_canonical (modCore_canonical h)))
  case cset => exact execCset_canonical h
  case cinc | cCinc => exact run_canonical h (cincOp_canonical h)
  case crd => exact run_canonical h (once_canonical h (yields_ok.2 (result_canonical h)))
  case waitc | cWaitc => exact run_canonical h (waitcOp_canonical h)
  case waitct => exact execWaitct_canonical h
  case caddl => exact execCaddl_canonical h
  case route => exact execRoute_canonical h
  case erq => exact execErq_canonical h
  case epin => exact execEpin_canonical h
  case eunpin => exact execEunpin_canonical h
  case wset => exact execWset_canonical h
  case eloadc => exact execEloadc_canonical h
  case vadd | vsub | vmul | vfms | vscalb => exact run_canonical h (estream_canonical h (fun _ h1 => vfp_canonical h1))
  case vfma => exact run_canonical h (estream_canonical h (fun _ h1 => vfmaOp_canonical h1))
  case vmin | vmax | vabs | vneg | vmaxm | vclass => exact run_canonical h (estream_canonical h (fun _ h1 => vraw_canonical h1))
  case vcmpeq | vcmplt | vcmple => exact run_canonical h (estream_canonical h (fun _ h1 => vecCompare_canonical h1))
  case vsel | vbcast | vperm | vshuf | vslide => exact run_canonical h (estream_canonical h (fun _ h1 => vectorOp_canonical h1))
  case vmov | cVmov => exact run_canonical h (estream_canonical h (fun _ h1 => vmovOp_canonical h1))
  case viadd | visub | vimul | vimulh | viadds |
      visubs => exact run_canonical h (estream_canonical h (fun _ h1 => vintTyped_canonical h1))
  case vand | vor | vxor | vshl | vshr | vsra | vimin | vimax | viminn | vimaxn | vpopc |
      vclz => exact run_canonical h (estream_canonical h (fun _ h1 => vint_canonical h1))
  case vicmpeq | vicmplt => exact run_canonical h (estream_canonical h (fun _ h1 => compareOp_canonical h1))
  case vcvt => exact execVcvt_canonical h
  case vcvtWide => exact execVcvtWide_canonical h
  case vcvts => exact execVcvts_canonical h
  case vmxq => exact execVmxq_canonical h
  case vmxd => exact execVmxd_canonical h
  case vpack => exact run_canonical h (estream_canonical h (fun _ h1 => narrowing_canonical h1))
  case vunpk => exact run_canonical h (estream_canonical h (fun _ h1 => widening_canonical h1))
  case vexp2 | vlog2 | vrcp | vrsq | vtanh => exact run_canonical h (sfuForm_canonical h)
  case vrsum => exact execVrsum_canonical h
  case vrmax | vrmin => exact run_canonical h (estream_canonical h (fun _ h1 => reduceExtreme_canonical h1))
  case vtoq => exact execVtoq_canonical h
  case vfromq | vfromqWord => exact run_canonical h (estream_canonical h (fun _ h1 => fromQueue_canonical h1))
  case pand | por | pnot | pmov => exact run_canonical h (estream_canonical h (fun _ h1 => predOp_canonical h1))
  case ptobq => exact execPtobq_canonical h
  case eloop | eloopq => exact run_canonical h (deliverE_canonical h)
  case eflags => exact execEflags_canonical h
  case erm => exact run_canonical h (estream_canonical h (fun _ h1 => yields_ok.2 (modAct_canonical h1)))
  case mldw => exact execMldw_canonical h
  case mma | mmac => exact run_canonical h (mmaOp_canonical h)
  case mzero => exact execMzero_canonical h
  case mstore => exact execMstore_canonical h
  case mmas => exact execMmas_canonical h
  case mtopk => exact execMtopk_canonical h
  case mtkr => exact execMtkr_canonical h
  case mscl => exact execMscl_canonical h
  case mstat => exact execMstat_canonical h
  case mchk => exact execMchk_canonical h
  case mcorr => exact execMcorr_canonical h
  case macc => exact execMacc_canonical h
  case mlda => exact execMlda_canonical h
  case fadd | fsub | fmul | fdiv | fsqrt | fcvtf | ffma => exact run_canonical h (fpRound_canonical h)
  case fmin | fmax => exact run_canonical h (fpMinMax_canonical h)
  case fcmplt | fcmpeq => exact run_canonical h (fpCompare_canonical h)
  case fcvti => exact execFcvti_canonical h
  case trap => exact execTrap_canonical h
  case udf => exact run_canonical h (yields_kill _ _)
  case sinv => exact execSinv_canonical h
  case frply => exact execFrply_canonical h
  case inj => exact execInj_canonical h
  case mflip => exact execMflip_canonical h
  case keyreq | attest => exact run_canonical h (keystone_canonical h)
  case preemptStop => exact execPreemptStop_canonical h
  case preemptResume => exact execPreemptResume_canonical h
  case preemptClear => exact execPreemptClear_canonical h
  case halt => exact execHalt_canonical h
  case dlogh => exact execDlogh_canonical h
  case cVfma => exact execCVfma_canonical h
  case messageArrival => exact execMessageArrival_canonical h
  case mailboxRefill => exact execMailboxRefill_canonical h
  case dispatch => exact execDispatch_canonical h
  case watchdogExpiry => exact execWatchdogExpiry_canonical h
  case postActivationWaitExpiry => exact execPostActivationWaitExpiry_canonical h
  case actorExit => exact execActorExit_canonical h
  case exitSignalArrival => exact execExitSignalArrival_canonical h
  case restartNotice => exact execRestartNotice_canonical h
  case restartPlacement => exact execRestartPlacement_canonical h
  case mirrorDigestCompare => exact execMirrorDigestCompare_canonical h
  case timeout => exact execTimeout_canonical h
  case waitctLimitExpiry => exact execWaitctLimitExpiry_canonical h
  case waitcMet => exact execWaitcMet_canonical h
  case engineEntryPerform => exact event_canonical h (performHead_canonical h)
  case engineSectorComplete => exact event_canonical h (sectorStep_canonical h)
  case mmacGateMet => exact execMmacGateMet_canonical h
  case mmasRendezvous => exact execMmasRendezvous_canonical h
  case pushSectorArrival => exact execPushSectorArrival_canonical h
  case pushrSectorLanding => exact execPushrSectorLanding_canonical h
  case globalCincArrival => exact execGlobalCincArrival_canonical h
  case launchCompletion => exact execLaunchCompletion_canonical h
  case sfuRequestService => exact execSfuRequestService_canonical h
  case faultreply => exact execFaultreply_canonical h
  case dirtyLogMerge => exact execDirtyLogMerge_canonical h
  case expertMessageArrival => exact execExpertMessageArrival_canonical h
  case replicaCopyComplete => exact execReplicaCopyComplete_canonical h
  case expertFetchStart => exact execExpertFetchStart_canonical h
  case evictionComplete => exact execEvictionComplete_canonical h
  case expertFetchComplete => exact execExpertFetchComplete_canonical h
  case partitionStopComplete => exact execPartitionStopComplete_canonical h
  case installLinkKey => exact execInstallLinkKey_canonical h
  case bindMemoryKey => exact execBindMemoryKey_canonical h
  case retireMemoryKey => exact execRetireMemoryKey_canonical h
  case verifyWeightSetSignature => exact execVerifyWeightSetSignature_canonical h
  case sealAttestationRecord => exact execSealAttestationRecord_canonical h
  case readIdentity => exact execReadIdentity_canonical h
  case appendMeasurement => exact execAppendMeasurement_canonical h
  case flipRequest => exact execFlipRequest_canonical h
  case patrolScrubRead => exact execPatrolScrubRead_canonical h
  case bridgeHeartbeatLoss => exact execBridgeHeartbeatLoss_canonical h
  case packageHeartbeatLoss => exact execPackageHeartbeatLoss_canonical h
  case heartbeatSend => exact execHeartbeatSend_canonical h
  case remoteRequestTimeout => exact execRemoteRequestTimeout_canonical h
  case flitTransmit => exact execFlitTransmit_canonical h
  case idleFlitTimer => exact execIdleFlitTimer_canonical h
  case dataFlit => exact execDataFlit_canonical h
  case marker => exact execMarker_canonical h
  case controlFlit => exact execControlFlit_canonical h
  case idleFlit => exact execIdleFlit_canonical h
  case linkVerifyTimeout => exact execLinkVerifyTimeout_canonical h
  case linkThrWrite => exact execLinkThrWrite_canonical h
  case linkRtoWrite => exact execLinkRtoWrite_canonical h
  case errorLogHeadWrite => exact execErrorLogHeadWrite_canonical h
  case gatewaySlotWrite => exact execGatewaySlotWrite_canonical h
  case rxqBaseWrite => exact execRxqBaseWrite_canonical h
  case rxqSizeWrite => exact execRxqSizeWrite_canonical h
  case rxqHeadWrite => exact execRxqHeadWrite_canonical h
  case hostMessageDelivery => exact execHostMessageDelivery_canonical h
  case cxlMemAccess => exact event_canonical h (windowAccess_canonical h)
  case unsupportedRequest => exact execUnsupportedRequest_canonical h
  case configurationRequest => exact execConfigurationRequest_canonical h
  case jobCtlWrite => exact execJobCtlWrite_canonical h
  case pWdogWrite => exact execPWdogWrite_canonical h
  case registerWrite => exact execRegisterWrite_canonical h
  case bootRetry => exact execBootRetry_canonical h
  case pwrLimitWrite => exact execPwrLimitWrite_canonical h
  case powerOn => exact execPowerOn_canonical h
  case perst => exact execPerst_canonical h
  case functionLevelReset => exact execFunctionLevelReset_canonical h
  case bootPhaseComplete => exact execBootPhaseComplete_canonical h
  case rootReady => exact execRootReady_canonical h
  case rootReadyTimeout => exact execRootReadyTimeout_canonical h
  case operatingPointChange => exact execOperatingPointChange_canonical h
  case thermalTrip => exact execThermalTrip_canonical h
  case thermalRecovery => exact execThermalRecovery_canonical h
  case fatalError => exact execFatalError_canonical h
  case linkTrainingComplete => exact execLinkTrainingComplete_canonical h
  case powerLoss => exact execPowerLoss_canonical h
  case writePerformed => exact execWritePerformed_canonical h
  case expertTableWrite => exact execExpertTableWrite_canonical h
  case poolCreation => exact execPoolCreation_canonical h
  case actorRestore => exact execActorRestore_canonical h
  case rootActorPlacement => exact execRootActorPlacement_canonical h
  case attestationRecordRead => exact execAttestationRecordRead_canonical h
  -- the case left is DONE
  exact run_canonical h (doneOp_canonical h)

end Sys2Proof.Machine
end


section
/-! O8: turns and steps keep memory canonical. -/

namespace Sys2Proof.Machine
open Sys2Proof.Safety

/-! ## Turns and steps (assumption 5) -/

theorem onPart_canonical {s t : State} (h : MemCanonical t) : Ends (onPart s t) := by
  unfold onPart
  split
  · exact ends_fault _
  · exact ends_next h

theorem tick_canonical {s : State} (h : MemCanonical s) : MemCanonical s.tick := h

theorem runBytes_canonical {s : State} {bs : List Byte} (h : MemCanonical s) : Ends (s.runBytes bs) := by
  unfold State.runBytes
  split
  · exact exec_canonical h
  · exact run_canonical h (yields_kill _ _)

theorem aTurn_canonical {s : State} (h : MemCanonical s) : Ends s.aTurn := by
  unfold State.aTurn
  split
  · exact ends_next h
  · split
    · exact runBytes_canonical h
    · have hf : Yields s.fetch fun r => MemCanonical r.2 := fetch_canonical h
      split
      · exact run_canonical h (yields_error _ _)
      · rename_i hx
        exact ends_next (hf _ hx)
      · rename_i hx
        exact runBytes_canonical (fetched_canonical (hf _ hx))

theorem eTurn?_canonical {s : State} (h : MemCanonical s) : Gives s.eTurn? Ends := by
  unfold State.eTurn?
  split
  · exact gives_none _
  · split
    · exact gives_none _
    · split
      · exact (beginLoop_canonical h).map fun _ hc => run_canonical h hc
      · have he : ∀ i, Ends (exec i s.forE) := fun i => exec_canonical (forE_canonical h)
        split
        · rename_i hx
          have ht : MemCanonical _ := he _ _ hx
          split
          · exact gives_some.2 (ends_next (afterE_canonical ht))
          · split
            · exact gives_none _
            · exact gives_some.2 (ends_next (canonical_congr ht rfl))
        · exact gives_some.2 (he _)

theorem eTurn_canonical {s : State} (h : MemCanonical s) : Ends s.eTurn := by
  unfold State.eTurn
  cases hx : s.eTurn? with
  | none => exact ends_next h
  | some o => exact eTurn?_canonical h o hx

theorem switchTo_canonical {s : State} {aid : Nat} (h : MemCanonical s) : MemCanonical (s.switchTo aid) := by
  unfold State.switchTo
  split <;> exact h

theorem sliceDrop_canonical {s : State} {die asid page level : Nat} (h : MemCanonical s) : MemCanonical
    (s.sliceDrop die asid page level) := h

theorem sliceFill_canonical {s : State} {die asid page level : Nat} (h : MemCanonical s) : MemCanonical
    (s.sliceFill die asid page level) := by
  unfold State.sliceFill
  dsimp only
  split
  · split <;> exact h
  · split
    · refine Gives.getD (Gives.map (P := fun _ => True) (fun _ _ => trivial) fun _ _ => ?_) h
      exact h
    · exact h

theorem ownTurn_canonical {s : State} (h : MemCanonical s) : Ends s.ownTurn := by
  unfold State.ownTurn
  split
  · split
    · rename_i hx
      exact eTurn?_canonical h _ hx
    · exact aTurn_canonical h
  · split
    · exact ends_next (switchTo_canonical h)
    · exact ends_next h

theorem eventTurn_canonical {s : State} {i : Instr} (h : MemCanonical s) : Ends (s.eventTurn i) := by
  unfold State.eventTurn
  split
  · exact exec_canonical h
  · exact ends_next h

theorem take_canonical {s : State} {t : Turn} (h : MemCanonical s) : Ends (s.take t) := by
  cases t <;> dsimp only [State.take]
  case event => exact eventTurn_canonical h
  case aStream =>
    split
    · exact ends_fault _
    · exact aTurn_canonical h
  case eStream =>
    split
    · exact ends_fault _
    · exact eTurn_canonical h
  case switch => exact onPart_canonical (switchTo_canonical h)
  case release => exact onPart_canonical ((releaseDeferred_canonical h).getD h)
  case tail => exact onPart_canonical ((releaseTail_canonical h).getD h)
  case sliceFill => exact onPart_canonical (sliceFill_canonical h)
  case sliceDrop => exact onPart_canonical (sliceDrop_canonical h)
  case early => exact onPart_canonical (readEarly_canonical h)
  case ahead => exact onPart_canonical (readCode_canonical h)
  case reuse => exact onPart_canonical (reuseCode_canonical h)
  case strike => exact onPart_canonical (strike_canonical h)
  case hostRead => exact onPart_canonical (hostRead_canonical h)
  case ingress => exact onPart_canonical (ingress_canonical h)
  case calicoVector => exact onPart_canonical (calicoVector_canonical h)
  case peer => exact onPart_canonical (peer_canonical h)
  case barWrite => exact powered_canonical h (gives_some.2 (barWrite_canonical h))
  case msixWrite => exact powered_canonical h (gives_some.2 (msixWrite_canonical h))
  case storeImage => exact onPart_canonical (storeImage_canonical h)
  case learn => exact onPart_canonical (learn_canonical h)
  case confirm => exact onPart_canonical (confirm_canonical h)
  case pointsDone => exact onPart_canonical (pointsDone_canonical h)

theorem timed_canonical {o : Host.Outcome State Fault Refusal} (ho : Ends o) : Ends (timed o) := by
  cases o with
  | next t => exact ends_next (tick_canonical (ho t rfl))
  | fault f => exact ends_fault f
  | refused r => exact ends_refused r

theorem step_canonical {s : State} (h : MemCanonical s) : Ends (step s) := by
  unfold step
  refine timed_canonical ?_
  split
  · exact take_canonical h
  · split
    · exact ends_fault _
    · exact ownTurn_canonical h

/-- Settles O8: each turn of a stream, event and other choice of a step leaves a canonical memory, by the lemmas on what
they are made of. -/
theorem memoryStaysCanonical : Obligations.MemoryStaysCanonical := by
  unfold Obligations.MemoryStaysCanonical
  exact fun _ t h e => step_canonical h t e
end Sys2Proof.Machine
end
